-- ==== Sys2Proof/Word.lean ====
section
/-!
DEFINITION. The word types of the machine: 64-bit registers, bytes and thread masks
(spec/14 R268, spec/00 R3, R9).
-/

namespace Sys2Proof

/-- A 64-bit register or value (R170, R268). -/
abbrev Word := BitVec 64

/-- One byte of memory (R3). -/
abbrev Byte := BitVec 8

/-- One bit per thread of a group: bit t stands for thread t (R9, R174). -/
abbrev Mask := BitVec 32

end Sys2Proof
end

