-- ==== Sys2Proof/Syntax.lean ====
section
/-!
DEFINITION. The instructions and events of the Sheanaez: one constructor of Instr per row of spec/opcode_table.json,
and the typed operands they carry (spec/15 R284-R299; spec/95 for the events).
-/

namespace Sys2Proof

/-! ### Operands of program instructions -/

/-- A 7-bit operand code: `v0`-`v95` are codes 0-95, `g0`-`g31` are 96-127 (R289). -/
inductive Opd where
  | v (n : Fin 96)
  | g (n : Fin 32)
  deriving DecidableEq, Repr

/-- The length of an instruction in words (R284). -/
inductive Form where
  | w32 | w64 | w96
  deriving DecidableEq, Repr

/-- The B source: a register, the 7-bit immediate (K = 1), or the 32-bit literal of the 96-bit form (R287, R290). -/
inductive BSrc where
  | reg (r : Opd)
  | imm (n : BitVec 7)
  | lit (n : BitVec 32)
  deriving DecidableEq, Repr

/-- KP and PN: the predicate register and its negation (R286). -/
structure Pred where
  k : Fin 8
  neg : Bool
  deriving DecidableEq, Repr

/-- The fifteen element types, ET codes 0-14 (R268). -/
inductive ET where
  | z8 | s8 | z16 | s16 | z32 | s32 | z64 | s64 | f64 | f32 | f16 | bf16 | e4m3 | e5m2 | e2m1
  deriving DecidableEq, Repr

/-- The fields of an ordinary-form instruction (R285, R286). U and OPC follow from the constructor and D; FN is the
constructor's own sub-function argument. In the 32-bit form the fields of the second word hold their defaults (R288). -/
structure Ord where
  form : Form
  d : Opd
  a : Opd
  b : BSrc
  c : Opd
  pred : Pred
  et : ET
  imm : BitVec 8
  moda : BitVec 3
  modb : BitVec 2
  deriving DecidableEq, Repr

/-- The fields of a branch-form instruction (R295). -/
structure Branch where
  off : BitVec 21
  a : Opd
  pred : Pred
  deriving DecidableEq, Repr

/-- One entry of a `switch` case table: the value and the signed offset in 4-byte units (R263). -/
structure SwCase where
  value : BitVec 32
  off : BitVec 32
  deriving DecidableEq, Repr

/-! ### Sub-functions (FN codes of R299, in order from 0) -/

inductive LoHi where | lo | hi deriving DecidableEq, Repr
inductive QuotRem where | quotient | remainder deriving DecidableEq, Repr
inductive AbsNeg where | abs | neg deriving DecidableEq, Repr
inductive Dir where | left | right deriving DecidableEq, Repr
inductive Rel where | eq | ne | lt | le | gt | ge deriving DecidableEq, Repr
inductive FRel where | eq | ne | lt | le | gt | ge | un | ord deriving DecidableEq, Repr
inductive MinMax where | addmin | addmax deriving DecidableEq, Repr
inductive BitsFn where | clz | popc | brev | ffs deriving DecidableEq, Repr
inductive SadFn where | sad | avg deriving DecidableEq, Repr
inductive SgnFn where | abs | neg | copysign deriving DecidableEq, Repr
inductive FsfFn where | exp2 | log2 | sin | cos | tanh | sigmoid deriving DecidableEq, Repr
/-- The four rounding modes (R275), which are also the sub-functions of `frnd`. -/
inductive Rnd where | rne | rtz | rdn | rup deriving DecidableEq, Repr
inductive CodeFn where | decode | encode deriving DecidableEq, Repr
inductive MovFn where | mov | movi | rdi | wri deriving DecidableEq, Repr
inductive ScanOp where | add | min | max | and | or | xor deriving DecidableEq, Repr
inductive VoteFn where | any | all | ballot deriving DecidableEq, Repr
inductive JmpFn where | direct | indirect deriving DecidableEq, Repr
inductive YieldFn where | yield | sleepUntil deriving DecidableEq, Repr
inductive AcqFn where | eq | ge | take deriving DecidableEq, Repr
inductive RelFn where | store | add | give deriving DecidableEq, Repr
inductive AtomFn where
  | add | smin | smax | zmin | zmax | and | or | xor | xchg | inc | dec deriving DecidableEq, Repr
inductive FatomFn where | addF32 | minF32 | maxF32 | addBf16 deriving DecidableEq, Repr
inductive CbarFn where | arriveWait | arrive | wait deriving DecidableEq, Repr
inductive QpopFn where | blocking | try_ deriving DecidableEq, Repr
inductive RayMode where | closest | any deriving DecidableEq, Repr

/-! ### Operands of events -/

/-- A group's place: die, core (identity), lane and resident slot (the GRP layout of R101). -/
structure Gid where
  die : Nat
  core : Nat
  lane : Nat
  slot : Nat
  deriving DecidableEq, Repr

/-- One sample of the service controller's sensors (R17): junction temperatures of the dies in °C, DRAM temperatures of the
stacks in °C (R48), the module power in watts, the input in millivolts, and whether a rail or a clock is out of range (R138). -/
structure Sample where
  junction : List Nat
  dram : List Nat
  power : Nat
  inputMv : Nat
  railBad : Bool
  clockBad : Bool
  deriving DecidableEq, Repr

/-- A 128-byte flit: the header fields of R25 and the payload bytes. -/
structure Flit where
  last : Bool
  scope : BitVec 3
  len : BitVec 4
  paddr : BitVec 48
  tag : BitVec 16
  part : BitVec 6
  op : BitVec 6
  src : BitVec 22
  dst : BitVec 22
  payload : List Byte
  deriving DecidableEq, Repr

/-- A write of MCMD by the host, or the same command inside a management session (R121). The operands are MOPND's, or
the session's own. -/
structure Mcmd where
  tag : BitVec 16
  reserved : BitVec 32
  session : Option (List Byte)
  deriving DecidableEq, Repr

/-- What the boot chain finds and what the management port sets (R27, R41, R134): the outcome of the checks of images A
and B of both stages stands in the state; the device identifier, the real-time clock and the unit modes arrive here. -/
structure BootIn where
  devid : BitVec 22
  rtc : Word
  /-- HBM units in cache mode, as (stack, unit) (R41). -/
  hbmCache : List (Nat × Nat)
  /-- tier units in cache mode, as (stack, unit) (R41). -/
  tierCache : List (Nat × Nat)
  deriving DecidableEq, Repr

/-- A message of a management session (R121): the opening share, a protected message, or the end of the session. -/
inductive SessionMsg where
  | start (share : BitVec 256)
  | sealed (bytes : List Byte)
  | finish
  deriving DecidableEq, Repr

/-- The three responses to a page-request group (R133). -/
inductive PriResp where | success | invalid | failure
  deriving DecidableEq, Repr

/-- What a scrub read of one atom finds (R52, R53). -/
inductive ScrubRead where | clean | corrected | uncorrectable
  deriving DecidableEq, Repr

/-- A row of one bank of one pseudo-channel of one stack (R54). -/
structure RowId where
  stack : Nat
  pc : Nat
  bank : Nat
  row : Nat
  deriving DecidableEq, Repr

/-- The register a REGISTER_WRITE names (R6): a register of the mailbox BAR, written by the host, or a special register
written by the issuing split (R416). -/
inductive RegTarget where
  | mailbox (offset : Nat) (width : Nat)
  | special (selector : BitVec 12)
  | priAllocation (function : Nat)
  deriving DecidableEq, Repr

/-! ### The instructions and events -/

/-- Every row of spec/opcode_table.json, in its order: first the part's own operations and events, then the program
instructions, then the three remaining events. -/
inductive Instr where
  /-- SAMPLE_PERIOD (R17): Every 10 µs sample period the service controller samples every sensor and acts on the samples. -/
  | samplePeriod (x : Sample)
  /-- TAMPER_ALARM (R138): A break of the enclosure mesh raises the tamper alarm under the fixed ERASE policy. -/
  | tamperAlarm
  /-- CLOCK_ALARM (R138): A clock more than 2 % off nominal raises the clock alarm under its policy. -/
  | clockAlarm
  /-- SPARE_CORE_SUBSTITUTION (R21): A core error or a repair request stops placement on the core and pre-empts its resident groups. -/
  | spareCoreSubstitution (die core : Nat) (poisoned : Bool)
  /-- SUBSTITUTION_DRAIN_DONE (R21): When the core's drain ends, the controller writes the identity to a spare, fences the failing core and resumes the groups on the spare. -/
  | substitutionDrainDone (die : Nat)
  /-- ROW_REMAP (R55): The controller starts a remap: it writes the persistent entry and begins copying the row to a spare row in refresh windows. -/
  | rowRemap
  /-- REMAP_COPY_DONE (R55): When the copy of the row completes, the entry is written into SRAM copies A and B. -/
  | remapCopyDone
  /-- LANE_SPARING (R22): A failed Craley lane takes its port from 4 lanes to 3, and the flits in flight on it are retransmitted. -/
  | laneSparing (port lane : Nat)
  /-- QUIESCE_COMPLETE (R23): When every group is pre-empted and every engine command is at an element boundary, group state is saved and the partition enters DRY. -/
  | quiesceComplete (part : Nat)
  /-- QUIESCE_TIMEOUT (R23): After 200 µs in QUIESCING the remaining groups are pre-empted by force, their launches are voided, and the partition enters DRY. -/
  | quiesceTimeout (part : Nat)
  /-- REPAIR_COMPLETE (R23): In DRY a finished repair moves the partition to RESTORING, which re-verifies the part and reloads remap tables and keys. -/
  | repairComplete (part : Nat)
  /-- REPAIR_FAILED (R23): In DRY a failed repair reports the partition FAILED. -/
  | repairFailed (part : Nat)
  /-- VERIFICATION_PASSED (R23): In RESTORING the saved groups resume, the held doorbells are released and the partition returns to RUNNING. -/
  | verificationPassed (part : Nat)
  /-- VERIFICATION_FAILED (R23): In RESTORING a failed verification reports the partition FAILED. -/
  | verificationFailed (part : Nat)
  /-- READ_REQUEST (R26): A read-request flit is served at the destination and answered with a read response. -/
  | readRequest (f : Flit)
  /-- READ_RESPONSE (R26): A read-response flit delivers data to the waiting remote load. -/
  | readResponse (f : Flit)
  /-- WRITE (R26): A write flit is performed at the destination and acknowledged. -/
  | write (f : Flit)
  /-- WRITE_ACKNOWLEDGE (R26): A write-acknowledge flit completes a remote write. -/
  | writeAcknowledge (f : Flit)
  /-- ATOMIC_REQUEST (R28): An atomic-request flit is performed at the die buffer that homes the address. -/
  | atomicRequest (f : Flit)
  /-- ATOMIC_RESPONSE (R26): An atomic-response flit returns the old value of a remote atomic. -/
  | atomicResponse (f : Flit)
  /-- NEGATIVE_ACKNOWLEDGE (R29): A negative acknowledge for an access without a window makes the issuing thread trap with 0x07. -/
  | negativeAcknowledge (f : Flit)
  /-- COLLECTIVE_DATA (R34): A collective-data flit is received by the collective engine. -/
  | collectiveData (f : Flit)
  /-- TIME_MESSAGE (R35): An IEEE 1588 time message disciplines device time, loads it at first lock, or slews it. -/
  | timeMessage (locked : Bool) (time : Word)
  /-- MALFORMED_FLIT (R26): A flit that carries an unlisted OP code is discarded and logged as malformed. -/
  | malformedFlit (f : Flit)
  /-- REMOTE_ACCESS_TIMEOUT (R29): A remote access with no response in 100 µs is unreachable: a load or atomic traps with 0x0D, and a store is reported by machine check. -/
  | remoteAccessTimeout (tag : BitVec 16)
  /-- FIRST_LOCK_TIMEOUT (R35): With no lock within 10 s of reset, device time is loaded from the real-time clock and time unlocked is reported. -/
  | firstLockTimeout
  /-- TIME_LOCK_LOSS (R35): On loss of lock the module holds over on its own oscillator and reports time unlocked. -/
  | timeLockLoss
  /-- MEMORY_REQUEST (R45): The channel scheduler serves a coalesced request whole, in its frame slots. -/
  | memoryRequest (stack pc : Nat)
  /-- LOAD_DATA_LAND (R173): Returned sectors write each thread's destination registers piecewise and may complete the instruction's counter. -/
  | loadDataLand (op : Nat)
  /-- REFRESH_WINDOW (R48): In slots 60–63 of each frame a pseudo-channel refreshes one bank at a time, and copies remaps and scrubs. -/
  | refreshWindow (stack pc : Nat)
  /-- POWERDOWN_ENTRY (R49): When the idle timer reaches 64 the pseudo-channel enters power-down, after a checkpoint of live slice accumulators. -/
  | powerdownEntry (stack pc : Nat)
  /-- SELFREFRESH_ENTRY (R49): When the idle timer reaches 160,000 with no guaranteed reservation and no waiting ldfe, the pseudo-channel enters self-refresh. -/
  | selfrefreshEntry (stack pc : Nat)
  /-- POWERDOWN_EXIT (R49): A request to a powered-down pseudo-channel exits in 16 cycles, restores the slice, and is then served. -/
  | powerdownExit (stack pc : Nat)
  /-- SELFREFRESH_EXIT (R49): A request to a self-refreshing pseudo-channel exits in 640 cycles and is then served. -/
  | selfrefreshExit (stack pc : Nat)
  /-- SCRUB (R53): A scrub read writes corrected errors back and queues a row for remap at 16 corrected errors in a pass. -/
  | scrub (addr : Nat) (found : ScrubRead)
  /-- REMAP_RELOAD_COMPLETE (R56): The reload from the persistent copy either rewrites the copies and scrubs the bank, or fails the bank. -/
  | remapReloadComplete (stack pc bank : Nat) (correct : Bool)
  /-- BANK_SCRUB_COMPLETE (R56): After the scrub, poison is written to every atom in the fence log, the log is cleared and the bank reopens. -/
  | bankScrubComplete (stack pc bank : Nat)
  /-- LDFE_TIMEOUT (R59): An ldfe whose atom stays empty for 1 ms traps with 0x13. -/
  | ldfeTimeout (op : Nat)
  /-- ACCORD_TILE_LOAD (R72): At its arrival at the home stack a tile load reads the handle record once, and the slices compute each element with the notes. -/
  | accordTileLoad (op : Nat)
  /-- FOLD (R77): The fold engine sets FIP and writes each amended element of the snapshot into the destination region. -/
  | fold (cmd : Nat)
  /-- FOLD_SWAP (R77): When every element is written the record is changed indivisibly, FIP clears and the sync word is released. -/
  | foldSwap (cmd : Nat)
  /-- COPY_COMMAND (R405): A copy engine copies the box of rows row by row. -/
  | copyCommand (cmd : Nat)
  /-- GATHER_POOL (R86): The gather-pool engine pools each lookup record's indexed rows in index order. -/
  | gatherPool (cmd : Nat)
  /-- MATRIX_VECTOR (R83): The bank chain computes y[v][m] in ascending k across the slices. -/
  | matrixVector (cmd : Nat)
  /-- COLLECTIVE (R409): The collective engine matches the participants and reduces in ascending rank. -/
  | collective (cmd : Nat)
  /-- COMMAND_COMPLETION (R90): An engine command writes its completion record, adds 1 to the counter word as a release, and decrements the group's C counter. -/
  | commandCompletion (cmd : Nat)
  /-- COMMAND_REVOKE (R89): An unmap or migration of a pinned page stops the command at element boundaries, saves partial sums and completes it revoked. -/
  | commandRevoke (cmd : Nat)
  /-- RAY_ARRIVAL (R103): Rays that arrive at a treelet queue are appended on-die or spilled to the spill area. -/
  | rayArrival (ray : Nat)
  /-- ENGINE_TAKE (R104): A free traversal engine chooses a queue and takes up to 8 rays from its on-die head. -/
  | engineTake (stack engine : Nat)
  /-- TRAVERSAL_PASS (R102): An engine gives each held ray one node or primitive test, and rays finish, restart or are forwarded. -/
  | traversalPass (stack engine : Nat)
  /-- SPILL_MOVE_IN (R427): When the read of the spill area completes, the moved-in spilled rays become takeable on-die. -/
  | spillMoveIn (stack : Nat) (queue : Nat)
  /-- RECORD_ARRIVAL (R108): A traversal result record arrives at the issuing die's die buffer and is held or released in slot order. -/
  | recordArrival (record : Nat)
  /-- FILTER_REQUEST (R111): A filter engine reads texels or hash-grid entries and writes the filtered results back. -/
  | filterRequest (op : Nat)
  /-- RASTER_DRAW (R116): The raster engine sets up triangles and writes ID and depth planes. -/
  | rasterDraw (die : Nat)
  /-- REPROJECT (R117): A reproject draw keeps or marks for redo each pixel from the motion and previous planes. -/
  | reproject (die : Nat)
  /-- DRAW_COMPLETION (R118): After every plane write the raster engine writes the completion record as a die-scope release. -/
  | drawCompletion (die : Nat)
  /-- PCREATE (R122): Mailbox command that creates an empty partition and its key. -/
  | pcreate (m : Mcmd)
  /-- PDESTROY (R122): Mailbox command that ends the partition's launches, erases its key, zeroes its units and revokes its grants. -/
  | pdestroy (m : Mcmd)
  /-- PGRANT (R123): Mailbox command that grants resource items to a partition, all or none. -/
  | pgrant (m : Mcmd)
  /-- PREVOKE (R123): Mailbox command that takes resource items back, all or none. -/
  | prevoke (m : Mcmd)
  /-- PBASES (R122): Mailbox command that sets a partition's initial trap vector and table bases. -/
  | pbases (m : Mcmd)
  /-- CTXWR (R127): Mailbox command that writes a graphics context record and admits its frame reservation. -/
  | ctxwr (m : Mcmd)
  /-- DRYDN (R122): Mailbox command that issues a drydown request for named parts of a partition. -/
  | drydn (m : Mcmd)
  /-- PQUERY (R122): Mailbox command that returns a partition's state and granted amounts. -/
  | pquery (m : Mcmd)
  /-- REPAIR_CORE (R21): Mailbox REPAIR with byte 0 = 0 requests spare-core substitution. -/
  | repairCore (m : Mcmd)
  /-- REPAIR_ROW (R55): Mailbox REPAIR with byte 0 = 1 requests a row remap. -/
  | repairRow (m : Mcmd)
  /-- REPAIR_LANE (R22): Mailbox REPAIR with byte 0 = 2 requests lane sparing. -/
  | repairLane (m : Mcmd)
  /-- APOLICY (R138): Mailbox command that sets an alarm source's policy. -/
  | apolicy (m : Mcmd)
  /-- RESUME (R139): Mailbox command that returns a HALTED module to ATTESTED and resumes the saved groups. -/
  | resume (m : Mcmd)
  /-- RESET (R139): Mailbox command that moves a LOCKED module to BOOTED and re-runs the boot chain. -/
  | reset (m : Mcmd)
  /-- ATTEST (R135): Mailbox command that returns the signed 320-byte attestation report for a nonce. -/
  | attest (m : Mcmd)
  /-- FWSTAGE (R134): Mailbox command that reads an image into the inactive slot and checks its signature. -/
  | fwstage (m : Mcmd)
  /-- FWSWITCH (R136): Mailbox command that switches to the staged, checked firmware image. -/
  | fwswitch (m : Mcmd)
  /-- DBGNONCE (R124): Mailbox command that returns a fresh 32-byte debug nonce. -/
  | dbgnonce (m : Mcmd)
  /-- DBGGRANT (R124): Mailbox command that grants debug to a partition when the credential verifies. -/
  | dbggrant (m : Mcmd)
  /-- DBGREVOKE (R124): Mailbox command that ends a partition's debug grant and clears its comparators and single-step bits. -/
  | dbgrevoke (m : Mcmd)
  /-- UNKNOWN_OPCODE (R122): A mailbox command with an unassigned opcode completes with CODE 6. -/
  | unknownOpcode (opcode : BitVec 16) (m : Mcmd)
  /-- MAILBOX_COMPLETE (R121): On completion of a command the controller writes MRES, then MSTAT with BUSY 0, then signals MSI-X vector 0. -/
  | mailboxComplete
  /-- MANAGEMENT_SESSION (R121): The controller and a management agent agree a session key by X25519 and exchange protected commands. -/
  | managementSession (m : SessionMsg)
  /-- DOORBELL_WRITE (R129): A VF doorbell write accepts a new TAIL, or faults the ring, or is discarded. -/
  | doorbellWrite (vf offset : Nat) (value : Word)
  /-- RING_ENTRY (R130): The device reads a ring packet, presents it to the arbiter, writes the status entry, increments HEAD and signals MSI-X. -/
  | ringEntry (ctx : Nat)
  /-- FUNCTION_LEVEL_RESET (R131): A VF's function-level reset clears its contexts and drops the entries not yet presented. -/
  | functionLevelReset (vf : Nat)
  /-- PF_HOT_RESET (R119): A hot reset of the PF resets the physical function. -/
  | pfHotReset
  /-- ATS_INVALIDATION (R132): An ATS invalidation drops the cached translations, releases the pins and then completes. -/
  | atsInvalidation (start length : Nat)
  /-- PAGE_REQUEST_RESPONSE (R133): A PRI response re-fetches the translations and re-issues the faulting threads, or makes them trap with 0x07. -/
  | pageRequestResponse (index : Nat) (r : PriResp)
  /-- BOOT (R134): At power-on or reset the boot chain checks each image signature, with a fallback to image B. -/
  | boot (b : BootIn)
  /-- LAUNCH_ADMISSION (R163): The arbiter refuses, holds or activates a presented launch packet under the admission test. -/
  | launchAdmission
  /-- LAUNCH_START (R144): When device time reaches START, a held launch becomes active and dispatches its groups. -/
  | launchStart (seq : Nat)
  /-- GROUP_DISPATCH (R146): When residency frees, the arbiter places a waiting group on the lane chosen by the placement rule. -/
  | groupDispatch (seq : Nat)
  /-- DEADLINE_PASS (R154): At a guaranteed launch's deadline, pending marks apply at the miss and a launch with no mark ends late. -/
  | deadlinePass (seq : Nat)
  /-- STAGE_GROUP_FORMATION (R422): The arbiter forms a group of an eligible stage from up to 32 queued records. -/
  | stageGroupFormation (seq stage : Nat)
  /-- FLUSH_TIMEOUT (R159): A head record that has waited FLUSH ns makes its stage eligible. -/
  | flushTimeout (seq stage : Nat)
  /-- LAUNCH_END (R439): A launch ended by the supervisor or by a double trap discards its groups and its queued records. -/
  | launchEnd (seq : Nat)
  /-- LAUNCH_COMPLETION (R162): When nothing of a launch remains, the arbiter writes its completion token with DONE last and frees the reservation. -/
  | launchCompletion (seq : Nat)
  /-- GROUP_PREEMPT (R199): The lane stops a group at its boundaries and drains its loads. -/
  | groupPreempt (g : Gid)
  /-- PREEMPT_LOAD_ABANDON (R199): A load not landed within 4 µs of the drain is abandoned and its late sectors are discarded. -/
  | preemptLoadAbandon (g : Gid)
  /-- GROUP_SAVE (R200): After the drain the arbiter saves the group image and the team's local store, less its scratch range. -/
  | groupSave (g : Gid)
  /-- GROUP_RESUME (R202): A pre-empted group resumes at its saved splits, or at the restart label inside a matrix block. -/
  | groupResume (g : Gid)
  /-- REJOIN_EXPIRY (R179): At a rejoin entry's expiry the parked splits merge with PART set and the entry closes. -/
  | rejoinExpiry (g : Gid) (entry : Nat)
  /-- SLEEP_WAKE (R351): A split sleeping in yield.sleep.until becomes ready when %time reaches its time. -/
  | sleepWake (g : Gid) (slot : Bool)
  /-- MMA_SLOT_END (R392): At the end of a member's 8-cycle slot its tile is written and its T count falls. -/
  | mmaSlotEnd (g : Gid)
  /-- TRACE_BLOCK_TIMEOUT (R207): A trace block 4,096 cycles after its first packet is written out. -/
  | traceBlockTimeout (g : Gid)
  /-- TRACE_BLOCK_WRITE (R210): A completed trace block is written to the ring and WPTR advances, or the block is dropped and counted as lost. -/
  | traceBlockWrite (die core : Nat)
  /-- PAGE_WALK (R218): A die walker completes a four-level walk and yields a translation or a fault. -/
  | pageWalk (die core part : Nat) (va : Word)
  /-- MAP_FILL (R222): The map unit fills a mapped 256-byte local block from its global range. -/
  | mapFill (g : Gid) (block : Nat)
  /-- CORE_CACHE_EVICTION (R224): An evicted core-cache line writes its dirty bytes to its home. -/
  | coreCacheEviction (die core : Nat) (line : Nat)
  /-- DBG_WRITE (R205): A write of %dbg selects a split for single step and may move a spilled split live. -/
  | dbgWrite (value : Word)
  /-- DBGVAL_WRITE (R205): A write of %dbgval writes register REG of thread THR as it was held at handler entry. -/
  | dbgvalWrite (value : Word)
  /-- LSZ_WRITE (R201): A write of %lsz sets SCRB, or raises 0x05 when SCRB is above SIZE or not a multiple of 256. -/
  | lszWrite (value : Word)
  /-- RWIN_WRITE (R416): A write of %rwin sets a stack's result window, empties its bits, or raises 0x07. -/
  | rwinWrite (stack : Fin 12) (value : Word)
  /-- TVEC_WRITE (R416): A supervisor write of %tvec sets the handler address, and a misaligned write is discarded. -/
  | tvecWrite (value : Word)
  /-- TABLE_BASE_WRITE (R212): A supervisor write of a table base sets it, and a misaligned value is discarded. -/
  | tableBaseWrite (which : Fin 7) (value : Word)
  /-- REGISTER_WRITE (R6): A write of any other register stores its RW fields and discards its reserved bits. -/
  | registerWrite (r : RegTarget) (value : Word)
  /-- NOP (R307): No effect. -/
  | nop (x : Ord)
  /-- ADD (R307): Integer add per sub-element, wrapping or saturating. -/
  | add (x : Ord)
  /-- SUB (R307): Integer subtract per sub-element. -/
  | sub (x : Ord)
  /-- MUL (R308): Integer multiply, low or high half. -/
  | mul (fn : LoHi) (x : Ord)
  /-- MAD (R308): Integer multiply-add, low or high half. -/
  | mad (fn : LoHi) (x : Ord)
  /-- DIV (R309): Integer quotient or remainder; a zero divisor sets the sticky DZ bit. -/
  | div (fn : QuotRem) (x : Ord)
  /-- MIN (R307): Integer minimum. -/
  | min (x : Ord)
  /-- MAX (R307): Integer maximum. -/
  | max (x : Ord)
  /-- IABS (R307): Integer absolute value or negation. -/
  | iabs (fn : AbsNeg) (x : Ord)
  /-- SHL (R312): Shift left. -/
  | shl (x : Ord)
  /-- SHR (R312): Logical shift right. -/
  | shr (x : Ord)
  /-- SAR (R312): Arithmetic shift right. -/
  | sar (x : Ord)
  /-- ROT (R312): Rotate left or right. -/
  | rot (fn : Dir) (x : Ord)
  /-- CMP (R313): Integer compare of sub-element 0 into a predicate. -/
  | cmp (fn : Rel) (x : Ord)
  /-- SEL (R314): Select A or B by a predicate. -/
  | sel (x : Ord)
  /-- ADDMIN (R310): Add, then minimum or maximum with C. -/
  | addmin (fn : MinMax) (x : Ord)
  /-- BFE (R316): Bit-field extract. -/
  | bfe (x : Ord)
  /-- BFI (R316): Bit-field insert. -/
  | bfi (x : Ord)
  /-- BITS (R317): Leading zeros, population count, bit reverse or find first set. -/
  | bits (fn : BitsFn) (x : Ord)
  /-- BMUX (R315): Bitwise choice between two functions of A and B by C. -/
  | bmux (x : Ord)
  /-- AND (R315): Bitwise and. -/
  | and (x : Ord)
  /-- OR (R315): Bitwise or. -/
  | or (x : Ord)
  /-- XOR (R315): Bitwise exclusive or. -/
  | xor (x : Ord)
  /-- SAD (R311): Sum of absolute difference, or rounded average. -/
  | sad (fn : SadFn) (x : Ord)
  /-- FADD (R318): Float add, rounded once. -/
  | fadd (x : Ord)
  /-- FSUB (R318): Float subtract, rounded once. -/
  | fsub (x : Ord)
  /-- FMUL (R318): Float multiply, rounded once. -/
  | fmul (x : Ord)
  /-- FFMA (R318): Fused float multiply-add, rounded once. -/
  | ffma (x : Ord)
  /-- FMIN (R319): Float minimum. -/
  | fmin (x : Ord)
  /-- FMAX (R319): Float maximum. -/
  | fmax (x : Ord)
  /-- FCMP (R320): Float compare into a predicate. -/
  | fcmp (fn : FRel) (x : Ord)
  /-- FSGN (R321): Float sign operations on the sign bit alone. -/
  | fsgn (fn : SgnFn) (x : Ord)
  /-- FRCP (R322): Correctly rounded reciprocal. -/
  | frcp (x : Ord)
  /-- FRSQ (R322): Correctly rounded reciprocal square root. -/
  | frsq (x : Ord)
  /-- FSQRT (R322): Correctly rounded square root. -/
  | fsqrt (x : Ord)
  /-- FDIV (R322): Correctly rounded division. -/
  | fdiv (x : Ord)
  /-- FSF (R323): Special function within a stated bound. -/
  | fsf (fn : FsfFn) (x : Ord)
  /-- FCLASS (R324): Float class mask. -/
  | fclass (x : Ord)
  /-- FRND (R325): Round to an integral value. -/
  | frnd (fn : Rnd) (x : Ord)
  /-- FDOT (R326): Dot product of sub-elements, summed sequentially. -/
  | fdot (x : Ord)
  /-- CVT (R327): Conversion between element types. -/
  | cvt (x : Ord)
  /-- PACK (R328): Join halves of two registers. -/
  | pack (fn : LoHi) (x : Ord)
  /-- UNPACK (R328): Widen one half of A. -/
  | unpack (fn : LoHi) (x : Ord)
  /-- PERM (R329): Byte permute. -/
  | perm (x : Ord)
  /-- INS (R330): Insert a sub-element. -/
  | ins (x : Ord)
  /-- EXT (R330): Extract a sub-element. -/
  | ext (x : Ord)
  /-- BSCALE (R331): Decode or encode scaled e2m1 values. -/
  | bscale (fn : CodeFn) (x : Ord)
  /-- MOV (R332): Move, move immediate, or indirect register read or write. -/
  | mov (fn : MovFn) (x : Ord)
  /-- XPREV (R337): Pass A to the next higher participant. -/
  | xprev (x : Ord)
  /-- XNEXT (R337): Pass A to the next lower participant. -/
  | xnext (x : Ord)
  /-- XSEL (R338): Read a sub-element of a thread chosen per thread. -/
  | xsel (x : Ord)
  /-- XBCAST (R338): Broadcast a sub-element of one uniform thread. -/
  | xbcast (x : Ord)
  /-- XSCAN (R339): Inclusive or exclusive scan across participants. -/
  | xscan (fn : ScanOp) (x : Ord)
  /-- XRED (R340): Reduction across participants into a group register. -/
  | xred (fn : ScanOp) (x : Ord)
  /-- XVOTE (R341): Any, all or ballot vote over the participants. -/
  | xvote (fn : VoteFn) (x : Ord)
  /-- XMATCH (R342): Mask of the participants with an equal pattern. -/
  | xmatch (x : Ord)
  /-- BR (R345): Conditional branch that may diverge under a new rejoin entry. -/
  | br (x : Branch)
  /-- JMP (R346): Direct or indirect jump, which may divide the split. -/
  | jmp (fn : JmpFn) (x : Branch)
  /-- CALL (R346): Direct or indirect call that writes the link v15 and adds 1 to DEPTH. -/
  | call (fn : JmpFn) (x : Branch)
  /-- RET (R347): Return to each thread's link, grouped by target. -/
  | ret (x : Ord)
  /-- SWITCH (R348): Multi-way branch through a case table. -/
  | switch (a : Opd) (et : ET) (cases : List SwCase) (dflt : BitVec 32)
  /-- REJOIN (R349): Park the split at a rejoin, or continue, and merge when all arrive. -/
  | rejoin (x : Ord)
  /-- EXIT (R350): End the executing threads and settle the rejoin table. -/
  | exit (x : Ord)
  /-- YIELD (R351): Yield the lane, or sleep until a device time. -/
  | yield (fn : YieldFn) (x : Ord)
  /-- LD (R357): Global load on the CORE path. -/
  | ld (x : Ord)
  /-- ST (R358): Global store on the CORE path. -/
  | st (x : Ord)
  /-- LDLS (R359): Local-store load. -/
  | ldls (x : Ord)
  /-- STLS (R359): Local-store store. -/
  | stls (x : Ord)
  /-- LDFE (R361): Load that waits until its atom is full. -/
  | ldfe (x : Ord)
  /-- STFE (R361): Store that sets its atom full and releases waiting ldfe requests. -/
  | stfe (x : Ord)
  /-- CLRFE (R361): Set an atom empty. -/
  | clrfe (x : Ord)
  /-- PREF (R360): Prefetch a line without trapping. -/
  | pref (x : Ord)
  /-- LSMAP (R362): Bind a local-store range to a global range. -/
  | lsmap (x : Ord)
  /-- LSUNMAP (R363): Write back and remove a mapped binding. -/
  | lsunmap (x : Ord)
  /-- LSWB (R363): Write back the dirty bytes of a mapped range. -/
  | lswb (x : Ord)
  /-- LSINV (R363): Drop a mapped range's fill state and dirty masks. -/
  | lsinv (x : Ord)
  /-- FENCE_SCOPE (R240): Order all of the group's accesses at a scope. -/
  | fenceScope (x : Ord)
  /-- FENCE_PATH (R241): Order the group's writes of one path before its operations on another. -/
  | fencePath (x : Ord)
  /-- FENCE_VIEW (R242): Write back and invalidate a range in every view. -/
  | fenceView (x : Ord)
  /-- BIND (R366): Bind a range to a sync word. -/
  | bind (x : Ord)
  /-- UNBIND (R366): Remove a range from its binding. -/
  | unbind (x : Ord)
  /-- ACQ (R367): Wait at a sync word's home for a condition, then acquire. -/
  | acq (fn : AcqFn) (x : Ord)
  /-- REL (R368): Release the bound writes, then write the sync word. -/
  | rel (fn : RelFn) (x : Ord)
  /-- ATOM (R370): Integer atomic read-modify-write at the home. -/
  | atom (fn : AtomFn) (x : Ord)
  /-- CAS (R371): Compare and swap at the home. -/
  | cas (x : Ord)
  /-- FATOM (R372): Float atomic at the home. -/
  | fatom (fn : FatomFn) (x : Ord)
  /-- ATOMLS (R373): Atomic on local store. -/
  | atomls (fn : AtomFn) (x : Ord)
  /-- CBAR (R374): Team barrier arrive and/or wait. -/
  | cbar (fn : CbarFn) (x : Ord)
  /-- WAIT (R375): Wait until the outstanding counters fall to their thresholds. -/
  | wait (l s c t : BitVec 6)
  /-- QPUSH (R377): Push entries to a queue in thread order. -/
  | qpush (x : Ord)
  /-- QPOP (R378): Pop entries from a queue, blocking or try. -/
  | qpop (fn : QpopFn) (x : Ord)
  /-- EMIT (R380): Send records to a later stage, blocking while its queue is full. -/
  | emit (x : Ord)
  /-- EMIT_REC (R380): Send records to the issuing stage's own queue, with a depth limit and no blocking. -/
  | emitRec (x : Ord)
  /-- LAUNCH (R381): Submit a launch packet from eight group registers. -/
  | launch (x : Ord)
  /-- RACQ (R382): Acquire an extended register block. -/
  | racq (x : Ord)
  /-- RREL (R382): Release an extended register block. -/
  | rrel (x : Ord)
  /-- MMA (R389): Gang matrix multiply-accumulate into a tile. -/
  | mma (x : Ord)
  /-- MMAS (R390): Block-scaled gang matrix multiply-accumulate. -/
  | mmas (x : Ord)
  /-- MZERO (R393): Zero the executing rows of a tile. -/
  | mzero (x : Ord)
  /-- MLD (R393): Load tile rows from global memory. -/
  | mld (x : Ord)
  /-- MST (R393): Store tile rows to global memory. -/
  | mst (x : Ord)
  /-- MRST_SET (R395): Open a matrix block with a restart label. -/
  | mrstSet (x : Branch)
  /-- MRST_END (R395): Close the matrix block. -/
  | mrstEnd (x : Branch)
  /-- MRD (R393): Read a chunk of a tile row into registers. -/
  | mrd (x : Ord)
  /-- ECMD (R402): Read, pin and queue an engine command. -/
  | ecmd (x : Ord)
  /-- RSEND (R411): Send a batch of rays into a scene. -/
  | rsend (fn : RayMode) (x : Ord)
  /-- TEX (R412): Filtered texture lookup on the FILT path. -/
  | tex (x : Ord)
  /-- HGRID (R412): Hash-grid lookup on the FILT path. -/
  | hgrid (x : Ord)
  /-- ACCLD (R397): Load an accord tile into local store. -/
  | accld (x : Ord)
  /-- ACC_ATTACH (R74): Append a note to a handle and release the sync word. -/
  | accAttach (x : Ord)
  /-- ACC_DETACH (R75): Remove a note from a handle, release the sync word, and supersede a fold of that note. -/
  | accDetach (x : Ord)
  /-- ACC_VERSION (R75): Read a handle's VERSION. -/
  | accVersion (x : Ord)
  /-- RAST (R413): Hand a draw record to the die's raster engine. -/
  | rast (x : Ord)
  /-- RDSR (R415): Read a special register. -/
  | rdsr (x : Ord)
  /-- WRSR (R415): Write a special register. -/
  | wrsr (x : Ord)
  /-- TRAP (R417): Raise a step-class trap 0x10 with a code. -/
  | trap (x : Ord)
  /-- ERET (R196): Leave handler mode and rebuild the faulting split. -/
  | eret (x : Ord)
  /-- BRK (R417): Raise a whole-class breakpoint trap 0x0E. -/
  | brk (x : Ord)
  /-- PFMAP (R419): Map a 64 KiB pool page for a faulting address. -/
  | pfmap (x : Ord)
  /-- TLBINV (R420): Invalidate translations and revoke pinned commands. -/
  | tlbinv (x : Ord)
  /-- TRACE_ON (R421): Turn Sillage tracing on. -/
  | traceOn (x : Ord)
  /-- TRACE_OFF (R421): Write the open block and turn tracing off. -/
  | traceOff (x : Ord)
  /-- TRACE_MARK (R421): Emit a MARK packet. -/
  | traceMark (x : Ord)
  /-- ILLEGAL_INSTRUCTION (R300): A fetched instruction word with LEN 11, a reserved opcode or opcode 0x7F raises 0x01 at decode as a whole-class trap. -/
  | illegalInstruction (words : List (BitVec 32))
  /-- STORE_PERFORMED (R355): A store is performed in the core cache or at its home, and its decrement of S may release a wait or let an exited group end. -/
  | storePerformed (op : Nat)
  /-- DIE_LINK_OUT_OF_SERVICE (R11): A die-to-die link goes out of service, and traffic between diagonal dies reroutes over the remaining three links. -/
  | dieLinkOutOfService (link : Nat)
  deriving DecidableEq, Repr

end Sys2Proof
end

