-- ==== Sys2Proof/Machine/Bits.lean ====
section
/-!
DEFINITION. Bit fields, sign extension, byte order and the codes of registers and element types, which the decoder,
the encoder and the meanings share (spec/00 R3; spec/14 R268; spec/15 R289).
-/

namespace Sys2Proof

/-- Bits [lo + len - 1 : lo] of a natural number. -/
def field (w lo len : Nat) : Nat := w / 2 ^ lo % 2 ^ len

/-- The value of a two's complement pattern of `len` bits. -/
def signed (len n : Nat) : Int :=
  if n % 2 ^ len < 2 ^ (len - 1) then (n % 2 ^ len : Nat) else (n % 2 ^ len : Nat) - (2 ^ len : Nat)

/-- The low `len` bits of an integer, as an unsigned pattern. -/
def unsigned (len : Nat) (i : Int) : Nat := (i % (2 ^ len : Nat)).toNat

/-- Little-endian value of bytes: the byte at the lowest address holds bits [7:0] (R3). -/
def leNat : List Byte → Nat
  | [] => 0
  | b :: bs => b.toNat + 256 * leNat bs

/-- The `n` bytes of a value in little-endian order (R3). -/
def leBytes : (n : Nat) → (x : Nat) → List Byte
  | 0, _ => []
  | n + 1, x => BitVec.ofNat 8 x :: leBytes n (x / 256)

/-- The 7-bit code of an operand (R289). -/
def Opd.code : Opd → Nat
  | .v n => n.val
  | .g n => 96 + n.val

/-- The operand a 7-bit code names (R289); only the low 7 bits are read. -/
def Opd.ofCode (n : Nat) : Opd :=
  if h : n % 128 < 96 then .v ⟨n % 128, h⟩
  else .g ⟨n % 128 - 96, by omega⟩

/-- Whether the operand is a group register. -/
def Opd.isG : Opd → Bool
  | .v _ => false
  | .g _ => true

/-- The ET code (R268). -/
def ET.code : ET → Nat
  | .z8 => 0 | .s8 => 1 | .z16 => 2 | .s16 => 3 | .z32 => 4 | .s32 => 5 | .z64 => 6 | .s64 => 7
  | .f64 => 8 | .f32 => 9 | .f16 => 10 | .bf16 => 11 | .e4m3 => 12 | .e5m2 => 13 | .e2m1 => 14

/-- The element type of an ET code; code 15 is reserved (R298). -/
def ET.ofCode : Nat → Option ET
  | 0 => some .z8 | 1 => some .s8 | 2 => some .z16 | 3 => some .s16 | 4 => some .z32 | 5 => some .s32
  | 6 => some .z64 | 7 => some .s64 | 8 => some .f64 | 9 => some .f32 | 10 => some .f16 | 11 => some .bf16
  | 12 => some .e4m3 | 13 => some .e5m2 | 14 => some .e2m1 | _ => none

/-- The width w of an element type in bits (R268). -/
def ET.width : ET → Nat
  | .z8 | .s8 => 8
  | .z16 | .s16 => 16
  | .z32 | .s32 => 32
  | .z64 | .s64 => 64
  | .f64 => 64
  | .f32 => 32
  | .f16 | .bf16 => 16
  | .e4m3 | .e5m2 => 8
  | .e2m1 => 4

/-- The number of sub-elements of a 64-bit register (R268). -/
def ET.count (e : ET) : Nat := 64 / e.width

/-- Whether an integer type is two's complement (R268). -/
def ET.isSigned : ET → Bool
  | .s8 | .s16 | .s32 | .s64 => true
  | _ => false

/-- Whether a type is one of the eight integer types. -/
def ET.isInt (e : ET) : Bool := e.code < 8

/-- The length in words of a form (R284). -/
def Form.words : Form → Nat
  | .w32 => 1 | .w64 => 2 | .w96 => 3

/-- Code 0, the value of an operand field that an instruction does not use (R289). -/
def opd0 : Opd := .v 0

/-- The predicate `k0`, not negated (R288). -/
def pred0 : Pred := ⟨0, false⟩

/-- The number of ones among the low w bits. -/
def Machine.popCount (w n : Nat) : Nat := ((List.range w).filter (fun j => n.testBit j)).length

end Sys2Proof
end

