-- ==== Sys2Proof/Config.lean ====
section
/-!
DEFINITION. What the spec leaves open: free values (opaque, no body: nothing can evaluate them), secrets of the
module, and the one choice of what an unlisted byte of memory reads as. Each is named by a log entry.
-/

namespace Sys2Proof.Config

/-- What a byte of device memory that nothing has written reads as (entry 2, DESIGN CHOICE): the controller writes
zero to every unit before it hands it to a partition (R137), so a partition reads zero. -/
def unlistedByte : Byte := 0

/-- A fresh free value: nothing constrains it (entry 4). Applied to the counter State.free. -/
opaque freeValue : Nat → Word

/-- A free choice of one item out of several (entry 4). Applied to the counter State.free. -/
opaque freeChoice : Nat → Nat

/-- Which of the two SRAM copies of a remap entry an uncorrectable error has struck when a row is activated: bit 0 copy A, bit 1
copy B (R54; entry 9). Applied to the counter State.free. -/
opaque copyErrors : Nat → Nat

/-- The candidate value of `fsf` function fn for an `f32` bit pattern (R323 names only a bound). The model takes it
where it lies within the bound and the correctly computed neighbour otherwise (entry 6). -/
opaque fsfCandidate : (fn : Nat) → (x : BitVec 32) → BitVec 32

/-- The candidate decode of an sRGB colour byte to `f32` (R110: within 1 ulp), taken where within the bound. -/
opaque srgbCandidate : Byte → BitVec 32

/-- Whether an Ed25519 signature over a SHA-512 digest verifies under the Jexlen root key (R134). -/
opaque rootVerifies : (image : List Byte) → Bool

/-- Whether a debug credential verifies under the Jexlen debug authority key (R124). -/
opaque debugVerifies : (message credential : List Byte) → Bool

/-- SHA-512 (FIPS 180-4) as 64 bytes (R134, R135). -/
opaque sha512 : List Byte → BitVec 512

/-- The Ed25519 signature of the controller's identity key over a digest (R135). -/
opaque identitySign : BitVec 512 → BitVec 512

/-- The module serial number, fused into the controller (R135). -/
opaque serial : BitVec 128

/-- The security version of an image, whose format the spec does not give (R134). -/
opaque imageSvn : (image : List Byte) → Nat

/-- SHA-512 of the partition configuration, whose serial form the spec does not give (R135): a function of it. -/
opaque partitionDigest : List Nat → BitVec 512

/-- The n-th 32-byte value of the controller's random source (R124, R137). -/
opaque random : Nat → BitVec 256

/-- The session key that X25519 agrees from a peer share (R121): a free value of the session. -/
opaque sessionKey : (share : BitVec 256) → Nat → BitVec 256

/-- Whether a management-session message authenticates under AES-256-GCM with a key (R121). -/
opaque gcmVerifies : (key : BitVec 256) → (message : List Byte) → Bool

/-- The plaintext of a management-session message that authenticates (R121). -/
opaque gcmOpen : (key : BitVec 256) → (message : List Byte) → List Byte

/-- The sealed form of a result sent back inside a management session (R121). -/
opaque gcmSeal : (key : BitVec 256) → (message : List Byte) → List Byte

end Sys2Proof.Config
end

