-- ==== Sys2Proof/Machine/Store.lean ====
section
/-!
DEFINITION. The two kinds of sparse storage: tables keyed by a number, and memory as a list of (address, byte) pairs in
one canonical form (addresses strictly rising, no entry equal to what an unlisted address reads as).
-/

namespace Sys2Proof.Machine

/-! ### Tables -/

/-- A table keyed by a number, kept in rising order by set. -/
abbrev Tab (α : Type) := List (Nat × α)

/-- The entry of a key. -/
def Tab.get? {α : Type} (k : Nat) : Tab α → Option α
  | [] => none
  | (k', x) :: l => if k = k' then some x else Tab.get? k l

/-- The entry of a key, or a default. -/
def Tab.getD {α : Type} (l : Tab α) (k : Nat) (d : α) : α := (Tab.get? k l).getD d

/-- Set the entry of a key. -/
def Tab.set {α : Type} (k : Nat) (x : α) : Tab α → Tab α
  | [] => [(k, x)]
  | (k', y) :: l =>
    if k = k' then (k, x) :: l
    else if k < k' then (k, x) :: (k', y) :: l
    else (k', y) :: Tab.set k x l

/-- A table in rising order with the entries that its keys name. -/
def Tab.canon {α : Type} (l : Tab α) : Tab α := l.foldr (fun e h => Tab.set e.1 e.2 h) []

/-- Remove every entry of a key. -/
def Tab.erase {α : Type} (k : Nat) (l : Tab α) : Tab α := l.filter (fun e => e.1 != k)

/-- Change the entry of a key where there is one. -/
def Tab.update {α : Type} (k : Nat) (f : α → α) (l : Tab α) : Tab α :=
  l.map (fun e => if e.1 = k then (e.1, f e.2) else e)

/-- The values of a table. -/
def Tab.vals {α : Type} (l : Tab α) : List α := l.map (·.2)

/-! ### Memory -/

/-- Bytes at addresses, in the canonical form of Mem.wf. -/
abbrev Mem := List Host.Cell

/-- The byte at an address; an unlisted address reads as Config.unlistedByte (entry 2). -/
def Mem.byte (m : Mem) (a : Nat) : Byte :=
  match m with
  | [] => Config.unlistedByte
  | (k, b) :: l => if a = k then b else Mem.byte l a

/-- Insert a listed byte, keeping the order. -/
def Mem.insert (a : Nat) (b : Byte) : Mem → Mem
  | [] => [(a, b)]
  | (k, c) :: l =>
    if a = k then (a, b) :: l
    else if a < k then (a, b) :: (k, c) :: l
    else (k, c) :: Mem.insert a b l

/-- Remove the entry of an address. -/
def Mem.remove (a : Nat) : Mem → Mem
  | [] => []
  | (k, c) :: l => if a = k then l else (k, c) :: Mem.remove a l

/-- Write one byte; writing what an unlisted address reads as removes the entry. -/
def Mem.put (m : Mem) (a : Nat) (b : Byte) : Mem :=
  if b = Config.unlistedByte then Mem.remove a m else Mem.insert a b m

/-- The canonical form: addresses strictly rising from a lower bound, and no entry that need not be listed. -/
def Mem.wfFrom (lo : Nat) : Mem → Bool
  | [] => true
  | (k, b) :: l => decide (lo ≤ k) && b != Config.unlistedByte && Mem.wfFrom (k + 1) l

/-- The canonical form of a memory. -/
def Mem.wf (m : Mem) : Bool := Mem.wfFrom 0 m

/-- `n` bytes from an address upward. -/
def Mem.bytes (m : Mem) (a : Nat) : (n : Nat) → List Byte
  | 0 => []
  | n + 1 => m.byte a :: m.bytes (a + 1) n

/-- Write bytes from an address upward. -/
def Mem.putBytes (m : Mem) (a : Nat) : List Byte → Mem
  | [] => m
  | b :: bs => Mem.putBytes (m.put a b) (a + 1) bs

/-- Clear an address range to what unlisted addresses read as. -/
def Mem.clear (m : Mem) (a n : Nat) : Mem := m.filter (fun c => !(decide (a ≤ c.1) && decide (c.1 < a + n)))

end Sys2Proof.Machine
end

