-- ==== Sys2Proof/Machine/State.lean ====
section
/-!
DEFINITION. The state of the machine as plain data: every piece of state the spec names (INVENTORY.md, '## State'), the
reasons a step can stop, and the state after reset.
-/

namespace Sys2Proof.Machine

open Sys2Proof

/-! ### Clock and device time (R15, R35) -/

/-- Core cycles since reset and device time. -/
structure Clock where
  /-- core cycles since reset (R4) -/
  cycle : Nat
  /-- 27ths of a ns not yet counted into `time`: one core cycle is 10/27 ns (R15) -/
  part : Nat
  /-- device time in ns, what `%time` reads (R35) -/
  time : Word
  /-- device time has been loaded once since reset (R35) -/
  timeSet : Bool
  /-- disciplined and locked (R35) -/
  locked : Bool
  /-- correction still to be applied by slewing, in ns (R35) -/
  slew : Int
  /-- ns counted since the last slewed ns: at most 1 in 10,000 (100 ppm, R35) -/
  slewGap : Nat
  /-- the service controller's real-time clock (R35) -/
  rtc : Word
  /-- the launch arbiters are open (R35) -/
  open_ : Bool
  deriving DecidableEq, Repr

/-! ### Service controller (R17-R23) -/

/-- A core of the module: die and identity (R21). -/
structure CoreId where
  die : Nat
  core : Nat
  deriving DecidableEq, Repr

/-- A substitution requested or running on one die (R21). -/
structure Subst where
  core : Nat
  /-- the core raised an uncorrectable error: groups whose saved state holds poison end with 0x0D -/
  poisoned : Bool
  /-- draining has begun -/
  running : Bool
  deriving DecidableEq, Repr

/-- A queued or running row remap (R54, R55). -/
structure Remap where
  row : RowId
  spare : Nat
  deriving DecidableEq, Repr

/-- The service controller. -/
structure Ctl where
  /-- the last sample (R17) -/
  sample : Sample
  /-- the module power in the samples of the last 1 ms, the latest first (R17) -/
  powers : List Nat
  /-- consecutive samples at or above 100 °C, by die (R17) -/
  hot : Tab Nat
  /-- dies whose core clock is halved (R17) -/
  halved : List Nat
  /-- sample periods since the supply warning was last reported (R17) -/
  supplyAge : Nat
  /-- substitutions by die, the running one first (R21) -/
  subst : Tab (List Subst)
  /-- the physical core (0-51) that answers to an identity, where it is not the identity's own (R21) -/
  identity : Tab Nat
  /-- retired cores (R21) -/
  retired : List CoreId
  /-- spares used on each die, of 4 (R18) -/
  sparesUsed : Tab Nat
  /-- rows waiting for a remap, in order (R53, R55) -/
  remapQueue : List RowId
  /-- the remap whose row is being copied (R55) -/
  remapping : Option Remap
  /-- device time of the last remap start (R55) -/
  lastRemap : Option Word
  deriving DecidableEq, Repr

/-! ### Fabric (R24-R35) -/

/-- What an outstanding remote access is (R28, R29, R231). -/
inductive RemoteKind where
  /-- a load or an atomic that returns a value to a register: operand code, size in bytes, sign-extended, and whether the
  core cache takes the bytes and its policy keeps them (R226, R228) -/
  | value (reg size : Nat) (signed : Bool) (keep : Option Bool)
  /-- half of a tile row: the row and its first word, and whether the core cache takes the bytes (R228, R393) -/
  | row (row first : Nat) (keep : Option Bool)
  /-- a store: it is acknowledged; refused, its thread traps with 0x07; unreachable, it is reported (R29) -/
  | store
  /-- a sync operation that a split waits for: `acq` (true), which has no bound, or `rel` (false) on a remote word; a push
  or pop at a remote queue descriptor counts as the first; the KIND byte of its trap -/
  | sync (slot acquire : Bool) (kind : BitVec 8)
  /-- a read by a copy command: the destination, which is a local-store offset or a virtual address -/
  | copyRead (cmd : Nat) (dest : Word)
  /-- a write by a copy command -/
  | copyWrite (cmd : Nat)
  /-- a read of a launch's pipeline descriptor: the launch and the address of the block (R141) -/
  | desc (seq va : Nat)
  /-- a participant of a collective whose data has not come (R34) -/
  | coll (cmd : Nat)
  deriving DecidableEq, Repr

/-- What an outstanding remote access waits for, by its TAG (R25, R29). -/
structure Remote where
  kind : RemoteKind
  g : Gid
  /-- the pending operation of the group that it belongs to -/
  op : Nat
  thread : Nat
  /-- virtual address, for FADDR (R194) -/
  va : Word
  /-- the physical address at the destination -/
  addr : Nat
  /-- device identifier of the destination -/
  dest : BitVec 22
  /-- cycle of issue (R29: 100 µs) -/
  issued : Nat
  /-- it writes at its home: a release at fabric scope waits for it (R232) -/
  write : Bool
  /-- the word and the scope of the acquire that follows a `.sync` atomic (R230) -/
  acq : Option (Nat × Nat)
  /-- the first word and the executing threads of the instruction that waits, for a trap that comes with the answer (R194) -/
  iw0 : BitVec 32
  omask : Mask
  deriving DecidableEq, Repr

/-- The fabric side of the module. -/
structure Fabric where
  devid : BitVec 22
  /-- lanes failed, by port (R22, R24) -/
  failedLanes : Tab Nat
  /-- die-to-die ring links out of service (R11) -/
  linksDown : List Nat
  /-- flits sent and not yet taken by the network, oldest first (R25) -/
  outbox : List Flit
  nextTag : BitVec 16
  waiting : Tab Remote
  /-- malformed flits logged (R26) -/
  malformed : List Flit
  deriving DecidableEq, Repr

/-! ### Stacks (R37-R60) -/

/-- Power states of a pseudo-channel (R49). -/
inductive Power where | active | powerdown | selfrefresh
  deriving DecidableEq, Repr

/-- States of a bank (R56). -/
inductive BankState where | open_ | fenced | scrubbing | failed
  deriving DecidableEq, Repr

/-- A coalesced request (R44). -/
structure MemReq where
  /-- the pending operation, command, ray or draw it serves; none for a write-back or a fill of no one -/
  op : Option Nat
  /-- the launch for which its atoms are counted (R148) -/
  launch : Option Nat
  part : Nat
  guaranteed : Bool
  /-- the storage units fetched or written, as physical addresses: 32-byte atoms of HBM, 64-byte units of the tier -/
  atoms : List Nat
  /-- the sector count, 1-32: distinct atoms that the request touches (R44) -/
  sectors : Nat
  /-- atom-times that it takes (R65) -/
  cost : Nat
  write : Bool
  /-- sibling requests of the instruction -/
  siblings : Nat
  deriving DecidableEq, Repr

/-- One entry of a slice's accumulator store: the command, the vector and the row of the product that the entry sums, its value,
and whether a poisoned atom has entered it (R80, R52). -/
structure AccEntry where
  cmd : Nat
  vec : Nat
  row : Nat
  val : BitVec 32
  poison : Bool
  deriving DecidableEq, Repr

/-- One channel of a stack: a pseudo-channel with its bank slice, or a tier channel (R37, R41, R46, R49, R51, R80). -/
structure PChan where
  power : Power
  /-- core cycle since which no request is queued: the idle timer's start (R49) -/
  idle : Nat
  queue : List MemReq
  /-- the slice's accumulator store: 1,024 entries (R80) -/
  accs : List AccEntry
  /-- accumulators saved in the checkpoint rows (R51) -/
  checkpoint : List AccEntry
  /-- the core cycle at which the checkpoint before an entry into a power state ends (R51) -/
  saving : Option Nat
  /-- by partition: the count of logic-die cycles of its own slots at which the overruns charged to it are paid (R46) -/
  debt : Tab Nat
  /-- core cycle from which the scheduler can serve again: the sectors of a request, an exit from a power state -/
  busy : Nat
  /-- bank last refreshed, and the half-frame of the last refresh, counted from 1 (R48) -/
  refreshBank : Nat
  frame : Nat
  deriving DecidableEq, Repr

/-- One entry of the remap table with the error marks of its two SRAM copies and the persistent copy (R54). -/
structure RemapEntry where
  row : RowId
  spare : Nat
  badA : Bool
  badB : Bool
  badP : Bool
  /-- the SRAM copies hold it (R55: only after the copy of the row) -/
  live : Bool
  deriving DecidableEq, Repr

/-- One bank's state and fence log (R56). -/
structure Bank where
  state : BankState
  log : List Nat
  deriving DecidableEq, Repr

/-- One line of the tier cache (R42). -/
structure TierLine where
  tag : Nat
  /-- its way, 0-3 -/
  way : Nat
  dirty : Bool
  deriving DecidableEq, Repr

/-- A stack: window, banks, remap table, tier cache (R37-R60). -/
structure Stack where
  /-- HBM units in cache mode (R41) -/
  hbmCache : List Nat
  /-- tier units in cache mode (R41) -/
  tierCache : List Nat
  /-- sets of the tier cache, most recently used first (R42) -/
  tierSets : Tab (List TierLine)
  pcs : Tab PChan
  banks : Tab Bank
  remap : List RemapEntry
  /-- corrected errors of a row within the scrub pass, keyed by the row's number (R53) -/
  corrected : Tab Nat
  /-- result window: base address and size in bytes (R57) -/
  winBase : Nat
  winSize : Nat
  /-- full atoms of the window, as atom addresses (R57) -/
  full : List Nat
  deriving DecidableEq, Repr

/-! ### Memory levels (R211-R229) -/

/-- The fields of a view geometry entry (R62). -/
structure Geo where
  valid : Bool
  alog : Nat
  esz : Nat
  pitch : Nat
  cols : Nat
  rows : Nat
  pbase : Nat
  deriving DecidableEq, Repr

/-- How the addresses of one page reach storage. -/
structure Map where
  /-- view or kind, as in `byteKey`; 3 is host memory -/
  space : Nat
  /-- the region and the view code of an alias page -/
  geo : Option (Geo × Nat)
  /-- virtual and physical start of a plain page -/
  vbase : Nat
  pbase : Nat
  /-- destination of a remote page: device and partition -/
  dev : Nat
  rpart : Nat
  /-- the accord-capable bit (R69) -/
  ac : Bool
  writable : Bool
  deriving DecidableEq, Repr

/-- A 64-byte line that a core cache or a die buffer has taken: its tag (the key of its first byte), whether its policy keeps
it (R226), and the keys of its bytes. -/
structure CLine where
  tag : Nat
  keep : Bool
  keys : List Nat
  deriving DecidableEq, Repr

/-- A byte held by a cache. -/
structure CByte where
  val : Byte
  dirty : Bool
  deriving DecidableEq, Repr

/-- A cached translation (R218). -/
structure TlbEntry where
  part : Nat
  /-- first virtual address and length of the page -/
  base : Nat
  size : Nat
  level : Nat
  leaf : Word
  deriving DecidableEq, Repr

/-- A completed trace block in its core's write queue (R210): the group and its partition, the 64 bytes, the packets lost
with it, the cycle at which its write starts, and whether it has been written; it stays in the queue until the write is
performed at the home. -/
structure TraceBlock where
  g : Gid
  part : Nat
  bytes : List Byte
  packets : Nat
  start : Nat
  written : Bool
  deriving DecidableEq, Repr

/-- A core: its cache, its TLB, its comparators and its trace write queue (R164). -/
structure Core where
  /-- core cache, keyed by view or space and address (R224) -/
  cache : Tab CByte
  /-- the lines of each set of the core cache, at most 8, the latest used first (R224) -/
  lines : Tab (List CLine)
  tlb : List TlbEntry
  /-- BPC[0]-BPC[7] (R204) -/
  bpc : Tab Word
  /-- completed trace blocks in the write queue, oldest first (R210) -/
  traceQ : List TraceBlock
  /-- cycle from which each lane is free again (R166) -/
  busy : Tab Nat
  /-- cycle of the last best-effort issue of each lane (R151) -/
  lastBest : Tab Nat
  deriving DecidableEq, Repr

/-! ### Groups (R164-R190) -/

/-- Why a split does not issue, other than being chosen later. -/
inductive Wait where
  /-- ready -/
  | none
  /-- not ready before a cycle: `yield`, the translation point, a cross-cycle order (R351, R356) -/
  | until_ (cycle : Nat)
  /-- asleep until device time; the length of its `yield`, to which a pre-emption returns it (R351) -/
  | sleep (time : Word) (len : Nat)
  /-- `wait` on the counters (R186) -/
  | counters (l s c t : BitVec 6)
  /-- a counter is at 62: the instruction waits before issue (R185); 0 L, 1 S, 2 C, 3 T -/
  | counterFull (which : Nat)
  /-- held at a pending operation: a waiting `ldfe` (R361), a remote access with its fate unknown, a map fill -/
  | op (id : Nat)
  /-- an acquire request waiting at its home (R367) -/
  | acquire
  /-- a barrier: index and the phase of the arrival (R374) -/
  | barrier (b phase : Nat)
  /-- `racq` waits for a free block of the quota (R171) -/
  | block
  /-- a `qpush` (true) or `qpop` waits at a queue descriptor (R377, R378) -/
  | queue (desc : Nat) (push : Bool)
  /-- `emit` waits for room in a stage (R159) -/
  | stage (seq stage : Nat)
  /-- `rsend` of a number of rays waits under the allowance or the batch limit (R411) -/
  | rays (n : Nat)
  /-- an `mma` waits at the latch (R391) -/
  | latch
  /-- an `mma` waits for the end of its slot (R392) -/
  | matrixSlot
  /-- a matrix instruction waits for the tile it names (R394) -/
  | tile (a : Nat)
  /-- a fence or release waits for earlier accesses of the group (R232, R235, R240): 0 its CORE accesses, 1 everything, 2
  everything and every acknowledgement, 3 its CORE stores, 4 its CORE stores and every acknowledgement, 5 the write-backs of
  the map unit at other modules, 6 its fills from other modules (R355) -/
  | fence (what : Nat)
  /-- `fence.path` waits for operations of a path (R241) -/
  | path (p : Nat)
  /-- `tlbinv` at a scope has dropped translations of a range: it waits for the accesses that began before it and used one (R420) -/
  | dropped (before scope lo hi : Nat)
  /-- a whole-class trap due at the next issue, of an instruction with a first word and an OMASK: a gang mismatch found while the
  split waited (R391) -/
  | raise (cause : BitVec 8) (thread : Nat) (iw0 : BitVec 32) (omask : Mask)
  /-- an access waits for the fill of a mapped block, by its local start (R222) -/
  | fill (block : Nat)
  deriving DecidableEq, Repr

/-- A split (R174), with what the lane keeps beside its record. -/
structure Split where
  mask : Mask
  fmt : BitVec 14
  token : BitVec 16
  depth : BitVec 8
  part : Bool
  st : BitVec 2
  rtid : BitVec 5
  pc : BitVec 48
  /-- threads still to serve when ST is 1 or 2: OMASK or FMASK of the frame (R196) -/
  rem : Mask
  wait : Wait
  /-- cycle at which it last became ready (R175) -/
  age : Nat
  /-- the waiting instruction has been charged and counted already (R152, R364) -/
  charged : Bool
  /-- comparators are suppressed for its next issue (R204) -/
  quiet : Bool
  /-- the handler's split, or one that divergence formed from it (R193) -/
  hand : Bool
  /-- rebuilt by `eret`: it issues before any other split of its group (R196) -/
  first : Bool
  /-- the target of an indirect jump or call: its next issue begins with a SYNC (R209) -/
  sync : Bool
  deriving DecidableEq, Repr

/-- A rejoin entry (R178, R179). -/
structure Rejoin where
  token : BitVec 16
  origin : Mask
  parent : BitVec 16
  arrived : Mask
  pc : BitVec 48
  /-- the instruction after the `rejoin` -/
  next : BitVec 48
  depth : BitVec 8
  fmt : BitVec 14
  /-- lowest thread of the arrived split whose FMT is recorded -/
  low : Nat
  expiry : Option Word
  closed : Bool
  /-- the merged split that waits for room (R178) -/
  merged : Option Split
  /-- order in which merges completed (R178) -/
  order : Nat
  /-- taken by the handler's split -/
  hand : Bool
  deriving DecidableEq, Repr

/-- A thread that faulted: its cause and the address (R194). -/
structure Faulter where
  thread : Nat
  cause : BitVec 8
  addr : Word
  deriving DecidableEq, Repr

/-- The fill of an atom of a mapped block that failed (R52, R222): the atom's local start, the cause and the global address; of
a read from another module, the key of its request instead of the atom. -/
structure FillFault where
  atom : Nat
  cause : BitVec 8
  addr : Word
  deriving DecidableEq, Repr

/-- A memory-class trap held while a handler runs (R187). -/
structure HeldTrap where
  faults : List Faulter
  kind : BitVec 8
  omask : Mask
  iw0 : BitVec 32
  /-- the slot of the split that issued the instruction -/
  slot : Bool
  /-- the counter its decrement falls on: 0 L, 1 S, 2 C, 3 T, 4 none (R356) -/
  counter : Nat
  /-- the deferred trap of abandoned loads: ST 0 (R199) -/
  deferred : Bool
  /-- cycle of the issue of the instruction (R208, R435) -/
  issued : Nat
  deriving DecidableEq, Repr

/-- Handler mode (R193): the faulting split's record as step 3 wrote it, and its slot. -/
structure Handler where
  slot : Bool
  rec_ : Split
  deriving DecidableEq, Repr

/-- A matrix block (R395). -/
structure MatBlock where
  label : BitVec 48
  mask : Mask
  depth : BitVec 8
  token : BitVec 16
  fmt : BitVec 14
  /-- tokens of the rejoin entries that stood at the set: later ones are dropped at a restart (R202) -/
  live : List (BitVec 16)
  deriving DecidableEq, Repr

/-- The Sillage trace of one group (R206-R210, R436). -/
structure Trace where
  on : Bool
  /-- packet bytes of the open block, and the packets in it -/
  block : List Byte
  packets : Nat
  /-- packets that the open block's LOSS carries (R436) -/
  carried : Nat
  /-- cycle of the open block's first packet -/
  first : Nat
  /-- cycle of the issue that produced the last packet (R208) -/
  last : Nat
  /-- packets since the last SYNC, and its cycle (R209) -/
  sinceSync : Nat
  syncCycle : Nat
  /-- a SYNC is due at the next issue (R209) -/
  wantSync : Bool
  /-- slot of the previous traced issue (R209) -/
  lastSlot : Bool
  /-- loss count, saturating at 2^32 - 1, and whether the group is lost (R210, R436) -/
  loss : Nat
  lost : Bool
  deriving DecidableEq, Repr

/-- A row of a vector register: the value of each thread, thread 0 first. -/
abbrev Row := List Word

/-- A tile: row i is thread i's 32 words (R387). -/
abbrev Tile := Tab (List (BitVec 32))

/-- Why a resident group does not issue at all. -/
inductive Hold where
  | none
  /-- asleep on a page-request group, with its 9-bit index (R133, R198) -/
  | pages (index : Nat)
  /-- every thread has exited; residency waits for L, S and T (R350) -/
  | exited
  deriving DecidableEq, Repr

/-- A group (R170-R188). The issuing split stands in `sp`, in slot `slot`. -/
structure Group where
  id : Gid
  live : Bool
  launch : Nat
  part : Nat
  gix : Nat
  stage : Nat
  /-- base registers: 16, 32, 48 or 64 (R171) -/
  base : Nat
  blk0 : Bool
  blk1 : Bool
  v : Tab Row
  g : Tab Word
  k : Tab Mask
  q : Tab Word
  /-- accumulator tiles the launch asked for, and their contents (R170, R387) -/
  acct : Nat
  tiles : Tab Tile
  sp : Split
  spLive : Bool
  slot : Bool
  other : Option Split
  /-- spill stack, top first (R175) -/
  spill : List Split
  rejoin : List Rejoin
  tokens : BitVec 16
  merges : Nat
  cntL : Nat
  cntS : Nat
  cntC : Nat
  cntT : Nat
  hand : Option Handler
  shadow : Tab Row
  tcause : BitVec 8
  held : List HeldTrap
  /-- the deferred traps of operations abandoned at the 4 µs bound (R199) -/
  abandoned : List HeldTrap
  bgt : Word
  /-- `%bgt` reached 0 in handler mode: the first thread-instruction after `eret` raises 0x09 (R195) -/
  spent : Bool
  dl : Word
  /-- offset and size of the program space (R219), and SCRB (R201) -/
  lsb : Nat
  lsize : Nat
  scrb : Nat
  /-- position and members (lane in quad, resident slot) of the gang; no members: not in a gang (R183) -/
  gangPos : Nat
  gang : List (Nat × Nat)
  block : Option MatBlock
  rcnt : Nat
  /-- label and depth that `%mrst` still reads after the block closed (R396) -/
  lastLabel : BitVec 48
  lastDepth : BitVec 8
  trc : Trace
  dbg : Word
  /-- batches sent, modulo 256 (R101, R411) -/
  batch : Nat
  /-- recursion depth of each thread's record (R158) -/
  depths : List Nat
  /-- C decrements of revoked commands not yet met by a wait (R90) -/
  revoked : Nat
  /-- arrivals at the team's barriers: phase of the last arrival (R374) -/
  arrivals : Tab Nat
  hold : Hold
  /-- stopped for pre-emption at a cycle, and draining (R199) -/
  stop : Option Nat
  /-- first word of the instruction being issued (IW0 of R194) -/
  iw0 : BitVec 32
  /-- threads whose page requests have failed, with the trap that they make at re-issue (R133) -/
  denied : List HeldTrap
  /-- the physical runs that its commands and draws have written, by path, and that no path fence to CORE has met (R241):
  path, first byte, length -/
  wrote : List (Nat × Nat × Nat)
  /-- fills that failed for an access of the group that waits for them (R222) -/
  fillFaults : List FillFault
  /-- by register or predicate lately written: the cycle from which each thread may use it (R167) -/
  usable : Tab (List Nat)
  deriving DecidableEq, Repr

/-! ### Teams (R142, R201, R221, R374) -/

/-- A mapped local-store range (R221-R223). -/
structure MapBind where
  loc : Nat
  glob : Word
  len : Nat
  noFill : Bool
  /-- filled 32-byte atoms, by local start (R52, R222) -/
  filled : List Nat
  /-- dirty bytes, by local offset -/
  dirty : List Nat
  deriving DecidableEq, Repr

/-- One barrier of a team (R374). -/
structure Barrier where
  count : Nat
  /-- the phases that have ended; PHASE is its lowest bit -/
  phase : Nat
  /-- the expected count 0 that the last arrival named, or its own N -/
  target : Nat
  deriving DecidableEq, Repr

/-- A team: the groups of one launch on one lane (R9). -/
structure Team where
  die : Nat
  core : Nat
  lane : Nat
  launch : Nat
  ls : Mem
  /-- bytes of the allocation, and of one group's area (program space and system area) (R142, R143) -/
  size : Nat
  area : Nat
  /-- areas in use, for a pipeline (R143) -/
  used : List Nat
  maps : List MapBind
  bars : Tab Barrier
  /-- free extended register blocks of the quota (R171) -/
  xqFree : Nat
  xq : Nat
  deriving DecidableEq, Repr

/-! ### Launches (R140-R163) -/

/-- A launch packet (R140). -/
structure Packet where
  entry : Word
  start : Word
  args : Word
  token : Word
  pipe : Word
  dl : Nat
  bgt : Nat
  gx : Nat
  gy : Nat
  gz : Nat
  lsu : Nat
  acct : Nat
  regs : Nat
  cls : Nat
  dieMask : Nat
  ncore : Nat
  gsz : Nat
  xq : Nat
  mser : Nat
  kib : Nat
  notes : Nat
  reserved : Nat
  far : Bool
  tier : Bool
  trace : Bool
  strict : Bool
  deriving DecidableEq, Repr

/-- A record in a stage's queue (R158). -/
structure QRec where
  bytes : List Byte
  depth : Nat
  /-- device time of arrival (R159) -/
  arrived : Word
  deriving DecidableEq, Repr

/-- A stage of a declared pipeline with its queue (R157); stage 0 is the grid. -/
structure Stage where
  entry : Word
  pred : Word
  flush : Nat
  bgt : Nat
  outMask : Nat
  cap : Nat
  recSize : Nat
  depth : Nat
  lsu : Nat
  regs : Nat
  hit : Bool
  queue : List QRec
  /-- the stage was eligible, and its predicate word read nonzero at that instant (R160) -/
  eligible : Bool
  /-- records that its next group may take: after a predicate read those that had reached the queue then (R160) -/
  join : Nat
  /-- cycle of its last group formation (R423) -/
  formed : Nat
  deriving DecidableEq, Repr

/-- The states of a launch (R163). -/
inductive LState where
  | submitted | refused | held | active | draining | ending | completing | done
  deriving DecidableEq, Repr

/-- A byte range bound to a sync word (R234): physical start and length, and the key of the word. -/
structure BindRun where
  start : Nat
  len : Nat
  word : Nat
  deriving DecidableEq, Repr

/-- Who presented a launch (R144, R149). -/
inductive Submitter where
  | ring (ctx : Nat)
  | group (g : Gid)
  deriving DecidableEq, Repr

/-- A launch (R140-R163, R439). -/
structure Launch where
  seq : Nat
  part : Nat
  from_ : Submitter
  die : Nat
  p : Packet
  state : LState
  /-- absolute deadline of a guaranteed launch (R144) -/
  deadline : Option Word
  overrun : Bool
  voided : Bool
  /-- marks that count only at a miss (R154) -/
  missMark : Bool
  noCap : Bool
  ended : Bool
  /-- lanes of the placement, as (die, core, lane); for a guaranteed launch one per group (R147) -/
  place : List (Nat × Nat × Nat)
  nextGix : Nat
  exited : Nat
  binds : List BindRun
  /-- the bound ranges by their virtual addresses, for a mapped range whose page no longer translates (R223, R235) -/
  vbinds : List BindRun
  stages : Tab Stage
  depthX : Nat
  skip : Nat
  /-- atoms served for the launch, by channel (R148) -/
  atoms : Tab Nat
  /-- its deadline has passed and the marks that count at a miss have been applied (R154) -/
  deadlinePassed : Bool
  /-- its budget is drawn from a context's frame reservation (R128) -/
  framed : Bool
  /-- blocks of its pipeline descriptor that another module has sent, by their address; an empty one could not be read (R141) -/
  descGot : List (Nat × List Byte)
  deriving DecidableEq, Repr

/-! ### Partitions (R122-R126, R212) -/

/-- Drydown states (R23). -/
inductive Dry where | running | quiescing | dry | restoring | failed | erased
  deriving DecidableEq, Repr

/-- A peer window (R123). -/
structure Peer where
  dev : BitVec 22
  part : Nat
  any : Bool
  deriving DecidableEq, Repr

/-- An event in a partition's error log (R114, R195, R206). -/
inductive ErrEvent where
  | doubleTrap (g : Gid)
  | filterPoison (g : Gid)
  /-- a saved group that ended with cause 0x0D (R21) -/
  | savedPoison (g : Gid)
  | traceRing (g : Gid)
  deriving DecidableEq, Repr

/-- Why a trace ring descriptor is treated as not enabled (R206): its size, a reserved bit, or that it cannot be read. -/
inductive RingFault where
  | size
  | reserved
  | unreadable
  deriving DecidableEq, Repr

/-- A partition (R125). -/
structure Part where
  /-- number of its key in the controller's random source; none once the key is erased (R137) -/
  key : Option Nat
  cores : List CoreId
  ways : List (Nat × Nat)
  /-- memory units: stack, tier, unit -/
  units : List (Nat × Bool × Nat)
  /-- reserved slots: stack, channel (64-71 a tier channel), mask -/
  slots : List (Nat × Nat × Nat)
  /-- fabric share by port in 64ths -/
  fabric : Tab Nat
  rays : Nat
  raysUsed : Nat
  vfs : List Nat
  peers : List Peer
  tvec : Word
  ptroot : Word
  geobase : Word
  accbase : Word
  scnbase : Word
  savebase : Word
  trcdesc : Word
  poolbase : Word
  dry : Dry
  /-- cycle at which QUIESCING began (R23) -/
  since : Nat
  debug : Bool
  errors : List ErrEvent
  /-- conditions of the trace ring that have been logged (R206) -/
  traceLogged : List RingFault
  /-- RPTR as the trace unit sees it: as it stood at the end of the cycle before (R206, R436) -/
  rptr : Nat
  deriving DecidableEq, Repr

/-! ### Host boundary (R119-R133) -/

/-- A graphics context (R127) with the placement of its frame reservation (R128). -/
structure Ctx where
  statBase : Word
  ringBase : Word
  period : Nat
  fdl : Nat
  fbgt : Nat
  head : BitVec 32
  tail : BitVec 32
  msix : Nat
  vf : Nat
  part : Nat
  rsize : Nat
  fault : Bool
  valid : Bool
  place : Option CoreId
  /-- issue cycles drawn from the reservation, by the number of the frame (R128) -/
  drawn : Tab Nat
  deriving DecidableEq, Repr

/-- What the mailbox is doing: the command, its tag and its result (R121). -/
structure Running where
  tag : BitVec 16
  code : Nat
  result : List Byte
  session : Bool
  deriving DecidableEq, Repr

/-- The management mailbox (R121). -/
structure Mailbox where
  mopnd : List Byte
  mres : List Byte
  rlen : Nat
  tag : BitVec 16
  code : Nat
  running : Option Running
  /-- messages sent on the management port, oldest first (R121) -/
  port : List (List Byte)
  deriving DecidableEq, Repr

/-- A page-request group (R133). -/
structure PriGroup where
  index : Nat
  g : Gid
  pages : List Nat
  fn : Nat
  sent : Bool
  deriving DecidableEq, Repr

/-- What is logged to the PF (R121, R129, R138). -/
inductive PfLog where
  | mailboxAccess
  | doorbell
  | alarm (source : Nat)
  deriving DecidableEq, Repr

/-- What the module reports to the host (R17, R21, R23, R29, R35, R55, R56). -/
inductive Report where
  | thermalWarning
  | supplyWarning
  | voided (seq : Nat)
  | timeUnlocked
  | storeUnreachable (va : Word)
  | partitionFailed (p : Nat)
  | bankFailed (stack pc bank : Nat)
  | bankFenced (stack pc bank : Nat)
  | noSpareRow (r : RowId)
  | coreRetired (c : CoreId)
  | portOut (port : Nat)
  | bootFailed
  deriving DecidableEq, Repr

/-- The host side. -/
structure HostSide where
  box : Mailbox
  ctxs : Tab Ctx
  /-- doorbells held while a partition is not RUNNING, or on HALT: VF, offset, value (R23, R130, R139) -/
  heldDoorbells : List (Nat × Nat × Word)
  /-- contexts whose packet stands at the arbiter undecided (R130) -/
  pendingRing : List Nat
  /-- bytes of host memory at I/O virtual addresses (R214) -/
  mem : Mem
  msix : List (Nat × Nat)
  log : List PfLog
  reports : List Report
  priAlloc : Tab Nat
  priOff : List Nat
  pri : List PriGroup
  nextPri : Nat
  deriving DecidableEq, Repr

/-! ### Security (R134-R139) -/

/-- Security states (R139). -/
inductive SecState where | booted | attested | halted | locked
  deriving DecidableEq, Repr

/-- Alarm policies (R138). -/
inductive Policy where | report | halt | erase
  deriving DecidableEq, Repr

/-- One firmware image slot (R134, R136). -/
structure Image where
  bytes : List Byte
  svn : Nat
  deriving DecidableEq, Repr

/-- The two slots of one firmware (R134, R136). -/
structure Firmware where
  a : Option Image
  b : Option Image
  /-- image B is running -/
  runB : Bool
  /-- the inactive slot holds a staged, checked image -/
  staged : Bool
  deriving DecidableEq, Repr

/-- Security. -/
structure Sec where
  state : SecState
  bootFailed : Bool
  attestedOnce : Bool
  /-- policy of sources 0-4: tamper, voltage, clock, thermal, debug misuse (R138) -/
  policy : Tab Policy
  /-- alarm conditions that hold (R139) -/
  active : List Nat
  ctlFw : Firmware
  devFw : Firmware
  fusedSvn : Nat
  /-- numbers of the open management sessions' keys (R121) -/
  sessions : List (BitVec 256)
  randoms : Nat
  nonce : Option (BitVec 256)
  deriving DecidableEq, Repr

/-! ### Pending operations and engines -/

/-- A register write that lands with an operation (R173): thread, operand code, value. -/
structure Landing where
  thread : Nat
  reg : Nat
  val : Word
  deriving DecidableEq, Repr

/-- A request of an `ldfe` that waits at its controller (R361). -/
structure FeWait where
  thread : Nat
  addr : Nat
  va : Word
  /-- the page through which it reads -/
  map : Map
  /-- cycle of its arrival at the controller, from which the 1 ms runs (R59) -/
  arrived : Nat
  size : Nat
  sgn : Bool
  reg : Nat
  /-- the controller has found its atom empty (R60) -/
  seen : Bool
  deriving DecidableEq, Repr

/-- A change of full/empty bits on its way to its controller, which applies what arrives in one logic-die cycle in the order of
the senders (R60): `stfe`, `clrfe`, or a result of the `SLICE` path, which counts as core 64. -/
structure FeReq where
  die : Nat
  core : Nat
  lane : Nat
  order : Nat
  /-- the numbers of the atoms -/
  atoms : List Nat
  /-- set full, or empty -/
  fills : Bool
  /-- what it writes, and where -/
  map : Map
  va : Nat
  bytes : List Byte
  deriving DecidableEq, Repr

/-- What a pending operation of a group is. -/
inductive OpKind where
  /-- register writes ready to land -/
  | load
  /-- a store that has been written and is to be counted as performed -/
  | store
  /-- `ldfe` requests waiting at controllers -/
  | ldfe (waits : List FeWait)
  /-- tile rows to land: the tile, and for each piece its row, its first word and its words -/
  | tile (a : Nat) (rows : List (Nat × Nat × List (BitVec 32)))
  /-- tile loads through an accord waiting for their arrival at the home stack: the operand values -/
  | accord (a b c : Word) (fmt : Nat) (sat : Bool) (threads : Mask)
  /-- accord tile bytes to land in local store, with the handle (partition * 4096 + index) and the notes they were read
  with (R75) -/
  | local_ (offset : Nat) (bytes : List Byte) (handle : Nat) (notes : List Word)
  /-- `tex` (false) or `hgrid` (true) requests: thread, coordinates, the descriptor as a number; destination register -/
  | filter (hgrid : Bool) (reqs : List (Nat × List Word × Nat)) (dest : Nat)
  /-- a detach waiting for the tile loads that read its note (R75) -/
  | detach (after : List Nat)
  /-- remote accesses outstanding, by tag -/
  | remote
  /-- a `launch` that waits for the arbiter's status: the launch and the destination (R381) -/
  | status (seq reg : Nat)
  deriving DecidableEq, Repr

/-- An operation a group has outstanding (R185). -/
structure Op where
  g : Gid
  launch : Nat
  kind : OpKind
  /-- counter: 0 L, 1 S, 2 C, 3 T, 4 none -/
  counter : Nat
  path : Nat
  /-- cycle at which it may complete (R190) -/
  due : Nat
  writes : List Landing
  /-- faulters found while it was outstanding -/
  faults : List Faulter
  /-- remote tags still outstanding -/
  tags : List Nat
  /-- the address of each thread (R199) -/
  vas : List (Nat × Word)
  omask : Mask
  kindByte : BitVec 8
  iw0 : BitVec 32
  slot : Bool
  /-- length of the instruction in bytes, by which a held split moves on when it completes (R356, R361) -/
  len : Nat
  /-- issued by the handler's split: it lands in the live registers (entry 23) -/
  hand : Bool
  /-- cycle of issue, to which the delta of a TRAP packet runs (R208, R435) -/
  issued : Nat
  deriving DecidableEq, Repr

/-- A waiting acquire (R367). -/
structure Waiter where
  g : Gid
  slot : Bool
  word : Nat
  fn : AcqFn
  value : Word
  scope : Nat
  /-- satisfied: the acquire may complete -/
  met : Bool
  /-- the request of another module that waits here: it is answered when satisfied (R231) -/
  remote : Option Flit
  deriving DecidableEq, Repr

/-- The accord list a command or tile load uses (R68, R72): format, geometry index, scales, notes, version, sync. -/
structure AccList where
  fmt : Nat
  geo : Nat
  sbase : Word
  bbase : Word
  sync : Word
  version : BitVec 32
  notes : List Word
  deriving DecidableEq, Repr

/-- The phase of an engine command (R402). -/
inductive CmdPhase where
  /-- waiting for its engine -/
  | queued
  /-- its elements are computed; a fold waits for the swap of R77 -/
  | swapping
  /-- waiting for its completion to be written (R90) -/
  | finished
  /-- stopped at an element boundary while its group is pre-empted (R91) -/
  | stopped
  deriving DecidableEq, Repr

/-- An engine command (R402-R410). -/
structure Cmd where
  id : Nat
  cls : Nat
  g : Gid
  launch : Nat
  part : Nat
  die : Nat
  /-- the 64-byte shape record as a number (R403) -/
  shape : Nat
  x : Word
  y : Word
  counter : Word
  /-- pinned pages: virtual page address and what it translates to (R88) -/
  pins : List TlbEntry
  fmt : BitVec 4
  done : Nat
  total : Nat
  status : Nat
  poisoned : Bool
  version : BitVec 32
  list : Option AccList
  phase : CmdPhase
  hdr : Option Flit
  /-- a snapshot note was detached (R78) -/
  superseded : Bool
  /-- a destination lies in the team's local store (R91) -/
  dls : Bool
  /-- a collective has sent its data (R34) -/
  sent : Bool
  /-- its first element has begun: a fold has set FIP (R77) -/
  started : Bool
  /-- the requests of its next element have been sent to the channels (R92), or the remote reads of a row of a copy (R405) -/
  asked : Bool
  /-- the vector buffer: the elements of each vector, with their marks, once loaded (R81) -/
  vbuf : Option (List (List (Nat × Bool)))
  /-- notes of its snapshot that another fold has folded and removed since (R77) -/
  gone : Nat
  /-- cycle at which its engine takes it, and then that at which it is complete (entry 5) -/
  due : Nat
  deriving DecidableEq, Repr

/-- A message of a collective from a participant (R34, R409): what has arrived of it, whether its last flit has, and the
flit that brought the latest part, without its payload. -/
structure CollPart where
  tag : Nat
  src : BitVec 22
  /-- how many collectives of the tag with this module the sender had ended before -/
  turn : Nat
  bytes : List Byte
  whole : Bool
  flit : Flit
  deriving DecidableEq, Repr

/-- The end of a collective that a participant has announced (R34, R409): the status, and the flit without its payload. -/
structure CollEnd where
  tag : Nat
  src : BitVec 22
  turn : Nat
  status : Nat
  flit : Flit
  deriving DecidableEq, Repr

/-- Where a ray is. -/
inductive RayPlace where
  /-- travelling to a treelet's queue: stack, treelet, and the rank of its arrival (R103) -/
  | flying (stack treelet rank : Nat)
  /-- in a queue, on-die or spilled, or being moved in (R103, R427) -/
  | queued (stack treelet : Nat) (spilled moving : Bool)
  /-- held by an engine (R104) -/
  | held (stack engine : Nat)
  deriving DecidableEq, Repr

/-- A deferred entry of a ray (R101). -/
structure Deferred where
  node : BitVec 32
  pend : BitVec 16
  tent : BitVec 16
  deriving DecidableEq, Repr

/-- A ray message (R101) with what the engines keep beside it. -/
structure Ray where
  org : List (BitVec 32)
  dir : List (BitVec 32)
  tmin : BitVec 32
  tmax : BitVec 32
  next : BitVec 20
  rstc : Nat
  mode : RayMode
  ovf : Bool
  bestT : BitVec 32
  bestP : BitVec 32
  leaf : BitVec 32
  keyHit : Bool
  g : Gid
  slot : Nat
  gslot : Nat
  batch : Nat
  /-- top entry first -/
  stack : List Deferred
  scene : Nat
  gen : Nat
  launch : Nat
  part : Nat
  hitStage : Nat
  place : RayPlace
  /-- cycle at which it entered its queue (R104) -/
  arrived : Nat
  /-- its place among the rays of its queue or take -/
  order : Nat
  /-- cycle of what is next for it: arrival, the end of a move-in, the end of a pass -/
  due : Nat
  /-- the stacks on which the predictor has been asked (R428), and a leaf it proposed -/
  asked : List Nat
  proposal : Option (BitVec 32)
  /-- the leaf being tested, and its primitives already tested -/
  inLeaf : Option (BitVec 32)
  prim : Nat
  /-- the ray goes on with its deferred entries, not with NEXT (R102) -/
  popping : Bool
  /-- primitives already reported as any-hit records (R106) -/
  seen : List Nat
  /-- the treelet of its queue, and that queue's on-die capacity (R96) -/
  treelet : Nat
  qcap : Nat
  /-- the generation's treelet table, node-format table and number of treelets (R94) -/
  ttab : Word
  nft : Word
  ntree : Nat
  /-- the batch it belongs to -/
  bid : Nat
  deriving DecidableEq, Repr

/-- A predictor entry (R105). -/
structure Guess where
  scene : Nat
  gslot : Nat
  leaf : BitVec 32
  deriving DecidableEq, Repr

/-- A result record waiting to be released (R108). -/
structure HitRec where
  /-- the batch, the launch and the partition of its ray, and what RAYS counts it in (R95) -/
  bid : Nat
  launch : Nat
  part : Nat
  scene : Nat
  gslot : Nat
  slot : Nat
  final : Bool
  stage : Nat
  bytes : List Byte
  /-- cycle of its arrival at the die buffer, and whether it has arrived -/
  due : Nat
  arrived : Bool
  /-- it has found the stage's queue full (R429) -/
  blocked : Bool
  deriving DecidableEq, Repr

/-- A batch with live rays: the slots whose final record has not been released (R101, R108). -/
structure Batch where
  bid : Nat
  g : Gid
  launch : Nat
  slots : Mask
  deriving DecidableEq, Repr

/-- A draw queued in a die's raster engine (R115, R413). -/
structure Draw where
  die : Nat
  g : Gid
  launch : Nat
  part : Nat
  rec_ : Nat
  phase : CmdPhase
  status : Nat
  pixels : Nat
  redo : Nat
  rejected : Nat
  /-- cycle at which the engine starts it, and then that at which it is complete (entry 5) -/
  due : Nat
  deriving DecidableEq, Repr

/-- What a product of the matrix unit takes from its instruction (R388-R390): the formats, the mode, FTZ, whether scales
are read, and B. -/
structure MatOp where
  fa : ET
  fb : ET
  mode : Rnd
  ftz : Bool
  scaled : Bool
  b : Nat
  deriving DecidableEq, Repr

/-- A member waiting at a quad's rendezvous latch (R391): the group and slot of the split, what is compared (the words of
the instruction and all of MatOp), the tile, the first A register, the C register, the executing threads, and where a
refusal is reported. -/
structure LatchMember where
  g : Gid
  slot : Bool
  words : List Nat
  op : MatOp
  tile : Nat
  a : Nat
  c : Nat
  threads : Mask
  low : Nat
  len : Nat
  iw0 : BitVec 32
  omask : Mask
  deriving DecidableEq, Repr

/-- A matrix slot that has been given out (R392): the member, the lead whose program space holds B, and the last cycle of
the slot. -/
structure MatSlot where
  m : LatchMember
  lead : Gid
  until_ : Nat
  deriving DecidableEq, Repr

/-- The engines and everything outstanding. -/
structure Engines where
  ops : Tab Op
  /-- changes of full/empty bits in the logic-die cycle that now runs (R60) -/
  fe : List FeReq
  waiters : List Waiter
  cmds : Tab Cmd
  coll : List CollPart
  collEnds : List CollEnd
  /-- collectives of a tag that have ended here, by tag * 2^22 + another participant: both sides count alike, since a tag's commands
  match in issue order (R409) -/
  collTurns : Tab Nat
  rays : Tab Ray
  predictor : Tab Guess
  records : Tab HitRec
  batches : List Batch
  draws : List Draw
  /-- pushes and pops waiting at queue descriptors in order of arrival: descriptor, push, group (R379) -/
  queueWaits : List (Nat × Bool × Gid)
  /-- members waiting at the rendezvous latches (R391) -/
  latch : List LatchMember
  /-- matrix slots that have been given out and have not ended (R392) -/
  slots : List MatSlot
  deriving DecidableEq, Repr

/-! ### Why a step can stop -/

/-- The reasons a step can stop with a fault. -/
inductive Fault where
  /-- Raised by step when the module is LOCKED under R139 with no input left: every core and engine is stopped for good
  and only an input can go on. Safe: the hardware stands still there. -/
  | locked
  deriving DecidableEq, Repr

/-- The reasons a step can be refused. -/
inductive Refusal where
  /-- Raised by exec for an instruction that has no meaning in this model yet. Safe: nothing is claimed of it. -/
  | notModelled (mnemonic : String)
  deriving DecidableEq, Repr

/-! ### The state -/

/-- The whole machine. -/
structure State where
  clock : Clock
  ctl : Ctl
  fabric : Fabric
  stks : Tab Stack
  /-- bytes of HBM and the tier at their physical addresses (R38) -/
  mem : Mem
  /-- poisoned 32-byte atoms, by address (R52) -/
  poison : List Nat
  /-- die buffers: bytes keyed by view and physical address (R225) -/
  home : Tab CByte
  /-- the lines of each set of each die buffer, the latest used first; the owner of the unit holds them in its ways (R225) -/
  homeLines : Tab (List CLine)
  dieTlb : Tab (List TlbEntry)
  /-- the cores, keyed by die and core -/
  cores : Tab Core
  /-- the group whose instruction is issuing -/
  cur : Group
  /-- the other resident groups -/
  rest : List Group
  /-- saved groups (R200) -/
  saved : List Group
  teams : List Team
  launches : Tab Launch
  /-- packets presented to the arbiter and not yet decided: sequence numbers (R144) -/
  presented : List Nat
  nextSeq : Nat
  parts : Tab Part
  host : HostSide
  sec : Sec
  eng : Engines
  /-- the next identifier of an operation, command or ray -/
  nextId : Nat
  /-- events from outside still to be taken -/
  inputs : List Instr
  /-- the lane whose turn it is to choose, as die * 3072 + core * 64 + lane -/
  turn : Nat
  /-- counter of free values (entry 4) -/
  free : Nat
  deriving DecidableEq, Repr

/-! ### Reset -/

/-- No split. -/
def Split.empty : Split where
  mask := 0
  fmt := 0
  token := 0
  depth := 0
  part := false
  st := 0
  rtid := 0
  pc := 0
  rem := 0
  wait := .none
  age := 0
  charged := false
  quiet := false
  hand := false
  first := false
  sync := false

/-- Tracing off, nothing collected (R206). -/
def Trace.empty : Trace where
  on := false
  block := []
  packets := 0
  carried := 0
  first := 0
  last := 0
  sinceSync := 0
  syncCycle := 0
  wantSync := false
  lastSlot := false
  loss := 0
  lost := false

/-- No group. -/
def Group.empty : Group where
  id := ⟨0, 0, 0, 0⟩
  live := false
  launch := 0
  part := 0
  gix := 0
  stage := 0
  base := 16
  blk0 := false
  blk1 := false
  v := []
  g := []
  k := []
  q := []
  acct := 0
  tiles := []
  sp := Split.empty
  spLive := false
  slot := false
  other := none
  spill := []
  rejoin := []
  tokens := 0
  merges := 0
  cntL := 0
  cntS := 0
  cntC := 0
  cntT := 0
  hand := none
  shadow := []
  tcause := 0
  held := []
  abandoned := []
  bgt := 0
  spent := false
  dl := 0
  lsb := 0
  lsize := 0
  scrb := 0
  gangPos := 0
  gang := []
  block := none
  rcnt := 0
  lastLabel := 0
  lastDepth := 0
  trc := Trace.empty
  dbg := 0
  batch := 0
  depths := []
  revoked := 0
  arrivals := []
  hold := .none
  stop := none
  iw0 := 0
  denied := []
  wrote := []
  fillFaults := []
  usable := []

/-- A pseudo-channel at reset (entry 1). -/
def PChan.empty : PChan where
  power := .active
  idle := 0
  queue := []
  accs := []
  checkpoint := []
  saving := none
  debt := []
  busy := 0
  refreshBank := 0
  frame := 0

/-- A stack at reset: every unit flat or peer, no window, every bit empty (R57; entry 1). -/
def Stack.empty : Stack where
  hbmCache := []
  tierCache := []
  tierSets := []
  pcs := []
  banks := []
  remap := []
  corrected := []
  winBase := 0
  winSize := 0
  full := []

/-- A core at reset: nothing cached, comparators off (R204). -/
def Core.empty : Core where
  cache := []
  lines := []
  tlb := []
  bpc := []
  traceQ := []
  busy := []
  lastBest := []

/-- An empty partition, as PCREATE makes it (R122). -/
def Part.empty : Part where
  key := none
  cores := []
  ways := []
  units := []
  slots := []
  fabric := []
  rays := 0
  raysUsed := 0
  vfs := []
  peers := []
  tvec := 0
  ptroot := 0
  geobase := 0
  accbase := 0
  scnbase := 0
  savebase := 0
  trcdesc := 0
  poolbase := 0
  dry := .running
  since := 0
  debug := false
  errors := []
  traceLogged := []
  rptr := 0

/-- Firmware at reset: an image in slot A runs, none is staged (entry 1). -/
def Firmware.initial : Firmware where
  a := some ⟨[], 0⟩
  b := none
  runB := false
  staged := false

/-- The machine right after reset: no partition exists (R139), the security state is BOOTED, device time is not yet set
and the arbiters are closed (R35), every alarm source has its default policy (R138), nothing is resident. -/
def State.reset : State where
  clock :=
    { cycle := 0, part := 0, time := 0, timeSet := false, locked := false, slew := 0, slewGap := 0, rtc := 0,
      open_ := false }
  ctl :=
    { sample := { junction := [0, 0, 0, 0], dram := [], power := 0, inputMv := 48000, railBad := false, clockBad := false }
      powers := [], hot := [],
      halved := [], supplyAge := 0, subst := [], identity := [], retired := [], sparesUsed := [], remapQueue := [],
      remapping := none, lastRemap := none }
  fabric := { devid := 0, failedLanes := [], linksDown := [], outbox := [], nextTag := 0, waiting := [], malformed := [] }
  stks := []
  mem := []
  poison := []
  home := []
  homeLines := []
  dieTlb := []
  cores := []
  cur := Group.empty
  rest := []
  saved := []
  teams := []
  launches := []
  presented := []
  nextSeq := 0
  parts := []
  host :=
    { box := { mopnd := [], mres := [], rlen := 0, tag := 0, code := 0, running := none, port := [] }, ctxs := [],
      heldDoorbells := [], pendingRing := [], mem := [], msix := [], log := [], reports := [], priAlloc := [],
      priOff := [], pri := [], nextPri := 0 }
  sec :=
    { state := .booted, bootFailed := false, attestedOnce := false,
      policy := [(0, .erase), (1, .halt), (2, .halt), (3, .halt), (4, .report)], active := [],
      ctlFw := Firmware.initial, devFw := Firmware.initial, fusedSvn := 0, sessions := [], randoms := 0, nonce := none }
  eng :=
    { ops := [], fe := [], waiters := [], cmds := [], coll := [], collEnds := [], collTurns := [], rays := [], predictor := [], records := [], batches := [],
      draws := [], queueWaits := [], latch := [], slots := [] }
  nextId := 0
  inputs := []
  turn := 0
  free := 0

end Sys2Proof.Machine
end

