-- ==== Sys2Proof/Machine/Places.lean ====
section
/-!
DEFINITION. Threads and masks, the registers of a group (R170), and the places in the state: cores, partitions, launches,
teams, resident groups, split slots and the spill stack (R174, R175).
-/

namespace Sys2Proof.Machine

open Sys2Proof

/-! ### Threads -/

/-- The threads of a mask in ascending order (R8). -/
def threads (m : Mask) : List Nat := (List.range 32).filter (fun t => m.toNat.testBit t)

/-- Whether a thread is in a mask. -/
def inMask (m : Mask) (t : Nat) : Bool := m.toNat.testBit t

/-- The mask of a list of threads. -/
def maskOf (l : List Nat) : Mask := BitVec.ofNat 32 (l.foldl (fun acc t => acc ||| 2 ^ t) 0)

/-- The mask of the threads that satisfy a test. -/
def maskWhere (f : Nat → Bool) : Mask :=
  BitVec.ofNat 32 ((List.range 32).foldl (fun acc t => if f t then acc ||| 2 ^ t else acc) 0)

/-- The lowest thread of a mask; 0 for the empty mask. -/
def lowest (m : Mask) : Nat := (threads m).headD 0

/-- The number of threads of a mask. -/
def count (m : Mask) : Nat := (threads m).length

/-- The lowest `n` threads of a mask. -/
def firstThreads (m : Mask) (n : Nat) : Mask := maskOf ((threads m).take n)

/-! ### Registers of the group (R170) -/

/-- A row with the value that `f` gives each thread. -/
def Row.mk (f : Nat → Word) : Row := (List.range 32).map f

/-- The value of a thread in a row. -/
def Row.get (r : Row) (t : Nat) : Word := r.getD t 0

/-- A vector register of one thread. -/
def Group.vget (g : Group) (n t : Nat) : Word := Row.get (Tab.getD g.v n []) t

/-- Give a vector register a new row. -/
def Group.vrow (g : Group) (n : Nat) (f : Nat → Word) : Group := { g with v := Tab.set n (Row.mk f) g.v }

/-- Write a vector register for the threads of a mask; the others keep their values. -/
def Group.vset (g : Group) (n : Nat) (m : Mask) (f : Nat → Word) : Group :=
  g.vrow n (fun t => if inMask m t then f t else g.vget n t)

/-- A group register; `g31` reads zero (R170). -/
def Group.gget (g : Group) (n : Nat) : Word := if n = 31 then 0 else Tab.getD g.g n 0

/-- Write a group register; a write of `g31` is discarded (R170). -/
def Group.gset (g : Group) (n : Nat) (x : Word) : Group :=
  if n = 31 then g else { g with g := Tab.set n x g.g }

/-- A predicate register; `k0` reads all ones (R170). -/
def Group.kget (g : Group) (n : Nat) : Mask := if n = 0 then BitVec.allOnes 32 else Tab.getD g.k n 0

/-- Write the bits of a predicate register for the threads of a mask; a write of `k0` is discarded (R170). -/
def Group.kset (g : Group) (n : Nat) (m : Mask) (f : Nat → Bool) : Group :=
  if n = 0 then g
  else { g with k := Tab.set n (maskWhere (fun t => if inMask m t then f t else inMask (g.kget n) t)) g.k }

/-- The value an operand gives a thread: a `g` source gives every thread the same value (R289). -/
def Group.opd (g : Group) (o : Opd) (t : Nat) : Word :=
  match o with
  | .v n => g.vget n t
  | .g n => g.gget n

/-- Whether the group holds a vector register (R170, R171). -/
def Group.holdsV (g : Group) (n : Nat) : Bool :=
  n < g.base || (64 ≤ n && n < 80 && g.blk0) || (80 ≤ n && n < 96 && g.blk1)

/-- Whether an operand may be named: held, and in handler mode only `v0`-`v3` and `g28`-`g31` (R170, R195). -/
def Group.names (g : Group) (o : Opd) : Bool :=
  match o with
  | .v n => g.holdsV n && (g.hand.isNone || n.val < 4)
  | .g n => g.hand.isNone || 28 ≤ n.val

/-- Whether a tile may be named: the launch's ACCT tiles (R170, R387). -/
def Group.namesTile (g : Group) (a : Nat) : Bool := a < g.acct

/-! ### Executing threads (R166, R187) -/

/-- The threads of a mask whose predicate bit is true under KP and PN (R166). -/
def Group.predMask (g : Group) (p : Pred) : Mask :=
  let k := g.kget p.k.val
  if p.neg then ~~~k else k

/-- The executing threads of the issuing split: those of its mask under the predicate; after a trap, what remains of
them, without evaluating the predicate again (R166, R196, R356). -/
def Group.exec (g : Group) (p : Pred) : Mask :=
  if g.sp.st = 1 then g.sp.rem &&& maskWhere (fun t => g.sp.rtid.toNat ≤ t)
  else if g.sp.st = 2 then g.sp.rem
  else g.sp.mask &&& g.predMask p

/-- The executing threads of the whole instruction, for OMASK (R194). -/
def Group.omask (g : Group) (p : Pred) : Mask :=
  if g.sp.st = 0 then g.sp.mask &&& g.predMask p else g.sp.rem

/-- Where a refusal is reported: the lowest executing thread, or the lowest active one when none executes (R301). -/
def Group.reportAt (g : Group) (p : Pred) : Nat :=
  let e := g.exec p
  if e = 0 then lowest g.sp.mask else lowest e

/-! ### Places in the state -/

/-- Key of a core. -/
def coreKey (die core : Nat) : Nat := die * 64 + core

def State.core (s : State) (die core : Nat) : Core := Tab.getD s.cores (coreKey die core) Core.empty

def State.setCore (s : State) (die core : Nat) (c : Core) : State :=
  { s with cores := Tab.set (coreKey die core) c s.cores }

def State.part (s : State) (p : Nat) : Part := Tab.getD s.parts p Part.empty

def State.setPart (s : State) (p : Nat) (q : Part) : State := { s with parts := Tab.set p q s.parts }

def State.launch? (s : State) (seq : Nat) : Option Launch := Tab.get? seq s.launches

def State.updLaunch (s : State) (seq : Nat) (f : Launch → Launch) : State :=
  { s with launches := Tab.update seq f s.launches }

def State.stack (s : State) (n : Nat) : Stack := Tab.getD s.stks n Stack.empty

def State.setStack (s : State) (n : Nat) (k : Stack) : State := { s with stks := Tab.set n k s.stks }

/-- The team of a group. -/
def Team.has (t : Team) (g : Group) : Bool :=
  t.die == g.id.die && t.core == g.id.core && t.lane == g.id.lane && t.launch == g.launch

def State.team? (s : State) (g : Group) : Option Team := s.teams.find? (fun t => t.has g)

/-- Change the team of a group. -/
def State.updTeam (s : State) (g : Group) (f : Team → Team) : State :=
  { s with teams := s.teams.map (fun t => if t.has g then f t else t) }

/-- The resident group at a place. -/
def State.group? (s : State) (i : Gid) : Option Group :=
  if s.cur.live && s.cur.id == i then some s.cur else s.rest.find? (fun g => g.live && g.id == i)

/-- The saved group of a name. -/
def State.saved? (s : State) (i : Gid) : Option Group := s.saved.find? fun g => g.id == i

/-- The group of a name, resident or saved. -/
def State.anyGroup? (s : State) (i : Gid) : Option Group :=
  match s.group? i with
  | some g => some g
  | none => s.saved? i

/-- Change the group of a name: resident, or saved (a saved group has a name of its own, R200). -/
def State.updGroup (s : State) (i : Gid) (f : Group → Group) : State :=
  if s.cur.live && s.cur.id == i then { s with cur := f s.cur }
  else
    { s with
      rest := s.rest.map (fun g => if g.live && g.id == i then f g else g)
      saved := s.saved.map (fun g => if g.id == i then f g else g) }

/-- Make the group at a place the current one. -/
def State.focus (s : State) (i : Gid) : State :=
  if s.cur.live && s.cur.id == i then s
  else
    match s.rest.find? (fun g => g.live && g.id == i) with
    | none => s
    | some g =>
      let others := s.rest.filter (fun h => !(h.live && h.id == i))
      { s with cur := g, rest := if s.cur.live then s.cur :: others else others }

/-- Every resident group. -/
def State.groups (s : State) : List Group := if s.cur.live then s.cur :: s.rest else s.rest

/-- Change every resident and saved group. -/
def State.mapGroups (s : State) (f : Group → Group) : State :=
  { s with cur := f s.cur, rest := s.rest.map f, saved := s.saved.map f }

/-- A fresh identifier. -/
def State.fresh (s : State) : Nat × State := (s.nextId, { s with nextId := s.nextId + 1 })

/-- A free value, and the state with the counter advanced (entry 4). -/
def State.freeWord (s : State) : Word × State := (Config.freeValue s.free, { s with free := s.free + 1 })

/-- Report something to the host. -/
def State.report (s : State) (r : Report) : State :=
  { s with host := { s.host with reports := s.host.reports ++ [r] } }

/-- Log an event in a partition's error log. -/
def State.logError (s : State) (p : Nat) (e : ErrEvent) : State :=
  s.setPart p { s.part p with errors := (s.part p).errors ++ [e] }

/-- Mark a launch as guarantee voided, and report it (R154); only a guaranteed launch carries the promise. -/
def State.void (s : State) (seq : Nat) : State :=
  match s.launch? seq with
  | none => s
  | some l =>
    if l.p.cls = 0 && !l.voided then
      (s.updLaunch seq (fun l => { l with voided := true })).report (.voided seq)
    else s

/-! ### Splits and slots of the current group (R174, R175) -/

/-- The split in a slot of a group. -/
def Group.inSlot (g : Group) (slot : Bool) : Option Split :=
  if g.slot == slot then (if g.spLive then some g.sp else none) else g.other

/-- Put a split (or none) into a slot. -/
def Group.setSlot (g : Group) (slot : Bool) (o : Option Split) : Group :=
  if g.slot == slot then
    match o with
    | some p => { g with sp := p, spLive := true }
    | none => { g with spLive := false, sp := Split.empty }
  else { g with other := o }

/-- Make the split of a slot the issuing one. -/
def Group.select (g : Group) (slot : Bool) : Group :=
  if g.slot == slot then g
  else
    match g.other with
    | some p => { g with slot := slot, sp := p, spLive := true, other := if g.spLive then some g.sp else none }
    | none => { g with slot := slot, sp := Split.empty, spLive := false, other := if g.spLive then some g.sp else none }

/-- The most records a spill stack holds (R175). -/
def spillMax : Nat := 32

/-- A free slot takes the top spill record (R175); slot 0 first. -/
def Group.refill (g : Group) : Group :=
  match g.spill with
  | [] => g
  | p :: rest =>
    if (g.inSlot false).isNone then { g.setSlot false (some p) with spill := rest }
    else if (g.inSlot true).isNone then { g.setSlot true (some p) with spill := rest }
    else g

/-- Place a split in the lowest free slot, or push it (R175, R344); none where there is no room. -/
def Group.place (g : Group) (p : Split) : Option Group :=
  if (g.inSlot false).isNone then some (g.setSlot false (some p))
  else if (g.inSlot true).isNone then some (g.setSlot true (some p))
  else if g.spill.length < spillMax then some { g with spill := p :: g.spill }
  else none

/-- Whether any thread of the group is left in a slot, on the spill stack, parked or waiting to be placed. -/
def Group.hasThreads (g : Group) : Bool :=
  (g.inSlot false).isSome || (g.inSlot true).isSome || !g.spill.isEmpty
    || g.rejoin.any (fun e => e.merged.isSome || (!e.closed && e.arrived != 0))

end Sys2Proof.Machine
end

