-- ==== Sys2Proof/Machine/Memory.lean ====
section
/-!
DEFINITION. Memory as programs see it: the physical map (R38-R41), ownership of units (R126), page tables, walks and TLBs
(R211-R218), the three aliases of a viewable region (R61-R66), and the caches that hold bytes on their way to DRAM
(R224-R228).
-/

namespace Sys2Proof.Machine

open Sys2Proof

/-! ### Physical addresses (R38-R41) -/

/-- A memory unit: stack, whether it is a tier unit, and its number (R41, R123). -/
structure UnitId where
  stack : Nat
  tier : Bool
  unit : Nat
  deriving DecidableEq, Repr

/-- The unit of a physical address; none where the address is unpopulated (R38). -/
def unitOf (p : Nat) : Option UnitId :=
  if p < 12 * 2 ^ 36 then some ⟨p / 2 ^ 36, false, p % 2 ^ 36 / 2 ^ 30⟩
  else if 2 ^ 44 ≤ p && p < 2 ^ 44 + 12 * 2 ^ 38 then
    some ⟨(p - 2 ^ 44) / 2 ^ 38, true, (p - 2 ^ 44) % 2 ^ 38 / 2 ^ 30⟩
  else none

/-- Whether an address lies in a capacity-tier range of R38. -/
def inTier (p : Nat) : Bool := 2 ^ 44 ≤ p && p < 2 ^ 44 + 12 * 2 ^ 38

/-- Whether an address lies in the reserved region of its stack: the top 256 MiB of the HBM (R40). -/
def reservedAddr (p : Nat) : Bool := p < 12 * 2 ^ 36 && 2 ^ 36 - 2 ^ 28 ≤ p % 2 ^ 36

/-- Whether the stacks accept an access: populated, not reserved, and no HBM unit in cache mode (R38, R40, R41). -/
def State.reachable (s : State) (p : Nat) : Bool :=
  match unitOf p with
  | none => false
  | some u => !reservedAddr p && (u.tier || !(s.stack u.stack).hbmCache.contains u.unit)

/-- Whether a partition owns the unit of an address (R125, R126). -/
def State.owns (s : State) (part p : Nat) : Bool :=
  match unitOf p with
  | none => false
  | some u => (s.part part).units.contains (u.stack, u.tier, u.unit)

/-- The die that homes a physical address (R12). -/
def homeDie (p : Nat) : Nat :=
  match unitOf p with
  | some u => u.stack / 3
  | none => 0

/-- The place of a die on the ring DIE[0]-DIE[1]-DIE[3]-DIE[2]; link k of the ring joins place k and the next one clockwise
(R11; entry 16). -/
def ringPlace (die : Nat) : Nat := if die = 2 then 3 else if die = 3 then 2 else die

/-- The links from one place clockwise over n links. -/
def clockwise (from_ n : Nat) : List Nat := (List.range n).map fun i => (from_ + i) % 4

/-- The links that traffic between two dies crosses (R11): the shorter way, a diagonal clockwise, or the other way round the
ring where a link of that one is out of service. -/
def State.dieRoute (s : State) (a b : Nat) : List Nat :=
  let p := ringPlace a
  let q := ringPlace b
  let n := (q + 4 - p) % 4
  let r := if n ≤ 2 then (clockwise p n, clockwise q (4 - n)) else (clockwise q (4 - n), clockwise p n)
  if r.1.any s.fabric.linksDown.contains then r.2 else r.1

/-- Nominal cycles that the links to another die add (R190), with as much again for each link of a detour (entry 5). -/
def State.linkDelay (s : State) (a b : Nat) : Nat :=
  let n := (ringPlace b + 4 - ringPlace a) % 4
  if n = 0 then 0 else 120 * (1 + (s.dieRoute a b).length - min n (4 - n))

/-- The channel that serves an address: a pseudo-channel 0-63 (R39), or 64-71 for the tier, whose eight LP6 channels
interleave by 64-byte units (R41; the interleave is the model's, entry 16). -/
def channelOf (p : Nat) : Nat := if p < 12 * 2 ^ 36 then p / 2 ^ 10 % 64 else 64 + p / 64 % 8

/-- The stack that serves an address. -/
def stackOf (p : Nat) : Nat :=
  match unitOf p with
  | some u => u.stack
  | none => 0

/-! ### Bytes at the home (R225) -/

/-- Key of a byte in a cache: the view it was reached through (0 plain or tiled, 1 row, 2 column; 4 + n a remote module)
and its physical address. -/
def byteKey (space p : Nat) : Nat := space * 2 ^ 48 + p

/-- A byte as its home holds it: the die buffer's byte under the view, or what lies in DRAM. -/
def State.homeByte (s : State) (space p : Nat) : Byte :=
  match Tab.get? (byteKey space p) s.home with
  | some c => c.val
  | none => s.mem.byte p

/-- Bytes at the home through the plain view, from a physical address upward. -/
def State.homeBytes (s : State) (p n : Nat) : List Byte := (List.range n).map (fun i => s.homeByte 0 (p + i))

/-- A little-endian number at the home. -/
def State.homeNat (s : State) (p n : Nat) : Nat := leNat (s.homeBytes p n)

/-- Write a byte at its home: the die buffer holds it, dirty. -/
def State.setHome (s : State) (space p : Nat) (b : Byte) : State :=
  { s with home := Tab.set (byteKey space p) ⟨b, true⟩ s.home }

/-- The bank of an HBM address, numbered within its stack as pseudo-channel * 16 + bank (R39). -/
def bankOf (p : Nat) : Nat := channelOf p * 16 + (p / 2 ^ 16 % 16) ^^^ (p / 2 ^ 20 % 16)

/-- The row of an HBM address (R39, R54). -/
def rowOf (p : Nat) : RowId := ⟨stackOf p, channelOf p, bankOf p % 16, p / 2 ^ 20 % 2 ^ 16⟩

/-- A bank that is fenced, being scrubbed or failed (R56): its reads return poison and its writes are discarded. -/
def State.fenced (s : State) (p : Nat) : Bool :=
  p < 12 * 2 ^ 36 && (Tab.getD (s.stack (stackOf p)).banks (bankOf p) ⟨.open_, []⟩).state != .open_

/-- Write a byte to DRAM; a fenced bank discards it and records the atom in its fence log (R56). A FAILED bank does the same, which
is the model's choice (entry 48). -/
def State.dram (s : State) (p : Nat) (b : Byte) : State :=
  if s.fenced p then
    let k := s.stack (stackOf p)
    let n := Tab.getD k.banks (bankOf p) ⟨.open_, []⟩
    if n.log.contains (p / 32) then s
    else s.setStack (stackOf p) { k with banks := Tab.set (bankOf p) { n with log := n.log ++ [p / 32] } k.banks }
  else { s with mem := s.mem.put p b }

/-- Write a byte past the die buffer where it holds no such byte (policy 2, R226). -/
def State.setHomeBypass (s : State) (space p : Nat) (b : Byte) : State :=
  match Tab.get? (byteKey space p) s.home with
  | some _ => s.setHome space p b
  | none => s.dram p b

/-! ### The tier cache (R42) -/

/-- The sets of a stack's tier cache: 4 ways of 1 KiB lines in its cache-mode HBM units. -/
def Stack.tierSetCount (k : Stack) : Nat := k.hbmCache.length * 2 ^ 18

/-- Whether an address lies in a tier unit that the stack caches (R41). -/
def Stack.cachesTier (k : Stack) (p : Nat) : Bool :=
  inTier p && !k.hbmCache.isEmpty && k.tierCache.contains ((p - 2 ^ 44) % 2 ^ 38 / 2 ^ 30)

/-- The 1 KiB line of a tier address within its stack. -/
def tierLineOf (p : Nat) : Nat := (p - 2 ^ 44) % 2 ^ 38 / 2 ^ 10

/-- The ways of a line's set, the most recently used first; the set is the line's number modulo their count (entry 16). -/
def Stack.tierWays (k : Stack) (line : Nat) : List TierLine := Tab.getD k.tierSets (line % k.tierSetCount) []

/-- Whether the tier cache holds the line of an address. -/
def Stack.tierHit (k : Stack) (p : Nat) : Bool := (k.tierWays (tierLineOf p)).any fun w => w.tag == tierLineOf p

/-- The HBM address of a way of a set of the tier cache of stack n (entry 16). -/
def Stack.tierPlace (k : Stack) (n set way : Nat) : Nat :=
  n * 2 ^ 36 + k.hbmCache.getD (set / 2 ^ 18) 0 * 2 ^ 30 + (set % 2 ^ 18 * 4 + way) * 2 ^ 10

/-- What an access of a cached tier line does: the way that holds it then, whether it had to be filled, and the line that leaves
dirty. -/
structure TierUse where
  way : Nat
  filled : Bool
  victim : Option TierLine
  deriving DecidableEq, Repr

/-- An access of a line (R42): a hit makes it the most recent; a miss takes a free way, or that of the least recently used of
four. The set of a line is the model's choice (entry 16). -/
def Stack.tierAccess (k : Stack) (p : Nat) (write : Bool) : Stack × TierUse :=
  let line := tierLineOf p
  let ways := k.tierWays line
  let put := fun (l : List TierLine) => { k with tierSets := Tab.set (line % k.tierSetCount) l k.tierSets }
  match ways.find? fun w => w.tag == line with
  | some w => (put ({ w with dirty := w.dirty || write } :: ways.filter fun x => x.tag != line), ⟨w.way, false, none⟩)
  | none =>
    match (List.range 4).find? fun n => !ways.any fun w => w.way == n with
    | some n => (put (⟨line, n, write⟩ :: ways), ⟨n, true, none⟩)
    | none =>
      match ways.getLast? with
      | some v => (put (⟨line, v.way, write⟩ :: ways.dropLast), ⟨v.way, true, if v.dirty then some v else none⟩)
      | none => (k, ⟨0, true, none⟩)

/-! ### Requests (R44, R65) -/

/-- An atom that an access names in its view: its key, the storage that a read of it fetches, and the storage of the bytes that
are named. A column-alias atom is fetched with its whole square (R65). -/
structure Sector where
  key : Nat
  fetch : List Nat
  touch : List Nat
  deriving DecidableEq, Repr

/-- The unit of storage of an address: an atom of HBM or a 64-byte unit of the tier (R37, R41). -/
def storageOf (p : Nat) : Nat := if inTier p then p / 64 * 64 else p / 32 * 32

/-- The sector of one storage unit. -/
def Sector.plain (p : Nat) : Sector := ⟨storageOf p, [storageOf p], [storageOf p]⟩

/-- Join a sector into a list that names each key once. -/
def joinSector (x : Sector) : List Sector → List Sector
  | [] => [x]
  | y :: l => if y.key = x.key then { y with touch := (y.touch ++ x.touch).eraseDups } :: l else y :: joinSector x l

/-- A list of sectors with each key once. -/
def joinSectors (l : List Sector) : List Sector := l.foldl (fun acc x => joinSector x acc) []

/-- Atom-times of the sectors of one request (R65). -/
def sectorCost (write : Bool) (l : List Sector) : Nat :=
  let squares := ((l.filter fun x => 1 < x.fetch.length).map fun x => x.fetch).eraseDups
  (l.filter fun x => x.fetch.length ≤ 1).length + (squares.map fun q =>
    let mine := l.filter fun x => x.fetch == q
    if !write || (mine.length = q.length && mine.all fun x => x.touch.length = q.length) then q.length
    else q.length + ((mine.map fun x => x.touch).flatten.eraseDups).length).sum

/-- On whose behalf a request is made. -/
structure Asker where
  op : Option Nat
  launch : Option Nat
  part : Nat
  guaranteed : Bool
  deriving DecidableEq, Repr

/-- The channel of a stack, numbered over all stacks. -/
def channelNo (p : Nat) : Nat := stackOf p * 128 + channelOf p

/-- Put one request into the queue of its channel. It abandons a checkpoint that an entry into a power state waits for, and the
idle timer starts again (R50, R51). -/
def State.putReq (s : State) (c : Nat) (r : MemReq) : State :=
  let k := s.stack (c / 128)
  let pc := Tab.getD k.pcs (c % 128) PChan.empty
  let pc := { pc with queue := pc.queue ++ [r], saving := none, idle := if pc.saving.isSome then s.clock.cycle else pc.idle }
  s.setStack (c / 128) { k with pcs := Tab.set (c % 128) pc k.pcs }

/-- The pieces of a list, n long but for the last. -/
def piecesOf {α : Type} : (fuel n : Nat) → List α → List (List α)
  | 0, _, _ => []
  | fuel + 1, n, l => if l.isEmpty then [] else l.take n :: piecesOf fuel n (l.drop n)

/-- The coalesced requests of sectors that lie outside the tier cache: for each channel, requests of at most 32 sectors
(R44). -/
def State.sendReqs (s : State) (a : Asker) (write : Bool) (l : List Sector) : State :=
  let chans := (l.map fun x => channelNo x.key).eraseDups
  let reqs := (chans.map fun c =>
    (piecesOf (l.length + 1) 32 (l.filter fun x => channelNo x.key == c)).map fun q => (c, q)).flatten
  reqs.foldl (fun s e =>
    s.putReq e.1 { op := a.op, launch := a.launch, part := a.part, guaranteed := a.guaranteed
                   atoms := ((e.2.map fun x => if write && x.fetch.length ≤ 1 then x.touch else x.fetch).flatten).eraseDups
                   sectors := e.2.length, cost := sectorCost write e.2, write := write, siblings := reqs.length }) s

/-- The storage units of a 1 KiB line. -/
def lineUnits (p : Nat) : List Nat :=
  if inTier p then (List.range 16).map fun i => p / 1024 * 1024 + 64 * i else (List.range 32).map fun i => p / 1024 * 1024 + 32 * i

/-- An access of a cached tier unit (R42): the HBM that holds its line is accessed; a miss fills the line from the tier first,
and then a dirty victim goes back. The state and the HBM address of the unit. -/
def State.throughTier (s : State) (a : Asker) (write : Bool) (p : Nat) : State × Nat :=
  let n := stackOf p
  let k := s.stack n
  let set := tierLineOf p % k.tierSetCount
  let r := k.tierAccess p write
  let at_ := k.tierPlace n set r.2.way
  let s := s.setStack n r.1
  let s := if r.2.filled then
      (s.sendReqs a false ((lineUnits p).map Sector.plain)).sendReqs a true ((lineUnits at_).map Sector.plain) else s
  let s := match r.2.victim with
    | none => s
    | some v =>
      let old := 2 ^ 44 + n * 2 ^ 38 + v.tag * 2 ^ 10
      let b := { a with op := none }
      (s.sendReqs b false ((lineUnits at_).map Sector.plain)).sendReqs b true ((lineUnits old).map Sector.plain)
  (s, at_ + p % 1024)

/-- The requests of an access (R44): what lies in a cached tier unit goes through the tier cache. -/
def State.ask (s : State) (a : Asker) (write : Bool) (l : List Sector) : State :=
  let l := joinSectors l
  let far := l.filter fun x => (s.stack (stackOf x.key)).cachesTier x.key
  let r := far.foldl (fun (acc : State × List Sector) x =>
    let u := acc.1.throughTier a write x.key
    (u.1, acc.2 ++ [Sector.plain u.2, Sector.plain (u.2 + 32)])) (s, [])
  r.1.sendReqs a write (joinSectors ((l.filter fun x => !(s.stack (stackOf x.key)).cachesTier x.key) ++ r.2))

/-- The partition that owns the unit of an address (R125, R126). -/
def State.ownerOf (s : State) (p : Nat) : Nat :=
  match s.parts.find? fun (e : Nat × Part) => s.owns e.1 p with
  | some e => e.1
  | none => 0

/-- A write-back from the die buffer to DRAM: it serves no one. -/
def State.askBack (s : State) (ps : List Nat) : State :=
  match ps with
  | [] => s
  | p :: _ => s.ask ⟨none, none, s.ownerOf p, false⟩ true (ps.map Sector.plain)

/-! ### Lines of the caches (R224-R226) -/

/-- Sets and ways of a core cache, and sets and ways of a die buffer: 64-byte lines. -/
def coreSets : Nat := 256
def coreWays : Nat := 8
def bufferSets : Nat := 32768

/-- Whether a line holds a byte of a cache. -/
def CLine.holds (c : Tab CByte) (l : CLine) : Bool := l.keys.any fun k => (Tab.get? k c).isSome

/-- Take a line into a set of n ways: the lines with it in front, and the line that leaves. A full set gives up a line of policy
0 before one that is kept (R226); the choice among equals is free (entry 14), and a set without ways holds nothing. -/
def useLine (n choice : Nat) (l : CLine) (set : List CLine) : List CLine × Option CLine :=
  match set.find? fun x => x.tag == l.tag with
  | some x => ({ l with keep := x.keep || l.keep } :: set.filter fun y => y.tag != l.tag, none)
  | none =>
    if n = 0 then (set, some l)
    else if set.length < n then (l :: set, none)
    else
      let plain := set.filter fun x => !x.keep
      let from_ := (if plain.isEmpty then set else plain).reverse
      match from_[choice % from_.length]? with
      | some v => (l :: set.filter fun x => x.tag != v.tag, some v)
      | none => (l :: set, none)

/-- The ways of a die buffer that a partition owns (R125). -/
def State.waysOn (s : State) (part die : Nat) : Nat := ((s.part part).ways.filter fun w => w.1 == die).length

/-- A line leaves a die buffer: its dirty bytes go to DRAM. -/
def State.leaveHome (s : State) (l : CLine) : State :=
  let out := (l.keys.filter fun k => k < 3 * 2 ^ 48).filterMap fun k =>
    (Tab.get? k s.home).bind fun c => if c.dirty then some (k % 2 ^ 48, c.val) else none
  let s := { s with home := s.home.filter fun e => !l.keys.contains e.1 }
  (out.foldl (fun (s : State) e => s.dram e.1 e.2) s).askBack (out.map fun e => e.1)

/-- A die buffer holds a line that has been filled or written there (R225): in the ways of the partition that owns it. -/
def State.useHome (s : State) (l : CLine) : State :=
  let p := l.tag % 2 ^ 48
  let part := s.ownerOf p
  let die := homeDie p
  let set := (part * 4 + die) * bufferSets + l.tag / 64 % bufferSets
  let old := Tab.getD s.homeLines set []
  let r := useLine (s.waysOn part die) (Config.freeChoice s.free) l old
  let s := { s with homeLines := Tab.set set r.1 s.homeLines }
  match r.2 with
  | none => s
  | some v => { s with free := s.free + 1 }.leaveHome v

/-- The plain lines that meet the bytes [p, p + n). -/
def plainLines (p n : Nat) : List CLine :=
  (List.range ((p + n + 63) / 64 - p / 64)).map fun i =>
    let lo := (p / 64 + i) * 64
    ⟨lo, false, (List.range 64).map (lo + ·)⟩

/-- Write bytes at the home through the plain view. -/
def State.putHome (s : State) (p : Nat) (bs : List Byte) : State :=
  (plainLines p bs.length).foldl State.useHome ((bs.zipIdx).foldl (fun s e => s.setHome 0 (p + e.2) e.1) s)

/-! ### Page tables (R213-R217) -/

/-- A leaf that a walk found: its level, the 64-bit entry, the virtual page, and where the entry stands. -/
structure Leaf where
  level : Nat
  entry : Nat
  base : Nat
  size : Nat
  deriving DecidableEq, Repr

/-- What a walk finds (R216). -/
inductive Walk where
  | leaf (l : Leaf)
  /-- P is 0 at a level; the entry stands in a leaf's place, and its LCL bit marks the page host-backed -/
  | absent (level : Nat) (leafPlace hostBacked : Bool) (entryAt : Nat)
  /-- 0x07: a reserved bit, a wrong LEAF, an entry no access reaches -/
  | bad
  deriving DecidableEq, Repr

/-- Bit n of an entry. -/
def bitAt (e n : Nat) : Bool := e.testBit n

/-- The bytes of VA that a leaf of a level maps. -/
def levelSize (level : Nat) : Nat := 2 ^ (12 + 9 * level)

/-- Whether a leaf is well formed for its level (R214-R216). -/
def leafOk (level e : Nat) : Bool :=
  if bitAt e 4 then (level == 1 || level == 2) && !bitAt e 2 && field e 12 3 == 0
  else
    field e 48 8 == 0 && field e 10 2 == 0 && (level == 0 || !bitAt e 8)
      && (field e 56 2 == 0 || (bitAt e 9 && !bitAt e 7))
      && (bitAt e 9 || !bitAt e 7)

/-- Whether a table entry has only its own bits set (R213). -/
def tableOk (e : Nat) : Bool := field e 48 16 == 0 && field e 1 11 == 0

/-- The sixteen aligned level-0 entries around an index (R217). -/
def State.block16 (s : State) (table idx : Nat) : List Nat :=
  (List.range 16).map (fun j => s.homeNat (table + 8 * (idx / 16 * 16 + j)) 8)

/-- The level-0 entry an access uses: where a block with PS64 set differs, one of the sixteen (R217, free choice). -/
def State.entry0 (s : State) (table idx : Nat) : Nat :=
  let es := s.block16 table idx
  let e := es.getD (idx % 16) 0
  if es.any (fun x => bitAt x 8) && !es.all (fun x => x == e) then es.getD (Config.freeChoice s.free % 16) 0 else e

/-- One level of the walk and those below it (R213, R216); `level` counts down from 3. -/
def State.walkAt (s : State) (part va : Nat) : (level : Nat) → (table : Nat) → Walk
  | 0, table =>
    let idx := va / 2 ^ 12 % 512
    let at_ := table + 8 * idx
    if !s.reachable at_ || !s.owns part at_ then .bad
    else
      let e := s.entry0 table idx
      if !bitAt e 0 then .absent 0 true (!bitAt e 9) at_
      else if !bitAt e 5 || !leafOk 0 e then .bad
      else if bitAt e 8 then .leaf ⟨0, e, va / 2 ^ 16 * 2 ^ 16, 2 ^ 16⟩
      else .leaf ⟨0, e, va / 2 ^ 12 * 2 ^ 12, 2 ^ 12⟩
  | n + 1, table =>
    let idx := va / levelSize (n + 1) % (if n + 1 = 3 then 8192 else 512)
    let at_ := table + 8 * idx
    if !s.reachable at_ || !s.owns part at_ then .bad
    else
      let e := s.homeNat at_ 8
      let leaf := bitAt e 5
      if !bitAt e 0 then .absent (n + 1) (n + 1 != 3 && leaf) (n + 1 != 3 && leaf && !bitAt e 9) at_
      else if leaf then
        if n + 1 = 3 || !leafOk (n + 1) e then .bad
        else .leaf ⟨n + 1, e, va / levelSize (n + 1) * levelSize (n + 1), levelSize (n + 1)⟩
      else if !tableOk e then .bad
      else s.walkAt part va n (field e 12 36 * 2 ^ 12)

/-- The walk of a partition's tables (R213). -/
def State.walk (s : State) (part va : Nat) : Walk := s.walkAt part va 3 (s.part part).ptroot.toNat

/-- A remote leaf that names this module becomes the local leaf of R28. -/
def State.localise (s : State) (l : Leaf) : Leaf :=
  if bitAt l.entry 4 && field l.entry 42 22 == s.fabric.devid.toNat then
    let p := field l.entry 15 27 * 2 ^ 21
    let p := if l.level = 2 then p / 2 ^ 30 * 2 ^ 30 else p
    { l with entry := 1 + (if bitAt l.entry 1 then 2 else 0) + (if bitAt l.entry 3 then 8 else 0) + 2 ^ 5
        + (if inTier p then 2 ^ 7 else 0) + 2 ^ 9 + p + field l.entry 6 6 * 2 ^ 58 }
  else l

/-! ### TLBs (R218) -/

/-- The entries that a core TLB holds, and the sets and ways of a die TLB (R218); the oldest entry leaves a full TLB or a full set
(entry 8). -/
def coreTlbMax : Nat := 64
def dieTlbSets : Nat := 512
def dieTlbWays : Nat := 8

/-- A cached translation of an address. -/
def tlbFind (part va : Nat) (l : List TlbEntry) : Option TlbEntry :=
  l.find? (fun e => e.part == part && decide (e.base ≤ va) && decide (va < e.base + e.size))

def TlbEntry.toLeaf (e : TlbEntry) : Leaf := ⟨e.level, e.leaf.toNat, e.base, e.size⟩

def Leaf.toTlb (part : Nat) (l : Leaf) : TlbEntry := ⟨part, l.base, l.size, l.level, BitVec.ofNat 64 l.entry⟩

/-- The sizes of a page (R213, R214, R217). -/
def pageSizes : List Nat := [2 ^ 12, 2 ^ 16, 2 ^ 21, 2 ^ 30]

/-- The set of a die TLB that holds the page of an address, for pages of one size: its number modulo the sets (entry 8). -/
def dieTlbSet (die size va : Nat) : Nat := die * dieTlbSets + va / size % dieTlbSets

/-- A translation that a die TLB holds. -/
def State.dieFind (s : State) (die part va : Nat) : Option TlbEntry :=
  pageSizes.findSome? fun n => tlbFind part va ((Tab.getD s.dieTlb (dieTlbSet die n va) []).filter fun e => e.size == n)

/-- Cache a translation in a die TLB. -/
def State.cacheDie (s : State) (die part : Nat) (l : Leaf) : State :=
  let k := dieTlbSet die l.size l.base
  { s with dieTlb := Tab.set k ((l.toTlb part :: Tab.getD s.dieTlb k []).take dieTlbWays) s.dieTlb }

/-- Cache a translation in a core TLB. -/
def State.cacheCore (s : State) (die core part : Nat) (l : Leaf) : State :=
  let c := s.core die core
  s.setCore die core { c with tlb := (l.toTlb part :: c.tlb).take coreTlbMax }

/-- Find the leaf of an address: the core TLB, the die TLB, or a walk (R218). Only a present leaf is cached. -/
def State.findLeaf (s : State) (die core part va : Nat) : Walk × State :=
  match tlbFind part va (s.core die core).tlb with
  | some e => (.leaf e.toLeaf, s)
  | none =>
    match s.dieFind die part va with
    | some e => (.leaf e.toLeaf, s.cacheCore die core part e.toLeaf)
    | none =>
      match s.walk part va with
      | .leaf l =>
        let l := s.localise l
        (.leaf l, { (s.cacheCore die core part l).cacheDie die part l with free := s.free + 1 })
      | w => (w, s)

/-! ### Aliases (R61-R66) -/

/-- A geometry entry from its 128 bits (R62). -/
def Geo.of (n : Nat) : Geo where
  valid := bitAt n 118
  alog := field n 112 6
  esz := 2 ^ field n 110 2
  pitch := field n 86 24
  cols := field n 62 24
  rows := field n 38 24
  pbase := field n 0 38 * 1024

/-- n of R61: elements in one atom. -/
def Geo.n (g : Geo) : Nat := 32 / g.esz

def Geo.rowsE (g : Geo) : Nat := g.rows * g.n
def Geo.colsE (g : Geo) : Nat := g.cols * g.n

/-- Bytes of an alias of the region. -/
def Geo.extent (g : Geo) : Nat := g.rowsE * g.colsE * g.esz

/-- Bytes of one square. -/
def Geo.square (g : Geo) : Nat := g.n * 32

/-- The physical address of byte b of element (i, j) (R61). -/
def Geo.physAt (g : Geo) (i j b : Nat) : Nat :=
  g.pbase + (i / g.n * g.pitch + j / g.n) * g.square + (i % g.n * g.n + j % g.n) * g.esz + b

/-- The element and byte of an offset in an alias: row 1, column 2, tiled 3 (R64). -/
def Geo.element (g : Geo) (view o : Nat) : Nat × Nat × Nat :=
  let e := o / g.esz
  let b := o % g.esz
  if view = 1 then (e / g.colsE, e % g.colsE, b)
  else if view = 2 then (e % g.rowsE, e / g.rowsE, b)
  else
    let sq := e / (g.n * g.n)
    let w := e % (g.n * g.n)
    (sq / g.cols * g.n + w / g.n, sq % g.cols * g.n + w % g.n, b)

/-- The offset of an element in an alias (R64). -/
def Geo.offset (g : Geo) (view i j b : Nat) : Nat :=
  if view = 1 then (i * g.colsE + j) * g.esz + b
  else if view = 2 then (j * g.rowsE + i) * g.esz + b
  else ((i / g.n * g.cols + j / g.n) * g.n * g.n + i % g.n * g.n + j % g.n) * g.esz + b

/-- The physical address of an offset in an alias. -/
def Geo.phys (g : Geo) (view o : Nat) : Nat :=
  let e := g.element view o
  g.physAt e.1 e.2.1 e.2.2

/-- The element and byte that a physical address of the region holds. -/
def Geo.ofPhys (g : Geo) (p : Nat) : Option (Nat × Nat × Nat) :=
  if p < g.pbase then none
  else
    let d := p - g.pbase
    let sq := d / g.square
    let w := d % g.square
    let i := sq / g.pitch
    let j := sq % g.pitch
    if i < g.rows && j < g.cols then some (i * g.n + w / 32, j * g.n + w % 32 / g.esz, w % g.esz) else none

/-- Whether some square of the region meets the bytes [lo, hi). -/
def Geo.meets (g : Geo) (lo hi : Nat) : Bool :=
  let len := g.cols * g.square
  let step := g.pitch * g.square
  let i := if lo < g.pbase + len then 0 else (lo - len - g.pbase) / step + 1
  i < g.rows && g.pbase + i * step < hi

/-- Whether an entry is usable (R63): its fields, and every byte of the region in HBM flat units of one stack outside the
reserved region. -/
def State.usable (s : State) (g : Geo) : Bool :=
  g.valid && 12 ≤ g.alog && g.alog ≤ 40 && g.cols ≤ g.pitch && 0 < g.cols && 0 < g.rows && g.extent ≤ 2 ^ g.alog
    && g.pbase < 12 * 2 ^ 36
    && (let st := g.pbase / 2 ^ 36
        let last := g.pbase + ((g.rows - 1) * g.pitch + g.cols) * g.square
        last ≤ st * 2 ^ 36 + 2 ^ 36 - 2 ^ 28
          && (s.stack st).hbmCache.all (fun u => !g.meets (st * 2 ^ 36 + u * 2 ^ 30) (st * 2 ^ 36 + (u + 1) * 2 ^ 30)))

/-- The physical address of a byte: 48 bits (R38). -/
def Map.phys (m : Map) (va : Nat) : Nat :=
  (match m.geo with
  | none => m.pbase + (va - m.vbase)
  | some (g, view) => g.phys view (va % 2 ^ g.alog)) % 2 ^ 48

/-- Whether a physical address lies in the context table, the device registers that a page may map (R120). -/
def ctxSpace (p : Nat) : Bool := 0xFF0000000000 ≤ p && p < 0xFF0000000000 + 2 ^ 22

/-- The 2,048 bits of a context's record (R127). -/
def Ctx.bits (c : Ctx) : Nat :=
  (if c.valid then 1 else 0) + (if c.fault then 2 else 0) + c.rsize * 2 ^ 2 + c.part * 2 ^ 6 + c.vf * 2 ^ 12 + c.msix * 2 ^ 21
    + c.tail.toNat * 2 ^ 288 + c.head.toNat * 2 ^ 320 + c.fbgt * 2 ^ 352 + c.fdl * 2 ^ 384 + c.period * 2 ^ 416
    + c.ringBase.toNat * 2 ^ 448 + c.statBase.toNat * 2 ^ 512

/-- A byte of the context table, which holds 256 bytes for each context (R120, R127). -/
def State.ctxByte (s : State) (p : Nat) : Byte :=
  let o := p % 2 ^ 22
  match Tab.get? (o / 256) s.host.ctxs with
  | some c => BitVec.ofNat 8 (field c.bits (o % 256 * 8) 8)
  | none => 0

/-- A byte behind a page of space 3: host memory, or the context table. -/
def State.farByte (s : State) (m : Map) (p : Nat) : Byte := if m.dev = 1 then s.ctxByte p else s.host.mem.byte p

/-- Whether the addresses reach device memory of this module. -/
def Map.isLocal (m : Map) : Bool := m.space < 3

/-- Whether a page is plain device memory or a remote page: where sync words may lie (R230). -/
def Map.plain (m : Map) : Bool := (m.space == 0 && m.geo.isNone) || 4 ≤ m.space

/-- The page frame of a plain leaf: FRAME with the bits below the page size ignored (R214). -/
def leafFrame (l : Leaf) : Nat := field l.entry 12 36 * 2 ^ 12 / l.size * l.size

/-- The place in the module where a table entry of a partition stands, reached through a plain page of its own memory
(R212, R126). -/
def State.tablePhys (s : State) (part va : Nat) : Option Nat :=
  match s.walk part va with
  | .leaf l =>
    let l := s.localise l
    if bitAt l.entry 4 || field l.entry 56 2 != 0 || !bitAt l.entry 9 then none
    else
      let p := leafFrame l + (va - l.base)
      if s.reachable p && s.owns part p && bitAt l.entry 7 == inTier p then some p else none
  | _ => none

/-- Bytes of a table of a partition, where they can be read. -/
def State.tableNat (s : State) (part va n : Nat) : Option Nat :=
  match s.tablePhys part va with
  | some p => some (s.homeNat p n)
  | none => none

/-- The geometry entry of an index in a partition's table (R62), where it can be read. -/
def State.geo? (s : State) (part idx : Nat) : Option Geo :=
  match s.tableNat part ((s.part part).geobase.toNat + 16 * idx) 16 with
  | some n => some (Geo.of n)
  | none => none

/-- What an access asks of a page. -/
structure Acc where
  die : Nat
  core : Nat
  part : Nat
  write : Bool
  fetch : Bool
  /-- made in handler mode, or by a unit that needs no U bit (R216) -/
  handler : Bool
  deriving DecidableEq, Repr

/-- The map of a leaf, or the cause that refuses it (R216): permissions, ownership and range, and an unusable alias. -/
def State.mapOf (s : State) (a : Acc) (l : Leaf) (va size : Nat) : Except (BitVec 8) Map :=
  if (a.write && !bitAt l.entry 1) || (a.fetch && !bitAt l.entry 2) || (!a.handler && !bitAt l.entry 3) then .error 0x07
  else if bitAt l.entry 4 then
    let p := field l.entry 15 27 * 2 ^ 21 / l.size * l.size
    .ok ⟨4 + field l.entry 42 22, none, l.base, p, field l.entry 42 22, field l.entry 6 6, false, bitAt l.entry 1⟩
  else if !bitAt l.entry 9 then .ok ⟨3, none, l.base, leafFrame l, 0, 0, bitAt l.entry 6, bitAt l.entry 1⟩
  else
    let view := field l.entry 56 2
    let epart := field l.entry 58 6
    if view = 0 && ctxSpace (leafFrame l + (va - l.base)) then
      if !a.handler || bitAt l.entry 3 || bitAt l.entry 7 || a.write || !ctxSpace (leafFrame l + (va - l.base) + size - 1) then
        .error 0x07
      else .ok ⟨3, none, l.base, leafFrame l, 1, 0, bitAt l.entry 6, false⟩
    else if view = 0 then
      let m : Map := ⟨0, none, l.base, leafFrame l, 0, 0, bitAt l.entry 6, bitAt l.entry 1⟩
      let ps := (List.range size).map (fun i => m.phys (va + i))
      if bitAt l.entry 7 != inTier m.pbase then .error 0x07
      else if ps.all (fun p => s.reachable p && s.owns epart p && s.owns a.part p) then .ok m
      else .error 0x07
    else
      match s.geo? a.part (field l.entry 36 12) with
      | none => .error 0x12
      | some g =>
        let m : Map := ⟨view % 3, some (g, view), l.base, 0, 0, 0, bitAt l.entry 6, bitAt l.entry 1⟩
        if !s.usable g then .error 0x12
        else if g.extent < va % 2 ^ g.alog + size then .error 0x12
        else
          let ps := (List.range size).map (fun i => m.phys (va + i))
          if ps.all (fun p => s.owns epart p && s.owns a.part p) then .ok m else .error 0x07

/-- Translate an access of `size` bytes at a 64-bit address, aligned to `align` (R211, R213-R216). -/
def State.translate (s : State) (a : Acc) (va : Word) (size align : Nat) : Except (BitVec 8) Map × State :=
  if va.toNat % align != 0 then (.error 0x04, s)
  else if 2 ^ 52 ≤ va.toNat then (.error 0x07, s)
  else
    match s.findLeaf a.die a.core a.part va.toNat with
    | (.leaf l, s) => (s.mapOf a l va.toNat size, s)
    | (.absent _ _ _ _, s) => (.error 0x06, s)
    | (.bad, s) => (.error 0x07, s)

/-- How a unit of the module reaches an address of a partition: by a walk, through the access rules, without the U bit. The
context table is not one of its places (R120). -/
def State.unitLeaf (s : State) (part va size : Nat) (write : Bool) (w : Walk) : Except (BitVec 8) Map :=
  if 2 ^ 52 ≤ va then .error 0x07
  else
    match w with
    | .leaf l =>
      match s.mapOf ⟨0, 0, part, write, false, true⟩ l va size with
      | .ok m => if m.space = 3 && m.dev = 1 then .error 0x07 else .ok m
      | .error c => .error c
    | .absent _ _ _ _ => .error 0x06
    | .bad => .error 0x07

/-- A walk whose leaf is taken as R28 takes it. -/
def State.walkHere (s : State) (part va : Nat) : Walk :=
  match s.walk part va with
  | .leaf l => .leaf (s.localise l)
  | w => w

def State.unitMap (s : State) (part va size : Nat) (write : Bool) : Except (BitVec 8) Map :=
  s.unitLeaf part va size write (s.walkHere part va)

/-- An engine's way to memory: its die, whose TLB it shares with the die's cores, the partition, and the pages that its command
has pinned (R88, R218). -/
structure Via where
  die : Nat
  part : Nat
  pins : List TlbEntry
  deriving DecidableEq, Repr

/-- What an engine translates an address to. -/
def State.viaLeaf (s : State) (u : Via) (va : Nat) : Walk :=
  match tlbFind u.part va u.pins with
  | some e => .leaf e.toLeaf
  | none =>
    match s.dieFind u.die u.part va with
    | some e => .leaf e.toLeaf
    | none => s.walkHere u.part va

/-- The map of an engine's access. -/
def State.viaMap (s : State) (u : Via) (va size : Nat) (write : Bool) : Except (BitVec 8) Map :=
  s.unitLeaf u.part va size write (s.viaLeaf u va)

/-- The die TLB after an engine has used the page of an address: a walk leaves its leaf there (R218). -/
def State.fillDie (s : State) (u : Via) (va : Nat) : State :=
  if (tlbFind u.part va u.pins).isSome || (s.dieFind u.die u.part va).isSome then s
  else
    match s.walkHere u.part va with
    | .leaf l => { s.cacheDie u.die u.part l with free := s.free + 1 }
    | _ => s

/-! ### The caches (R224-R228) -/

/-- The keys of the bytes of the 64-byte lines that an access touches, in the order of the page. -/
def Map.lineKeys (m : Map) (va size : Nat) : List (Nat × Nat) :=
  let lo := va / 64 * 64
  let hi := (va + size + 63) / 64 * 64
  let hi := match m.geo with
    | none => hi
    | some (g, _) => min hi (va / 2 ^ g.alog * 2 ^ g.alog + g.extent)
  (List.range (hi - lo)).map (fun i => (m.space, m.phys (lo + i)))

/-- The pieces of a list, n long but for the last, as lines of a cache: each is named by the key of its first byte. -/
def linesOf (keep : Bool) (ks : List (Nat × Nat)) : List CLine :=
  (piecesOf (ks.length + 1) 64 (ks.map fun k => byteKey k.1 k.2)).map fun l => ⟨l.headD 0, keep, l⟩

/-- The 64-byte lines that an access touches. -/
def Map.lines (m : Map) (keep : Bool) (va size : Nat) : List CLine := linesOf keep (m.lineKeys va size)

/-- The sectors of an access (R44, R65). -/
def Map.sectors (m : Map) (va n : Nat) : List Sector :=
  joinSectors ((List.range n).map fun i =>
    let p := m.phys (va + i)
    match m.geo with
    | some (g, 2) =>
      let e := g.element 2 ((va + i) % 2 ^ g.alog)
      let sq := g.physAt (e.1 / g.n * g.n) (e.2.1 / g.n * g.n) 0 % 2 ^ 48
      ⟨sq + e.2.1 % g.n * 32, (List.range g.n).map fun k => sq + 32 * k, [storageOf p]⟩
    | _ => Sector.plain p)

/-- A byte as a core sees it on the CORE path (R224, R238). -/
def State.coreByte (s : State) (die core : Nat) (m : Map) (va : Nat) : Byte :=
  let p := m.phys va
  if m.space = 3 then s.farByte m p
  else
    match Tab.get? (byteKey m.space p) (s.core die core).cache with
    | some c => c.val
    | none => s.homeByte m.space p

/-- Bytes as a core sees them. -/
def State.coreBytes (s : State) (die core : Nat) (m : Map) (va n : Nat) : List Byte :=
  (List.range n).map (fun i => s.coreByte die core m (va + i))

/-- Bytes as the home holds them, for atomics and engines. -/
def State.mapBytes (s : State) (m : Map) (va n : Nat) : List Byte :=
  (List.range n).map (fun i =>
    if m.space = 3 then s.farByte m (m.phys (va + i)) else s.homeByte m.space (m.phys (va + i)))

/-- Bring lines into the die buffer, clean (R225). -/
def State.fillHome (s : State) (ls : List CLine) : State :=
  let s := { s with home := (ls.map fun l => l.keys).flatten.foldl (fun h k =>
      match Tab.get? k h with
      | some _ => h
      | none => Tab.set k ⟨s.mem.byte (k % 2 ^ 48), false⟩ h) s.home }
  ls.foldl State.useHome s

/-- A line leaves a core cache: its dirty bytes go to their home (R224). -/
def State.leaveCore (s : State) (die core : Nat) (l : CLine) : State :=
  let c := s.core die core
  let out := (l.keys.filter fun k => k < 3 * 2 ^ 48).filterMap fun k =>
    (Tab.get? k c.cache).bind fun b => if b.dirty then some (k, b.val) else none
  let s := s.setCore die core { c with cache := c.cache.filter fun e => !l.keys.contains e.1 }
  if out.isEmpty then s
  else { s with home := out.foldl (fun h (e : Nat × Byte) => Tab.set e.1 ⟨e.2, true⟩ h) s.home }.useHome l

/-- A core cache holds a line: 8 ways a set, the set by the number of the line (R224; entry 14). -/
def State.useCore (s : State) (die core : Nat) (l : CLine) : State :=
  let c := s.core die core
  let set := l.tag / 64 % coreSets
  let r := useLine coreWays (Config.freeChoice s.free) l (Tab.getD c.lines set [])
  let s := s.setCore die core { c with lines := Tab.set set r.1 c.lines }
  match r.2 with
  | none => s
  | some v => { s with free := s.free + 1 }.leaveCore die core v

/-- Bring lines into a core cache, clean (R224). -/
def State.fillCore (s : State) (die core : Nat) (ls : List CLine) : State :=
  let c := s.core die core
  let s := s.setCore die core { c with cache := (ls.map fun l => l.keys).flatten.foldl (fun h k =>
    match Tab.get? k h with
    | some _ => h
    | none => Tab.set k ⟨s.homeByte (k / 2 ^ 48) (k % 2 ^ 48), false⟩ h) c.cache }
  ls.foldl (fun s l => s.useCore die core l) s

/-- What a read leaves in the caches under a policy (R226): what misses the die buffer under policy 2 allocates nowhere. -/
def State.touch (s : State) (die core : Nat) (m : Map) (va size : Nat) (policy : Nat) : State :=
  if !m.isLocal then s
  else
    let ls := m.lines (policy == 3) va size
    let s := if policy = 2 then s else s.fillHome ls
    if policy = 0 || policy = 3 then s.fillCore die core ls else s

/-- Store a byte into a core cache, dirty (policy 0 or 3, R226). -/
def State.coreStore (s : State) (die core space p : Nat) (b : Byte) : State :=
  let c := s.core die core
  s.setCore die core { c with cache := Tab.set (byteKey space p) ⟨b, true⟩ c.cache }

/-- Keep a core cache's copy of a byte equal to what was written at the home (R238). -/
def State.coreUpdate (s : State) (die core space p : Nat) (b : Byte) : State :=
  let c := s.core die core
  s.setCore die core { c with cache := Tab.update (byteKey space p) (fun _ => ⟨b, false⟩) c.cache }

/-- Store one byte through a map under a policy (R226). -/
def State.storeByte (s : State) (die core : Nat) (m : Map) (va : Nat) (b : Byte) (policy : Nat) : State :=
  let p := m.phys va
  if m.space = 3 then { s with host := { s.host with mem := s.host.mem.put p b } }
  else if policy = 0 || policy = 3 then s.coreStore die core m.space p b
  else if policy = 1 then (s.setHome m.space p b).coreUpdate die core m.space p b
  else (s.setHomeBypass m.space p b).coreUpdate die core m.space p b

/-- The lines of a store under a policy take their place in the core cache (policy 0 or 3) or in the die buffer (R226). -/
def State.useLines (s : State) (die core : Nat) (m : Map) (va n policy : Nat) : State :=
  if m.space = 3 || n = 0 then s
  else if policy = 0 || policy = 3 then (m.lines (policy == 3) va n).foldl (fun s l => s.useCore die core l) s
  else if policy = 1 then (m.lines false va n).foldl State.useHome s
  else s

/-- Store bytes through a map. -/
def State.storeBytes (s : State) (die core : Nat) (m : Map) (va : Nat) (bs : List Byte) (policy : Nat) : State :=
  ((bs.zipIdx).foldl (fun s e => s.storeByte die core m (va + e.2) e.1 policy) s).useLines die core m va bs.length policy

/-- Write bytes at the home through a map: atomics, engines and the stack (R225). -/
def State.mapWrite (s : State) (m : Map) (va : Nat) (bs : List Byte) : State :=
  ((bs.zipIdx).foldl (fun s e =>
    if m.space = 3 then { s with host := { s.host with mem := s.host.mem.put (m.phys (va + e.2)) e.1 } }
    else s.setHome m.space (m.phys (va + e.2)) e.1) s).useLines 0 0 m va bs.length 1

/-- Write the dirty bytes of a core cache that satisfy a test to their homes; they stay, clean (R224). Bytes of a remote
module are left to the flits that carry them. -/
def State.writeBack (s : State) (die core : Nat) (f : (space p : Nat) → Bool) : State :=
  let c := s.core die core
  let mine := fun (e : Nat × CByte) => e.2.dirty && e.1 < 3 * 2 ^ 48 && f (e.1 / 2 ^ 48) (e.1 % 2 ^ 48)
  let cache := Tab.canon c.cache
  let out := cache.filter mine
  let s := { s with home := out.foldl (fun h (e : Nat × CByte) => Tab.set e.1 ⟨e.2.val, true⟩ h) s.home }
  let s := s.setCore die core { c with cache := cache.map fun (e : Nat × CByte) =>
    (if mine e then (e.1, ⟨e.2.val, false⟩) else e) }
  let sent := fun (l : CLine) => l.keys.any fun k => out.any fun e => e.1 == k
  ((Tab.vals c.lines).flatten.filter sent).foldl State.useHome s

/-- Drop the bytes of a core cache that satisfy a test, and the lines of which nothing is left. -/
def State.dropBytes (s : State) (die core : Nat) (f : Nat × CByte → Bool) : State :=
  let c := s.core die core
  let cache := (Tab.canon c.cache).filter fun e => !f e
  s.setCore die core { c with
    cache := cache, lines := c.lines.map fun (e : Nat × List CLine) => (e.1, e.2.filter fun l => l.holds cache) }

/-- Drop the clean bytes of a core cache that satisfy a test (R232, R236, R240). -/
def State.dropClean (s : State) (die core : Nat) (f : (space p : Nat) → Bool) : State :=
  s.dropBytes die core fun e => !e.2.dirty && f (e.1 / 2 ^ 48) (e.1 % 2 ^ 48)

/-- Drop every byte of a core cache that satisfies a test, dirty or not. -/
def State.dropAll (s : State) (die core : Nat) (f : (space p : Nat) → Bool) : State :=
  s.dropBytes die core fun e => f (e.1 / 2 ^ 48) (e.1 % 2 ^ 48)

/-- Write the die buffer's dirty bytes that satisfy a test through the view transform to DRAM, and drop its lines
(R242). -/
def State.drainHome (s : State) (f : (p : Nat) → Bool) : State :=
  let out := (Tab.canon s.home).filter (fun e => e.2.dirty && e.1 < 3 * 2 ^ 48 && f (e.1 % 2 ^ 48))
  let s := out.foldl (fun (s : State) (e : Nat × CByte) => s.dram (e.1 % 2 ^ 48) e.2.val) s
  let home := s.home.filter (fun (e : Nat × CByte) => !f (e.1 % 2 ^ 48))
  let s := { s with home := home, homeLines := s.homeLines.map fun (e : Nat × List CLine) => (e.1, e.2.filter fun l => l.holds home) }
  s.askBack (out.map fun e => e.1 % 2 ^ 48)

/-- `fence.view` on a set of physical bytes by one core (R242): write back in every view, then invalidate. -/
def State.fenceBytes (s : State) (die core : Nat) (f : (p : Nat) → Bool) : State :=
  ((s.writeBack die core (fun _ p => f p)).drainHome f).dropAll die core (fun sp p => decide (sp < 3) && f p)

/-- Whether a byte at a physical address is reached by [va, va + n) of a map's alias or page (R365). -/
def Map.covers (m : Map) (va n p : Nat) : Bool :=
  match m.geo with
  | none => m.pbase + (va - m.vbase) ≤ p && p < m.pbase + (va - m.vbase) + n
  | some (g, view) =>
    match g.ofPhys p with
    | none => false
    | some (i, j, b) =>
      let o := g.offset view i j b
      va % 2 ^ g.alog ≤ o && o < va % 2 ^ g.alog + n

/-! ### Poison (R52) -/

/-- The 32-byte atom of a physical address. -/
def atomOf (p : Nat) : Nat := p / 32

/-- Whether a read of a byte meets poison: a marked atom, or a fenced bank that no die-buffer line stands before (R52,
R56). -/
def State.badByte (s : State) (space p : Nat) : Bool :=
  s.poison.contains (atomOf p) || (s.fenced p && (Tab.get? (byteKey space p) s.home).isNone)

/-- Whether an access through a map meets a poisoned atom. -/
def State.poisoned (s : State) (m : Map) (va n : Nat) : Bool :=
  m.isLocal && (List.range n).any (fun i => s.badByte m.space (m.phys (va + i)))

/-- The 32-byte atoms of the unit that the code protects: an atom of HBM, or the two halves of a 64-byte unit of the tier
(R52). -/
def protectedAtoms (p : Nat) : List Nat := if inTier p then [p / 64 * 2, p / 64 * 2 + 1] else [p / 32]

/-- Clear the mark of the units that a set of written addresses covers whole (R52). -/
def State.clearPoison (s : State) (written : List Nat) : State :=
  if s.poison.isEmpty then s
  else
    { s with poison := s.poison.filter fun a =>
        !(protectedAtoms (32 * a)).all fun b => (List.range 32).all fun i => written.contains (32 * b + i) }

/-- Mark the unit of an atom as poison. -/
def State.markPoison (s : State) (a : Nat) : State :=
  { s with poison := (protectedAtoms (32 * a)).foldl (fun l b => if l.contains b then l else b :: l) s.poison }

/-! ### Ranges -/

/-- The maps of the pages of [va, va + len), page by page, or the first cause and the lowest byte of the first page that
fails (R365). -/
def State.range (s : State) (a : Acc) : (fuel va len : Nat) → Except (BitVec 8 × Nat) (List (Map × Nat × Nat)) × State
  | 0, _, _ => (.ok [], s)
  | fuel + 1, va, len =>
    if len = 0 then (.ok [], s)
    else
      let n := min len (4096 - va % 4096)
      match s.translate a (BitVec.ofNat 64 va) n 1 with
      | (.error c, s) => (.error (c, va), s)
      | (.ok m, s) =>
        match State.range s a fuel (va + n) (len - n) with
        | (.error e, s) => (.error e, s)
        | (.ok l, s) => (.ok ((m, va, n) :: l), s)

/-- The accesses that a unit of the current group's core makes for it. -/
def Group.acc (g : Group) (write : Bool) : Acc :=
  ⟨g.id.die, g.id.core, g.part, write, false, g.hand.isSome⟩

end Sys2Proof.Machine
end

