-- ==== Sys2Proof/Machine/Ops.lean ====
section
/-!
DEFINITION. The named operations over registers, splits, groups, partitions and launches, taking a trap (R191-R195) and
returning from one (R196), and the frame every program instruction runs in (R152, R153, R166, R205).
-/

namespace Sys2Proof.Machine

open Sys2Proof

/-! ### Names of groups -/

/-- What a Gid becomes under a renaming of groups, everywhere the state names a group. -/
def State.rename (s : State) (f : Gid → Gid) : State :=
  { s with
    cur := { s.cur with id := f s.cur.id }
    rest := s.rest.map fun g => { g with id := f g.id }
    saved := s.saved.map fun g => { g with id := f g.id }
    cores := s.cores.map fun (e : Nat × Core) =>
      (e.1, { e.2 with traceQ := e.2.traceQ.map fun b => { b with g := f b.g } })
    fabric := { s.fabric with waiting := s.fabric.waiting.map fun (e : Nat × Remote) => (e.1, { e.2 with g := f e.2.g }) }
    host := { s.host with pri := s.host.pri.map fun p => { p with g := f p.g } }
    eng := { s.eng with
      ops := s.eng.ops.map fun (e : Nat × Op) => (e.1, { e.2 with g := f e.2.g })
      waiters := s.eng.waiters.map fun w => { w with g := if w.remote.isSome then w.g else f w.g }
      cmds := s.eng.cmds.map fun (e : Nat × Cmd) => (e.1, { e.2 with g := f e.2.g })
      rays := s.eng.rays.map fun (e : Nat × Ray) => (e.1, { e.2 with g := f e.2.g })
      batches := s.eng.batches.map fun b => { b with g := f b.g }
      draws := s.eng.draws.map fun d => { d with g := f d.g } } }

/-- Rename one group. -/
def State.renameOne (s : State) (i j : Gid) : State := s.rename fun k => if k == i then j else k

/-- The name of a group that is no longer resident, saved or gone: its place, with a number above the resident slots that no
other group has. -/
def parkedId (i : Gid) (n : Nat) : Gid := { i with slot := i.slot % 8 + 8 * (n + 1) }

/-- What a group leaves behind when it goes (its commands, draws, rays and trace blocks) is kept under a name of its own, so
that no later group at its place answers for it. -/
def State.partWith (s : State) (i : Gid) : State :=
  let f := s.fresh
  f.2.renameOne i (parkedId i f.1)

/-! ### The end of a launch (R439) -/

/-- Whether an operation, a waiter or a latch member belongs to a launch's groups. -/
def Group.ofLaunch (g : Group) (seq : Nat) : Bool := g.live && g.launch == seq

/-- End a launch: no group of it issues again, its resident, held and saved groups are discarded without a save, its
queued records are discarded, and what its groups have outstanding in the lanes is dropped (R439). -/
def State.endLaunch (s : State) (seq : Nat) : State :=
  let gone := (s.groups.filter (fun g => g.launch == seq)).map (·.id)
  let s := s.updLaunch seq (fun l =>
    { l with state := (match l.state with | .done | .refused => l.state | _ => .ending), ended := true,
             stages := l.stages.map (fun e => (e.1, { e.2 with queue := [] })) })
  let s := { s with
    cur := if s.cur.ofLaunch seq then Group.empty else s.cur
    rest := s.rest.filter (fun g => !g.ofLaunch seq)
    saved := s.saved.filter (fun g => g.launch != seq)
    teams := s.teams.filter (fun t => t.launch != seq)
    eng := { s.eng with
      ops := s.eng.ops.filter (fun e => !(e.2.launch == seq && e.2.counter != 2))
      waiters := s.eng.waiters.filter (fun w => w.remote.isSome || !gone.contains w.g)
      latch := s.eng.latch.filter (fun m => !gone.contains m.g)
      slots := s.eng.slots.filter (fun m => !gone.contains m.m.g)
      queueWaits := s.eng.queueWaits.filter (fun q => !gone.contains q.2.2) } }
  gone.foldl (fun s i => s.partWith i) s

/-! ### Trace packets (R206-R210, R435) -/

/-- A varint: 7 bits a byte, low group first (R208). -/
def varint : (fuel : Nat) → Nat → List Byte
  | 0, _ => []
  | fuel + 1, n => if n < 128 then [BitVec.ofNat 8 n] else BitVec.ofNat 8 (128 + n % 128) :: varint fuel (n / 128)

/-- The packets of R208, before they are laid out. -/
inductive Packet_ where
  | br (taken : Bool)
  | sync (pc : BitVec 48)
  | mask (m : Mask) (merge : Bool) (case_ : Option Nat)
  | spl (slot : Bool)
  | trap (cause : BitVec 8)
  | mark (n : BitVec 8)
  deriving DecidableEq, Repr

/-- The bytes of a packet at a delta and a device time (R208). -/
def Packet_.bytes (p : Packet_) (delta : Nat) (time : Word) : List Byte :=
  match p with
  | .br taken =>
    let h := (if taken then 2 else 0) + (delta % 32) * 4 + (if 32 ≤ delta then 128 else 0)
    BitVec.ofNat 8 h :: (if 32 ≤ delta then varint 10 (delta / 32) else [])
  | .sync pc => 0x01 :: (leBytes 6 pc.toNat ++ leBytes 8 time.toNat)
  | .mask m merge c =>
    BitVec.ofNat 8 (0x05 + (if c.isSome then 0x20 else 0) + (if merge then 0x40 else 0)) ::
      (varint 10 delta ++ leBytes 4 m.toNat ++ (match c with | some n => [BitVec.ofNat 8 n] | none => []))
  | .spl slot => BitVec.ofNat 8 (0x09 + (if slot then 0x20 else 0)) :: varint 10 delta
  | .trap c => 0x0D :: (varint 10 delta ++ [c])
  | .mark n => 0x15 :: (varint 10 delta ++ [n])

/-- The LOSS packet (R208). -/
def lossPacket (n : Nat) : List Byte := 0x11 :: varint 10 n

/-- The GRP code of a group (R101). -/
def grpOf (i : Gid) : Nat := (i.die % 4) * 2 ^ 15 + (i.core % 64) * 2 ^ 9 + (i.lane % 64) * 2 ^ 3 + i.slot % 8

/-- The 64 bytes of a block: its word, its packets, zero above (R207). -/
def blockBytes (i : Gid) (packets : List Byte) : List Byte :=
  let w := grpOf i + packets.length * 2 ^ 17
  (leBytes 4 w ++ packets ++ List.replicate 60 (0 : Byte)).take 64

/-- A trace ring descriptor with its ring enabled (R206). -/
structure Ring where
  rptr : Nat
  wptr : Nat
  base : Nat
  log2 : Nat
  /-- physical address of the descriptor -/
  at_ : Nat
  deriving DecidableEq, Repr

/-- Room for one more block, modulo 2^64 (R206, R210). -/
def Ring.room (r : Ring) : Bool := (r.wptr + 64 + 2 ^ 64 - r.rptr % 2 ^ 64) % 2 ^ 64 ≤ 2 ^ r.log2

/-- What keeps a trace ring descriptor from being used, of its low 64 bits (R206). -/
def ringFaults (w : Nat) : List RingFault :=
  (if field w 8 56 != 0 || field w 1 1 != 0 then [.reserved] else [])
    ++ (if field w 2 6 < 12 || 32 < field w 2 6 then [.size] else [])

/-- The enabled trace ring of a partition, read at its home (R206, R436); none where the unit acts as with EN 0, with the
conditions that it logs. -/
def State.ring (s : State) (part : Nat) : Option Ring × List RingFault :=
  match s.tablePhys part (s.part part).trcdesc.toNat with
  | none => (none, [.unreadable])
  | some p =>
    if s.poison.contains (atomOf p) then (none, [.unreadable])
    else
      let w := s.homeNat p 32
      if !(ringFaults w).isEmpty then (none, ringFaults w)
      else if !bitAt w 0 then (none, [])
      else (some ⟨(s.part part).rptr, field w 128 64, field w 64 64, field w 2 6, p⟩, [])

/-- The trace unit's view of RPTR follows what stands at the home, a cycle later (R206, R436). -/
def State.seeRptr (s : State) : State :=
  { s with parts := s.parts.map fun (e : Nat × Part) =>
      match s.tablePhys e.1 e.2.trcdesc.toNat with
      | some p => (e.1, { e.2 with rptr := s.homeNat (p + 24) 8 })
      | none => e }

/-- Log that a partition's trace ring cannot be used, each condition once (R206). -/
def State.logRing (s : State) (part : Nat) (g : Gid) (l : List RingFault) : State :=
  let new := l.filter fun c => !(s.part part).traceLogged.contains c
  new.foldl (fun s _ => s.logError part (.traceRing g))
    (s.setPart part { s.part part with traceLogged := (s.part part).traceLogged ++ new })

/-- Cycles from the start of a block's write until it is performed at the ring's home (R190, R210). -/
def traceWrite : Nat := 200

/-- Whether a block is still in the write queue (R210). -/
def TraceBlock.queued (b : TraceBlock) (cycle : Nat) : Bool := !b.written || cycle < b.start + traceWrite

/-- Close the current group's open block: it enters its core's write queue (R207, R210). A block that finds 16 in the
queue is dropped, and its packets join the loss count; the group is then lost (R436). -/
def State.closeBlock (s : State) : State :=
  let g := s.cur
  if g.trc.block.isEmpty then s
  else
    let n := g.trc.packets + g.trc.carried
    let c := s.core g.id.die g.id.core
    let g0 := { g with trc := { g.trc with block := [], packets := 0, carried := 0 } }
    let q := c.traceQ.filter fun b => b.queued s.clock.cycle
    if q.length < 16 then
      let b : TraceBlock := ⟨g.id, g.part, blockBytes g.id g.trc.block, n, s.clock.cycle, false⟩
      { (s.setCore g.id.die g.id.core { c with traceQ := q ++ [b] }) with cur := g0 }
    else
      { s with cur := { g0 with trc := { g0.trc with loss := min (g.trc.loss + n) (2 ^ 32 - 1), lost := true } } }

/-- The packets and cycles since the last SYNC that was produced, whatever becomes of its block (R209, R435). -/
def Trace.count (t : Trace) (p : Packet_) (cycle : Nat) : Trace :=
  match p with
  | .sync _ => { t with sinceSync := 0, syncCycle := cycle }
  | _ => { t with sinceSync := t.sinceSync + 1 }

def State.countPacket (s : State) (p : Packet_) : State :=
  { s with cur := { s.cur with trc := s.cur.trc.count p s.clock.cycle } }

/-- A packet that a lost group produces without room joins the loss count (R436). -/
def State.losePacket (s : State) : State :=
  { s with cur := { s.cur with trc := { s.cur.trc with loss := min (s.cur.trc.loss + 1) (2 ^ 32 - 1) } } }

/-- Put the bytes of one packet into the open block, closing it first where they do not fit in 60 bytes (R207). The delta runs to
the issue of the instruction that produces it (R208, R435; entry 38). -/
def State.putPacket (s : State) (issued : Nat) (p : Packet_) : State :=
  let bytes := fun (t : Trace) => p.bytes (issued - t.last) s.clock.time
  let s := (if 60 < s.cur.trc.block.length + (bytes s.cur.trc).length then s.closeBlock else s).countPacket p
  let t := s.cur.trc
  if t.lost then s.losePacket
  else
    { s with cur := { s.cur with trc := { t with
        block := t.block ++ bytes t
        packets := t.packets + 1
        first := if t.block.isEmpty then s.clock.cycle else t.first
        last := issued } } }

/-- A packet of the current group by an instruction that has issued in a cycle (R209). A lost group with room in its ring opens a
block with its loss count and a SYNC (R210, R436). -/
def State.emitAt (s : State) (issued : Nat) (p : Packet_) : State :=
  if !s.cur.trc.on then s
  else
    match s.ring s.cur.part with
    | (none, bad) => (s.logRing s.cur.part s.cur.id bad).countPacket p
    | (some r, _) =>
      let t := s.cur.trc
      if !t.lost then s.putPacket issued p
      else if !r.room then s.losePacket.countPacket p
      else
        let s := { s with cur := { s.cur with trc := { t with
          block := lossPacket t.loss, packets := 0, carried := t.loss, first := s.clock.cycle, loss := 0, lost := false } } }
        match p with
        | .sync _ => s.putPacket issued p
        | _ => (s.putPacket issued (.sync s.cur.sp.pc)).putPacket issued p

/-- A packet of the instruction that issues now. -/
def State.emitPacket (s : State) (p : Packet_) : State := s.emitAt s.clock.cycle p

/-- Ask for a SYNC at the next issue (R209). -/
def State.wantSync (s : State) : State := { s with cur := { s.cur with trc := { s.cur.trc with wantSync := true } } }

/-! ### Taking a trap (R191-R195) -/

/-- What a trap is raised with (R191): its class fixes the handler mask, ST and the saved PC. -/
structure Trap where
  cause : BitVec 8
  /-- the threads that fault, with their causes and addresses (R194) -/
  faults : List Faulter
  /-- the handler mask -/
  handlers : Mask
  st : BitVec 2
  rtid : BitVec 5
  pc : BitVec 48
  omask : Mask
  kind : BitVec 8
  iw0 : BitVec 32
  /-- raised by a comparator: its return issues with comparators suppressed (R204) -/
  quiet : Bool
  /-- the cycle of the issue, of an instruction that issued before (R208) -/
  issued : Option Nat
  deriving DecidableEq, Repr

/-- A whole-class trap at a thread (R191): ST 0, the trapping instruction. No thread has faulted at an address: every FADDR is
zero (R194, entry 38). -/
def Group.wholeTrap (g : Group) (cause : BitVec 8) (t : Nat) : Trap where
  cause := cause
  faults := []
  handlers := maskOf [t]
  st := 0
  rtid := BitVec.ofNat 5 t
  pc := g.sp.pc
  omask := g.sp.mask
  kind := 0
  iw0 := g.iw0
  quiet := false
  issued := none

/-- The local-store offset of a group's system area (R142): its program space ends there. -/
def Group.sysBase (g : Group) : Nat := g.lsb + g.lsize

/-- The local-store offset of the trap frame, `%tframe` (R142): after the 512-byte spill stack. -/
def Group.tframe (g : Group) : Nat := g.sysBase + 512

/-- The 16 bytes of a split record (R174). -/
def Split.record (p : Split) : Nat :=
  p.pc.toNat + p.rtid.toNat * 2 ^ 50 + p.st.toNat * 2 ^ 55 + (if p.part then 2 ^ 57 else 0) + p.depth.toNat * 2 ^ 58
    + p.token.toNat * 2 ^ 66 + p.fmt.toNat * 2 ^ 82 + p.mask.toNat * 2 ^ 96

/-- The bytes of the spill stack in the system area: record i from the bottom at byte 16 i (R175). -/
def Group.spillImage (g : Group) : List Byte :=
  ((g.spill.reverse.map (fun p => leBytes 16 p.record)).flatten ++ List.replicate 512 (0 : Byte)).take 512

/-- The word FADDR[t] (R194). -/
def faddrOf (fs : List Faulter) (t : Nat) : Nat :=
  match fs.find? (fun f => f.thread == t) with
  | some f => f.addr.toNat % 2 ^ 52 + f.cause.toNat * 2 ^ 56
  | none => 0

/-- The 320 bytes of the trap frame (R194). -/
def Group.frame (g : Group) (tr : Trap) : List Byte :=
  let fmask := if tr.st = 2 then maskOf (tr.faults.map (·.thread)) else tr.handlers
  let h := tr.cause.toNat + tr.kind.toNat * 2 ^ 8 + (if g.slot then 2 ^ 90 else 0) + tr.rtid.toNat * 2 ^ 91
    + tr.st.toNat * 2 ^ 96 + g.sp.fmt.toNat * 2 ^ 98 + tr.iw0.toNat * 2 ^ 112 + tr.pc.toNat / 4 * 2 ^ 146
    + fmask.toNat * 2 ^ 192 + tr.omask.toNat * 2 ^ 224 + (g.gget 28).toNat * 2 ^ 256 + (g.gget 29).toNat * 2 ^ 320
    + (g.gget 30).toNat * 2 ^ 384
  leBytes 64 h ++ ((List.range 32).map (fun t => leBytes 8 (faddrOf tr.faults t))).flatten

/-- The handler split (R193): the handler mask, PC `%tvec`, TOKEN 0, DEPTH 0, FMT 0. -/
def handlerSplit (tvec : Word) (handlers : Mask) (cycle : Nat) : Split :=
  { Split.empty with mask := handlers, pc := tvec.setWidth 48, age := cycle, hand := true }

/-- A double trap of a group (R195): the event is logged, and the group's launch is ended under R439. -/
def State.doubleTrapOf (s : State) (g : Group) : State := (s.logError g.part (.doubleTrap g.id)).endLaunch g.launch

/-- A double trap of the current group. -/
def State.doubleTrap (s : State) : State := s.doubleTrapOf s.cur

/-- Taking a trap by the current group's issuing split (R193): the shadow, the frame, the split record, `%tcause`, and the
handler split in the slot. In handler mode it is a double trap (R195). -/
def State.trap (s : State) (tr : Trap) : State :=
  if s.cur.hand.isSome then s.doubleTrap
  else
    let s := s.emitAt (tr.issued.getD s.clock.cycle) (.trap tr.cause)
    let g := s.cur
    let s := (s.updTeam g (fun t =>
      { t with ls := Mem.putBytes (Mem.putBytes t.ls g.sysBase g.spillImage) g.tframe (g.frame tr) }))
    let rec_ : Split := { g.sp with
      st := tr.st, rtid := tr.rtid, pc := tr.pc, wait := .none, charged := false, quiet := tr.quiet, first := false, sync := false,
      rem := if tr.st = 2 then maskOf (tr.faults.map (·.thread)) else tr.omask }
    let s := { s with cur := { g with
      shadow := [(0, Row.mk (g.vget 0)), (1, Row.mk (g.vget 1)), (2, Row.mk (g.vget 2)), (3, Row.mk (g.vget 3))]
      hand := some ⟨g.slot, rec_⟩
      tcause := tr.cause
      sp := handlerSplit (s.part g.part).tvec tr.handlers s.clock.cycle
      spLive := true } }
    s.wantSync

/-! ### Budget and the frame of an instruction (R152, R153, R166, R205) -/

/-- Whether the launch counts the group's budget: guaranteed and not overrun (R153). -/
def State.counts (s : State) : Bool :=
  match s.launch? s.cur.launch with
  | some l => l.p.cls == 0 && !l.overrun
  | none => false

/-- The launch runs over its budget: it is marked, its groups run as best-effort, and `%bgt` reads 0 (R153). -/
def State.overrun (s : State) : State :=
  let seq := s.cur.launch
  (s.updLaunch seq (fun l => { l with overrun := true })).mapGroups
    (fun g => if g.launch == seq then { g with bgt := 0 } else g)

/-- Issuing for n cycles takes n from `%bgt` (R152). In handler mode a budget that reaches 0 raises no 0x09: the launch is
overrun, and the first thread-instruction after `eret` raises it (R195). -/
def State.charge (s : State) (n : Nat) : State :=
  if s.counts && s.cur.hand.isSome && s.cur.bgt.toNat ≤ n then
    ({ s with cur := { s.cur with spent := true } }).overrun
  else
    { s with cur := { s.cur with bgt := BitVec.ofNat 64 (s.cur.bgt.toNat - n) } }

/-- The threads of a mask that may issue before `%bgt` reaches 0 (R153, R195). -/
def State.affordable (s : State) (e : Mask) : Mask :=
  if s.cur.hand.isSome then e
  else if s.cur.spent then 0
  else if s.counts then firstThreads e s.cur.bgt.toNat
  else e

/-- The lane is busy for n cycles from now (R166). -/
def State.occupy (s : State) (n : Nat) : State :=
  let i := s.cur.id
  let c := s.core i.die i.core
  s.setCore i.die i.core { c with busy := Tab.set i.lane (s.clock.cycle + n) c.busy }

/-- Raise a whole-class trap at the lowest executing thread, with no effect of the instruction (R191). The refused
instruction takes its one cycle (entry 18). -/
def State.refuse (s : State) (p : Pred) (cause : BitVec 8) : State :=
  let tr : Trap := { s.cur.wholeTrap cause (s.cur.reportAt p) with omask := s.cur.omask p }
  ((if s.cur.sp.charged then s else s.charge 1).occupy 1).trap tr

/-- The step-class trap 0x0F of single step (R205), after an instruction whose executing threads are `e`. -/
def State.afterIssue (s : State) (e : Mask) : State :=
  if s.cur.live && s.cur.hand.isNone && s.cur.dbg.getLsbD 8 && s.cur.spLive then
    let m := s.cur.sp.mask &&& e
    s.trap { s.cur.wholeTrap 0x0F (lowest (if m = 0 then s.cur.sp.mask else m)) with omask := e }
  else s

/-- The issuing split is done with its instruction: PC moves on by `len`, ST returns to 0 (R187). -/
def Group.advance (g : Group) (len cycle : Nat) : Group :=
  { g with sp := { g.sp with
      pc := g.sp.pc + BitVec.ofNat 48 len, st := 0, rtid := 0, rem := 0, wait := .none, charged := false,
      quiet := false, age := cycle } }

/-- Issue an instruction for n cycles, charged once, and move on by `len` (R152, R166); an instruction that has waited has
been charged and has had its cycles. -/
def State.retire (s : State) (n len : Nat) (e : Mask) : State :=
  let s := if s.cur.sp.charged then s else (s.charge n).occupy n
  ({ s with cur := s.cur.advance len (s.clock.cycle + n) }).afterIssue e

/-- The 0x09 of R153 at a thread: thread class, ST 1 with RTID t; the launch is marked overrun. -/
def State.exhausted (s : State) (t : Nat) (omask : Mask) : State :=
  let tr : Trap := { s.cur.wholeTrap 0x09 t with st := 1, omask := omask }
  ({ s.overrun with cur := { s.overrun.cur with spent := false } }).trap tr

/-- The current split waits in its instruction: it has taken its n cycles and is charged once (R152). -/
def State.await (s : State) (n : Nat) (w : Wait) : State :=
  let s := if s.cur.sp.charged then s else (s.charge n).occupy n
  { s with cur := { s.cur with sp := { s.cur.sp with wait := w, charged := true } } }

/-- The current split waits before it issues: nothing is charged yet (R185, R222). -/
def State.stall (s : State) (w : Wait) : State := { s with cur := { s.cur with sp := { s.cur.sp with wait := w } } }

/-- The frame of a per-thread instruction with no memory-class trap: the effect takes place for the threads that the
budget covers; the first thread beyond it raises 0x09 (R153, R166). -/
def State.perThread (s : State) (p : Pred) (len : Nat) (eff : State → Mask → State) : State :=
  let e := s.cur.exec p
  let ok := s.affordable e
  if ok = e then (eff s e).retire (max 1 (count e)) len e
  else
    let t := lowest (e &&& ~~~ok)
    (((eff s ok).charge (count ok)).occupy (count ok)).exhausted t (s.cur.omask p)

/-- The frame of a uniform instruction of n cycles: it takes effect only if some active thread executes (R168); with the
budget at 0 it raises 0x09 at its lowest executing thread (R153). -/
def State.uniform (s : State) (p : Pred) (n len : Nat) (eff : State → State) : State :=
  let e := s.cur.exec p
  if e = 0 then s.retire 1 len e
  else if s.affordable e = 0 && !s.cur.sp.charged then s.exhausted (lowest e) (s.cur.omask p)
  else (eff s).retire n len e

/-! ### Uniform operands (R169) -/

/-- Whether an operand gives every executing thread one value (R169). -/
def Group.same (g : Group) (e : Mask) (o : Opd) : Bool :=
  match o with
  | .g _ => true
  | .v n => (threads e).all (fun t => g.vget n t == g.vget n (lowest e))

/-- The common value of a uniform operand. -/
def Group.common (g : Group) (e : Mask) (o : Opd) : Word := g.opd o (lowest e)

/-- Cycles of a uniform instruction: one, or one per executing thread where it names a vector source (R168). -/
def Group.uniformCost (e : Mask) (vector : Bool) : Nat := if vector then max 1 (count e) else 1

/-! ### Page-request groups (R133, R198) -/

/-- The pieces of a list, at most n long. -/
def chunks {α : Type} : (fuel n : Nat) → List α → List (List α)
  | 0, _, _ => []
  | fuel + 1, n, l => if l.isEmpty then [] else l.take n :: chunks fuel n (l.drop n)

/-- Page requests of a function that have been sent and have no response (R133). -/
def priOutstanding (l : List PriGroup) (fn : Nat) : Nat :=
  ((l.filter (fun p => p.fn == fn && p.sent)).map (fun p => p.pages.length)).sum

/-- Send the waiting page-request groups that their function's allowance covers, in order (R133). -/
def sendPri (alloc : Tab Nat) : (sent todo : List PriGroup) → List PriGroup
  | sent, [] => sent
  | sent, p :: l =>
    if p.sent then sendPri alloc (sent ++ [p]) l
    else if sent.any (fun q => q.fn == p.fn && !q.sent) then sendPri alloc (sent ++ [p]) l
    else if priOutstanding (sent ++ l) p.fn + p.pages.length ≤ Tab.getD alloc p.fn 0 then
      sendPri alloc (sent ++ [{ p with sent := true }]) l
    else sendPri alloc (sent ++ [p]) l

/-- The page-request groups that may go are sent, and the launches they belong to are voided (R133, R154). -/
def State.sendPages (s : State) : State :=
  let pri := sendPri s.host.priAlloc [] s.host.pri
  let sent := pri.filter fun p => p.sent && !s.host.pri.contains p
  sent.foldl (fun s p => match s.anyGroup? p.g with | some g => s.void g.launch | none => s)
    { s with host := { s.host with pri := pri } }

/-- The function a partition's page requests go through: its lowest VF (entry 17). -/
def State.priFunction (s : State) (part : Nat) : Nat := (s.part part).vfs.foldl min 511

/-- The trap that threads of a group make at the re-issue of the instruction of its frame when their page requests have
failed (R133, R198). -/
def State.deniedOf (s : State) (g : Group) (m : Mask) : List HeldTrap :=
  match s.team? g with
  | none => []
  | some t =>
    let w := leNat (t.ls.bytes g.tframe 64)
    let at_ := fun (k : Nat) => BitVec.ofNat 64 (leNat (t.ls.bytes (g.tframe + 64 + 8 * k) 8) % 2 ^ 52)
    if m = 0 then []
    else [⟨(threads m).map fun k => ⟨k, 0x07, at_ k⟩, BitVec.ofNat 8 (field w 8 8), BitVec.ofNat 32 (field w 224 32),
      BitVec.ofNat 32 (field w 112 32), field w 90 1 = 1, 4, false, s.clock.cycle⟩]

/-- Queue the page requests of the current group's faulting threads and put it to sleep (R133, R198); the launch is voided
when one is sent. With PRI disabled for the function the requests fail at once (entry 17), and a group with no page to ask
for goes on. -/
def State.requestPages (s : State) (fmask : Mask) (pages : List Nat) : State :=
  let fn := s.priFunction s.cur.part
  if s.host.priOff.contains fn then { s with cur := { s.cur with denied := s.deniedOf s.cur fmask } }
  else if pages.isEmpty then s
  else
    let parts := chunks 32 (max 1 (min 32 (Tab.getD s.host.priAlloc fn 0))) pages
    let first := s.host.nextPri
    let new := parts.zipIdx.map (fun e => PriGroup.mk ((first + e.2) % 512) s.cur.id e.1 fn false)
    { s with
        host := { s.host with pri := s.host.pri ++ new, nextPri := (first + parts.length) % 512 }
        cur := { s.cur with hold := .pages (first % 512) } }.sendPages

/-! ### Returning from a trap (R196, R198) -/

/-- A held trap of the current group, taken before any of its splits issues (R187): its counter falls with it. -/
def Group.uncount (g : Group) (counter : Nat) : Group :=
  match counter with
  | 0 => { g with cntL := g.cntL - 1 }
  | 1 => { g with cntS := g.cntS - 1 }
  | 2 => { g with cntC := g.cntC - 1 }
  | 3 => { g with cntT := g.cntT - 1 }
  | _ => g

/-- An operation of a group adds 1 to its counter as it issues (R185). -/
def Group.addCount (g : Group) (counter : Nat) : Group :=
  match counter with
  | 0 => { g with cntL := g.cntL + 1 }
  | 1 => { g with cntS := g.cntS + 1 }
  | 2 => { g with cntC := g.cntC + 1 }
  | 3 => { g with cntT := g.cntT + 1 }
  | _ => g

/-- A counter of a group (R185). -/
def Group.counter (g : Group) (counter : Nat) : Nat :=
  match counter with
  | 0 => g.cntL
  | 1 => g.cntS
  | 2 => g.cntC
  | 3 => g.cntT
  | _ => 0

/-- The cause of the lowest faulter (R192). -/
def causeOf (fs : List Faulter) : BitVec 8 :=
  match fs.foldl (fun (m : Option Faulter) f =>
      match m with
      | none => some f
      | some x => if f.thread < x.thread then some f else some x) none with
  | some f => f.cause
  | none => 0

/-- The memory-class trap of a set of faulters (R191, R192, R194). -/
def Group.memoryTrap (g : Group) (fs : List Faulter) (kind : BitVec 8) (omask : Mask) (iw0 : BitVec 32) : Trap where
  cause := causeOf fs
  faults := fs
  handlers := maskOf (fs.map (·.thread))
  st := 2
  rtid := BitVec.ofNat 5 (lowest (maskOf (fs.map (·.thread))))
  pc := g.sp.pc
  omask := omask
  kind := if fs.any (fun f => f.cause == 0x0E) then kind ||| 0x80 else kind
  iw0 := iw0
  quiet := fs.any (fun f => f.cause == 0x0E)
  issued := none

/-- What a held trap is when it is taken: of memory class; a deferred one with ST 0; of threads beyond the budget alone the
thread-class trap of the lowest of them (R153, R191, R199). -/
def Group.heldTrap (g : Group) (h : HeldTrap) : Trap :=
  let tr := { g.memoryTrap h.faults h.kind h.omask h.iw0 with issued := some h.issued }
  if h.deferred then { tr with st := 0 }
  else if !h.faults.isEmpty && h.faults.all fun f => f.cause == 0x09 then
    { g.wholeTrap 0x09 (lowest tr.handlers) with st := 1, omask := h.omask, iw0 := h.iw0, issued := tr.issued }
  else tr

/-- Take the first trap held under R187, if the group is in neither handler mode nor asleep. -/
def State.takeHeld (s : State) : State :=
  match s.cur.held with
  | [] => s
  | h :: rest =>
    if s.cur.hand.isSome || s.cur.hold != .none then s
    else
      let g := ({ s.cur with held := rest }.select h.slot).uncount h.counter
      ({ s with cur := g }).trap (g.heldTrap h)

/-- Raise a memory-class trap of the current group's split in a slot, or hold it while a handler of the other split runs
(R187, R356). The counter falls with the trap. -/
def State.lateTrap (s : State) (slot : Bool) (fs : List Faulter) (kind : BitVec 8) (omask : Mask) (iw0 : BitVec 32)
    (counter issued : Nat) : State :=
  let h : HeldTrap := ⟨fs, kind, omask, iw0, slot, counter, false, issued⟩
  ({ s with cur := { s.cur with held := s.cur.held ++ [h] } }).takeHeld

/-- The distinct 4 KiB pages of the addresses of FMASK, in thread order (R133). -/
def frameGather (ls : Mem) (frame : Nat) (fmask : Mask) : List Nat :=
  ((threads fmask).map (fun t => leNat (ls.bytes (frame + 64 + 8 * t) 8) % 2 ^ 52 / 4096 * 4096)).eraseDups

/-- A slot without the handler's splits. -/
def dropHand (o : Option Split) : Option Split :=
  match o with
  | some p => if p.hand then none else some p
  | none => none

/-- Every split of the handler ends: `eret` leaves nothing of it (R196; entry 20). -/
def Group.dropHandler (g : Group) : Group :=
  let g0 := (g.setSlot false (dropHand (g.inSlot false))).setSlot true (dropHand (g.inSlot true))
  { g0 with spill := g.spill.filter (fun p => !p.hand), rejoin := g.rejoin.filter (fun e => !e.hand) }

/-- A split takes the slot it had; a split that moved in meanwhile goes to the top of the spill stack. -/
def Group.restore (g : Group) (slot : Bool) (p : Split) : Group :=
  match g.inSlot slot with
  | none => (g.setSlot slot (some p)).select slot
  | some q => { (g.setSlot slot (some p)).select slot with spill := q :: g.spill }

/-- Leaving handler mode (R196): the registers come back from the shadow and GSAVE, and the faulting split is rebuilt from
the frame as the handler left it; the handler's splits go, the trap's split stands in its slot again. -/
def State.leave (s : State) (ls : Mem) (h : Handler) : State :=
  let g := s.cur
  let w := leNat (ls.bytes g.tframe 64)
  let st := BitVec.ofNat 2 (field w 96 2)
  let fmask := BitVec.ofNat 32 (field w 192 32)
  let omask := BitVec.ofNat 32 (field w 224 32)
  let p : Split := { h.rec_ with
    pc := BitVec.ofNat 48 (field w 146 46 * 4), fmt := BitVec.ofNat 14 (field w 98 14), st := st
    rtid := BitVec.ofNat 5 (field w 91 5), rem := if st = 2 then fmask else omask, age := s.clock.cycle
    wait := .none, charged := false, first := true }
  -- a forwarded re-issue is for FMASK with ST 2 (R198)
  let p : Split := if field w 89 1 = 1 then { p with st := 2, rem := fmask } else p
  let g := { g with
    v := g.shadow.foldl (fun v (e : Nat × Row) => Tab.set e.1 e.2 v) g.v, hand := none
    denied := g.denied.filter fun d => d.slot != h.slot }
  let g := ((g.gset 28 (BitVec.ofNat 64 (field w 256 64))).gset 29 (BitVec.ofNat 64 (field w 320 64))).gset 30
    (BitVec.ofNat 64 (field w 384 64))
  let s := ({ s with cur := g.dropHandler.restore h.slot p }).wantSync
  if field w 89 1 = 1 then s.requestPages fmask (frameGather ls g.tframe fmask) else s.takeHeld

/-- `eret` in handler mode (R196): an ST of 3 in the frame is a trap in handler mode, a double trap (R195). -/
def State.returnFrom (s : State) (p : Pred) (h : Handler) : State :=
  match s.team? s.cur with
  | none => s.refuse p 0x07
  | some t =>
    if field (leNat (t.ls.bytes s.cur.tframe 64)) 96 2 = 3 then s.refuse p 0x07
    else
      let s := if s.cur.sp.charged then s else s.charge 1
      (s.occupy 1).leave t.ls h

/-! ### The outcome of a step -/

/-- What exec answers. -/
abbrev Out : Type := Host.Outcome State Fault Refusal

end Sys2Proof.Machine
end

