-- ==== Sys2Proof/Machine/Flags.lean ====
section
/-!
DEFINITION. The fields of `%fmt` (R416), the rounding mode of an instruction (R276) and the one flag that arithmetic sets,
the sticky divide-by-zero bit (R274, R309).
-/

namespace Sys2Proof.Machine

open Sys2Proof

/-- The rounding mode of `%fmt`[1:0] (R276). -/
def fmtMode (fmt : BitVec 14) : Rnd :=
  match fmt.toNat % 4 with
  | 0 => .rne
  | 1 => .rtz
  | 2 => .rdn
  | _ => .rup

/-- The mode of an instruction: MODA where it names one, otherwise `%fmt`[1:0] (R276). -/
def modeOf (moda : BitVec 3) (fmt : BitVec 14) : Rnd :=
  match moda.toNat with
  | 1 => .rne
  | 2 => .rtz
  | 3 => .rdn
  | 4 => .rup
  | _ => fmtMode fmt

/-- `%fmt`[2], FTZ (R278). -/
def fmtFtz (fmt : BitVec 14) : Bool := fmt.getLsbD 2

/-- `%fmt`[3], saturating narrowing (R279). -/
def fmtSat (fmt : BitVec 14) : Bool := fmt.getLsbD 3

/-- `%fmt`[12], block scaling (R390). -/
def fmtBsc (fmt : BitVec 14) : Bool := fmt.getLsbD 12

/-- `%fmt`[7:4] and `%fmt`[11:8], the default matrix formats (R388). -/
def fmtAF (fmt : BitVec 14) : Nat := fmt.toNat / 16 % 16
def fmtBF (fmt : BitVec 14) : Nat := fmt.toNat / 256 % 16

/-- Set bit [13], the sticky divide by zero, of the issuing split (R309). -/
def State.setDZ (s : State) (b : Bool) : State :=
  if b then { s with cur := { s.cur with sp := { s.cur.sp with fmt := s.cur.sp.fmt ||| BitVec.ofNat 14 (2 ^ 13) } } } else s

end Sys2Proof.Machine
end

