-- ==== Sys2Proof/Machine/Operands.lean ====
section
/-!
DEFINITION. Every operand form of spec/15 (R289-R291): sub-elements, register sources, immediates and literals, and the
register checks of step 11 of R301 and of the uniform check (R169).
-/

namespace Sys2Proof.Machine

open Sys2Proof

/-! ### Sub-elements (R8, R268) -/

/-- Sub-element i of a register value, as an unsigned w-bit pattern. -/
def sub (x : Word) (w i : Nat) : Nat := x.toNat / 2 ^ (w * i) % 2 ^ w

/-- Sub-element i replaced by the low w bits of y (R8). -/
def setsub (x : Word) (w i : Nat) (y : Nat) : Word :=
  BitVec.ofNat 64 (x.toNat - sub x w i * 2 ^ (w * i) + y % 2 ^ w * 2 ^ (w * i))

/-- A register value put together from its sub-elements, the lowest first. -/
def packSubs (w : Nat) (l : List Nat) : Word :=
  BitVec.ofNat 64 (l.foldr (fun y acc => y % 2 ^ w + acc * 2 ^ w) 0)

/-- The value with each of its 64/w sub-elements given by `f`. -/
def mapSubs (w : Nat) (f : Nat → Nat) : Word := packSubs w ((List.range (64 / w)).map f)

/-- A w-bit pattern replicated into every sub-element. -/
def replicateSub (w y : Nat) : Word := mapSubs w (fun _ => y)

/-- The integer a sub-element stands for (R268). -/
def subInt (x : Word) (e : ET) (i : Nat) : Int :=
  if e.isSigned then signed e.width (sub x e.width i) else (sub x e.width i : Nat)

/-! ### Literals (R290, R291) -/

/-- Whether an instruction's ET names no type of B, so that a literal is zero-extended (R291). -/
inductive LitKind where
  /-- by ET -/
  | byET
  /-- zero-extended: ET unused, or `mma`, `mmas`, `accld` -/
  | zero
  /-- as `s64`: the address offsets of R354 -/
  | offset
  deriving DecidableEq, Repr

/-- An `f32` pattern widened exactly to `f64`; a NaN gives the canonical `f64` NaN (R273, R291). -/
def widenF32 (l : Nat) : Nat :=
  let s := l / 2 ^ 31 % 2
  let e := l / 2 ^ 23 % 256
  let m := l % 2 ^ 23
  if e = 255 then
    if m = 0 then s * 2 ^ 63 + 2047 * 2 ^ 52 else 0x7FF8000000000000
  else if e = 0 then
    if m = 0 then s * 2 ^ 63
    else
      let k := Nat.log2 m
      s * 2 ^ 63 + (k + 874) * 2 ^ 52 + (m - 2 ^ k) * 2 ^ (52 - k)
  else s * 2 ^ 63 + (e + 896) * 2 ^ 52 + m * 2 ^ 29

/-- The 64-bit B operand that a 32-bit literal becomes (R291). -/
def literal (k : LitKind) (e : ET) (l : BitVec 32) : Word :=
  match k with
  | .zero => l.setWidth 64
  | .offset => l.signExtend 64
  | .byET =>
    match e with
    | .s64 => l.signExtend 64
    | .z64 => l.setWidth 64
    | .f64 => BitVec.ofNat 64 (widenF32 l.toNat)
    | _ => replicateSub e.width (l.toNat % 2 ^ e.width)

/-- The value B gives a thread: a register, or the immediate or literal of R290 and R291. -/
def Group.bopd (g : Group) (k : LitKind) (e : ET) (b : BSrc) (t : Nat) : Word :=
  match b with
  | .reg r => g.opd r t
  | .imm n => literal k e (n.setWidth 32)
  | .lit n => literal k e n

/-- The offset B of a memory access: a register gives all 64 bits, a 7-bit immediate 0 to 127, a literal is
sign-extended (R354). -/
def Group.boff (g : Group) (b : BSrc) (t : Nat) : Word :=
  match b with
  | .reg r => g.opd r t
  | .imm n => n.setWidth 64
  | .lit n => n.signExtend 64

/-- The register B names, if it names one. -/
def breg : BSrc → List Opd
  | .reg r => [r]
  | _ => []

/-- Whether B gives every executing thread one value (R169). -/
def Group.sameB (g : Group) (e : Mask) (b : BSrc) : Bool := (breg b).all (fun r => g.same e r)

/-! ### The register check (R301 step 11) -/

/-- Whether every operand of a list may be named: step 11 of R301. -/
def Group.allNamed (g : Group) (l : List Opd) : Bool := l.all (fun o => g.names o)

/-- The frame of an instruction past decode: the check of step 11 on the registers it names raises 0x02, whole class, at
the place R301 reports it; otherwise the instruction runs. -/
def State.named (s : State) (p : Pred) (l : List Opd) (run : State → State) : State :=
  if s.cur.allNamed l then run s else s.refuse p 0x02

/-- The uniform check of R169 on the vector operands of an instruction: values that differ between executing threads
raise 0x03 at the lowest of them, and no thread takes effect. -/
def State.checked (s : State) (p : Pred) (l : List Opd) (run : State → State) : State :=
  let e := s.cur.exec p
  if e = 0 || l.all (fun o => s.cur.same e o) then run s else s.refuse p 0x03

/-- Whether a list names a vector register: what makes a uniform instruction take one cycle a thread (R168). -/
def anyV (l : List Opd) : Bool := l.any (fun o => !o.isG)

end Sys2Proof.Machine
end

