-- ==== Sys2Proof/Machine/Integer.lean ====
section
/-!
DEFINITION. The common frame of the arithmetic instructions (R303, R304, R306) and the integer, shift, logic and bit
instructions (R307-R317), opcodes 0x00-0x17.
-/

namespace Sys2Proof.Machine

open Sys2Proof

/-! ### The common frame (R303, R304) -/

/-- The length of an ordinary instruction in bytes. -/
def lenOf (x : Ord) : Nat := 4 * x.form.words

/-- What an arithmetic instruction computes for a thread from the group as it stood, and whether that thread divides by
zero (R303, R309). -/
structure Calc where
  value : Word
  zeroDivide : Bool
  deriving DecidableEq, Repr

/-- A value that divides by nothing. -/
def Calc.of (w : Word) : Calc := ⟨w, false⟩

/-- The frame of an arithmetic instruction: a `v` destination is written per executing thread, a `g` destination once from
operands that are checked to be uniform (R303, R304). `srcs` are the registers it reads. -/
def State.calc (s : State) (x : Ord) (srcs : List Opd) (f : Group → Nat → Calc) : State :=
  s.named x.pred (x.d :: srcs) fun s =>
    match x.d with
    | .v n => s.perThread x.pred (lenOf x) fun s m =>
        ({ s with cur := s.cur.vset n m (fun t => (f s.cur t).value) }).setDZ
          ((threads m).any fun t => (f s.cur t).zeroDivide)
    | .g n => s.checked x.pred srcs fun s =>
        let e := s.cur.exec x.pred
        s.uniform x.pred (Group.uniformCost e (anyV srcs)) (lenOf x) fun s =>
          ({ s with cur := s.cur.gset n (f s.cur (lowest e)).value }).setDZ (f s.cur (lowest e)).zeroDivide

/-- The source registers of A; A and B; A, B and C. -/
def srcA (x : Ord) : List Opd := [x.a]
def srcAB (x : Ord) : List Opd := x.a :: breg x.b
def srcABC (x : Ord) : List Opd := x.a :: (breg x.b ++ [x.c])

/-- The value of each sub-element from those of A (R303). -/
def map1 (x : Ord) (f : Nat → Nat) (g : Group) (t : Nat) : Calc :=
  let a := g.opd x.a t
  .of (mapSubs x.et.width fun i => f (sub a x.et.width i))

/-- The value of each sub-element from those of A and B. -/
def map2 (x : Ord) (f : Nat → Nat → Nat) (g : Group) (t : Nat) : Calc :=
  let a := g.opd x.a t
  let b := g.bopd .byET x.et x.b t
  .of (mapSubs x.et.width fun i => f (sub a x.et.width i) (sub b x.et.width i))

/-- The value of each sub-element from those of A, B and C. -/
def map3 (x : Ord) (f : Nat → Nat → Nat → Nat) (g : Group) (t : Nat) : Calc :=
  let a := g.opd x.a t
  let b := g.bopd .byET x.et x.b t
  let c := g.opd x.c t
  .of (mapSubs x.et.width fun i => f (sub a x.et.width i) (sub b x.et.width i) (sub c x.et.width i))

/-- A whole-register value from A and B. -/
def whole2 (x : Ord) (k : LitKind) (f : Word → Word → Word) (g : Group) (t : Nat) : Calc :=
  .of (f (g.opd x.a t) (g.bopd k x.et x.b t))

/-! ### Integer values (R268, R306) -/

/-- A pattern as an integer of a type's signedness. -/
def intVal (e : ET) (n : Nat) : Int := if e.isSigned then signed e.width n else (n : Int)

/-- The least and the greatest value of an integer type (R268). -/
def intMin (e : ET) : Int := if e.isSigned then -(2 ^ (e.width - 1) : Nat) else 0
def intMax (e : ET) : Int := if e.isSigned then (2 ^ (e.width - 1) : Nat) - 1 else (2 ^ e.width : Nat) - 1

/-- Clamp to a type's range (R306). -/
def clampInt (e : ET) (i : Int) : Int := if i < intMin e then intMin e else if intMax e < i then intMax e else i

/-- The pattern of an exact result: wrapped, or clamped with `.sat` (R306, R307). -/
def fit (e : ET) (sat : Bool) (i : Int) : Nat := unsigned e.width (if sat then clampInt e i else i)

/-- MODB = 1: `.sat` (R294). -/
def isSat (x : Ord) : Bool := x.modb == 1

/-! ### Basic integer operations (R307) -/

def execNop (x : Ord) (s : State) : Out := .next (s.perThread x.pred (lenOf x) fun s _ => s)

def execAdd (x : Ord) (s : State) : Out :=
  .next (s.calc x (srcAB x) (map2 x fun a b => fit x.et (isSat x) (intVal x.et a + intVal x.et b)))

def execSub (x : Ord) (s : State) : Out :=
  .next (s.calc x (srcAB x) (map2 x fun a b => fit x.et (isSat x) (intVal x.et a - intVal x.et b)))

def execMin (x : Ord) (s : State) : Out :=
  .next (s.calc x (srcAB x) (map2 x fun a b => if intVal x.et a ≤ intVal x.et b then a else b))

def execMax (x : Ord) (s : State) : Out :=
  .next (s.calc x (srcAB x) (map2 x fun a b => if intVal x.et b ≤ intVal x.et a then a else b))

/-- `iabs`: the magnitude, or the negation (R307). -/
def absNeg (fn : AbsNeg) (i : Int) : Int :=
  match fn with
  | .abs => if i < 0 then -i else i
  | .neg => -i

def execIabs (fn : AbsNeg) (x : Ord) (s : State) : Out :=
  .next (s.calc x (srcA x) (map1 x fun a => fit x.et (isSat x) (absNeg fn (intVal x.et a))))

/-! ### Multiplication and division (R308, R309) -/

/-- The low half, wrapped or clamped, or the high half of an exact product (R308). -/
def half (fn : LoHi) (e : ET) (sat : Bool) (p : Int) : Nat :=
  match fn with
  | .lo => fit e sat p
  | .hi => unsigned (2 * e.width) p / 2 ^ e.width

def execMul (fn : LoHi) (x : Ord) (s : State) : Out :=
  .next (s.calc x (srcAB x) (map2 x fun a b => half fn x.et (isSat x) (intVal x.et a * intVal x.et b)))

def execMad (fn : LoHi) (x : Ord) (s : State) : Out :=
  .next (s.calc x (srcABC x) (map3 x fun a b c =>
    half fn x.et (isSat x) (intVal x.et a * intVal x.et b + intVal x.et c)))

/-- The quotient truncated toward zero, or the remainder, as patterns; a zero divisor gives all-ones or a (R309). -/
def divide (fn : QuotRem) (e : ET) (a b : Nat) : Nat :=
  let i := intVal e a
  let j := intVal e b
  match fn with
  | .quotient => if j = 0 then 2 ^ e.width - 1 else unsigned e.width (Int.tdiv i j)
  | .remainder => if j = 0 then a else unsigned e.width (i - Int.tdiv i j * j)

def execDiv (fn : QuotRem) (x : Ord) (s : State) : Out :=
  .next (s.calc x (srcAB x) fun g t =>
    ⟨(map2 x (divide fn x.et) g t).value,
      (List.range x.et.count).any fun i => sub (g.bopd .byET x.et x.b t) x.et.width i == 0⟩)

/-! ### Combined sums (R310, R311) -/

def execAddmin (fn : MinMax) (x : Ord) (s : State) : Out :=
  .next (s.calc x (srcABC x) (map3 x fun a b c =>
    let r := fit x.et (isSat x) (intVal x.et a + intVal x.et b)
    match fn with
    | .addmin => if intVal x.et r ≤ intVal x.et c then r else c
    | .addmax => if intVal x.et c ≤ intVal x.et r then r else c))

/-- The sum of absolute difference, or the average rounded up at a half toward positive infinity (R311). -/
def sadAvg (fn : SadFn) (e : ET) (a b c : Nat) : Nat :=
  match fn with
  | .sad => unsigned e.width ((intVal e a - intVal e b).natAbs + intVal e c)
  | .avg => unsigned e.width (Int.fdiv (intVal e a + intVal e b + 1) 2)

def execSad (fn : SadFn) (x : Ord) (s : State) : Out :=
  .next (s.calc x (match fn with | .sad => srcABC x | .avg => srcAB x) (map3 x (sadAvg fn x.et)))

/-! ### Shifts (R312) -/

/-- Shift left by an unsigned count: nothing is left at w or more; with `.sat` the exact value is clamped. A count at or
above 2w clamps as 2w does, since a nonzero value is out of range there. -/
def shiftLeft (e : ET) (sat : Bool) (a n : Nat) : Nat :=
  fit e sat (intVal e a * (2 ^ min n (2 * e.width) : Nat))

def shiftRight (e : ET) (a n : Nat) : Nat := if e.width ≤ n then 0 else a / 2 ^ n

def shiftArith (e : ET) (a n : Nat) : Nat :=
  unsigned e.width (Int.fdiv (signed e.width a) ((2 ^ min n e.width : Nat) : Int))

/-- Rotation by n mod w (R312). -/
def rotate (fn : Dir) (w a n : Nat) : Nat :=
  let k := match fn with | .left => n % w | .right => (w - n % w) % w
  a * 2 ^ k % 2 ^ w + a / 2 ^ (w - k)

def execShl (x : Ord) (s : State) : Out := .next (s.calc x (srcAB x) (map2 x (shiftLeft x.et (isSat x))))
def execShr (x : Ord) (s : State) : Out := .next (s.calc x (srcAB x) (map2 x (shiftRight x.et)))
def execSar (x : Ord) (s : State) : Out := .next (s.calc x (srcAB x) (map2 x (shiftArith x.et)))
def execRot (fn : Dir) (x : Ord) (s : State) : Out := .next (s.calc x (srcAB x) (map2 x (rotate fn x.et.width)))

/-! ### Comparison and selection (R313, R314) -/

/-- The relation of a compare (R313). -/
def Rel.holds (r : Rel) (a b : Int) : Bool :=
  match r with
  | .eq => a == b
  | .ne => a != b
  | .lt => decide (a < b)
  | .le => decide (a ≤ b)
  | .gt => decide (b < a)
  | .ge => decide (b ≤ a)

/-- The frame of an instruction that writes a predicate register per thread (R313, R320). -/
def State.setPred (s : State) (x : Ord) (srcs : List Opd) (f : Group → Nat → Bool) : State :=
  s.named x.pred srcs fun s =>
    s.perThread x.pred (lenOf x) fun s m => { s with cur := s.cur.kset (x.d.code % 8) m (f s.cur) }

def execCmp (fn : Rel) (x : Ord) (s : State) : Out :=
  .next (s.setPred x (srcAB x) fun g t =>
    Rel.holds fn (subInt (g.opd x.a t) x.et 0) (subInt (g.bopd .byET x.et x.b t) x.et 0))

def execSel (x : Ord) (s : State) : Out :=
  .next (s.calc x (srcAB x) fun g t =>
    .of (if inMask (g.kget (x.imm.toNat % 8)) t then g.opd x.a t else g.bopd .byET x.et x.b t))

/-! ### Logic and bit fields (R315-R317) -/

def execAnd (x : Ord) (s : State) : Out := .next (s.calc x (srcAB x) (whole2 x .byET fun a b => a &&& b))
def execOr (x : Ord) (s : State) : Out := .next (s.calc x (srcAB x) (whole2 x .byET fun a b => a ||| b))
def execXor (x : Ord) (s : State) : Out := .next (s.calc x (srcAB x) (whole2 x .byET fun a b => a ^^^ b))

/-- Bit a + 2 b of a two-input function, for every bit (R315). -/
def func2 (f : Nat) (a b : Word) : Word :=
  (if f.testBit 0 then ~~~a &&& ~~~b else 0) ||| (if f.testBit 1 then a &&& ~~~b else 0)
    ||| (if f.testBit 2 then ~~~a &&& b else 0) ||| (if f.testBit 3 then a &&& b else 0)

/-- Each bit is F0 where C's bit is 0 and F1 where it is 1 (R315). -/
def bitMux (imm : Nat) (a b c : Word) : Word :=
  (~~~c &&& func2 (imm % 16) a b) ||| (c &&& func2 (imm / 16) a b)

def execBmux (x : Ord) (s : State) : Out :=
  .next (s.calc x (srcABC x) fun g t =>
    .of (bitMux x.imm.toNat (g.opd x.a t) (g.bopd .byET x.et x.b t) (g.opd x.c t)))

/-- The bit field of a sub-element, extended by the type's signedness (R316). -/
def extractField (e : ET) (a pos len : Nat) : Nat :=
  if len = 0 || e.width ≤ pos then 0
  else
    let n := min len (e.width - pos)
    let f := a / 2 ^ pos % 2 ^ n
    if e.isSigned then unsigned e.width (signed n f) else f

/-- A sub-element with a bit field replaced (R316). -/
def insertField (w a b pos len : Nat) : Nat :=
  if len = 0 || w ≤ pos then a
  else
    let n := min len (w - pos)
    a - a / 2 ^ pos % 2 ^ n * 2 ^ pos + b % 2 ^ n * 2 ^ pos

def execBfe (x : Ord) (s : State) : Out := .next (s.calc x (srcABC x) (map3 x (extractField x.et)))

def execBfi (x : Ord) (s : State) : Out :=
  .next (s.calc x (srcABC x) fun g t =>
    map2 x (fun a b => insertField x.et.width a b (field (g.opd x.c t).toNat 0 7) (field (g.opd x.c t).toNat 8 7)) g t)

/-- The index of the highest set bit plus one: the length of a number in bits. -/
def bitLen (n : Nat) : Nat := if n = 0 then 0 else Nat.log2 n + 1

/-- The low w bits in reverse order. -/
def revBits (w n : Nat) : Nat :=
  (List.range w).foldl (fun acc j => if n.testBit (w - 1 - j) then acc + 2 ^ j else acc) 0

/-- The index of the lowest set bit; all-ones where there is none (R317). -/
def firstSet (w n : Nat) : Nat := ((List.range w).find? (fun j => n.testBit j)).getD (2 ^ w - 1)

/-- `bits` on a w-bit pattern (R317). -/
def bitsOf (fn : BitsFn) (w a : Nat) : Nat :=
  match fn with
  | .clz => w - bitLen a
  | .popc => popCount w a
  | .brev => revBits w a
  | .ffs => firstSet w a

def execBits (fn : BitsFn) (x : Ord) (s : State) : Out := .next (s.calc x (srcA x) (map1 x (bitsOf fn x.et.width)))

end Sys2Proof.Machine
end

