-- ==== Sys2Proof/Machine/Remote.lean ====
section
/-!
DEFINITION. Accesses to other modules as flits (R25, R28, R29): what a core sends, and what it keeps until the answer
comes. The spec gives the header of a flit; what a payload holds beside the bytes of an access is the model's (entry 21).
-/

namespace Sys2Proof.Machine

open Sys2Proof

/-- OP codes of R26. -/
def opReadRequest : BitVec 6 := 0x00
def opReadResponse : BitVec 6 := 0x01
def opWrite : BitVec 6 := 0x02
def opWriteAck : BitVec 6 := 0x03
def opAtomicRequest : BitVec 6 := 0x04
def opAtomicResponse : BitVec 6 := 0x05
def opNak : BitVec 6 := 0x06
def opCollective : BitVec 6 := 0x08
def opTime : BitVec 6 := 0x0C

/-- A one-flit message from this module (R25). -/
def State.flit (s : State) (op : BitVec 6) (dst : BitVec 22) (part : Nat) (tag : BitVec 16) (paddr : Nat)
    (scope : BitVec 3) (payload : List Byte) : Flit where
  last := true
  scope := scope
  len := BitVec.ofNat 4 ((payload.length + 7) / 8)
  paddr := BitVec.ofNat 48 paddr
  tag := tag
  part := BitVec.ofNat 6 part
  op := op
  src := s.fabric.devid
  dst := dst
  payload := payload

/-- Whether a port is out of service: two or more of its lanes have failed (R24). -/
def State.portOut (s : State) (port : Nat) : Bool := 2 ≤ popCount 4 (Tab.getD s.fabric.failedLanes port 0)

/-- Whether no port is left over which traffic could reroute: every destination is unreachable (R24, R29). -/
def State.noRoute (s : State) : Bool := 36 ≤ s.fabric.failedLanes.length && (List.range 36).all s.portOut

/-- Put a flit on the fabric, over any port in service (R24). -/
def State.send (s : State) (f : Flit) : State :=
  if s.noRoute then s else { s with fabric := { s.fabric with outbox := s.fabric.outbox ++ [f] } }

/-- A tag that no outstanding access holds. -/
def freeTag (w : Tab Remote) : (fuel : Nat) → BitVec 16 → BitVec 16
  | 0, t => t
  | n + 1, t => if (Tab.get? t.toNat w).isSome then freeTag w n (t + 1) else t

/-- Whether the admission test of a launch covers a remote access to a device (R30). -/
def State.testedRemote (s : State) (launch part dev : Nat) : Bool :=
  match s.launch? launch with
  | some l =>
    l.p.far && (s.part part).fabric.any (fun (e : Nat × Nat) => e.2 != 0) && dev / 64 == s.fabric.devid.toNat / 64
  | none => false

/-- A remote access outside the conditions of R30 marks its launch: it is voided at a miss (R154). -/
def State.markRemote (s : State) (launch part dev : Nat) : State :=
  if s.testedRemote launch part dev then s else s.updLaunch launch fun l => { l with missMark := true }

/-- The payload of a request (entry 21): its bytes, then the source partition, against which the home checks its peer
grants (R29, R123). -/
def requestPayload (part : Nat) (bs : List Byte) : List Byte := bs ++ [BitVec.ofNat 8 part]

/-- Whether the core cache takes the bytes of a remote load under a policy, and keeps them (R226, R228). -/
def keepOf (policy : Nat) : Option Bool := if policy = 0 then some false else if policy = 3 then some true else none

/-- Send a request and keep what waits for its answer: the answer to the tag completes it. -/
def State.outstanding (s : State) (f : Flit) (r : Remote) : State :=
  let s := s.send f
  { s with fabric := { s.fabric with nextTag := f.tag + 1, waiting := Tab.set f.tag.toNat r s.fabric.waiting } }

/-- Send a request of the current group through a remote page. -/
def State.request (s : State) (m : Map) (va : Nat) (op : BitVec 6) (scope : BitVec 3) (payload : List Byte)
    (kind : RemoteKind) (opId thread : Nat) (omask : Mask := 0) (acq : Option (Nat × Nat) := none) : Nat × State :=
  let tag := freeTag s.fabric.waiting 65536 s.fabric.nextTag
  let f := s.flit op (BitVec.ofNat 22 m.dev) m.rpart tag (m.phys va) scope
    (requestPayload s.cur.part payload)
  let r : Remote :=
    { kind := kind, g := s.cur.id, op := opId, thread := thread, va := BitVec.ofNat 64 va, addr := m.phys va
      dest := BitVec.ofNat 22 m.dev, issued := s.clock.cycle, write := op != opReadRequest, acq := acq
      iw0 := s.cur.iw0, omask := omask }
  (tag.toNat, (s.markRemote s.cur.launch s.cur.part m.dev).outstanding f r)

/-- Send a store through a remote page (R28): the flit leaves at once, and the core's own copy of the bytes follows it
(R238). No byte that a core stores is marked (entry 21). -/
def State.remoteStore (s : State) (m : Map) (va : Nat) (bs : List Byte) (policy opId thread : Nat) : Nat × State :=
  let i := s.cur.id
  let c := s.core i.die i.core
  let own := policy = 0 || policy = 3
  let s := s.setCore i.die i.core { c with cache := (bs.zipIdx).foldl (fun h (e : Byte × Nat) =>
    let k := byteKey m.space (m.phys (va + e.2))
    if own then Tab.set k ⟨e.1, false⟩ h else Tab.update k (fun _ => ⟨e.1, false⟩) h) c.cache }
  let s := if own then (m.lines (policy == 3) va bs.length).foldl (fun s l => s.useCore i.die i.core l) s else s
  s.request m va opWrite 0 (bs ++ [0]) .store opId thread

/-- Whether every byte of an access is in the core cache. -/
def State.inCore (s : State) (die core : Nat) (m : Map) (va n : Nat) : Bool :=
  (List.range n).all fun i => (Tab.get? (byteKey m.space (m.phys (va + i))) (s.core die core).cache).isSome

/-- Whether a group has writes at remote homes that are not acknowledged: stores, write-backs and atomics (R232, R240). A sync
operation that a split waits for is not one of them. -/
def State.unacknowledged (s : State) (g : Gid) : Bool :=
  s.fabric.waiting.any fun (e : Nat × Remote) => e.2.g == g && e.2.write
    && (match e.2.kind with | .store => true | .value .. => true | _ => false)

/-- The key of the write-backs of the map unit to other modules (R223), in the place of an operation. -/
def backKey : Nat := 2 ^ 66

/-- The key of the requests of units and engines to other modules, in the place of an operation. -/
def engKey : Nat := 2 ^ 67

/-- Whether a group has write-backs of the map unit at other modules that are not acknowledged. -/
def State.backOut (s : State) (g : Gid) : Bool :=
  s.fabric.waiting.any fun (e : Nat × Remote) => e.2.g == g && e.2.op == backKey

/-- The payload of an atomic or sync request (entry 21): the function's code, the size, B and C. -/
def atomicPayload (code size : Nat) (b c : Word) : List Byte :=
  leBytes 8 (code + size * 256) ++ leBytes 8 b.toNat ++ leBytes 8 c.toNat

end Sys2Proof.Machine
end

