-- ==== Sys2Proof/Machine/LocalStore.lean ====
section
/-!
DEFINITION. The local store of a team: bounds and system areas (R219, R220), and the map unit's bindings, fills and
write-backs (R221-R223).
-/

namespace Sys2Proof.Machine

open Sys2Proof

/-! ### Bounds (R219, R220) -/

/-- Whether a byte of the allocation lies in a system area: the last 1,024 bytes of each group's share (R142, R143). -/
def Team.inSystem (t : Team) (b : Nat) : Bool := t.area - 1024 ≤ b % t.area

/-- Whether a byte lies in the group's own system area. -/
def Group.ownSystem (g : Group) (b : Nat) : Bool := g.sysBase ≤ b && b < g.sysBase + 1024

/-- Whether a group may access `size` bytes at an offset: within the allocation, and in no system area but its own in
handler mode (R219, R220). -/
def Team.allows (t : Team) (g : Group) (off size : Nat) : Bool :=
  off + size ≤ t.size
    && (List.range size).all (fun i => !t.inSystem (off + i) || (g.hand.isSome && g.ownSystem (off + i)))

/-! ### Bindings (R221) -/

/-- The binding that covers a byte of the allocation. -/
def Team.bindAt (t : Team) (b : Nat) : Option MapBind := t.maps.find? (fun m => m.loc ≤ b && b < m.loc + m.len)

/-- Start of the 256-byte block of an offset. -/
def blockOf (b : Nat) : Nat := b / 256 * 256

/-- Start of the 32-byte atom of an offset. -/
def atomStart (b : Nat) : Nat := b / 32 * 32

/-- The atoms of a block. -/
def blockAtoms (block : Nat) : List Nat := (List.range 8).map fun i => block + 32 * i

/-- Whether an access to a byte waits for a fill (R222). -/
def Team.unfilled (t : Team) (b : Nat) : Bool :=
  match t.bindAt b with
  | some m => !m.noFill && !m.filled.contains (atomStart b)
  | none => false

/-- The global address that a byte of a mapped range stands for. -/
def MapBind.globalOf (m : MapBind) (b : Nat) : Nat := m.glob.toNat + (b - m.loc)

/-- Insert into a rising list without repeats. -/
def insertSorted (x : Nat) : List Nat → List Nat
  | [] => [x]
  | y :: l => if x = y then y :: l else if x < y then x :: y :: l else y :: insertSorted x l

/-- Change the bindings of a team. -/
def Team.mapBinds (t : Team) (f : MapBind → MapBind) : Team := { t with maps := t.maps.map f }

/-- A byte written by a store of the team: the byte, and its dirty mark in a mapped range (R223). -/
def Team.storeByte (t : Team) (b : Nat) (x : Byte) : Team :=
  { t with ls := t.ls.put b x }.mapBinds fun m =>
    if m.loc ≤ b && b < m.loc + m.len then { m with dirty := insertSorted b m.dirty } else m

/-- Bytes written by a store of the team. -/
def Team.store (t : Team) (b : Nat) (xs : List Byte) : Team :=
  (xs.zipIdx).foldl (fun t (e : Byte × Nat) => t.storeByte (b + e.2) e.1) t

/-- Mark an atom as filled. -/
def Team.markFilled (t : Team) (atom : Nat) : Team :=
  t.mapBinds fun m =>
    if m.loc ≤ atom && atom < m.loc + m.len then { m with filled := insertSorted atom m.filled } else m

/-- Mark the atoms of a block as filled. -/
def Team.markBlock (t : Team) (block : Nat) : Team := (blockAtoms block).foldl Team.markFilled t

/-- The blocks that a range covers whole. -/
def blocksWithin (off n : Nat) : List Nat :=
  ((List.range (n / 256 + 2)).map fun i => blockOf off + 256 * i).filter fun b => off ≤ b && b + 256 ≤ off + n

/-! ### Fill and write-back (R222, R223) -/

/-- Keep the failure of a fill for the accesses that wait. -/
def State.failFill (s : State) (i : Gid) (f : FillFault) : State :=
  s.updGroup i fun g => { g with fillFaults := f :: g.fillFaults }

/-- Fill one atom of a mapped range from its global range, as the core holds it on the CORE path (R222, R224). -/
def State.fillAtom (i : Gid) (g : Group) (m : MapBind) (mp : Map) (s : State) (b : Nat) : State :=
  let va := m.globalOf b
  let bytes := s.coreBytes i.die i.core mp va 32
  (s.touch i.die i.core mp va 32 0).updTeam g fun t => { t with ls := t.ls.putBytes b bytes }.markFilled b

/-- The keys of the requests with which a fill reads from another module. -/
def fillKey (va : Nat) : Nat := 2 ^ 65 + va

/-- Whether a fill of a group waits for another module. -/
def State.fillOut (s : State) (g : Gid) : Bool :=
  s.fabric.waiting.any fun (e : Nat × Remote) => e.2.g == g && 2 ^ 65 ≤ e.2.op && e.2.op < backKey

/-- The 64-byte pieces of a block. -/
def fillPieces : List Nat := [0, 64, 128, 192]

/-- Ask another module for the pieces of a block that the core does not hold (R28, R222). -/
def State.askFill (s : State) (mp : Map) (va : Nat) : State :=
  (fillPieces.filter fun k => !s.inCore s.cur.id.die s.cur.id.core mp (va + k) 64).foldl (fun (s : State) k =>
    (s.request mp (va + k) opReadRequest 0 [BitVec.ofNat 8 64] (.value 127 64 false (some false)) (fillKey (va + k)) 0).2) s

/-- Write back the listed dirty bytes of a binding in order (R223): a byte that has been written loses its mark, and the
first page that refuses ends it with its cause and address. -/
def State.backBytes (s : State) (g : Group) (m : MapBind) :
    List Nat → Option (BitVec 8 × Nat) × State
  | [] => (none, s)
  | b :: l =>
    let va := m.globalOf b
    match s.translate (g.acc true) (BitVec.ofNat 64 va) 1 1 with
    | (.error c, s) => (some (c, va), s)
    | (.ok mp, s) =>
      let x := ((s.team? g).map (fun t => t.ls.byte b)).getD 0
      let s := if mp.space < 4 then s.storeBytes g.id.die g.id.core mp va [x] 0
        else (s.remoteStore mp va [x] 0 backKey 0).2
      State.backBytes (s.updTeam g (fun t => t.mapBinds fun n =>
        if n.loc == m.loc then { n with dirty := n.dirty.filter (fun d => d != b) } else n)) g m l

/-- Write back the dirty bytes of the bindings that satisfy a test, in the order of the table (R223). -/
def State.backMaps (s : State) (g : Group) : List MapBind → Option (BitVec 8 × Nat) × State
  | [] => (none, s)
  | m :: l =>
    match s.backBytes g m m.dirty with
    | (some e, s) => (some e, s)
    | (none, s) => State.backMaps s g l

/-- A byte of a global range that a write-back at another module was refused is dirty again. -/
def Team.dirtyAgain (t : Team) (va : Nat) : Team :=
  t.mapBinds fun m =>
    if m.glob.toNat ≤ va && va < m.glob.toNat + m.len then { m with dirty := insertSorted (m.loc + (va - m.glob.toNat)) m.dirty }
    else m

/-- Write back the dirty bytes of the bindings for an instruction of the current group (R223). A refusal of an earlier write-back
by another module is taken first, as a translation fault is. -/
def State.backFirst (s : State) (l : List MapBind) : Option (BitVec 8 × Nat) × State :=
  let lost := s.cur.fillFaults.filter fun f => f.atom == backKey
  match lost with
  | [] => s.backMaps s.cur l
  | f :: _ =>
    let s := lost.foldl (fun (s : State) e => s.updTeam s.cur fun t => t.dirtyAgain e.addr.toNat) s
    (some (f.cause, f.addr.toNat),
      { s with cur := { s.cur with fillFaults := s.cur.fillFaults.filter fun f => f.atom != backKey } })

/-- A split that waited for a block is ready again. -/
def Split.wakeFill (block cycle : Nat) (p : Split) : Split :=
  if p.wait = .fill block then { p with wait := .none, age := cycle } else p

/-- The splits of a group that waited for a block are ready again. -/
def Group.wakeFill (block cycle : Nat) (g : Group) : Group :=
  { g with
    sp := g.sp.wakeFill block cycle
    other := g.other.map (Split.wakeFill block cycle)
    spill := g.spill.map (Split.wakeFill block cycle) }

/-- The map unit fills the atoms of a block through a page. A poisoned atom is 0x0D (R52), and a piece that another module has
refused has its cause. -/
def State.fillThrough (s : State) (i : Gid) (g : Group) (m : MapBind) (mp : Map) (block : Nat) (todo : List Nat) : State :=
  let va := m.globalOf block
  let far := fun (f : FillFault) => fillKey va ≤ f.atom && f.atom < fillKey va + 256
  let lost := g.fillFaults.filter far
  let failed := fun b =>
    if s.poisoned mp (m.globalOf b) 32 then some 0x0D
    else (lost.find? fun f => f.atom == fillKey (m.globalOf b / 64 * 64)).map fun f => f.cause
  let s := s.updGroup i fun g => { g with fillFaults := g.fillFaults.filter fun f => !far f }
  todo.foldl (fun s b =>
    match failed b with
    | some c => s.failFill i ⟨b, c, BitVec.ofNat 64 (m.globalOf b)⟩
    | none => if mp.space < 4 || s.inCore i.die i.core mp (m.globalOf b) 32 then s.fillAtom i g m mp b else s) s

/-- MAP_FILL (R222): the map unit translates a block of the team of a group and fills its atoms that are not filled; a failure
is kept for the accesses that wait. A page of another module is asked for, and the accesses go on waiting. -/
def State.fillBlock (s : State) (i : Gid) (block : Nat) : State :=
  let woken := fun (s : State) => s.updGroup i fun g => g.wakeFill block s.clock.cycle
  match s.group? i with
  | none => s
  | some g =>
    match s.team? g with
    | none => woken s
    | some t =>
      match t.bindAt block with
      | none => woken s
      | some m =>
        let todo := (blockAtoms block).filter t.unfilled
        let va := m.globalOf block
        if todo.isEmpty then woken s
        else
          match s.translate (g.acc false) (BitVec.ofNat 64 va) 256 1 with
          | (.error c, s) => woken (todo.foldl (fun s b => s.failFill i ⟨b, c, BitVec.ofNat 64 (m.globalOf b)⟩) s)
          | (.ok mp, s) =>
            let failed := g.fillFaults.any fun f => fillKey va ≤ f.atom && f.atom < fillKey va + 256
            if mp.space < 4 || failed || s.inCore i.die i.core mp va 256 then woken (s.fillThrough i g m mp block todo)
            else (s.focus i).askFill mp va

def execMapFill (i : Gid) (block : Nat) (s : State) : Out := .next (s.fillBlock i (blockOf block))

end Sys2Proof.Machine
end

