-- ==== Sys2Proof/Machine/Rejoin.lean ====
section
/-!
DEFINITION. The rejoin table and the splits that merge there (R178, R179, R344), and the end of a group (R350).
-/

namespace Sys2Proof.Machine

open Sys2Proof

/-! ### Merging (R178, R179, R344) -/

/-- The split that the parked splits of an entry merge into (R178). -/
def Rejoin.mergedSplit (e : Rejoin) (part : Bool) (cycle : Nat) : Split :=
  { Split.empty with
    mask := e.arrived, pc := e.next, token := e.parent, depth := e.depth, fmt := e.fmt, part := part, age := cycle,
    hand := e.hand }

/-- The merge of an open entry: it waits in the entry until it is placed (R178); with PART set the entry closes (R179). -/
def Group.mergeAt (g : Group) (token : BitVec 16) (part : Bool) (cycle : Nat) : Group :=
  { g with
    merges := g.merges + 1
    rejoin := g.rejoin.map fun e =>
      if e.token = token then
        { e with merged := some (e.mergedSplit part cycle), closed := part, order := g.merges }
      else e }

/-- The merged split that has waited longest. -/
def Group.firstMerged (g : Group) : Option Rejoin :=
  (g.rejoin.filter (fun e => e.merged.isSome)).foldl (fun (m : Option Rejoin) e =>
    match m with
    | none => some e
    | some x => if e.order < x.order then some e else some x) none

/-- Whether every thread of an entry's ORIGIN has arrived or exited. -/
def Rejoin.complete (e : Rejoin) : Bool := e.origin &&& ~~~e.arrived = 0

/-- The entry of a merged split that has been placed: it is freed, unless it is closed and still expects threads. -/
def Group.placed (g : Group) (token : BitVec 16) : Group :=
  let l := g.rejoin.map (fun x => if x.token = token then { x with merged := none } else x)
  { g with rejoin := l.filter (fun x => !(x.token == token && (!x.closed || x.complete))) }

/-- Place merged splits while there is room, in the order in which their merges completed (R178, R344). -/
def Group.placeMerged : (fuel : Nat) → Group → Group
  | 0, g => g
  | n + 1, g =>
    match g.firstMerged with
    | none => g
    | some e =>
      match e.merged with
      | none => g
      | some p =>
        match g.place p with
        | none => g
        | some g => Group.placeMerged n (g.placed e.token)

/-- After a slot has come free: the top spill record moves in first, then merged splits are placed (R175, R344). -/
def Group.refillAll (g : Group) : Group := g.refill.refill.placeMerged 16

/-- The issuing split ends and frees its slot. -/
def Group.endSplit (g : Group) : Group := (g.setSlot g.slot none).refillAll

/-- The entry that a token names. -/
def Group.entry? (g : Group) (token : BitVec 16) : Option Rejoin := g.rejoin.find? (fun e => e.token == token)

/-- The next token: a 16-bit counter that skips 0 (R178). -/
def Group.nextToken (g : Group) : BitVec 16 := if g.tokens + 1 = 0 then 1 else g.tokens + 1

/-- Take a rejoin entry for a diverging split (R176, R178). -/
def Group.newEntry (g : Group) : Group :=
  let t := g.nextToken
  { g with
    tokens := t
    rejoin := g.rejoin ++ [
      { token := t, origin := g.sp.mask, parent := g.sp.token, arrived := 0, pc := 0, next := 0, depth := 0, fmt := 0,
        low := 32, expiry := none, closed := false, merged := none, order := 0, hand := g.sp.hand }] }

/-- The most entries of a rejoin table (R178). -/
def rejoinMax : Nat := 16

/-! ### Exits (R350) -/

/-- A departing thread leaves the split's mask and every ORIGIN (R350). -/
def Group.depart (g : Group) (m : Mask) : Group :=
  { g with
    sp := { g.sp with mask := g.sp.mask &&& ~~~m }
    rejoin := g.rejoin.map (fun e => { e with origin := e.origin &&& ~~~m }) }

/-- The entries whose parked splits are now complete merge with PART clear (R350, step 1). -/
def Group.settleMerges (g : Group) (cycle : Nat) : Group :=
  (g.rejoin.filter (fun e => !e.closed && e.merged.isNone && e.arrived != 0 && e.origin == e.arrived)).foldl
    (fun g e => g.mergeAt e.token false cycle) g

/-- Entries with an empty ORIGIN, and closed entries whose threads have all arrived or exited, are freed (R350, steps 2
and 3). -/
def Group.settleFree (g : Group) : Group :=
  { g with rejoin := g.rejoin.filter (fun e => e.merged.isSome || !(e.origin == 0 || (e.closed && e.complete))) }

/-! ### The end of a group (R350, R374) -/

/-- The groups of a team, resident or saved. -/
def State.members (s : State) (t : Team) : List Group := (s.groups ++ s.saved).filter (fun g => t.has g)

/-- The groups of a team that have not exited (R374). -/
def State.running (s : State) (t : Team) : Nat := ((s.members t).filter (fun g => g.hold != .exited)).length

/-- A barrier whose count has reached what is expected flips (R374). -/
def Barrier.settle (b : Barrier) (running : Nat) : Barrier :=
  let want := if b.target = 0 then running else b.target
  if b.count != 0 && want ≤ b.count then { b with count := 0, phase := b.phase + 1 } else b

/-- The exit of a group lowers the target of every barrier with N = 0 (R374). -/
def State.barrierExit (s : State) : State :=
  match s.team? s.cur with
  | none => s
  | some t =>
    let n := s.running t
    s.updTeam s.cur fun t => { t with bars := t.bars.map (fun (e : Nat × Barrier) =>
      if e.2.target = 0 then (e.1, e.2.settle n) else e) }

/-- Whether the current group is the last of its team that has not exited. -/
def State.lastOfTeam (s : State) : Bool :=
  match s.team? s.cur with
  | none => true
  | some t => ((s.members t).filter (fun g => g.hold != .exited && g.id != s.cur.id)).isEmpty

/-- The number of register blocks a group holds (R171). -/
def Group.blocksHeld (g : Group) : Nat := (if g.blk0 then 1 else 0) + (if g.blk1 then 1 else 0)

/-- A group ends: its blocks return to the quota, its area and its tiles are free, and the team goes with its last group
(R143, R350). -/
def State.endGroup (s : State) (i : Gid) : State :=
  match s.group? i with
  | none => s
  | some g =>
    let s := s.updTeam g fun t =>
      { t with xqFree := t.xqFree + g.blocksHeld, used := t.used.filter (fun a => a != g.lsb) }
    let s := s.updLaunch g.launch (fun l => { l with exited := l.exited + 1 })
    let s := { s with
      cur := if s.cur.live && s.cur.id == i then Group.empty else s.cur
      rest := s.rest.filter (fun h => !(h.live && h.id == i)) }
    let s := s.partWith i
    match s.team? g with
    | none => s
    | some t => if (s.members t).isEmpty then { s with teams := s.teams.filter (fun t => !t.has g) } else s

/-- An exited group whose L, S and T counters are 0 ends (R350). -/
def State.endIfDone (s : State) (i : Gid) : State :=
  match s.group? i with
  | none => s
  | some g => if g.hold == .exited && g.cntL == 0 && g.cntS == 0 && g.cntT == 0 then s.endGroup i else s

/-- The current group has no thread left: it holds its residency until its counters reach 0 (R350). -/
def State.lastExit (s : State) : State :=
  let s := { s with cur := { s.cur with hold := .exited } }
  let s := if s.cur.trc.on then s.closeBlock else s
  s.barrierExit.endIfDone s.cur.id

/-- The lane settles the rejoin table when the last executing thread of an exit has issued (R350); the split goes on at
the next instruction, or ends. The flag tells whether it goes on. -/
def State.settleExit (s : State) (len cycle : Nat) : State × Bool :=
  let g := s.cur
  let goes := g.sp.mask != 0
  let g := if goes then g.advance len cycle else (g.setSlot g.slot none).refill.refill
  let g := ((g.settleMerges cycle).settleFree).placeMerged 16
  let s := { s with cur := g }
  if g.hasThreads then (s, goes) else (s.lastExit, false)

/-! ### Arrival at a rejoin (R178, R349) -/

/-- A split that goes on alone with PART set (R178). -/
def Group.alone (g : Group) (parent : BitVec 16) (len cycle : Nat) : Group :=
  let g := g.advance len cycle
  { g with sp := { g.sp with part := true, token := parent } }

/-- A split parks at an entry; the first arrival records PC, DEPTH and the expiry (R178). -/
def Group.park (g : Group) (e : Rejoin) (len : Nat) (expiry : Option Word) : Group :=
  let low := lowest g.sp.mask
  let first := e.arrived == 0
  let e' : Rejoin := { e with
    arrived := e.arrived ||| g.sp.mask
    pc := if first then g.sp.pc else e.pc
    next := if first then g.sp.pc + BitVec.ofNat 48 len else e.next
    depth := if first then g.sp.depth else e.depth
    fmt := if first || low < e.low then g.sp.fmt else e.fmt
    low := if first then low else min low e.low
    expiry := if first then expiry else e.expiry }
  { g with rejoin := g.rejoin.map (fun x => if x.token = e.token then e' else x) }

/-- A split reaches a closed entry: its threads have arrived, and the entry goes with the last of them (R179). -/
def Group.lateArrival (g : Group) (token : BitVec 16) : Group :=
  let l := g.rejoin.map (fun x => if x.token = token then { x with arrived := x.arrived ||| g.sp.mask } else x)
  { g with rejoin := l.filter (fun x => !(x.token == token && x.merged.isNone && x.complete)) }

/-- What `rejoin` does by the split's TOKEN (R178). The flag tells whether the split goes on. -/
def State.arrive (s : State) (len cycle : Nat) (timeout : Nat) : State × Bool :=
  let g := s.cur
  if g.sp.token = 0 then ({ s with cur := g.advance len cycle }, true)
  else
    match g.entry? g.sp.token with
    | none =>
      let s := { s with cur := g.alone 0 len cycle }
      (s.emitPacket (.mask g.sp.mask true none), true)
    | some e =>
      if e.closed || e.merged.isSome || (e.arrived != 0 && !(e.pc == g.sp.pc && e.depth == g.sp.depth)) then
        let g' := if e.closed then g.lateArrival e.token else g
        let s := { s with cur := g'.alone e.parent len cycle }
        (s.emitPacket (.mask g.sp.mask true none), true)
      else
        let expiry := if timeout = 0 then none else some (s.clock.time + BitVec.ofNat 64 timeout)
        let g := (g.park e len expiry)
        let done := (e.arrived ||| s.cur.sp.mask) == e.origin
        let g := (g.setSlot g.slot none).refill.refill
        let g := if done then (g.mergeAt e.token false cycle).placeMerged 16 else g.placeMerged 16
        ({ s with cur := g }, false)

/-- Whether a rejoin entry has expired (R179). -/
def Rejoin.expired (e : Rejoin) (now : Word) : Bool :=
  !e.closed && e.merged.isNone && e.arrived != 0
    && (match e.expiry with | some x => x.toNat ≤ now.toNat | none => false)

/-- The expiry of an entry of the current group: what has arrived goes on alone (R179). -/
def State.expire (s : State) (e : Rejoin) : State :=
  ({ s with cur := (s.cur.mergeAt e.token true s.clock.cycle).placeMerged 16 }).emitPacket (.mask e.arrived true none)

/-- The expiries that passed while the group was away take effect before its first issue (R179). -/
def State.expireAll (s : State) : State :=
  (s.cur.rejoin.filter fun e => e.expired s.clock.time).foldl State.expire s

/-- REJOIN_EXPIRY (R179): at an open entry's expiry the parked splits merge with PART set, and the entry closes; with a
condition that fails nothing happens. The entry is named by its token. -/
def execRejoinExpiry (i : Gid) (entry : Nat) (s : State) : Out :=
  .next (
    match s.group? i with
    | none => s
    | some g =>
      match g.entry? (BitVec.ofNat 16 entry) with
      | none => s
      | some e =>
        if e.expired s.clock.time then (s.focus i).expire e else s)

end Sys2Proof.Machine
end

