-- ==== Sys2Proof/Machine/Access.lean ====
section
/-!
DEFINITION. The frame of every memory instruction (R354-R356): addresses, checks of all threads before any access, the
operation that stays outstanding, the memory-class trap at the partial point, and the events that end an operation.
-/

namespace Sys2Proof.Machine

open Sys2Proof

/-! ### Checks (R192, R204, R211, R216) -/

/-- Whether a comparator covers a byte range (R204). -/
def comparatorHits (c : Word) (lo size : Nat) : Bool :=
  let n := max 2 (field c.toNat 55 6)
  let base := field c.toNat 0 52 / 2 ^ n * 2 ^ n
  c.getLsbD 63 && base < lo + size && lo < base + 2 ^ n

/-- Whether comparators act on the current split: its partition is granted debug, no handler runs and they are not
suppressed (R195, R204). -/
def State.comparing (s : State) : Bool := (s.part s.cur.part).debug && s.cur.hand.isNone && !s.cur.sp.quiet

/-- Whether a data comparator matches an access (R204). -/
def State.watched (s : State) (va size : Nat) (store : Bool) : Bool :=
  s.comparing && (s.core s.cur.id.die s.cur.id.core).bpc.any fun (e : Nat × Word) =>
    let k := field e.2.toNat 61 2
    (k == 3 || k == (if store then 2 else 1)) && comparatorHits e.2 va size

/-- The check of one thread of a global access, of which a test may refuse the place with 0x07: translation, that test,
comparators, then poison (R192, R356). -/
def State.checkPlace (s : State) (va : Word) (size : Nat) (write poison : Bool) (ok : Map → Bool) :
    Except (BitVec 8 × Word) Map × State :=
  match s.translate (s.cur.acc write) va size size with
  | (.error c, s) => (.error (c, va), s)
  | (.ok m, s) =>
    if !ok m then (.error (0x07, va), s)
    else if s.watched va.toNat size write then (.error (0x0E, va), s)
    else if poison && s.poisoned m va.toNat size then (.error (0x0D, va), s)
    else (.ok m, s)

/-- The check of one thread of a global access: translation, comparators, then poison (R192, R356). -/
def State.checkGlobal (s : State) (va : Word) (size : Nat) (write poison : Bool) : Except (BitVec 8 × Word) Map × State :=
  s.checkPlace va size write poison fun _ => true

/-- A thread's access that passed its checks: the thread, the address, and how it reaches storage. -/
structure Plan where
  thread : Nat
  va : Word
  map : Map
  deriving DecidableEq, Repr

/-- Whether a thread re-issues an access whose page request has failed (R133). -/
def Group.isDenied (g : Group) (t : Nat) : Bool :=
  g.sp.st = 2 && g.denied.any fun h => h.slot == g.slot && h.faults.any fun f => f.thread == t

/-- The failed page requests of the issuing split have been met. -/
def Group.undenied (g : Group) : Group := { g with denied := g.denied.filter fun h => h.slot != g.slot }

/-- The checks of all threads, in ascending order, before any of them accesses memory (R356). -/
def planAll (chk : State → Nat → Except (BitVec 8 × Word) Map × State) (va : State → Nat → Word) :
    List Nat → State → List Plan × List Faulter × State
  | [], s => ([], [], s)
  | t :: l, s =>
    let x := va s t
    if s.cur.isDenied t then let r := planAll chk va l s; (r.1, ⟨t, 0x07, x⟩ :: r.2.1, r.2.2)
    else
    match chk s t with
    | (.ok m, s) => let r := planAll chk va l s; (⟨t, x, m⟩ :: r.1, r.2.1, r.2.2)
    | (.error (c, a), s) => let r := planAll chk va l s; (r.1, ⟨t, c, a⟩ :: r.2.1, r.2.2)

/-! ### Outstanding operations (R173, R185) -/

/-- Write the registers of a group that an operation lands in (R173). While a handler runs, an operation issued before it
lands in what `eret` restores (entry 23). -/
def Group.landOne (g : Group) (hand : Bool) (l : Landing) : Group :=
  if l.reg < 96 then
    if g.hand.isSome && !hand && l.reg < 4 then
      let row := Row.mk fun t => if t = l.thread then l.val else Row.get (Tab.getD g.shadow l.reg []) t
      { g with shadow := Tab.set l.reg row g.shadow }
    else g.vset l.reg (maskOf [l.thread]) (fun _ => l.val)
  else g.gset (l.reg - 96) l.val

/-- Land a list of register writes. -/
def Group.land (g : Group) (hand : Bool) (ls : List Landing) : Group := ls.foldl (fun g l => g.landOne hand l) g

/-- Where a landing goes into GSAVE of the trap frame (entry 23). -/
def State.landSaved (s : State) (i : Gid) (hand : Bool) (ls : List Landing) : State :=
  match s.group? i with
  | none => s
  | some g =>
    if g.hand.isSome && !hand then
      let put := fun (m : Mem) (l : Landing) =>
        if 124 ≤ l.reg && l.reg < 127 then m.putBytes (g.tframe + 32 + 8 * (l.reg - 124)) (leBytes 8 l.val.toNat) else m
      s.updTeam g fun t => { t with ls := ls.foldl put t.ls }
    else s

/-- Land the writes of an operation in its group. -/
def State.landAll (s : State) (i : Gid) (hand : Bool) (ls : List Landing) : State :=
  let saved := fun (g : Group) (l : Landing) => g.hand.isSome && !hand && 124 ≤ l.reg
  (s.landSaved i hand ls).updGroup i fun g => g.land hand (ls.filter fun l => !saved g l)

/-- The words of a tile row with a piece put in. -/
def putWords (row : List (BitVec 32)) (first : Nat) (ws : List (BitVec 32)) : List (BitVec 32) :=
  (List.range 32).map fun i => if first ≤ i && i < first + ws.length then ws.getD (i - first) 0 else row.getD i 0

/-- A row of a tile (R387). -/
def Group.tileRow (g : Group) (a i : Nat) : List (BitVec 32) := Tab.getD (Tab.getD g.tiles a []) i []

/-- A word of a tile. -/
def Group.tileWord (g : Group) (a i n : Nat) : BitVec 32 := (g.tileRow a i).getD n 0

/-- Put words into a row of a tile. -/
def Group.setWords (g : Group) (a i first : Nat) (ws : List (BitVec 32)) : Group :=
  { g with tiles := Tab.set a (Tab.set i (putWords (g.tileRow a i) first ws) (Tab.getD g.tiles a [])) g.tiles }

/-- Land what an operation of a kind brings: its register writes, and the rows of a tile. -/
def State.landKind (s : State) (i : Gid) (hand : Bool) (k : OpKind) (ls : List Landing) : State :=
  let s := s.landAll i hand ls
  match k with
  | .tile a rows => s.updGroup i fun g => rows.foldl (fun g r => g.setWords a r.1 r.2.1 r.2.2) g
  | .local_ off bytes _ _ =>
    match s.group? i with
    | none => s
    | some g => s.updTeam g fun t => (blocksWithin off bytes.length).foldl Team.markBlock (t.store off bytes)
  | _ => s

/-- Whether a split waits for an operation. -/
def Split.heldBy (p : Split) (id : Nat) : Bool := p.wait == .op id

/-- A split that was held at an operation moves on to the next instruction (R356, R361). -/
def Split.release (id len cycle : Nat) (p : Split) : Split :=
  if p.heldBy id then
    { p with pc := p.pc + BitVec.ofNat 48 len, st := 0, rtid := 0, rem := 0, wait := .none, charged := false,
             quiet := false, age := cycle }
  else p

/-- A split that was held at an operation that faulted is no longer held; it stays at its instruction. -/
def Split.unhold (id : Nat) (p : Split) : Split :=
  if p.heldBy id then { p with wait := .none, charged := false } else p

/-- Apply a change to every split of a group. -/
def Group.mapSplits (f : Split → Split) (g : Group) : Group :=
  { g with sp := f g.sp, other := g.other.map f, spill := g.spill.map f }

/-- A split of a group has ended an instruction at which it was held: single step takes its trap (R205). -/
def State.stepEnd (s : State) (i : Gid) (slot : Bool) (e : Mask) : State :=
  match s.group? i with
  | none => s
  | some g =>
    if g.dbg.getLsbD 8 && g.hand.isNone then
      let s := s.focus i
      ({ s with cur := s.cur.select slot }).afterIssue e
    else s

/-- The split that was held at an operation goes on (R356, R361, R205). -/
def State.releaseAt (s : State) (id : Nat) (op : Op) : State :=
  let held := (s.group? op.g).any fun g => ((g.sp :: g.other.toList) ++ g.spill).any fun p => p.heldBy id
  let s := s.updGroup op.g fun g => g.mapSplits (Split.release id op.len s.clock.cycle)
  if held then s.stepEnd op.g op.slot op.omask else s

/-- End an operation (R355, R356): its writes land; the counter falls, or with faulters it falls with the memory-class
trap, which a saved group takes at its resume; a split held at it goes on. -/
def State.finishOp (s : State) (id : Nat) : State :=
  match Tab.get? id s.eng.ops with
  | none => s
  | some op =>
    let s := { s with eng := { s.eng with ops := Tab.erase id s.eng.ops } }
    let s := s.landKind op.g op.hand op.kind op.writes
    if op.faults.isEmpty then
      ((s.updGroup op.g fun g => g.uncount op.counter).releaseAt id op).endIfDone op.g
    else if op.hand then
      -- a trap raised in handler mode (R195; entry 23)
      match s.anyGroup? op.g with
      | some g => s.doubleTrapOf g
      | none => s
    else if (s.group? op.g).isNone then
      s.updGroup op.g fun g =>
        let h : HeldTrap := ⟨op.faults, op.kindByte, op.omask, op.iw0, op.slot, op.counter, false, op.issued⟩
        { g.mapSplits (Split.unhold id) with held := g.held ++ [h] }
    else
      let s := s.focus op.g
      let s := { s with cur := s.cur.mapSplits (Split.unhold id) }
      s.lateTrap op.slot op.faults op.kindByte op.omask op.iw0 op.counter op.issued

/-! ### The frame -/

/-- What the accesses of an instruction leave behind: the writes that land, the tags of remote accesses, the cycles until
they are complete after the last issue, the kind of the operation, and the atoms to be read or written in DRAM. -/
structure Draft where
  writes : List Landing
  tags : List Nat
  delay : Nat
  kind : OpKind
  misses : List Sector
  deriving DecidableEq, Repr

def Draft.none : Draft := ⟨[], [], 0, .load, []⟩

/-- Join the kinds of two accesses of one instruction. -/
def joinKind : OpKind → OpKind → OpKind
  | .ldfe u, .ldfe v => .ldfe (u ++ v)
  | .tile a u, .tile _ v => .tile a (u ++ v)
  | _, k => k

/-- Join what two accesses leave. -/
def Draft.join (a b : Draft) : Draft :=
  ⟨a.writes ++ b.writes, a.tags ++ b.tags, max a.delay b.delay, joinKind a.kind b.kind, a.misses ++ b.misses⟩

/-- Whether the issuing split is held at an operation without known faults: they are not yet known (R29, R114, R356), or it is a
waiting `ldfe` (R361). -/
def Draft.holds (d : Draft) : Bool :=
  !d.tags.isEmpty || (match d.kind with | .ldfe _ => true | .filter .. => true | _ => false)

/-- On whose behalf the current group makes its requests. -/
def State.asker (s : State) (id : Nat) : Asker := ⟨some id, some s.cur.launch, s.cur.part, s.counts⟩

/-- An instruction's own place in an operation. -/
def State.opOf (s : State) (p : Pred) (len counter path : Nat) (kind : BitVec 8) (d : Draft) (delay : Nat)
    (faults : List Faulter) : Op where
  g := s.cur.id
  launch := s.cur.launch
  kind := d.kind
  counter := counter
  path := path
  due := s.clock.cycle + delay
  writes := d.writes
  faults := faults
  tags := d.tags
  vas := []
  omask := s.cur.omask p
  kindByte := kind
  iw0 := s.cur.iw0
  slot := s.cur.slot
  len := len
  hand := s.cur.hand.isSome
  issued := s.clock.cycle

/-- Keep an operation, with its requests. -/
def State.addOp (s : State) (id : Nat) (op : Op) (misses : List Sector) : State :=
  let s := { s with eng := { s.eng with ops := Tab.set id op s.eng.ops }, cur := s.cur.addCount op.counter }
  s.ask (s.asker id) (op.kind == .store) misses

/-- Hold the issuing split at an operation. -/
def State.hold (s : State) (id : Nat) : State :=
  { s with cur := { s.cur with sp := { s.cur.sp with wait := .op id, charged := true } } }

/-- How a memory instruction runs: the threads that access, its cycles, its counter, path and KIND, and whether it stores. -/
structure Shape where
  len : Nat
  uniform : Bool
  vector : Bool
  counter : Nat
  path : Nat
  kind : BitVec 8
  store : Bool
  /-- a uniform instruction whose accesses are made per executing thread: tile moves (R393) -/
  rows : Bool := false
  deriving DecidableEq, Repr

/-- The threads of an executing mask that a budget covers: all or none of a uniform instruction (R153, R168). -/
def State.covered (s : State) (sh : Shape) (e : Mask) : Mask :=
  if s.cur.sp.charged then e
  else if sh.uniform then (if s.affordable e = 0 then 0 else e)
  else s.affordable e

/-- Cycles of the threads that issue. -/
def Shape.cost (sh : Shape) (e : Mask) : Nat := if sh.uniform then Group.uniformCost e sh.vector else max 1 (count e)

/-- The threads that make accesses: every thread that issues, or the lowest of a uniform instruction. -/
def Shape.accessing (sh : Shape) (e : Mask) : List Nat := if sh.uniform && !sh.rows then (threads e).take 1 else threads e

/-- The frame of a memory instruction (R185, R355, R356). All checks come first. Without a fault the accesses are
performed, and the operation stays outstanding under its counter. With faults the split is held until the other threads have
completed, and the trap is taken at that partial point; threads that the budget does not cover join it with 0x09 (entry 24). -/
def State.memory (s : State) (p : Pred) (sh : Shape) (va : State → Nat → Word)
    (chk : State → Nat → Except (BitVec 8 × Word) Map × State) (perform : State → Nat → List Plan → Draft × State) : State :=
  let e := s.cur.exec p
  if e = 0 then s.retire 1 sh.len e
  else if sh.counter < 4 && 62 ≤ s.cur.counter sh.counter then s.stall (.counterFull sh.counter)
  else
    let ok := s.covered sh e
    let rest := e &&& ~~~ok
    if ok = 0 then s.exhausted (lowest e) (s.cur.omask p)
    else
      let r := planAll chk va (sh.accessing ok) s
      let n := sh.cost ok
      let id := { r.2.2 with cur := r.2.2.cur.undenied }.fresh
      let d := perform id.2 id.1 r.1
      let s := d.2
      let op := fun fs => { s.opOf p sh.len sh.counter sh.path sh.kind d.1 (n + d.1.delay) fs with vas := r.1.map fun q => (q.thread, q.va) }
      let faults := r.2.1 ++ (threads rest).map fun t => ⟨t, 0x09, va s t⟩
      if faults.isEmpty then
        let s := if sh.counter < 4 || !d.1.tags.isEmpty then s.addOp id.1 (op []) d.1.misses else s
        if d.1.holds then ((if s.cur.sp.charged then s else s.charge n).occupy n).hold id.1
        else s.retire n sh.len e
      else
        let s := if rest = 0 then s else s.overrun
        (((if s.cur.sp.charged then s else s.charge n).occupy n).addOp id.1 (op faults) d.1.misses).hold id.1

/-! ### Latency (R190) -/

/-- Whether every byte of an access is in the die buffer. -/
def State.inHome (s : State) (m : Map) (va n : Nat) : Bool :=
  (List.range n).all fun i => (Tab.get? (byteKey m.space (m.phys (va + i))) s.home).isSome

/-- Nominal cycles of a read, and whether it goes to DRAM (R190). A tier-cache hit costs an HBM access (R42, R227). -/
def State.readDelay (s : State) (m : Map) (va n : Nat) : Nat × Bool :=
  let i := s.cur.id
  let p := m.phys va
  if s.inCore i.die i.core m va n then (60, false)
  else if m.space = 3 then (900, false)
  else
    let far := s.linkDelay i.die (homeDie p)
    let k := s.stack (stackOf p)
    if s.inHome m va n then (200 + far, false)
    else if inTier p && !(k.cachesTier p && k.tierHit p) then (900, true)
    else (480 + far, true)

/-- Nominal cycles until a store is performed (R190, R355). -/
def State.storeDelay (s : State) (m : Map) (va policy : Nat) : Nat :=
  if policy = 0 || policy = 3 then 0
  else 199 + (if m.isLocal then s.linkDelay s.cur.id.die (homeDie (m.phys va)) else 0)

/-! ### Events that end operations -/

/-- Whether a request of an operation waits in a channel (R44): the operation is not complete. -/
def State.requestsLeft (s : State) (id : Nat) : Bool :=
  s.stks.any fun (e : Nat × Stack) => e.2.pcs.any fun (c : Nat × PChan) => c.2.queue.any fun r => r.op == some id

/-- LOAD_DATA_LAND (R173): the returned data of an operation lands. An operation that is not complete is left as it is. -/
def State.landOp (s : State) (id : Nat) : State :=
  match Tab.get? id s.eng.ops with
  | none => s
  | some op =>
    let ready := op.due ≤ s.clock.cycle && op.tags.isEmpty && !s.requestsLeft id
      && (match op.kind with
        | .load => true | .remote => true | .tile _ _ => true | .local_ .. => true | .ldfe w => w.isEmpty
        | .detach after => after.all fun k => (Tab.get? k s.eng.ops).isNone
        | _ => false)
    if ready then s.finishOp id else s

def execLoadDataLand (op : Nat) (s : State) : Out := .next (s.landOp op)

/-- STORE_PERFORMED (R355): a store is performed, and its counter falls. -/
def execStorePerformed (op : Nat) (s : State) : Out :=
  .next (
    match Tab.get? op s.eng.ops with
    | none => s
    | some o =>
      if o.kind == .store && o.due ≤ s.clock.cycle && o.tags.isEmpty && !s.requestsLeft op then s.finishOp op else s)

end Sys2Proof.Machine
end

