-- ==== Sys2Proof/Machine/Float.lean ====
section
/-!
DEFINITION. Float values (R269-R274), rounding (R275-R278), narrowing (R279-R281), scaled elements (R271, R272) and the one
summation order (R282, R283), on exact numbers.
-/

namespace Sys2Proof

/-! ### Formats -/

/-- The parameters of a float format (R269, R270). -/
structure FmtInfo where
  ebits : Nat
  mbits : Nat
  bias : Nat
  deriving DecidableEq, Repr

/-- The format of a float type; an integer type has none, and the entry is not used. -/
def ET.info : ET → FmtInfo
  | .f64 => ⟨11, 52, 1023⟩
  | .f32 => ⟨8, 23, 127⟩
  | .f16 => ⟨5, 10, 15⟩
  | .bf16 => ⟨8, 7, 127⟩
  | .e4m3 => ⟨4, 3, 7⟩
  | .e5m2 => ⟨5, 2, 15⟩
  | .e2m1 => ⟨2, 1, 1⟩
  | _ => ⟨8, 23, 127⟩

/-- Whether a format has infinities: all but `e4m3` and `e2m1` (R269, R270). -/
def ET.hasInf : ET → Bool
  | .e4m3 | .e2m1 => false
  | _ => true

/-- Whether FTZ reaches a type: `f64`, `f32`, `f16` and `bf16` (R278). -/
def ET.flushes : ET → Bool
  | .f64 | .f32 | .f16 | .bf16 => true
  | _ => false

end Sys2Proof

namespace Sys2Proof.Machine

open Sys2Proof

/-! ### Values -/

/-- A float value: NaN, an infinity, or (-1)^neg * m * 2^e (R269). -/
inductive Fl where
  | nan
  | inf (neg : Bool)
  | fin (neg : Bool) (m : Nat) (e : Int)
  deriving DecidableEq, Repr

/-- The value of a pattern (R269, R270). -/
def toFl (e : ET) (n : Nat) : Fl :=
  let i := e.info
  let neg := n.testBit (i.ebits + i.mbits)
  let ex := n / 2 ^ i.mbits % 2 ^ i.ebits
  let m := n % 2 ^ i.mbits
  if e.hasInf && ex = 2 ^ i.ebits - 1 then (if m = 0 then .inf neg else .nan)
  else if e = .e4m3 && ex = 15 && m = 7 then .nan
  else if ex = 0 then .fin neg m (1 - (i.bias : Int) - i.mbits)
  else .fin neg (2 ^ i.mbits + m) ((ex : Int) - i.bias - i.mbits)

/-- The sign bit of a type in its place. -/
def signBit (e : ET) (neg : Bool) : Nat := if neg then 2 ^ (e.width - 1) else 0

/-- The canonical NaN (R273); `e2m1` has none, and a NaN gives +0.0 there (R279). -/
def canonNaN : ET → Nat
  | .f64 => 0x7FF8000000000000
  | .f32 => 0x7FC00000
  | .f16 => 0x7E00
  | .bf16 => 0x7FC0
  | .e4m3 => 0x7F
  | .e5m2 => 0x7E
  | _ => 0

/-- The pattern of the largest finite magnitude (R269, R270). -/
def maxFinite : ET → Nat
  | .f64 => 0x7FEFFFFFFFFFFFFF
  | .f32 => 0x7F7FFFFF
  | .f16 => 0x7BFF
  | .bf16 => 0x7F7F
  | .e4m3 => 0x7E
  | .e5m2 => 0x7B
  | _ => 0x7

/-- The pattern of infinity; for a format with none, that of what stands in its place (R279). -/
def infPattern (e : ET) : Nat :=
  if e.hasInf then (2 ^ e.info.ebits - 1) * 2 ^ e.info.mbits
  else if e = .e4m3 then 0x7F
  else 0x7

/-! ### Rounding (R275) -/

/-- Whether an inexact magnitude of a sign is rounded up, away from zero, in a mode; `odd` is the last kept bit, `cmp` the
comparison of the discarded part with one half. -/
def roundUp (mode : Rnd) (neg odd : Bool) (cmp : Ordering) : Bool :=
  match mode with
  | .rne => cmp == .gt || (cmp == .eq && odd)
  | .rtz => false
  | .rdn => neg
  | .rup => !neg

/-- A nonnegative rational rounded to an integer in a mode, for a value of a sign. -/
def roundRat (mode : Rnd) (neg : Bool) (num den : Nat) : Nat :=
  let q := num / den
  let r := num % den
  if r = 0 then q
  else if roundUp mode neg (q % 2 == 1) (compare (2 * r) den) then q + 1 else q

/-- floor(log2(num / den)) for positive num and den. -/
def log2Rat (num den : Nat) : Int :=
  let l : Int := (Nat.log2 num : Int) - Nat.log2 den
  if (if 0 ≤ l then den * 2 ^ l.toNat ≤ num else den ≤ num * 2 ^ (-l).toNat) then l else l - 1

/-- num / den divided by 2^k, as a rational. -/
def scaleRat (num den : Nat) (k : Int) : Nat × Nat :=
  if 0 ≤ k then (num, den * 2 ^ k.toNat) else (num * 2 ^ (-k).toNat, den)

/-- Overflow in a mode, as IEEE 754 gives it: infinity or the largest finite magnitude (R275, R279). -/
def overflowTo (e : ET) (mode : Rnd) (neg : Bool) : Nat :=
  match mode with
  | .rne => infPattern e
  | .rtz => maxFinite e
  | .rdn => if neg then infPattern e else maxFinite e
  | .rup => if neg then maxFinite e else infPattern e

/-- The pattern of n units of 2^k, where the rounding has left them within the format's mantissa width. -/
def packFinite (e : ET) (n : Nat) (k : Int) : Nat :=
  let i := e.info
  let low : Int := 1 - (i.bias : Int) - i.mbits
  -- the rounding may have carried into the next binade
  let (n, k) := if n = 2 ^ (i.mbits + 1) then (2 ^ i.mbits, k + 1) else (n, k)
  if n < 2 ^ i.mbits then n
  else (k - low + 1).toNat * 2 ^ i.mbits + (n - 2 ^ i.mbits)

/-- Round a positive rational to a format (R275): the pattern of its magnitude. `sat` clamps an overflow. -/
def roundMag (e : ET) (mode : Rnd) (sat neg : Bool) (num den : Nat) : Nat :=
  if num = 0 then 0
  else
    let i := e.info
    let low : Int := 1 - (i.bias : Int) - i.mbits
    let k := max low (log2Rat num den - i.mbits)
    let s := scaleRat num den k
    let n := roundRat mode neg s.1 s.2
    let p := packFinite e n k
    if maxFinite e < p then
      if sat || e = .e2m1 then maxFinite e else overflowTo e mode neg
    else p

/-- The rational of a dyadic magnitude. -/
def dyadic (m : Nat) (e : Int) : Nat × Nat := if 0 ≤ e then (m * 2 ^ e.toNat, 1) else (m, 2 ^ (-e).toNat)

/-- Round a value to a format. A NaN gives the canonical NaN; an infinite value stays infinite, or the largest finite
magnitude with `sat` (R275, R279; an infinite value is no overflow, entry 19). -/
def roundFl (e : ET) (mode : Rnd) (sat : Bool) (x : Fl) : Nat :=
  match x with
  | .nan => canonNaN e
  | .inf neg =>
    if e = .e2m1 then signBit e neg + 0x7
    else if sat then signBit e neg + maxFinite e
    else if e = .e4m3 then canonNaN e
    else signBit e neg + infPattern e
  | .fin neg m k =>
    let d := dyadic m k
    let p := roundMag e mode sat neg d.1 d.2
    if e = .e4m3 && p = 0x7F then canonNaN e else signBit e neg + p

/-- Flush a subnormal pattern to a zero of its sign (R278). -/
def flush (ftz : Bool) (e : ET) (n : Nat) : Nat :=
  if ftz && n / 2 ^ e.info.mbits % 2 ^ e.info.ebits = 0 then n / 2 ^ (e.width - 1) % 2 * 2 ^ (e.width - 1) else n

/-- A source pattern's value, flushed where FTZ is set and reaches the type (R278). -/
def srcFl (ftz : Bool) (e : ET) (n : Nat) : Fl := toFl e (flush (ftz && e.flushes) e n)

/-- The stored result of an arithmetic instruction (R275, R278). -/
def resultFl (ftz : Bool) (e : ET) (mode : Rnd) (x : Fl) : Nat := flush (ftz && e.flushes) e (roundFl e mode false x)

/-! ### Exact arithmetic (R273, R277) -/

/-- The sign of a value. -/
def Fl.neg : Fl → Bool
  | .nan => false
  | .inf n => n
  | .fin n _ _ => n

def Fl.isNaN : Fl → Bool
  | .nan => true
  | _ => false

def Fl.isZero : Fl → Bool
  | .fin _ m _ => m == 0
  | _ => false

/-- The value with its sign inverted. -/
def Fl.negate : Fl → Fl
  | .nan => .nan
  | .inf n => .inf (!n)
  | .fin n m e => .fin (!n) m e

/-- The signed integer m * 2^(e - lo), for lo at most e. -/
def alignTo (neg : Bool) (m : Nat) (e lo : Int) : Int :=
  let v : Int := (m * 2 ^ (e - lo).toNat : Nat)
  if neg then -v else v

/-- The exact sum. An exact zero sum of unlike signs is +0, or -0 in RDN (R277). -/
def Fl.add (mode : Rnd) (a b : Fl) : Fl :=
  match a, b with
  | .nan, _ => .nan
  | _, .nan => .nan
  | .inf n, .inf k => if n == k then .inf n else .nan
  | .inf n, _ => .inf n
  | _, .inf n => .inf n
  | .fin n m e, .fin k p f =>
    if m = 0 && p = 0 then .fin (if n == k then n else mode == .rdn) 0 0
    else
      let lo := min e f
      let s := alignTo n m e lo + alignTo k p f lo
      if s = 0 then .fin (mode == .rdn) 0 0 else .fin (decide (s < 0)) s.natAbs lo

/-- The exact product (R273, R277). -/
def Fl.mul (a b : Fl) : Fl :=
  match a, b with
  | .nan, _ => .nan
  | _, .nan => .nan
  | .inf n, .inf k => .inf (n != k)
  | .inf n, .fin k m _ => if m = 0 then .nan else .inf (n != k)
  | .fin k m _, .inf n => if m = 0 then .nan else .inf (n != k)
  | .fin n m e, .fin k p f => .fin (n != k) (m * p) (e + f)

/-- Whether a < b, for values that are not NaN; -0 and +0 are equal. -/
def Fl.lt (a b : Fl) : Bool :=
  match a, b with
  | .nan, _ => false
  | _, .nan => false
  | .inf n, .inf k => n && !k
  | .inf n, _ => n
  | _, .inf k => !k
  | .fin n m e, .fin k p f =>
    let lo := min e f
    decide (alignTo n m e lo < alignTo k p f lo)

/-- Whether a = b as numbers. -/
def Fl.eq (a b : Fl) : Bool := !a.isNaN && !b.isNaN && !a.lt b && !b.lt a

/-- Whether a comes before b with -0 below +0 (R319). -/
def Fl.before (a b : Fl) : Bool := a.lt b || (a.eq b && a.neg && !b.neg)

/-! ### Division and roots (R322) -/

/-- Round a positive rational of a sign to a stored result. -/
def roundQuot (ftz : Bool) (e : ET) (mode : Rnd) (neg : Bool) (num den : Nat) : Nat :=
  flush (ftz && e.flushes) e (signBit e neg + roundMag e mode false neg num den)

/-- `fdiv` (R322). -/
def divFl (ftz : Bool) (e : ET) (mode : Rnd) (a b : Fl) : Nat :=
  match a, b with
  | .nan, _ => canonNaN e
  | _, .nan => canonNaN e
  | .inf _, .inf _ => canonNaN e
  | .inf n, .fin k _ _ => signBit e (n != k) + infPattern e
  | .fin n _ _, .inf k => signBit e (n != k)
  | .fin n m x, .fin k p y =>
    if p = 0 then (if m = 0 then canonNaN e else signBit e (n != k) + infPattern e)
    else
      let s := scaleRat m p (y - x)
      roundQuot ftz e mode (n != k) s.1 s.2

/-- Bits of precision kept by the roots: enough that one sticky bit decides every rounding. -/
def rootBits : Nat := 160

/-- `fsqrt` (R322): the root of m * 2^x by an integer root and a sticky bit. -/
def sqrtFl (ftz : Bool) (e : ET) (mode : Rnd) (a : Fl) : Nat :=
  match a with
  | .nan => canonNaN e
  | .inf n => if n then canonNaN e else infPattern e
  | .fin n m x =>
    if m = 0 then signBit e n
    else if n then canonNaN e
    else
      let (m, x) := if x % 2 = 0 then (m, x) else (2 * m, x - 1)
      let big := m * 2 ^ (2 * rootBits)
      let r := Nat.sqrt big
      let s := scaleRat (2 * r + (if r * r = big then 0 else 1)) 1 (-(x / 2) + rootBits + 1)
      roundQuot ftz e mode false s.1 s.2

/-- `frsq` (R322): the root of the reciprocal. -/
def rsqrtFl (ftz : Bool) (e : ET) (mode : Rnd) (a : Fl) : Nat :=
  match a with
  | .nan => canonNaN e
  | .inf n => if n then canonNaN e else 0
  | .fin n m x =>
    if m = 0 then signBit e n + infPattern e
    else if n then canonNaN e
    else
      let (m, x) := if x % 2 = 0 then (m, x) else (2 * m, x - 1)
      let big := 2 ^ (4 * rootBits)
      let r := Nat.sqrt (big / m)
      let s := scaleRat (2 * r + (if r * r * m = big then 0 else 1)) 1 (x / 2 + 2 * rootBits + 1)
      roundQuot ftz e mode false s.1 s.2

/-- The value 1. -/
def Fl.one : Fl := .fin false 1 0

/-! ### Conversions (R279-R281) -/

/-- Whether a conversion between float types is exact: at least as wide in exponent range and mantissa (R279). -/
def widens (src dst : ET) : Bool :=
  src == dst ||
  match src, dst with
  | .f32, .f64 => true
  | .f16, .f32 | .f16, .f64 => true
  | .bf16, .f32 | .bf16, .f64 => true
  | .e4m3, .f16 | .e4m3, .bf16 | .e4m3, .f32 | .e4m3, .f64 => true
  | .e5m2, .f16 | .e5m2, .bf16 | .e5m2, .f32 | .e5m2, .f64 => true
  | .e2m1, .e4m3 | .e2m1, .e5m2 | .e2m1, .f16 | .e2m1, .bf16 | .e2m1, .f32 | .e2m1, .f64 => true
  | _, _ => false

/-- Float to float (R279); `sat` is `%fmt`[3], which governs narrowing conversions only. -/
def convFF (mode : Rnd) (sat : Bool) (src dst : ET) (x : Fl) : Nat := roundFl dst mode (sat && !widens src dst) x

/-- An exact rational rounded to an integer in a mode. -/
def roundInt (mode : Rnd) (x : Fl) : Int :=
  match x with
  | .fin n m e =>
    let d := dyadic m e
    let r : Int := (roundRat mode n d.1 d.2 : Nat)
    if n then -r else r
  | _ => 0

/-- Float to integer: always saturating, NaN gives 0 (R280). -/
def convFI (mode : Rnd) (lo hi : Int) (x : Fl) : Int :=
  match x with
  | .nan => 0
  | .inf n => if n then lo else hi
  | _ =>
    let r := roundInt mode x
    if r < lo then lo else if hi < r then hi else r

/-- An integer as a value. -/
def Fl.ofInt (i : Int) : Fl := .fin (decide (i < 0)) i.natAbs 0

/-! ### Scaled elements (R271, R272) -/

/-- The value of an E3M5 scale byte (R271). -/
def scaleFl (s : Nat) : Fl :=
  if s = 0xFF then .nan
  else if s / 32 = 0 then .fin false (s % 32) (-7)
  else .fin false (32 + s % 32) ((s / 32 : Int) - 8)

/-- An `e2m1` element under its block and band scales, exact (R272). -/
def scaledFl (code block band : Nat) : Fl :=
  ((toFl .e2m1 code).mul (scaleFl block)).mul (toFl .bf16 band)

/-! ### Summation (R282, R283) -/

/-- One term of a sum: the exact product is added with one rounding to `f32`, flushed under FTZ. -/
def sumStep (mode : Rnd) (ftz : Bool) (acc : Nat) (p : Fl) : Nat :=
  resultFl ftz .f32 mode ((toFl .f32 acc).add mode p)

/-- The sequential sum of products in ascending order (R282); the initial accumulator is flushed under FTZ as a source. -/
def sumProducts (mode : Rnd) (ftz : Bool) (init : Nat) (ps : List Fl) : Nat :=
  ps.foldl (sumStep mode ftz) (flush ftz .f32 init)

end Sys2Proof.Machine
end

