-- ==== Sys2Proof/Machine/Special.lean ====
section
/-!
DEFINITION. Elementary functions in fixed point, precise enough to tell whether a value lies within the bounds of R323 and
R110, and the special function `fsf` (R323): the device's own value is taken where it lies within the bound (entry 6).
-/

namespace Sys2Proof.Machine

open Sys2Proof

/-! ### Fixed point -/

/-- Fraction bits of the fixed-point numbers. -/
def fxBits : Nat := 256

/-- One. -/
def fxOne : Int := (2 ^ fxBits : Nat)

/-- The product, rounded toward negative infinity. -/
def fxMul (a b : Int) : Int := a * b / fxOne

/-- pi and ln 2 with 256 fraction bits, rounded down. -/
def fxPi : Int := 0x3243F6A8885A308D313198A2E03707344A4093822299F31D0082EFA98EC4E6C89
def fxLn2 : Int := 0xB17217F7D1CF79ABC9E3B39803F2F6AF40F343267298B62D8A0D175B8BAAFA2B

/-- e^x for |x| at most about 1: the Taylor series by Horner's rule. -/
def fxExpSmall (x : Int) : Int :=
  (List.range 60).foldr (fun (k : Nat) acc => fxOne + fxMul x acc / ((k : Int) + 1)) fxOne

/-- 2^f for f in [0, 1). -/
def fxExp2Frac (f : Int) : Int := fxExpSmall (fxMul f fxLn2)

/-- The integer part and the fraction of x as fixed point, for x = m * 2^e of a sign, cut to 256 fraction bits. -/
def fxOf (neg : Bool) (m : Nat) (e : Int) : Int :=
  let v : Int := if 0 ≤ e + fxBits then (m * 2 ^ (e + fxBits).toNat : Nat) else (m / 2 ^ (-(e + fxBits)).toNat : Nat)
  if neg then -v else v

/-- log2 of m / 2^k bits for a value in [1, 2): n binary digits by repeated squaring. -/
def fxLog2Digits : (n : Nat) → (y acc : Int) → Int
  | 0, _, acc => acc
  | n + 1, y, acc =>
    let z := fxMul y y
    if 2 * fxOne ≤ z then fxLog2Digits n (z / 2) (2 * acc + 1) else fxLog2Digits n z (2 * acc)

/-- log2 of a positive m * 2^e, with 100 digits. -/
def fxLog2 (m : Nat) (e : Int) : Int :=
  let l := Nat.log2 m
  let y : Int := if l ≤ fxBits then (m * 2 ^ (fxBits - l) : Nat) else (m / 2 ^ (l - fxBits) : Nat)
  ((l : Int) + e) * fxOne + fxLog2Digits 100 y 0 * (2 ^ (fxBits - 100) : Nat)

/-- 2^x as a positive rational, for fixed-point x. -/
def fxExp2 (x : Int) : Nat × Nat :=
  let i := x / fxOne
  scaleRat (fxExp2Frac (x - i * fxOne)).toNat (2 ^ fxBits) (-i)

/-- x reduced to [-pi, pi] by whole turns. -/
def fxReduce (x : Int) : Int :=
  let k := (x + fxPi) / (2 * fxPi)
  x - k * (2 * fxPi)

/-- sin and cos of x in [-pi, pi], by their series. -/
def fxSin (x : Int) : Int :=
  let y := fxMul x x
  fxMul x ((List.range 40).foldr (fun k acc => fxOne - fxMul y acc / (((2 * k + 2) * (2 * k + 3) : Nat) : Int)) fxOne)
def fxCos (x : Int) : Int :=
  let y := fxMul x x
  (List.range 40).foldr (fun k acc => fxOne - fxMul y acc / (((2 * k + 1) * (2 * k + 2) : Nat) : Int)) fxOne

/-- e^x as a fixed-point number for x at most about 0. -/
def fxExpNeg (x : Int) : Int :=
  let r := fxExp2 (x * fxOne / fxLn2)
  ((r.1 * 2 ^ fxBits / r.2 : Nat) : Int)

/-- tanh of |x| and the logistic function of x, as fixed point. -/
def fxTanh (x : Int) : Int :=
  let e := fxExpNeg (-2 * x)
  (fxOne - e) * fxOne / (fxOne + e)
def fxSigmoid (x : Int) : Int :=
  if 0 ≤ x then fxOne * fxOne / (fxOne + fxExpNeg (-x)) else fxExpNeg x * fxOne / (fxOne + fxExpNeg x)

/-! ### Bounds -/

/-- A finite value as fixed point; values below the fixed point's step are cut. -/
def Fl.fx (x : Fl) : Int :=
  match x with
  | .fin n m e => fxOf n m e
  | _ => 0

/-- Whether a candidate `f32` lies within 2^-22 of a fixed-point reference, with room for the reference's error. -/
def withinAbs (cand : Nat) (ref : Int) : Bool :=
  match toFl .f32 cand with
  | .fin n m e => (fxOf n m e - ref).natAbs + 2 ^ (fxBits - 60) ≤ 2 ^ (fxBits - 22)
  | _ => false

/-- Whether a candidate `f32` lies within `ulps` units of a positive rational reference of a sign. -/
def withinUlps (ulps : Nat) (cand : Nat) (neg : Bool) (num den : Nat) : Bool :=
  match toFl .f32 cand with
  | .fin n m e =>
    if num = 0 then false
    else
      let k := max (-149) (log2Rat num den - 23)
      let r := scaleRat num den (k - 64)
      -- both in units of 2^(k - 64)
      let ref : Int := (r.1 / r.2 : Nat)
      let c := scaleRat (dyadic m e).1 (dyadic m e).2 (k - 64)
      let v : Int := (c.1 / c.2 : Nat)
      ((if n then -v else v) - (if neg then -ref else ref)).natAbs + 2 ^ 8 ≤ ulps * 2 ^ 64
  | _ => false

/-- A fixed-point value rounded to `f32`. -/
def fxRound (x : Int) : Nat := signBit .f32 (decide (x < 0)) + roundMag .f32 .rne false (decide (x < 0)) x.natAbs (2 ^ fxBits)

/-- The device's candidate where it is within an absolute bound, otherwise the reference rounded (entry 6). -/
def pickAbs (fn : Nat) (a : Nat) (ref : Int) : Nat :=
  let c := (Config.fsfCandidate fn (BitVec.ofNat 32 a)).toNat
  if withinAbs c ref then c else fxRound ref

/-- The same for a bound in ulps on a positive rational reference of a sign. -/
def pickUlps (fn : Nat) (a : Nat) (neg : Bool) (num den : Nat) : Nat :=
  let c := (Config.fsfCandidate fn (BitVec.ofNat 32 a)).toNat
  if withinUlps 2 c neg num den then c else signBit .f32 neg + roundMag .f32 .rne false neg num den

/-! ### The six functions (R323) -/

/-- exp2 of a finite value: exact for an integral argument with a normal result, +infinity on overflow. -/
def fsfExp2 (a : Nat) (n : Bool) (m : Nat) (e : Int) : Nat :=
  if m = 0 then 0x3F800000
  else
    let d := dyadic m e
    -- beyond these the result overflows, or lies below every bound of the smallest subnormal
    if !n && 128 * d.2 ≤ d.1 then infPattern .f32
    else if n && 200 * d.2 ≤ d.1 then
      (let c := (Config.fsfCandidate 0 (BitVec.ofNat 32 a)).toNat; if c ≤ 1 then c else 0)
    else if d.1 % d.2 = 0 && (!n || d.1 / d.2 ≤ 126) then
      -- an integral argument
      let i : Int := (d.1 / d.2 : Nat)
      ((if n then -i else i) + 127).toNat * 2 ^ 23
    else
      let r := fxExp2 (fxOf n m e)
      pickUlps 0 a false r.1 r.2

/-- log2 of a finite value. -/
def fsfLog2 (a : Nat) (n : Bool) (m : Nat) (e : Int) : Nat :=
  if m = 0 then signBit .f32 true + infPattern .f32
  else if n then canonNaN .f32
  else if m = 2 ^ Nat.log2 m then roundFl .f32 .rne false (Fl.ofInt ((Nat.log2 m : Int) + e))
  else
    let r := fxLog2 m e
    let d := dyadic m e
    if d.2 ≤ 2 * d.1 && d.1 ≤ 2 * d.2 then pickAbs 1 a r
    else pickUlps 1 a (decide (r < 0)) r.natAbs (2 ^ fxBits)

/-- Whether a finite magnitude is above 65,536. -/
def above65536 (m : Nat) (e : Int) : Bool := let d := dyadic m e; 65536 * d.2 < d.1

/-- sin and cos of a finite value; beyond 65,536 the result only lies in [-1, 1]. -/
def fsfTrig (fn : Nat) (a : Nat) (n : Bool) (m : Nat) (e : Int) (ref : Int → Int) : Nat :=
  if above65536 m e then
    let c := (Config.fsfCandidate fn (BitVec.ofNat 32 a)).toNat
    if c % 2 ^ 31 ≤ 0x3F800000 then c else 0
  else pickAbs fn a (ref (fxReduce (fxOf n m e)))

/-- `fsf` on an `f32` pattern that has been flushed under FTZ: the `f32` value (R323). -/
def fsf32 (fn : FsfFn) (a : Nat) : Nat :=
  match fn, toFl .f32 a with
  | _, .nan => canonNaN .f32
  | .exp2, .inf n => if n then 0 else infPattern .f32
  | .exp2, .fin n m e => fsfExp2 a n m e
  | .log2, .inf n => if n then canonNaN .f32 else infPattern .f32
  | .log2, .fin n m e => fsfLog2 a n m e
  | .sin, .inf _ => canonNaN .f32
  | .sin, .fin n m e => if m = 0 then a else fsfTrig 2 a n m e fxSin
  | .cos, .inf _ => canonNaN .f32
  | .cos, .fin n m e => if m = 0 then 0x3F800000 else fsfTrig 3 a n m e fxCos
  | .tanh, .inf n => signBit .f32 n + 0x3F800000
  | .tanh, .fin n m e =>
    if m = 0 then a
    else
      let d := dyadic m e
      let r := if 64 * d.2 ≤ d.1 then fxOne else fxTanh (fxOf false m e)
      pickAbs 4 a (if n then -r else r)
  | .sigmoid, .inf n => if n then 0 else 0x3F800000
  | .sigmoid, .fin n m e =>
    let d := dyadic m e
    pickAbs 5 a (if 128 * d.2 ≤ d.1 then (if n then 0 else fxOne) else fxSigmoid (fxOf n m e))

/-- `fsf` on a sub-element (R323): widened exactly to `f32`, flushed, evaluated, rounded once with RNE, flushed. -/
def fsfOf (fn : FsfFn) (ftz : Bool) (e : ET) (n : Nat) : Nat :=
  let a := roundFl .f32 .rne false (toFl e n)
  let r := fsf32 fn (flush ftz .f32 a)
  flush ftz e (if e = .f32 then r else roundFl e .rne false (toFl .f32 r))

/-! ### Colour (R110) -/

/-- The sRGB decode of a byte, as a positive rational reference: c / 12.92, or ((c + 0.055) / 1.055)^2.4. -/
def srgbRef (b : Nat) : Nat × Nat :=
  -- c = b / 255; the threshold 0.04045
  if b * 100000 ≤ 4045 * 255 then (b * 100, 255 * 1292)
  else
    -- (1000 b + 55 * 255) / (1055 * 255)
    let num := 1000 * b + 14025
    let den := 1055 * 255
    let l := fxLog2 (num * 2 ^ 64 / den) (-64)
    fxExp2 (l * 12 / 5)

/-- The sRGB decode of a colour byte to `f32`: the device's value within 1 ulp, otherwise the reference (R110). -/
def srgbDecode (b : Byte) : Nat :=
  let r := srgbRef b.toNat
  let c := (Config.srgbCandidate b).toNat
  if b = 0 then 0
  else if withinUlps 1 c false r.1 r.2 then c
  else roundMag .f32 .rne false false r.1 r.2

end Sys2Proof.Machine
end

