-- ==== Sys2Proof/Machine/FloatOps.lean ====
section
/-!
DEFINITION. Float arithmetic, conversion, packing and moves (R318-R332), opcodes 0x18-0x2F.
-/

namespace Sys2Proof.Machine

open Sys2Proof

/-! ### Float arithmetic (R318-R322) -/

/-- The mode, FTZ and saturation that an instruction of the issuing split uses (R276, R278, R279). -/
def Group.mode (g : Group) (x : Ord) : Rnd := modeOf x.moda g.sp.fmt
def Group.ftz (g : Group) : Bool := fmtFtz g.sp.fmt
def Group.satN (g : Group) : Bool := fmtSat g.sp.fmt

/-- `.sat` on a rounded float: clamped to [+0.0, 1.0], a NaN and -0.0 become +0.0 (R306). -/
def satUnit (e : ET) (p : Nat) : Nat :=
  let one := roundFl e .rne false Fl.one
  match toFl e p with
  | .nan => 0
  | v => if v.neg || v.isZero then 0 else if Fl.one.lt v then one else p

/-- The stored result of a basic operation: rounded once, flushed, and clamped with `.sat`. -/
def store (x : Ord) (g : Group) (v : Fl) : Nat :=
  let p := resultFl g.ftz x.et (g.mode x) v
  if isSat x then satUnit x.et p else p

/-- A float operation on the sources' values. -/
def fmap2 (x : Ord) (f : Group → Fl → Fl → Nat) (g : Group) (t : Nat) : Calc :=
  map2 x (fun a b => f g (srcFl g.ftz x.et a) (srcFl g.ftz x.et b)) g t

def execFadd (x : Ord) (s : State) : Out :=
  .next (s.calc x (srcAB x) (fmap2 x fun g a b => store x g (a.add (g.mode x) b)))

def execFsub (x : Ord) (s : State) : Out :=
  .next (s.calc x (srcAB x) (fmap2 x fun g a b => store x g (a.add (g.mode x) b.negate)))

def execFmul (x : Ord) (s : State) : Out :=
  .next (s.calc x (srcAB x) (fmap2 x fun g a b => store x g (a.mul b)))

def execFfma (x : Ord) (s : State) : Out :=
  .next (s.calc x (srcABC x) fun g t => map3 x (fun a b c =>
    store x g (((srcFl g.ftz x.et a).mul (srcFl g.ftz x.et b)).add (g.mode x) (srcFl g.ftz x.et c))) g t)

/-- The lesser or the greater of two patterns, with -0 below +0; one NaN gives the other source (R319). -/
def minMaxF (e : ET) (greater : Bool) (a b : Nat) : Nat :=
  let x := toFl e a
  let y := toFl e b
  if x.isNaN && y.isNaN then canonNaN e
  else if x.isNaN then b
  else if y.isNaN then a
  else if greater then (if x.before y then b else a)
  else (if y.before x then b else a)

def execFmin (x : Ord) (s : State) : Out :=
  .next (s.calc x (srcAB x) fun g t => map2 x (fun a b => minMaxF x.et false (flush g.ftz x.et a) (flush g.ftz x.et b)) g t)

def execFmax (x : Ord) (s : State) : Out :=
  .next (s.calc x (srcAB x) fun g t => map2 x (fun a b => minMaxF x.et true (flush g.ftz x.et a) (flush g.ftz x.et b)) g t)

/-- The relation of a float compare (R320). -/
def relF (r : FRel) (a b : Fl) : Bool :=
  let un := a.isNaN || b.isNaN
  match r with
  | .eq => a.eq b
  | .ne => !a.eq b
  | .lt => a.lt b
  | .le => a.lt b || a.eq b
  | .gt => b.lt a
  | .ge => b.lt a || a.eq b
  | .un => un
  | .ord => !un

def execFcmp (fn : FRel) (x : Ord) (s : State) : Out :=
  .next (s.setPred x (srcAB x) fun g t =>
    relF fn (srcFl g.ftz x.et (sub (g.opd x.a t) x.et.width 0)) (srcFl g.ftz x.et (sub (g.bopd .byET x.et x.b t) x.et.width 0)))

/-- The sign bit alone is changed (R321). -/
def signOp (fn : SgnFn) (e : ET) (a b : Nat) : Nat :=
  let top := 2 ^ (e.width - 1)
  let low := a % top
  match fn with
  | .abs => low
  | .neg => low + (1 - a / top % 2) * top
  | .copysign => low + b / top % 2 * top

def execFsgn (fn : SgnFn) (x : Ord) (s : State) : Out :=
  .next (s.calc x (match fn with | .copysign => srcAB x | _ => srcA x) (map2 x (signOp fn x.et)))

def execFrcp (x : Ord) (s : State) : Out :=
  .next (s.calc x (srcA x) fun g t => map1 x (fun a => divFl g.ftz x.et (g.mode x) Fl.one (srcFl g.ftz x.et a)) g t)

def execFrsq (x : Ord) (s : State) : Out :=
  .next (s.calc x (srcA x) fun g t => map1 x (fun a => rsqrtFl g.ftz x.et (g.mode x) (srcFl g.ftz x.et a)) g t)

def execFsqrt (x : Ord) (s : State) : Out :=
  .next (s.calc x (srcA x) fun g t => map1 x (fun a => sqrtFl g.ftz x.et (g.mode x) (srcFl g.ftz x.et a)) g t)

def execFdiv (x : Ord) (s : State) : Out :=
  .next (s.calc x (srcAB x) (fmap2 x fun g a b => divFl g.ftz x.et (g.mode x) a b))

/-! ### Special functions, classes and rounding (R323-R326) -/

def execFsf (fn : FsfFn) (x : Ord) (s : State) : Out :=
  .next (s.calc x (srcA x) fun g t => map1 x (fun a => fsfOf fn g.ftz x.et a) g t)

/-- The class mask of a pattern (R324). -/
def classOf (e : ET) (n : Nat) : Nat :=
  let neg := n.testBit (e.width - 1)
  let ex := n / 2 ^ e.info.mbits % 2 ^ e.info.ebits
  match toFl e n with
  | .nan => 2 ^ 8
  | .inf neg => if neg then 2 ^ 0 else 2 ^ 7
  | .fin _ m _ =>
    if m = 0 then (if neg then 2 ^ 3 else 2 ^ 4)
    else if ex = 0 then (if neg then 2 ^ 2 else 2 ^ 5)
    else (if neg then 2 ^ 1 else 2 ^ 6)

def execFclass (x : Ord) (s : State) : Out := .next (s.calc x (srcA x) (map1 x (classOf x.et)))

/-- A value rounded to an integral one of its type, keeping its sign (R325). -/
def integral (mode : Rnd) (e : ET) (v : Fl) : Nat :=
  match v with
  | .nan => canonNaN e
  | .inf n => signBit e n + infPattern e
  | .fin n m k =>
    let d := dyadic m k
    signBit e n + roundMag e .rtz false n (roundRat mode n d.1 d.2) 1

def execFrnd (fn : Rnd) (x : Ord) (s : State) : Out :=
  .next (s.calc x (srcA x) fun g t => map1 x (fun a => integral fn x.et (srcFl g.ftz x.et a)) g t)

/-- The dot product of the sub-elements, summed in ascending order into an `f32` (R326). -/
def dotOf (mode : Rnd) (ftz : Bool) (e : ET) (a b c : Word) : Word :=
  BitVec.ofNat 64 (sumProducts mode ftz (c.toNat % 2 ^ 32) ((List.range e.count).map fun i =>
    (srcFl ftz e (sub a e.width i)).mul (srcFl ftz e (sub b e.width i))))

def execFdot (x : Ord) (s : State) : Out :=
  .next (s.calc x (srcABC x) fun g t =>
    .of (dotOf (g.mode x) g.ftz x.et (g.opd x.a t) (g.bopd .byET x.et x.b t) (g.opd x.c t)))

/-! ### Conversion (R327) -/

/-- One element converted from type `src` to type `dst` (R279-R281, R327). -/
def convert (mode : Rnd) (ftz sat : Bool) (src dst : ET) (n : Nat) : Nat :=
  if src.isInt then
    let i := intVal src n
    if dst.isInt then unsigned dst.width (if sat then clampInt dst i else i)
    else flush (ftz && dst.flushes) dst (roundFl dst mode sat (Fl.ofInt i))
  else
    let v := srcFl ftz src n
    if dst.isInt then unsigned dst.width (convFI mode (intMin dst) (intMax dst) v)
    else flush (ftz && dst.flushes) dst (convFF mode sat src dst v)

/-- The conversion of a register: n = 64 / max(ws, wd) elements, zero above them (R327). -/
def convertAll (mode : Rnd) (ftz sat : Bool) (src dst : ET) (a : Word) : Word :=
  packSubs dst.width ((List.range (64 / max src.width dst.width)).map fun i => convert mode ftz sat src dst (sub a src.width i))

def execCvt (x : Ord) (s : State) : Out :=
  .next (s.calc x (srcA x) fun g t =>
    .of (convertAll (g.mode x) g.ftz g.satN ((ET.ofCode (x.imm.toNat % 16)).getD .z8) x.et (g.opd x.a t)))

/-! ### Packing and moves (R328-R332) -/

/-- The low or the high half of a register. -/
def halfOf (fn : LoHi) (a : Word) : Nat := match fn with | .lo => a.toNat % 2 ^ 32 | .hi => a.toNat / 2 ^ 32

def execPack (fn : LoHi) (x : Ord) (s : State) : Out :=
  .next (s.calc x (srcAB x) (whole2 x .byET fun a b => BitVec.ofNat 64 (halfOf fn a + halfOf fn b * 2 ^ 32)))

/-- One narrow element converted exactly to the wide type (R328). -/
def widen (e : ET) (n : Nat) : Nat :=
  match e with
  | .f64 => roundFl .f64 .rne false (toFl .f32 n)
  | .f32 => roundFl .f32 .rne false (toFl .f16 n)
  | .f16 => roundFl .f16 .rne false (toFl .e5m2 n)
  | .bf16 => roundFl .bf16 .rne false (toFl .e4m3 n)
  | _ => if e.isSigned then unsigned e.width (signed (e.width / 2) n) else n

def execUnpack (fn : LoHi) (x : Ord) (s : State) : Out :=
  .next (s.calc x (srcA x) fun g t =>
    let h := BitVec.ofNat 64 (halfOf fn (g.opd x.a t))
    .of (mapSubs x.et.width fun j => widen x.et (sub h (x.et.width / 2) j)))

/-- Byte j of the result is byte `sel[2:0]` of A, or zero where bit 7 of the selector is 1 (R329). -/
def permute (a b : Word) : Word :=
  mapSubs 8 fun j => let sel := sub b 8 j; if sel.testBit 7 then 0 else sub a 8 (sel % 8)

def execPerm (x : Ord) (s : State) : Out := .next (s.calc x (srcAB x) (whole2 x .zero permute))

def execIns (x : Ord) (s : State) : Out :=
  .next (s.calc x (srcAB x) (whole2 x .byET fun a b => setsub a x.et.width (x.imm.toNat % 16) (sub b x.et.width 0)))

def execExt (x : Ord) (s : State) : Out :=
  .next (s.calc x (srcA x) fun g t =>
    let n := sub (g.opd x.a t) x.et.width (x.imm.toNat % 16)
    .of (BitVec.ofNat 64 (if x.et.isSigned then unsigned 64 (signed x.et.width n) else n)))

/-- Four `e2m1` elements of a quarter times the scale, as `bf16` (R331). -/
def scaleDecode (a b : Word) : Word :=
  let sc := scaleFl (b.toNat % 256)
  let q := b.toNat / 256 % 4
  packSubs 16 ((List.range 4).map fun j => roundFl .bf16 .rne false ((toFl .e2m1 (sub a 4 (4 * q + j))).mul sc))

/-- The code of x / s, for a finite nonzero scale (R331, R279). -/
def encodeOne (mode : Rnd) (x : Fl) (s : Fl) : Nat :=
  match x, s with
  | .fin n m e, .fin _ p f =>
    let r := scaleRat m p (f - e)
    signBit .e2m1 n + roundMag .e2m1 mode true n r.1 r.2
  | .inf n, _ => signBit .e2m1 n + 0x7
  | _, _ => 0

/-- Four `bf16` values divided by the scale, as `e2m1` codes; a scale of 0x00 or 0xFF gives codes of zero (R331). -/
def scaleEncode (mode : Rnd) (ftz : Bool) (a b : Word) : Word :=
  let sc := b.toNat % 256
  if sc = 0 || sc = 0xFF then 0
  else packSubs 4 ((List.range 4).map fun j => encodeOne mode (srcFl ftz .bf16 (sub a 16 j)) (scaleFl sc))

def execBscale (fn : CodeFn) (x : Ord) (s : State) : Out :=
  .next (s.calc x (srcAB x) fun g t =>
    match fn with
    | .decode => .of (scaleDecode (g.opd x.a t) (g.bopd .byET x.et x.b t))
    | .encode => .of (scaleEncode (g.mode x) g.ftz (g.opd x.a t) (g.bopd .byET x.et x.b t)))

/-- The register that `rdi` and `wri` name, as a vector register of the group; none where it is not held (R172, R332). -/
def Group.indirect (g : Group) (x : Ord) : Option Nat :=
  match x.a with
  | .g n =>
    let i := (g.gget n + x.imm.setWidth 64).toNat
    if h : i < 96 then (if g.names (.v ⟨i, h⟩) then some i else none) else none
  | .v _ => none

/-- Run an indirect move on the register it names, or raise 0x02 at the lowest executing thread (R172). -/
def State.atIndirect (s : State) (x : Ord) (run : Nat → State → State) : State :=
  match s.cur.indirect x with
  | some i => run i s
  | none => if s.cur.exec x.pred = 0 then s.retire 1 (lenOf x) 0 else s.refuse x.pred 0x02

def execMov (fn : MovFn) (x : Ord) (s : State) : Out :=
  match fn with
  | .mov => .next (s.calc x (srcA x) fun g t => .of (g.opd x.a t))
  | .movi => .next (s.calc x (breg x.b) fun g t => .of (g.bopd .byET x.et x.b t))
  | .rdi => .next (s.named x.pred [x.d, x.a] fun s => s.atIndirect x fun i s =>
      match x.d with
      | .v n => s.perThread x.pred (lenOf x) fun s m => { s with cur := s.cur.vset n m (fun t => s.cur.vget i t) }
      | .g n =>
        let e := s.cur.exec x.pred
        if (threads e).all (fun t => s.cur.vget i t == s.cur.vget i (lowest e)) then
          s.uniform x.pred (max 1 (count e)) (lenOf x) fun s => { s with cur := s.cur.gset n (s.cur.vget i (lowest e)) }
        else s.refuse x.pred 0x03)
  | .wri => .next (s.named x.pred (x.a :: breg x.b) fun s => s.atIndirect x fun i s =>
      s.perThread x.pred (lenOf x) fun s m =>
        { s with cur := s.cur.vset i m (fun t => s.cur.bopd .byET x.et x.b t) })

end Sys2Proof.Machine
end

