-- ==== Sys2Proof/Machine/Cross.lean ====
section
/-!
DEFINITION. The cross-thread instructions (R333-R342), opcodes 0x30-0x37.
-/

namespace Sys2Proof.Machine

open Sys2Proof

/-! ### Participants (R333, R336) -/

/-- The participants of a cross-thread instruction: the executing threads of the whole instruction, those of OMASK after a
trap (R333, R336). -/
def Group.participants (g : Group) (x : Ord) : List Nat := threads (g.omask x.pred)

/-- The nearest participant below, and above, a thread. -/
def below (ps : List Nat) (t : Nat) : Option Nat := (ps.filter (fun p => p < t)).getLast?
def above (ps : List Nat) (t : Nat) : Option Nat := (ps.filter (fun p => t < p)).head?

/-- What D holds for a thread before the instruction. -/
def Group.destOf (g : Group) (x : Ord) (t : Nat) : Word :=
  match x.d with
  | .v n => g.vget n t
  | .g n => g.gget n

/-! ### Shifts through time (R337) -/

/-- The value that comes from a neighbour; D is unchanged where there is none, and with a `g` destination (R335). -/
def shiftFrom (x : Ord) (pick : List Nat → Nat → Option Nat) (g : Group) (t : Nat) : Calc :=
  match (if x.d.isG then none else pick (g.participants x) t) with
  | some p => .of (g.opd x.a p)
  | none => .of (g.destOf x t)

def execXprev (x : Ord) (s : State) : Out := .next (s.calc x (srcA x) (shiftFrom x below))
def execXnext (x : Ord) (s : State) : Out := .next (s.calc x (srcA x) (shiftFrom x above))

/-! ### Selection (R338) -/

/-- Sub-element s of A of the thread that B names, in every position; with a `g` destination A's common value (R335). -/
def selectFrom (x : Ord) (g : Group) (t : Nat) : Calc :=
  let u := if x.d.isG then t else (g.bopd .byET x.et x.b t).toNat % 32
  .of (replicateSub x.et.width (sub (g.opd x.a u) x.et.width (x.imm.toNat % 16)))

def execXsel (x : Ord) (s : State) : Out := .next (s.calc x (srcAB x) (selectFrom x))

def execXbcast (x : Ord) (s : State) : Out :=
  .next (s.named x.pred (x.d :: srcAB x) fun s => s.checked x.pred (breg x.b) fun s => s.calc x (srcAB x) (selectFrom x))

/-! ### Scans and reductions (R339, R340) -/

/-- Whether a type is a float type. -/
def isFloat (e : ET) : Bool := !e.isInt

/-- An element as it enters a scan: a float is flushed under FTZ and a NaN made canonical (R339). -/
def scanIn (ftz : Bool) (e : ET) (n : Nat) : Nat :=
  if isFloat e then (let y := flush (ftz && e.flushes) e n; if (toFl e y).isNaN then canonNaN e else y) else n

/-- OP of R339 on one position. -/
def scanOp (fn : ScanOp) (mode : Rnd) (ftz : Bool) (e : ET) (a b : Nat) : Nat :=
  match fn with
  | .add =>
    if isFloat e then resultFl ftz e mode ((srcFl ftz e a).add mode (srcFl ftz e b))
    else unsigned e.width (intVal e a + intVal e b)
  | .min => if isFloat e then minMaxF e false a b else if intVal e a ≤ intVal e b then a else b
  | .max => if isFloat e then minMaxF e true a b else if intVal e b ≤ intVal e a then a else b
  | .and => (BitVec.ofNat 64 a &&& BitVec.ofNat 64 b).toNat
  | .or => (BitVec.ofNat 64 a ||| BitVec.ofNat 64 b).toNat
  | .xor => (BitVec.ofNat 64 a ^^^ BitVec.ofNat 64 b).toNat

/-- The identity of R339, the value of an exclusive scan at its first participant. -/
def scanId (fn : ScanOp) (e : ET) : Nat :=
  match fn with
  | .add => 0
  | .min => if isFloat e then infPattern e else unsigned e.width (intMax e)
  | .max => if isFloat e then signBit e true + infPattern e else unsigned e.width (intMin e)
  | .and => 2 ^ e.width - 1
  | .or => 0
  | .xor => 0

/-- The running values of all positions after one more participant (R339). -/
def scanStep (fn : ScanOp) (mode : Rnd) (ftz : Bool) (e : ET) (acc : Option Word) (a : Word) : Word :=
  match acc with
  | none => mapSubs e.width fun i => scanIn ftz e (sub a e.width i)
  | some w => mapSubs e.width fun i => scanOp fn mode ftz e (sub w e.width i) (scanIn ftz e (sub a e.width i))

/-- The running value over a list of participants. -/
def scanOver (fn : ScanOp) (mode : Rnd) (ftz : Bool) (e : ET) (init : Option Word) (l : List Word) : Option Word :=
  l.foldl (fun acc a => some (scanStep fn mode ftz e acc a)) init

/-- Where a re-issue takes up: RTID after a 0x09, thread 0 otherwise (R336). -/
def Group.resumeAt (g : Group) : Nat := if g.sp.st = 1 then g.sp.rtid.toNat else 0

/-- The running value that a scan starts from: nothing, or after a 0x09 what the nearest participant below RTID left
(R339). -/
def Group.scanInit (g : Group) (fn : ScanOp) (x : Ord) : Option Word :=
  if g.sp.st = 1 then
    match below (g.participants x) g.resumeAt with
    | none => none
    | some p =>
      if x.imm.getLsbD 7 then
        some (scanStep fn (fmtMode g.sp.fmt) g.ftz x.et (some (g.destOf x p)) (g.opd x.a p))
      else some (g.destOf x p)
  else none

/-- The scan's value for a thread: the participants from the start up to the thread, without it in the exclusive form. -/
def scanAt (fn : ScanOp) (x : Ord) (g : Group) (t : Nat) : Calc :=
  let upTo := fun (p : Nat) => if x.imm.getLsbD 7 then p < t else p ≤ t
  let ps := if x.d.isG then (if x.imm.getLsbD 7 then [] else [t])
    else (g.participants x).filter (fun p => g.resumeAt ≤ p && upTo p)
  match scanOver fn (fmtMode g.sp.fmt) g.ftz x.et (g.scanInit fn x) (ps.map (g.opd x.a)) with
  | some w => .of w
  | none => .of (replicateSub x.et.width (scanId fn x.et))

def execXscan (fn : ScanOp) (x : Ord) (s : State) : Out := .next (s.calc x (srcA x) (scanAt fn x))

/-- The reduction over the threads of a mask that issue, onto what G[D] holds where a lower participant has issued before
(R340). -/
def reduceOver (fn : ScanOp) (x : Ord) (g : Group) (m : Mask) : Option Word :=
  let init := if g.sp.st = 1 && (below (g.participants x) g.resumeAt).isSome then some (g.destOf x 0) else none
  scanOver fn (fmtMode g.sp.fmt) g.ftz x.et init ((threads m).map (g.opd x.a))

/-- Write a `g` destination. -/
def Group.setDest (g : Group) (x : Ord) (w : Word) : Group :=
  match x.d with
  | .g n => g.gset n w
  | .v _ => g

def execXred (fn : ScanOp) (x : Ord) (s : State) : Out :=
  .next (s.named x.pred [x.d, x.a] fun s => s.perThread x.pred (lenOf x) fun s m =>
    match reduceOver fn x s.cur m with
    | some w => { s with cur := s.cur.setDest x w }
    | none => s)

/-! ### Votes and matches (R341, R342) -/

/-- Whether a participant's A is set. -/
def Group.isSet (g : Group) (x : Ord) (t : Nat) : Bool := g.opd x.a t != 0

/-- The vote's effect, in the instruction's last cycle. -/
def voteEffect (fn : VoteFn) (x : Ord) (g : Group) : Group :=
  let ps := g.participants x
  match fn with
  | .any => g.kset (x.d.code % 8) (maskOf ps) (fun _ => ps.any (g.isSet x))
  | .all => g.kset (x.d.code % 8) (maskOf ps) (fun _ => ps.all (g.isSet x))
  | .ballot => g.setDest x ((maskOf (ps.filter (g.isSet x))).setWidth 64)

def execXvote (fn : VoteFn) (x : Ord) (s : State) : Out :=
  .next (s.named x.pred (match fn with | .ballot => [x.d, x.a] | _ => [x.a]) fun s =>
    let e := s.cur.exec x.pred
    s.perThread x.pred (lenOf x) fun s m => if m = e && e != 0 then { s with cur := voteEffect fn x s.cur } else s)

/-- The participants whose sub-element 0 equals the thread's (R342); with a `g` destination all of them (R335). -/
def matchMask (x : Ord) (g : Group) (t : Nat) : Calc :=
  let w := x.et.width
  let ps := g.participants x
  .of ((maskOf (ps.filter fun p => x.d.isG || sub (g.opd x.a p) w 0 == sub (g.opd x.a t) w 0)).setWidth 64)

def execXmatch (x : Ord) (s : State) : Out := .next (s.calc x (srcA x) (matchMask x))

end Sys2Proof.Machine
end

