-- ==== Sys2Proof/Machine/LoadStore.lean ====
section
/-!
DEFINITION. Loads, stores, local store, full/empty atoms and mapped ranges (R57-R60, R354-R363), opcodes 0x40-0x4B.
-/

namespace Sys2Proof.Machine

open Sys2Proof

/-! ### Addresses and values (R354) -/

/-- Bytes of an access of an element type. -/
def sizeOf (e : ET) : Nat := e.width / 8

/-- The address of a thread: A + B modulo 2^64 (R354). -/
def addrOf (x : Ord) (s : State) (t : Nat) : Word := s.cur.opd x.a t + s.cur.boff x.b t

/-- A loaded value, sign- or zero-extended to 64 bits (R354). -/
def extendBytes (size : Nat) (sgn : Bool) (bs : List Byte) : Word :=
  let n := leNat bs
  BitVec.ofInt 64 (if sgn then signed (8 * size) n else (n : Int))

/-- The uniform check where the destination is a group register (R354, R169). -/
def State.checkedIf (s : State) (u : Bool) (p : Pred) (l : List Opd) (run : State → State) : State :=
  if u then s.checked p l run else run s

/-- The shape of a load or store of this chapter; path 0 is CORE, and 7 is that of local store, which is on none (R229, R359). -/
def shapeOf (x : Ord) (uniform : Bool) (srcs : List Opd) (counter : Nat) (store : Bool) (path : Nat := 0) : Shape :=
  ⟨lenOf x, uniform, anyV srcs, counter, path, if store then 0x01 else 0x00, store, false⟩

/-- Perform the accesses of the threads in ascending order. -/
def performAll (one : State → Plan → Draft × State) : State → Draft → List Plan → Draft × State
  | s, d, [] => (d, s)
  | s, d, q :: l =>
    let r := one s q
    performAll one r.2 (d.join r.1) l

/-- The physical bytes of local memory that a list of stores writes. -/
def written (n : Nat) (l : List Plan) : List Nat :=
  ((l.filter fun q => q.map.isLocal).map fun q => (List.range n).map fun i => q.map.phys (q.va.toNat + i)).flatten

/-! ### Global loads and stores (R357, R358) -/

/-- One thread's load: what the core sees, or a read request to the home module (R28, R228). -/
def State.loadOne (x : Ord) (policy : Nat) (s0 : State) (id : Nat) (s : State) (q : Plan) : Draft × State :=
  let n := sizeOf x.et
  let i := s.cur.id
  let va := q.va.toNat
  if q.map.space < 4 || s.inCore i.die i.core q.map va n then
    let d := s0.readDelay q.map va n
    let v := extendBytes n x.et.isSigned (s.coreBytes i.die i.core q.map va n)
    (⟨[⟨q.thread, x.d.code, v⟩], [], d.1, .load, if d.2 then q.map.sectors va n else []⟩,
      s.touch i.die i.core q.map va n policy)
  else
    let r := s.request q.map va opReadRequest 0 [BitVec.ofNat 8 n]
      (.value x.d.code n x.et.isSigned (keepOf policy)) id q.thread
    (⟨[], [r.1], 0, .remote, []⟩, r.2)

def execLd (x : Ord) (s : State) : Out :=
  .next (s.named x.pred (x.d :: srcAB x) fun s => s.checkedIf x.d.isG x.pred (srcAB x) fun s =>
    s.memory x.pred (shapeOf x x.d.isG (srcAB x) 0 false) (addrOf x)
      (fun s t => s.checkGlobal (addrOf x s t) (sizeOf x.et) false true)
      (fun s id l => performAll (s.loadOne x x.modb.toNat id) s Draft.none l))

/-- One thread's store of bytes under a policy. -/
def State.storeOne (policy : Nat) (bytes : State → Nat → List Byte) (id : Nat) (s : State) (q : Plan) : Draft × State :=
  let i := s.cur.id
  let va := q.va.toNat
  let bs := bytes s q.thread
  if q.map.space < 4 then
    let out := policy = 2 && q.map.isLocal && !s.inHome q.map va bs.length
    (⟨[], [], s.storeDelay q.map va policy, .store, if out then q.map.sectors va bs.length else []⟩,
      s.storeBytes i.die i.core q.map va bs policy)
  else
    let r := s.remoteStore q.map va bs policy id q.thread
    (⟨[], [r.1], 0, .store, []⟩, r.2)

/-- The bytes that a store takes from C (R354). -/
def bytesOf (x : Ord) (s : State) (t : Nat) : List Byte := leBytes (sizeOf x.et) (s.cur.opd x.c t).toNat

def execSt (x : Ord) (s : State) : Out :=
  .next (s.named x.pred (srcABC x) fun s =>
    s.memory x.pred (shapeOf x false [] 1 true) (addrOf x)
      (fun s t => s.checkGlobal (addrOf x s t) (sizeOf x.et) true false)
      (fun s id l =>
        let r := performAll (State.storeOne x.modb.toNat (bytesOf x) id) s { Draft.none with kind := .store } l
        (r.1, r.2.clearPoison (written (sizeOf x.et) l))))

/-! ### Local store (R359) -/

/-- The map of an access that is not translated. -/
def Map.local_ : Map := ⟨0, none, 0, 0, 0, 0, false, true⟩

/-- The check of one thread of a local-store access: alignment, bounds, and a fill that failed (R219, R220, R222). -/
def State.checkLocal (s : State) (va : Word) (size : Nat) (whole : List Nat) : Except (BitVec 8 × Word) Map × State :=
  match s.team? s.cur with
  | none => (.error (0x05, va), s)
  | some t =>
    if va.toNat % size != 0 then (.error (0x04, va), s)
    else if !t.allows s.cur va.toNat size then (.error (0x05, va), s)
    else
      match s.cur.fillFaults.find? (fun f => f.atom == atomStart va.toNat && !whole.contains (blockOf va.toNat)) with
      | some f =>
        let a := match t.bindAt va.toNat with | some m => BitVec.ofNat 64 (m.globalOf va.toNat) | none => f.addr
        (.error (f.cause, a), s)
      | none => (.ok Map.local_, s)

/-- The first block that an access of the listed threads waits for (R222). -/
def State.fillNeeded (s : State) (va : State → Nat → Word) (size : Nat) (whole : List Nat) (ts : List Nat) : Option Nat :=
  match s.team? s.cur with
  | none => none
  | some t =>
    (ts.map fun i => (va s i).toNat).findSome? fun a =>
      if a % size == 0 && t.allows s.cur a size && t.unfilled a && !whole.contains (blockOf a)
        && !s.cur.fillFaults.any (fun f => f.atom == atomStart a) then some (blockOf a) else none

/-- The blocks of mapped ranges that the stores of the listed threads cover whole (R222). -/
def State.wholeBlocks (s : State) (va : State → Nat → Word) (size : Nat) (ts : List Nat) : List Nat :=
  let bytes := (ts.map fun t => (List.range size).map fun i => (va s t).toNat + i).flatten
  ((ts.map fun t => blockOf (va s t).toNat).eraseDups).filter fun b =>
    (List.range 256).all fun i => bytes.contains (b + i)

/-- Fill faults are reported once. -/
def State.dropFillFaults (s : State) : State := { s with cur := { s.cur with fillFaults := [] } }

/-- The frame of an access to local store: it waits for the fills it needs (R222, R359). -/
def State.localAccess (s : State) (p : Pred) (sh : Shape) (va : State → Nat → Word) (size : Nat) (whole : List Nat)
    (perform : State → List Plan → Draft × State) : State :=
  match s.fillNeeded va size whole (sh.accessing (s.cur.exec p)) with
  | some b => s.stall (.fill b)
  | none =>
    s.memory p sh va (fun s t => s.checkLocal (va s t) size whole) (fun s _ l => perform s.dropFillFaults l)

/-- A byte of the current group's local store. -/
def State.lsBytes (s : State) (off n : Nat) : List Byte :=
  match s.team? s.cur with
  | some t => t.ls.bytes off n
  | none => []

/-- The read-only bits of byte i of a trap frame's header (R194). -/
def frameFixed (i : Nat) : Byte :=
  (List.range 8).foldl (fun (m : Byte) k =>
    let b := 8 * i + k
    if b < 89 || b = 90 || (112 ≤ b && b < 146) || (224 ≤ b && b < 256) || 448 ≤ b then m ||| BitVec.ofNat 8 (2 ^ k) else m) 0

/-- A byte that a handler stores: the read-only bits of its trap frame stay as they are (R194). -/
def Group.frameByte (g : Group) (ls : Mem) (b : Nat) (x : Byte) : Byte :=
  if g.hand.isSome && g.tframe ≤ b && b < g.tframe + 64 then
    let ro := frameFixed (b - g.tframe)
    (ls.byte b &&& ro) ||| (x &&& ~~~ro)
  else x

/-- Store bytes into the current group's local store. -/
def State.lsStore (s : State) (off : Nat) (bs : List Byte) : State :=
  s.updTeam s.cur fun t => t.store off (bs.zipIdx.map fun e => s.cur.frameByte t.ls (off + e.2) e.1)

def execLdls (x : Ord) (s : State) : Out :=
  .next (s.named x.pred (x.d :: srcAB x) fun s => s.checkedIf x.d.isG x.pred (srcAB x) fun s =>
    s.localAccess x.pred (shapeOf x x.d.isG (srcAB x) 0 false 7) (addrOf x) (sizeOf x.et) [] fun s l =>
      (⟨l.map fun q => ⟨q.thread, x.d.code,
        extendBytes (sizeOf x.et) x.et.isSigned (s.lsBytes q.va.toNat (sizeOf x.et))⟩, [], 20, .load, []⟩, s))

def execStls (x : Ord) (s : State) : Out :=
  .next (s.named x.pred (srcABC x) fun s =>
    let whole := s.wholeBlocks (addrOf x) (sizeOf x.et) (threads (s.cur.exec x.pred))
    s.localAccess x.pred (shapeOf x false [] 1 true 7) (addrOf x) (sizeOf x.et) whole fun s l =>
      let s := l.foldl (fun s q => s.lsStore q.va.toNat (bytesOf x s q.thread)) s
      let s := s.updTeam s.cur fun t => (s.wholeBlocks (addrOf x) (sizeOf x.et) (l.map (·.thread))).foldl Team.markBlock t
      ({ Draft.none with kind := .store }, s))

/-- The atoms of a range of the current team's allocation that are not filled, outside the blocks that the access covers whole
(R222). -/
def State.holes (s : State) (off n : Nat) (whole : List Nat) : List Nat :=
  match s.team? s.cur with
  | none => []
  | some t =>
    ((List.range ((off + n + 31) / 32 - off / 32)).map fun i => (off / 32 + i) * 32).filter fun a =>
      t.unfilled a && !whole.contains (blockOf a)

/-- An access of the current group to a range of its team's allocation, which waits for the fill of every block of a mapped range
that it does not cover whole; a fill that failed goes to `fault` with its cause and global address (R222). -/
def State.filledFor (s : State) (off n : Nat) (whole : List Nat) (fault : State → BitVec 8 → Nat → State)
    (run : State → State) : State :=
  match s.holes off n whole with
  | [] => run s
  | a :: l =>
    match s.cur.fillFaults.find? fun f => (a :: l).contains f.atom with
    | some f => fault s.dropFillFaults f.cause f.addr.toNat
    | none => s.stall (.fill (blockOf a))

/-! ### Full/empty atoms (R57-R60, R361) -/

/-- The stack in whose result window every byte of an access lies (R57, R361). -/
def State.windowOf (s : State) (m : Map) (va n : Nat) : Option Nat :=
  let k := stackOf (m.phys va)
  let w := s.stack k
  if m.isLocal && (List.range n).all (fun i =>
      let p := m.phys (va + i)
      p < 12 * 2 ^ 36 && stackOf p == k && w.winBase ≤ p && p < w.winBase + w.winSize) then some k else none

/-- Whether the atom of a physical address is full (R57). -/
def State.isFull (s : State) (p : Nat) : Bool := (s.stack (stackOf p)).full.contains (atomOf p)

/-- Set an atom empty (R58). -/
def State.setEmpty (s : State) (p : Nat) : State :=
  let k := s.stack (stackOf p)
  s.setStack (stackOf p) { k with full := k.full.filter (fun a => a != atomOf p) }

/-- The logic-die cycle in which a core cycle begins (R4). -/
def logicAt (cycle : Nat) : Nat := cycle * 16 / 27

/-- Whether a core cycle is the last one of a logic-die cycle: what arrives in one logic-die cycle is
seen together there. -/
def logicEnds (cycle : Nat) : Bool := logicAt cycle < logicAt (cycle + 1)

/-- Requests of an operation are released: each reads its bytes, or meets poison. -/
def Op.release (s : State) (hit : FeWait → Bool) (o : Op) : Op :=
  match o.kind with
  | .ldfe ws =>
    let mine := ws.filter hit
    let bad := fun (w : FeWait) => s.poisoned w.map w.va.toNat w.size
    { o with
      kind := .ldfe (ws.filter fun w => !hit w)
      writes := o.writes ++ (mine.filter fun w => !bad w).map fun w =>
        ⟨w.thread, w.reg, extendBytes w.size w.sgn (s.mapBytes w.map w.va.toNat w.size)⟩
      faults := o.faults ++ (mine.filter bad).map fun w => ⟨w.thread, 0x0D, w.va⟩
      due := if mine.isEmpty then o.due else max o.due s.clock.cycle }
  | _ => o

/-- Set an atom full and release every `ldfe` request that waits on it (R58). -/
def State.setFull (s : State) (p : Nat) : State :=
  let k := s.stack (stackOf p)
  let s := if k.full.contains (atomOf p) then s else s.setStack (stackOf p) { k with full := atomOf p :: k.full }
  { s with eng := { s.eng with ops := s.eng.ops.map (fun (e : Nat × Op) =>
    (e.1, e.2.release s fun w => w.seen && atomOf w.addr == atomOf p)) } }

/-! ### The order of arrival (R60) -/

/-- A change of full/empty bits sets out. -/
def State.queueFe (s : State) (r : FeReq) : State :=
  let f := s.fresh
  { f.2 with eng := { f.2.eng with fe := f.2.eng.fe ++ [{ r with order := f.1 }] } }

/-- What arrives at the controllers: a change, or the check of a thread's `ldfe`. -/
inductive FeArrival where
  | change (r : FeReq)
  | check (op : Nat) (thread : Nat) (addr : Nat) (g : Gid)
  deriving DecidableEq, Repr

/-- The key of an arrival in its logic-die cycle: die, core, lane, then the order of issue. -/
def FeArrival.key : FeArrival → Nat × Nat
  | .change r => ((r.die * 65 + r.core) * 64 + r.lane, r.order)
  | .check op _ _ g => ((g.die * 65 + g.core) * 64 + g.lane, op)

def FeArrival.before (a b : FeArrival) : Bool := a.key.1 < b.key.1 || (a.key.1 == b.key.1 && a.key.2 ≤ b.key.2)

/-- An arrival in its place. -/
def insertArrival (a : FeArrival) : List FeArrival → List FeArrival
  | [] => [a]
  | b :: l => if b.before a then b :: insertArrival a l else a :: b :: l

/-- What has arrived in the logic-die cycle that ends, in its order. -/
def State.arrivals (s : State) : List FeArrival :=
  let checks := (s.eng.ops.map fun (e : Nat × Op) =>
    match e.2.kind with
    | .ldfe ws => (ws.filter fun w => !w.seen).map fun w => FeArrival.check e.1 w.thread w.addr e.2.g
    | _ => []).flatten
  (s.eng.fe.map FeArrival.change ++ checks).foldl (fun l a => insertArrival a l) []

/-- Whether two changes write the same atom: their bytes then stand in the order of arrival, not of issue. -/
def FeReq.clashes (r q : FeReq) : Bool := !r.bytes.isEmpty && !q.bytes.isEmpty && r.order != q.order && r.atoms.any q.atoms.contains

/-- Whether an address lies in its stack's result window. -/
def State.inWindow (s : State) (p : Nat) : Bool :=
  let w := s.stack (stackOf p)
  p < 12 * 2 ^ 36 && w.winBase ≤ p && p < w.winBase + w.winSize

/-- The controller applies a change. -/
def State.applyChange (s : State) (l : List FeReq) (r : FeReq) : State :=
  let s := if l.any r.clashes then s.mapWrite r.map r.va r.bytes else s
  ((r.atoms.map fun a => 32 * a).filter s.inWindow).foldl (fun s p => if r.fills then s.setFull p else s.setEmpty p) s

/-- The controller checks the atom of a thread's `ldfe`: it answers, or the request waits. -/
def State.applyCheck (s : State) (op thread addr : Nat) : State :=
  let mine := fun (w : FeWait) => w.thread == thread && !w.seen
  let answer := fun (o : Op) =>
    if s.isFull addr then o.release s mine
    else
      match o.kind with
      | .ldfe ws => { o with kind := .ldfe (ws.map fun w => if mine w then { w with seen := true } else w) }
      | _ => o
  { s with eng := { s.eng with ops := Tab.update op answer s.eng.ops } }

/-- Whether an operation has a check that has not been applied. -/
def Op.unseen (o : Op) : Bool := match o.kind with | .ldfe ws => ws.any fun w => !w.seen | _ => false

/-- At the end of a logic-die cycle the controllers apply what has arrived in it (R60). -/
def State.applyFe (s : State) : State :=
  let l := s.eng.fe
  let s := s.arrivals.foldl (fun s a =>
    match a with
    | .change r => s.applyChange l r
    | .check op t p _ => s.applyCheck op t p) s
  { s with eng := { s.eng with fe := [] } }

/-! ### The instructions (R361) -/

/-- The check of one thread of a full/empty access: as a global access, within a window (R192, R361). -/
def State.checkWindow (s : State) (va : Word) (size : Nat) (write : Bool) : Except (BitVec 8 × Word) Map × State :=
  s.checkPlace va size write false fun m => (s.windowOf m va.toNat size).isSome

/-- One thread's `ldfe`: its request goes to the controller, where it arrives at the end of the nominal round trip (R59; the moment
is the model's choice, entry 48). -/
def State.ldfeOne (x : Ord) (s : State) (q : Plan) : Draft × State :=
  let n := sizeOf x.et
  let p := q.map.phys q.va.toNat
  let delay := if homeDie p == s.cur.id.die then 480 else 600
  let w : FeWait := { thread := q.thread, addr := p, va := q.va, map := q.map, arrived := s.clock.cycle + delay, size := n
                      sgn := x.et.isSigned, reg := x.d.code, seen := false }
  (⟨[], [], delay, .ldfe [w], q.map.sectors q.va.toNat n⟩, s)

/-- Perform `ldfe` for the threads in ascending order. -/
def ldfeAll (x : Ord) (s : State) (l : List Plan) : Draft × State :=
  l.foldl (fun d q => let r := d.2.ldfeOne x q; (d.1.join r.1, r.2)) ({ Draft.none with kind := .ldfe [] }, s)

def execLdfe (x : Ord) (s : State) : Out :=
  .next (s.named x.pred (x.d :: srcAB x) fun s => s.checkedIf x.d.isG x.pred (srcAB x) fun s =>
    s.memory x.pred (shapeOf x x.d.isG (srcAB x) 0 false) (addrOf x)
      (fun s t => s.checkWindow (addrOf x s t) (sizeOf x.et) false)
      (fun s _ l => ldfeAll x s l))

/-- The sectors of the accesses of several threads. -/
def sectorsOf (n : Nat) (l : List Plan) : List Sector := (l.map fun q => q.map.sectors q.va.toNat n).flatten

/-- One thread's `stfe`: its bytes are written, and its atom is to be full (R361). -/
def State.stfeOne (x : Ord) (s : State) (q : Plan) : State :=
  let i := s.cur.id
  let p := q.map.phys q.va.toNat
  let s := s.storeBytes i.die i.core q.map q.va.toNat (bytesOf x s q.thread) 2
  let s := s.clearPoison (written (sizeOf x.et) [q])
  s.queueFe ⟨i.die, i.core, i.lane, 0, [atomOf p], true, q.map, q.va.toNat, bytesOf x s q.thread⟩

def execStfe (x : Ord) (s : State) : Out :=
  .next (s.named x.pred (srcABC x) fun s =>
    s.memory x.pred (shapeOf x false [] 1 true) (addrOf x)
      (fun s t => s.checkWindow (addrOf x s t) (sizeOf x.et) true)
      (fun s _ l => ({ Draft.none with kind := .store, delay := 199, misses := sectorsOf (sizeOf x.et) l },
        l.foldl (State.stfeOne x) s)))

/-- One thread's `clrfe`: its atom is to be empty (R361). -/
def State.clrfeOne (s : State) (q : Plan) : State :=
  let i := s.cur.id
  s.queueFe ⟨i.die, i.core, i.lane, 0, [atomOf (q.map.phys q.va.toNat)], false, q.map, q.va.toNat, []⟩

def execClrfe (x : Ord) (s : State) : Out :=
  .next (s.named x.pred (srcAB x) fun s =>
    s.memory x.pred (shapeOf x false [] 1 true) (addrOf x)
      (fun s t => s.checkWindow (addrOf x s t) 1 true)
      (fun s _ l => ({ Draft.none with kind := .store, delay := 199, misses := sectorsOf 1 l },
        l.foldl State.clrfeOne s)))

/-- Whether a request has waited 1 ms at the controller in an earlier cycle: a fill in the cycle of the expiry wins (R59). -/
def FeWait.late (w : FeWait) (cycle : Nat) : Bool := w.seen && w.arrived + 2700000 < cycle

/-- LDFE_TIMEOUT (R59): the requests that have waited 1 ms at the controller trap with 0x13; a fill in the cycle of the
expiry wins, so the event comes after that cycle. -/
def execLdfeTimeout (op : Nat) (s : State) : Out :=
  .next (
    match Tab.get? op s.eng.ops with
    | none => s
    | some o =>
      match o.kind with
      | .ldfe ws =>
        let late := ws.filter fun w => w.late s.clock.cycle
        if late.isEmpty then s
        else
          let o' := { o with
            kind := .ldfe (ws.filter fun w => !w.late s.clock.cycle)
            faults := o.faults ++ late.map fun w => ⟨w.thread, 0x13, w.va⟩ }
          let s := { s with eng := { s.eng with ops := Tab.set op o' s.eng.ops } }
          if late.length = ws.length then s.finishOp op else s
      | _ => s)

/-! ### Prefetch (R360) -/

/-- The line of one thread's address, brought in without a trap (R360); the line of a remote home is asked for where the core cache
keeps it, and nobody waits for the answer (R28, R228). -/
def State.prefOne (x : Ord) (s : State) (t : Nat) : State :=
  let i := s.cur.id
  let va := addrOf x s t
  match s.translate (s.cur.acc false) va 1 1 with
  | (.error _, s) => s
  | (.ok m, s) =>
    if 4 ≤ m.space then
      let line := va.toNat / 64 * 64
      match keepOf x.modb.toNat with
      | some k =>
        if s.inCore i.die i.core m line 64 then s
        else (s.request m line opReadRequest 0 [BitVec.ofNat 8 64] (.value 127 64 false (some k)) engKey t).2
      | none => s
    else if !m.isLocal || s.poisoned m va.toNat 1 then s
    else if x.modb = 2 then s.fillHome (m.lines false va.toNat 1)
    else s.touch i.die i.core m va.toNat 1 x.modb.toNat

def execPref (x : Ord) (s : State) : Out :=
  .next (s.named x.pred (srcAB x) fun s =>
    s.perThread x.pred (lenOf x) fun s m => (threads m).foldl (State.prefOne x) s)

/-! ### Mapped ranges (R362, R363) -/

/-- The common values of A, B and C of a uniform instruction. -/
def Group.ua (g : Group) (x : Ord) : Word := g.common (g.exec x.pred) x.a
def Group.ub (g : Group) (k : LitKind) (x : Ord) : Word := g.bopd k x.et x.b (lowest (g.exec x.pred))
def Group.uc (g : Group) (x : Ord) : Word := g.common (g.exec x.pred) x.c

/-- The frame of a uniform instruction past its register checks: the uniform check on its vector operands, no effect
without an executing thread (R168, R169). -/
def State.uniformly (s : State) (x : Ord) (srcs : List Opd) (run : State → State) : State :=
  s.named x.pred srcs fun s => s.checked x.pred srcs fun s =>
    if s.cur.exec x.pred = 0 then s.retire 1 (lenOf x) 0
    else if s.affordable (s.cur.exec x.pred) = 0 && !s.cur.sp.charged then
      s.exhausted (lowest (s.cur.exec x.pred)) (s.cur.omask x.pred)
    else run s

/-- Complete a uniform instruction of one issue. -/
def State.done (s : State) (x : Ord) (srcs : List Opd) : State :=
  let e := s.cur.exec x.pred
  s.retire (Group.uniformCost e (anyV srcs)) (lenOf x) e

/-- A group-wide instruction waits (R364): while it does, `Split.wide` holds of its split. -/
def State.awaitWide (s : State) (w : Wait) : State := s.await 1 w

/-- A uniform instruction that charges one cycle, whatever it occupies, completes (R364, R399, R402). -/
def State.doneWide (s : State) (x : Ord) (srcs : List Opd) : State :=
  let e := s.cur.exec x.pred
  let n := Group.uniformCost e (anyV srcs)
  let s := if s.cur.sp.charged then s else (s.charge 1).occupy n
  ({ s with cur := s.cur.advance (lenOf x) (s.clock.cycle + n) }).afterIssue e

/-- What refuses a binding (R362). -/
def Team.mapCause (t : Team) (g : Group) (a b c : Nat) : Option (BitVec 8) :=
  if a % 256 != 0 || b % 256 != 0 || c % 256 != 0 || c = 0 then some 0x04
  else if 2 ^ 52 ≤ b then some 0x07
  else if t.size < a + c || g.lsize < a % t.area + c then some 0x05
  else if t.maps.any (fun m => a < m.loc + m.len && m.loc < a + c) || 16 ≤ t.maps.length then some 0x07
  else none

def execLsmap (x : Ord) (s : State) : Out :=
  .next (s.uniformly x (srcABC x) fun s =>
    let a := (s.cur.ua x).toNat
    let b := s.cur.ub .zero x
    let c := (s.cur.uc x).toNat
    match s.team? s.cur with
    | none => s.refuse x.pred 0x05
    | some t =>
      match t.mapCause s.cur a b.toNat c with
      | some k => s.refuse x.pred k
      | none =>
        (s.updTeam s.cur fun t => { t with maps := t.maps ++ [⟨a, b, c, x.imm.getLsbD 0, [], []⟩] }).done x (srcABC x))

/-- The binding that starts at A. -/
def State.binding (s : State) (x : Ord) : Option MapBind :=
  match s.team? s.cur with
  | none => none
  | some t => t.maps.find? (fun m => m.loc == (s.cur.ua x).toNat)

/-- A fault of a uniform instruction that its description puts in the memory class: FMASK is the lowest executing thread
(R191). -/
def State.uniformFault (s : State) (x : Ord) (c : BitVec 8) (va : Nat) (kind : BitVec 8) : State :=
  let s := (if s.cur.sp.charged then s else s.charge 1).occupy 1
  let t := lowest (s.cur.exec x.pred)
  s.trap (s.cur.memoryTrap [⟨t, c, BitVec.ofNat 64 va⟩] kind (s.cur.omask x.pred) s.cur.iw0)

def execLsunmap (x : Ord) (s : State) : Out :=
  .next (s.uniformly x [x.a] fun s =>
    match s.binding x with
    | none => s.doneWide x [x.a]
    | some m =>
      match s.backFirst [m] with
      | (some (c, va), s) => s.uniformFault x c va 0x01
      | (none, s) =>
        if s.backOut s.cur.id then s.awaitWide (.fence 4)
        else (s.updTeam s.cur fun t => { t with maps := t.maps.filter (fun n => n.loc != m.loc) }).doneWide x [x.a])

/-- Keep a store-like operation of the current group that is complete after `delay` cycles. -/
def State.pending (s : State) (x : Ord) (counter path delay : Nat) : State :=
  let id := s.fresh
  id.2.addOp id.1 (id.2.opOf x.pred (lenOf x) counter path 0x01 { Draft.none with kind := .store } delay []) []

def execLswb (x : Ord) (s : State) : Out :=
  .next (s.uniformly x [x.a] fun s =>
    match s.binding x with
    | none => s.done x [x.a]
    | some m =>
      if 62 ≤ s.cur.cntC then s.stall (.counterFull 2)
      else
        match s.backFirst [m] with
        | (some (c, va), s) => s.uniformFault x c va 0x01
        | (none, s) => if s.backOut s.cur.id then s.stall (.fence 5) else (s.pending x 2 0 1).done x [x.a])

def execLsinv (x : Ord) (s : State) : Out :=
  .next (s.uniformly x [x.a] fun s =>
    match s.binding x with
    | none => s.done x [x.a]
    | some m =>
      if 62 ≤ s.cur.cntS then s.stall (.counterFull 1)
      else if s.fillOut s.cur.id then s.stall (.fence 6)
      else
        let s := s.updTeam s.cur fun t =>
          t.mapBinds fun n => if n.loc == m.loc then { n with filled := [], dirty := [] } else n
        (s.pending x 1 0 1).done x [x.a])

end Sys2Proof.Machine
end

