-- ==== Sys2Proof/Machine/Sync.lean ====
section
/-!
DEFINITION. Fences, bindings, sync words, atomics, barriers and `wait` (R230-R242, R364-R375), opcodes 0x4C-0x55.
-/

namespace Sys2Proof.Machine

open Sys2Proof

/-! ### What a fence waits for (R235, R240, R241) -/

/-- The path of a class of engine commands (R229). -/
def classPath (cls : Nat) : Nat := if cls = 0 then 1 else if cls = 4 then 6 else 2

/-- Whether the group has an operation outstanding that satisfies a test. -/
def State.hasOp (s : State) (g : Gid) (f : Op → Bool) : Bool := s.eng.ops.any fun (e : Nat × Op) => e.2.g == g && f e.2

/-- Whether the group has an engine command that has not completed and satisfies a test. -/
def State.hasCmd (s : State) (g : Gid) (f : Cmd → Bool) : Bool :=
  s.eng.cmds.any fun (e : Nat × Cmd) => e.2.g == g && f e.2

/-- Whether the group has a draw that has not completed. -/
def State.hasDraw (s : State) (g : Gid) : Bool := s.eng.draws.any fun d => d.g == g

/-- Whether the accesses that a fence or release waits for have completed; the codes are those of Wait.fence. -/
def State.fenceOpen (s : State) (g : Gid) (what : Nat) : Bool :=
  match what with
  | 0 => !s.hasOp g (fun o => o.path == 0)
  | 1 => !s.hasOp g (fun _ => true) && !s.hasCmd g (fun _ => true) && !s.hasDraw g
  | 2 => !s.hasOp g (fun _ => true) && !s.hasCmd g (fun _ => true) && !s.hasDraw g && !s.unacknowledged g
  | 3 => !s.hasOp g (fun o => o.path == 0 && o.kind == .store)
  | 4 => !s.hasOp g (fun o => o.path == 0 && o.kind == .store) && !s.unacknowledged g
  | 6 => !s.fillOut g
  | _ => !s.backOut g

/-- Whether the group's operations of a path have completed (R241); rays are never waited for. -/
def State.pathOpen (s : State) (g : Gid) (p : Nat) : Bool :=
  if p = 3 then true
  else
    !s.hasOp g (fun o => o.path == p || (p == 2 && (match o.kind with | .accord .. => true | _ => false)))
      && !s.hasCmd g (fun c => classPath c.cls == p) && !(p == 5 && s.hasDraw g)

/-- Whether a split is in an incomplete group-wide instruction (R364). -/
def Split.wide (p : Split) : Bool :=
  p.charged && (match p.wait with
    | .acquire => true
    | .fence n => n < 5
    | .path _ => true
    | .dropped .. => true
    | .barrier _ _ => true
    | _ => false)

/-! ### Waiting acquires (R367) -/

/-- Whether a value satisfies an acquire (R367). -/
def acqHolds (fn : AcqFn) (word value : Nat) : Bool :=
  match fn with
  | .eq => word == value
  | .ge => value ≤ word
  | .take => value ≤ word

/-- The response to a sync or atomic request of another module. -/
def State.answer (s : State) (f : Flit) (op : BitVec 6) (payload : List Byte) : State :=
  s.send { s.flit op f.src f.part.toNat f.tag f.paddr.toNat f.scope payload with part := f.part }

/-- A satisfied request: a group's split may complete; another module is answered (R231, R367). -/
def State.satisfy (s : State) (w : Waiter) : State :=
  match w.remote with
  | some f => s.answer f opAtomicResponse (leBytes 8 0)
  | none => { s with eng := { s.eng with waiters := s.eng.waiters ++ [{ w with met := true }] } }

/-- One evaluation of the waiting requests against the words as they stand in `s0` (R367): every eq and ge whose condition holds is
satisfied, and of the takes of a word the first alone is looked at, whose subtraction is a write that the next evaluation sees.
`taken` lists the words of the takes met so far. -/
def settleOnce (s0 : State) : List Waiter → (taken : List Nat) → State → State
  | [], _, s => s
  | w :: l, taken, s =>
    let v := s0.homeNat w.word 8
    let next := if w.fn == .take && !w.met then w.word :: taken else taken
    if w.met || (w.fn == .take && taken.contains w.word) || !acqHolds w.fn v w.value.toNat then
      settleOnce s0 l next { s with eng := { s.eng with waiters := s.eng.waiters ++ [w] } }
    else
      let s := if w.fn == .take then s.putHome w.word (leBytes 8 (v - w.value.toNat)) else s
      settleOnce s0 l next (s.satisfy w)

/-- Evaluate the waiting requests until nothing changes: a take's own write is a write too (R367). -/
def State.settleWaiters (s : State) : State :=
  if s.eng.waiters.all (fun w => w.met) then s
  else
    let one := fun (s : State) => settleOnce s s.eng.waiters [] { s with eng := { s.eng with waiters := [] } }
    (List.range s.eng.waiters.length).foldl (fun s _ => one s) s

/-! ### Release and acquire (R232, R235, R236) -/

/-- The key of a sync word: its physical address, or the key of a remote one. -/
def Map.wordKey (m : Map) (va : Nat) : Nat := if m.space < 3 then m.phys va else byteKey m.space (m.phys va)

/-- The bindings of a launch. -/
def State.bindsOf (s : State) (seq : Nat) : List BindRun :=
  match s.launch? seq with
  | some l => l.binds
  | none => []

/-- The bindings of the current launch. -/
def State.binds (s : State) : List BindRun := s.bindsOf s.cur.launch

/-- The bound ranges of the current launch by their virtual addresses. -/
def State.vbinds (s : State) : List BindRun :=
  match s.launch? s.cur.launch with
  | some l => l.vbinds
  | none => []

/-- Whether a physical byte is bound to a word. -/
def boundTo (bs : List BindRun) (word p : Nat) : Bool :=
  bs.any fun b => b.word == word && b.start ≤ p && p < b.start + b.len

/-- Whether a physical byte is bound to any word. -/
def boundAny (bs : List BindRun) (p : Nat) : Bool := bs.any fun b => b.start ≤ p && p < b.start + b.len

/-- The current core writes back the dirty bytes that satisfy a test. -/
def State.coreBack (s : State) (f : (space p : Nat) → Bool) : State := s.writeBack s.cur.id.die s.cur.id.core f

/-- The current core drops the clean bytes that satisfy a test. -/
def State.coreDrop (s : State) (f : (space p : Nat) → Bool) : State := s.dropClean s.cur.id.die s.cur.id.core f

/-- The physical byte of a global address, where it translates. -/
def State.physOf (s : State) (va : Nat) : Option Nat :=
  match (s.translate (s.cur.acc false) (BitVec.ofNat 64 va) 1 1).1 with
  | .ok m => some (m.wordKey va)
  | .error _ => none

/-- The mapped ranges of the team that hold dirty bytes bound to a word (R235 step 1). -/
def State.boundMaps (s : State) (word : Nat) : List MapBind :=
  match s.team? s.cur with
  | none => []
  | some t => t.maps.filter fun m => m.dirty.any fun b =>
      match s.physOf (m.globalOf b) with
      | some p => boundTo s.binds word p
      | none => boundTo s.vbinds word (m.globalOf b)

/-- Steps 1 and 2 of a release (R235): the mapped ranges bound to the word, then at die scope or wider the core's dirty
bytes of its regions in every view. -/
def State.releaseBound (s : State) (word scope : Nat) : Option (BitVec 8 × Nat) × State :=
  match s.backFirst (s.boundMaps word) with
  | (some e, s) => (some e, s)
  | (none, s) => (none, if scope < 2 then s else s.coreBack (fun _ p => boundTo s.binds word p))

/-- A release of what is bound nowhere, as a token makes it (R237): the core's dirty bytes that no word binds. -/
def State.releaseUnbound (s : State) : State := s.coreBack (fun _ p => !boundAny s.binds p)

/-- What an acquire does at a core for the launch of the acquirer (R232, R233, R236): `fence.view` on the regions bound to its
word, and every clean line that a release may cover goes, of remote homes at fabric scope only. A word that is a completion
token or a command's counter covers data that is bound nowhere or to other words (entry 44). -/
def State.acquireAt (s : State) (die core launch word scope : Nat) : State :=
  if scope < 2 then s
  else
    let bs := s.bindsOf launch
    let s := if bs.any (fun b => b.word == word) then s.fenceBytes die core (boundTo bs word) else s
    s.dropClean die core fun sp _ => scope = 4 || sp < 4

/-- An acquire of the current group. -/
def State.acquireBound (s : State) (word scope : Nat) : State :=
  s.acquireAt s.cur.id.die s.cur.id.core s.cur.launch word scope

/-! ### Fences (R240-R242, R365) -/

/-- What a `fence` of a scope waits for. -/
def fenceCode (scope : Nat) : Nat := if scope < 2 then 0 else if scope = 4 then 2 else 1

def execFenceScope (x : Ord) (s : State) : Out :=
  .next (s.uniformly x [] fun s =>
    let scope := x.moda.toNat
    if !s.fenceOpen s.cur.id (fenceCode scope) then s.awaitWide (.fence (fenceCode scope))
    else
      let s := if scope < 2 then s else (s.coreBack (fun _ _ => true)).coreDrop (fun sp _ => scope = 4 || sp < 4)
      s.doneWide x [])

/-- Whether a 64-byte line of a byte meets one of the runs written on a path. -/
def lineMeets (l : List (Nat × Nat × Nat)) (p : Nat) : Bool := l.any fun e => e.2.1 < p / 64 * 64 + 64 && p / 64 * 64 < e.2.1 + e.2.2

/-- The current core invalidates its lines that overlap writes (R241): what else the lines hold dirty goes home first. -/
def State.dropLines (s : State) (l : List (Nat × Nat × Nat)) : State :=
  let hit := fun (p : Nat) => l.any fun e => e.2.1 ≤ p && p < e.2.1 + e.2.2
  (s.coreBack fun _ p => lineMeets l p && !hit p).dropAll s.cur.id.die s.cur.id.core fun sp p => sp < 4 && lineMeets l p

def execFencePath (x : Ord) (s : State) : Out :=
  .next (s.uniformly x [] fun s =>
    let px := x.imm.toNat % 16
    let py := x.imm.toNat / 16
    if !s.pathOpen s.cur.id px then s.awaitWide (.path px)
    else
      let s := if px = 0 then s.coreBack (fun _ _ => true) else s
      let s :=
        if py = 0 then
          let s := (s.dropLines (s.cur.wrote.filter fun e => e.1 == px)).coreDrop fun _ _ => true
          { s with cur := { s.cur with wrote := s.cur.wrote.filter fun e => e.1 != px } }
        else s
      s.doneWide x [])

/-- Whether a physical byte of local memory is reached by the pieces of a range. -/
def piecesCover (l : List (Map × Nat × Nat)) (p : Nat) : Bool := l.any fun e => e.1.isLocal && e.1.covers e.2.1 e.2.2 p

/-- Pages that a range can touch. -/
def rangeFuel (len : Nat) : Nat := len / 4096 + 2

def execFenceView (x : Ord) (s : State) : Out :=
  .next (s.uniformly x (srcAB x) fun s =>
    let a := (s.cur.ua x).toNat
    let b := (s.cur.ub .zero x).toNat
    if b = 0 then s.refuse x.pred 0x04
    else
      match s.range (s.cur.acc false) (rangeFuel b) a b with
      | (.error (c, va), s) => s.uniformFault x c va 0x00
      | (.ok l, s) =>
        let s := s.fenceBytes s.cur.id.die s.cur.id.core (piecesCover l)
        let far := fun sp p => l.any fun e => 4 ≤ sp && e.1.space == sp && e.1.covers e.2.1 e.2.2 p
        (s.coreDrop far).doneWide x (srcAB x))

/-! ### Bindings (R234, R366) -/

/-- The physical runs of a range, one per piece of a plain page and one per contiguous run of an alias page. -/
def runsOf (l : List Nat) : List (Nat × Nat) :=
  l.foldl (fun (acc : List (Nat × Nat)) p =>
    match acc with
    | (st, n) :: rest => if p = st + n then (st, n + 1) :: rest else (p, 1) :: acc
    | [] => [(p, 1)]) []

def pieceRuns (e : Map × Nat × Nat) : List (Nat × Nat) :=
  match e.1.geo with
  | none => [(e.1.wordKey e.2.1, e.2.2)]
  | some _ => runsOf ((List.range e.2.2).map fun i => e.1.wordKey (e.2.1 + i))

/-- Insert a run into a table that is kept in rising order. -/
def insertRun (r : BindRun) : List BindRun → List BindRun
  | [] => [r]
  | b :: l => if r.start ≤ b.start then r :: b :: l else b :: insertRun r l

/-- Join runs that touch or overlap and are bound to one word (R366: one entry for each maximal contiguous run). -/
def joinRuns : List BindRun → List BindRun
  | [] => []
  | b :: l =>
    match joinRuns l with
    | [] => [b]
    | c :: r =>
      if b.word == c.word && c.start ≤ b.start + b.len then
        { b with len := max (b.start + b.len) (c.start + c.len) - b.start } :: r
      else b :: c :: r

/-- Add runs for a word. -/
def addRuns (bs : List BindRun) (word : Nat) (l : List (Nat × Nat)) : List BindRun :=
  joinRuns (l.foldl (fun bs e => insertRun ⟨e.1, e.2, word⟩ bs) bs)

/-- Take one run of bytes out of the table. -/
def cutRun (lo n : Nat) (bs : List BindRun) : List BindRun :=
  (bs.map fun b =>
    (if b.start < min lo (b.start + b.len) then [{ b with len := min lo (b.start + b.len) - b.start }] else [])
      ++ (if max (lo + n) b.start < b.start + b.len then
        [{ b with start := max (lo + n) b.start, len := b.start + b.len - max (lo + n) b.start }] else [])).flatten

/-- Whether a run meets a binding to another word. -/
def otherWord (bs : List BindRun) (word : Nat) (e : Nat × Nat) : Bool :=
  bs.any fun b => b.word != word && b.start < e.1 + e.2 && e.1 < b.start + b.len

/-- The entries of a launch's binding table (R234). -/
def bindMax : Nat := 64

def execBind (x : Ord) (s : State) : Out :=
  .next (s.uniformly x (srcABC x) fun s =>
    let a := s.cur.ua x
    let b := (s.cur.ub .zero x).toNat
    let c := (s.cur.uc x).toNat
    if a.toNat % 8 != 0 || b % 256 != 0 || c % 256 != 0 || c = 0 then s.refuse x.pred 0x04
    else
      match s.translate (s.cur.acc false) a 8 8 with
      | (.error k, s) => s.uniformFault x k a.toNat 0x00
      | (.ok m, s) =>
        if !m.plain then s.uniformFault x 0x07 a.toNat 0x00
        else
          match s.range (s.cur.acc false) (rangeFuel c) b c with
          | (.error (k, va), s) => s.uniformFault x k va 0x00
          | (.ok l, s) =>
            let word := m.wordKey a.toNat
            let runs := (l.map pieceRuns).flatten
            if runs.any (otherWord s.binds word) then s.refuse x.pred 0x07
            else
              let bs := addRuns s.binds word runs
              if bindMax < bs.length then s.refuse x.pred 0x07
              else
                let vs := addRuns s.vbinds word [(b, c)]
                (s.updLaunch s.cur.launch fun l => { l with binds := bs, vbinds := vs }).doneWide x (srcABC x))

def execUnbind (x : Ord) (s : State) : Out :=
  .next (s.uniformly x (srcAB x) fun s =>
    let a := (s.cur.ua x).toNat
    let b := (s.cur.ub .zero x).toNat
    if a % 256 != 0 || b % 256 != 0 || b = 0 then s.refuse x.pred 0x04
    else
      match s.range (s.cur.acc false) (rangeFuel b) a b with
      | (.error (k, va), s) => s.uniformFault x k va 0x00
      | (.ok l, s) =>
        let bs := ((l.map pieceRuns).flatten).foldl (fun bs e => cutRun e.1 e.2 bs) s.binds
        if bindMax < bs.length then s.refuse x.pred 0x07
        else
          let vs := cutRun a b s.vbinds
          (s.updLaunch s.cur.launch fun l => { l with binds := bs, vbinds := vs }).doneWide x (srcAB x))

/-! ### acq and rel (R367-R369) -/

/-- Codes of the functions in an atomic or sync request (entry 21). -/
def atomCode : AtomFn → Nat
  | .add => 0 | .smin => 1 | .smax => 2 | .zmin => 3 | .zmax => 4 | .and => 5 | .or => 6 | .xor => 7 | .xchg => 8
  | .inc => 9 | .dec => 10

def casCode : Nat := 11

def fatomCode : FatomFn → Nat
  | .addF32 => 12 | .minF32 => 13 | .maxF32 => 14 | .addBf16 => 15

def relCode : RelFn → Nat
  | .store => 16 | .add => 17 | .give => 18

def acqCode : AcqFn → Nat
  | .eq => 19 | .ge => 20 | .take => 21

/-- The scope field of a flit (R25). -/
def flitScope (scope : Nat) : BitVec 3 := if scope = 4 then 2 else if scope < 2 then 0 else 1

/-- A sync word's address of a uniform instruction, checked in the memory class (R230, R367). -/
def State.syncWord (s : State) (a : Word) (write : Bool) : Except (BitVec 8) Map × State :=
  match s.translate (s.cur.acc write) a 8 8 with
  | (.error k, s) => (.error k, s)
  | (.ok m, s) => if m.plain then (.ok m, s) else (.error 0x07, s)

/-- The waiter of a split. -/
def State.waiterOf (s : State) : Option Waiter := 
  s.eng.waiters.find? fun w => w.g == s.cur.id && w.slot == s.cur.slot && w.remote.isNone

/-- Forget the waiter of the issuing split. -/
def State.dropWaiter (s : State) : State :=
  { s with eng := { s.eng with
    waiters := s.eng.waiters.filter fun w => !(w.g == s.cur.id && w.slot == s.cur.slot && w.remote.isNone) } }

/-- Whether a remote sync operation of the issuing split is outstanding. -/
def State.syncOut (s : State) : Bool :=
  s.fabric.waiting.any fun (e : Nat × Remote) => e.2.g == s.cur.id &&
    (match e.2.kind with | .sync slot _ _ => slot == s.cur.slot | _ => false)

/-- Send a sync operation to a remote home and wait for its answer (R231). -/
def State.sendSync (s : State) (x : Ord) (m : Map) (a : Word) (code : Nat) (b : Word) (scope : Nat) (acquire : Bool) : State :=
  if s.syncOut then s.awaitWide .acquire
  else
    let r := s.request m a.toNat opAtomicRequest (flitScope scope) (atomicPayload code 8 b 0)
      (.sync s.cur.slot acquire (if acquire then 0x00 else 0x01)) 0 (lowest (s.cur.exec x.pred)) (s.cur.omask x.pred)
    r.2.awaitWide .acquire

/-- The acquire after its condition held (R236, R369). -/
def State.acquired (s : State) (x : Ord) (fn : AcqFn) (word : Nat) : State :=
  let s := s.dropWaiter.acquireBound word x.moda.toNat
  let s := if fn == .take && 2 ≤ x.moda.toNat then s.coreDrop (fun _ _ => true) else s
  s.doneWide x (srcAB x)

def execAcq (fn : AcqFn) (x : Ord) (s : State) : Out :=
  .next (s.uniformly x (srcAB x) fun s =>
    let a := s.cur.ua x
    let b := s.cur.ub .zero x
    match s.syncWord a (fn == .take) with
    | (.error k, s) => s.dropWaiter.uniformFault x k a.toNat 0x00
    | (.ok m, s) =>
      let word := m.wordKey a.toNat
      match s.waiterOf with
      | some w => if w.met then s.acquired x fn word else s.awaitWide .acquire
      | none =>
        if m.isLocal then
          let w : Waiter := { g := s.cur.id, slot := s.cur.slot, word := word, fn := fn, value := b,
                              scope := x.moda.toNat, met := false, remote := none }
          let s := ({ s with eng := { s.eng with waiters := s.eng.waiters ++ [w] } }).settleWaiters
          match s.waiterOf with
          | some w => if w.met then s.acquired x fn word else s.awaitWide .acquire
          | none => s.awaitWide .acquire
        else s.sendSync x m a (acqCode fn) b x.moda.toNat true)

/-- The new value of a sync word (R368). -/
def relValue (fn : RelFn) (old b : Word) : Word :=
  match fn with
  | .store => b
  | .add => old + b
  | .give => old + b

def execRel (fn : RelFn) (x : Ord) (s : State) : Out :=
  .next (s.uniformly x (srcAB x) fun s =>
    let a := s.cur.ua x
    let b := s.cur.ub .zero x
    let scope := x.moda.toNat
    match s.syncWord a true with
    | (.error k, s) => s.uniformFault x k a.toNat 0x01
    | (.ok m, s) =>
      let word := m.wordKey a.toNat
      match s.waiterOf with
      | some _ => s.dropWaiter.doneWide x (srcAB x)
      | none =>
        if s.syncOut then s.awaitWide .acquire
        else
          match s.releaseBound word scope with
          | (some (c, va), s) => s.uniformFault x c va 0x01
          | (none, s) =>
            let s := if fn == .give && 2 ≤ scope then s.coreBack (fun _ _ => true) else s
            let code := if scope < 2 && !s.backOut s.cur.id then 3 else 4
            if !s.fenceOpen s.cur.id code then s.awaitWide (.fence code)
            else if m.isLocal then
              let old := BitVec.ofNat 64 (leNat (s.mapBytes m a.toNat 8))
              let bs := leBytes 8 (relValue fn old b).toNat
              let s := s.mapWrite m a.toNat bs
              let s := (bs.zipIdx).foldl (fun s (e : Byte × Nat) =>
                s.coreUpdate s.cur.id.die s.cur.id.core m.space (m.phys (a.toNat + e.2)) e.1) s
              s.settleWaiters.doneWide x (srcAB x)
            else s.sendSync x m a (relCode fn) b scope false)

/-! ### Atomics (R370-R373) -/

/-- The new value of an integer atomic of w bits (R370). -/
def atomValue (fn : AtomFn) (w old b : Nat) : Nat :=
  match fn with
  | .add => (old + b) % 2 ^ w
  | .smin => if signed w old ≤ signed w b then old else b
  | .smax => if signed w b ≤ signed w old then old else b
  | .zmin => min old b
  | .zmax => max old b
  | .and => (BitVec.ofNat 64 old &&& BitVec.ofNat 64 b).toNat
  | .or => (BitVec.ofNat 64 old ||| BitVec.ofNat 64 b).toNat
  | .xor => (BitVec.ofNat 64 old ^^^ BitVec.ofNat 64 b).toNat
  | .xchg => b
  | .inc => if b ≤ old then 0 else old + 1
  | .dec => if old = 0 || b < old then b else old - 1

/-- The new value of a float atomic (R372). -/
def fatomValue (fn : FatomFn) (old b : Nat) : Nat :=
  let sum := fun (e : ET) (p q : Nat) => resultFl false e .rne ((toFl e p).add .rne (toFl e q))
  match fn with
  | .addF32 => sum .f32 old b
  | .minF32 => minMaxF .f32 false old b
  | .maxF32 => minMaxF .f32 true old b
  | .addBf16 => sum .bf16 (old % 2 ^ 16) (b % 2 ^ 16) + sum .bf16 (old / 2 ^ 16) (b / 2 ^ 16) * 2 ^ 16

/-- One read-modify-write at the home of a word (R225, R370): the core's own dirty copy goes home first, and its copy
follows the new value. A function that answers none writes nothing. -/
def State.homeAtomic (s : State) (m : Map) (va n : Nat) (f : Nat → Option Nat) : Nat × State :=
  let s := s.coreBack (fun sp p => sp == m.space && m.covers va n p)
  let old := leNat (s.mapBytes m va n)
  match f old with
  | none => (old, s)
  | some v =>
    let bs := leBytes n v
    let s := s.mapWrite m va bs
    let s := (bs.zipIdx).foldl (fun s (e : Byte × Nat) =>
      s.coreUpdate s.cur.id.die s.cur.id.core m.space (m.phys (va + e.2)) e.1) s
    (old, s.settleWaiters)

/-- What an atomic instruction does at a word: its size, the sign of D, the function's code and operands, and the update. -/
structure Rmw where
  size : Nat
  sgn : Bool
  code : Nat
  sync : Bool
  scope : Nat
  deriving DecidableEq, Repr

/-- One thread's atomic at the home or, as a request, at the remote home, whose answer acquires where it is a sync operation
(R28, R230, R370). The core's copies of a remote word go: what they hold is older than the atomic (R238). -/
def State.atomOne (x : Ord) (k : Rmw) (b c : State → Nat → Word) (f : Nat → Nat → Nat → Option Nat) (id : Nat)
    (s : State) (q : Plan) : Draft × State :=
  let va := q.va.toNat
  let word := q.map.wordKey va
  let out := q.map.isLocal && !s.inHome q.map va k.size
  let bv := (b s q.thread)
  let cv := (c s q.thread)
  if q.map.space < 4 then
    let r := s.homeAtomic q.map va k.size (fun old => f old (bv.toNat % 2 ^ (8 * k.size)) (cv.toNat % 2 ^ (8 * k.size)))
    let s := if k.sync then r.2.acquireBound word k.scope else r.2
    (⟨[⟨q.thread, x.d.code, extendBytes k.size k.sgn (leBytes k.size r.1)⟩], [],
      200 + s.linkDelay s.cur.id.die (homeDie (q.map.phys va)), .load, if out then q.map.sectors va k.size else []⟩, s)
  else
    let s := s.coreDrop fun sp p => sp == q.map.space && q.map.covers va k.size p
    let r := s.request q.map va opAtomicRequest (if k.sync then flitScope k.scope else 0) (atomicPayload k.code k.size bv cv)
      (.value x.d.code k.size k.sgn none) id q.thread 0 (if k.sync then some (word, k.scope) else none)
    (⟨[], [r.1], 0, .remote, []⟩, r.2)

/-- The check of one thread of an atomic (R230, R370). -/
def State.checkAtomic (s : State) (va : Word) (size : Nat) (sync : Bool) : Except (BitVec 8 × Word) Map × State :=
  match s.checkGlobal va size true true with
  | (.error e, s) => (.error e, s)
  | (.ok m, s) => if sync && !m.plain then (.error (0x07, va), s) else (.ok m, s)

/-- The sync words that the threads of a mask name and that pass their checks (R230). -/
def State.syncWords (s : State) (x : Ord) (k : Rmw) (e : Mask) : List Nat :=
  ((threads e).filterMap fun t =>
    match (s.checkAtomic (s.cur.opd x.a t) k.size true).1 with
    | .ok m => some (m.wordKey (s.cur.opd x.a t).toNat)
    | .error _ => none).eraseDups

/-- Steps 1 and 2 of a release of several words. -/
def State.releaseWords (scope : Nat) : List Nat → State → Option (BitVec 8 × Nat) × State
  | [], s => (none, s)
  | w :: l, s =>
    match s.releaseBound w scope with
    | (some e, s) => (some e, s)
    | (none, s) => State.releaseWords scope l s

/-- The frame of `atom`, `cas` and `fatom`. With `.sync` the instruction is a release before its accesses: it waits for the
group's earlier writes as `rel` does (R230, R235). -/
def State.atomic (s : State) (x : Ord) (srcs : List Opd) (k : Rmw) (b c : State → Nat → Word)
    (f : Nat → Nat → Nat → Option Nat) : State :=
  s.named x.pred (x.d :: srcs) fun s => s.checkedIf x.d.isG x.pred srcs fun s =>
    let run := fun (s : State) =>
      s.memory x.pred ⟨lenOf x, x.d.isG, anyV srcs, 0, 0, 0x05, false, false⟩ (fun s t => s.cur.opd x.a t)
        (fun s t => s.checkAtomic (s.cur.opd x.a t) k.size k.sync)
        (fun s id l => performAll (State.atomOne x k b c f id) s Draft.none l)
    let e := s.cur.exec x.pred
    if !k.sync || e = 0 then run s
    else
      match State.releaseWords k.scope (s.syncWords x k (if x.d.isG then firstThreads e 1 else e)) s with
      | (some (cause, va), s) => s.uniformFault x cause va 0x05
      | (none, s) =>
        let code := if k.scope < 2 && !s.backOut s.cur.id then 3 else 4
        if !s.fenceOpen s.cur.id code then s.stall (.fence code) else run s

/-- B of an atomic. -/
def atomB (k : LitKind) (x : Ord) (s : State) (t : Nat) : Word := s.cur.bopd k x.et x.b t

/-- C of an atomic. -/
def atomC (x : Ord) (s : State) (t : Nat) : Word := s.cur.opd x.c t

def execAtom (fn : AtomFn) (x : Ord) (s : State) : Out :=
  .next (s.atomic x (srcAB x) ⟨sizeOf x.et, x.et.isSigned, atomCode fn, x.imm.getLsbD 0, x.moda.toNat⟩ (atomB .byET x)
    (fun _ _ => 0) (fun old b _ => some (atomValue fn x.et.width old b)))

def execCas (x : Ord) (s : State) : Out :=
  .next (s.atomic x (srcABC x) ⟨sizeOf x.et, x.et.isSigned, casCode, x.imm.getLsbD 0, x.moda.toNat⟩ (atomB .byET x)
    (atomC x) (fun old b c => if old = b then some c else none))

def execFatom (fn : FatomFn) (x : Ord) (s : State) : Out :=
  .next (s.atomic x (srcAB x) ⟨4, false, fatomCode fn, false, 0⟩ (atomB .zero x) (fun _ _ => 0)
    (fun old b _ => some (fatomValue fn old b)))

/-- One thread's atomic on local store (R373). -/
def State.atomlsOne (fn : AtomFn) (x : Ord) (s : State) (q : Plan) : Draft × State :=
  let n := sizeOf x.et
  let old := leNat (s.lsBytes q.va.toNat n)
  let b := (s.cur.bopd .byET x.et x.b q.thread).toNat % 2 ^ x.et.width
  (⟨[⟨q.thread, x.d.code, extendBytes n x.et.isSigned (leBytes n old)⟩], [], 20, .load, []⟩,
    s.lsStore q.va.toNat (leBytes n (atomValue fn x.et.width old b)))

def execAtomls (fn : AtomFn) (x : Ord) (s : State) : Out :=
  .next (s.named x.pred (x.d :: srcAB x) fun s => s.checkedIf x.d.isG x.pred (srcAB x) fun s =>
    s.localAccess x.pred ⟨lenOf x, x.d.isG, anyV (srcAB x), 0, 7, 0x05, false, false⟩ (fun s t => s.cur.opd x.a t) (sizeOf x.et)
      [] (fun s l => performAll (State.atomlsOne fn x) s Draft.none l))

/-! ### Barriers and waits (R374, R375) -/

/-- A barrier of a team. -/
def Team.bar (t : Team) (b : Nat) : Barrier := Tab.getD t.bars b ⟨0, 0, 0⟩

/-- An arrival of the current group (R374): it counts once in a phase. -/
def State.arriveAt (s : State) (t : Team) (b n : Nat) : State :=
  let r := t.bar b
  if Tab.get? b s.cur.arrivals = some r.phase then s
  else
    let r' := ({ r with count := r.count + 1, target := n }).settle (s.running t)
    let s := s.updTeam s.cur fun t => { t with bars := Tab.set b r' t.bars }
    { s with cur := { s.cur with arrivals := Tab.set b r.phase s.cur.arrivals } }

/-- The barrier's phase as the current group sees it. -/
def State.phaseOf (s : State) (b : Nat) : Nat :=
  match s.team? s.cur with
  | some t => (t.bar b).phase
  | none => 0

/-- The wait of `cbar` (R374): until PHASE differs from that of the group's last arrival. -/
def State.barWait (s : State) (x : Ord) (b : Nat) : State :=
  match Tab.get? b s.cur.arrivals with
  | none => s.doneWide x [x.a]
  | some ph => if s.phaseOf b != ph then s.doneWide x [x.a] else s.awaitWide (.barrier b ph)

/-- Whether the issuing split has made its arrival already and waits (R374). -/
def Split.arrived (p : Split) (b : Nat) : Option Nat :=
  match p.wait with
  | .barrier b' ph => if b = b' then some ph else none
  | _ => none

def execCbar (fn : CbarFn) (x : Ord) (s : State) : Out :=
  .next (s.uniformly x [x.a] fun s =>
    let a := (s.cur.ua x).toNat
    let b := a % 8
    let n := field a 8 4
    match s.team? s.cur with
    | none => s.refuse x.pred 0x07
    | some t =>
      if a != b + n * 256 || (s.members t).length < n then s.refuse x.pred 0x07
      else
        match fn, s.cur.sp.arrived b with
        | .arriveWait, some ph => if s.phaseOf b != ph then s.doneWide x [x.a] else s.awaitWide (.barrier b ph)
        | .arriveWait, none => (s.arriveAt t b n).barWait x b
        | .arrive, _ => (s.arriveAt t b n).doneWide x [x.a]
        | .wait, _ => s.barWait x b)

/-- Whether the counters are at or below the thresholds of a `wait`; 63 is ignored (R186). -/
def Group.countersOpen (g : Group) (l s c t : BitVec 6) : Bool :=
  (l = 63 || g.cntL ≤ l.toNat) && (s = 63 || g.cntS ≤ s.toNat) && (c = 63 || g.cntC ≤ c.toNat)
    && (t = 63 || g.cntT ≤ t.toNat)

def execWait (l sc c t : BitVec 6) (s : State) : Out :=
  .next (
    let e := s.cur.sp.mask
    if s.affordable e = 0 && !s.cur.sp.charged then s.exhausted (lowest e) e
    else if !s.cur.countersOpen l sc c t then s.await 1 (.counters l sc c t)
    else if c != 63 && s.cur.revoked != 0 then
      ({ s with cur := { s.cur with revoked := 0 } }).refuse pred0 0x14
    else s.retire 1 8 e)

end Sys2Proof.Machine
end

