-- ==== Sys2Proof/Machine/Queue.lean ====
section
/-!
DEFINITION. Queues, pipeline emission, device-side launches and register blocks (R140, R376-R382), opcodes 0x58-0x5D.
-/

namespace Sys2Proof.Machine

open Sys2Proof

/-! ### Queue descriptors (R376) -/

/-- A queue descriptor as read at its home. -/
structure QDesc where
  tail : Nat
  head : Nat
  base : Nat
  log2 : Nat
  bad : Bool
  deriving DecidableEq, Repr

def QDesc.of (n : Nat) : QDesc where
  tail := field n 192 64
  head := field n 128 64
  base := field n 64 64
  log2 := field n 0 5
  bad := field n 256 256 != 0 || field n 5 59 != 0 || 20 < field n 0 5

/-- Entries in the queue, modulo 2^64. -/
def QDesc.used (d : QDesc) : Nat := (d.tail + 2 ^ 64 - d.head) % 2 ^ 64

/-- Whether the ring is full. -/
def QDesc.full (d : QDesc) : Bool := 2 ^ d.log2 ≤ d.used

/-- Virtual address of entry n. -/
def QDesc.entry (d : QDesc) (n : Nat) : Nat := d.base + 8 * (n % 2 ^ d.log2)

/-- A handle: bit 0 V, bits [51:6] the descriptor's address, every other bit zero (R376). -/
def handleOk (h : Word) : Bool := h.getLsbD 0 && field h.toNat 1 5 == 0 && field h.toNat 52 12 == 0

/-- The descriptor's address in a handle. -/
def handleAddr (h : Word) : Nat := h.toNat / 64 * 64 % 2 ^ 52

/-- What one push or pop at a descriptor in this module does. -/
inductive QueueRes where
  | moved (value : Word)
  /-- the ring is full or empty -/
  | wait
  /-- a fault at an address -/
  | fault (cause : BitVec 8) (va : Nat)
  deriving DecidableEq, Repr

/-- One push at the home of a descriptor, indivisibly (R376, R377). -/
def State.queuePush (s : State) (a : Acc) (desc : Map) (va : Nat) (x : Word) : QueueRes × State :=
  let d := QDesc.of (leNat (s.mapBytes desc va 64))
  if d.full then (.wait, s)
  else
    match s.translate a (BitVec.ofNat 64 (d.entry d.tail)) 8 8 with
    | (.error c, s) => (.fault c (d.entry d.tail), s)
    | (.ok m, s) =>
      let s := s.mapWrite m (d.entry d.tail) (leBytes 8 x.toNat)
      (.moved x, s.mapWrite desc (va + 24) (leBytes 8 (d.tail + 1)))

/-- One pop at the home of a descriptor (R378). -/
def State.queuePop (s : State) (a : Acc) (desc : Map) (va : Nat) : QueueRes × State :=
  let d := QDesc.of (leNat (s.mapBytes desc va 64))
  if d.used = 0 then (.wait, s)
  else
    match s.translate a (BitVec.ofNat 64 (d.entry d.head)) 8 8 with
    | (.error c, s) => (.fault c (d.entry d.head), s)
    | (.ok m, s) =>
      let x := BitVec.ofNat 64 (leNat (s.mapBytes m (d.entry d.head) 8))
      (.moved x, s.mapWrite desc (va + 16) (leBytes 8 (d.head + 1)))

/-- Codes of pushes and pops in a request to a remote home (entry 21). -/
def pushCode : Nat := 22
def popCode : Nat := 23

/-! ### Waiting at a descriptor (R379) -/

/-- The key of a descriptor. -/
def Map.descKey (m : Map) (va : Nat) : Nat := m.wordKey va

/-- Whether the current group may act at a descriptor: no group that arrived earlier waits there for the same. -/
def State.queueTurn (s : State) (key : Nat) (push : Bool) (g : Gid) : Bool :=
  match s.eng.queueWaits.find? (fun q => q.1 == key && q.2.1 == push) with
  | some q => q.2.2 == g
  | none => true

/-- Join the groups that wait at a descriptor. -/
def State.queueJoin (s : State) (key : Nat) (push : Bool) (g : Gid) : State :=
  if s.eng.queueWaits.contains (key, push, g) then s
  else { s with eng := { s.eng with queueWaits := s.eng.queueWaits ++ [(key, push, g)] } }

/-- Leave the groups that wait at a descriptor. -/
def State.queueLeave (s : State) (key : Nat) (push : Bool) (g : Gid) : State :=
  { s with eng := { s.eng with queueWaits := s.eng.queueWaits.filter fun q => q != (key, push, g) } }

/-- The issuing split stands before thread t of its instruction (R377, R378, R380): ST 1, RTID t. -/
def State.resumeAt (s : State) (t : Nat) (omask : Mask) : State :=
  { s with cur := { s.cur with sp := { s.cur.sp with st := 1, rtid := BitVec.ofNat 5 t, rem := omask } } }

/-- The issuing split waits before thread t of its instruction: the k threads below have issued and are charged (R152,
R377, R378, R380). -/
def State.pauseAt (s : State) (k t : Nat) (omask : Mask) (w : Wait) : State :=
  let s := if k = 0 then s else (s.charge k).occupy k
  (s.resumeAt t omask).stall w

/-- The end of a queue instruction whose threads `ok` have issued: the next instruction, or 0x09 at the first thread that
the budget does not cover (R153). -/
def State.queueDone (s : State) (x : Ord) (cost : Nat) (e ok : Mask) (omask : Mask) : State :=
  if ok = e then s.retire cost (lenOf x) e else (s.charge cost).exhausted (lowest (e &&& ~~~ok)) omask

/-- How a run over the threads of a queue instruction ended. -/
inductive QueueEnd where
  | done
  /-- a thread waits -/
  | wait (t : Nat)
  /-- a thread and those above it fault -/
  | fault (t : Nat) (cause : BitVec 8) (va : Nat)
  deriving DecidableEq, Repr

/-- Run one action per thread in ascending order, up to the first that waits or faults. -/
def queueRun (one : State → Nat → QueueRes × State) : List Nat → State → QueueEnd × State
  | [], s => (.done, s)
  | t :: l, s =>
    match one s t with
    | (.moved _, s) => queueRun one l s
    | (.wait, s) => (.wait t, s)
    | (.fault c va, s) => (.fault t c va, s)

/-- The frame of `qpush` and `qpop` past the handle (R376): the descriptor, its checks, then the threads in order. -/
def State.queueAct (s : State) (x : Ord) (push uniform : Bool) (h : Word) (one : Map → State → Nat → QueueRes × State)
    (onWait : Map → State → Nat → Option State) : State :=
  let e := s.cur.exec x.pred
  let om := s.cur.omask x.pred
  let ok := if uniform then e else s.affordable e
  let acting := if uniform then (threads e).take 1 else threads ok
  let cost := if uniform then 1 else max 1 (count ok)
  let va := handleAddr h
  let before := fun t => if uniform then 0 else (acting.filter (fun u => u < t)).length
  let faultAt := fun (s : State) (ts : List Nat) (c : BitVec 8) (a : Nat) =>
    let s := (s.charge cost).occupy cost
    s.trap (s.cur.memoryTrap (ts.map fun t => ⟨t, c, BitVec.ofNat 64 a⟩) 0x05 om s.cur.iw0)
  match s.translate (s.cur.acc true) (BitVec.ofNat 64 va) 64 64 with
  | (.error c, s) => faultAt s (if uniform then acting else threads e) c va
  | (.ok m, s) =>
    if m.space < 4 && (QDesc.of (leNat (s.mapBytes m va 64))).bad then s.refuse x.pred 0x0B
    else
      let key := m.descKey va
      if !s.queueTurn key push s.cur.id then
        (s.queueJoin key push s.cur.id).pauseAt 0 (acting.headD 0) om (.queue key push)
      else
        match queueRun (one m) acting s with
        | (.done, s) => (s.queueLeave key push s.cur.id).queueDone x cost e ok om
        | (.fault t c a, s) =>
          let ts := (if uniform then acting else threads e).filter (fun u => t ≤ u)
          faultAt (s.queueLeave key push s.cur.id) ts c a
        | (.wait t, s) =>
          match onWait m s t with
          | some s => (s.queueLeave key push s.cur.id).queueDone x cost e ok om
          | none =>
            if m.space < 4 then (s.queueJoin key push s.cur.id).pauseAt (before t) t om (.queue key push)
            else s.pauseAt (before t) t om .acquire

/-- A push or pop at a remote descriptor: the answer that has come, or a request that asks for it (R376, entry 21). The
answer stands in the split's waiter: its word tells whether the entry moved, its value is the entry. -/
def State.queueRemote (s : State) (m : Map) (va code : Nat) (x : Word) (t : Nat) (om : Mask) : QueueRes × State :=
  match s.waiterOf with
  | some w => (if w.word = 1 then .moved w.value else .wait, s.dropWaiter)
  | none =>
    if s.syncOut then (.wait, s)
    else (.wait, (s.request m va opAtomicRequest 1 (atomicPayload code 8 x 0) (.sync s.cur.slot true 0x05) 0 t om).2)

def execQpush (x : Ord) (s : State) : Out :=
  .next (s.named x.pred [x.a] fun s =>
    let e := s.cur.exec x.pred
    let h := Tab.getD s.cur.q (x.imm.toNat % 16) 0
    if e = 0 then s.retire 1 (lenOf x) e
    else if s.affordable e = 0 then s.exhausted (lowest e) (s.cur.omask x.pred)
    else if !handleOk h then s.refuse x.pred 0x0B
    else
      match (threads e).find? (fun t => s.cur.opd x.a t == BitVec.allOnes 64) with
      | some t =>
        let tr : Trap := { s.cur.wholeTrap 0x0B t with omask := s.cur.omask x.pred }
        ((s.charge 1).occupy 1).trap tr
      | none =>
        let s := s.releaseUnbound
        -- the push releases at fabric scope where either party stands on another module (R379)
        if s.unacknowledged s.cur.id then s.stall (.fence 4)
        else s.queueAct x true false h
          (fun m s t =>
            let v := s.cur.opd x.a t
            if m.space < 4 then s.queuePush (s.cur.acc true) m (handleAddr h) v
            else s.queueRemote m (handleAddr h) pushCode v t (s.cur.omask x.pred))
          (fun _ _ _ => none))

/-- Write D of a thread. -/
def State.writeD (s : State) (x : Ord) (t : Nat) (v : Word) : State :=
  match x.d with
  | .v n => { s with cur := s.cur.vset n (maskOf [t]) (fun _ => v) }
  | .g n => { s with cur := s.cur.gset n v }

def execQpop (fn : QpopFn) (x : Ord) (s : State) : Out :=
  .next (s.named x.pred [x.d] fun s =>
    let e := s.cur.exec x.pred
    let u := x.d.isG
    let h := Tab.getD s.cur.q (x.imm.toNat % 16) 0
    if e = 0 then s.retire 1 (lenOf x) e
    else if s.affordable e = 0 then s.exhausted (lowest e) (s.cur.omask x.pred)
    else if !handleOk h then s.refuse x.pred 0x0B
    else
      s.queueAct x false u h
        (fun m s t =>
          let r := if m.space < 4 then s.queuePop (s.cur.acc true) m (handleAddr h)
            else s.queueRemote m (handleAddr h) popCode 0 t (s.cur.omask x.pred)
          match r with
          | (.moved v, s) => (.moved v, (s.coreDrop (fun _ _ => true)).writeD x t v)
          | r => r)
        (fun m s t =>
          match fn with
          | .blocking => none
          | .try_ =>
            if 4 ≤ m.space && s.syncOut then none
            else
              let ts := if u then [t] else (threads (s.affordable e)).filter (fun i => t ≤ i)
              some (ts.foldl (fun s i => s.writeD x i (BitVec.allOnes 64)) s)))

/-! ### Pipeline emission (R158, R159, R161, R380) -/

/-- The stage record of the launch. -/
def State.stage? (s : State) (seq st : Nat) : Option Stage :=
  match s.launch? seq with
  | some l => Tab.get? st l.stages
  | none => none

/-- Append a record to a stage's queue. -/
def State.pushRecord (s : State) (seq st : Nat) (r : QRec) : State :=
  s.updLaunch seq fun l => { l with stages := Tab.update st (fun g => { g with queue := g.queue ++ [r] }) l.stages }

/-- Room in a stage's queue. -/
def Stage.roomFor (st : Stage) : Nat := st.cap - st.queue.length

/-- The records of the threads: thread t's at G[A] + t × RS (R380). -/
def State.recordOf (s : State) (off rs t : Nat) : List Byte := s.lsBytes (off + t * rs) rs

/-- The lowest thread whose record reaches the end of the group's program space or meets a system area (R220, R380). -/
def State.badRecord (s : State) (off rs : Nat) (ts : List Nat) : Option Nat :=
  ts.find? fun t =>
    s.cur.sysBase < off + t * rs + rs ||
      (match s.team? s.cur with
       | some tm => !tm.allows { s.cur with hand := none } (off + t * rs) rs
       | none => true)

/-- The checks 1 and 2 of R380, then what follows them. -/
def State.emitChecks (s : State) (x : Ord) (own : Bool) (run : State → Stage → Nat → State) : State :=
  s.named x.pred [x.d, x.a] fun s =>
    let e := s.cur.exec x.pred
    let st := x.imm.toNat % 16
    if e = 0 then s.retire 1 (lenOf x) e
    else if s.affordable e = 0 then s.exhausted (lowest e) (s.cur.omask x.pred)
    else
      match s.stage? s.cur.launch s.cur.stage, s.stage? s.cur.launch st with
      | some mine, some dst =>
        if (if own then st != s.cur.stage else !mine.outMask.testBit st) || st = 0 then s.refuse x.pred 0x0B
        else
          let off := (s.cur.common e x.a).toNat
          match s.badRecord off dst.recSize (threads e) with
          | some t =>
            let tr : Trap := { s.cur.wholeTrap 0x05 t with omask := s.cur.omask x.pred }
            ((s.charge 1).occupy 1).trap tr
          | none => run s dst off
      | _, _ => s.refuse x.pred 0x0B

/-- Send the records of threads while there is room. -/
def State.sendRecords (seq st off rs : Nat) : (n : Nat) → List Nat → State → List Nat × State
  | 0, l, s => (l, s)
  | _, [], s => ([], s)
  | n + 1, t :: l, s =>
    let r : QRec := ⟨s.recordOf off rs t, 0, s.clock.time⟩
    State.sendRecords seq st off rs n l (s.pushRecord seq st r)

/-- The first thread of a list whose record is not filled (R222), with the first atom that its record wants and the fill that failed
there, where one did. -/
def State.recordHole (s : State) (off rs : Nat) (ts : List Nat) : Option (Nat × Nat × Option FillFault) :=
  ts.findSome? fun t =>
    match s.holes (off + t * rs) rs [] with
    | [] => none
    | a :: l => some (t, a, s.cur.fillFaults.find? fun f => (a :: l).contains f.atom)

/-- A fill that failed under a record is a memory-class trap of the threads whose records are not sent (R222; entry 12). -/
def State.recordFault (s : State) (x : Ord) (cost : Nat) (ts : List Nat) (f : FillFault) : State :=
  let s := (s.dropFillFaults.charge cost).occupy cost
  s.trap (s.cur.memoryTrap (ts.map fun t => ⟨t, f.cause, f.addr⟩) 0x00 (s.cur.omask x.pred) s.cur.iw0)

def execEmit (x : Ord) (s : State) : Out :=
  .next (s.emitChecks x false fun s dst off =>
    let e := s.cur.exec x.pred
    let st := x.imm.toNat % 16
    let ok := s.affordable e
    let om := s.cur.omask x.pred
    let send := fun (ts : List Nat) (fin : State → State) =>
      match State.sendRecords s.cur.launch st off dst.recSize dst.roomFor ts s.releaseUnbound with
      | ([], s) => fin s
      | (t :: _, s) => s.pauseAt (ts.filter (fun u => u < t)).length t om (.stage s.cur.launch st)
    match s.recordHole off dst.recSize (threads ok) with
    | none => send (threads ok) fun s => (if ok = e then s.writeD x 0 0 else s).queueDone x (max 1 (count ok)) e ok om
    | some (_, a, none) => s.stall (.fill (blockOf a))
    | some (t, _, some f) =>
      send ((threads ok).filter fun u => u < t) fun s =>
        s.recordFault x (max 1 (count ok)) ((threads e).filter fun u => t ≤ u) f)

/-- Depth of the record that a thread runs for (R158). -/
def Group.depthOf (g : Group) (t : Nat) : Nat := g.depths.getD t 0

def execEmitRec (x : Ord) (s : State) : Out :=
  .next (s.emitChecks x true fun s dst off =>
    let e := s.cur.exec x.pred
    let st := x.imm.toNat % 16
    let n := max 1 (count e)
    if (threads e).any (fun t => s.cur.depthOf t == dst.depth) then
      match s.launch? s.cur.launch with
      | some l =>
        if l.p.strict then s.refuse x.pred 0x0C
        else
          let s := s.updLaunch s.cur.launch fun l => { l with depthX := min (l.depthX + 1) (2 ^ 32 - 1) }
          (s.writeD x 0 1).retire n (lenOf x) e
      | none => s.refuse x.pred 0x0B
    else if dst.roomFor < count e then (s.writeD x 0 2).retire n (lenOf x) e
    else
      match s.recordHole off dst.recSize (threads e) with
      | some (_, a, none) => s.stall (.fill (blockOf a))
      | some (_, _, some f) => s.recordFault x n (threads e) f
      | none =>
      let s := (threads e).foldl (fun s t => s.pushRecord s.cur.launch st
        ⟨s.recordOf off dst.recSize t, s.cur.depthOf t + 1, s.clock.time⟩) s.releaseUnbound
      (s.writeD x 0 0).retire n (lenOf x) e)

/-! ### Launches (R140, R381) -/

/-- A launch packet from its 512 bits (R140). -/
def packetOf (n : Nat) : Packet where
  entry := BitVec.ofNat 64 (field n 448 64)
  start := BitVec.ofNat 64 (field n 384 64)
  args := BitVec.ofNat 64 (field n 320 64)
  token := BitVec.ofNat 64 (field n 256 64)
  pipe := BitVec.ofNat 64 (field n 192 64)
  dl := field n 160 32
  bgt := field n 128 32
  gx := field n 112 16
  gy := field n 96 16
  gz := field n 88 8
  lsu := field n 76 12
  acct := field n 73 3
  regs := field n 71 2
  cls := field n 69 2
  dieMask := field n 65 4
  ncore := field n 59 6
  gsz := field n 56 3
  xq := field n 52 4
  mser := field n 36 16
  kib := field n 12 24
  notes := field n 8 4
  reserved := field n 4 4
  far := n.testBit 3
  tier := n.testBit 2
  trace := n.testBit 1
  strict := n.testBit 0

/-- A launch as it is presented to an arbiter (R163). -/
def newLaunch (seq part die : Nat) (from_ : Submitter) (p : Packet) : Launch where
  seq := seq
  part := part
  from_ := from_
  die := die
  p := p
  state := .submitted
  deadline := none
  overrun := false
  voided := false
  missMark := false
  noCap := false
  ended := false
  place := []
  nextGix := 0
  exited := 0
  binds := []
  vbinds := []
  stages := []
  depthX := 0
  skip := 0
  atoms := []
  deadlinePassed := false
  framed := false
  descGot := []

/-- Present a packet to the arbiter: it takes the next launch sequence number (R144). -/
def State.present (s : State) (part die : Nat) (from_ : Submitter) (p : Packet) : Nat × State :=
  (s.nextSeq, { s with
    launches := Tab.set s.nextSeq (newLaunch s.nextSeq part die from_ p) s.launches
    presented := s.presented ++ [s.nextSeq]
    nextSeq := s.nextSeq + 1 })

/-- The packet in eight group registers, lowest bits first (R381). -/
def Group.packetAt (g : Group) (a : Nat) : Nat :=
  ((List.range 8).map fun i => (g.gget (a + i)).toNat * 2 ^ (64 * i)).sum

def execLaunch (x : Ord) (s : State) : Out :=
  .next (s.uniformly x [] fun s =>
    s.named x.pred [x.d, x.a] fun s =>
    let a := x.a.code - 96
    let s := s.releaseUnbound
    let r := s.present s.cur.part s.cur.id.die (.group s.cur.id) (packetOf (s.cur.packetAt a))
    let id := r.2.fresh
    let s := id.2
    let op : Op := { s.opOf x.pred (lenOf x) 4 7 0 { Draft.none with kind := .status r.1 x.d.code } 0 [] with launch := s.cur.launch }
    let s := s.addOp id.1 op []
    ((if s.cur.sp.charged then s else s.charge 1).occupy 1).hold id.1)

/-! ### Register blocks (R171, R382) -/

/-- Whether the group holds an extended block. -/
def Group.holdsBlock (g : Group) (b : Nat) : Bool := if b = 0 then g.blk0 else g.blk1

/-- Hold or give up an extended block; its registers read zero afterwards (R171). -/
def Group.setBlock (g : Group) (b : Nat) (h : Bool) : Group :=
  let lo := 64 + 16 * b
  let g := { g with v := g.v.filter (fun (e : Nat × Row) => !(lo ≤ e.1 && e.1 < lo + 16)) }
  if b = 0 then { g with blk0 := h } else { g with blk1 := h }

def execRacq (x : Ord) (s : State) : Out :=
  .next (s.uniformly x [] fun s =>
    let b := x.imm.toNat % 2
    match s.team? s.cur with
    | none => s.refuse x.pred 0x02
    | some t =>
      if t.xq = 0 then s.refuse x.pred 0x02
      else if s.cur.holdsBlock b then s.done x []
      else if t.xqFree = 0 then s.await 1 .block
      else
        let s := s.updTeam s.cur fun t => { t with xqFree := t.xqFree - 1 }
        ({ s with cur := s.cur.setBlock b true }).done x [])

def execRrel (x : Ord) (s : State) : Out :=
  .next (s.uniformly x [] fun s =>
    let b := x.imm.toNat % 2
    if !s.cur.holdsBlock b then s.done x []
    else
      let s := s.updTeam s.cur fun t => { t with xqFree := t.xqFree + 1 }
      ({ s with cur := s.cur.setBlock b false }).done x [])

end Sys2Proof.Machine
end

