-- ==== Sys2Proof/Machine/Arbiter.lean ====
section
/-!
DEFINITION. The launch arbiter: packets and their checks (R140, R141, R157), the admission test (R147-R149), residency and
placement (R142-R146, R165), and the end of a launch (R162, R163).
-/

namespace Sys2Proof.Machine

open Sys2Proof

/-! ### Reads and writes of the units (R126, R216) -/

/-- The bytes a unit reads at the home, page by page; none where some byte cannot be read or meets poison. -/
def State.unitRead (s : State) (part : Nat) : (fuel va n : Nat) → Option (List Byte)
  | 0, _, _ => some []
  | fuel + 1, va, n =>
    if n = 0 then some []
    else
      let k := min n (4096 - va % 4096)
      match s.unitMap part va k false with
      | .error _ => none
      | .ok m =>
        if 4 ≤ m.space || s.poisoned m va k then none
        else
          match State.unitRead s part fuel (va + k) (n - k) with
          | some l => some (s.mapBytes m va k ++ l)
          | none => none

/-- The place of a unit of a die among the requesters at other modules: core 64. -/
def unitGid (die : Nat) : Gid := ⟨die, 64, 0, 0⟩

/-- Send a request of a unit for a partition to another module. -/
def State.unitRequest (s : State) (part die : Nat) (m : Map) (va : Nat) (op : BitVec 6) (payload : List Byte) (kind : RemoteKind) :
    State :=
  let tag := freeTag s.fabric.waiting 65536 s.fabric.nextTag
  let f := s.flit op (BitVec.ofNat 22 m.dev) m.rpart tag (m.phys va) 0 (requestPayload part payload)
  s.outstanding f
    { kind := kind, g := unitGid die, op := engKey, thread := 0, va := BitVec.ofNat 64 va, addr := m.phys va,
      dest := BitVec.ofNat 22 m.dev, issued := s.clock.cycle, write := op != opReadRequest, acq := none, iw0 := 0, omask := 0 }

/-- Write bytes for a unit, within one page and one block of 64 bytes: at the home, or by a flit at another module; nothing where the
page refuses it. -/
def State.unitWrite (s : State) (part va : Nat) (bs : List Byte) : State :=
  match s.unitMap part va bs.length true with
  | .error _ => s
  | .ok m =>
    if 4 ≤ m.space then s.unitRequest part 0 m va opWrite (bs ++ [0]) .store
    else (s.mapWrite m va bs).clearPoison (written bs.length [⟨0, BitVec.ofNat 64 va, m⟩])

/-! ### Packets (R141) -/

/-- The groups of a launch's grid (R140). -/
def Packet.groups (p : Packet) : Nat := p.gx * p.gy * p.gz

/-- Vector registers of a base set (R140). -/
def baseOf (regs : Nat) : Nat := 16 * (regs + 1)

/-- Whether a launch may use a die (R140: DIEMASK 0 is any). -/
def Packet.onDie (p : Packet) (die : Nat) : Bool := p.dieMask = 0 || p.dieMask.testBit die

/-- The cores a launch may use, in ascending order. -/
def State.coresFor (s : State) (part : Nat) (p : Packet) : List CoreId :=
  ((List.range 4).map fun d => ((List.range 48).map fun c => CoreId.mk d c)).flatten.filter fun c =>
    p.onDie c.die && (s.part part).cores.contains c

/-- What is malformed in the packet itself (R141). -/
def Packet.bad (p : Packet) : Bool :=
  p.entry.toNat % 4 != 0 || p.entry = 0 || p.token.toNat % 32 != 0 || p.gx = 0 || p.gy = 0 || p.gz = 0 || p.cls = 3
    || 4 < p.acct || p.gsz = 1 || p.gsz = 7 || 8 < p.xq || (p.cls = 0 && 8 < p.notes) || 48 < p.ncore || p.reserved != 0
    || 2048 < p.lsu || p.pipe.toNat % 64 != 0
    || (p.gsz != 0 && p.groups % p.gsz != 0) || (p.acct != 0) != (p.gsz != 0) || (p.cls = 0 && p.dl = 0)

/-! ### Pipelines (R157) -/

/-- A stage from its 256-bit descriptor. -/
def stageOf (n : Nat) : Stage where
  entry := BitVec.ofNat 64 (field n 192 64)
  pred := BitVec.ofNat 64 (field n 128 64)
  flush := field n 96 32
  bgt := field n 64 32
  outMask := field n 48 16
  cap := field n 36 12 + 1
  recSize := 16 * (field n 32 4 + 1)
  depth := field n 24 8
  lsu := field n 12 12
  regs := field n 10 2
  hit := n.testBit 9
  queue := []
  eligible := false
  join := 0
  formed := 0

/-- Stage 0: the grid of the packet. -/
def stageZero (p : Packet) (outMask : Nat) : Stage where
  entry := p.entry
  pred := 0
  flush := 0
  bgt := p.bgt
  outMask := outMask
  cap := 0
  recSize := 16
  depth := 0
  lsu := p.lsu
  regs := p.regs
  hit := false
  queue := []
  eligible := false
  join := 0
  formed := 0

/-- Whether OUTMASK of stage k names only later stages of n. -/
def outOk (k n mask : Nat) : Bool := (List.range 16).all fun j => !mask.testBit j || (k < j && j < n)

/-- What is wrong with stage k of n (R157). -/
def Stage.bad (st : Stage) (k n : Nat) : Bool :=
  !outOk k n st.outMask || (st.hit && st.recSize != 32) || st.lsu * 256 < 32 * st.recSize || st.entry = 0
    || st.entry.toNat % 4 != 0 || st.pred.toNat % 8 != 0 || 2048 < st.lsu

/-- Bytes of a launch's pipeline descriptor: at the home, or what another module has sent. -/
def State.descRead (s : State) (l : Launch) (va n : Nat) : Option (List Byte) :=
  match s.unitMap l.part va n false with
  | .ok m =>
    if m.space < 4 then s.unitRead l.part 2 va n
    else
      let byte := fun (a : Nat) => (l.descGot.find? fun e => e.1 == a / 64 * 64).bind fun e => e.2[a % 64]?
      (List.range n).mapM fun i => byte (va + i)
  | .error _ => s.unitRead l.part 2 va n

/-- The blocks of a launch's pipeline descriptor that lie in another module and have not been sent: of the header first, then of the
stages. -/
def State.descNeeds (s : State) (l : Launch) : List (Map × Nat) :=
  let p := l.p.pipe.toNat
  let far := fun (va : Nat) =>
    match s.unitMap l.part va 64 false with
    | .ok m => if m.space < 4 || l.descGot.any (fun e => e.1 == va) then none else some (m, va)
    | .error _ => none
  if p = 0 || p % 64 != 0 then []
  else
    match s.descRead l p 64 with
    | none => (far p).toList
    | some h => (List.range ((leNat h % 16 + 1) / 2)).filterMap fun i => far (p + 64 + 64 * i)

/-- The arbiter asks another module for blocks of a descriptor (R141). -/
def State.askDesc (s : State) (l : Launch) : State :=
  (s.descNeeds l).foldl (fun (s : State) e =>
    s.unitRequest l.part l.die e.1 e.2 opReadRequest [BitVec.ofNat 8 64] (.desc l.seq e.2)) s

/-- Whether blocks of a launch's descriptor are on their way. -/
def State.descOut (s : State) (seq : Nat) : Bool :=
  s.fabric.waiting.any fun (e : Nat × Remote) => match e.2.kind with | .desc q _ => q == seq | _ => false

/-- The stages that a launch's descriptor declares, or none where it is malformed or cannot be read (R141, R157). -/
def State.stagesOf (s : State) (l : Launch) : Option (Tab Stage) :=
  let p := l.p
  match s.descRead l p.pipe.toNat 64 with
  | none => none
  | some h =>
    let h := leNat h
    let n := field h 0 4 + 1
    if field h 20 492 != 0 || n < 2 || !outOk 0 n (field h 4 16) || 1 < ((List.range 4).filter p.dieMask.testBit).length then
      none
    else
      match s.descRead l (p.pipe.toNat + 64) (32 * (n - 1)) with
      | none => none
      | some bs =>
        let ds := (List.range (n - 1)).map fun i => leNat ((bs.drop (32 * i)).take 32)
        let sts := ds.map stageOf
        let bytes := (sts.map fun st => st.cap * st.recSize).sum
        if ds.any (fun d => field d 0 9 != 0) || sts.zipIdx.any (fun e => e.1.bad (e.2 + 1) n) || 2 ^ 20 < bytes then none
        else some ((0, stageZero p (field h 4 16)) :: sts.zipIdx.map fun e => (e.2 + 1, e.1))

/-! ### Loads of a lane (R147, R157) -/

/-- Whether a launch has its reservation: admitted and not complete (R149, R163). -/
def Launch.reserves (l : Launch) : Bool :=
  l.p.cls = 0 && (match l.state with | .submitted | .refused | .done => false | _ => true)

def Launch.isPipe (l : Launch) : Bool := !l.stages.isEmpty

/-- The largest LSU of the stages (R143). -/
def Launch.lmax (l : Launch) : Nat := l.stages.foldl (fun (m : Nat) (e : Nat × Stage) => max m e.2.lsu) l.p.lsu

/-- Bytes of one group's program space and of its whole area (R142, R143). -/
def Launch.space (l : Launch) : Nat := l.lmax * 256
def Launch.area (l : Launch) : Nat := l.space + 1024

/-- The stages above 0 with the groups that a guaranteed pipeline counts for each on a lane. -/
def Launch.counted (l : Launch) : List (Stage × Nat) :=
  (l.stages.filter fun (e : Nat × Stage) => e.1 != 0).map fun (e : Nat × Stage) => (e.2, (e.2.cap + 31) / 32)

/-- What a launch takes of a lane: groups, issue cycles and thread-registers. -/
structure Load where
  groups : Nat
  cycles : Nat
  regs : Nat
  deriving DecidableEq, Repr

/-- The load of a guaranteed launch on a lane of its placement. -/
def Launch.load (l : Launch) (k : Nat × Nat × Nat) : Load :=
  let n := l.place.count k
  let more := if l.isPipe && l.place.any (fun q => q.1 == k.1 && q.2.1 == k.2.1) then l.counted else []
  let groups := n + (more.map fun e => e.2).sum
  ⟨groups, n * l.p.bgt + (more.map fun e => e.1.bgt * e.2).sum,
    n * 32 * baseOf l.p.regs + (more.map fun e => 32 * baseOf e.1.regs * e.2).sum + (if groups = 0 then 0 else 512 * l.p.xq)⟩

/-- A fraction of natural numbers. -/
abbrev Frac : Type := Nat × Nat

def Frac.plus (a b : Frac) : Frac := (a.1 * b.2 + b.1 * a.2, a.2 * b.2)
def Frac.le (a b : Frac) : Bool := a.1 * b.2 ≤ b.1 * a.2

/-- PCOST of R147. -/
def pcost : Nat := 16200

/-- W of R147 in ns. -/
def Packet.waits (p : Packet) : Nat :=
  let b := if p.far then 3000 else if p.tier then 2800 else 1600
  p.mser * (b + 400 * p.notes) + ((p.dl + 9999999) / 10000000 + 1) * 2000

/-- A number of cycles over D(X) of R147, with D(X) above 0. -/
def Packet.over (p : Packet) (cycles : Nat) : Frac := (cycles * 10, (p.dl - p.waits) * 27)

/-- C / D of a launch on a lane; nothing where it has no group there, or draws on a frame reservation. -/
def Launch.share (l : Launch) (k : Nat × Nat × Nat) : Frac :=
  let d := l.load k
  if d.groups = 0 || l.framed then (0, 1) else l.p.over (d.cycles + pcost)

/-- The reservation of a context on its core, per lane (R128, R147). -/
def Ctx.share (c : Ctx) (k : Nat × Nat × Nat) : Frac :=
  if c.valid && c.period != 0 && c.place == some ⟨k.1, k.2.1⟩ then (((c.fbgt + 63) / 64 + pcost) * 10, c.fdl * 27)
  else (0, 1)

/-- The utilisation of a lane by what is admitted. -/
def State.laneUse (s : State) (k : Nat × Nat × Nat) : Frac :=
  let a := (s.launches.filter fun (e : Nat × Launch) => e.2.reserves).foldl
    (fun (u : Frac) (e : Nat × Launch) => u.plus (e.2.share k)) (0, 1)
  s.host.ctxs.foldl (fun (u : Frac) (e : Nat × Ctx) => u.plus (e.2.share k)) a

/-- The largest lane utilisation of a core. -/
def State.coreUse (s : State) (c : CoreId) : Frac :=
  (List.range 64).foldl (fun (m : Frac) n => let u := s.laneUse (c.die, c.core, n); if m.le u then u else m) (0, 1)

/-- Insert in ascending order of a measure, after its equals. -/
def insertBy (x : Frac × CoreId) : List (Frac × CoreId) → List (Frac × CoreId)
  | [] => [x]
  | y :: l => if y.1.le x.1 then y :: insertBy x l else x :: y :: l

/-- The cores in the order in which the arbiter tries them (R149). -/
def State.coreOrder (s : State) (l : List CoreId) : List CoreId :=
  (l.foldl (fun acc c => insertBy (s.coreUse c, c) acc) []).map fun e => e.2

/-! ### The admission test (R147, R148) -/

/-- Bytes of local store that a guaranteed launch takes of a core. -/
def Launch.lsOn (l : Launch) (die core : Nat) : Nat :=
  ((List.range 64).map fun n => (l.load (die, core, n)).groups).sum * l.area

/-- Tiles that a guaranteed launch takes of a quad. -/
def Launch.tilesOn (l : Launch) (die core quad : Nat) : Nat :=
  ((List.range 16).map fun n => (l.load (die, core, 16 * quad + n)).groups).sum * l.p.acct

/-- The lane test, with the launch on its placement among those admitted. -/
def State.laneOk (s : State) (l : Launch) (k : Nat × Nat × Nat) : Bool :=
  let all := l :: (s.launches.filter fun (e : Nat × Launch) => e.2.reserves && e.1 != l.seq).map fun e => e.2
  ((s.laneUse k).plus (l.share k)).le (9, 10)
    && (all.map fun y => (y.load k).groups).sum ≤ 8
    && (all.map fun y => (y.load k).regs).sum ≤ 4096
    && (all.map fun y => y.lsOn k.1 k.2.1).sum ≤ 512 * 1024
    && (all.map fun y => y.tilesOn k.1 k.2.1 (k.2.2 / 16)).sum ≤ 48

/-- The channels on which a partition owns slots, with their number (R125, R148). -/
def Part.channels (p : Part) : List (Nat × Nat) :=
  let ks := (p.slots.filter (fun e => e.2.2 != 0)).map fun e => e.1 * 128 + e.2.1
  ks.eraseDups.map fun k =>
    (k, ((p.slots.filter fun e => e.1 * 128 + e.2.1 == k).map fun e => popCount 51 e.2.2).sum)

/-- The charge of a launch to each of n channels (R148). -/
def Packet.charge (p : Packet) (n : Nat) : Frac := (p.groups * p.kib * 32 * 10, n * p.dl * 16)

/-- The channel test. -/
def State.channelOk (s : State) (part : Nat) (p : Packet) : Bool :=
  let cs := (s.part part).channels
  if p.kib = 0 then true
  else if cs.isEmpty then false
  else
    let others := s.launches.filter fun (e : Nat × Launch) => e.2.reserves && e.2.part == part
    let sum := others.foldl (fun (u : Frac) (e : Nat × Launch) => u.plus (e.2.p.charge cs.length)) (p.charge cs.length)
    sum.le (8, 10) && cs.all fun c => sum.le (c.2, 64)

/-- The lane of each group on the chosen cores: round-robin in ascending index, a gang on one quad (R147). -/
def assign (cores : List CoreId) (p : Packet) : List (Nat × Nat × Nat) :=
  let n := cores.length
  (List.range p.groups).map fun i =>
    if p.gsz = 0 then
      let c := cores.getD (i / 64 % n) ⟨0, 0⟩
      (c.die, c.core, i % 64)
    else
      let k := i / p.gsz
      let q := k % (4 * n)
      let c := cores.getD (q / 4) ⟨0, 0⟩
      (c.die, c.core, 16 * (q % 4) + (k / (4 * n) * p.gsz + i % p.gsz) % 16)

/-- At most NCORE cores of each die, and one die for a pipeline (R140, R157). -/
def pickCores (p : Packet) (pipe : Bool) : (n : Nat) → List CoreId → List CoreId → List CoreId
  | 0, _, acc => acc
  | _, [], acc => acc
  | n + 1, c :: l, acc =>
    if (p.ncore != 0 && p.ncore ≤ (acc.filter fun d => d.die == c.die).length)
        || (pipe && acc.any fun d => d.die != c.die) then pickCores p pipe (n + 1) l acc
    else pickCores p pipe n l (acc ++ [c])

/-- The lanes on which a launch has load. -/
def Launch.lanes (l : Launch) : List (Nat × Nat × Nat) :=
  if l.isPipe then
    ((l.place.map fun q => (q.1, q.2.1)).eraseDups.map fun c => (List.range 64).map fun n => (c.1, c.2, n)).flatten
  else l.place.eraseDups

/-- Whether a core passes as the j-th of the n cores of a launch. What the launch puts on it depends on no other of them. -/
def State.coreOk (s : State) (l : Launch) (n j : Nat) (c : CoreId) : Bool :=
  let l' := { l with place := assign ((List.replicate n (CoreId.mk 4 0)).set j c) l.p }
  (l'.lanes.filter fun k => k.1 == c.die && k.2.1 == c.core).all (s.laneOk l')

/-- The first cores of a list that pass, in its order, for the places from j on (R149). -/
def State.passing (s : State) (l : Launch) (n : Nat) : List CoreId → List CoreId → List CoreId
  | [], acc => acc
  | c :: rest, acc =>
    if acc.length = n then acc
    else if (l.p.ncore != 0 && l.p.ncore ≤ (acc.filter fun d => d.die == c.die).length)
        || (l.isPipe && acc.any fun d => d.die != c.die) || !s.coreOk l n acc.length c then State.passing s l n rest acc
    else State.passing s l n rest (acc ++ [c])

/-- The first placement that passes: the fewest cores, then the order of R149 (entry 25). -/
def State.findPlace (s : State) (l : Launch) : Option (List (Nat × Nat × Nat)) :=
  let order := s.coreOrder (s.coresFor l.part l.p)
  if l.p.dl ≤ l.p.waits || !s.channelOk l.part l.p then none
  else
    (List.range order.length).findSome? fun n =>
      (List.range order.length).findSome? fun i =>
        let cs := s.passing l (n + 1) (order.drop i) []
        if cs.length != n + 1 then none
        else
          let l' := { l with place := assign cs l.p }
          if l'.lanes.all (s.laneOk l') then some l'.place else none

/-! ### LAUNCH_ADMISSION (R128, R141, R144, R149, R163) -/

/-- Signal an MSI-X vector of a function; 512 is the PF (R119). -/
def State.msix (s : State) (fn vector : Nat) : State :=
  { s with host := { s.host with msix := s.host.msix ++ [(fn, vector)] } }

/-- Write host memory at an I/O virtual address. -/
def State.hostWrite (s : State) (a : Nat) (bs : List Byte) : State :=
  { s with host := { s.host with mem := s.host.mem.putBytes a bs } }

/-- The status goes to the submitter: the destination of the `launch`, or the ring's status entry, after which HEAD moves
and MSIX is signalled (R130, R149). -/
def State.statusTo (s : State) (seq code : Nat) : State :=
  match s.launch? seq with
  | none => s
  | some l =>
    match l.from_ with
    | .group _ =>
      match s.eng.ops.find? (fun (e : Nat × Op) => match e.2.kind with | .status q _ => q == seq | _ => false) with
      | none => s
      | some (id, op) =>
        let reg := match op.kind with | .status _ r => r | _ => 0
        let op := { op with writes := [⟨0, reg, BitVec.ofNat 64 code⟩] }
        ({ s with eng := { s.eng with ops := Tab.set id op s.eng.ops } }).finishOp id
    | .ring c =>
      match Tab.get? c s.host.ctxs with
      | none => s
      | some x =>
        let at_ := x.statBase.toNat + 8 * (x.head.toNat % 2 ^ x.rsize)
        let s := s.hostWrite at_ (leBytes 8 (code + seq % 2 ^ 32 * 2 ^ 32))
        let s := { s with host := { s.host with
          ctxs := Tab.update c (fun x => { x with head := x.head + 1 }) s.host.ctxs
          pendingRing := s.host.pendingRing.filter fun k => k != c } }
        s.msix x.vf x.msix

/-- The absolute deadline of a frame: periods are counted from device time 0 (entry 26). -/
def Ctx.frameDeadline (c : Ctx) (now : Nat) : Nat := now / c.period * c.period + c.fdl

/-- Draw a launch's budget from the reservation of the frame in which it starts, where it covers it (R128, entry 26): the context with
the budget of every stage drawn. -/
def Ctx.draw (c : Ctx) (l : Launch) (now start : Nat) : Option Ctx :=
  let used := Tab.getD c.drawn (start / c.period) 0
  let need := (l.lanes.map fun k => (l.load k).cycles).sum
  let kept := c.drawn.filter fun (e : Nat × Nat) => now / c.period ≤ e.1
  if used + need ≤ c.fbgt then some { c with drawn := Tab.set (start / c.period) (used + need) kept } else none

/-- A launch is admitted: it becomes active, or is held until START (R144, R163). -/
def Launch.admitted (l : Launch) (now : Nat) (deadline : Option Nat) : Launch :=
  { l with
    state := if now < l.p.start.toNat then .held else .active
    deadline := deadline.map (BitVec.ofNat 64) }

/-- What the arbiter decides on a guaranteed launch: its placement, its deadline, and the context it draws on. -/
def State.admission (s : State) (l : Launch) : Option (Launch × State) :=
  let now := s.clock.time.toNat
  let own := max l.p.start.toNat now + l.p.dl
  let ctx := match l.from_ with
    | .ring c => (Tab.get? c s.host.ctxs).bind fun x => if x.valid && x.period != 0 then some (c, x) else none
    | .group _ => none
  match ctx with
  | some (c, x) =>
    let dl := min own (x.frameDeadline (max l.p.start.toNat now))
    let drawn := x.place.bind fun core =>
      let l' := { l with framed := true, place := assign [core] l.p }
      if l.p.dl ≤ l.p.waits || !(s.coresFor l.part l.p).contains core || !s.channelOk l.part l.p || !l'.lanes.all (s.laneOk l') then none
      else (x.draw l' now (max l.p.start.toNat now)).map fun x' => (l', x')
    match drawn with
    | some (l', x') =>
      some (l'.admitted now (some dl), { s with host := { s.host with ctxs := Tab.set c x' s.host.ctxs } })
    | none => (s.findPlace l).map fun pl => ({ l with place := pl }.admitted now (some dl), s)
  | none => (s.findPlace l).map fun pl => ({ l with place := pl }.admitted now (some own), s)

/-- The decision on a presented launch: its status code, and the state with the launch in its next state. -/
def State.decide (s : State) (l : Launch) : Nat × State :=
  let set := fun (s : State) (l : Launch) => { s with launches := Tab.set l.seq l s.launches }
  let refuse := fun (code : Nat) => (code, set s { l with state := .refused })
  if l.p.bad || (s.coresFor l.part l.p).isEmpty then refuse 2
  else
    match (if l.p.pipe = 0 then some [] else s.stagesOf l) with
    | none => refuse 2
    | some sts =>
      let l := { l with stages := sts }
      if (s.part l.part).dry != .running then refuse 1
      else if l.p.cls = 0 then
        match s.admission l with
        | none => refuse 1
        | some (l, s) => (0, set s l)
      else (0, set s (l.admitted s.clock.time.toNat none))

/-- Whether arbiters work: open after reset (R35), and the module neither halted nor locked (R139). -/
def State.arbitrating (s : State) : Bool :=
  s.clock.open_ && (match s.sec.state with | .halted | .locked => false | _ => true)

def execLaunchAdmission (s : State) : Out :=
  .next (
    match s.presented with
    | [] => s
    | seq :: rest =>
      if !s.arbitrating || s.descOut seq then s
      else
        match s.launch? seq with
        | none => { s with presented := rest }
        | some l =>
          if !(s.descNeeds l).isEmpty then s.askDesc l
          else
            let r := { s with presented := rest }.decide l
            r.2.statusTo seq r.1)

/-- LAUNCH_START (R144): a held launch becomes active when device time reaches START, unless its partition is in drydown. -/
def execLaunchStart (seq : Nat) (s : State) : Out :=
  .next (
    match s.launch? seq with
    | none => s
    | some l =>
      if l.state == .held && l.p.start.toNat ≤ s.clock.time.toNat && (s.part l.part).dry == .running && s.arbitrating then
        s.updLaunch seq fun l => { l with state := .active }
      else s)

/-! ### Residency (R146, R147, R165) -/

/-- The resident groups of a lane. -/
def State.onLane (s : State) (k : Nat × Nat × Nat) : List Group :=
  s.groups.filter fun g => g.id.die == k.1 && g.id.core == k.2.1 && g.id.lane == k.2.2

/-- Whether the arbiter may place groups on a core: the partition owns it and it is not being substituted (R21, R146). -/
def State.placeable (s : State) (part die core : Nat) : Bool :=
  (s.part part).cores.contains ⟨die, core⟩ && !(Tab.getD s.ctl.subst die []).any fun x => x.core == core

/-- What one launch holds of a lane: the larger of its reservation and its residents (R145, R155). -/
def State.held (s : State) (k : Nat × Nat × Nat) (l : Launch) : Load :=
  let mine := (s.onLane k).filter fun g => g.launch == l.seq
  let now : Load := ⟨mine.length, 0, (mine.map fun g => 32 * g.base).sum + (if mine.isEmpty then 0 else 512 * l.p.xq)⟩
  if l.reserves then let r := l.load k; ⟨max r.groups now.groups, 0, max r.regs now.regs⟩ else now

/-- The launches other than one that hold or reserve residency. -/
def State.others (s : State) (seq : Nat) : List Launch :=
  (s.launches.filter fun (e : Nat × Launch) => e.1 != seq).map fun e => e.2

/-- Local store of a core that the launches other than one hold or have reserved. -/
def State.lsHeld (s : State) (die core seq : Nat) : Nat :=
  let resident := fun (t : Team) => s.groups.any fun g => t.has g
  ((s.others seq).map fun l =>
    let now := ((s.teams.filter fun t => t.die == die && t.core == core && t.launch == l.seq && resident t).map
      fun t => t.size).sum
    if l.reserves then max now (l.lsOn die core) else now).sum

/-- Local store of a core that the teams of a launch hold. -/
def State.lsOwn (s : State) (die core seq : Nat) : Nat :=
  ((s.teams.filter fun t => t.die == die && t.core == core && t.launch == seq).map fun t => t.size).sum

/-- Tiles of a quad in use. -/
def State.tilesHeld (s : State) (die core quad : Nat) : Nat :=
  ((s.groups.filter fun g => g.id.die == die && g.id.core == core && g.id.lane / 16 == quad).map fun g => g.acct).sum

/-- The team of a launch on a lane. -/
def State.teamOn (s : State) (k : Nat × Nat × Nat) (seq : Nat) : Option Team :=
  s.teams.find? fun t => t.die == k.1 && t.core == k.2.1 && t.lane == k.2.2 && t.launch == seq

/-- The lowest of a number of areas that is not in use. -/
def freeArea (used : List Nat) (area n : Nat) : Option Nat :=
  ((List.range n).map fun i => i * area).find? fun a => !used.contains a

/-- The first offset behind the areas of a plain team that are in use: its groups' program spaces stand in ascending `%gix`
(R219). -/
def Team.top (t : Team) : Nat := t.used.foldl (fun m a => max m (a + t.area)) 0

/-- The areas that a pipeline's team gets on a lane (R143): the groups that the lane can then hold, reduced until they fit
in the core's free local store; of a guaranteed pipeline, those it has reserved. -/
def State.pipeAreas (s : State) (l : Launch) (k : Nat × Nat × Nat) : Nat :=
  if l.reserves then (l.load k).groups
  else
    let free := 512 * 1024 - s.lsHeld k.1 k.2.1 l.seq - s.lsOwn k.1 k.2.1 l.seq
    min (8 - (s.onLane k).length) (free / l.area)

/-- Whether local store allows one more group of a launch on a lane (R143, R147). -/
def State.lsFits (s : State) (l : Launch) (k : Nat × Nat × Nat) (more : Nat) : Bool :=
  match s.teamOn k l.seq with
  | some t =>
    if l.isPipe then (freeArea t.used t.area (t.size / t.area)).isSome
    else
      s.lsHeld k.1 k.2.1 l.seq + s.lsOwn k.1 k.2.1 l.seq + (max t.size (t.top + l.area) - t.size) + more * l.area ≤ 512 * 1024
  | none =>
    if l.isPipe then 0 < s.pipeAreas l k
    else s.lsHeld k.1 k.2.1 l.seq + s.lsOwn k.1 k.2.1 l.seq + (more + 1) * l.area ≤ 512 * 1024

/-- Whether a lane has a slot and the register entries for one more group of a launch (R147). -/
def State.laneFits (s : State) (l : Launch) (base : Nat) (k : Nat × Nat × Nat) : Bool :=
  let hs := (s.others l.seq).map (s.held k)
  let mine := (s.onLane k).filter fun g => g.launch == l.seq
  (s.onLane k).length < 8
    && (hs.map fun h => h.groups).sum + mine.length + 1 ≤ 8
    && (hs.map fun h => h.regs).sum + (mine.map fun g => 32 * g.base).sum + 32 * base + 512 * l.p.xq ≤ 4096

/-- Whether the quad of a lane has the tiles of n groups of a launch (R165). -/
def State.tilesFit (s : State) (l : Launch) (k : Nat × Nat × Nat) (n : Nat) : Bool :=
  s.tilesHeld k.1 k.2.1 (k.2.2 / 16) + n * l.p.acct ≤ 48

/-- Whether a lane can take one more group of a launch (R147, R165), beside `more` groups that go to other lanes of its
core at once. -/
def State.canTake (s : State) (l : Launch) (base more : Nat) (k : Nat × Nat × Nat) : Bool :=
  s.placeable l.part k.1 k.2.1 && s.laneFits l base k && s.tilesFit l k (more + 1) && s.lsFits l k more

/-- The lanes that a launch's cores offer (R146): cores it already uses, then further ones in ascending order among those
with a lane that can take a group, at most NCORE of a die; a pipeline keeps to one die. -/
def State.lanesFor (s : State) (l : Launch) (base : Nat) : List (Nat × Nat × Nat) :=
  let lanesOf := fun (c : CoreId) => (List.range 64).map fun n => (c.die, c.core, n)
  let used := (l.place.map fun q => CoreId.mk q.1 q.2.1).eraseDups
  let more := (s.coresFor l.part l.p).filter fun c => !used.contains c && (lanesOf c).any (s.canTake l base 0)
  let all := (pickCores l.p l.isPipe (192 - used.length) more used)
  let sorted := (List.range 256).filterMap fun i => all.find? fun c => c.die * 64 + c.core == i
  (sorted.map lanesOf).flatten

/-- The lane with the fewest resident groups, the first of equals. -/
def State.fewest (s : State) : List (Nat × Nat × Nat) → Option (Nat × Nat × Nat)
  | [] => none
  | k :: l =>
    match State.fewest s l with
    | none => some k
    | some j => if (s.onLane j).length < (s.onLane k).length then some j else some k

/-- The first quad of a list of lanes with n lanes that can take a gang: its n lowest (R146). -/
def State.quadFor (s : State) (l : Launch) (base n : Nat) (ks : List (Nat × Nat × Nat)) : Option (List (Nat × Nat × Nat)) :=
  let quads := (ks.map fun k => (k.1, k.2.1, k.2.2 / 16)).eraseDups
  quads.findSome? fun q =>
    let ok := ks.filter fun k => (k.1, k.2.1, k.2.2 / 16) == q && s.canTake l base (n - 1) k
    if n ≤ ok.length then some (ok.take n) else none

/-- The lanes of a launch's next groups: one, or a gang's (R146, R147); of a guaranteed launch those of its placement. -/
def State.nextLanes (s : State) (l : Launch) : Option (List (Nat × Nat × Nat)) :=
  let n := max 1 l.p.gsz
  let base := baseOf l.p.regs
  if l.p.cls = 0 then
    let ks := (l.place.drop l.nextGix).take n
    if ks.all (s.canTake l base (n - 1)) then some ks else none
  else if l.p.gsz = 0 then
    (s.fewest ((s.lanesFor l base).filter (s.canTake l base 0))).map fun k => [k]
  else s.quadFor l base n (s.lanesFor l base)

/-! ### Dispatch (R142, R143, R156) -/

/-- The lowest free resident slot of a lane. -/
def State.freeSlot (s : State) (k : Nat × Nat × Nat) : Nat :=
  ((List.range 8).find? fun n => !(s.onLane k).any fun g => g.id.slot == n).getD 0

/-- A new group's area: of a pipeline's team the lowest free one, else the one behind those in use (R143, R219); the team comes with
its first group. -/
def State.takeArea (s : State) (l : Launch) (k : Nat × Nat × Nat) : Nat × State :=
  match s.teamOn k l.seq with
  | none =>
    let size := if l.isPipe then s.pipeAreas l k * l.area else l.area
    let t : Team :=
      { die := k.1, core := k.2.1, lane := k.2.2, launch := l.seq, ls := [], size := size, area := l.area, used := [0],
        maps := [], bars := [], xqFree := l.p.xq, xq := l.p.xq }
    (0, { s with teams := s.teams ++ [t] })
  | some t =>
    let a := if l.isPipe then (freeArea t.used t.area (t.size / t.area)).getD t.size else t.top
    (a, { s with teams := s.teams.map fun u =>
      if u.die == t.die && u.core == t.core && u.lane == t.lane && u.launch == t.launch then
        { u with used := a :: u.used, size := max u.size (a + u.area) } else u })

/-- A group as it starts (R142): `g0` holds ARGS, every other register is zero. -/
def startGroup (l : Launch) (id : Gid) (gix stage lsb : Nat) (st : Stage) (m : Mask) (depths : List Nat) (cycle : Nat) : Group :=
  { Group.empty with
    id := id, live := true, launch := l.seq, part := l.part, gix := gix, stage := stage, base := baseOf st.regs
    g := if l.p.args = 0 then [] else [(0, l.p.args)]
    acct := l.p.acct
    sp := { Split.empty with mask := m, pc := st.entry.setWidth 48, age := cycle }
    spLive := true
    bgt := if l.overrun then 0 else BitVec.ofNat 64 st.bgt
    dl := l.deadline.getD (BitVec.allOnes 64)
    lsb := lsb, lsize := l.space, scrb := l.space, depths := depths
    trc := { Trace.empty with on := l.p.trace, wantSync := l.p.trace, syncCycle := cycle, last := cycle } }

/-- The first instruction of a group acquires what its launch or its records released (R237). -/
def State.acquireUnbound (s : State) (die core : Nat) : State := s.dropClean die core fun _ _ => true

/-- Make a group resident. -/
def State.enter (s : State) (g : Group) : State := { s with rest := s.rest ++ [g] }

/-- Place the next grid groups of a launch on their lanes; the members of a gang name each other (R183). -/
def State.place (s : State) (l : Launch) (ks : List (Nat × Nat × Nat)) : State :=
  let ids := ks.map fun k => Gid.mk k.1 k.2.1 k.2.2 (s.freeSlot k)
  let gang := if l.p.gsz = 0 then [] else ids.map fun i => (i.lane % 16, i.slot)
  let st := stageZero l.p 0
  let s := ids.zipIdx.foldl (fun (s : State) e =>
    let k := (e.1.die, e.1.core, e.1.lane)
    let a := s.takeArea l k
    let g := startGroup l e.1 (l.nextGix + e.2) 0 a.1 st (BitVec.allOnes 32) [] s.clock.cycle
    (a.2.enter { g with gangPos := e.2, gang := gang }).acquireUnbound k.1 k.2.1) s
  s.updLaunch l.seq fun x =>
    { x with nextGix := x.nextGix + ks.length, place := if x.p.cls = 0 then x.place else (x.place ++ ks).eraseDups }

/-! ### Pipelines (R143, R158-R160, R422) -/

/-- Room below three quarters of the capacity in every queue that a stage may emit to (R159). -/
def Launch.outOpen (l : Launch) (st : Stage) : Bool :=
  l.stages.all fun (e : Nat × Stage) => !st.outMask.testBit e.1 || 4 * e.2.queue.length < 3 * e.2.cap

/-- Whether a stage has finished (R159). -/
def State.stageDone (s : State) (l : Launch) (k : Nat) : Bool :=
  !((s.groups ++ s.saved).any fun g => g.launch == l.seq && g.stage == k)
    && (match Tab.get? k l.stages with | some st => st.queue.isEmpty | none => true)
    && (k != 0 || l.p.groups ≤ l.nextGix)

/-- Whether the head record of a stage has waited FLUSH ns (R159). -/
def Stage.flushed (st : Stage) (now : Word) : Bool :=
  st.flush != 0 && (match st.queue with | r :: _ => r.arrived.toNat + st.flush ≤ now.toNat | [] => false)

/-- Whether a stage meets the conditions of R159. -/
def State.stageOpen (s : State) (l : Launch) (k : Nat) (st : Stage) : Bool :=
  k != 0 && (l.state == .active || l.state == .draining) && !st.queue.isEmpty
    && (st.cap ≤ 2 * st.queue.length || st.flushed s.clock.time
      || l.stages.all fun (e : Nat × Stage) => e.1 == k || !e.2.outMask.testBit k || s.stageDone l e.1)
    && l.outOpen st

/-- Records that leave the head of a stage's queue. -/
def State.popRecords (s : State) (seq k n : Nat) : State :=
  s.updLaunch seq fun l => { l with stages := Tab.update k (fun st => { st with queue := st.queue.drop n }) l.stages }

/-- Set the mark of a stage that is eligible, with the records that its group may take (R160). -/
def State.setEligible (s : State) (seq k : Nat) (b : Bool) (join : Nat) : State :=
  s.updLaunch seq fun l => { l with stages := Tab.update k (fun st => { st with eligible := b, join := join }) l.stages }

/-- The predicate word of a stage; an unreadable word reads zero (R160). -/
def State.predOf (s : State) (part : Nat) (st : Stage) : Bool :=
  st.pred = 0 || (match s.unitRead part 2 st.pred.toNat 8 with | some bs => leNat bs != 0 | none => false)

/-- The instant at which a stage becomes eligible (R160): its predicate word is read once; on zero the records that would
have formed a group are discarded and counted in SKIP. -/
def State.becomeEligible (s : State) (l : Launch) (k : Nat) (st : Stage) : State :=
  if s.predOf l.part st then s.setEligible l.seq k true (if st.pred = 0 then 32 else st.queue.length)
  else
    let n := min 32 st.queue.length
    (s.popRecords l.seq k n).updLaunch l.seq fun l => { l with skip := min (l.skip + n) (2 ^ 24 - 1) }

/-- Whether a die has formed a group of a stage in this cycle (R422). -/
def State.formedNow (s : State) (die : Nat) : Bool :=
  s.launches.any fun (e : Nat × Launch) => e.2.die == die && e.2.stages.any fun (x : Nat × Stage) =>
    x.1 != 0 && x.2.formed == s.clock.cycle + 1

/-- The lane that takes a group of a stage: the fewest resident groups, then the lower number (R422). -/
def State.stageLane (s : State) (l : Launch) (st : Stage) : Option (Nat × Nat × Nat) :=
  let ks := if l.p.cls = 0 then l.lanes else s.lanesFor l (baseOf st.regs)
  s.fewest (ks.filter (s.canTake l (baseOf st.regs) 0))

/-- Form a group of a stage from the records at the head of its queue (R158, R160, R422). The index of such a group is a free
value (entry 4). -/
def State.formGroup (s : State) (l : Launch) (k : Nat) (st : Stage) (lane : Nat × Nat × Nat) : State :=
  let recs := st.queue.take (min 32 st.join)
  let n := recs.length
  let id : Gid := ⟨lane.1, lane.2.1, lane.2.2, s.freeSlot lane⟩
  let a := s.takeArea l lane
  let g := startGroup l id (Config.freeChoice s.free % 2 ^ 32) k a.1 st (maskWhere fun t => t < n)
    (recs.map fun r => r.depth) s.clock.cycle
  let s := { a.2.enter g with free := s.free + 1 }
  let s := s.updTeam g fun t =>
    { t with ls := recs.zipIdx.foldl (fun m e => m.putBytes (a.1 + e.2 * st.recSize) e.1.bytes) t.ls }
  let s := (s.popRecords l.seq k n).acquireUnbound lane.1 lane.2.1
  s.updLaunch l.seq fun l =>
    { l with
      stages := Tab.update k (fun st => { st with eligible := false, formed := s.clock.cycle + 1 }) l.stages
      place := if l.p.cls = 0 then l.place else (l.place ++ [lane]).eraseDups }

/-- A stage's group formation, with its eligibility decided first where it is not yet (R159, R160, R422). -/
def State.formStage (s : State) (seq k : Nat) : State :=
  match s.launch? seq, s.stage? seq k with
  | some l, some st =>
    if !s.arbitrating || (s.part l.part).dry != .running then s
    else if !s.stageOpen l k st then s.setEligible seq k false 0
    else if !st.eligible then s.becomeEligible l k st
    else if s.formedNow l.die then s
    else
      match s.stageLane l st with
      | some lane => s.formGroup l k st lane
      | none => s
  | _, _ => s

def execStageGroupFormation (seq stage : Nat) (s : State) : Out := .next (s.formStage seq stage)

/-- FLUSH_TIMEOUT (R159): a head record that has waited FLUSH ns makes its stage eligible. -/
def execFlushTimeout (seq stage : Nat) (s : State) : Out :=
  .next (
    match s.launch? seq, s.stage? seq stage with
    | some l, some st =>
      if s.arbitrating && (s.part l.part).dry == .running && st.flushed s.clock.time && !st.eligible
          && s.stageOpen l stage st then
        s.becomeEligible l stage st
      else s
    | _, _ => s)

/-- Whether stage 0 may dispatch: it is eligible, and no other stage with records stands before it (R159). -/
def State.gridTurn (s : State) (l : Launch) : Bool :=
  match Tab.get? 0 l.stages with
  | none => true
  | some st => l.outOpen st && !l.stages.any fun (e : Nat × Stage) =>
      e.1 != 0 && !e.2.queue.isEmpty && s.stageOpen l e.1 e.2

/-- GROUP_DISPATCH (R146): a waiting group, or a gang, goes to the lane that the placement rule gives. -/
def execGroupDispatch (seq : Nat) (s : State) : Out :=
  .next (
    match s.launch? seq with
    | none => s
    | some l =>
      if l.state == .active && l.nextGix < l.p.groups && s.arbitrating && (s.part l.part).dry == .running
          && s.gridTurn l then
        match s.nextLanes l with
        | some ks => s.place l ks
        | none => s
      else s)

/-! ### The end of a launch (R154, R162, R163, R439) -/

def execLaunchEnd (seq : Nat) (s : State) : Out :=
  .next (
    match s.launch? seq with
    | none => s
    | some l =>
      match l.state with
      | .held | .active | .draining => s.endLaunch seq
      | _ => s)

/-- Whether commands, draws, rays or their records of a launch remain. -/
def State.workRemains (s : State) (seq : Nat) : Bool :=
  s.eng.cmds.any (fun (e : Nat × Cmd) => e.2.launch == seq)
    || s.eng.draws.any (fun d => d.launch == seq)
    || s.eng.rays.any (fun (e : Nat × Ray) => e.2.launch == seq)
    || s.eng.records.any (fun (e : Nat × HitRec) => e.2.launch == seq)

/-- Whether groups of a launch remain: to dispatch, resident or saved. -/
def State.groupsRemain (s : State) (l : Launch) : Bool :=
  (!l.ended && l.nextGix < l.p.groups) || (s.groups ++ s.saved).any fun g => g.launch == l.seq

/-- Whether records wait in the launch's queues. -/
def Launch.recordsRemain (l : Launch) : Bool := l.stages.any fun (e : Nat × Stage) => !e.2.queue.isEmpty

/-- The status of a completion token (R162): the first of 5, 4, 2, 3, 1, 0 that applies. A launch that found no capacity on
the loss of a core ends with 4 (R21, R163). -/
def Launch.status (l : Launch) (now : Nat) : Nat :=
  if l.ended && !l.noCap then 5 else if l.noCap then 4 else if l.overrun then 2 else if l.voided then 3
  else if l.p.cls = 0 && (match l.deadline with | some d => d.toNat < now | none => false) then 1 else 0

/-- Bytes 8 to 31 of a completion token. -/
def Launch.tokenBytes (l : Launch) (status now : Nat) : List Byte :=
  leBytes 24 (status + l.skip * 2 ^ 8 + l.depthX * 2 ^ 32 + now * 2 ^ 64 + l.seq * 2 ^ 128)

/-- The cores of a launch's placement release what the launch bound nowhere (R162, R237). -/
def State.releaseLaunch (s : State) (l : Launch) : State :=
  ((l.place.map fun q => (q.1, q.2.1)).eraseDups).foldl
    (fun (s : State) c => s.writeBack c.1 c.2 fun _ p => !boundAny l.binds p) s

/-- Write the token, DONE last, and free the reservation (R162, R163). -/
def State.complete (s : State) (l : Launch) (status : Nat) : State :=
  let s := s.releaseLaunch l
  let s := s.unitWrite l.part (l.p.token.toNat + 8) (l.tokenBytes status s.clock.time.toNat)
  let s := (s.unitWrite l.part l.p.token.toNat (leBytes 8 1)).settleWaiters
  s.updLaunch l.seq fun l => { l with state := .done }

/-- The marks that count at a miss (R30, R89, R109, R154, R409): an earlier event, a live ray, an incomplete collective, or
a partition in drydown; FAILED and ERASED count as drydown does, which is the model's choice (entry 46). -/
def State.missed (s : State) (l : Launch) : Bool :=
  l.missMark || s.eng.rays.any (fun (e : Nat × Ray) => e.2.launch == l.seq)
    || s.eng.records.any (fun (e : Nat × HitRec) => e.2.launch == l.seq && e.2.final)
    || s.eng.cmds.any (fun (e : Nat × Cmd) => e.2.launch == l.seq && e.2.cls == 4)
    || (s.part l.part).dry != .running

/-- DEADLINE_PASS (R154): past the deadline of a guaranteed launch the marks that count at a miss apply; a launch with no
mark ends late. -/
def State.passDeadline (s : State) (seq : Nat) : State :=
  match s.launch? seq with
  | none => s
  | some l =>
    match l.deadline with
    | none => s
    | some d =>
      if !l.reserves || l.deadlinePassed || s.clock.time.toNat ≤ d.toNat then s
      else
        let s := if s.missed l then s.void seq else s
        s.updLaunch seq fun l => { l with deadlinePassed := true }

def execDeadlinePass (seq : Nat) (s : State) : Out := .next (s.passDeadline seq)

/-- LAUNCH_COMPLETION (R162, R163): with the last group gone the launch drains; when nothing of it remains the token is
written. A partition in drydown holds its launches in their state. -/
def execLaunchCompletion (seq : Nat) (s : State) : Out :=
  .next (
    match s.launch? seq with
    | none => s
    | some l =>
      match l.state with
      | .active | .draining | .ending =>
        if s.groupsRemain l || (s.part l.part).dry != .running then s
        else if s.workRemains seq || (l.recordsRemain && !l.ended) then
          if l.ended then s else s.updLaunch seq fun l => { l with state := .draining }
        else
          let s := s.passDeadline seq
          match s.launch? seq with
          | some l => s.complete l (l.status s.clock.time.toNat)
          | none => s
      | _ => s)

end Sys2Proof.Machine
end

