-- ==== Sys2Proof/Machine/Control.lean ====
section
/-!
DEFINITION. Control flow (R343-R352), opcodes 0x38-0x3F: branches, jumps, calls, returns, `switch`, `rejoin`, `exit` and
`yield`.
-/

namespace Sys2Proof.Machine

open Sys2Proof

/-! ### The frame of a control instruction (R343) -/

/-- The executing threads of the whole control instruction that are still in the split. -/
def Group.acting (g : Group) (p : Pred) : Mask := g.omask p &&& g.sp.mask

/-- Issue a control instruction: the per-thread effect at each thread's issue, and every other effect when its last
executing thread issues (R343). `fin` tells whether the split goes on in its slot; then a single step is due (R205). -/
def State.act (s : State) (p : Pred) (each : State → Mask → State) (fin : State → State × Bool) : State :=
  let e := s.cur.exec p
  let ok := s.affordable e
  let s1 := each s ok
  if ok = e then
    let n := max 1 (count e)
    let r := fin ((if s1.cur.sp.charged then s1 else s1.charge n).occupy n)
    if r.2 then r.1.afterIssue e else r.1
  else ((s1.charge (count ok)).occupy (count ok)).exhausted (lowest (e &&& ~~~ok)) (s.cur.omask p)

/-- The cycle after an instruction's last executing thread. -/
def State.doneAt (s : State) (p : Pred) : Nat := s.clock.cycle + max 1 (count (s.cur.exec p))

/-- Step 3 of R343: what is wrong with a target. -/
def targetCause (t : Word) : Option (BitVec 8) :=
  if t.toNat % 4 != 0 then some 0x04 else if 2 ^ 48 ≤ t.toNat then some 0x07 else none

/-- The target of the direct form: word one + 4 × OFFSET (R345, R346). -/
def directTarget (pc : BitVec 48) (off : BitVec 21) : Word := pc.setWidth 64 + 4 * off.signExtend 64

/-- The splits that an instruction can still form (R175): a free slot and the room of the spill stack. -/
def Group.room (g : Group) : Nat := (if (g.inSlot (!g.slot)).isNone then 1 else 0) + (spillMax - g.spill.length)

/-- A split of some threads of the issuing split, at a target; PART is clear (entry 22). -/
def Split.child (p : Split) (m : Mask) (pc : BitVec 48) (cycle : Nat) : Split :=
  { p with mask := m, pc := pc, part := false, st := 0, rtid := 0, rem := 0, wait := .none, age := cycle,
           charged := false, quiet := false, sync := false }

/-- The issuing split goes on at a target. -/
def Group.goTo (g : Group) (pc : BitVec 48) (cycle : Nat) : Group :=
  let g := g.advance 0 cycle
  { g with sp := { g.sp with pc := pc } }

/-- Put splits beside the issuing one: the first takes the other slot if it is free, the others are pushed so that they
pop in order (R177, R347). -/
def Group.spread (g : Group) (l : List Split) : Group :=
  match l with
  | [] => g
  | p :: rest =>
    if (g.inSlot (!g.slot)).isNone then { g.setSlot (!g.slot) (some p) with spill := rest ++ g.spill }
    else { g with spill := (p :: rest) ++ g.spill }

/-! ### Branches, jumps and calls (R345, R346) -/

def execBr (x : Branch) (s : State) : Out :=
  .next (
    let e := s.cur.acting x.pred
    let t := directTarget s.cur.sp.pc x.off
    let cycle := s.doneAt x.pred
    if e = 0 then (s.emitPacket (.br false)).retire 1 8 e
    else
      match targetCause t with
      | some c => s.refuse x.pred c
      | none =>
        if e = s.cur.sp.mask then
          s.act x.pred (fun s _ => s) fun s =>
            let s := s.emitPacket (.br true)
            ({ s with cur := s.cur.goTo (t.setWidth 48) cycle }, true)
        else if rejoinMax ≤ s.cur.rejoin.length || s.cur.room = 0 then s.refuse x.pred 0x11
        else
          s.act x.pred (fun s _ => s) fun s =>
            let s := s.emitPacket (.mask e false none)
            let g := s.cur.newEntry
            let p := { g.sp with token := g.tokens }
            let taken := p.child e (t.setWidth 48) cycle
            let g := ({ g with sp := { p with mask := p.mask &&& ~~~e } }).advance 8 cycle
            ({ s with cur := g.spread [taken] }, true))

/-- A jump or call of the threads `e` to a target (R346): the whole split goes, or the executing threads part from it. -/
def State.jump (s : State) (x : Branch) (indirect call : Bool) (t : Word) : State :=
  let e := s.cur.acting x.pred
  let cycle := s.doneAt x.pred
  let link : Word := s.cur.sp.pc.setWidth 64 + 8
  let each := fun (s : State) (m : Mask) =>
    if call then { s with cur := s.cur.vset 15 m (fun _ => link) } else s
  match targetCause t with
  | some c => s.refuse x.pred c
  | none =>
    if call && s.cur.sp.depth = 255 then s.refuse x.pred 0x11
    else if e = s.cur.sp.mask then
      s.act x.pred each fun s =>
        let s := if indirect then s else s.emitPacket (.br true)
        let g := s.cur.goTo (t.setWidth 48) cycle
        ({ s with cur := { g with sp := { g.sp with
            depth := if call then g.sp.depth + 1 else g.sp.depth, sync := indirect && g.trc.on } } }, true)
    else if s.cur.room = 0 then s.refuse x.pred 0x11
    else
      s.act x.pred each fun s =>
        let s := s.emitPacket (.mask e false none)
        let g := s.cur
        let c := g.sp.child e (t.setWidth 48) cycle
        let taken := { c with
          depth := if call then c.depth + 1 else c.depth, sync := indirect && g.trc.on }
        let g := ({ g with sp := { g.sp with mask := g.sp.mask &&& ~~~e } }).advance 8 cycle
        ({ s with cur := g.spread [taken] }, true)

/-- `jmp` and `call` in their two forms: without an executing thread there is no effect (R166). -/
def State.jumpForm (s : State) (fn : JmpFn) (x : Branch) (call : Bool) : State :=
  let e := s.cur.exec x.pred
  match fn with
  | .direct =>
    if e = 0 then (s.emitPacket (.br false)).retire 1 8 e
    else s.jump x false call (directTarget s.cur.sp.pc x.off)
  | .indirect =>
    s.named x.pred [x.a] fun s => s.checked x.pred [x.a] fun s =>
      if e = 0 then s.retire 1 8 e else s.jump x true call (s.cur.common e x.a)

def execJmp (fn : JmpFn) (x : Branch) (s : State) : Out := .next (s.jumpForm fn x false)

/-- `call` raises 0x02 in handler mode (R346). -/
def execCall (fn : JmpFn) (x : Branch) (s : State) : Out :=
  .next (if s.cur.hand.isSome then s.refuse x.pred 0x02 else s.jumpForm fn x true)

/-! ### Returns (R347) -/

/-- The returning threads grouped by target, in ascending order of each group's lowest thread (R347). -/
def groupBy (f : Nat → Word) : List Nat → List (Word × List Nat) → List (Word × List Nat)
  | [], acc => acc
  | t :: l, acc =>
    if acc.any (fun e => e.1 == f t) then
      groupBy f l (acc.map (fun e => if e.1 == f t then (e.1, e.2 ++ [t]) else e))
    else groupBy f l (acc ++ [(f t, [t])])

/-- The first link that fails step 3 of R343. -/
def badLink (f : Nat → Word) : List Nat → Option (BitVec 8 × Word)
  | [] => none
  | t :: l =>
    match targetCause (f t) with
    | some c => some (c, f t)
    | none => badLink f l

/-- The exits of R350 for the executing threads: departures as they issue, the table settled with the last. In the final
exit of a team the mapped ranges are written back first; where that meets a fault, the lowest executing thread takes it in
the memory class and the others have exited (R223). -/
def State.exitThreads (s : State) (p : Pred) (len : Nat) : State :=
  let e := s.cur.acting p
  let cycle := s.doneAt p
  let g := s.cur
  let final := g.sp.mask &&& ~~~e = 0 && (g.inSlot (!g.slot)).isNone && g.spill.isEmpty
    && g.rejoin.all (fun r => r.merged.isNone && (r.closed || r.arrived == 0))
  let back := final && s.affordable (g.exec p) = g.exec p && s.lastOfTeam
  match if back then s.backFirst (((s.team? g).map fun t => t.maps).getD []) else (none, s) with
  | (none, s) =>
    if back && s.backOut g.id then s.stall (.fence 5)
    else s.act p (fun s m => { s with cur := s.cur.depart m }) fun s => s.settleExit len cycle
  | (some (c, va), s) =>
    let t := lowest e
    let others := e &&& ~~~maskOf [t]
    let n := max 1 (count (g.exec p))
    let s := (s.charge n).occupy n
    let s := { s with cur := s.cur.depart others }
    s.trap (s.cur.memoryTrap [⟨t, c, BitVec.ofNat 64 va⟩] 0x01 (g.omask p) g.iw0)

def execExit (x : Ord) (s : State) : Out :=
  .next (
    if s.cur.exec x.pred = 0 then s.retire 1 (lenOf x) 0
    else if s.cur.hand.isSome then s.refuse x.pred 0x07
    else s.exitThreads x.pred (lenOf x))

def execRet (x : Ord) (s : State) : Out :=
  .next (
    let e := s.cur.acting x.pred
    let cycle := s.doneAt x.pred
    let link := fun t => s.cur.vget 15 t
    if s.cur.hand.isSome then s.refuse x.pred 0x02
    else if s.cur.exec x.pred = 0 then s.retire 1 (lenOf x) 0
    else if s.cur.sp.depth = 0 then s.exitThreads x.pred (lenOf x)
    else
      match badLink link (threads e) with
      | some (c, _) => s.refuse x.pred c
      | none =>
        let rs := (groupBy link (threads e) []).map fun r =>
          let c := s.cur.sp.child (maskOf r.2) (r.1.setWidth 48) cycle
          { c with depth := c.depth - 1 }
        let all := e == s.cur.sp.mask
        let formed := if all then rs.length - 1 else rs.length
        if s.cur.room < formed then s.refuse x.pred 0x11
        else
          s.act x.pred (fun s _ => s) fun s =>
            let s := if !all || 1 < rs.length then rs.foldl (fun s r => s.emitPacket (.mask r.mask false none)) s else s
            let g := s.cur
            if all then
              match rs with
              | [] => (s, true)
              | r :: rest => ({ s with cur := ({ g with sp := { r with part := g.sp.part } }).spread rest }, true)
            else
              let g := ({ g with sp := { g.sp with mask := g.sp.mask &&& ~~~e } }).advance (lenOf x) cycle
              ({ s with cur := g.spread rs }, true))

/-! ### Switch (R348, R177) -/

/-- The case a value selects: the lowest index whose value equals it, or the number of cases for the default. -/
def caseOf (cases : List SwCase) (v : Nat) : Nat :=
  (cases.findIdx? (fun c => c.value.toNat == v)).getD cases.length

/-- The target of a case index (R263). -/
def caseTarget (pc : BitVec 48) (cases : List SwCase) (dflt : BitVec 32) (i : Nat) : Word :=
  let off := match cases[i]? with | some c => c.off | none => dflt
  pc.setWidth 64 + 4 * off.signExtend 64

/-- The case indices that have threads, ascending, the default last, each with its threads. -/
def casesTaken (cases : List SwCase) (f : Nat → Nat) (ts : List Nat) : List (Nat × List Nat) :=
  ((List.range (cases.length + 1)).map fun i => (i, ts.filter fun t => caseOf cases (f t) == i)).filter
    fun e => !e.2.isEmpty

/-- The length of a `switch` with its table (R263). -/
def switchLen (cases : List SwCase) : Nat := 12 + 8 * cases.length

/-- The case index of a MASK packet: 8 for the default (R208). -/
def caseCode (cases : List SwCase) (i : Nat) : Nat := if i < cases.length then i else 8

def execSwitch (a : Opd) (_et : ET) (cases : List SwCase) (dflt : BitVec 32) (s : State) : Out :=
  .next (s.named pred0 [a] fun s =>
    let g := s.cur
    let cycle := s.doneAt pred0
    let taken := casesTaken cases (fun t => (g.opd a t).toNat % 2 ^ 32) (threads g.sp.mask)
    let target := fun i => caseTarget g.sp.pc cases dflt i
    match (taken.map fun e => target e.1).find? (fun t => (targetCause t).isSome) with
    | some t => s.refuse pred0 ((targetCause t).getD 0)
    | none =>
      match (taken.map fun e => target e.1).eraseDups with
      | [t] =>
        s.act pred0 (fun s _ => s) fun s =>
          let s := s.emitPacket (.mask g.sp.mask false (some (caseCode cases ((taken.headD (0, [])).1))))
          ({ s with cur := s.cur.goTo (t.setWidth 48) cycle }, true)
      | _ =>
        if rejoinMax ≤ g.rejoin.length || g.room < taken.length - 1 then s.refuse pred0 0x11
        else
          s.act pred0 (fun s _ => s) fun s =>
            let s := taken.foldl
              (fun s e => s.emitPacket (.mask (maskOf e.2) false (some (caseCode cases e.1)))) s
            let g := s.cur.newEntry
            let p := { g.sp with token := g.tokens }
            match taken.map (fun e => p.child (maskOf e.2) ((target e.1).setWidth 48) cycle) with
            | [] => (s, true)
            | r :: rest => ({ s with cur := ({ g with sp := { r with part := p.part } }).spread rest }, true))

/-! ### Rejoin and yield (R349, R351) -/

def execRejoin (x : Ord) (s : State) : Out :=
  .next (s.named x.pred (breg x.b) fun s => s.checked x.pred (breg x.b) fun s =>
    let e := s.cur.exec x.pred
    let cycle := s.doneAt x.pred
    if e = 0 then s.retire 1 (lenOf x) e
    else
      let timeout := (s.cur.bopd .zero x.et x.b (lowest e)).toNat % 2 ^ 32
      s.act x.pred (fun s _ => s) fun s => s.arrive (lenOf x) cycle timeout)

def execYield (fn : YieldFn) (x : Ord) (s : State) : Out :=
  .next (
    let srcs := match fn with | .yield => [] | .sleepUntil => [x.a]
    s.named x.pred srcs fun s => s.checked x.pred srcs fun s =>
    let e := s.cur.exec x.pred
    let cycle := s.doneAt x.pred
    if e = 0 then s.retire 1 (lenOf x) e
    else
      let w := match fn with
        | .yield => Wait.until_ (cycle + 1)
        | .sleepUntil =>
          let t := s.cur.common e x.a
          if t.toNat ≤ s.clock.time.toNat then .until_ (cycle + 1) else .sleep t (lenOf x)
      s.act x.pred (fun s _ => s) fun s =>
        let g := s.cur.advance (lenOf x) (cycle + 1)
        ({ s with cur := { g with sp := { g.sp with wait := w } } }, true))

/-- SLEEP_WAKE (R351): a split whose time has come is ready. -/
def Split.wakeSleep (now : Word) (cycle : Nat) (p : Split) : Split :=
  match p.wait with
  | .sleep t _ => if t.toNat ≤ now.toNat then { p with wait := .none, age := cycle } else p
  | _ => p

def execSleepWake (i : Gid) (slot : Bool) (s : State) : Out :=
  .next (s.updGroup i fun g => g.setSlot slot ((g.inSlot slot).map (Split.wakeSleep s.clock.time s.clock.cycle)))

end Sys2Proof.Machine
end

