-- ==== Sys2Proof/Machine/Matrix.lean ====
section
/-!
DEFINITION. The matrix unit (R387-R396, R401): products at a gang's rendezvous, tile moves and matrix blocks, opcodes
0x60-0x66.
-/

namespace Sys2Proof.Machine

open Sys2Proof

/-! ### Shapes (R387, R388) -/

/-- k steps of one product (R387). -/
def stepsOf (e : ET) : Nat := if e.width = 16 then 16 else if e.width = 4 then 64 else if e == .s8 then 64 else 32

/-- A registers of a thread (R387). -/
def aRegs (e : ET) : Nat := if e == .s8 then 8 else 4

/-- Bytes of a column of B (R387). -/
def columnBytes (e : ET) : Nat := if e == .s8 then 64 else 32

/-- Bytes of the B operand, with the scales of R390. -/
def operandBytes (e : ET) (scales : Bool) : Nat := if scales then 1344 else 32 * columnBytes e

/-- A format code of `mma` or `mmas` resolved with `%fmt` (R388). -/
def resolveFmt (code dflt : Nat) : Option ET := ET.ofCode (if code = 0 then dflt else code)

/-- Whether a resolved format is one that the opcode accepts (R388). -/
def acceptsFmt (scaled : Bool) (e : ET) : Bool :=
  match e with
  | .e4m3 => true
  | .e5m2 => true
  | .e2m1 => true
  | .s8 => !scaled
  | .f16 => !scaled
  | .bf16 => !scaled
  | _ => false

/-- The pair of formats, or none where R388 refuses it. -/
def pairOf (scaled : Bool) (fa fb : Option ET) : Option (ET × ET) :=
  match fa, fb with
  | some a, some b =>
    if acceptsFmt scaled a && acceptsFmt scaled b && a.width = b.width && ((a == .s8) == (b == .s8)) then some (a, b)
    else none
  | _, _ => none

/-! ### The product (R389, R390) -/

/-- Element k of row i of A (R387). -/
def Group.aElem (g : Group) (fa : ET) (a i k : Nat) : Nat := sub (g.vget (a + k / fa.count) i) fa.width (k % fa.count)

/-- A B operand as bytes of the lead's local store. -/
def bElem (ls : Mem) (fb : ET) (base n k : Nat) : Nat :=
  let bit := k * fb.width
  let byte := (ls.byte (base + columnBytes fb * n + bit / 8)).toNat
  if fb.width = 16 then leNat (ls.bytes (base + columnBytes fb * n + 2 * k) 2) else byte / 2 ^ (bit % 8) % 2 ^ fb.width

/-- The value of an element under its block and band scale, which count as 1.0 without scaling (R390). -/
def elemFl (op : MatOp) (e : ET) (code block band : Nat) : Fl :=
  let v := srcFl op.ftz e code
  if op.scaled then (v.mul (scaleFl block)).mul (toFl .bf16 band) else v

/-- One word of a tile after a product (R389). -/
def productWord (op : MatOp) (g : Group) (ls : Mem) (base a c i n : Nat) (init : BitVec 32) : BitVec 32 :=
  let ks := List.range (stepsOf op.fa)
  if op.fa == .s8 then
    let sum := ks.foldl (fun (acc : Int) k =>
      acc + signed 8 (g.aElem op.fa a i k) * signed 8 (bElem ls op.fb base n k)) (init.toInt)
    BitVec.ofInt 32 sum
  else
    let ps := ks.map fun k =>
      let va := elemFl op op.fa (g.aElem op.fa a i k) (field (g.vget c i).toNat (8 * (k / 8)) 8)
        (field (g.vget (c + 1) i).toNat 0 16)
      let vb := elemFl op op.fb (bElem ls op.fb base n k) ((ls.byte (base + 1024 + 8 * n + k / 8)).toNat)
        (leNat (ls.bytes (base + 1280 + 2 * n) 2))
      va.mul vb
    BitVec.ofNat 32 (sumProducts op.mode op.ftz init.toNat ps)

/-- The tile after a product: rows of threads that do not execute are unchanged (R389). -/
def Group.product (g : Group) (m : LatchMember) (ls : Mem) (base : Nat) : Group :=
  (threads m.threads).foldl (fun g i =>
    g.setWords m.tile i 0 ((List.range 32).map fun n =>
      productWord m.op g ls base m.a m.c i n (g.tileWord m.tile i n))) g

/-! ### The rendezvous (R391, R392) -/

/-- The gang's members, in ascending POS, as places. -/
def Group.gangIds (g : Group) : List Gid :=
  g.gang.map fun m => ⟨g.id.die, g.id.core, g.id.lane / 16 * 16 + m.1, m.2⟩

/-- The lead of the gang (R387). -/
def Group.leadId (g : Group) : Gid := g.gangIds.headD g.id

/-- Whether a gang can still meet: no member has exited (R391). -/
def State.gangWhole (s : State) (g : Group) : Bool :=
  g.gangIds.all fun i => match s.group? i with | some h => h.live && h.launch == g.launch && h.hold != .exited | none => false

/-- A member's split leaves the latch with a trap due at its next issue (R391). -/
def State.failMember (s : State) (m : LatchMember) : State :=
  s.updGroup m.g fun g =>
    let g := g.uncount 3
    g.setSlot m.slot ((g.inSlot m.slot).map fun p =>
      if p.wait == .latch then { p with wait := .raise 0x08 m.low m.iw0 m.omask } else p)

/-- When every thread of a member has exited, each member waiting at the latch raises 0x08 (R391). -/
def State.gangExit (s : State) (g : Group) : State :=
  let ids := g.gangIds
  let mine := s.eng.latch.filter fun m => ids.contains m.g
  let s := { s with eng := { s.eng with latch := s.eng.latch.filter fun m => !ids.contains m.g } }
  mine.foldl State.failMember s

/-- The latch of a gang closes (R391, R392): the members are the same and get their slots, or each raises 0x08. -/
def State.closeLatch (s : State) (g : Group) : State :=
  let ids := g.gangIds
  let ms := ids.filterMap fun i => s.eng.latch.find? fun m => m.g == i
  let s := { s with eng := { s.eng with latch := s.eng.latch.filter fun m => !ids.contains m.g } }
  match ms with
  | [] => s
  | f :: _ =>
    if ms.all (fun m => m.words == f.words && m.op == f.op) then
      let slots := ms.zipIdx.map fun e => MatSlot.mk e.1 g.leadId (s.clock.cycle + 8 * e.2 + 8)
      let s := { s with eng := { s.eng with slots := s.eng.slots ++ slots } }
      ms.foldl (fun s m => s.updGroup m.g fun g =>
        g.setSlot m.slot ((g.inSlot m.slot).map fun p => { p with wait := .matrixSlot })) s
    else ms.foldl State.failMember s

/-- The words of an instruction as the latch compares them: its fields and its form (R391). -/
def ordKey (opc : Nat) (x : Ord) : List Nat :=
  let b := match x.b with | .reg r => [0, r.code] | .imm n => [1, n.toNat] | .lit n => [2, n.toNat]
  [opc, x.form.words, x.d.code, x.a.code, x.c.code, x.pred.k.val, (if x.pred.neg then 1 else 0), x.et.code, x.imm.toNat,
   x.moda.toNat, x.modb.toNat] ++ b

/-- Whether an `mld` of the group that writes a tile is incomplete (R394). -/
def State.tileBusy (s : State) (g : Gid) (a : Nat) : Bool :=
  s.hasOp g fun o => match o.kind with | .tile b _ => a == b | _ => false

/-- The register check of step 11 of R301 for a tile instruction. -/
def State.namedTile (s : State) (p : Pred) (a : Nat) (vs : List Nat) (run : State → State) : State :=
  if s.cur.namesTile a && vs.all (fun n => n < 96 && s.cur.holdsV n && (s.cur.hand.isNone || n < 4)) then run s
  else s.refuse p 0x02

/-- A fill that failed under B: a memory-class trap at the thread that reports (R222, R388). -/
def State.fillTrap (s : State) (x : Ord) (cause : BitVec 8) (va : Nat) : State :=
  s.trap (s.cur.memoryTrap [⟨s.cur.reportAt x.pred, cause, BitVec.ofNat 64 va⟩] 0x00 (s.cur.omask x.pred) s.cur.iw0)

/-- `mma` and `mmas` up to the latch (R387-R391). -/
def State.product (s : State) (opc : Nat) (x : Ord) (scaled : Bool) : State :=
  let tile := x.d.code
  let a := x.a.code
  let c := x.c.code
  let fmt := s.cur.sp.fmt
  let pair := pairOf scaled (resolveFmt x.et.code (fmtAF fmt)) (resolveFmt (x.imm.toNat % 16) (fmtBF fmt))
  let regs := match pair with | some (fa, _) => aRegs fa | none => 4
  s.namedTile x.pred tile ((List.range regs).map (a + ·) ++ (if scaled then [c, c + 1] else [])) fun s =>
  s.named x.pred (breg x.b) fun s =>
  match pair with
  | none => s.refuse x.pred 0x01
  | some (fa, fb) =>
    s.checked x.pred (breg x.b) fun s =>
    let g := s.cur
    let e := g.exec x.pred
    let b := (g.bopd .zero x.et x.b (g.reportAt x.pred)).toNat
    let lsize := match s.group? g.leadId with | some l => l.lsize | none => g.lsize
    if b % 256 != 0 then s.refuse x.pred 0x04
    else if lsize < b + operandBytes fb scaled then s.refuse x.pred 0x05
    else if !s.gangWhole g then s.refuse x.pred 0x08
    else if s.tileBusy g.id tile then s.stall (.tile tile)
    else if 62 ≤ g.cntT then s.stall (.counterFull 3)
    else if s.affordable (if e = 0 then g.sp.mask else e) = 0 then s.exhausted (g.reportAt x.pred) (g.omask x.pred)
    else
      (if g.id == g.leadId then s.filledFor (g.lsb + b) (operandBytes fb scaled) [] (fun s k va => s.fillTrap x k va)
        else fun run => run s) fun s =>
      let op : MatOp := ⟨fa, fb, g.mode x, g.ftz, scaled && fmtBsc fmt, b⟩
      let m : LatchMember := ⟨g.id, g.slot, ordKey opc x, op, tile, a, c, e, g.reportAt x.pred, lenOf x, g.iw0, g.omask x.pred⟩
      let s := (s.await 1 .latch)
      let s := { s with cur := s.cur.addCount 3, eng := { s.eng with latch := s.eng.latch ++ [m] } }
      if g.gangIds.all (fun i => s.eng.latch.any fun m => m.g == i) then s.closeLatch s.cur else s

def execMma (x : Ord) (s : State) : Out := .next (s.product 0x60 x false)
def execMmas (x : Ord) (s : State) : Out := .next (s.product 0x61 x true)

/-- The split of a finished product goes on at the next cycle (R392). -/
def Split.slotEnd (len cycle : Nat) (p : Split) : Split :=
  if p.wait == .matrixSlot then
    { p with pc := p.pc + BitVec.ofNat 48 len, st := 0, rtid := 0, rem := 0, wait := .until_ (cycle + 1),
             charged := false, quiet := false, age := cycle + 1 }
  else p

/-- MMA_SLOT_END (R392): at the end of a member's slot its tile is written and its T count falls. -/
def execMmaSlotEnd (i : Gid) (s : State) : Out :=
  .next (
    match s.eng.slots.find? (fun x => x.m.g == i) with
    | none => s
    | some sl =>
      if s.clock.cycle < sl.until_ then s
      else
        let s := { s with eng := { s.eng with slots := s.eng.slots.filter fun x => x != sl } }
        let ls := match s.group? sl.lead with
          | some l => match s.team? l with | some t => (t.ls, l.lsb) | none => ([], 0)
          | none => ([], 0)
        let s := s.updGroup i fun g =>
          let g := (g.product sl.m ls.1 (ls.2 + sl.m.op.b)).uncount 3
          g.setSlot sl.m.slot ((g.inSlot sl.m.slot).map (Split.slotEnd sl.m.len s.clock.cycle))
        (s.stepEnd i sl.m.slot sl.m.threads).endIfDone i)

/-! ### Tile moves (R393, R394) -/

/-- A uniform tile instruction past its checks: it waits while its tile is being loaded (R394). -/
def State.onTile (s : State) (x : Ord) (a : Nat) (srcs : List Opd) (run : State → State) : State :=
  s.namedTile x.pred a [] fun s => s.named x.pred srcs fun s => s.checked x.pred srcs fun s =>
    if s.cur.exec x.pred = 0 then s.retire 1 (lenOf x) 0
    else if s.tileBusy s.cur.id a then s.stall (.tile a)
    else run s

def execMzero (x : Ord) (s : State) : Out :=
  .next (s.onTile x x.d.code [] fun s =>
    s.uniform x.pred 1 (lenOf x) fun s =>
      let g := (threads (s.cur.exec x.pred)).foldl (fun g i => g.setWords x.d.code i 0 (List.replicate 32 0)) s.cur
      { s with cur := g })

/-- The address of a row: A + i × B (R393). -/
def rowAddr (x : Ord) (s : State) (i : Nat) : Word :=
  s.cur.opd x.a (lowest (s.cur.exec x.pred)) +
    BitVec.ofNat 64 i * s.cur.bopd .zero x.et x.b (lowest (s.cur.exec x.pred))

/-- The check of one row of a tile move: A and B are multiples of 128 (R393). -/
def State.checkRow (s : State) (x : Ord) (write : Bool) (i : Nat) : Except (BitVec 8 × Word) Map × State :=
  let stride := (s.cur.bopd .zero x.et x.b (lowest (s.cur.exec x.pred))).toNat
  if stride % 128 != 0 then (.error (0x04, rowAddr x s i), s) else s.checkGlobal (rowAddr x s i) 128 write (!write)

/-- The words of bytes. -/
def wordsOfBytes : List Byte → List (BitVec 32)
  | a :: b :: c :: d :: l => BitVec.ofNat 32 (leNat [a, b, c, d]) :: wordsOfBytes l
  | _ => []

/-- The bytes of words. -/
def bytesOfWords (l : List (BitVec 32)) : List Byte := (l.map fun w => leBytes 4 w.toNat).flatten

/-- One row of `mld`: what the core sees, or two requests to the home module. -/
def State.mldOne (x : Ord) (s0 : State) (id : Nat) (s : State) (q : Plan) : Draft × State :=
  let va := q.va.toNat
  let i := s.cur.id
  let keep := keepOf x.modb.toNat
  if q.map.space < 4 || s.inCore i.die i.core q.map va 128 then
    let d := s0.readDelay q.map va 128
    let ws := wordsOfBytes (s.coreBytes i.die i.core q.map va 128)
    (⟨[], [], d.1, .tile x.d.code [(q.thread, 0, ws)], if d.2 then q.map.sectors va 128 else []⟩,
      s.touch i.die i.core q.map va 128 x.modb.toNat)
  else
    let r := s.request q.map va opReadRequest 0 [BitVec.ofNat 8 64] (.row q.thread 0 keep) id q.thread
    let r' := r.2.request q.map (va + 64) opReadRequest 0 [BitVec.ofNat 8 64] (.row q.thread 16 keep) id q.thread
    (⟨[], [r.1, r'.1], 0, .tile x.d.code [], []⟩, r'.2)

/-- The shape of a tile move. -/
def tileShape (x : Ord) (store : Bool) : Shape :=
  ⟨lenOf x, true, anyV (srcAB x), 3, 0, if store then 0x01 else 0x00, store, true⟩

def execMld (x : Ord) (s : State) : Out :=
  .next (s.onTile x x.d.code (srcAB x) fun s =>
    s.memory x.pred (tileShape x false) (rowAddr x) (fun s i => s.checkRow x false i)
      (fun s id l => performAll (State.mldOne x s id) s { Draft.none with kind := .tile x.d.code [] } l))

/-- One row of `mst`. -/
def State.mstOne (x : Ord) (id : Nat) (s : State) (q : Plan) : Draft × State :=
  let bs := bytesOfWords ((List.range 32).map fun n => s.cur.tileWord x.d.code q.thread n)
  if q.map.space < 4 then State.storeOne x.modb.toNat (fun _ _ => bs) id s q
  else
    let r := State.storeOne x.modb.toNat (fun _ _ => bs.take 64) id s q
    let r' := State.storeOne x.modb.toNat (fun _ _ => bs.drop 64) id r.2 { q with va := q.va + 64 }
    (r.1.join r'.1, r'.2)

def execMst (x : Ord) (s : State) : Out :=
  .next (s.onTile x x.d.code (srcAB x) fun s =>
    s.memory x.pred (tileShape x true) (rowAddr x) (fun s i => s.checkRow x true i)
      (fun s id l =>
        let r := performAll (State.mstOne x id) s { Draft.none with kind := .store } l
        (r.1, r.2.clearPoison (written 128 l))))

/-- The chunk of a tile row that `mrd` gives a thread (R393). -/
def chunkOf (x : Ord) (g : Group) (t : Nat) : Word :=
  let n := x.et.count
  let c := (g.opd x.a t).toNat % (32 / n)
  packSubs x.et.width ((List.range n).map fun j =>
    let w := (g.tileWord (x.imm.toNat % 4) t (c * n + j)).toNat
    if x.et == .f32 then w else convert (g.mode x) g.ftz g.satN .f32 x.et w)

def execMrd (x : Ord) (s : State) : Out :=
  .next (
    let a := x.imm.toNat % 4
    s.namedTile x.pred a [] fun s => s.named x.pred [x.d, x.a] fun s =>
      if s.cur.exec x.pred != 0 && s.tileBusy s.cur.id a then s.stall (.tile a)
      else
        s.memory x.pred ⟨lenOf x, false, false, 3, 7, 0x00, false, false⟩ (fun _ _ => 0)
          (fun s _ => (.ok Map.local_, s))
          (fun s _ l => (⟨l.map fun q => ⟨q.thread, x.d.code, chunkOf x s.cur q.thread⟩, [], 20, .load, []⟩, s)))

/-! ### Matrix blocks (R395) -/

/-- Without an executing thread a uniform instruction has no effect; otherwise `run` (R168). -/
def State.branchUniform (s : State) (x : Branch) (run : State → State) : State :=
  if s.cur.exec x.pred = 0 then s.retire 1 8 0
  else if s.affordable (s.cur.exec x.pred) = 0 then s.exhausted (lowest (s.cur.exec x.pred)) (s.cur.omask x.pred)
  else run s

def execMrstSet (x : Branch) (s : State) : Out :=
  .next (s.branchUniform x fun s =>
    let g := s.cur
    let l := directTarget g.sp.pc x.off
    if (g.inSlot (!g.slot)).isSome || !g.spill.isEmpty || g.hand.isSome then s.refuse x.pred 0x07
    else
      match targetCause l with
      | some c => s.refuse x.pred c
      | none =>
        let b : MatBlock := ⟨l.setWidth 48, g.sp.mask, g.sp.depth, g.sp.token, g.sp.fmt, g.rejoin.map fun e => e.token⟩
        ({ s with cur := { g with block := some b, rcnt := 0, lastLabel := b.label, lastDepth := b.depth } }).retire 1 8
          (g.exec x.pred))

def execMrstEnd (x : Branch) (s : State) : Out :=
  .next (s.branchUniform x fun s =>
    ({ s with cur := { s.cur with block := none } }).retire 1 8 (s.cur.exec x.pred))

end Sys2Proof.Machine
end

