-- ==== Sys2Proof/Machine/Accord.lean ====
section
/-!
DEFINITION. Accords (R68-R79, R397-R401): handle records, notes, what a tile load delivers, attach, detach and versions,
opcodes 0x6C and 0x6D, and the arrival of a tile load at its home stack.
-/

namespace Sys2Proof.Machine

open Sys2Proof

/-! ### Handle records (R68) -/

/-- A handle record. -/
structure Handle where
  v : Bool
  ncount : Nat
  fip : Bool
  list : AccList
  deriving DecidableEq, Repr

/-- A record from its 1,024 bits. -/
def Handle.of (n : Nat) : Handle where
  v := n.testBit 0
  ncount := field n 4 4
  fip := n.testBit 768
  list :=
    { fmt := field n 2 2, geo := field n 8 12, sync := BitVec.ofNat 64 (field n 64 64)
      sbase := BitVec.ofNat 64 (field n 128 64), bbase := BitVec.ofNat 64 (field n 192 64)
      version := BitVec.ofNat 32 (field n 32 32)
      notes := (List.range (field n 4 4)).map fun k => BitVec.ofNat 64 (field n (256 + 64 * k) 64) }

/-- Whether a handle is valid. -/
def Handle.ok (h : Handle) : Bool := h.v && h.list.fmt != 3 && h.ncount ≤ 8

/-- Where the record of a handle stands; none where the table cannot be read there. -/
def State.handleAt (s : State) (part idx : Nat) : Option Nat :=
  s.tablePhys part ((s.part part).accbase.toNat + 128 * idx)

/-- The valid handle of an index with the place of its record. -/
def State.handle? (s : State) (part idx : Nat) : Option (Handle × Nat) :=
  match s.handleAt part idx with
  | none => none
  | some p =>
    let h := Handle.of (s.homeNat p 128)
    if h.ok then some (h, p) else none

/-- A record with another note list and version (R74, R75). -/
def recordWith (n : Nat) (notes : List Word) (version : BitVec 32) : Nat :=
  let slots := (List.range 8).map fun k => (notes.getD k 0).toNat
  field n 0 4 + notes.length * 2 ^ 4 + field n 8 24 * 2 ^ 8 + version.toNat * 2 ^ 32 + field n 64 192 * 2 ^ 64
    + leNat ((slots.map fun a => leBytes 8 a).flatten) * 2 ^ 256 + field n 768 256 * 2 ^ 768

/-- A record with FIP set or clear (R77). -/
def recordFip (n : Nat) (b : Bool) : Nat := n - field n 768 1 * 2 ^ 768 + (if b then 2 ^ 768 else 0)

/-! ### Reading for an accord (R69, R71) -/

/-- What ends a tile load (R398): the cause, the address for FADDR, and whether it is in the whole class. -/
structure AccErr where
  cause : BitVec 8
  va : Nat
  whole : Bool
  deriving DecidableEq, Repr

/-- A bad pair, directory or header (R71). -/
def AccErr.bad : AccErr := ⟨0x12, 0, true⟩

/-- What reads for an accord leave behind: whether they met poison, where, and the sectors they touched. -/
structure Trail where
  poison : Bool
  at_ : List Nat
  atoms : List Sector
  deriving DecidableEq, Repr

def Trail.none : Trail := ⟨false, [], []⟩

/-- A computation that reads for an accord. -/
abbrev Rd (α : Type) : Type := StateT Trail (Except AccErr) α

/-- Read bytes of one page that carries the accord-capable bit (R69). A band scale at an odd address that straddles two pages is
read through the page of its first byte (entry 45). -/
def State.rd (s : State) (u : Via) (va n : Nat) : Rd (List Byte) := fun t =>
  match s.viaMap u va n false with
  | .error c => .error ⟨c, if c = 0x06 then va / 4096 * 4096 else va, false⟩
  | .ok m =>
    if !m.ac || 4 ≤ m.space then .error ⟨0x07, va, false⟩
    else
      let bad := s.poisoned m va n
      .ok (s.mapBytes m va n,
        ⟨t.poison || bad, if bad then va :: t.at_ else t.at_, if m.isLocal then m.sectors va n ++ t.atoms else t.atoms⟩)

/-- Read bytes of a region, which is named physically (R69): its unit must be the partition's (R126). -/
def State.rdPhys (s : State) (part p n : Nat) : Rd (List Byte) := fun t =>
  if !s.owns part p then .error ⟨0x07, 0, false⟩
  else
    let bad := (List.range n).any fun i => s.badByte 0 (p + i)
    .ok (s.homeBytes p n, ⟨t.poison || bad, t.at_, Sector.plain p :: t.atoms⟩)

/-- A little-endian number that is read. -/
def State.rdNat (s : State) (u : Via) (va n : Nat) : Rd Nat := do return leNat (← s.rd u va n)

/-! ### Notes (R70, R71) -/

/-- A note from its header. -/
inductive Note where
  | sparse (bmap dir pairs npairs : Nat)
  | lowRank (u v rank : Nat)
  deriving DecidableEq, Repr

/-- The checks of R71 on a header. -/
def noteOf (n : Nat) : Option Note :=
  if field n 4 28 != 0 then none
  else if field n 0 4 = 1 then
    if field n 256 256 != 0 || field n 64 3 != 0 || field n 128 3 != 0 || field n 192 3 != 0 then none
    else some (.sparse (field n 64 64) (field n 128 64) (field n 192 64) (field n 32 32))
  else if field n 0 4 = 2 then
    let rank := field n 32 7
    if field n 39 25 != 0 || field n 192 320 != 0 || rank = 0 || 64 < rank || field n 64 1 != 0 || field n 128 1 != 0 then none
    else some (.lowRank (field n 64 64) (field n 128 64) rank)
  else none

/-- Read and check a note's header. -/
def State.note (s : State) (u : Via) (a : Word) : Rd Note := do
  match noteOf (← s.rdNat u a.toNat 64) with
  | some n => return n
  | none => throw .bad

/-! ### Foundations (R69) -/

/-- The foundation's format as an element type. -/
def AccList.et (l : AccList) : ET := if l.fmt = 0 then .bf16 else if l.fmt = 1 then .e4m3 else .e2m1

/-- Whether a geometry's element size agrees with a foundation format (R69). -/
def eszAgrees (e : ET) (g : Geo) : Bool := g.esz == (if e.width = 16 then 2 else 1)

/-- Logical columns of a region of elements of a type: two to a byte of `e2m1` (R69). -/
def logicalCols (e : ET) (g : Geo) : Nat := if e == .e2m1 then 2 * g.colsE else g.colsE

/-- Logical columns of one square. -/
def squareCols (e : ET) (g : Geo) : Nat := if e == .e2m1 then 64 else g.n

/-- Whether a partition owns every unit that the squares of a region meet (R126). -/
def State.ownsRegion (s : State) (part : Nat) (g : Geo) : Bool :=
  (List.range g.rows).all fun i =>
    let lo := g.pbase + i * g.pitch * g.square
    let first := lo / 2 ^ 30
    (List.range ((lo + g.cols * g.square - 1) / 2 ^ 30 - first + 1)).all fun k => s.owns part ((first + k) * 2 ^ 30)

/-- The geometry of a region that a partition names physically, usable and with the element size of a format. -/
def State.region? (s : State) (part idx : Nat) (e : ET) : Option Geo :=
  match s.geo? part idx with
  | none => none
  | some g => if s.usable g && eszAgrees e g && s.ownsRegion part g then some g else none

/-- An element of a region of matrix data, exact: an `e2m1` element under its block and band scales (R69, R81). -/
def State.regionElem (s : State) (part : Nat) (scale : Nat → Nat → Rd Nat) (e : ET) (sbase bbase : Word) (g : Geo)
    (i j : Nat) : Rd Fl := do
  if e == .e2m1 then
    let b ← s.rdPhys part (g.physAt i (j / 2) 0) 1
    let code := leNat b / 16 ^ (j % 2) % 16
    let cols := 2 * g.colsE
    let block ← scale (sbase.toNat + i * ((cols + 7) / 8) + j / 8) 1
    let band ← scale (bbase.toNat + 2 * (i * ((cols + 63) / 64) + j / 64)) 2
    return scaledFl code block band
  else
    let n := e.width / 8
    let b ← s.rdPhys part (g.physAt i j 0) n
    return toFl e (leNat b)

/-! ### What a tile delivers (R72, R73) -/

/-- The deltas of a sparse note for one element, in array order (R70). COUNT is taken as it stands, above 1,024 too, and bits
[31:11] of a directory or pair word are not looked at: the model's choice (entry 45). -/
def State.deltas (s : State) (u : Via) (bmap dir pairs npairs square limit elem : Nat) : Rd (List Nat) := do
  let b ← s.rdNat u (bmap + square / 8) 1
  if !b.testBit (square % 8) then return []
  let d ← s.rdNat u (dir + 8 * square) 8
  let first := field d 32 32
  let n := field d 0 11
  if npairs < first + n then throw .bad
  let ps ← (List.range n).mapM fun k => s.rdNat u (pairs + 8 * (first + k)) 8
  if ps.any fun p => limit ≤ field p 0 11 then throw .bad
  return (ps.filter fun p => field p 0 11 == elem).map fun p => field p 32 32

/-- `f32` addition of R72: RNE, subnormals kept, overflow to infinity. -/
def addF32 (t : Nat) (x : Fl) : Nat := roundFl .f32 .rne false ((toFl .f32 t).add .rne x)

/-- The delta of a low-rank note at an element (R72). -/
def State.lowRank (s : State) (via : Via) (u v rank cols i j : Nat) : Rd Nat :=
  (List.range rank).foldlM (fun d q => do
    let a ← s.rdNat via (u + 2 * (i * rank + q)) 2
    let b ← s.rdNat via (v + 2 * (q * cols + j)) 2
    return addF32 d ((toFl .bf16 a).mul (toFl .bf16 b))) 0

/-- One note applied to an element. -/
def State.applyNote (s : State) (via : Via) (e : ET) (g : Geo) (i j : Nat) (t : Nat) (a : Word) : Rd Nat := do
  match ← s.note via a with
  | .sparse bmap dir pairs npairs =>
    let w := squareCols e g
    let square := i / g.n * g.cols + j / w
    let ds ← s.deltas via bmap dir pairs npairs square (g.n * w) (i % g.n * w + j % w)
    return ds.foldl (fun t d => addF32 t (toFl .f32 d)) t
  | .lowRank u v rank =>
    let d ← s.lowRank via u v rank (logicalCols e g) i j
    return addF32 t (toFl .f32 d)

/-- The value t of R72 for element (i, j), as an `f32` pattern. -/
def State.elemT (s : State) (via : Via) (l : AccList) (g : Geo) (i j : Nat) : Rd Nat := do
  let x ← s.regionElem via.part (s.rdNat via) l.et l.sbase l.bbase g i j
  l.notes.foldlM (fun t a => s.applyNote via l.et g i j t a) (roundFl .f32 .rne false x)

/-- The final rounding of R73. -/
def outOf (sat : Bool) (e : ET) (t : Nat) : Nat := convFF .rne sat .f32 e (toFl .f32 t)

/-- The elements of the 32 lines of a tile (R397). -/
def tileCells (layout row0 col0 e : Nat) : List (Nat × Nat) :=
  ((List.range 32).map fun r => (List.range e).map fun c =>
    if layout = 0 then (row0 + r, col0 + c) else (row0 + c, col0 + r)).flatten

/-- The values of a list of elements, with what their reads left; or every error met. -/
def State.cells (s : State) (via : Via) (l : AccList) (g : Geo) :
    List (Nat × Nat) → Trail → Except (List AccErr) (List Nat × Trail)
  | [], t => .ok ([], t)
  | c :: cs, t =>
    match s.elemT via l g c.1 c.2 t, State.cells s via l g cs t with
    | .ok (v, t), .ok (vs, t') =>
      .ok (v :: vs, ⟨t.poison || t'.poison, t.at_ ++ t'.at_, (t.atoms ++ t'.atoms).eraseDups⟩)
    | .ok _, .error es => .error es
    | .error e, .ok _ => .error [e]
    | .error e, .error es => .error (e :: es)

/-- The error that comes first under R192. -/
def firstErr (es : List AccErr) : AccErr :=
  (([0x06, 0x07, 0x12] : List (BitVec 8)).findSome? fun c => es.find? fun e => e.cause == c).getD .bad

/-- The tile of a load: its bytes, the list they were read with, and the atoms read; or what ends it (R72, R398). -/
def State.tile (s : State) (via : Via) (a b : Nat) (e : ET) (sat : Bool) :
    Except AccErr (List Byte × AccList × Trail) :=
  match s.handle? via.part (a % 4096) with
  | none => .error ⟨0x07, 0, true⟩
  | some (h, p) =>
    let l := h.list
    let lay := field a 16 1
    let n := 256 / e.width
    match s.geo? via.part l.geo with
    | none => .error .bad
    | some g =>
      if !s.usable g || !eszAgrees l.et g then .error .bad
      else if g.rowsE < field b 0 32 + (if lay = 0 then 32 else n)
          || logicalCols l.et g < field b 32 32 + (if lay = 0 then n else 32) then .error .bad
      else
        let bad := (List.range 4).any fun i => s.poison.contains (atomOf p + i)
        let record := (List.range 4).map fun i => Sector.plain (p + 32 * i)
        match s.cells via l g (tileCells lay (field b 0 32) (field b 32 32) n) ⟨bad, [], record⟩ with
        | .error es => .error (firstErr es)
        | .ok (vs, t) =>
          if t.poison then .error ⟨0x0D, t.at_.headD 0, false⟩
          else
            let lines := (List.range 32).map fun r => (List.range n).map fun c => outOf sat e (vs.getD (r * n + c) 0)
            .ok ((lines.map fun r => leBytes 32 (r.foldr (fun v acc => v + acc * 2 ^ e.width) 0)).flatten, l, t)

/-! ### accld (R397, R398) -/

/-- Nominal cycles from issue to the arrival at the home stack, and from there to the landing (entry 5). -/
def accordTrip : Nat := 200
def accordWork : Nat := 440

def execAccld (x : Ord) (s : State) : Out :=
  .next (s.uniformly x (srcABC x) fun s =>
    let a := s.cur.ua x
    let b := s.cur.ub .zero x
    let c := (s.cur.uc x).toNat
    if a.toNat % 2 ^ 16 / 4096 != 0 || 2 ^ 17 ≤ a.toNat || 2 ^ 19 ≤ c then s.refuse x.pred 0x07
    else if c % 32 != 0 then s.uniformFault x 0x04 c 0x00
    else if c < s.cur.lsb || s.cur.lsb + s.cur.lsize < c + 1024 then s.uniformFault x 0x05 c 0x00
    else if 62 ≤ s.cur.cntT then s.stall (.counterFull 3)
    else
      s.filledFor c 1024 (blocksWithin c 1024) (fun s k va => s.uniformFault x k va 0x00) fun s =>
      let id := s.fresh
      let n := Group.uniformCost (s.cur.exec x.pred) (anyV (srcABC x))
      let k := OpKind.accord a b (BitVec.ofNat 64 c) x.et.code s.cur.satN (s.cur.exec x.pred)
      let op := { id.2.opOf x.pred (lenOf x) 3 0 0x00 { Draft.none with kind := k } (n + accordTrip) [] with
        vas := [(lowest (s.cur.exec x.pred), BitVec.ofNat 64 c)] }
      (((id.2.charge n).occupy n).addOp id.1 op []).hold id.1)

/-- A trap found at the home stack ends the operation: the split goes back to its instruction, and T falls (R398). -/
def State.failTile (s : State) (id : Nat) (op : Op) (e : AccErr) : State :=
  let s := { s with eng := { s.eng with ops := Tab.erase id s.eng.ops } }
  let s := s.focus op.g
  -- a trap raised in handler mode (R195)
  if op.hand then (match s.anyGroup? op.g with | some g => s.doubleTrapOf g | none => s) else
  let t := match op.kind with | .accord _ _ _ _ _ m => lowest m | _ => 0
  -- poison in the foundation has no virtual address: the address is a free value (entry 4)
  let va := if e.cause = 0x0D && e.va = 0 then Config.freeValue s.free else BitVec.ofNat 64 e.va
  let h : HeldTrap := ⟨[⟨t, e.cause, va⟩], op.kindByte, op.omask, op.iw0, op.slot, op.counter, e.whole, op.issued⟩
  let g := s.cur.mapSplits (Split.unhold id)
  ({ s with free := s.free + 1, cur := { g with held := g.held ++ [h] } }).takeHeld

/-- The die of the home stack of a tile load: that of the handle's foundation (R68; entry 45). -/
def State.accordDie (s : State) (part a : Nat) : Nat :=
  match s.handle? part (a % 4096) with
  | some (h, _) => (match s.geo? part h.list.geo with | some g => homeDie g.pbase | none => 0)
  | none => 0

/-- ACCORD_TILE_LOAD (R72, R76): the arrival of a tile load at the home stack. -/
def State.tileArrives (s : State) (id : Nat) : State :=
  match Tab.get? id s.eng.ops with
  | none => s
  | some op =>
    match op.kind with
    | .accord a b c fmt sat _ =>
      if s.clock.cycle < op.due then s
      else
        match s.group? op.g with
        | none => s
        | some g =>
          match s.tile ⟨s.accordDie g.part a.toNat, g.part, []⟩ a.toNat b.toNat ((ET.ofCode fmt).getD .f32) sat with
          | .error e => s.failTile id op e
          | .ok (bytes, l, t) =>
            let k := OpKind.local_ c.toNat bytes (g.part * 4096 + a.toNat % 4096) l.notes
            let op := { op with kind := k, due := s.clock.cycle + accordWork }
            let s := s.focus op.g
            let s := { s with eng := { s.eng with ops := Tab.set id op s.eng.ops } }
            let s := s.ask (s.asker id) false t.atoms
            s.releaseAt id op
    | _ => s

def execAccordTileLoad (op : Nat) (s : State) : Out := .next (s.tileArrives op)

/-! ### acc (R74-R76, R399, R400) -/

/-- The first check of R400: the reserved bits of A, and the handle. -/
def State.onHandle (s : State) (x : Ord) (run : State → Handle → Nat → State) : State :=
  let a := (s.cur.ua x).toNat
  if 4096 ≤ a then s.refuse x.pred 0x07
  else
    match s.handle? s.cur.part a with
    | none => s.refuse x.pred 0x07
    | some (h, p) => run s h p

/-- The page checks of R400 on a note header and the handle's sync word: not present first, then the rest. -/
def State.accPages (s : State) (x : Ord) (note : Word) (l : AccList) (run : State → Map → Map → State) : State :=
  let page := fun (a : Word) => a.toNat / 4096 * 4096
  let h := s.unitMap s.cur.part note.toNat 64 false
  let w := s.unitMap s.cur.part l.sync.toNat 8 true
  match h, w with
  | .ok h, .ok w =>
    if !h.ac || 4 ≤ h.space then s.uniformFault x 0x07 note.toNat 0x00
    else if !w.plain then s.uniformFault x 0x07 l.sync.toNat 0x01
    else run s h w
  | .error c, .error d =>
    if c = 0x06 then s.uniformFault x c (page note) 0x00
    else if d = 0x06 then s.uniformFault x d (page l.sync) 0x01
    else s.uniformFault x c note.toNat 0x00
  | .error c, .ok _ => s.uniformFault x c (if c = 0x06 then page note else note.toNat) 0x00
  | .ok h, .error d =>
    if d = 0x06 then s.uniformFault x d (page l.sync) 0x01
    else if !h.ac then s.uniformFault x 0x07 note.toNat 0x00
    else s.uniformFault x 0x07 l.sync.toNat 0x01

/-- Store a new version into a handle's sync word of this module (R74 step 3). -/
def State.storeVersion (s : State) (w : Map) (l : AccList) (version : BitVec 32) : State :=
  let bs := leBytes 8 version.toNat
  let s := s.mapWrite w l.sync.toNat bs
  let s := (bs.zipIdx).foldl (fun s (e : Byte × Nat) =>
    s.coreUpdate s.cur.id.die s.cur.id.core w.space (w.phys (l.sync.toNat + e.2)) e.1) s
  s.settleWaiters

/-- The release at module scope, the change of the record and the store of the version (R74 steps 1-3). A sync word at another
module is stored there, and the instruction waits for the answer (R28, R29). -/
def State.changeList (s : State) (x : Ord) (srcs : List Opd) (w : Map) (h : Handle) (p : Nat) (notes : List Word) (fin : State → State) :
    State :=
  let word := w.wordKey h.list.sync.toNat
  match s.releaseBound word 3 with
  | (some (c, va), s) => s.uniformFault x c va 0x01
  | (none, s) =>
    if !s.fenceOpen s.cur.id 4 then s.awaitWide (.fence 4)
    else
      let v := h.list.version + 1
      let s := s.putHome p (leBytes 128 (recordWith (s.homeNat p 128) notes v))
      if w.isLocal then (fin (s.storeVersion w h.list v)).doneWide x srcs
      else
        ((fin s).request w h.list.sync.toNat opWrite 1 (leBytes 8 v.toNat ++ [0]) (.sync s.cur.slot false 0x01) 0
          (lowest (s.cur.exec x.pred)) (s.cur.omask x.pred)).2.awaitWide .acquire

/-- The frame of `acc` attach and detach: one whose version store at another module is outstanding waits for it, and is done when
it is answered. -/
def State.changing (s : State) (x : Ord) (srcs : List Opd) (run : State → State) : State :=
  s.uniformly x srcs fun s =>
    match s.waiterOf with
    | some _ => s.dropWaiter.doneWide x srcs
    | none => if s.syncOut then s.awaitWide .acquire else run s

def execAccAttach (x : Ord) (s : State) : Out :=
  .next (s.changing x (srcAB x) fun s =>
    let b := s.cur.ub .zero x
    s.onHandle x fun s h p =>
      if h.ncount = 8 then s.refuse x.pred 0x0A
      else if field b.toNat 52 12 != 0 || field b.toNat 0 6 != 0 then s.refuse x.pred 0x12
      else
        s.accPages x b h.list fun s m w =>
          if s.poisoned m b.toNat 64 then s.uniformFault x 0x0D b.toNat 0x00
          else if (noteOf (leNat (s.mapBytes m b.toNat 64))).isNone then s.refuse x.pred 0x12
          else s.changeList x (srcAB x) w h p (h.list.notes ++ [b]) fun s => s)

/-- The outstanding tile loads that read a list of a handle with a note in it (R75). -/
def State.readersOf (s : State) (handle : Nat) (note : Word) : List Nat :=
  (s.eng.ops.filter fun (e : Nat × Op) =>
    match e.2.kind with
    | .local_ _ _ h notes => h == handle && notes.contains note
    | _ => false).map fun e => e.1

/-- A fold whose snapshot holds note k of a handle is superseded by its detach (R77, R78): the notes of the snapshot that other
folds have removed stood before it. -/
def State.supersede (s : State) (part handle k : Nat) : State :=
  { s with eng := { s.eng with cmds := s.eng.cmds.map fun (e : Nat × Cmd) =>
      let n := match e.2.list with | some l => l.notes.length | none => 0
      if e.2.cls == 3 && e.2.part == part && field e.2.shape 4 12 == handle && k + e.2.gone < n then
        (e.1, { e.2 with superseded := true })
      else e } }

/-- The pending part of a detach: an operation that counts on T (R75, R399). -/
def State.pendDetach (s : State) (x : Ord) (after : List Nat) : State :=
  let id := s.fresh
  let k := OpKind.detach after
  id.2.addOp id.1 (id.2.opOf x.pred (lenOf x) 3 7 0x00 { Draft.none with kind := k } 0 []) []

def execAccDetach (x : Ord) (s : State) : Out :=
  .next (s.changing x [x.a] fun s =>
    let k := x.imm.toNat % 8
    s.onHandle x fun s h p =>
      if h.ncount ≤ k then s.refuse x.pred 0x0A
      else
        let note := h.list.notes.getD k 0
        let handle := (s.cur.ua x).toNat
        s.accPages x note h.list fun s _ w =>
          if 62 ≤ s.cur.cntT then s.stall (.counterFull 3)
          else
            s.changeList x [x.a] w h p (h.list.notes.eraseIdx k) fun s =>
              (s.supersede s.cur.part handle k).pendDetach x (s.readersOf (s.cur.part * 4096 + handle) note))

def execAccVersion (x : Ord) (s : State) : Out :=
  .next (s.named x.pred [x.d, x.a] fun s => s.uniformly x [x.a] fun s =>
    s.onHandle x fun s h _ =>
      ({ s with cur := s.cur.setDest x (h.list.version.setWidth 64) }).doneWide x [x.a])

end Sys2Proof.Machine
end

