-- ==== Sys2Proof/Machine/Engine.lean ====
section
/-!
DEFINITION. Engine commands (R88-R91, R402-R405, R410): issue, pins, validation, completion, revocation, and the copy engine;
opcode 0x68.
-/

namespace Sys2Proof.Machine

open Sys2Proof

/-! ### Shape records (R403, R405-R409) -/

/-- A field of a command's shape record. -/
def Cmd.f (c : Cmd) (lo len : Nat) : Nat := field c.shape lo len

/-- The address of the completion record (R403). -/
def Cmd.compl (c : Cmd) : Nat := c.f 64 64

/-- A 64-bit sum. -/
def add64 (a b : Nat) : Nat := (a + b) % 2 ^ 64

/-- The team whose local store a command addresses. -/
def Team.ofCmd (t : Team) (c : Cmd) : Bool :=
  t.die == c.g.die && t.core == c.g.core && t.lane == c.g.lane && t.launch == c.launch

def State.cmdTeam (s : State) (c : Cmd) : Option Team := s.teams.find? fun t => t.ofCmd c

def State.updCmdTeam (s : State) (c : Cmd) (f : Team → Team) : State :=
  { s with teams := s.teams.map fun t => if t.ofCmd c then f t else t }

/-- Whether a local-store range lies within the team's allocation and outside every system area (R87, R405). -/
def State.localOk (s : State) (c : Cmd) (off n : Nat) : Bool :=
  match s.cmdTeam c with
  | some t => t.allows Group.empty off n
  | none => false

/-! ### Reads and writes of engines (R52, R229) -/

/-- A byte that an engine has read, with the mark of its atom (R52). -/
abbrev Marked : Type := Byte × Bool

/-- The value of marked bytes as a number, and whether one of them is marked. -/
def markedNat (l : List Marked) : Nat := leNat (l.map fun b => b.1)
def anyMark (l : List Marked) : Bool := l.any fun b => b.2

/-- How the engine of a command reaches memory. -/
def Cmd.via (c : Cmd) : Via := ⟨c.die, c.part, c.pins⟩

/-- Bytes at the home through one map, with their marks. -/
def State.marked (s : State) (m : Map) (va n : Nat) : List Marked :=
  (List.range n).map fun i =>
    let p := m.phys (va + i)
    if m.space = 3 then (s.farByte m p, false) else (s.homeByte m.space p, s.badByte m.space p)

/-- The pieces of a range that an engine accesses, page by page: the map, the first byte and the length of each; none where a page
refuses. -/
def State.engPieces (s : State) (u : Via) (write : Bool) : (fuel va n : Nat) → Option (List (Map × Nat × Nat))
  | 0, _, _ => some []
  | fuel + 1, va, n =>
    if n = 0 then some []
    else
      let k := min n (4096 - va % 4096)
      match s.viaMap u va k write with
      | .error _ => none
      | .ok m => (State.engPieces s u write fuel (va + k) (n - k)).map ((m, va, k) :: ·)

def State.engRange (s : State) (u : Via) (write : Bool) (va n : Nat) : Option (List (Map × Nat × Nat)) :=
  s.engPieces u write (n / 4096 + 2) va n

/-- Bytes that an engine reads; none where a page cannot be read or lies in another module. -/
def State.engRead (s : State) (u : Via) (va n : Nat) : Option (List Marked) :=
  match s.engRange u false va n with
  | none => none
  | some l => if l.any fun e => 4 ≤ e.1.space then none else some (l.map fun e => s.marked e.1 e.2.1 e.2.2).flatten

/-! ### The traffic of engines (R44, R92) -/

/-- On whose behalf the engine of a command asks: a guaranteed launch's requests are guaranteed (R46). -/
def State.cmdAsker (s : State) (c : Cmd) : Asker :=
  ⟨some c.id, some c.launch, c.part, match s.launch? c.launch with | some l => l.p.cls == 0 && !l.overrun | none => false⟩

/-- Whether a command runs on the slices, which work beneath the die buffer. -/
def Cmd.sliced (c : Cmd) : Bool := c.cls = 1 || c.cls = 2 || c.cls = 3

/-- The path of a command (R241, R402). -/
def Cmd.path (c : Cmd) : Nat := if c.cls = 0 then 1 else if c.cls = 4 then 6 else 2

/-- Whether every byte of a sector stands in the die buffer. -/
def State.sectorHome (s : State) (space : Nat) (x : Sector) : Bool :=
  x.touch.all fun p => (List.range 32).all fun i => (Tab.get? (byteKey space (p + i)) s.home).isSome

/-- The sectors of the pieces in this module; of an engine above the die buffer only those that miss it. -/
def State.sectorsOf (s : State) (all : Bool) (l : List (Map × Nat × Nat)) : List Sector :=
  joinSectors (((l.filter fun e => e.1.isLocal).map fun e =>
    let x := e.1.sectors e.2.1 e.2.2
    if all then x else x.filter fun y => !s.sectorHome e.1.space y).flatten)

/-- A read of pieces by an engine above the die buffer: what misses is requested and then stands in the buffer (R225). -/
def State.readThrough (s : State) (a : Asker) (u : Via) (l : List (Map × Nat × Nat)) : State :=
  let s := l.foldl (fun (s : State) e => s.fillDie u e.2.1) s
  let s := s.ask a false (s.sectorsOf false l)
  l.foldl (fun (s : State) e => if e.1.isLocal then s.fillHome (e.1.lines false e.2.1 e.2.2) else s) s

/-- The requests of a command's reads: a slice is charged for every atom (R92). -/
def State.cmdReads (s : State) (c : Cmd) (l : List (Map × Nat × Nat)) : State :=
  if c.sliced then s.ask (s.cmdAsker c) false (s.sectorsOf true l) else s.readThrough (s.cmdAsker c) c.via l

/-- The requests of a command's reads of byte ranges. -/
def State.askRanges (s : State) (c : Cmd) (l : List (Nat × Nat)) : State :=
  s.cmdReads c ((l.map fun e => (s.engRange c.via false e.1 e.2).getD []).flatten)

/-- The atoms of a local map that a write meets, each with one of its addresses. -/
def Map.atomAddrs (m : Map) (va n : Nat) : List Nat :=
  ((List.range n).foldl (fun (acc : List (Nat × Nat)) i =>
    let p := m.phys (va + i)
    if acc.any fun e => e.1 == atomOf p then acc else (atomOf p, p) :: acc) []).map fun e => e.2

/-- The physical runs that a write through a map meets. -/
def Map.runs (m : Map) (va n : Nat) : List (Nat × Nat) :=
  match m.geo with
  | none => [(m.phys va, n)]
  | some _ => (m.atomAddrs va n).map fun p => (p / 32 * 32, 32)

/-- A group's runs of a path, for the path fences that follow (R241). -/
def State.noteRuns (s : State) (c : Cmd) (l : List (Nat × Nat)) : State :=
  s.updGroup c.g fun g => { g with wrote := (l.map fun e => (c.path, e.1, e.2)).filter (fun e => !g.wrote.contains e) ++ g.wrote }

/-- Write marked bytes through one map of this module: whole atoms lose their mark, and atoms that take a poisoned byte get
it. A slice is charged for every atom, and its result fills the atoms of a result window when it is written whole (R52, R58, R87,
R92). -/
def State.engPiece (s : State) (c : Cmd) (result : Bool) (m : Map) (va : Nat) (bs : List Marked) : State :=
  let s := s.mapWrite m va (bs.map fun b => b.1)
  if !m.isLocal then s
  else
    let s := s.noteRuns c (m.runs va bs.length)
    let s := s.clearPoison (written bs.length [⟨0, BitVec.ofNat 64 va, m⟩])
    let s := (bs.zipIdx).foldl (fun (s : State) (e : Marked × Nat) =>
      if e.1.2 then s.markPoison (atomOf (m.phys (va + e.2))) else s) s
    if c.sliced then
      let s := s.ask (s.cmdAsker c) true (m.sectors va bs.length)
      let full := (m.atomAddrs va bs.length).filter s.inWindow
      if !result || full.isEmpty then s
      else s.queueFe ⟨homeDie (full.headD 0), 64, 0, 0, full.map atomOf, true, m, va, bs.map fun b => b.1⟩
    else s

/-- Send a request of a command through a remote page. -/
def State.engRequest (s : State) (c : Cmd) (m : Map) (va : Nat) (op : BitVec 6) (payload : List Byte) (kind : RemoteKind) :
    State :=
  let tag := freeTag s.fabric.waiting 65536 s.fabric.nextTag
  let f := s.flit op (BitVec.ofNat 22 m.dev) m.rpart tag (m.phys va) 0 (requestPayload c.part payload)
  let r : Remote :=
    { kind := kind, g := c.g, op := engKey, thread := 0, va := BitVec.ofNat 64 va, addr := m.phys va,
      dest := BitVec.ofNat 22 m.dev, issued := s.clock.cycle, write := op != opReadRequest, acq := none, iw0 := 0, omask := 0 }
  (s.markRemote c.launch c.part m.dev).outstanding f r

/-- The bytes of a write request with the marks of its two atoms behind them (R52; entry 21). -/
def writePayload (va : Nat) (bs : List Marked) : List Byte :=
  let bad := fun (k : Nat) => (bs.zipIdx).any fun (e : Marked × Nat) => e.1.2 && (va + e.2) / 32 % 2 == k
  (bs.map fun b => b.1) ++ [BitVec.ofNat 8 ((if bad 0 then 1 else 0) + (if bad 1 then 2 else 0))]

/-- Write the pieces of a range: at home, or, in parts that one flit carries, at another module. -/
def State.writePieces (s : State) (c : Cmd) (kind : RemoteKind) (l : List (Map × Nat × Nat)) (bs : List Marked) : State :=
  (l.foldl (fun (e : State × List Marked) x =>
    let b := e.2.take x.2.2
    let s := e.1.fillDie c.via x.2.1
    (if x.1.space < 4 then s.engPiece c (kind != .store) x.1 x.2.1 b
      else
        ((List.range (x.2.2 / 64 + 2)).foldl (fun (r : State × Nat × List Marked) _ =>
          let k := min r.2.2.length (64 - r.2.1 % 64)
          if k = 0 then r
          else (r.1.engRequest c x.1 r.2.1 opWrite (writePayload r.2.1 (r.2.2.take k)) kind, r.2.1 + k, r.2.2.drop k))
          (s, x.2.1, b)).1, e.2.drop x.2.2)) (s, bs)).1

/-- Write marked bytes at a virtual address; none where a page refuses it. -/
def State.engWrite (s : State) (c : Cmd) (kind : RemoteKind) (va : Nat) (bs : List Marked) : Option State :=
  (s.engRange c.via true va bs.length).map fun l => s.writePieces c kind l bs

/-- Deliver marked bytes to a destination of a command: local store, or memory. -/
def State.deliver (s : State) (c : Cmd) (dls : Bool) (dest : Nat) (bs : List Marked) : Option State :=
  if dls then
    some (s.updCmdTeam c fun t =>
      (blocksWithin dest bs.length).foldl Team.markBlock (t.store dest (bs.map fun b => b.1)))
  else s.engWrite c (.copyWrite c.id) dest bs

/-! ### Copies (R405) -/

/-- Bytes of an element of a copy. -/
def Cmd.esz (c : Cmd) : Nat := 2 ^ c.f 4 2

/-- First bytes of row r in the source and in the destination. -/
def Cmd.srcRow (c : Cmd) (r : Nat) : Nat :=
  if c.shape.testBit 6 then add64 (c.f 128 64) (r * c.f 256 64)
  else add64 (c.f 128 64) ((c.x.toNat + r) * c.f 256 64 + c.y.toNat * c.esz)

def Cmd.dstRow (c : Cmd) (r : Nat) : Nat :=
  if c.shape.testBit 6 then add64 (c.f 192 64) ((c.x.toNat + r) * c.f 320 64 + c.y.toNat * c.esz)
  else add64 (c.f 192 64) (r * c.f 320 64)

def Cmd.rowBytes (c : Cmd) : Nat := c.f 40 20 * c.esz

/-- Elements of a well-formed copy (R405). -/
def State.checkCopy (s : State) (c : Cmd) : Option Nat :=
  let rows := c.f 20 20
  let al := fun (n : Nat) => n % c.esz == 0
  if c.f 384 128 != 0 || c.f 60 4 != 0 || c.f 9 11 != 0 || rows = 0 || c.f 40 20 = 0 then none
  else if !(al (c.f 320 64) && al (c.f 256 64) && al (c.f 192 64) && al (c.f 128 64)) then none
  else if c.shape.testBit 7 && !(c.f 128 64 < 2 ^ 19 && (List.range rows).all fun r => s.localOk c (c.srcRow r) c.rowBytes)
    then none
  else if c.shape.testBit 8 && !(c.f 192 64 < 2 ^ 19 && (List.range rows).all fun r => s.localOk c (c.dstRow r) c.rowBytes)
    then none
  else some rows

/-! ### Pins (R88) -/

/-- A range of a command's pages: whether it is written, and whether it is read for an accord. -/
structure Need where
  va : Nat
  len : Nat
  write : Bool
  ac : Bool
  deriving DecidableEq, Repr

/-- The most pins of one command. -/
def pinMax : Nat := 1024

/-- The pins of one range, leaf by leaf, or the first fault: the first and the last byte that a leaf gives the range must be
accessible. -/
def State.pinRange (s : State) (a : Acc) (n : Need) : (fuel va : Nat) → List TlbEntry →
    Except (BitVec 8 × Nat) (List TlbEntry) × State
  | 0, _, acc => (.ok acc, s)
  | fuel + 1, va, acc =>
    if n.va + n.len ≤ va then (.ok acc, s)
    else
      let a := { a with write := n.write }
      match s.translate a (BitVec.ofNat 64 va) 1 1 with
      | (.error c, s) => (.error (c, va), s)
      | (.ok m, s) =>
        if n.ac && !m.ac then (.error (0x07, va), s)
        else
          match s.findLeaf a.die a.core a.part va with
          | (.leaf l, s) =>
            let last := min (n.va + n.len) (l.base + l.size) - 1
            match s.mapOf a l last 1 with
            | .error c => (.error (c, last), s)
            | .ok _ =>
              let e := l.toTlb a.part
              State.pinRange s a n fuel (l.base + l.size) (if acc.any (fun x => x.base == e.base) then acc else e :: acc)
          | (_, s) => (.error (0x06, va), s)

/-- The pins of a list of ranges, or the first fault. -/
def State.pinAll (s : State) (a : Acc) : List Need → List TlbEntry → Except (BitVec 8 × Nat) (List TlbEntry) × State
  | [], acc => (.ok acc, s)
  | n :: l, acc =>
    match s.pinRange a n (pinMax + 2) n.va acc with
    | (.error e, s) => (.error e, s)
    | (.ok acc, s) => State.pinAll s a l acc

/-- The bytes that the issuing die reads to find the pages of a command, or the first page that refuses (R88). -/
def State.issueRead (s : State) (u : Via) : (fuel va n : Nat) → Except (BitVec 8 × Nat) (List Byte)
  | 0, _, _ => .ok []
  | fuel + 1, va, n =>
    if n = 0 then .ok []
    else
      let k := min n (4096 - va % 4096)
      match s.viaMap u va k false with
      | .error c => .error (c, va)
      | .ok m => (State.issueRead s u fuel (va + k) (n - k)).map fun l => (s.marked m va k).map (fun b => b.1) ++ l

/-! ### Completion and revocation (R89, R90, R403) -/

/-- Change a command. -/
def State.updCmd (s : State) (id : Nat) (f : Cmd → Cmd) : State :=
  { s with eng := { s.eng with cmds := Tab.update id f s.eng.cmds } }

def State.cmd? (s : State) (id : Nat) : Option Cmd := Tab.get? id s.eng.cmds

/-- Nominal cycles from issue to the engine, and from the last element to completion (entry 5). -/
def cmdStart : Nat := 800
def cmdEnd : Nat := 200

/-- A command ends with a status; its completion is then to be written. -/
def State.endCmd (s : State) (id status done : Nat) : State :=
  s.updCmd id fun c => { c with status := status, done := done, phase := .finished, due := s.clock.cycle + cmdEnd }

/-- The 16 bytes of a flit's header (R25). -/
def flitHeader (f : Flit) : Nat :=
  f.dst.toNat + f.src.toNat * 2 ^ 22 + f.op.toNat * 2 ^ 44 + f.part.toNat * 2 ^ 50 + f.tag.toNat * 2 ^ 56
    + f.paddr.toNat * 2 ^ 72 + f.len.toNat * 2 ^ 120 + f.scope.toNat * 2 ^ 124 + (if f.last then 2 ^ 127 else 0)

/-- The completion record of a command (R403). -/
def Cmd.record (c : Cmd) (now : Word) : List Byte :=
  let hdr := match c.hdr with | some f => flitHeader f | none => 0
  leBytes 64 (c.status + c.cls * 2 ^ 8 + c.done % 2 ^ 32 * 2 ^ 32 + c.total % 2 ^ 32 * 2 ^ 64
    + c.version.toNat * 2 ^ 96 + now.toNat * 2 ^ 320 + hdr * 2 ^ 384)

/-- Write bytes for a command, in this module or, as flits, in another. -/
def State.cmdPut (s : State) (c : Cmd) (va : Nat) (bs : List Byte) : State :=
  (s.engWrite c .store va (bs.map fun b => (b, false))).getD s

/-- Add 1 to a completion counter word, as a release (R90). -/
def State.cmdCount (s : State) (c : Cmd) : State :=
  match s.viaMap c.via c.counter.toNat 8 true with
  | .error _ => s
  | .ok m =>
    if 4 ≤ m.space then s.engRequest c m c.counter.toNat opAtomicRequest (atomicPayload (relCode .add) 8 1 0) .store
    else
      let v := leNat (s.mapBytes m c.counter.toNat 8)
      (s.mapWrite m c.counter.toNat (leBytes 8 (v + 1))).settleWaiters

/-- A command completes (R90): the record, the counter word, the C counter, in this order; the pins go with the command. -/
def State.completeCmd (s : State) (cmd : Nat) : State :=
  match s.cmd? cmd with
  | none => s
  | some c =>
    if c.phase != .finished || s.clock.cycle < c.due then s
    else
      let s := (s.cmdPut c c.compl (c.record s.clock.time)).cmdCount c
      let s := s.updGroup c.g fun g =>
        { g.uncount 2 with revoked := if c.status = 1 then g.revoked + 1 else g.revoked }
      { s with eng := { s.eng with cmds := Tab.erase cmd s.eng.cmds } }

/-- COMMAND_COMPLETION (R90). -/
def execCommandCompletion (cmd : Nat) (s : State) : Out := .next (s.completeCmd cmd)

/-- Drop what a command still expects from the fabric. -/
def State.dropWaiting (s : State) (id : Nat) : State :=
  { s with fabric := { s.fabric with waiting := s.fabric.waiting.filter fun (e : Nat × Remote) =>
    match e.2.kind with
    | .copyRead k _ => k != id
    | .copyWrite k => k != id
    | .coll k => k != id
    | _ => true } }

/-- Whether a command still expects something from the fabric. -/
def State.expects (s : State) (id : Nat) : Bool :=
  s.fabric.waiting.any fun (e : Nat × Remote) =>
    match e.2.kind with
    | .copyRead k _ => k == id
    | .copyWrite k => k == id
    | _ => false

/-- Whether a command is ready for its engine: it is queued, and nothing that it has asked for is outstanding. -/
def State.ready (s : State) (c : Cmd) (cls : Nat) : Bool :=
  c.cls = cls && c.phase == .queued && c.due ≤ s.clock.cycle && !(c.asked && s.requestsLeft c.id)

/-! ### COPY_COMMAND (R405) -/

/-- The first block of a mapped range that a local access of n bytes waits for: a store waits for none that it covers whole
(R222). -/
def Team.blockNeeded (t : Team) (off n : Nat) (store : Bool) : Option Nat :=
  ((List.range (n / 256 + 2)).map fun i => blockOf off + 256 * i).find? fun b =>
    b < off + n && !(store && off ≤ b && b + 256 ≤ off + n)
      && (blockAtoms b).any fun a => t.unfilled a && a < off + n && off < a + 32

/-- The block that row r of a copy waits for. -/
def State.copyBlock (s : State) (c : Cmd) (r : Nat) : Option Nat :=
  (s.cmdTeam c).bind fun t =>
    (if c.shape.testBit 7 then t.blockNeeded (c.srcRow r) c.rowBytes false else none)
      <|> (if c.shape.testBit 8 then t.blockNeeded (c.dstRow r) c.rowBytes true else none)

/-- Whether a copy waits for what other modules are to send of its row. -/
def State.copyWaits (s : State) (c : Cmd) : Bool :=
  s.fabric.waiting.any fun (e : Nat × Remote) => match e.2.kind with | .copyRead k _ => k == c.id | _ => false

/-- The rows of a copy before the first one of which something is outstanding (R89). -/
def State.copyDone (s : State) (c : Cmd) : Nat :=
  let out := s.fabric.waiting.filterMap fun (e : Nat × Remote) =>
    match e.2.kind with
    | .copyRead k _ => if k = c.id then some (false, e.2.va.toNat) else none
    | .copyWrite k => if k = c.id then some (true, e.2.va.toNat) else none
    | _ => none
  let clear := fun (r : Nat) => out.all fun e =>
    let lo := if e.1 then c.dstRow r else c.srcRow r
    !(lo ≤ e.2 && e.2 < lo + c.rowBytes)
  ((List.range c.done).takeWhile clear).length

/-- A copy ends before its last row. -/
def State.breakCopy (s : State) (c : Cmd) (status : Nat) : State := (s.dropWaiting c.id).endCmd c.id status (s.copyDone c)

/-- Ask another module for a piece of a row, in parts that one flit carries: each is delivered when it arrives. -/
def State.copyAsk (s : State) (c : Cmd) (m : Map) (dst : Nat) : (fuel va n : Nat) → State
  | 0, _, _ => s
  | fuel + 1, va, n =>
    if n = 0 then s
    else
      let k := min n (64 - va % 64)
      State.copyAsk (s.engRequest c m va opReadRequest [BitVec.ofNat 8 k, 1] (.copyRead c.id (BitVec.ofNat 64 dst))) c m
        (add64 dst k) fuel (va + k) (n - k)

/-- The reads of row r are sent: to the channels, and to other modules (R92, R405). -/
def State.copyAsks (s : State) (c : Cmd) (r : Nat) : Option State :=
  let s := s.updCmd c.id fun c => { c with asked := true }
  if c.shape.testBit 7 then some s
  else
    (s.engRange c.via false (c.srcRow r) c.rowBytes).map fun l =>
      (l.filter fun e => 4 ≤ e.1.space).foldl (fun (s : State) e =>
        s.copyAsk c e.1 (add64 (c.dstRow r) (e.2.1 - c.srcRow r)) (e.2.2 / 64 + 2) e.2.1 e.2.2) (s.cmdReads c l)

/-- What lies in this module of row r is copied: the state, and whether a mark was carried. -/
def State.copyRow (s : State) (c : Cmd) (r : Nat) : Option (State × Bool) :=
  let dls := c.shape.testBit 8
  if c.shape.testBit 7 then
    let bs := ((s.cmdTeam c).map fun t => t.ls.bytes (c.srcRow r) c.rowBytes).getD []
    (s.deliver c dls (c.dstRow r) (bs.map fun b => (b, false))).map fun s => (s, false)
  else
    (s.engRange c.via false (c.srcRow r) c.rowBytes).bind fun l =>
      (l.filter fun e => e.1.space < 4).foldl (fun (a : Option (State × Bool)) e =>
        a.bind fun a =>
          let bs := a.1.marked e.1 e.2.1 e.2.2
          (a.1.deliver c dls (add64 (c.dstRow r) (e.2.1 - c.srcRow r)) bs).map fun s => (s, a.2 || anyMark bs)) (some (s, false))

/-- A copy whose rows have been issued is done when nothing of it is outstanding. -/
def State.settleCopy (s : State) (id : Nat) : State :=
  match s.cmd? id with
  | none => s
  | some c =>
    if c.cls = 0 && c.phase == .swapping && !s.expects id then s.endCmd id (if c.poisoned then 3 else 0) c.total else s

/-- Whether a fill that a command needs cannot be made yet: one is in flight, or its group is not resident. -/
def State.fillHeld (s : State) (c : Cmd) : Bool := s.fillOut c.g || (s.group? c.g).isNone

/-- The map unit fills a block for a command; where the fill fails the command is malformed (R222; entry 12). -/
def State.cmdFill (s : State) (c : Cmd) (b : Nat) : State :=
  if s.fillHeld c then s
  else
    let s := s.fillBlock c.g b
    let mine := fun (f : FillFault) => blockOf f.atom == b
    if ((s.group? c.g).map fun g => g.fillFaults.any mine).getD false then
      let s := s.updGroup c.g fun g => { g with fillFaults := g.fillFaults.filter fun f => !mine f }
      (s.dropWaiting c.id).endCmd c.id 2 (if c.cls = 0 then s.copyDone c else c.done)
    else s

/-- One row of a copy: its reads are sent, and when they are served it is written. -/
def State.runCopy (s : State) (id : Nat) : State :=
  match s.cmd? id with
  | none => s
  | some c =>
    if !s.ready c 0 || s.copyWaits c then s
    else if !c.asked then
      match s.copyBlock c c.done with
      | some b => s.cmdFill c b
      | none => (s.copyAsks c c.done).getD (s.breakCopy c 2)
    else
      match s.copyRow c c.done with
      | none => s.breakCopy c 2
      | some (s, bad) =>
        (s.updCmd id fun c =>
          { c with
            done := c.done + 1, asked := false, poisoned := c.poisoned || bad
            phase := if c.done + 1 = c.total then .swapping else .queued }).settleCopy id

def execCopyCommand (cmd : Nat) (s : State) : Out := .next (s.runCopy cmd)

end Sys2Proof.Machine
end

