-- ==== Sys2Proof/Machine/Slices.lean ====
section
/-!
DEFINITION. The bank slices and the collective engine: gather-pool (R85, R86), matrix-vector products (R81-R84), folds
(R77, R78), collectives (R33, R34, R409), and the issue of an engine command (R402, R404).
-/

namespace Sys2Proof.Machine

open Sys2Proof

/-! ### Gather-pool (R85, R86, R406) -/

/-- A lookup record. -/
structure Lookup where
  dest : Nat
  idx : Nat
  tbase : Nat
  nrows : Nat
  count : Nat
  rowlen : Nat
  tfmt : ET
  ofmt : ET
  pool : Nat
  dls : Bool
  deriving DecidableEq, Repr

/-- A record from its 256 bits; none where a code is reserved or a limit is broken (R85). -/
def lookupOf (n : Nat) : Option Lookup :=
  match ET.ofCode (field n 8 4), ET.ofCode (field n 4 4) with
  | some t, some o =>
    if field n 8 4 < 9 || 13 < field n 8 4 || field n 4 4 < 9 || 11 < field n 4 4 || field n 2 2 = 3 || n.testBit 0
        || field n 64 5 != 0 || field n 40 24 = 0 || field n 12 12 = 0 || field n 128 2 != 0 then none
    else
      some { dest := field n 192 64, idx := field n 128 64, tbase := field n 64 64, nrows := field n 40 24
             count := field n 24 16, rowlen := field n 12 12, tfmt := t, ofmt := o, pool := field n 2 2
             dls := n.testBit 1 }
  | _, _ => none

/-- Bytes from one table row to the next. -/
def Lookup.stride (r : Lookup) : Nat := (r.rowlen * (r.tfmt.width / 8) + 31) / 32 * 32

/-- Bytes of the pooled row. -/
def Lookup.outBytes (r : Lookup) : Nat := r.rowlen * (r.ofmt.width / 8)

/-- The address of a lookup record of a command. -/
def Cmd.recAddr (c : Cmd) (n : Nat) : Nat := add64 (c.f 128 64) (32 * (c.x.toNat % 2 ^ 32) + 32 * n)

/-- Elements of a well-formed gather-pool command. -/
def checkGather (c : Cmd) : Option Nat :=
  if c.f 192 320 != 0 || c.f 32 32 != 0 || c.f 4 12 != 0 || c.f 128 5 != 0 || c.f 16 16 = 0 then none else some (c.f 16 16)

/-- The quotient of an `f32` value by a count, rounded once (R86). -/
def quotF32 (e : ET) (sat : Bool) (t n : Nat) : Nat :=
  match toFl .f32 t with
  | .fin neg m k =>
    let d := dyadic m k
    signBit e neg + roundMag e .rne (sat && e != .f32) neg d.1 (d.2 * n)
  | v => outOf sat e (roundFl .f32 .rne false v)

/-- One element of a pooled row from the elements of its rows, in index order (R86). -/
def poolElem (r : Lookup) (sat : Bool) (xs : List Nat) : Nat :=
  if r.pool = 2 then
    match xs with
    | [] => 0
    | x :: l => outOf sat r.ofmt (l.foldl (fun s y => minMaxF .f32 true s y) x)
  else
    let s := xs.foldl (fun s x => addF32 s (toFl .f32 x)) 0
    if xs.isEmpty then 0 else if r.pool = 0 then outOf sat r.ofmt s else quotF32 r.ofmt sat s r.count

/-- How a lookup record ended. -/
inductive Pooled where
  | ok (bytes : List Marked)
  | stop (status : Nat)
  deriving DecidableEq, Repr

/-- The row indices of a record, with their marks. -/
def State.lookups (s : State) (c : Cmd) (r : Lookup) : Option (List (Nat × Bool)) :=
  (s.engRead c.via r.idx (4 * r.count)).map fun ib =>
    (List.range r.count).map fun j => let w := (ib.drop (4 * j)).take 4; (markedNat w, anyMark w)

/-- The pooled row of a record (R86). -/
def State.pool (s : State) (c : Cmd) (r : Lookup) : Pooled :=
  match s.lookups c r with
  | none => .stop 2
  | some is =>
    if is.any fun i => r.nrows ≤ i.1 then .stop 4
    else
      let w := r.tfmt.width / 8
      match is.mapM fun i => s.engRead c.via (add64 r.tbase (i.1 * r.stride)) (r.rowlen * w) with
      | none => .stop 2
      | some rows =>
        let anyIdx := is.any fun i => i.2
        let sat := c.fmt.getLsbD 3
        .ok (((List.range r.rowlen).map fun e =>
          let cells := rows.map fun row => (row.drop (w * e)).take w
          let xs := cells.map fun b => roundFl .f32 .rne false (toFl r.tfmt (markedNat b))
          let bad := anyIdx || cells.any anyMark
          (leBytes (r.ofmt.width / 8) (poolElem r sat xs)).map fun b => (b, bad)).flatten)

/-- A lookup record of a command as it is read. -/
def State.recBytes (s : State) (c : Cmd) (n : Nat) : Option (List Marked) := s.engRead c.via (c.recAddr n) 32

/-- A well-formed lookup record of a command. -/
def State.lookup? (s : State) (c : Cmd) (n : Nat) : Option Lookup := (s.recBytes c n).bind fun rb => lookupOf (markedNat rb)

/-- Whether some record has a local destination outside the allocation: then nothing is written (R87). -/
def State.badLocal (s : State) (c : Cmd) : Bool :=
  (List.range c.total).any fun n =>
    match s.lookup? c n with
    | some r => r.dls && !(r.dest < 2 ^ 19 && s.localOk c r.dest r.outBytes)
    | none => false

/-- The block of a mapped range that the next record's destination waits for (R222). -/
def State.gatherBlock (s : State) (c : Cmd) : Option Nat :=
  match s.lookup? c c.done with
  | some r => if r.dls then (s.cmdTeam c).bind fun t => t.blockNeeded r.dest r.outBytes true else none
  | none => none

/-- The reads of record n are sent to the channels. -/
def State.askRecord (s : State) (c : Cmd) (n : Nat) (r : Lookup) : State :=
  let rows := ((s.lookups c r).getD []).filterMap fun i =>
    if i.1 < r.nrows then some (add64 r.tbase (i.1 * r.stride), r.rowlen * (r.tfmt.width / 8)) else none
  (s.updCmd c.id fun c => { c with asked := true }).askRanges c ((c.recAddr n, 32) :: (r.idx, 4 * r.count) :: rows)

/-- A command has completed an element: it goes on with the next, or is complete. -/
def State.nextElem (s : State) (id : Nat) (bad : Bool) : State :=
  match s.cmd? id with
  | none => s
  | some c =>
    let s := s.updCmd id fun c => { c with done := c.done + 1, asked := false, poisoned := c.poisoned || bad }
    if c.done + 1 = c.total then s.endCmd id (if c.poisoned || bad then 3 else 0) c.total else s

/-- One record: its reads are sent, and when they are served the pooled row is written. A mark of the record itself enters every
value (R52). -/
def State.runGather (s : State) (id : Nat) : State :=
  match s.cmd? id with
  | none => s
  | some c =>
    let n := c.done
    if !s.ready c 1 then s
    else if !c.started then
      if s.badLocal c then s.endCmd id 2 n else s.updCmd id fun c => { c with started := true }
    else
      match s.recBytes c n, s.lookup? c n with
      | some rb, some r =>
        if !c.asked then
          match s.gatherBlock c with
          | some b => s.cmdFill c b
          | none => s.askRecord c n r
        else
          match s.pool c r with
          | .stop k => s.endCmd id k n
          | .ok bs =>
            let bs := bs.map fun b => (b.1, b.2 || anyMark rb)
            match s.deliver c r.dls r.dest bs with
            | none => s.endCmd id 2 n
            | some s => s.nextElem id (anyMark bs)
      | _, _ => s.endCmd id 2 n

def execGatherPool (cmd : Nat) (s : State) : Out := .next (s.runGather cmd)

/-! ### Matrix-vector (R81-R84, R407) -/

/-- Whether B is an accord handle. -/
def Cmd.bsel (c : Cmd) : Bool := c.shape.testBit 4

/-- The format and the geometry index of B. -/
def Cmd.bfmt (c : Cmd) : Option ET := if c.bsel then c.list.map AccList.et else ET.ofCode (c.f 17 4)
def Cmd.bgeo (c : Cmd) : Nat := if c.bsel then (match c.list with | some l => l.geo | none => 0) else c.f 5 12

def Cmd.vectors (c : Cmd) : Nat := c.f 29 3 + 1
def Cmd.afmt (c : Cmd) : Option ET := ET.ofCode (c.f 21 4)
def Cmd.ofmt (c : Cmd) : Option ET := ET.ofCode (c.f 25 4)
def Cmd.acc (c : Cmd) : Bool := c.shape.testBit 33
def Cmd.dls2 (c : Cmd) : Bool := c.shape.testBit 32

/-- Address of vector v and of result (v, m) (R407). -/
def Cmd.aAddr (c : Cmd) (v : Nat) : Nat := add64 (c.f 192 64) (c.x.toNat + v * c.f 128 32)
def Cmd.yAddr (c : Cmd) (rows w v m : Nat) : Nat := add64 (c.f 256 64) (c.y.toNat + (v * rows + m) * w)
def Cmd.psum (c : Cmd) (rows v m : Nat) : Nat := add64 (c.f 320 64) ((v * rows + m) * 4)

/-- Whether the partial-sum area lies on the stack of B, outside its result window (R81). A page that does not translate is
found by the pins. -/
def State.psumOk (s : State) (c : Cmd) (g : Geo) (n : Nat) : Bool :=
  let k := g.pbase / 2 ^ 36
  let w := s.stack k
  (List.range (n / 4096 + 2)).all fun i =>
    let va := (c.f 320 64) / 4096 * 4096 + 4096 * i
    if c.f 320 64 + n ≤ va then true
    else
      match s.viaMap c.via va 1 true with
      | .error _ => true
      | .ok m =>
        let p := m.phys va
        m.isLocal && stackOf p == k && (w.winSize = 0 || p + 4096 ≤ w.winBase || w.winBase + w.winSize ≤ p)

/-- Whether the formats of a command go together (R81). -/
def fmtsOk (a b o : ET) : Bool :=
  (b == .s8 && a == .s8 && o == .s32)
    || ((b == .bf16 || b == .e4m3 || b == .e5m2 || b == .e2m1) && (a == .bf16 || a == .e4m3 || a == .e5m2)
      && (o == .f32 || o == .bf16))

/-- Elements of a well-formed matrix-vector command (R81, R407). -/
def State.checkMvec (s : State) (c : Cmd) : Option Nat :=
  match c.afmt, c.bfmt, c.ofmt with
  | some a, some b, some o =>
    match s.region? c.part c.bgeo b with
    | none => none
    | some g =>
      let kl := logicalCols b g
      let w := o.width / 8
      let scales := b == .e2m1
      if c.f 160 32 != 0 || c.f 34 30 != 0 || !fmtsOk a b o || (c.bsel && b == .s8) then none
      else if c.acc && o == .bf16 then none
      else if !scales && (c.f 384 64 != 0 || c.f 448 64 != 0) then none
      else if 512 * 1024 < c.vectors * kl * (a.width / 8) then none
      else if c.f 320 5 != 0 || !s.psumOk c g (c.vectors * g.rowsE * 4) then none
      else if c.dls2 && !(c.yAddr g.rowsE w 0 0 < 2 ^ 19 && s.localOk c (c.yAddr g.rowsE w 0 0) (c.vectors * g.rowsE * w))
        then none
      else some (g.rows * g.cols)
  | _, _, _ => none

/-- What a matrix-vector command works on: the formats of A, B and the results, and the region of B. -/
structure Mvec where
  a : ET
  b : ET
  o : ET
  g : Geo
  deriving DecidableEq, Repr

def State.mvec? (s : State) (c : Cmd) : Option Mvec :=
  match s.checkMvec c, c.afmt, c.bfmt, c.ofmt with
  | some _, some a, some b, some o => (s.region? c.part c.bgeo b).map fun g => ⟨a, b, o, g⟩
  | _, _, _, _ => none

/-- The address of square e of a region, in the order of the elements of a command (R82). -/
def Geo.squareAt (g : Geo) (e : Nat) : Nat := g.pbase + (e / g.cols * g.pitch + e % g.cols) * g.square

/-- The sectors of a square. -/
def Geo.squareSectors (g : Geo) (e : Nat) : List Sector := (List.range g.n).map fun k => Sector.plain (g.squareAt e + 32 * k)

/-- An element of B: an `s8` value, an element of a region flushed under FTZ, or the value of R72 through an accord (R83, R84). -/
def State.bElem (s : State) (c : Cmd) (b : ET) (g : Geo) (m k : Nat) : Rd Fl := do
  match c.list with
  | some l =>
    let t ← s.elemT c.via l g m k
    return toFl .f32 t
  | none =>
    if b == .s8 then
      let x ← s.rdPhys c.part (g.physAt m k 0) 1
      return Fl.ofInt (signed 8 (leNat x))
    else
      let scale : (va n : Nat) → Rd Nat := fun va n t =>
        match s.engRange c.via false va n, s.engRead c.via va n with
        | some l, some bs => .ok (markedNat bs, { t with poison := t.poison || anyMark bs, atoms := s.sectorsOf true l ++ t.atoms })
        | _, _ => .error .bad
      let x ← s.regionElem c.part scale b (BitVec.ofNat 64 (c.f 384 64)) (BitVec.ofNat 64 (c.f 448 64)) g m k
      return if b == .e2m1 then x else srcFl (c.fmt.getLsbD 2) b (roundFl b .rne false x)

/-- The rows of square e of B, each element with its mark, and the sectors read; none where a read fails. -/
def State.squareRows (s : State) (c : Cmd) (v : Mvec) (e : Nat) : Option (List (List (Fl × Bool)) × List Sector) :=
  let w := squareCols v.b v.g
  let cells := (List.range v.g.n).mapM fun r => (List.range w).mapM fun q =>
    match s.bElem c v.b v.g (e / v.g.cols * v.g.n + r) (e % v.g.cols * w + q) Trail.none with
    | .ok (x, t) => some ((x, t.poison), t.atoms)
    | .error _ => none
  cells.map fun l => (l.map fun row => row.map fun x => x.1, joinSectors ((l.flatten.map fun x => x.2).flatten))

/-- The vectors of a command: the elements of each, with their marks (R81). -/
def State.vectorsOf (s : State) (c : Cmd) (v : Mvec) : Option (List (List (Nat × Bool))) :=
  let w := v.a.width / 8
  let kl := logicalCols v.b v.g
  (List.range c.vectors).mapM fun i =>
    (s.engRead c.via (c.aAddr i) (kl * w)).map fun bs =>
      (List.range kl).map fun k => let x := (bs.drop (w * k)).take w; (markedNat x, anyMark x)

/-- A 4-byte word with its mark: a destination element or a partial sum. -/
def State.word32 (s : State) (c : Cmd) (local_ : Bool) (va : Nat) : Nat × Bool :=
  if local_ then (match s.cmdTeam c with | some t => leNat (t.ls.bytes va 4) | none => 0, false)
  else
    match s.engRead c.via va 4 with
    | some bs => (markedNat bs, anyMark bs)
    | none => (0, false)

/-- One sum of R83 over a run of k, from an accumulator. -/
def mvecSum (c : Cmd) (s8 : Bool) (av : List (Nat × Bool)) (bv : List (Fl × Bool)) (init : Nat × Bool) : Nat × Bool :=
  let mode := fmtMode (c.fmt.setWidth 14)
  let ftz := c.fmt.getLsbD 2
  let a := (c.afmt).getD .bf16
  let bad := init.2 || (av.any fun x => x.2) || bv.any fun x => x.2
  if s8 then
    let sum := (av.zip bv).foldl (fun (acc : Int) e =>
      acc + signed 8 e.1.1 * (match e.2.1 with | .fin n m _ => if n then -(m : Int) else m | _ => 0)) (init.1 : Int)
    (unsigned 32 sum, bad)
  else (sumProducts mode ftz init.1 ((av.zip bv).map fun e => (srcFl ftz a e.1.1).mul e.2.1), bad)

/-- The channel of square e: its stack, and the pseudo-channel of its slice (R82). -/
def Geo.sliceOf (g : Geo) (e : Nat) : Nat × Nat := (stackOf (g.squareAt e), channelOf (g.squareAt e))

/-- Change the accumulator store of a slice (R80). -/
def State.updAccs (s : State) (k : Nat × Nat) (f : List AccEntry → List AccEntry) : State :=
  let w := s.stack k.1
  let p := Tab.getD w.pcs k.2 PChan.empty
  s.setStack k.1 { w with pcs := Tab.set k.2 { p with accs := f p.accs, checkpoint := p.checkpoint.filter (fun x => (f [x]) != []) } w.pcs }

/-- The entries of a command in a slice. -/
def State.accsOf (s : State) (k : Nat × Nat) (id : Nat) : List AccEntry :=
  let p := Tab.getD (s.stack k.1).pcs k.2 PChan.empty
  (p.accs ++ p.checkpoint).filter fun x => x.cmd == id

/-- A command leaves the slice of square e. -/
def State.dropAccs (s : State) (c : Cmd) (g : Geo) (e : Nat) : State := s.updAccs (g.sliceOf e) fun l => l.filter fun x => x.cmd != c.id

/-- The accumulator of y[v][m] before square e: what the slice holds, the initial value at the first square, or the partial sum that
a stopped command left (R82, R83, R89). -/
def State.accBefore (s : State) (c : Cmd) (mv : Mvec) (held : List AccEntry) (e v m : Nat) : Nat × Bool :=
  match held.find? fun x => x.vec == v && x.row == m with
  | some x => (x.val.toNat, x.poison)
  | none =>
    if e % mv.g.cols != 0 then s.word32 c false (c.psum mv.g.rowsE v m)
    else if c.acc then s.word32 c c.dls2 (c.yAddr mv.g.rowsE 4 v m)
    else (0, false)

/-- The accumulators of a row group after square e (R82, R83). -/
def State.squareSums (s : State) (c : Cmd) (mv : Mvec) (e : Nat) (rows : List (List (Fl × Bool))) : List AccEntry :=
  let held := s.accsOf (mv.g.sliceOf e) c.id
  let w := squareCols mv.b mv.g
  ((List.range c.vectors).map fun v =>
    let av := (((c.vbuf.getD []).getD v []).drop (e % mv.g.cols * w)).take w
    (rows.zipIdx).map fun r =>
      let m := e / mv.g.cols * mv.g.n + r.2
      let y := mvecSum c (mv.b == .s8) av r.1 (s.accBefore c mv held e v m)
      AccEntry.mk c.id v m (BitVec.ofNat 32 y.1) y.2).flatten

/-- The results of a row group, one run a vector. -/
def State.putResults (s : State) (c : Cmd) (mv : Mvec) (e : Nat) (ys : List AccEntry) : Option State :=
  let ow := mv.o.width / 8
  let out := fun (y : AccEntry) =>
    if mv.o == .bf16 then convFF (fmtMode (c.fmt.setWidth 14)) (c.fmt.getLsbD 3) .f32 .bf16 (toFl .f32 y.val.toNat) else y.val.toNat
  (List.range c.vectors).foldl (fun (a : Option State) v =>
    a.bind fun s => s.deliver c c.dls2 (c.yAddr mv.g.rowsE ow v (e / mv.g.cols * mv.g.n))
      ((ys.filter fun y => y.vec == v).map fun y => (leBytes ow (out y)).map fun x => (x, y.poison)).flatten) (some s)

/-- A square in progress is completed: its sums pass to the slice of the next square, or are the results of the row group. -/
def State.endSquare (s : State) (c : Cmd) (mv : Mvec) : State :=
  let e := c.done
  match s.squareRows c mv e with
  | none => (s.dropAccs c mv.g e).endCmd c.id 2 e
  | some (rows, _) =>
    let ys := s.squareSums c mv e rows
    let bad := ys.any fun y => y.poison
    let s := s.dropAccs c mv.g e
    if (e + 1) % mv.g.cols != 0 then (s.updAccs (mv.g.sliceOf (e + 1)) (ys ++ ·)).nextElem c.id bad
    else
      match s.putResults c mv e ys with
      | none => s.endCmd c.id 2 e
      | some s => s.nextElem c.id bad

/-- The reads of square e are sent to the channels: B, and the initial values or partial sums (R92). -/
def State.askSquare (s : State) (c : Cmd) (mv : Mvec) (l : List Sector) : State :=
  let e := c.done
  let row := e / mv.g.cols * mv.g.n
  let first := (s.accsOf (mv.g.sliceOf e) c.id).isEmpty
  let sums := (List.range c.vectors).map fun v =>
    (if e % mv.g.cols != 0 then c.psum mv.g.rowsE v row else c.yAddr mv.g.rowsE 4 v row, 4 * mv.g.n)
  let s := (s.updCmd c.id fun c => { c with asked := true }).ask (s.cmdAsker c) false (mv.g.squareSectors e ++ l)
  if first && (e % mv.g.cols != 0 || (c.acc && !c.dls2)) then s.askRanges c sums else s

/-- The block of a mapped range that the next square waits for: an initial value that it reads, or a result that it writes
(R222). -/
def State.mvecBlock (s : State) (c : Cmd) (mv : Mvec) : Option Nat :=
  if !c.dls2 then none
  else
    let e := c.done
    let w := mv.o.width / 8
    let run := fun (v : Nat) => c.yAddr mv.g.rowsE w v (e / mv.g.cols * mv.g.n)
    (s.cmdTeam c).bind fun t => (List.range c.vectors).findSome? fun v =>
      (if c.acc && e % mv.g.cols = 0 then t.blockNeeded (run v) (w * mv.g.n) false else none)
        <|> (if (e + 1) % mv.g.cols = 0 then t.blockNeeded (run v) (w * mv.g.n) true else none)

/-- One step of a matrix-vector command: the vectors are loaded into the vector buffer, then for each square its reads are sent, and
when they are served its products are summed. -/
def State.runMvec (s : State) (id : Nat) : State :=
  match s.cmd? id with
  | none => s
  | some c =>
    if !s.ready c 2 then s
    else
      match s.mvec? c with
      | none => s.endCmd id 2 c.done
      | some mv =>
        match c.vbuf with
        | none =>
          match s.vectorsOf c mv with
          | none => s.endCmd id 2 c.done
          | some vs =>
            let l := (List.range c.vectors).map fun v => (c.aAddr v, logicalCols mv.b mv.g * (mv.a.width / 8))
            (s.updCmd id fun c => { c with vbuf := some vs, started := true }).askRanges c l
        | some _ =>
          if c.asked then s.endSquare c mv
          else
            match s.mvecBlock c mv, s.squareRows c mv c.done with
            | some b, _ => s.cmdFill c b
            | none, none => (s.dropAccs c mv.g c.done).endCmd id 2 c.done
            | none, some (_, l) => s.askSquare c mv l

def execMatrixVector (cmd : Nat) (s : State) : Out := .next (s.runMvec cmd)

/-- A matrix-vector command stops at an element boundary (R89): a square in progress is completed, and the live sums go to PSUM with
their marks. -/
def State.stopMvec (s : State) (c : Cmd) : State :=
  match s.mvec? c with
  | none => s
  | some mv =>
    let s := if c.asked then s.endSquare c mv else s
    match s.cmd? c.id with
    | none => s
    | some c =>
      if c.phase != .queued then s
      else
        let ys := s.accsOf (mv.g.sliceOf c.done) c.id
        let s := (List.range c.vectors).foldl (fun (s : State) v =>
          let mine := ys.filter fun y => y.vec == v
          match mine with
          | [] => s
          | y :: _ =>
            (s.engWrite c .store (c.psum mv.g.rowsE v y.row)
              ((mine.map fun y => (leBytes 4 y.val.toNat).map fun x => (x, y.poison)).flatten)).getD s) s
        (s.dropAccs c mv.g c.done).updCmd c.id fun c => { c with vbuf := none, asked := false }

/-! ### Fold (R77, R78, R408) -/

/-- The destination format of a fold. -/
def Cmd.dfmt (c : Cmd) : Option ET :=
  if c.f 28 4 = 11 then some .bf16 else if c.f 28 4 = 12 then some .e4m3 else none

/-- Whether a handle's sync word maps device memory of a plain page (R77, R230). -/
def State.syncPlain (s : State) (part : Nat) (l : AccList) : Bool :=
  match s.unitMap part l.sync.toNat 8 false with
  | .ok m => m.plain
  | .error _ => true

/-- Elements of a well-formed fold: the destination has the foundation's rows and logical columns (R77, R408). -/
def State.checkFold (s : State) (c : Cmd) : Option Nat :=
  match c.dfmt, c.list with
  | some d, some l =>
    match s.region? c.part (c.f 16 12) d, s.region? c.part l.geo l.et with
    | some g, some f =>
      if c.f 128 384 != 0 || c.f 32 32 != 0 || g.rowsE != f.rowsE || g.colsE != logicalCols l.et f
          || !s.syncPlain c.part l then none
      else some (g.rows * g.cols)
    | _, _ => none
  | _, _ => none

/-- Set or clear FIP of a handle. -/
def State.setFip (s : State) (part idx : Nat) (b : Bool) : State :=
  match s.handleAt part idx with
  | none => s
  | some p => s.putHome p (leBytes 128 (recordFip (s.homeNat p 128) b))

/-- The handle of a fold. -/
def Cmd.handle (c : Cmd) : Nat := c.f 4 12

/-- A fold ends without a swap: the FIP that it has set clears (R78). -/
def State.endFold (s : State) (c : Cmd) (status done : Nat) : State :=
  (if c.cls = 3 && c.started then s.setFip c.part c.handle false else s).endCmd c.id status done

/-- The elements of one destination square with their marks, and the sectors read; or the failure of a read. -/
def State.foldSquare (s : State) (c : Cmd) (l : AccList) (f g : Geo) (d : ET) (sq : Nat) :
    Except AccErr (List (Nat × Nat × Bool) × List Sector) :=
  let cells := ((List.range g.n).map fun r => (List.range g.n).map fun q =>
    (sq / g.cols * g.n + r, sq % g.cols * g.n + q)).flatten
  let one := fun (e : Nat × Nat) => (s.elemT c.via l f e.1 e.2 Trail.none).map fun r =>
    ((g.physAt e.1 e.2 0, outOf (c.fmt.getLsbD 3) d r.1, r.2.poison), r.2.atoms)
  (cells.mapM one).map fun r => (r.map fun x => x.1, joinSectors ((r.map fun x => x.2).flatten))

/-- Write a destination square at its home: every atom of it is written whole (R52, R77). A destination that meets the old foundation
is written all the same (entry 45). -/
def State.putSquare (s : State) (c : Cmd) (d : ET) (g : Geo) (sq : Nat) (cells : List (Nat × Nat × Bool)) : State :=
  let w := d.width / 8
  let s := cells.foldl (fun (s : State) e => s.putHome e.1 (leBytes w e.2.1)) s
  let s := s.clearPoison ((cells.map fun e => (List.range w).map fun i => e.1 + i).flatten)
  let s := cells.foldl (fun (s : State) e => if e.2.2 then s.markPoison (atomOf e.1) else s) s
  (s.noteRuns c [(g.squareAt sq, g.square)]).ask (s.cmdAsker c) true (g.squareSectors sq)

/-- One step of a fold from its foundation f to its destination g: the reads of a square are sent, and when they are served it is
written. -/
def State.foldStep (s : State) (c : Cmd) (l : AccList) (f g : Geo) (d : ET) : State :=
  match s.foldSquare c l f g d c.done with
  | .error _ => s.endFold c 2 c.done
  | .ok (cells, reads) =>
    if !c.asked then (s.updCmd c.id fun c => { c with asked := true }).ask (s.cmdAsker c) false reads
    else
      (s.putSquare c d g c.done cells).updCmd c.id fun c =>
        let last := c.done + 1 = c.total
        { c with
          done := c.done + 1, asked := false, poisoned := c.poisoned || cells.any fun e => e.2.2
          phase := if last then .swapping else .queued, due := if last then s.clock.cycle + cmdEnd else c.due }

/-- FOLD (R77 steps 1 and 2): the engine takes the command and sets FIP, and then writes each element of the snapshot. A snapshot
whose notes another fold has folded since is folded all the same (entry 45). -/
def State.runFold (s : State) (id : Nat) : State :=
  match s.cmd? id with
  | none => s
  | some c =>
    if !s.ready c 3 then s
    else
      match s.checkFold c, c.dfmt, c.list, s.handle? c.part c.handle with
      | some _, some d, some l, some (h, _) =>
        match s.region? c.part (c.f 16 12) d, s.region? c.part l.geo l.et with
        | some g, some f =>
          if !c.started && h.fip then s.endCmd id 6 c.done
          else if c.superseded then s.endFold c 5 c.done
          else if !c.started then (s.setFip c.part c.handle true).updCmd id fun c => { c with started := true }
          else s.foldStep c l f g d
        | _, _ => s.endFold c 2 c.done
      | _, _, _, _ => s.endFold c 2 c.done

def execFold (cmd : Nat) (s : State) : Out := .next (s.runFold cmd)

/-- The record of a handle after the swap (R77 step 3): c notes are gone, the rest move down, FIP is clear. -/
def swapRecord (n : Nat) (dgeo : Nat) (d : ET) (removed : Nat) : Nat :=
  let h := Handle.of n
  let m := recordFip (recordWith n (h.list.notes.drop removed) (h.list.version + 1)) false
  m - field m 2 2 * 2 ^ 2 + (if d == .e4m3 then 2 ^ 2 else 0) - field m 8 12 * 2 ^ 8 + dgeo * 2 ^ 8
    - field m 128 128 * 2 ^ 128

/-- After a swap that removed n notes the other folds of the handle hold so many fewer of their snapshot notes in the list. -/
def State.foldedAway (s : State) (c : Cmd) (n : Nat) : State :=
  { s with eng := { s.eng with cmds := s.eng.cmds.map fun (e : Nat × Cmd) =>
      let held := (match e.2.list with | some l => l.notes.length | none => 0) - e.2.gone
      if e.2.cls == 3 && e.2.part == c.part && e.2.handle == c.handle && e.1 != c.id then
        (e.1, { e.2 with gone := e.2.gone + min n held })
      else e } }

/-- FOLD_SWAP (R77 steps 3 and 4): the record changes indivisibly and the sync word is released. -/
def State.swapFold (s : State) (id : Nat) : State :=
  match s.cmd? id with
  | none => s
  | some c =>
    if c.cls != 3 || c.phase != .swapping || s.clock.cycle < c.due then s
    else if c.superseded then s.endFold c 5 c.done
    else
      match c.dfmt, c.list, s.handleAt c.part c.handle with
      | some d, some l, some p =>
        let n := s.homeNat p 128
        let removed := l.notes.length - c.gone
        let s := (s.putHome p (leBytes 128 (swapRecord n (c.f 16 12) d removed))).foldedAway c removed
        let s := match s.viaMap c.via l.sync.toNat 8 true with
          | .ok m =>
            let bs := leBytes 8 ((Handle.of n).list.version + 1).toNat
            if 4 ≤ m.space then
              s.engRequest c m l.sync.toNat opWrite (writePayload l.sync.toNat (bs.map fun b => (b, false))) .store
            else (s.mapWrite m l.sync.toNat bs).settleWaiters
          | .error _ => s
        s.endCmd id (if c.poisoned then 3 else 0) c.total
      | _, _, _ => s.endFold c 2 c.done

def execFoldSwap (cmd : Nat) (s : State) : Out := .next (s.swapFold cmd)

/-! ### Collectives (R33, R34, R409) -/

def Cmd.npart (c : Cmd) : Nat := c.f 12 24
def Cmd.count (c : Cmd) : Nat := c.f 384 40
def Cmd.collEt (c : Cmd) : ET := (ET.ofCode (c.f 8 4)).getD .f32
def Cmd.sbuf (c : Cmd) : Nat := add64 (c.f 256 64) c.x.toNat
def Cmd.dbuf (c : Cmd) : Nat := add64 (c.f 320 64) c.y.toNat

/-- Elements of DBUF (R409). -/
def Cmd.results (c : Cmd) : Nat :=
  if c.f 4 2 = 1 then c.count / c.npart else if c.f 4 2 = 2 then c.count * c.npart else c.count

/-- Bytes of an element. -/
def Cmd.collBytes (c : Cmd) : Nat := c.collEt.width / 8

/-- The participants of a collective, in rank order. -/
def State.ranks (s : State) (c : Cmd) : Option (List Nat) :=
  (s.engRead c.via (c.f 192 64) (4 * c.npart)).map fun bs =>
    (List.range c.npart).map fun i => markedNat ((bs.drop (4 * i)).take 4)

/-- What is well formed in a collective before its list is read. -/
def Cmd.collOk (c : Cmd) : Bool :=
  c.f 480 32 = 0 && c.f 424 24 = 0 && c.f 128 64 = 0 && c.f 60 4 = 0 && c.f 6 2 != 3
    && (c.f 8 4 = 5 || c.f 8 4 = 9 || c.f 8 4 = 11) && 1 ≤ c.npart && c.npart ≤ 4194304 && 1 ≤ c.count
    && c.f 36 24 < c.npart && (c.f 4 2 != 1 || c.count % c.npart = 0)
    && (c.sbuf + c.count * c.collBytes ≤ c.dbuf || c.dbuf + c.results * c.collBytes ≤ c.sbuf)

/-- Elements of a well-formed collective: 256 results each. -/
def State.checkColl (s : State) (c : Cmd) : Option Nat :=
  if !c.collOk then none
  else
    match s.ranks c with
    | none => some ((c.results + 255) / 256)
    | some l =>
      if l.any (fun d => 2 ^ 22 ≤ d) || l.eraseDups.length != l.length || !l.contains s.fabric.devid.toNat then none
      else some ((c.results + 255) / 256)

/-- What a participant announces before its data: operation, reduction, type, sizes, root, count and list (entry 21). -/
def Cmd.announce (c : Cmd) (l : List Nat) : List Byte :=
  leBytes 8 (c.f 4 60) ++ leBytes 8 c.count ++ (l.map fun d => leBytes 4 d).flatten

/-- The collective tag of a command, and how many collectives of the tag with another participant have ended here. -/
def Cmd.ctag (c : Cmd) : Nat := c.f 448 32
def State.collTurn (s : State) (tag peer : Nat) : Nat := Tab.getD s.eng.collTurns (tag * 2 ^ 22 + peer) 0

/-- What stands before every message of a collective: the tag and the turn (entry 21). -/
def State.collHead (s : State) (c : Cmd) (peer : Nat) : List Byte := leBytes 4 c.ctag ++ leBytes 4 (s.collTurn c.ctag peer)

/-- Send a message of a collective as flits of at most 108 bytes (R25; entry 21). PART is the sender's partition, and PADDR and TAG
are zero (entry 47). -/
def State.sendColl (s : State) (c : Cmd) (peer : Nat) (bytes : List Byte) : State :=
  let parts := chunks (bytes.length + 1) 100 bytes
  (parts.zipIdx).foldl (fun (s : State) (e : List Byte × Nat) =>
    s.send { s.flit opCollective (BitVec.ofNat 22 peer) c.part 0 0 0 (s.collHead c peer ++ e.1) with
      last := e.2 + 1 == parts.length }) s

/-- One bit an element that says whether a mark goes with it (R52). -/
def markBits (w : Nat) (bs : List Marked) : List Byte :=
  let elems := (List.range (bs.length / w)).map fun i => anyMark ((bs.drop (w * i)).take w)
  (chunks (elems.length + 1) 8 elems).map fun l => BitVec.ofNat 8 (l.foldr (fun b n => 2 * n + b.toNat) 0)

/-- The marked bytes of a message's data from the bytes and the bits behind them. -/
def unmark (w n : Nat) (bs : List Byte) : List Marked :=
  (List.range n).map fun i => (bs.getD i 0, ((bs.getD (n + i / w / 8) 0).toNat).testBit (i / w % 8))

/-- The end of a collective for this module: the turn of the tag with every other participant is over, and what has come of it is
dropped. -/
def State.closeColl (s : State) (c : Cmd) (l : List Nat) : State :=
  let others := l.filter fun d => d != s.fabric.devid.toNat
  let turns := others.foldl (fun (t : Tab Nat) d =>
    Tab.set (c.ctag * 2 ^ 22 + d) (Tab.getD t (c.ctag * 2 ^ 22 + d) 0 + 1) t) s.eng.collTurns
  let past := fun (tag : Nat) (src : BitVec 22) (turn : Nat) => turn < Tab.getD turns (tag * 2 ^ 22 + src.toNat) 0
  let s := s.dropWaiting c.id
  { s with eng := { s.eng with
      collTurns := turns
      coll := s.eng.coll.filter fun p => !past p.tag p.src p.turn
      collEnds := s.eng.collEnds.filter fun p => !past p.tag p.src p.turn } }

/-- A collective ends here before its results: the other participants are told, by a negative acknowledge that carries the tag, the
turn and the status, where one has not told this module (R34, R409; entries 21 and 47). -/
def State.breakColl (s : State) (c : Cmd) (status : Nat) (hdr : Option Flit) (tell : Bool) : State :=
  match s.ranks c with
  | none => (s.dropWaiting c.id).endCmd c.id status 0
  | some l =>
    let s := if !tell then s else l.foldl (fun (s : State) d =>
      if d = s.fabric.devid.toNat then s
      else s.send (s.flit opNak (BitVec.ofNat 22 d) c.part 0 0 0 (s.collHead c d ++ leBytes 4 status))) s
    ((s.closeColl c l).updCmd c.id fun c => { c with hdr := hdr }).endCmd c.id status 0

/-- The messages of the other participants that have arrived whole, in rank order, for the first command of a tag. -/
def State.collParts (s : State) (c : Cmd) (l : List Nat) : Option (List CollPart) :=
  (l.filter fun d => d != s.fabric.devid.toNat).mapM fun d =>
    s.eng.coll.find? fun p => p.tag == c.ctag && p.src.toNat == d && p.turn == s.collTurn c.ctag d && p.whole

/-- The end that another participant has announced for the first command of a tag. -/
def State.collEnd? (s : State) (c : Cmd) (l : List Nat) : Option CollEnd :=
  s.eng.collEnds.find? fun p => p.tag == c.ctag && l.contains p.src.toNat && p.turn == s.collTurn c.ctag p.src.toNat

/-- Whether an earlier command of this module carries the same tag (R409: issue order). -/
def State.collBehind (s : State) (c : Cmd) : Bool :=
  s.eng.cmds.any fun (e : Nat × Cmd) => e.1 < c.id && e.2.cls == 4 && e.2.phase == .queued && e.2.ctag == c.ctag

/-- The reduction of R34 over the values of the ranks. -/
def collReduce (red : Nat) (e : ET) (xs : List Nat) : Nat :=
  match xs with
  | [] => 0
  | x :: l =>
    if red = 0 then
      if e == .s32 then l.foldl (fun a b => (a + b) % 2 ^ 32) x
      else if e == .bf16 then
        let f := l.foldl (fun a b => addF32 a (toFl .bf16 b)) (roundFl .f32 .rne false (toFl .bf16 x))
        roundFl .bf16 .rne false (toFl .f32 f)
      else l.foldl (fun a b => addF32 a (toFl .f32 b)) x
    else if e == .s32 then
      l.foldl (fun a b =>
        if (if red = 1 then signed 32 b < signed 32 a else signed 32 a < signed 32 b) then b else a) x
    else l.foldl (fun a b => minMaxF e (red == 2) a b) x

/-- The results of a collective at a rank, as marked bytes: `data` are the SBUFs by rank (R409). -/
def Cmd.collResult (c : Cmd) (rank : Nat) (data : List (List Marked)) : List Marked :=
  let w := c.collBytes
  let at_ := fun (q e : Nat) => ((data.getD q []).drop (w * e)).take w
  let reduced := fun (e : Nat) =>
    let xs := (List.range c.npart).map fun q => at_ q e
    let bad := xs.any fun x => x.any fun b => b.2
    (leBytes w (collReduce (c.f 6 2) c.collEt (xs.map markedNat))).map fun b => (b, bad)
  match c.f 4 2 with
  | 0 => ((List.range c.count).map reduced).flatten
  | 1 => ((List.range (c.count / c.npart)).map fun e => reduced (rank * (c.count / c.npart) + e)).flatten
  | 2 => data.flatten
  | _ => data.getD (c.f 36 24) []

/-- This module's part goes to the other participants, and each of them is expected (R34). -/
def State.sendParts (s : State) (c : Cmd) (l : List Nat) (own : List Marked) : State :=
  let msg := c.announce l ++ (own.map fun b => b.1) ++ markBits c.collBytes own
  let s := (l.filter fun d => d != s.fabric.devid.toNat).foldl (fun (s : State) d =>
    let s := s.sendColl c d msg
    let tag := freeTag s.fabric.waiting 65536 s.fabric.nextTag
    let r : Remote :=
      { kind := .coll c.id, g := c.g, op := engKey, thread := 0, va := 0, addr := 0, dest := BitVec.ofNat 22 d
        issued := s.clock.cycle, write := false, acq := none, iw0 := 0, omask := 0 }
    { s with fabric := { s.fabric with nextTag := tag + 1, waiting := Tab.set tag.toNat r s.fabric.waiting } }) s
  s.updCmd c.id fun c => { c with sent := true }

/-- The results, when every participant's part has come; a part that does not agree makes the collective malformed (R409). -/
def State.reduceParts (s : State) (c : Cmd) (l : List Nat) (own : List Marked) (ps : List CollPart) : State :=
  let me := s.fabric.devid.toNat
  let head := c.announce l
  let n := own.length
  match ps.find? fun p => p.bytes.take head.length != head || p.bytes.length != head.length + n + (markBits c.collBytes own).length with
  | some p => s.breakColl c 2 (some p.flit) false
  | none =>
    let data := l.map fun d =>
      if d = me then own
      else ((ps.find? fun p => p.src.toNat == d).map fun p => unmark c.collBytes n (p.bytes.drop head.length)).getD []
    let out := c.collResult (l.findIdx fun d => d == me) data
    match s.engWrite c .store c.dbuf out with
    | none => s.breakColl c 2 none true
    | some s => (s.closeColl c l).endCmd c.id (if anyMark out then 3 else 0) c.total

/-- COLLECTIVE (R409): the engine reads and sends this module's part once, and reduces when every participant's has arrived. -/
def State.runColl (s : State) (id : Nat) : State :=
  match s.cmd? id with
  | none => s
  | some c =>
    if !s.ready c 4 || s.collBehind c then s
    else
      let n := c.count * c.collBytes
      match s.ranks c, s.engRead c.via c.sbuf n with
      | some l, some own =>
        match s.collEnd? c l with
        | some e => s.breakColl c e.status (if e.status = 2 || e.status = 7 then some e.flit else none) false
        | none =>
          if !c.asked then
            (s.updCmd id fun c => { c with asked := true, started := true }).askRanges c [(c.f 192 64, 4 * c.npart), (c.sbuf, n)]
          else if !c.sent then s.sendParts c l own
          else
            match s.collParts c l with
            | none => s
            | some ps => s.reduceParts c l own ps
      | _, _ => s.breakColl c 2 none true

def execCollective (cmd : Nat) (s : State) : Out := .next (s.runColl cmd)

/-! ### Stopping and revoking (R78, R89, R91) -/

/-- A square or a row in progress ends, and the command stands at an element boundary. -/
def State.toBoundary (s : State) (c : Cmd) : State :=
  if c.cls = 2 then s.stopMvec c
  else if c.cls = 3 && c.asked then s.runFold c.id
  else s.updCmd c.id fun c => { c with asked := false }

/-- COMMAND_REVOKE (R89): a command that has not completed its last element stops at an element boundary and completes revoked. A
guaranteed launch is voided at a miss then (R154). -/
def State.revoke (s : State) (id : Nat) : State :=
  match s.cmd? id with
  | none => s
  | some c =>
    let marked := fun (s : State) => s.updLaunch c.launch fun l => { l with missMark := true }
    match c.phase with
    | .queued | .stopped =>
      if c.cls = 0 then (marked s).breakCopy c 1
      else if c.cls = 4 then (marked s).breakColl c 1 none true
      else
        let s := s.toBoundary c
        match s.cmd? id with
        | some c => if c.phase == .queued || c.phase == .stopped then (marked s).endFold c 1 c.done else s
        | none => s
    | .swapping => if c.cls = 0 then (marked s).breakCopy c 1 else s
    | .finished => s

def execCommandRevoke (cmd : Nat) (s : State) : Out := .next (s.revoke cmd)

/-- Whether a pin meets a range of virtual bytes. -/
def TlbEntry.meets (e : TlbEntry) (part lo hi : Nat) : Bool := e.part == part && e.base < hi && lo < e.base + e.size

/-- Revoke the commands of a partition that pin a page of a range (R89, R420). -/
def State.revokeRange (s : State) (part lo hi : Nat) : State :=
  ((s.eng.cmds.filter fun (e : Nat × Cmd) => e.2.pins.any fun p => p.meets part lo hi).map fun e => e.1).foldl
    (fun s id => s.revoke id) s

/-- A command with a destination in local store stops at an element boundary, without status or counter change (R91): what a copy
still expects of its row is dropped, and the row is copied anew. -/
def State.stopCmd (s : State) (id : Nat) : State :=
  match s.cmd? id with
  | none => s
  | some c =>
    if c.phase != .queued then s
    else ((s.dropWaiting id).toBoundary c).updCmd id fun c => if c.phase == .queued then { c with phase := .stopped } else c

/-! ### The issue of a command (R88, R402, R404) -/

/-- Elements of a well-formed command; none where the record breaks a limit of its class (R403). -/
def State.check (s : State) (c : Cmd) : Option Nat :=
  if c.f 0 4 != c.cls then none
  else
    match c.cls with
    | 0 => s.checkCopy c
    | 1 => checkGather c
    | 2 => if c.bsel && c.list.isNone then none else s.checkMvec c
    | 3 => s.checkFold c
    | _ => s.checkColl c

/-- The pages of a note (R88). -/
def State.noteNeeds (s : State) (u : Via) (e : ET) (f : Geo) (a : Word) : Except (BitVec 8 × Nat) (List Need) :=
  match s.issueRead u 3 a.toNat 64 with
  | .error x => .error x
  | .ok bs =>
    let head : Need := ⟨a.toNat, 64, false, true⟩
    let squares := f.rows * f.cols
    match noteOf (leNat bs) with
    | none => .ok [head]
    | some (.sparse bmap dir pairs np) =>
      .ok [head, ⟨bmap, (squares + 7) / 8, false, true⟩, ⟨dir, 8 * squares, false, true⟩, ⟨pairs, 8 * np, false, true⟩]
    | some (.lowRank u v rank) =>
      .ok [head, ⟨u, f.rowsE * rank * 2, false, true⟩, ⟨v, rank * logicalCols e f * 2, false, true⟩]

/-- The pages read through a handle's list, and its sync word's, which a fold writes (R77, R88). -/
def State.listNeeds (s : State) (u : Via) (l : AccList) (f : Geo) (fold : Bool) : Except (BitVec 8 × Nat) (List Need) :=
  let cols := 2 * f.colsE
  let scales : List Need :=
    if l.et == .e2m1 then
      [⟨l.sbase.toNat, f.rowsE * ((cols + 7) / 8), false, true⟩,
       ⟨l.bbase.toNat, 2 * (f.rowsE * ((cols + 63) / 64)), false, true⟩]
    else []
  let sync : Need := ⟨l.sync.toNat, 8, fold, false⟩
  (l.notes.mapM fun a => s.noteNeeds u l.et f a).map fun ns => scales ++ ns.flatten ++ [sync]

/-- The pages of the lookup records of a gather-pool command, up to the first bad record. -/
def State.gatherNeeds (s : State) (c : Cmd) : List Nat → Except (BitVec 8 × Nat) (List Need)
  | [] => .ok []
  | n :: l =>
    match s.issueRead c.via 3 (c.recAddr n) 32 with
    | .error x => .error x
    | .ok bs =>
      match lookupOf (leNat bs) with
      | none => .ok []
      | some r =>
        match s.issueRead c.via (r.count / 1024 + 3) r.idx (4 * r.count) with
        | .error x => .error x
        | .ok ib =>
          let is := (List.range r.count).map fun j => leNat ((ib.drop (4 * j)).take 4)
          let rows := (is.filter fun i => i < r.nrows).map fun i =>
            Need.mk (add64 r.tbase (i * r.stride)) (r.rowlen * (r.tfmt.width / 8)) false false
          let dest : List Need := if r.dls then [] else [⟨r.dest, r.outBytes, true, false⟩]
          (State.gatherNeeds s c l).map fun m => Need.mk r.idx (4 * r.count) false false :: rows ++ dest ++ m

/-- The ranges whose pages a command can touch (R88). A malformed command touches its completion record and counter only. -/
def State.needs (s : State) (c : Cmd) : Except (BitVec 8 × Nat) (List Need) :=
  let common : List Need := [⟨c.compl, 64, true, false⟩, ⟨c.counter.toNat, 8, true, false⟩]
  match s.check c with
  | none => .ok common
  | some total =>
    match c.cls with
    | 0 =>
      let src := if c.shape.testBit 7 then [] else (List.range total).map fun r => Need.mk (c.srcRow r) c.rowBytes false false
      let dst := if c.shape.testBit 8 then [] else (List.range total).map fun r => Need.mk (c.dstRow r) c.rowBytes true false
      .ok (common ++ src ++ dst)
    | 1 => (s.gatherNeeds c (List.range total)).map fun l => common ++ Need.mk (c.recAddr 0) (32 * total) false false :: l
    | 2 =>
      match c.afmt, c.bfmt, c.ofmt with
      | some a, some b, some o =>
        match s.region? c.part c.bgeo b with
        | none => .ok common
        | some g =>
          let cols := 2 * g.colsE
          let vs := (List.range c.vectors).map fun v => Need.mk (c.aAddr v) (logicalCols b g * (a.width / 8)) false false
          let y : List Need := if c.dls2 then []
            else [⟨c.yAddr g.rowsE (o.width / 8) 0 0, c.vectors * g.rowsE * (o.width / 8), true, false⟩]
          let ps : Need := ⟨c.psum g.rowsE 0 0, c.vectors * g.rowsE * 4, true, false⟩
          let sc : List Need := if b == .e2m1 && !c.bsel then
              [⟨c.f 384 64, g.rowsE * ((cols + 7) / 8), false, false⟩,
               ⟨c.f 448 64, 2 * (g.rowsE * ((cols + 63) / 64)), false, false⟩]
            else []
          let own := common ++ vs ++ y ++ [ps] ++ sc
          match c.list with
          | some l => (s.listNeeds c.via l g false).map fun n => own ++ n
          | none => .ok own
      | _, _, _ => .ok common
    | 3 =>
      match c.list with
      | none => .ok common
      | some l =>
        match s.region? c.part l.geo l.et with
        | none => .ok common
        | some f => (s.listNeeds c.via l f true).map fun n => common ++ n
    | _ =>
      .ok (common ++ [⟨c.f 192 64, 4 * c.npart, false, false⟩, ⟨c.sbuf, c.count * c.collBytes, false, false⟩,
        ⟨c.dbuf, c.results * c.collBytes, true, false⟩])

/-- Bytes that an instruction reads at issue as a uniform load on the CORE path. A remote page is asked for, and the split
waits until the bytes are in the core cache (R28, R228). The cause of a fault may be replaced. -/
def State.uniformRead (s : State) (x : Ord) (va n : Nat) (run : State → Nat → State)
    (cause : BitVec 8 → BitVec 8 := id) : State :=
  let i := s.cur.id
  match s.checkGlobal (BitVec.ofNat 64 va) n false true with
  | (.error (c, a), s) => s.uniformFault x (cause c) a.toNat 0x00
  | (.ok m, s) =>
    if m.space < 4 || s.inCore i.die i.core m va n then
      run (s.touch i.die i.core m va n 0) (leNat (s.coreBytes i.die i.core m va n))
    else
      match s.cur.fillFaults.find? fun f => f.atom == 2 ^ 64 + va with
      | some f => ({ s with cur := { s.cur with fillFaults := s.cur.fillFaults.filter fun g => g != f } }).uniformFault x
          f.cause va 0x00
      | none =>
        let out := s.fabric.waiting.any fun (e : Nat × Remote) => e.2.g == i && e.2.va.toNat == va && e.2.op == 2 ^ 64 + va
        if out then s.stall (.until_ (s.clock.cycle + 1))
        else
          (s.request m va opReadRequest 0 [BitVec.ofNat 8 n] (.value 127 n false (some false)) (2 ^ 64 + va)
            (lowest (s.cur.exec x.pred))).2.stall (.until_ (s.clock.cycle + 1))

/-- The handle that a command reads at issue (R84, R88): the list of a valid one, or the fault of a record that cannot be read. -/
def State.listAtIssue (s : State) (part cls shape : Nat) : Except (BitVec 8 × Nat) (Option AccList) :=
  if cls = 3 || (cls = 2 && shape.testBit 4) then
    let idx := if cls = 3 then field shape 4 12 else field shape 5 12
    match s.handleAt part idx with
    | some _ => .ok ((s.handle? part idx).map fun h => h.1.list)
    | none =>
      let va := (s.part part).accbase.toNat + 128 * idx
      .error (match s.walk part va with | .absent .. => 0x06 | _ => 0x07, va)
  else .ok none

/-- Whether a command delivers to local store: by its record, or by one of its lookup records (R85, R91). -/
def State.deliversLocal (s : State) (c : Cmd) : Bool :=
  (c.cls = 0 && c.shape.testBit 8) || (c.cls = 2 && c.dls2)
    || (c.cls = 1 && (List.range c.total).any fun n => match s.lookup? c n with | some r => r.dls | none => false)

/-- Whether the completion record read at issue makes a command resume (R404). -/
def resumes (rec_ cls total : Nat) : Bool :=
  field rec_ 0 8 = 1 && field rec_ 8 4 = cls && field rec_ 64 32 = total && field rec_ 32 32 < total && cls != 4

def execEcmd (x : Ord) (s : State) : Out :=
  .next (s.uniformly x (srcABC x) fun s =>
    let cls := x.moda.toNat
    let a := (s.cur.ua x).toNat
    let cnt := s.cur.uc x
    let xv := s.cur.ub .zero x
    let yv := match x.b with | .reg (.g n) => if n.val = 31 then 0 else s.cur.gget (n.val + 1) | _ => 0
    if a % 64 != 0 then s.uniformFault x 0x04 a 0x00
    else if cnt.toNat % 8 != 0 then s.uniformFault x 0x04 cnt.toNat 0x00
    else if 62 ≤ s.cur.cntC then s.stall (.counterFull 2)
    else
      s.uniformRead x a 64 fun s shape =>
      let compl := field shape 64 64
      if compl % 64 != 0 then s.uniformFault x 0x04 compl 0x00
      else
        s.uniformRead x compl 64 fun s rec_ =>
        match s.listAtIssue s.cur.part cls shape with
        | .error (k, va) => s.uniformFault x k va 0x00
        | .ok list =>
        let id := s.fresh
        let c : Cmd :=
          { id := id.1, cls := cls, g := s.cur.id, launch := s.cur.launch, part := s.cur.part, die := s.cur.id.die
            shape := shape, x := xv, y := yv, counter := cnt, pins := [], fmt := s.cur.sp.fmt.setWidth 4, done := 0
            total := 0, status := 0, poisoned := false, version := (list.map fun l => l.version).getD 0, list := list
            phase := .queued, hdr := none, superseded := false, dls := false, sent := false, started := false, asked := false
            vbuf := none, gone := 0, due := s.clock.cycle + cmdStart }
        match id.2.needs c with
        | .error (k, va) => s.uniformFault x k va 0x00
        | .ok ns =>
          match id.2.pinAll (s.cur.acc false) ns [] with
          | (.error (k, va), s) => s.uniformFault x k va 0x00
          | (.ok pins, s) =>
            let total := (s.check c).getD 0
            let bad := (s.check c).isNone || pinMax < pins.length
            let old := resumes rec_ cls total
            let stale := old && list.isSome && field rec_ 96 32 != c.version.toNat
            let c := { c with
              total := total, done := if old then field rec_ 32 32 else 0, pins := if pinMax < pins.length then [] else pins
              status := if bad then 2 else if stale then 5 else 0
              phase := if bad || stale then .finished else .queued }
            let c := { c with dls := s.deliversLocal c }
            let s := { s with
              cur := s.cur.addCount 2, eng := { s.eng with cmds := Tab.set c.id c s.eng.cmds } }
            s.doneWide x (srcABC x))

end Sys2Proof.Machine
end

