-- ==== Sys2Proof/Machine/Fabric.lean ====
section
/-!
DEFINITION. What arrives from the fabric and what does not (R25-R35): requests of other modules served at home, responses and
negative acknowledges matched by their tags, unreachable accesses, messages of collectives, and device time.
-/

namespace Sys2Proof.Machine

open Sys2Proof

/-- Whether a flit is one of this module with a given operation. -/
def State.takes (s : State) (f : Flit) (op : BitVec 6) : Bool := f.op == op && f.dst == s.fabric.devid

/-! ### Requests served at home (R28, R29, R225) -/

/-- A refusal of a request: a negative acknowledge that carries the cause (entry 21). -/
def State.nak (s : State) (f : Flit) (cause : BitVec 8) : State := s.answer f opNak [cause]

/-- Whether the destination partition's peer grants let the source in (R29, R123), and the bytes are the partition's. -/
def State.window (s : State) (f : Flit) (n : Nat) : Bool :=
  let p := s.part f.part.toNat
  let from_ := (f.payload.getLastD 0).toNat
  p.key.isSome && p.dry != .erased && s.sec.state != .locked
    && p.peers.any (fun w => w.dev == f.src && (w.any || w.part == from_))
    && (List.range n).all fun i => s.reachable (f.paddr.toNat + i) && s.owns f.part.toNat (f.paddr.toNat + i)

/-- Whether any of n bytes at the home is poisoned (R52). -/
def State.badHome (s : State) (p n : Nat) : Bool := (List.range n).any fun i => s.badByte 0 (p + i)

/-- The payload of a request without the source partition. -/
def requestBody (f : Flit) : List Byte := f.payload.dropLast

/-- On whose behalf a request of another module is served: the partition whose memory it names. -/
def askerOf (f : Flit) : Asker := ⟨none, none, f.part.toNat, false⟩

/-- What a request of another module reads misses the die buffer, and then stands there (R225). -/
def State.homeRead (s : State) (f : Flit) (n : Nat) : State :=
  let p := f.paddr.toNat
  let m : Map := ⟨0, none, p, p, 0, 0, false, true⟩
  let s := s.ask (askerOf f) false (s.sectorsOf false [(m, p, n)])
  s.fillHome (plainLines p n)

/-- The two atoms of a piece of one flit, as bits that say which of them satisfy a test (entry 21). -/
def atomBits (p n : Nat) (bad : Nat → Bool) : Byte :=
  let at_ := fun (k : Nat) => (List.range n).any fun i => (p + i) / 32 % 2 == k && bad (p + i)
  BitVec.ofNat 8 ((if at_ 0 then 1 else 0) + (if at_ 1 then 2 else 0))

/-- READ_REQUEST: the bytes at the home, through the die buffer. A copy's read takes the marks of the atoms with it; another read of
poison is refused (R52; entry 21). -/
def State.serveRead (s : State) (f : Flit) : State :=
  let body := requestBody f
  let n := (body.headD 0).toNat
  let p := f.paddr.toNat
  let copy := body.getD 1 0 == 1
  if !s.takes f opReadRequest then s
  else if !s.window f n then s.nak f 0x07
  else if !copy && s.badHome p n then s.nak f 0x0D
  else
    let s := s.homeRead f n
    s.answer f opReadResponse (s.homeBytes p n ++ (if copy then [atomBits p n (s.badByte 0)] else []))

def execReadRequest (f : Flit) (s : State) : Out := .next (s.serveRead f)

/-- WRITE: the bytes go to the home with their marks, and the write is acknowledged. A whole atom loses its mark (R52). -/
def State.serveWrite (s : State) (f : Flit) : State :=
  let bs := (requestBody f).dropLast
  let bits := ((requestBody f).getLastD 0).toNat
  let p := f.paddr.toNat
  if !s.takes f opWrite then s
  else if !s.window f bs.length then s.nak f 0x07
  else
    let s := (s.putHome p bs).clearPoison ((List.range bs.length).map fun i => p + i)
    let s := (List.range bs.length).foldl (fun (s : State) i =>
      if bits.testBit ((p + i) / 32 % 2) then s.markPoison (atomOf (p + i)) else s) s
    s.settleWaiters.answer f opWriteAck []

def execWrite (f : Flit) (s : State) : Out := .next (s.serveWrite f)

/-- What an atomic request asks (entry 21): the function's code, the size, B and C. -/
structure AtomReq where
  code : Nat
  size : Nat
  b : Nat
  c : Nat
  deriving DecidableEq, Repr

def atomReq (f : Flit) : AtomReq :=
  let n := leNat ((requestBody f).take 24)
  ⟨field n 0 8, field n 8 8, field n 64 64, field n 128 64⟩

/-- The update of a read-modify-write by its code (R370-R372); none: it writes nothing. -/
def AtomReq.update (r : AtomReq) (old : Nat) : Option Nat :=
  let w := 8 * r.size
  let b := r.b % 2 ^ w
  match r.code with
  | 0 => some (atomValue .add w old b)
  | 1 => some (atomValue .smin w old b)
  | 2 => some (atomValue .smax w old b)
  | 3 => some (atomValue .zmin w old b)
  | 4 => some (atomValue .zmax w old b)
  | 5 => some (atomValue .and w old b)
  | 6 => some (atomValue .or w old b)
  | 7 => some (atomValue .xor w old b)
  | 8 => some (atomValue .xchg w old b)
  | 9 => some (atomValue .inc w old b)
  | 10 => some (atomValue .dec w old b)
  | 11 => if old = b then some (r.c % 2 ^ w) else none
  | 12 => some (fatomValue .addF32 old b)
  | 13 => some (fatomValue .minF32 old b)
  | 14 => some (fatomValue .maxF32 old b)
  | 15 => some (fatomValue .addBf16 old b)
  | 16 => some b
  | 17 => some ((old + b) % 2 ^ w)
  | 18 => some ((old + b) % 2 ^ w)
  | _ => none

/-- A read-modify-write of another module: the answer is the old value. -/
def State.serveAtom (s : State) (f : Flit) (r : AtomReq) : State :=
  let p := f.paddr.toNat
  let s := s.homeRead f r.size
  let old := s.homeNat p r.size
  let s := match r.update old with
    | none => s
    | some v => (s.putHome p (leBytes r.size v)).settleWaiters
  s.answer f opAtomicResponse (leBytes r.size old)

/-- The function of an acquire by its code. -/
def acqOf (code : Nat) : AcqFn := if code = 19 then .eq else if code = 20 then .ge else .take

/-- An acquire of another module waits at the word like any other (R231, R367); it is answered when it is satisfied. -/
def State.serveAcquire (s : State) (f : Flit) (r : AtomReq) : State :=
  let w : Waiter := { g := ⟨0, 0, 0, 0⟩, slot := false, word := f.paddr.toNat, fn := acqOf r.code,
                      value := BitVec.ofNat 64 r.b, scope := f.scope.toNat, met := false, remote := some f }
  ({ s with eng := { s.eng with waiters := s.eng.waiters ++ [w] } }).settleWaiters

/-- A push or pop of another module at a queue descriptor (R376-R379): the answer tells whether an entry moved, and gives
it. Groups that wait there already go first. -/
def State.serveQueue (s : State) (f : Flit) (r : AtomReq) : State :=
  let p := f.paddr.toNat
  let push := r.code == pushCode
  let d := QDesc.of (s.homeNat p 64)
  let none_ := fun (s : State) => s.answer f opAtomicResponse (leBytes 16 0)
  if d.bad then s.nak f 0x0B
  else if (if push then d.full else d.used = 0) || s.eng.queueWaits.any (fun q => q.1 == p && q.2.1 == push) then none_ s
  else
    let va := d.entry (if push then d.tail else d.head)
    match s.unitMap f.part.toNat va 8 true with
    | .error c => s.nak f c
    | .ok m =>
      if 4 ≤ m.space then s.nak f 0x07
      else if push then
        let s := (s.mapWrite m va (leBytes 8 r.b)).putHome (p + 24) (leBytes 8 (d.tail + 1))
        s.answer f opAtomicResponse (leBytes 8 1 ++ leBytes 8 r.b)
      else
        let x := leNat (s.mapBytes m va 8)
        (s.putHome (p + 16) (leBytes 8 (d.head + 1))).answer f opAtomicResponse (leBytes 8 1 ++ leBytes 8 x)

/-- ATOMIC_REQUEST (R28): performed at the die buffer that homes the address. -/
def State.serveRequest (s : State) (f : Flit) : State :=
  let r := atomReq f
  let queue := pushCode ≤ r.code
  let n := if queue then 64 else r.size
  let p := f.paddr.toNat
  if !s.takes f opAtomicRequest then s
  else if !s.window f n then s.nak f 0x07
  else if s.badHome p n then s.nak f 0x0D
  else if queue then s.serveQueue f r
  else if 19 ≤ r.code then s.serveAcquire f r
  else s.serveAtom f r

def execAtomicRequest (f : Flit) (s : State) : Out := .next (s.serveRequest f)

/-! ### Answers, by tag -/

/-- What a flit answers: the outstanding access of its tag at the module it comes from. -/
def State.answers (s : State) (f : Flit) : Option Remote :=
  match Tab.get? f.tag.toNat s.fabric.waiting with
  | some r => if r.dest == f.src then some r else none
  | none => none

/-- Forget an outstanding access. -/
def State.dropTag (s : State) (tag : Nat) : State :=
  { s with fabric := { s.fabric with waiting := Tab.erase tag s.fabric.waiting } }

/-- An access of an operation is answered: the operation changes and no longer waits for the tag. -/
def State.answered (s : State) (tag : Nat) (r : Remote) (f : Op → Op) : State :=
  { s with eng := { s.eng with
    ops := Tab.update r.op (fun o => let o := f o; { o with tags := o.tags.filter fun t => t != tag }) s.eng.ops } }

/-- Whether a write of a core to a home is outstanding within 64 bytes of an address: what an answer brings may be older. -/
def State.writeNear (s : State) (r : Remote) (addr : Nat) : Bool :=
  s.fabric.waiting.any fun (e : Nat × Remote) => e.2.write && e.2.g.die == r.g.die && e.2.g.core == r.g.core && e.2.dest == r.dest
    && addr < e.2.addr + 64 && e.2.addr < addr + 64

/-- Keep the bytes of a remote load in the core cache, clean; bytes it holds already stay (R226, R228, R238). -/
def State.keepRemote (s : State) (r : Remote) (keep : Bool) (bs : List Byte) : State :=
  let c := s.core r.g.die r.g.core
  let key := fun (a : Nat) => byteKey (4 + r.dest.toNat) a
  let new := (bs.zipIdx).filter fun (e : Byte × Nat) => !s.writeNear r (r.addr + e.2)
  let s := s.setCore r.g.die r.g.core { c with cache := new.foldl (fun h (e : Byte × Nat) =>
    match Tab.get? (key (r.addr + e.2)) h with
    | some _ => h
    | none => Tab.set (key (r.addr + e.2)) ⟨e.1, false⟩ h) c.cache }
  let tags := (new.map fun (e : Byte × Nat) => (r.addr + e.2) / 64 * 64).eraseDups
  tags.foldl (fun (s : State) p =>
    s.useCore r.g.die r.g.core ⟨key p, keep, (List.range 64).map fun i => key (p + i)⟩) s

/-- The 32-bit words of a list of bytes. -/
def wordsOf (n : Nat) (bs : List Byte) : List (BitVec 32) :=
  (List.range n).map fun i => BitVec.ofNat 32 (leNat ((bs.drop (4 * i)).take 4))

/-- A piece of a tile row joins an operation. -/
def Op.addRow (o : Op) (row first : Nat) (ws : List (BitVec 32)) : Op :=
  match o.kind with
  | .tile a rows => { o with kind := .tile a (rows ++ [(row, first, ws)]) }
  | _ => o

/-- The answer to a sync operation stands at the split that waits (R231, R367). -/
def State.syncAnswer (s : State) (r : Remote) (slot : Bool) (bs : List Byte) : State :=
  let w : Waiter := { g := r.g, slot := slot, word := leNat (bs.take 8), fn := .eq,
                      value := BitVec.ofNat 64 (leNat ((bs.drop 8).take 8)), scope := 0, met := true, remote := none }
  { s with eng := { s.eng with waiters := s.eng.waiters ++ [w] } }

/-- The bytes that a copy asked for have come, with the marks of their atoms. -/
def State.copyArrived (s : State) (id : Nat) (r : Remote) (dest : Word) (bs : List Byte) : State :=
  match s.cmd? id with
  | none => s
  | some c =>
    let bits := (bs.getLastD 0).toNat
    let new : List Marked := (bs.dropLast.zipIdx).map fun e => (e.1, bits.testBit ((r.addr + e.2) / 32 % 2))
    match s.deliver c (c.shape.testBit 8) dest.toNat new with
    | some s => (s.updCmd id fun c => { c with poisoned := c.poisoned || anyMark new }).settleCopy id
    | none => s.breakCopy c 2

/-- The core's copies of what an atomic has changed at another module go, and the acquire of a sync operation follows (R230,
R238). -/
def State.atomLanded (s : State) (r : Remote) (n : Nat) : State :=
  let sp := 4 + r.dest.toNat
  let s := if r.write then s.dropClean r.g.die r.g.core fun q p => q == sp && r.addr ≤ p && p < r.addr + n else s
  match r.acq, Tab.get? r.op s.eng.ops with
  | some (word, scope), some o => s.acquireAt r.g.die r.g.core o.launch word scope
  | _, _ => s

/-- A response with data: a read response or an atomic response. -/
def State.dataArrived (s : State) (f : Flit) : State :=
  match s.answers f with
  | none => s
  | some r =>
    let tag := f.tag.toNat
    let bs := f.payload
    match r.kind with
    | .value reg size sgn keep =>
      let s := match keep with | some k => s.keepRemote r k (bs.take size) | none => s
      ((s.atomLanded r size).dropTag tag).answered tag r fun o =>
        { o with writes := o.writes ++ [⟨r.thread, reg, extendBytes size sgn (bs.take size)⟩] }
    | .row row first keep =>
      let s := match keep with | some k => s.keepRemote r k (bs.take 64) | none => s
      (s.dropTag tag).answered tag r fun o => o.addRow row first (wordsOf 16 bs)
    | .sync slot _ _ => (s.dropTag tag).syncAnswer r slot bs
    | .copyRead cmd dest => (s.dropTag tag).copyArrived cmd r dest bs
    | .desc seq va => (s.dropTag tag).updLaunch seq fun l => { l with descGot := (va, bs.take 64) :: l.descGot }
    | .store => (s.dropTag tag).answered tag r fun o => o
    | .copyWrite cmd => (s.dropTag tag).settleCopy cmd
    | .coll _ => s

def execReadResponse (f : Flit) (s : State) : Out := .next (if s.takes f opReadResponse then s.dataArrived f else s)

def execAtomicResponse (f : Flit) (s : State) : Out := .next (if s.takes f opAtomicResponse then s.dataArrived f else s)

/-- WRITE_ACKNOWLEDGE: a remote write is complete at its home. -/
def State.acknowledged (s : State) (f : Flit) : State :=
  match s.answers f with
  | none => s
  | some r =>
    match r.kind with
    | .store => (s.dropTag f.tag.toNat).answered f.tag.toNat r fun o => o
    | .copyWrite cmd => (s.dropTag f.tag.toNat).settleCopy cmd
    | .sync slot _ _ => (s.dropTag f.tag.toNat).syncAnswer r slot []
    | _ => s

def execWriteAcknowledge (f : Flit) (s : State) : Out := .next (if s.takes f opWriteAck then s.acknowledged f else s)

/-! ### Failures (R29, R32, R34) -/

/-- The memory-class trap of a sync operation whose answer is a failure; a bad queue descriptor is a fault of the whole
instruction (R376). A saved group takes it at its resume. -/
def State.syncFails (s : State) (r : Remote) (slot : Bool) (kind cause : BitVec 8) : State :=
  let wake := fun (w : Wait) (g : Group) =>
    match g.inSlot slot with
    | some p => g.setSlot slot (some { p with wait := w })
    | none => g
  if cause = 0x0B then s.updGroup r.g (wake (.raise 0x0B r.thread r.iw0 r.omask))
  else
    let h : HeldTrap := ⟨[⟨r.thread, cause, r.va⟩], kind, r.omask, r.iw0, slot, 4, false, r.issued⟩
    match (s.anyGroup? r.g).filter fun g => (g.inSlot slot).any fun p => p.hand with
    | some g => s.doubleTrapOf g
    | none =>
      let s := s.updGroup r.g fun g => { wake .none g with held := g.held ++ [h] }
      if (s.group? r.g).isSome then (s.focus r.g).takeHeld else s

/-- An access fails with a cause: its thread joins the faulters of its operation, a uniform read at issue takes it when its
instruction issues again, as the next write-back takes that of an earlier one, a command ends with status unreachable (entry 21).
A completion record or a counter of a command has no thread to tell. -/
def State.accessFails (s : State) (tag : Nat) (r : Remote) (cause : BitVec 8) : State :=
  let s := s.dropTag tag
  let fault := fun (o : Op) => { o with faults := o.faults ++ [⟨r.thread, cause, r.va⟩] }
  let broken := fun (id : Nat) => match s.cmd? id with | some c => s.breakCopy c 7 | none => s
  match r.kind with
  | .sync slot _ kind => s.syncFails r slot kind cause
  | .copyRead cmd _ => broken cmd
  | .desc seq va => s.updLaunch seq fun l => { l with descGot := (va, []) :: l.descGot }
  | .copyWrite cmd => broken cmd
  | .coll cmd => (match s.cmd? cmd with | some c => s.breakColl c 7 none true | none => s)
  | _ =>
    if r.op = engKey then s
    else if 2 ^ 64 ≤ r.op then s.updGroup r.g fun g => { g with fillFaults := g.fillFaults ++ [⟨r.op, cause, r.va⟩] }
    else s.answered tag r fault

/-- The end of a collective that another participant announces: the tag, the turn and the status (entry 21). It stands until the
command of this module is its turn's. -/
def State.collEnded (s : State) (f : Flit) : State :=
  let tag := leNat (f.payload.take 4)
  let turn := leNat ((f.payload.drop 4).take 4)
  if turn < s.collTurn tag f.src.toNat then s
  else
    let e : CollEnd := ⟨tag, f.src, turn, leNat ((f.payload.drop 8).take 4), { f with payload := [] }⟩
    { s with eng := { s.eng with collEnds := s.eng.collEnds ++ [e] } }

/-- NEGATIVE_ACKNOWLEDGE: no window, or another refusal of the home (R29). -/
def State.refused (s : State) (f : Flit) : State :=
  if f.payload.length = 12 then s.collEnded f
  else
    match s.answers f with
    | none => s
    | some r => s.accessFails f.tag.toNat r (f.payload.headD 0x07)

def execNegativeAcknowledge (f : Flit) (s : State) : Out := .next (if s.takes f opNak then s.refused f else s)

/-- 100 µs in core cycles (R29). -/
def fabricBound : Nat := 270000

/-- Whether a remote access has had no response for 100 µs, or has no route; an acquire and a collective have no such bound (R24,
R29, R34). -/
def State.timedOut (s : State) (r : Remote) : Bool :=
  match r.kind with
  | .sync _ true _ => false
  | .coll _ => s.noRoute
  | _ => s.noRoute || r.issued + fabricBound ≤ s.clock.cycle

/-- REMOTE_ACCESS_TIMEOUT: no response within 100 µs. A load or atomic traps, and so does the operation at a sync word or a queue
(entry 47); a store is reported, an acquire has no bound, and the command or collective that waits ends unreachable (R29, R34). -/
def State.unreachable (s : State) (tag : Nat) : State :=
  match Tab.get? tag s.fabric.waiting with
  | none => s
  | some r =>
    match r.kind with
    | .coll _ => s.accessFails tag r 0x0D
    | .sync _ true _ => s
    | .store =>
      if s.timedOut r then ((s.dropTag tag).answered tag r fun o => o).report (.storeUnreachable r.va) else s
    | _ => if s.timedOut r then s.accessFails tag r 0x0D else s

def execRemoteAccessTimeout (tag : BitVec 16) (s : State) : Out := .next (s.unreachable tag.toNat)

/-! ### Collectives (R34, R409) -/

/-- COLLECTIVE_DATA: a flit joins the message it belongs to, by its tag, its turn and its sender (entry 21). A turn that is over takes
no more. -/
def State.collArrived (s : State) (f : Flit) : State :=
  let tag := leNat (f.payload.take 4)
  let turn := leNat ((f.payload.drop 4).take 4)
  let bs := f.payload.drop 8
  let open_ := fun (p : CollPart) => p.tag == tag && p.src == f.src && p.turn == turn && !p.whole
  let head := { f with payload := [] }
  let coll :=
    if turn < s.collTurn tag f.src.toNat then s.eng.coll
    else if s.eng.coll.any open_ then
      s.eng.coll.map fun p => if open_ p then { p with bytes := p.bytes ++ bs, whole := f.last, flit := head } else p
    else s.eng.coll ++ [{ tag := tag, src := f.src, turn := turn, bytes := bs, whole := f.last, flit := head }]
  { s with eng := { s.eng with coll := coll } }

def execCollectiveData (f : Flit) (s : State) : Out := .next (if s.takes f opCollective then s.collArrived f else s)

/-! ### Malformed flits (R26) -/

/-- The operations of R26. -/
def listedOps : List (BitVec 6) :=
  [opReadRequest, opReadResponse, opWrite, opWriteAck, opAtomicRequest, opAtomicResponse, opNak, opCollective, opTime]

/-- MALFORMED_FLIT: a flit with an unlisted OP is discarded and logged. -/
def execMalformedFlit (f : Flit) (s : State) : Out :=
  .next (if listedOps.contains f.op then s
    else { s with fabric := { s.fabric with malformed := s.fabric.malformed ++ [f] } })

/-! ### Device time (R35) -/

/-- Load device time, once since reset, and open the arbiters. -/
def Clock.load (c : Clock) (t : Word) : Clock := { c with time := t, timeSet := true, open_ := true }

/-- TIME_MESSAGE: the first lock loads device time where nothing was loaded; later the whole offset is slewed. -/
def Clock.message (c : Clock) (locked : Bool) (time : Word) : Clock :=
  if !locked then c
  else if c.timeSet then { c with locked := true, slew := (time.toNat : Int) - c.time.toNat }
  else { c.load time with locked := true, slew := 0 }

def execTimeMessage (locked : Bool) (time : Word) (s : State) : Out :=
  .next { s with clock := s.clock.message locked time }

/-- 10 s in core cycles (R35). -/
def firstLockBound : Nat := 27000000000

/-- FIRST_LOCK_TIMEOUT: without a lock within 10 s the controller's clock is loaded. -/
def execFirstLockTimeout (s : State) : Out :=
  .next (if s.clock.timeSet || s.clock.cycle < firstLockBound then s
    else ({ s with clock := s.clock.load s.clock.rtc }).report .timeUnlocked)

/-- TIME_LOCK_LOSS: the module holds over on its oscillator. -/
def execTimeLockLoss (s : State) : Out :=
  .next (({ s with clock := { s.clock with locked := false } }).report .timeUnlocked)

end Sys2Proof.Machine
end

