-- ==== Sys2Proof/Machine/Traversal.lean ====
section
/-!
DEFINITION. Ray traversal (R94-R109, R411, R425-R429): scenes, treelets and nodes, the tests, the walk of a ray, queues and
engines, records in callback order, and `rsend` (0x69).
-/

namespace Sys2Proof.Machine

open Sys2Proof

/-! ### `f32` arithmetic of the tests (R99) -/

def f32Add (mode : Rnd) (a b : Nat) : Nat := roundFl .f32 mode false ((toFl .f32 a).add mode (toFl .f32 b))
def f32Sub (a b : Nat) : Nat := roundFl .f32 .rne false ((toFl .f32 a).add .rne (toFl .f32 b).negate)
def f32Mul (a b : Nat) : Nat := roundFl .f32 .rne false ((toFl .f32 a).mul (toFl .f32 b))
def f32Div (a b : Nat) : Nat := divFl false .f32 .rne (toFl .f32 a) (toFl .f32 b)
def f32Lt (a b : Nat) : Bool := (toFl .f32 a).lt (toFl .f32 b)
def f32Eq (a b : Nat) : Bool := (toFl .f32 a).eq (toFl .f32 b)
def f32Le (a b : Nat) : Bool := f32Lt a b || f32Eq a b
def f32NaN (a : Nat) : Bool := (toFl .f32 a).isNaN

/-- The smaller and the larger of two values that are no NaN. -/
def f32Min (a b : Nat) : Nat := if f32Lt b a then b else a
def f32Max (a b : Nat) : Nat := if f32Lt a b then b else a

/-- 1.0, 0.5 and +∞. -/
def f32One : Nat := 0x3F800000
def f32Half : Nat := 0x3F000000
def f32Inf : Nat := 0x7F800000

/-- Component a of a vector of `f32`. -/
def comp (l : List Nat) (a : Nat) : Nat := l.getD a 0

/-- dot(a, b) of R99. -/
def f32Dot (a b : List Nat) : Nat :=
  f32Add .rne (f32Add .rne (f32Mul (comp a 0) (comp b 0)) (f32Mul (comp a 1) (comp b 1))) (f32Mul (comp a 2) (comp b 2))

/-- cross(a, b) of R99. -/
def f32Cross (a b : List Nat) : List Nat :=
  [(1, 2), (2, 0), (0, 1)].map fun e => f32Sub (f32Mul (comp a e.1) (comp b e.2)) (f32Mul (comp a e.2) (comp b e.1))

/-- The difference of two vectors. -/
def f32Diff (a b : List Nat) : List Nat := (List.range 3).map fun i => f32Sub (comp a i) (comp b i)

/-! ### Reads on the TRAV path (R52, R96, R107) -/

/-- How the traversal engines of a die reach the memory of a ray's partition: through the die's TLB (R96, R107). -/
def Ray.via (r : Ray) (die : Nat) : Via := ⟨die, r.part, []⟩

/-- Bytes that an engine reads, or the STATUS with which the ray ends: 4 where the `CORE` path would refuse the read, 3 for
poison. -/
def State.travRead (s : State) (u : Via) (va n : Nat) : Except Nat (List Byte) :=
  match s.engRange u false va n with
  | none => .error 4
  | some l =>
    if l.any fun e => 3 ≤ e.1.space then .error 4
    else if l.any fun e => s.poisoned e.1 e.2.1 e.2.2 then .error 3
    else .ok (l.map fun e => s.mapBytes e.1 e.2.1 e.2.2).flatten

/-- A treelet (R96). -/
structure Treelet where
  base : Nat
  size : Nat
  qcap : Nat
  stack : Nat
  deriving DecidableEq, Repr

/-- A treelet of a ray's generation, as a die sees it: STATUS 2 at or above NTREE, STATUS 4 without a home stack. -/
def State.treelet (s : State) (r : Ray) (die i : Nat) : Except Nat Treelet :=
  if r.ntree ≤ i then .error 2
  else if r.ttab.toNat % 16 != 0 then .error 4
  else
    match s.travRead (r.via die) (r.ttab.toNat + 16 * i) 16 with
    | .error e => .error e
    | .ok bs =>
      let n := leNat bs
      let base := field n 64 64
      match s.viaMap (r.via die) base 1 false with
      | .error _ => .error 4
      | .ok m =>
        if 3 ≤ m.space || base % 4 != 0 then .error 4
        else
          let sz := field n 32 16
          let q := field n 0 7
          .ok ⟨base, if sz = 0 then 65536 else sz, if q = 0 || 64 < q then 64 else q, stackOf (m.phys base)⟩

/-- An entry of the node-format table (R97). -/
structure NodeFmt where
  valid : Bool
  coff : Nat
  boff : Nat
  nsize : Nat
  fanout : Nat
  cpl : Nat
  bfmt : Nat
  test : Nat
  deriving DecidableEq, Repr

def NodeFmt.of (n : Nat) : NodeFmt where
  valid := n.testBit 54
  coff := field n 38 16
  boff := field n 22 16
  nsize := field n 15 7
  fanout := field n 10 5
  cpl := field n 8 2
  bfmt := field n 4 4
  test := field n 0 4

/-- Whether the entry describes leaves. -/
def NodeFmt.leaf (f : NodeFmt) : Bool := f.test == 4 || f.test == 5

/-- Whether a node of the entry may be reached (R98). -/
def NodeFmt.ok (f : NodeFmt) : Bool :=
  f.valid && [(0, 0), (0, 1), (1, 2), (2, 3), (3, 4), (4, 5), (5, 5)].contains (f.test, f.bfmt) && f.cpl != 3
    && f.nsize != 0 && (if f.leaf then 1 else 2) ≤ f.fanout && f.fanout ≤ 16

/-- The entry of a node type. -/
def State.nodeFmt (s : State) (r : Ray) (die type : Nat) : Except Nat NodeFmt :=
  if r.nft.toNat % 16 != 0 then .error 4
  else
    match s.travRead (r.via die) (r.nft.toNat + 16 * type) 16 with
    | .error e => .error e
    | .ok bs => .ok (NodeFmt.of (leNat bs))

/-- Type, treelet and offset of a node pointer (R97). -/
def ptrType (p : BitVec 32) : Nat := p.toNat / 2 ^ 28
def ptrTreelet (p : BitVec 32) : Nat := p.toNat / 2 ^ 16 % 2 ^ 12
def ptrOffset (p : BitVec 32) : Nat := p.toNat % 2 ^ 16

/-- A node that a ray reaches: its format and its bytes (R98). -/
def State.node (s : State) (r : Ray) (die : Nat) (p : BitVec 32) : Except Nat (NodeFmt × List Byte) :=
  match s.nodeFmt r die (ptrType p) with
  | .error e => .error e
  | .ok f =>
    if !f.ok then .error 2
    else
      match s.treelet r die (ptrTreelet p) with
      | .error e => .error e
      | .ok t =>
        if t.size < ptrOffset p + f.nsize then .error 2
        else
          match s.travRead (r.via die) (t.base + 16 * ptrOffset p) (16 * f.nsize) with
          | .error e => .error e
          | .ok bs => .ok (f, bs)

/-- Numbers in a node's bytes. -/
def u32At (bs : List Byte) (o : Nat) : Nat := leNat ((bs.drop o).take 4)
def u16At (bs : List Byte) (o : Nat) : Nat := leNat ((bs.drop o).take 2)

/-! ### Children (R97, R98) -/

/-- A child: its index, the place of its bounds, its pointer; no pointer where its offset lies past every treelet. -/
structure Kid where
  idx : Nat
  pos : Nat
  ptr : Option (BitVec 32)
  deriving DecidableEq, Repr

/-- Children that a node's test compares: two for a split plane. -/
def NodeFmt.count (f : NodeFmt) : Nat := if f.test = 1 then 2 else f.fanout

/-- Bytes of the bounds or keys of an interior node. -/
def NodeFmt.boundsLen (f : NodeFmt) : Nat :=
  match f.test with
  | 0 => if f.bfmt = 0 then 24 * f.count else 12 + 12 * f.count
  | 1 => 8
  | 2 => 16
  | _ => 4 * (f.count - 1)

/-- Bytes of the child pointers: layout 0 stores FANOUT of them, whatever the test compares (R97, R98). -/
def NodeFmt.childLen (f : NodeFmt) : Nat := match f.cpl with | 0 => 4 * f.fanout | 1 => 4 | _ => 5

/-- The children of layouts 1 and 2: child j of the list has the first pointer's type and treelet, j nodes on. -/
def strided (p : BitVec 32) (nsize : Nat) (idxs : List Nat) : List Kid :=
  idxs.zipIdx.map fun e =>
    let off := ptrOffset p + e.2 * nsize
    ⟨e.1, e.2, if off < 2 ^ 16 then some (BitVec.ofNat 32 (p.toNat / 2 ^ 16 * 2 ^ 16 + off)) else none⟩

/-- The non-empty children of a node. -/
def State.kids (s : State) (r : Ray) (die : Nat) (f : NodeFmt) (bs : List Byte) : Except Nat (List Kid) :=
  if bs.length < f.coff + f.childLen || bs.length < f.boff + f.boundsLen then .error 2
  else
    let empty := BitVec.allOnes 32
    let at_ := fun (c : Nat) => BitVec.ofNat 32 (u32At bs (f.coff + 4 * c))
    if f.cpl = 0 then
      .ok (((List.range f.count).filter fun c => at_ c != empty).map fun c => ⟨c, c, some (at_ c)⟩)
    else if at_ 0 == empty then .ok []
    else
      match s.nodeFmt r die (ptrType (at_ 0)) with
      | .error e => .error e
      | .ok g =>
        let mask := (bs.getD (f.coff + 4) 0).toNat
        .ok (strided (at_ 0) g.nsize
          (if f.cpl = 1 then List.range f.count else (List.range 8).filter fun o => mask.testBit o))

/-! ### Tests (R99) -/

def Ray.o (r : Ray) : List Nat := r.org.map fun x => x.toNat
def Ray.d (r : Ray) : List Nat := r.dir.map fun x => x.toNat

/-- inv_a of R99. -/
def Ray.inv (r : Ray) (a : Nat) : Nat := f32Div f32One (comp r.d a)

/-- The box test: the entry of a box that is hit. -/
def Ray.box (r : Ray) (lo hi : List Nat) : Option Nat :=
  let ends := (List.range 3).map fun a =>
    (f32Mul (f32Sub (comp lo a) (comp r.o a)) (r.inv a), f32Mul (f32Sub (comp hi a) (comp r.o a)) (r.inv a))
  let ok := ends.filter fun e => !f32NaN e.1 && !f32NaN e.2
  let entry := (ok.map fun e => f32Min e.1 e.2).foldl f32Max r.tmin.toNat
  let exit := (ok.map fun e => f32Max e.1 e.2).foldl f32Min r.tmax.toNat
  if f32Le entry exit then some entry else none

/-- Bounds of a child of a box node: `f32`, or quantized and widened outward. -/
def boxBounds (f : NodeFmt) (bs : List Byte) (j : Nat) : List Nat × List Nat :=
  if f.bfmt = 0 then
    let at_ := fun (k : Nat) => u32At bs (f.boff + 24 * j + 4 * k)
    ([at_ 0, at_ 1, at_ 2], [at_ 3, at_ 4, at_ 5])
  else
    let ref := fun (a : Nat) => u32At bs (f.boff + 4 * a)
    let off := fun (k : Nat) => convFF .rne false .f16 .f32 (toFl .f16 (u16At bs (f.boff + 12 + 12 * j + 2 * k)))
    ((List.range 3).map fun a => f32Add .rdn (ref a) (off a),
     (List.range 3).map fun a => f32Add .rup (ref a) (off (3 + a)))

/-- Bounds of a child of an octree node. -/
def octreeBounds (f : NodeFmt) (bs : List Byte) (c : Nat) : List Nat × List Nat :=
  let half := f32Mul (u32At bs (f.boff + 12)) f32Half
  let lo := (List.range 3).map fun a =>
    let x := u32At bs (f.boff + 4 * a)
    if c.testBit a then f32Add .rne x half else x
  (lo, lo.map fun x => f32Add .rne x half)

/-- A child that is hit, with its entry. -/
structure KidHit where
  entry : Nat
  kid : Kid
  deriving DecidableEq, Repr

/-- The children of a split plane that are hit. -/
def Ray.split (r : Ray) (f : NodeFmt) (bs : List Byte) (ks : List Kid) : Except Nat (List KidHit) :=
  let ax := (bs.getD f.boff 0).toNat % 4
  if ax = 3 then .error 2
  else
    let sp := u32At bs (f.boff + 4)
    let ts := f32Mul (f32Sub sp (comp r.o ax)) (r.inv ax)
    let below := f32Lt (comp r.o ax) sp || (f32Eq (comp r.o ax) sp && f32Le (comp r.d ax) 0)
    let near := if below then 0 else 1
    let tmin := r.tmin.toNat
    .ok (ks.filterMap fun k =>
      if 1 < k.idx then none
      else if f32NaN ts then some ⟨tmin, k⟩
      else if k.idx = near then (if f32Lt ts tmin then none else some ⟨tmin, k⟩)
      else if f32Le ts r.tmax.toNat then some ⟨f32Max ts tmin, k⟩ else none)

/-- The children of an interior node that are hit, among those that a mask names. -/
def State.hits (s : State) (r : Ray) (die : Nat) (f : NodeFmt) (bs : List Byte) (among : Nat → Bool) : Except Nat (List KidHit) :=
  match s.kids r die f bs with
  | .error e => .error e
  | .ok all =>
    let ks := all.filter fun k => among k.idx
    match f.test with
    | 1 => r.split f bs ks
    | 3 =>
      let c := ((List.range (f.count - 1)).filter fun i => u32At bs (f.boff + 4 * i) ≤ comp r.o 0).length
      .ok ((ks.filter fun k => k.idx == c).map fun k => ⟨0, k⟩)
    | _ =>
      .ok (ks.filterMap fun k =>
        let b := if f.test = 2 then octreeBounds f bs k.idx else boxBounds f bs k.pos
        (r.box b.1 b.2).map fun e => ⟨e, k⟩)

/-- The child with the least (entry, index). -/
def leastHit (l : List KidHit) : Option KidHit :=
  l.foldl (fun (m : Option KidHit) h =>
    match m with
    | none => some h
    | some x => if f32Lt h.entry x.entry || (f32Eq h.entry x.entry && h.kid.idx < x.kid.idx) then some h else some x) none

/-- The triangle test: t of the candidate hit. -/
def Ray.triangle (r : Ray) (p0 p1 p2 : List Nat) : Option Nat :=
  let e1 := f32Diff p1 p0
  let e2 := f32Diff p2 p0
  let sv := f32Diff r.o p0
  let pv := f32Cross r.d e2
  let det := f32Dot e1 pv
  if f32Eq det 0 || f32NaN det then none
  else
    let inv := f32Div f32One det
    let u := f32Mul (f32Dot sv pv) inv
    let qv := f32Cross sv e1
    let v := f32Mul (f32Dot r.d qv) inv
    let t := f32Mul (f32Dot e2 qv) inv
    if f32Le 0 u && f32Le 0 v && f32Le (f32Add .rne u v) f32One && f32Le r.tmin.toNat t && f32Le t r.tmax.toNat
    then some t else none

/-! ### The walk of a ray (R100, R102, R106) -/

/-- The mask of children to visit, and the least of their entries as `bf16`, rounded down (R101). -/
def deferredOf (node : BitVec 32) (l : List KidHit) : Deferred where
  node := node
  pend := BitVec.ofNat 16 ((l.map fun h => 2 ^ h.kid.idx).sum)
  tent := BitVec.ofNat 16 (match leastHit l with
    | some h => roundFl .bf16 .rdn false (toFl .f32 h.entry)
    | none => 0)

/-- Push a deferred entry; with six in use the bottom one is dropped. -/
def Ray.push (r : Ray) (d : Deferred) : Ray :=
  { r with stack := (d :: r.stack).take 6, ovf := r.ovf || 6 ≤ r.stack.length }

/-- What one test leaves: the ray, the child to visit, an any-hit record (t, primitive, leaf), and a leaf that the predictor
learns. -/
structure Tested where
  ray : Ray
  target : Option (Option (BitVec 32))
  report : Option (Nat × Nat × BitVec 32)
  learned : Option (BitVec 32)
  deriving DecidableEq, Repr

/-- A candidate hit (t, p) of a leaf (R100, R106). -/
def Ray.hit (r : Ray) (t p : Nat) (leaf : BitVec 32) (key : Bool) : Tested :=
  let any := r.mode == .any
  let report := if any && !r.seen.contains p then some (t, p, leaf) else none
  let better := f32Lt t r.bestT.toNat || (f32Eq t r.bestT.toNat && p < r.bestP.toNat)
  let r := if report.isSome then { r with seen := p :: r.seen } else r
  let r' := if better then
      { r with bestT := BitVec.ofNat 32 t, bestP := BitVec.ofNat 32 p, leaf := leaf, keyHit := key
               tmax := if any then r.tmax else BitVec.ofNat 32 t }
    else r
  ⟨r', none, report, if better && !key then some leaf else none⟩

/-- One primitive of a leaf, whose bytes are `bs`. -/
def Ray.primitive (r : Ray) (p : BitVec 32) (f : NodeFmt) (bs : List Byte) : Except Nat Tested :=
  let first := u32At bs 0
  let n := u32At bs 4 % 32
  let size := if f.test = 4 then 36 else 8
  if n = 0 || f.fanout < n || bs.length < f.boff + size * n then .error 2
  else
    let i := r.prim
    let r := if i + 1 < n then { r with inLeaf := some p, prim := i + 1 } else { r with inLeaf := none, prim := 0 }
    let at_ := fun (k : Nat) => u32At bs (f.boff + size * i + 4 * k)
    let miss : Tested := ⟨r, none, none, none⟩
    .ok (if f.test = 4 then
        match r.triangle [at_ 0, at_ 1, at_ 2] [at_ 3, at_ 4, at_ 5] [at_ 6, at_ 7, at_ 8] with
        | some t => r.hit t ((first + i) % 2 ^ 32) p false
        | none => miss
      else if at_ 0 = comp r.o 0 then r.hit 0 (at_ 1) p true else miss)

/-- NEXT as a node pointer in the treelet of the ray's queue. -/
def Ray.nextPtr (r : Ray) : BitVec 32 :=
  BitVec.ofNat 32 (r.next.toNat / 2 ^ 16 * 2 ^ 28 + r.treelet * 2 ^ 16 + r.next.toNat % 2 ^ 16)

/-- Go on to the least of the children hit, with the others deferred at the node. -/
def Ray.choose (r : Ray) (node : BitVec 32) (hs : List KidHit) : Tested :=
  match leastHit hs with
  | none => ⟨{ r with popping := true }, none, none, none⟩
  | some c =>
    let rest := hs.filter fun h => h != c
    ⟨if rest.isEmpty then r else r.push (deferredOf node rest), some c.kid.ptr, none, none⟩

/-- visit(NEXT): a leaf's first primitive, or the children of a node. -/
def State.visit (s : State) (r : Ray) (die : Nat) : Except Nat Tested :=
  let p := r.nextPtr
  match s.node r die p with
  | .error e => .error e
  | .ok (f, bs) =>
    if f.leaf then ({ r with popping := true, prim := 0 } : Ray).primitive p f bs
    else
      match s.hits r die f bs (fun _ => true) with
      | .error e => .error e
      | .ok hs => .ok (r.choose p hs)

/-- The pop of the top deferred entry: its children are tested again with the current TMAX. -/
def State.pop (s : State) (r : Ray) (die : Nat) : Except Nat Tested :=
  match r.stack with
  | [] => .ok ⟨r, none, none, none⟩
  | d :: below =>
    match s.node r die d.node with
    | .error e => .error e
    | .ok (f, bs) =>
      if f.leaf then .error 2
      else
        match s.hits r die f bs (fun c => d.pend.toNat.testBit c) with
        | .error e => .error e
        | .ok hs => .ok (({ r with stack := below } : Ray).choose d.node hs)

/-- One test of a ray (R104): a proposed leaf first, then the leaf at hand, then NEXT or a deferred entry. A proposal that
names no leaf of the scene is dropped. -/
def State.testRay (s : State) (r : Ray) (die : Nat) : Except Nat Tested :=
  match r.proposal with
  | some p =>
    let r := { r with proposal := none }
    match s.node r die p with
    | .ok (f, bs) =>
      if f.leaf then
        match ({ r with prim := 0 } : Ray).primitive p f bs with
        | .ok t => .ok t
        | .error _ => .ok ⟨r, none, none, none⟩
      else .ok ⟨r, none, none, none⟩
    | .error _ => .ok ⟨r, none, none, none⟩
  | none =>
    match r.inLeaf with
    | some p =>
      match s.node r die p with
      | .error e => .error e
      | .ok (f, bs) => r.primitive p f bs
    | none => if r.popping then s.pop r die else s.visit r die

/-- Where a ray goes after a test: on in its treelet, to another treelet, or to its end with a status. -/
inductive RayGo where
  | stay
  | forward (treelet : Nat)
  | finish (status : Nat)
  deriving DecidableEq, Repr

/-- Set NEXT to a pointer. -/
def Ray.aim (r : Ray) (p : BitVec 32) (popping : Bool) : Ray × RayGo :=
  let next := BitVec.ofNat 20 (ptrType p * 2 ^ 16 + ptrOffset p)
  ({ r with next := next, popping := popping },
    if ptrTreelet p = r.treelet then .stay else .forward (ptrTreelet p))

/-- Drop the deferred entries that begin beyond TMAX. -/
def Ray.trim (r : Ray) : Ray :=
  { r with stack := r.stack.dropWhile fun d =>
    (toFl .f32 r.tmax.toNat).lt (toFl .bf16 d.tent.toNat) }

/-- What follows a test without a test of its own: the child chosen, a forward, a pop, a restart, or the end (R102). -/
def Tested.go (t : Tested) : Ray × RayGo :=
  let r := t.ray
  match t.target with
  | some none => (r, .finish 2)
  | some (some p) => r.aim p false
  | none =>
    if r.proposal.isSome || r.inLeaf.isSome || !r.popping then (r, .stay)
    else
      let r := r.trim
      match r.stack with
      | d :: _ => r.aim d.node true
      | [] =>
        if r.ovf && r.rstc < 3 then ({ r with rstc := r.rstc + 1, ovf := false } : Ray).aim 0 false
        else (r, .finish (if r.ovf then 1 else 0))

/-! ### Records (R107, R108, R429) -/

/-- The 32 bytes of a record. -/
def Ray.record (r : Ray) (kind status prim t : Nat) (leaf : BitVec 32) : List Byte :=
  leBytes 32 (t + prim * 2 ^ 32 + r.gen % 2 ^ 20 * 2 ^ 128 + r.scene * 2 ^ 148 + leaf.toNat * 2 ^ 160 + r.batch * 2 ^ 192
    + r.slot * 2 ^ 200 + kind * 2 ^ 205 + status * 2 ^ 207 + grpOf r.g * 2 ^ 210)

/-- Whether the ray has a hit. -/
def Ray.found (r : Ray) : Bool := r.leaf != BitVec.allOnes 32

/-- The final record of a ray that ends with a status. -/
def Ray.final (r : Ray) (status : Nat) : List Byte :=
  if r.found then
    r.record (if status = 0 && r.keyHit then 3 else 1) status r.bestP.toNat r.bestT.toNat r.leaf
  else r.record 0 status 0xFFFFFFFF f32Inf (BitVec.allOnes 32)

/-- Cycles of a ray message or a record between the lane, a stack and a die buffer, and of a bundle to the engine's own
stack; of a test; and of moving spilled rays in (the worked program's nominal model, entry 5). -/
def rayTrip : Nat := 120
def rayLocal : Nat := 4
def rayTest : Nat := 2
def rayMove : Nat := 480

/-- Put a record on its way. -/
def State.sendRecord (s : State) (r : Ray) (final : Bool) (bytes : List Byte) (due : Nat) : State :=
  let f := s.fresh
  let h : HitRec := { bid := r.bid, launch := r.launch, part := r.part, scene := r.scene, gslot := r.gslot, slot := r.slot,
                      final := final, stage := r.hitStage, bytes := bytes, due := due, arrived := false, blocked := false }
  { f.2 with eng := { f.2.eng with records := Tab.set f.1 h f.2.eng.records } }

/-- A ray ends: its final record is on its way, and the ray is gone from the engines. -/
def State.finishRay (s : State) (id : Nat) (r : Ray) (status due : Nat) : State :=
  let s := { s with eng := { s.eng with rays := Tab.erase id s.eng.rays } }
  s.sendRecord r true (r.final status) due

/-- Change RAYS of a generation slot at its home (R95); a scene table that cannot be reached is left alone. -/
def State.countRays (s : State) (part scene gslot : Nat) (f : Nat → Nat) : State :=
  match s.tablePhys part ((s.part part).scnbase.toNat + 128 * scene + 52 + 24 * gslot) with
  | none => s
  | some p => s.putHome p (leBytes 4 (f (s.homeNat p 4)))

/-- The final record of a ray is released: the ray no longer counts (R95, R101, R103). -/
def State.retireRay (s : State) (h : HitRec) : State :=
  let s := s.countRays h.part h.scene h.gslot fun n => (n + 2 ^ 32 - 1) % 2 ^ 32
  let s := s.setPart h.part { s.part h.part with raysUsed := (s.part h.part).raysUsed - 1 }
  { s with eng := { s.eng with
    batches := (s.eng.batches.map fun b =>
      if b.bid == h.bid then { b with slots := b.slots &&& ~~~maskOf [h.slot] } else b).filter fun b => b.slots != 0 } }

/-- The record of a batch that is released next: the first of its lowest slot. -/
def State.nextRecord (s : State) (b : Batch) : Option (Nat × HitRec) :=
  s.eng.records.find? fun (e : Nat × HitRec) => e.2.bid == b.bid && e.2.slot == lowest b.slots

/-- Whether a record may enter its stage's queue now (R108, R429): there is room, and a record that has found the queue full
does not enter in the cycle of the formation that freed it. -/
def State.mayEnter (s : State) (h : HitRec) : Bool :=
  match s.stage? h.launch h.stage with
  | none => true
  | some st => st.queue.length < st.cap && !(h.blocked && st.formed == s.clock.cycle + 1)

/-- Whether the records of a launch are discarded (R439). -/
def State.discards (s : State) (h : HitRec) : Bool :=
  match s.launch? h.launch with
  | some l => l.ended
  | none => true

/-- Release the records of a batch in their order, as far as they have arrived and there is room (R108). -/
def State.releaseBatch (bid : Nat) : (fuel : Nat) → State → State
  | 0, s => s
  | fuel + 1, s =>
    match s.eng.batches.find? (fun b => b.bid == bid) with
    | none => s
    | some b =>
      match s.nextRecord b with
      | none => s
      | some (id, h) =>
        let gone := fun (s : State) =>
          let s := { s with eng := { s.eng with records := Tab.erase id s.eng.records } }
          if h.final then s.retireRay h else s
        if !h.arrived then s
        else if s.discards h then State.releaseBatch bid fuel (gone s)
        else if !s.mayEnter h then
          { s with eng := { s.eng with records := Tab.update id (fun h => { h with blocked := true }) s.eng.records } }
        else State.releaseBatch bid fuel (gone (s.pushRecord h.launch h.stage ⟨h.bytes, 0, s.clock.time⟩))

/-- RECORD_ARRIVAL: a record is at the die buffer; what its batch may release is released. -/
def State.recordArrives (s : State) (id : Nat) : State :=
  match Tab.get? id s.eng.records with
  | none => s
  | some h =>
    if s.clock.cycle < h.due then s
    else
      let s := { s with eng := { s.eng with records := Tab.update id (fun h => { h with arrived := true }) s.eng.records } }
      State.releaseBatch h.bid (s.eng.records.length + 1) s

def execRecordArrival (record : Nat) (s : State) : Out := .next (s.recordArrives record)

/-! ### Queues (R103, R426, R427) -/

/-- The number of a ray's queue among those of a stack: partition, scene, generation, treelet. -/
def Ray.queueKey (r : Ray) : Nat := ((r.part * 256 + r.scene) * 2 ^ 20 + r.gen % 2 ^ 20) * 2 ^ 12 + r.treelet

/-- Whether a ray waits in a queue of a stack, and whether on-die. -/
def Ray.inQueue (r : Ray) (stack : Nat) : Bool := match r.place with | .queued k _ _ _ => k == stack | _ => false
def Ray.onDie (r : Ray) (stack : Nat) : Bool := match r.place with | .queued k _ sp _ => k == stack && !sp | _ => false

/-- Whether a ray is being moved in, or is spilled and stays. -/
def Ray.isMoving (r : Ray) : Bool := match r.place with | .queued _ _ _ m => m | _ => false
def Ray.isSpilled (r : Ray) : Bool := match r.place with | .queued _ _ sp m => sp && !m | _ => false

/-- Change a ray. -/
def State.setRay (s : State) (id : Nat) (r : Ray) : State := { s with eng := { s.eng with rays := Tab.set id r s.eng.rays } }

/-- Send a ray to a treelet's queue: with its rank among those that arrive in one cycle. -/
def State.sendRay (s : State) (id : Nat) (r : Ray) (t : Treelet) (treelet rank due : Nat) : State :=
  let f := s.fresh
  f.2.setRay id { r with place := .flying t.stack treelet rank, treelet := treelet, qcap := t.qcap, due := due, order := f.1 }

/-- Whether a ray arrives before another: logic-die cycle, sending stack and engine, order (R103, R426). -/
def Ray.before (a b : Ray) : Bool :=
  let rank := fun (r : Ray) => match r.place with | .flying _ _ k => k | _ => 0
  let la := logicAt a.due
  let lb := logicAt b.due
  la < lb || (la == lb && (rank a < rank b || (rank a == rank b && a.order < b.order)))

/-- The ray that arrives next, of those whose logic-die cycle ends. -/
def State.nextArrival (s : State) : Option Nat :=
  ((s.eng.rays.filter fun (e : Nat × Ray) =>
      (match e.2.place with | .flying .. => true | _ => false) && e.2.due ≤ s.clock.cycle
        && logicAt e.2.due < logicAt (s.clock.cycle + 1)).foldl
    (fun (m : Option (Nat × Ray)) e =>
      match m with
      | none => some e
      | some x => if e.2.before x.2 then some e else some x) none).map fun e => e.1

/-- RAY_ARRIVAL: a ray joins its treelet's queue, on-die where there is room and nothing of the queue is spilled, else in the
spill area. -/
def State.rayArrives (s : State) (id : Nat) : State :=
  match Tab.get? id s.eng.rays with
  | none => s
  | some r =>
    match r.place with
    | .flying stack treelet _ =>
      if s.nextArrival != some id then s
      else
        let q := (s.eng.rays.filter fun (e : Nat × Ray) => e.2.inQueue stack && e.2.queueKey == r.queueKey).map fun e => e.2
        let on := (q.filter fun x => x.onDie stack).length
        let spill := on != q.length || r.qcap ≤ on
        let f := s.fresh
        f.2.setRay id { r with place := .queued stack treelet spill false, arrived := s.clock.cycle, order := f.1 }
    | _ => s

def execRayArrival (ray : Nat) (s : State) : Out := .next (s.rayArrives ray)

/-- SPILL_MOVE_IN: the rays whose read has completed can be taken. -/
def State.moveIn (s : State) (stack queue : Nat) : State :=
  { s with eng := { s.eng with rays := s.eng.rays.map fun (e : Nat × Ray) =>
    let r := e.2
    match r.place with
    | .queued k t true true =>
      if k == stack && r.queueKey == queue && r.due ≤ s.clock.cycle then (e.1, { r with place := .queued k t false false })
      else e
    | _ => e } }

def execSpillMoveIn (stack queue : Nat) (s : State) : Out := .next (s.moveIn stack queue)

/-! ### Engines (R104, R105, R425, R428) -/

/-- Put a ray into a list in rising order. -/
def insertRay (e : Nat × Ray) : List (Nat × Ray) → List (Nat × Ray)
  | [] => [e]
  | x :: l => if e.2.order < x.2.order then e :: x :: l else x :: insertRay e l

/-- Rays in rising order. -/
def sortRays (l : List (Nat × Ray)) : List (Nat × Ray) := l.foldl (fun acc e => insertRay e acc) []

/-- The rays that an engine holds, in take order. -/
def State.heldRays (s : State) (stack engine : Nat) : List (Nat × Ray) :=
  sortRays (s.eng.rays.filter fun (e : Nat × Ray) => e.2.place == .held stack engine)

/-- 20 µs in core cycles (R104). -/
def headBound : Nat := 54000

/-- Whether a queue, given by its number of rays and its head, goes before another (R104). -/
def queueBefore (now : Nat) (a b : Nat × Ray) : Bool :=
  let late := fun (r : Ray) => r.arrived + headBound < now
  let older := a.2.arrived < b.2.arrived || (a.2.arrived == b.2.arrived && a.2.order < b.2.order)
  if late a.2 || late b.2 then (if late a.2 && late b.2 then older else late a.2)
  else b.1 < a.1 || (a.1 == b.1 && older)

/-- The queue that an engine of a stack chooses: its on-die rays. -/
def State.chosenQueue (s : State) (stack : Nat) : List (Nat × Ray) :=
  let all := s.eng.rays.filter fun (e : Nat × Ray) => e.2.inQueue stack
  let on := sortRays (all.filter fun (e : Nat × Ray) => e.2.onDie stack)
  let keys := (on.map fun e => e.2.queueKey).eraseDups
  let best := keys.foldl (fun (m : Option (Nat × Ray)) k =>
    match on.find? fun e => e.2.queueKey == k with
    | none => m
    | some h =>
      let c := ((all.filter fun (e : Nat × Ray) => e.2.queueKey == k).length, h.2)
      match m with
      | none => some c
      | some x => if queueBefore s.clock.cycle c x then some c else some x) none
  match best with
  | none => []
  | some b => on.filter fun e => e.2.queueKey == b.2.queueKey

/-- The predictor's index of a ray (R105). -/
def Ray.index (r : Ray) : Nat :=
  let k := ((List.range 3).map fun a => comp r.o a / 2 ^ 22 % 2 ^ 10 * 2 ^ (10 * a)).sum
    + ((List.range 3).map fun a => comp r.d a / 2 ^ 26 % 2 ^ 6 * 2 ^ (30 + 6 * a)).sum
  (BitVec.ofNat 12 k ^^^ BitVec.ofNat 12 (k / 2 ^ 12) ^^^ BitVec.ofNat 12 (k / 2 ^ 24) ^^^ BitVec.ofNat 12 (k / 2 ^ 36)).toNat

/-- The key of a predictor entry: the engine and the index. -/
def guessKey (stack engine index : Nat) : Nat := (stack * 4 + engine) * 4096 + index

/-- The lookup at a ray's first take from a queue of a stack (R105, R428). -/
def State.predict (s : State) (stack engine : Nat) (r : Ray) : Ray :=
  if r.mode == .any || r.asked.contains stack then r
  else
    let r := { r with asked := stack :: r.asked }
    match Tab.get? (guessKey stack engine r.index) s.eng.predictor with
    | none => r
    | some g =>
      if g.scene == r.scene && g.gslot == r.gslot then
        match s.treelet r (stack / 3) (ptrTreelet g.leaf) with
        | .ok t => if t.stack = stack then { r with proposal := some g.leaf } else r
        | .error _ => r
      else r

/-- The spilled rays of a queue that begin to move in when a take has freed room (R427). -/
def State.startMoves (s : State) (stack key n : Nat) : State :=
  let l := (sortRays (s.eng.rays.filter fun (e : Nat × Ray) =>
    e.2.inQueue stack && e.2.queueKey == key && e.2.isSpilled)).take n
  l.foldl (fun (s : State) e =>
    match e.2.place with
    | .queued k t sp _ => s.setRay e.1 { e.2 with place := .queued k t sp true, due := s.clock.cycle + rayMove }
    | _ => s) s

/-- ENGINE_TAKE: an engine that holds no ray takes up to 8 from the head of the queue it chooses. -/
def State.take (s : State) (stack engine : Nat) : State :=
  if 4 ≤ engine || !(s.heldRays stack engine).isEmpty then s
  else
    let l := (s.chosenQueue stack).take 8
    match l with
    | [] => s
    | h :: _ =>
      let due := s.clock.cycle + rayTest * l.length
      let s' := l.foldl (fun (s' : State) e =>
        s'.setRay e.1 { s.predict stack engine e.2 with place := .held stack engine, due := due }) s
      s'.startMoves stack h.2.queueKey l.length

def execEngineTake (stack engine : Nat) (s : State) : Out := .next (s.take stack engine)

/-- The node that a ray's next test reads (R102, R104). -/
def Ray.nextNode (r : Ray) : BitVec 32 :=
  match r.proposal, r.inLeaf, r.stack with
  | some p, _, _ => p
  | none, some p, _ => p
  | none, none, d :: _ => if r.popping then d.node else r.nextPtr
  | none, none, [] => r.nextPtr

/-- On whose behalf an engine reads for a ray (R109). -/
def State.rayAsker (s : State) (id : Nat) (r : Ray) : Asker :=
  ⟨some id, some r.launch, r.part, match s.launch? r.launch with | some l => l.p.cls == 0 && !l.overrun | none => false⟩

/-- The reads of a node on behalf of a ray: its format, its treelet's entry and its bytes; what misses the die buffer is requested
(R46, R109). -/
def State.fetchNode (s : State) (id : Nat) (r : Ray) (die : Nat) : State :=
  let p := r.nextNode
  let bytes := match s.nodeFmt r die (ptrType p), s.treelet r die (ptrTreelet p) with
    | .ok f, .ok t => [(t.base + 16 * ptrOffset p, 16 * f.nsize)]
    | _, _ => []
  let ranges := (r.nft.toNat + 16 * ptrType p, 16) :: (r.ttab.toNat + 16 * ptrTreelet p, 16) :: bytes
  s.readThrough (s.rayAsker id r) (r.via die) ((ranges.map fun e =>
    ((s.engRange (r.via die) false e.1 e.2).getD []).filter fun x => x.1.space < 3).flatten)

/-- One ray's part of a pass: its test ends at a cycle; a ray to forward is kept for the end of the pass. -/
def State.passOne (s : State) (stack engine : Nat) (e : Nat × Ray) (at_ : Nat) : Option (Nat × Ray × Nat) × State :=
  let die := stack / 3
  let test := s.testRay e.2 die
  let s := s.fetchNode e.1 e.2 die
  match test with
  | .error st => (none, s.finishRay e.1 e.2 st (at_ + rayTrip))
  | .ok t =>
    let s := match t.learned with
      | none => s
      | some leaf => { s with eng := { s.eng with
          predictor := Tab.set (guessKey stack engine t.ray.index) ⟨t.ray.scene, t.ray.gslot, leaf⟩ s.eng.predictor } }
    let s := match t.report with
      | none => s
      | some (d, p, leaf) => s.sendRecord t.ray false (t.ray.record 2 0 p d leaf) (at_ + rayTrip)
    let g := t.go
    match g.2 with
    | .stay => (none, s.setRay e.1 g.1)
    | .forward treelet => (some (e.1, g.1, treelet), s.setRay e.1 g.1)
    | .finish st => (none, s.finishRay e.1 g.1 st (at_ + rayTrip))

/-- The tests of a pass, in take order: test k ends k tests after the pass began. -/
def State.passAll (stack engine start : Nat) : (k : Nat) → List (Nat × Ray) → State → List (Nat × Ray × Nat) × State
  | _, [], s => ([], s)
  | k, e :: l, s =>
    let r := s.passOne stack engine e (start + rayTest * (k + 1))
    let q := State.passAll stack engine start (k + 1) l r.2
    (r.1.toList ++ q.1, q.2)

/-- Send on a ray that a pass forwards (R426). -/
def State.forward (s : State) (stack engine : Nat) (e : Nat × Ray × Nat) : State :=
  match s.treelet e.2.1 (stack / 3) e.2.2 with
  | .error st => s.finishRay e.1 e.2.1 st (s.clock.cycle + rayTrip)
  | .ok t =>
    s.sendRay e.1 e.2.1 t e.2.2 (stack * 4 + engine) (s.clock.cycle + if t.stack = stack then rayLocal else rayTrip)

/-- TRAVERSAL_PASS: every ray still held gets one test; rays end, or are sent on when the pass ends. A pass waits for what the one
before it has requested. -/
def State.pass (s : State) (stack engine : Nat) : State :=
  let l := s.heldRays stack engine
  if l.isEmpty || l.any (fun e => s.clock.cycle < e.2.due || s.requestsLeft e.1) then s
  else
    let r := State.passAll stack engine (s.clock.cycle - rayTest * l.length) 0 l s
    let s := r.1.foldl (fun s e => s.forward stack engine e) r.2
    let rest := s.heldRays stack engine
    rest.foldl (fun (s : State) e => s.setRay e.1 { e.2 with due := s.clock.cycle + rayTest * rest.length }) s

def execTraversalPass (stack engine : Nat) (s : State) : Out := .next (s.pass stack engine)

/-! ### rsend (R95, R101, R103, R411) -/

/-- Whether codes name vector registers that the group holds and may name now. -/
def Group.namesCodes (g : Group) (l : List Nat) : Bool := l.all fun n => n < 96 && g.holdsV n && (g.hand.isNone || n < 4)

/-- The hit stage of an `rsend`, where the issuing stage may send to it. -/
def State.hitStage? (s : State) (st : Nat) : Bool :=
  match s.stage? s.cur.launch s.cur.stage, s.stage? s.cur.launch st with
  | some mine, some dst => dst.hit && mine.outMask.testBit st
  | _, _ => false

/-- Causes of a failed read of the scene (R411): not present 0x06, any other refusal of the page 0x07. -/
def sceneCause (c : BitVec 8) : BitVec 8 := if c = 0x04 || c = 0x12 then 0x07 else c

/-- Read the scene's sync word as an acquire at module scope (R95): at its home, or by a request to a remote home. The traversal
engines read at the homes, and the core drops what the acquire makes stale (R233). -/
def State.sceneSync (s : State) (x : Ord) (va : Nat) (run : State → Nat → State) : State :=
  match s.checkGlobal (BitVec.ofNat 64 va) 8 false true with
  | (.error (c, a), s) => s.dropWaiter.uniformFault x (sceneCause c) a.toNat 0x00
  | (.ok m, s) =>
    if !m.plain then s.uniformFault x 0x07 va 0x00
    else if m.isLocal then run (s.acquireBound (m.wordKey va) 3) (leNat (s.mapBytes m va 8))
    else
      match s.waiterOf with
      | some w => run (s.dropWaiter.acquireBound (m.wordKey va) 3) w.word
      | none =>
        if s.syncOut then s.stall .acquire
        else
          (s.request m va opAtomicRequest 1 (atomicPayload (atomCode .or) 8 0 0) (.sync s.cur.slot true 0x00) 0
            (lowest (s.cur.exec x.pred)) (s.cur.omask x.pred)).2.stall .acquire

/-- The eight components of a thread's ray. -/
def Group.rayOf (g : Group) (a t : Nat) : List (BitVec 32) :=
  ((List.range 4).map fun i =>
    let w := g.vget (a + i) t
    [w.setWidth 32, (w >>> 32).setWidth 32]).flatten

/-- A ray at its start (R411). -/
def State.newRay (s : State) (mode : RayMode) (a t scene gen stage bid : Nat) (slot : Nat) : Ray :=
  let c := s.cur.rayOf a t
  let at_ := fun (i : Nat) => c.getD i 0
  { org := [at_ 0, at_ 1, at_ 2], dir := [at_ 3, at_ 4, at_ 5], tmin := at_ 6, tmax := at_ 7, next := 0, rstc := 0,
    mode := mode, ovf := false, bestT := BitVec.ofNat 32 f32Inf, bestP := BitVec.allOnes 32, leaf := BitVec.allOnes 32,
    keyHit := false, g := s.cur.id, slot := t, gslot := gen % 4, batch := s.cur.batch, stack := [], scene := scene,
    gen := gen, launch := s.cur.launch, part := s.cur.part, hitStage := stage, place := .flying 0 0 0, arrived := 0,
    order := 0, due := 0, asked := [], proposal := none, inLeaf := none, prim := 0, popping := false, seen := [],
    treelet := 0, qcap := 64, ttab := BitVec.ofNat 64 (field slot 0 64), nft := BitVec.ofNat 64 (field slot 64 64),
    ntree := if field slot 148 12 = 0 then 4096 else field slot 148 12, bid := bid }

/-- A ray that is not traversed (R411): a NaN, or TMIN above TMAX. -/
def Ray.idle (r : Ray) : Bool :=
  (r.o ++ r.d ++ [r.tmin.toNat, r.tmax.toNat]).any f32NaN || f32Lt r.tmax.toNat r.tmin.toNat

/-- Send one ray: to the queue of treelet 0, or its record at once. -/
def State.launchRay (s : State) (r : Ray) (base : Nat) : State :=
  let f := s.fresh
  let s := f.2
  if r.idle then s.finishRay f.1 r 0 (base + rayTrip)
  else
    match s.treelet r r.g.die 0 with
    | .error st => s.finishRay f.1 r st (base + rayTrip)
    | .ok t => s.sendRay f.1 r t 0 (48 + ((r.g.die * 64 + r.g.core) * 64 + r.g.lane)) (base + rayTrip)

/-- Whether the allowance and the batch limit cover an `rsend` of n rays (R101, R103). -/
def State.raysFit (s : State) (g : Group) (n : Nat) : Bool :=
  (s.part g.part).raysUsed + n ≤ (s.part g.part).rays
    && (s.eng.batches.filter fun b => b.g == g.id).length < 64

/-- Send the rays of the threads that the budget covers: one batch. -/
def State.sendRays (s : State) (mode : RayMode) (x : Ord) (scene stage gen slot : Nat) : State :=
  let e := s.cur.exec x.pred
  let ok := s.affordable e
  let n := count ok
  if !s.raysFit s.cur n then s.stall (.rays n)
  else
    let b := s.fresh
    let s := b.2
    let base := s.clock.cycle + n - 1
    let rays := (threads ok).map fun t => s.newRay mode x.a.code t scene gen stage b.1 slot
    let s := rays.foldl (fun s r => s.launchRay r base) s
    let s := s.countRays s.cur.part scene (gen % 4) fun k => (k + n) % 2 ^ 32
    let s := s.setPart s.cur.part { s.part s.cur.part with raysUsed := (s.part s.cur.part).raysUsed + n }
    let s := { s with
      cur := { s.cur with batch := (s.cur.batch + 1) % 256 }
      eng := { s.eng with batches := s.eng.batches ++ [Batch.mk b.1 s.cur.id s.cur.launch ok] } }
    s.queueDone x (max 1 n) e ok (s.cur.omask x.pred)

/-- The registers of B. -/
def bRegs (x : Ord) : List Opd := match x.b with | .reg r => [r] | _ => []

def execRsend (fn : RayMode) (x : Ord) (s : State) : Out :=
  .next (
    if !s.cur.namesCodes ((List.range 4).map fun i => x.a.code + i) then s.refuse x.pred 0x02
    else s.named x.pred (bRegs x) fun s => s.checked x.pred (bRegs x) fun s =>
      let e := s.cur.exec x.pred
      let b := (s.cur.ub .zero x).toNat
      let st := x.imm.toNat % 16
      if e = 0 then s.retire 1 (lenOf x) e
      else if s.affordable e = 0 then s.exhausted (lowest e) (s.cur.omask x.pred)
      else if 256 ≤ b then s.refuse x.pred 0x07
      else if !s.hitStage? st then s.refuse x.pred 0x0B
      else
        s.uniformRead x ((s.part s.cur.part).scnbase.toNat + 128 * b) 128 (cause := sceneCause) fun s rec_ =>
        s.sceneSync x (field rec_ 0 64) fun s g =>
          let gen := g % 2 ^ 20
          let slot := field rec_ (256 + 192 * (gen % 4)) 192
          if !rec_.testBit 64 || field slot 128 20 != gen then s.refuse x.pred 0x07
          else s.sendRays fn x b st gen slot)

end Sys2Proof.Machine
end

