-- ==== Sys2Proof/Machine/Filter.lean ====
section
/-!
DEFINITION. The filter engines (R110-R114, R412): textures, hash grids, `tex` (0x6A) and `hgrid` (0x6B).
-/

namespace Sys2Proof.Machine

open Sys2Proof

/-! ### Exact values -/

/-- An integer, and a quotient of 2, as exact values. -/
def flInt (i : Int) : Fl := Fl.ofInt i
def flHalves (i : Int) : Fl := .fin (decide (i < 0)) i.natAbs (-1)

/-- The floor of a finite value. -/
def flFloor (x : Fl) : Int := roundInt .rdn x

/-- Whether a value is finite. -/
def Fl.finite (x : Fl) : Bool := match x with | .fin .. => true | _ => false

/-- One rounding to `f32` (R111). -/
def f32Of (x : Fl) : Nat := roundFl .f32 .rne false x

/-- A difference, exact. -/
def flSub (a b : Fl) : Fl := a.add .rne b.negate

/-- sum + w × x, rounded once (R111, R113). -/
def f32Step (sum w x : Nat) : Nat := f32Of ((toFl .f32 sum).add .rne ((toFl .f32 w).mul (toFl .f32 x)))

/-! ### Reads on the FILT path (R114) -/

/-- How the filter engine of an operation's die reaches memory. -/
def Op.via (o : Op) (part : Nat) : Via := ⟨o.g.die, part, []⟩

/-- How a filter engine reaches an address for the group of an operation, through its die's TLB: as the group does; a page of
another module is refused (entry 7). -/
def State.filtMap (s : State) (o : Op) (part va n : Nat) : Except (BitVec 8) Map :=
  if va % n != 0 then .error 0x04
  else if 2 ^ 52 ≤ va then .error 0x07
  else
    match s.viaLeaf (o.via part) va with
    | .leaf l =>
      match s.mapOf ⟨o.g.die, o.g.core, part, false, false, o.hand⟩ l va n with
      | .ok m => if 4 ≤ m.space then .error 0x07 else .ok m
      | .error c => .error c
    | .absent _ _ _ _ => .error 0x06
    | .bad => .error 0x07

/-- What the reads of a computation met: poison, and the pieces that were read. -/
structure Seen where
  bad : Bool
  reads : List (Map × Nat × Nat)
  deriving DecidableEq, Repr

def Seen.nothing : Seen := ⟨false, []⟩
def Seen.join (a b : Seen) : Seen := ⟨a.bad || b.bad, a.reads ++ b.reads⟩

/-- What a filter engine computes: values, and what was met; or the cause and the address that failed. -/
abbrev Filt (α : Type) : Type := Except (BitVec 8 × Nat) (α × Seen)

/-- Bytes that a filter engine reads. -/
def State.filtRead (s : State) (o : Op) (part va n : Nat) : Filt (List Byte) :=
  match s.filtMap o part va n with
  | .error c => .error (c, va)
  | .ok m => .ok (s.mapBytes m va n, ⟨s.poisoned m va n, [(m, va, n)]⟩)

/-! ### Textures (R110) -/

/-- A texture descriptor. -/
structure Tex where
  base : Nat
  w : Nat
  h : Nat
  lm1 : Nat
  fmt : Nat
  wrapU : Nat
  wrapV : Nat
  filt : Nat
  aniso : Nat
  deriving DecidableEq, Repr

def Tex.of (n : Nat) : Tex where
  base := field n 192 64
  w := field n 176 16 + 1
  h := field n 160 16 + 1
  lm1 := field n 156 4
  fmt := field n 152 4
  wrapU := field n 150 2
  wrapV := field n 148 2
  filt := field n 146 2
  aniso := field n 142 4

/-- Whether the descriptor holds a reserved code (R111). -/
def Tex.bad (t : Tex) : Bool := 10 ≤ t.fmt || t.wrapU == 3 || t.wrapV == 3

/-- Channels of a format, bytes of a channel. -/
def Tex.channels (t : Tex) : Nat := match t.fmt with | 0 | 4 | 7 => 1 | 1 | 5 | 8 => 2 | _ => 4
def Tex.chanBytes (t : Tex) : Nat := if t.fmt < 4 then 1 else if t.fmt < 7 then 2 else 4
def Tex.texel (t : Tex) : Nat := t.channels * t.chanBytes

/-- Size of a level. -/
def Tex.wl (t : Tex) (l : Nat) : Nat := max 1 (t.w / 2 ^ l)
def Tex.hl (t : Tex) (l : Nat) : Nat := max 1 (t.h / 2 ^ l)
def Tex.pitch (t : Tex) (l : Nat) : Nat := (t.wl l * t.texel + 31) / 32 * 32

/-- Start of a level: the levels below it, each rounded up to 256 bytes. -/
def Tex.start (t : Tex) : (l : Nat) → Nat
  | 0 => t.base
  | l + 1 => (t.start l + t.pitch l * t.hl l + 255) / 256 * 256

/-- A texel index in a level, by the wrap mode. -/
def wrapIndex (mode n : Nat) (i : Int) : Nat :=
  match mode with
  | 0 => (i % n).toNat
  | 1 => (max 0 (min i ((n : Int) - 1))).toNat
  | _ =>
    let m := (i % (2 * n)).toNat
    if m < n then m else 2 * n - 1 - m

/-- One channel's decode to `f32`. -/
def Tex.decode (t : Tex) (c : Nat) (bs : List Byte) : Nat :=
  let n := leNat bs
  if t.fmt = 3 && c < 3 then srgbDecode (BitVec.ofNat 8 n)
  else if t.fmt < 4 then f32Div (f32Of (flInt n)) (f32Of (flInt 255))
  else if t.fmt < 7 then convFF .rne false .f16 .f32 (toFl .f16 n)
  else n

/-- A texel: four channels (R110); a poisoned texel gives NaN in each of its own (R52). -/
def State.texelAt (s : State) (o : Op) (part : Nat) (t : Tex) (l : Nat) (i j : Int) : Filt (List Nat) :=
  let x := wrapIndex t.wrapU (t.wl l) i
  let y := wrapIndex t.wrapV (t.hl l) j
  match s.filtRead o part (t.start l + y * t.pitch l + x * t.texel) t.texel with
  | .error e => .error e
  | .ok (bs, seen) =>
    .ok ((List.range 4).map fun c =>
      if t.channels ≤ c then (if c = 3 then f32One else 0)
      else if seen.bad then canonNaN .f32
      else t.decode c ((bs.drop (c * t.chanBytes)).take t.chanBytes), seen)

/-! ### Filtering (R111) -/

/-- Four values that the spec does not state, from a counter (entry 4). -/
def openTexel (free : Nat) : List Nat := (List.range 4).map fun c => (Config.freeValue (free + c)).toNat % 2 ^ 32

/-- A texture coordinate as an exact quotient: a value over a whole number. -/
structure Coord where
  num : Fl
  den : Nat
  deriving DecidableEq, Repr

/-- round(u × Wl − 0.5) (R111). -/
def Coord.scaled (c : Coord) (w : Nat) : Nat :=
  divFl false .f32 .rne ((c.num.mul (flInt (2 * w : Nat))).add .rne (flInt (-(c.den : Int)))) (flInt (2 * c.den : Nat))

/-- The coordinate that a register holds. -/
def Coord.ofF32 (n : Nat) : Coord := ⟨toFl .f32 n, 1⟩

/-- Add the weighted texels of a list, in its order. -/
def State.weigh (s : State) (o : Op) (part : Nat) (t : Tex) (l : Nat) :
    List (Int × Int × Nat) → List Nat → Seen → Filt (List Nat)
  | [], acc, seen => .ok (acc, seen)
  | (i, j, w) :: rest, acc, seen =>
    match s.texelAt o part t l i j with
    | .error e => .error e
    | .ok (x, b) =>
      State.weigh s o part t l rest ((List.range 4).map fun c => f32Step (acc.getD c 0) w (x.getD c 0)) (seen.join b)

/-- Bilinear filtering in a level. A coordinate beyond the format has no stated texel: a free value. -/
def State.bilinear (s : State) (o : Op) (part : Nat) (t : Tex) (l : Nat) (u v : Coord) (free : Nat) : Filt (List Nat) :=
  let x := toFl .f32 (u.scaled (t.wl l))
  let y := toFl .f32 (v.scaled (t.hl l))
  if !(x.finite && y.finite) then .ok (openTexel free, .nothing)
  else
    let i := flFloor x
    let j := flFloor y
    let a := flSub x (flInt i)
    let b := flSub y (flInt j)
    let a' := flSub (flInt 1) a
    let b' := flSub (flInt 1) b
    s.weigh o part t l [(i, j, f32Of (a'.mul b')), (i + 1, j, f32Of (a.mul b')), (i, j + 1, f32Of (a'.mul b)),
      (i + 1, j + 1, f32Of (a.mul b))] [0, 0, 0, 0] .nothing

/-- A lod clamped to [0, LM1]. -/
def Tex.clampFl (t : Tex) (x : Fl) : Fl :=
  if x.lt (flInt 0) then flInt 0
  else if (flInt t.lm1).lt x then flInt t.lm1
  else x

/-- A register's lod clamped; a NaN has no stated level: a free choice. -/
def Tex.clampLod (t : Tex) (lod free : Nat) : Fl :=
  let x := toFl .f32 lod
  if x.isNaN then flInt (Config.freeChoice free % (t.lm1 + 1) : Nat) else t.clampFl x

/-- floor(lod + 0.5). -/
def nearestLevel (lod : Fl) : Nat := (flFloor (lod.add .rne (flHalves 1))).toNat

/-- Trilinear filtering: two levels, blended; above the last level stands the last. -/
def State.trilinear (s : State) (o : Op) (part : Nat) (t : Tex) (lod : Fl) (u v : Coord) (free : Nat) : Filt (List Nat) :=
  let l := (flFloor lod).toNat
  let frac := flSub lod (flInt l)
  match s.bilinear o part t l u v free with
  | .error e => .error e
  | .ok (f0, b0) =>
    match s.bilinear o part t (min (l + 1) t.lm1) u v (free + 4) with
    | .error e => .error e
    | .ok (f1, b1) =>
      .ok ((List.range 4).map fun c =>
        let d := f32Of ((toFl .f32 (f32Sub (f1.getD c 0) (f0.getD c 0))).mul frac)
        f32Add .rne (f0.getD c 0) d, b0.join b1)

/-- Sum the probes of an anisotropic filter, in ascending order. -/
def State.probes (s : State) (o : Op) (part : Nat) (t : Tex) (lod : Fl) (free : Nat) :
    List (Coord × Coord) → List Nat → Seen → Filt (List Nat)
  | [], acc, seen => .ok (acc, seen)
  | (u, v) :: rest, acc, seen =>
    match s.trilinear o part t lod u v free with
    | .error e => .error e
    | .ok (x, b) =>
      State.probes s o part t lod free rest ((List.range 4).map fun c => f32Add .rne (acc.getD c 0) (x.getD c 0))
        (seen.join b)

/-! #### Anisotropic filtering (R111, R412) -/

/-- The square of a vector's length: a whole number of units of 2^e. -/
def squareLen (x y : Fl) : Nat × Int :=
  match (x.mul x).add .rne (y.mul y) with
  | .fin _ m e => (m, e)
  | _ => (0, 0)

/-- Two values as whole numbers of one unit. -/
def alignPair (a b : Nat × Int) : Nat × Nat × Int :=
  let lo := min a.2 b.2
  (a.1 * 2 ^ (a.2 - lo).toNat, b.1 * 2 ^ (b.2 - lo).toNat, lo)

/-- min(ceil(Pmax / Pmin), bound), of the squares of the lengths. -/
def anisoCount (pmax2 pmin2 bound : Nat) : Nat :=
  match (List.range' 1 (bound - 1)).find? fun n => pmax2 ≤ n * n * pmin2 with
  | some n => n
  | none => bound

/-- Bits of a fraction that the logarithm gives, and of the numbers it squares (entry 7). -/
def logBits : Nat := 128
def logWork : Nat := 320

/-- The first bits of the fraction of log2(x / 2^logWork), for x from 2^logWork below twice that. -/
def log2Bits : (bits x acc : Nat) → Nat
  | 0, _, acc => acc
  | n + 1, x, acc =>
    let y := x * x / 2 ^ logWork
    if 2 * 2 ^ logWork ≤ y then log2Bits n (y / 2) (2 * acc + 1) else log2Bits n y (2 * acc)

/-- Half of log2(num / den) of a positive quotient (entry 7): exact where the quotient is a power of two, and else its first bits
with one more bit behind them, which stands for the rest. -/
def halfLog2 (num den : Nat) : Fl :=
  let l := log2Rat num den
  let q := scaleRat num den l
  let f := if q.1 = q.2 then 0 else 2 * log2Bits logBits (q.1 * 2 ^ logWork / q.2) 0 + 1
  (flInt (l * 2 ^ (logBits + 1) + f)).mul (.fin false 1 (-((logBits : Int) + 2)))

/-- log2(Pmax / N), of the square of Pmax: a whole number of units of 2^e. -/
def anisoLod (pmax2 : Nat) (e : Int) (n : Nat) : Fl :=
  if pmax2 = 0 then flInt 0
  else
    let d := dyadic pmax2 e
    halfLog2 d.1 (d.2 * n * n)

/-- Probe i of n along a derivative: u + ((i + 0.5) / n - 0.5) × du. -/
def probeAt (i n u du : Nat) : Coord :=
  ⟨((toFl .f32 u).mul (flInt (2 * n : Nat))).add .rne ((toFl .f32 du).mul (flInt (2 * (i : Int) + 1 - n))), 2 * n⟩

/-- Anisotropic filtering: derivatives du/dx, dv/dx, du/dy, dv/dy. Of two vectors of one length the first counts as the longer
(entry 7); a derivative that is not finite has no stated result: free values. -/
def State.anisotropic (s : State) (o : Op) (part : Nat) (t : Tex) (u v dux dvx duy dvy free : Nat) : Filt (List Nat) :=
  if !([dux, dvx, duy, dvy].all fun d => (toFl .f32 d).finite) then .ok (openTexel free, .nothing)
  else
    let tex := fun (d n : Nat) => (toFl .f32 d).mul (flInt n)
    let lens := alignPair (squareLen (tex dux t.w) (tex dvx t.h)) (squareLen (tex duy t.w) (tex dvy t.h))
    let xLonger := Nat.ble lens.2.1 lens.1
    let pmax2 := if xLonger then lens.1 else lens.2.1
    let pmin2 := if xLonger then lens.2.1 else lens.1
    let n := anisoCount pmax2 pmin2 (t.aniso + 1)
    let pts := (List.range n).map fun i =>
      (probeAt i n u (if xLonger then dux else duy), probeAt i n v (if xLonger then dvx else dvy))
    match s.probes o part t (t.clampFl (anisoLod pmax2 lens.2.2 n)) (free + 1) pts [0, 0, 0, 0] .nothing with
    | .error e => .error e
    | .ok (acc, seen) => .ok (acc.map fun x => f32Mul x (f32Div f32One (f32Of (flInt n))), seen)

/-- The low and the high half of a word. -/
def lo32 (w : Word) : Nat := w.toNat % 2 ^ 32
def hi32 (w : Word) : Nat := w.toNat / 2 ^ 32

/-- The four channels of one `tex` request. -/
def State.texResult (s : State) (o : Op) (part : Nat) (coords : List Word) (desc free : Nat) : Filt (List Nat) :=
  let t := Tex.of desc
  let c := fun (i : Nat) => coords.getD i 0
  let u := lo32 (c 0)
  let v := hi32 (c 0)
  let lod := t.clampLod (lo32 (c 1)) free
  if !((toFl .f32 u).finite && (toFl .f32 v).finite) then .ok (List.replicate 4 (canonNaN .f32), .nothing)
  else
    match t.filt with
    | 0 =>
      let l := nearestLevel lod
      let at_ := fun (p n : Nat) => flFloor ((toFl .f32 p).mul (flInt n))
      s.texelAt o part t l (at_ u (t.wl l)) (at_ v (t.hl l))
    | 1 => s.bilinear o part t (nearestLevel lod) (.ofF32 u) (.ofF32 v) (free + 1)
    | 2 => s.trilinear o part t lod (.ofF32 u) (.ofF32 v) (free + 1)
    | _ => s.anisotropic o part t u v (lo32 (c 1)) (hi32 (c 1)) (lo32 (c 2)) (hi32 (c 2)) free

/-! ### Hash grids (R112, R113) -/

/-- A hash-grid descriptor. -/
structure Grid where
  res : Nat
  base : Nat
  three : Bool
  log2t : Nat
  feats : Nat
  levels : Nat
  deriving DecidableEq, Repr

def Grid.of (n : Nat) : Grid where
  res := field n 256 256
  base := field n 192 64
  three := n.testBit 11
  log2t := field n 6 5
  feats := 2 ^ field n 4 2
  levels := field n 0 4 + 1

/-- Whether LOG2T is out of range (R112). -/
def Grid.bad (g : Grid) : Bool := g.log2t < 4 || 22 < g.log2t

/-- Registers of the results. -/
def Grid.regs (g : Grid) : Nat := (g.levels * g.feats + 1) / 2

/-- The table index of a corner at a level of R cells (R113). -/
def Grid.index (g : Grid) (r x y z : Nat) : Nat :=
  if (r + 1) ^ (if g.three then 3 else 2) ≤ 2 ^ g.log2t then x + y * (r + 1) + z * (r + 1) ^ 2
  else
    ((BitVec.ofNat 32 x ^^^ BitVec.ofNat 32 (y * 0x9E3779B1)) ^^^ BitVec.ofNat 32 (z * 0x7FEB352D)).toNat % 2 ^ g.log2t

/-- One axis at a level: the cell and the fraction. -/
def gridAxis (p r : Nat) : Nat × Fl :=
  let x := toFl .f32 p
  let x := if x.lt (flInt 0) then flInt 0 else if (flInt 1).lt x then flInt 1 else x
  let sa := toFl .f32 (f32Of (x.mul (flInt r)))
  let c := min (flFloor sa).toNat (r - 1)
  (c, flSub sa (flInt c))

/-- The weight of a corner: a product over the axes, rounded after each multiply, x first. -/
def cornerWeight : List Fl → Nat
  | [] => f32One
  | [f] => f32Of f
  | f :: g :: l => l.foldl (fun w h => f32Of ((toFl .f32 w).mul h)) (f32Of (f.mul g))

/-- Add the corners of a level to its features. -/
def State.gridCorners (s : State) (o : Op) (part : Nat) (g : Grid) (l r : Nat) (ax : List (Nat × Fl)) :
    List Nat → List Nat → Seen → Filt (List Nat)
  | [], acc, seen => .ok (acc, seen)
  | k :: rest, acc, seen =>
    let cell := fun (a : Nat) => ((ax.getD a (0, .fin false 0 0)).1) + (if k.testBit a then 1 else 0)
    let z := if g.three then cell 2 else 0
    let va := g.base + l * 2 ^ g.log2t * g.feats * 2 + g.index r (cell 0) (cell 1) z * g.feats * 2
    match s.filtRead o part va (g.feats * 2) with
    | .error e => .error e
    | .ok (bs, b) =>
      let w := cornerWeight ((ax.zipIdx).map fun e => if k.testBit e.2 then e.1.2 else flSub (flInt 1) e.1.2)
      let feat := fun (i : Nat) =>
        if b.bad then canonNaN .f32 else convFF .rne false .f16 .f32 (toFl .f16 (leNat ((bs.drop (2 * i)).take 2)))
      State.gridCorners s o part g l r ax rest ((List.range g.feats).map fun i => f32Step (acc.getD i 0) w (feat i)) (seen.join b)

/-- The features of the levels of a list. A level of no cells has no stated result: free values. -/
def State.gridLevels (s : State) (o : Op) (part : Nat) (g : Grid) (ps : List Nat) (free : Nat) :
    List Nat → Filt (List Nat)
  | [] => .ok ([], .nothing)
  | l :: rest =>
    let r := field g.res (16 * l) 16
    let one : Filt (List Nat) :=
      if r = 0 then .ok ((List.range g.feats).map fun i => (Config.freeValue (free + 8 * l + i)).toNat % 2 ^ 32, .nothing)
      else
        s.gridCorners o part g l r (ps.map fun p => gridAxis p r) (List.range (if g.three then 8 else 4))
          (List.replicate g.feats 0) .nothing
    match one with
    | .error e => .error e
    | .ok (a, b) =>
      match State.gridLevels s o part g ps free rest with
      | .error e => .error e
      | .ok (c, d) => .ok (a ++ c, b.join d)

/-- The values of one `hgrid` request. -/
def State.gridResult (s : State) (o : Op) (part : Nat) (coords : List Word) (desc free : Nat) : Filt (List Nat) :=
  let g := Grid.of desc
  let c := fun (i : Nat) => coords.getD i 0
  let ps := [lo32 (c 0), hi32 (c 0)] ++ (if g.three then [lo32 (c 1)] else [])
  if ps.any f32NaN then .ok (List.replicate (g.levels * g.feats) (canonNaN .f32), .nothing)
  else s.gridLevels o part g ps free (List.range g.levels)

/-! ### FILTER_REQUEST (R111, R113, R114) -/

/-- Register values from `f32` results, two to a register. -/
def pairWords : List Nat → List Word
  | [] => []
  | [a] => [BitVec.ofNat 64 a]
  | a :: b :: l => BitVec.ofNat 64 (a + b * 2 ^ 32) :: pairWords l

/-- Cycles from the issue of a request to its engine, and from there until its results land (R190; entry 5). -/
def filtTrip : Nat := 200
def filtBack : Nat := 480

/-- Free values that one request may name. -/
def filtFree : Nat := 256

/-- On whose behalf a filter engine reads (R114). -/
def State.filtAsker (s : State) (op : Option Nat) (launch part : Nat) : Asker :=
  ⟨op, some launch, part, match s.launch? launch with | some l => l.p.cls == 0 && !l.overrun | none => false⟩

/-- The results of the requests of an operation: landings, faults, and what the reads met. -/
def State.filtAll (s : State) (o : Op) (part : Nat) (hgrid : Bool) (dest : Nat) :
    List (Nat × List Word × Nat) → List Landing × List Faulter × Seen
  | [] => ([], [], .nothing)
  | (t, cs, d) :: l =>
    let r := State.filtAll s o part hgrid dest l
    let free := s.free + t * filtFree
    match (if hgrid then s.gridResult o part cs d free else s.texResult o part cs d free) with
    | .error (c, va) => (r.1, ⟨t, c, BitVec.ofNat 64 va⟩ :: r.2.1, r.2.2)
    | .ok (vs, seen) => ((pairWords vs).zipIdx.map (fun e => ⟨t, dest + e.2, e.1⟩) ++ r.1, r.2.1, r.2.2.join seen)

/-- FILTER_REQUEST: the engine reads and filters, and what misses the die buffer is requested; without a fault the split goes on, with faults it stays until the others
have landed (R356). -/
def State.filterRequest (s : State) (id : Nat) : State :=
  match Tab.get? id s.eng.ops with
  | none => s
  | some o =>
    match o.kind with
    | .filter h reqs dest =>
      if s.clock.cycle < o.due then s
      else
        let part := ((s.launch? o.launch).map fun l => l.part).getD 0
        let r := s.filtAll o part h dest reqs
        let s := if r.2.2.bad then s.logError part (.filterPoison o.g) else s
        let s := s.readThrough (s.filtAsker (some id) o.launch part) (o.via part) r.2.2.reads
        let o' := { o with kind := .load, writes := r.1, faults := o.faults ++ r.2.1, due := s.clock.cycle + filtBack }
        let s := { s with eng := { s.eng with ops := Tab.set id o' s.eng.ops }, free := s.free + 32 * filtFree }
        if o'.faults.isEmpty then s.releaseAt id o' else s
    | _ => s

def execFilterRequest (op : Nat) (s : State) : Out := .next (s.filterRequest op)

/-! ### tex and hgrid (R412) -/

/-- Whether the registers from a destination on are ones the group holds and may name. -/
def Group.namesFrom (g : Group) (d n : Nat) : Bool :=
  if d < 96 then g.namesCodes ((List.range n).map fun i => d + i) else d + n ≤ 128

/-- The vector operands A to A + n - 1. -/
def aOpds (x : Ord) (n : Nat) : List Opd :=
  (List.range n).map fun i => .v (Fin.ofNat 96 (x.a.code + i))

/-- The address in B of a thread. -/
def bAddr (x : Ord) (s : State) (t : Nat) : Word := s.cur.bopd .zero x.et x.b t

/-- The values of A to A + n - 1 of a thread. -/
def Group.coords (g : Group) (x : Ord) (n t : Nat) : List Word := (List.range n).map fun i => g.vget (x.a.code + i) t

/-- The check of one thread of `tex`: its descriptor's page, then its codes, read on the FILT path (R110, R111, R229, R412). -/
def State.checkTex (s : State) (x : Ord) (t : Nat) : Except (BitVec 8 × Word) Map × State :=
  let va := bAddr x s t
  match s.checkGlobal va 32 false false with
  | (.error e, s) => (.error e, s)
  | (.ok m, s) =>
    if 4 ≤ m.space then (.error (0x07, va), s)
    else if (Tex.of (leNat (s.mapBytes m va.toNat 32))).bad then (.error (0x12, va), s)
    else (.ok m, s)

/-- The die buffer serves the descriptors that a lane reads on the FILT path. -/
def State.readDescs (s : State) (l : List (Map × Nat × Nat)) : State :=
  s.readThrough (s.filtAsker none s.cur.launch s.cur.part) ⟨s.cur.id.die, s.cur.part, []⟩ l

/-- Ask the filter engines: the requests of the threads that passed their checks. -/
def filterDraft (hgrid : Bool) (dest : Nat) (reqs : List (Nat × List Word × Nat)) : Draft :=
  { Draft.none with kind := .filter hgrid reqs dest, delay := filtTrip }

def execTex (x : Ord) (s : State) : Out :=
  .next (
    if !(s.cur.namesCodes ((List.range 3).map fun i => x.a.code + i) && s.cur.namesFrom x.d.code 2) then s.refuse x.pred 0x02
    else s.named x.pred (bRegs x) fun s => s.checkedIf x.d.isG x.pred (aOpds x 3 ++ bRegs x) fun s =>
      s.memory x.pred ⟨lenOf x, x.d.isG, anyV (aOpds x 3), 0, 4, 0x00, false, false⟩ (bAddr x)
        (fun s t => s.checkTex x t)
        (fun s _ l =>
          (filterDraft false x.d.code (l.map fun q =>
              (q.thread, s.cur.coords x 3 q.thread, leNat (s.mapBytes q.map q.va.toNat 32))),
            s.readDescs (l.map fun q => (q.map, q.va.toNat, 32)))))

/-- The descriptor that `hgrid` reads once at issue, on the FILT path (R229, R412). -/
def State.filterDesc (s : State) (x : Ord) (va : Nat) (run : State → Nat → State) : State :=
  match s.checkGlobal (BitVec.ofNat 64 va) 64 false false with
  | (.error (c, a), s) => s.uniformFault x c a.toNat 0x00
  | (.ok m, s) =>
    if 4 ≤ m.space then s.uniformFault x 0x07 va 0x00 else run (s.readDescs [(m, va, 64)]) (leNat (s.mapBytes m va 64))

def execHgrid (x : Ord) (s : State) : Out :=
  .next (
    if !(s.cur.namesCodes ((List.range 2).map fun i => x.a.code + i) && s.cur.namesFrom x.d.code 1) then s.refuse x.pred 0x02
    else s.named x.pred (bRegs x) fun s =>
      s.checked x.pred (bRegs x ++ (if x.d.isG then aOpds x 2 else [])) fun s =>
      let e := s.cur.exec x.pred
      if e = 0 then s.retire 1 (lenOf x) e
      else if s.affordable e = 0 && !s.cur.sp.charged then s.exhausted (lowest e) (s.cur.omask x.pred)
      else if 62 ≤ s.cur.cntL then s.stall (.counterFull 0)
      else
        s.filterDesc x (s.cur.ub .zero x).toNat fun s desc =>
          let g := Grid.of desc
          if !s.cur.namesFrom x.d.code g.regs then s.refuse x.pred 0x02
          else
            s.memory x.pred ⟨lenOf x, x.d.isG, anyV (aOpds x 2), 0, 4, 0x00, false, false⟩ (bAddr x)
              (fun s t => if g.bad then (.error (0x12, bAddr x s t), s) else (.ok Map.local_, s))
              (fun s _ l => (filterDraft true x.d.code (l.map fun q => (q.thread, s.cur.coords x 2 q.thread, desc)), s)))

end Sys2Proof.Machine
end

