-- ==== Sys2Proof/Machine/Preempt.lean ====
section
/-!
DEFINITION. Pre-emption: stopping and draining a group, abandoning loads, saving and resuming (R91, R155, R184, R188,
R199-R202, R383, R392).
-/

namespace Sys2Proof.Machine

open Sys2Proof

/-! ### Stopping (R188, R199, R383) -/

/-- A split whose waiting instruction is withdrawn: it issues anew at resume (R188, R383). What `eret` keeps of a partial
instruction stays, and a `cbar` its arrival (R374). A sleep is withdrawn to its `yield` (R351). -/
def Split.withdraw (p : Split) : Split :=
  match p.wait with
  | .sleep _ len => { p with wait := .none, pc := p.pc - BitVec.ofNat 48 len, charged := false }
  | .barrier .. => { p with charged := false }
  | .counters .. | .counterFull _ | .acquire | .block | .queue .. | .stage .. | .rays _ | .latch | .tile _ | .fill _ =>
    { p with wait := .none, charged := false }
  | _ => p

/-- Whether a split of a group waits for a `rel` at a remote word: a pre-emption waits for it (R364). -/
def State.relOut (s : State) (g : Gid) : Bool :=
  s.fabric.waiting.any fun (e : Nat × Remote) => e.2.g == g &&
    (match e.2.kind with | .sync _ acquire _ => !acquire | _ => false)

/-- The operations of a group that are `ldfe` instructions waiting at a controller. -/
def State.ldfeWaiting (s : State) (g : Gid) : List Nat :=
  (s.eng.ops.filter fun (e : Nat × Op) => e.2.g == g &&
    (match e.2.kind with | .ldfe ws => !ws.isEmpty | _ => false)).map fun e => e.1

/-- Withdraw a waiting `ldfe`: it gives back its count, and its split issues it anew (R188, R199). -/
def State.dropLdfe (s : State) (g : Gid) : State :=
  (s.ldfeWaiting g).foldl (fun (s : State) id =>
    let s := { s with eng := { s.eng with ops := Tab.erase id s.eng.ops } }
    s.updGroup g fun x => (x.mapSplits (Split.unhold id)).uncount 0) s

/-- Withdraw a member from a latch that has not closed (R392). -/
def State.dropLatch (s : State) (g : Gid) : State :=
  if s.eng.latch.any (fun m => m.g == g) then
    { s with eng := { s.eng with latch := s.eng.latch.filter fun m => m.g != g } }.updGroup g fun x => x.uncount 3
  else s

/-- Commands of a group with a destination in local store stop at an element boundary (R91). -/
def State.stopCmds (s : State) (g : Gid) : State :=
  ((s.eng.cmds.filter fun (e : Nat × Cmd) => e.2.g == g && e.2.dls).map fun e => e.1).foldl (fun s id => s.stopCmd id) s

/-- The lane stops issuing a group, and what waits in it is withdrawn (R199). -/
def State.stopGroup (s : State) (g : Gid) : State :=
  let s := (((s.dropLdfe g).dropLatch g).stopCmds g)
  let s := { s with eng := { s.eng with
    waiters := if s.relOut g then s.eng.waiters else s.eng.waiters.filter fun w => w.g != g || w.remote.isSome || w.met
    queueWaits := s.eng.queueWaits.filter fun q => q.2.2 != g } }
  let keep := s.relOut g
  let s := s.updGroup g fun x =>
    { x.mapSplits (fun p => if keep && p.wait == .acquire then p else p.withdraw) with stop := some s.clock.cycle }
  let s' := s.focus g
  if s'.cur.live && s'.cur.id == g && s'.cur.trc.on then s'.closeBlock else s

/-- The members that are pre-empted and resumed together (R184). -/
def State.together (s : State) (g : Group) : List Gid :=
  if g.gang.isEmpty then [g.id] else g.gangIds.filter fun i => (s.group? i).any fun h => h.launch == g.launch

/-- GROUP_PREEMPT (R199): a resident group, with its gang, stops at its boundaries. A group that has exited is left to end. -/
def State.preempt (s : State) (i : Gid) : State :=
  match s.group? i with
  | none => s
  | some g =>
    if g.hold == .exited || g.stop.isSome then s
    else (s.together g).foldl (fun (s : State) j =>
      match s.group? j with
      | some h => if h.hold == .exited || h.stop.isSome then s else s.stopGroup j
      | none => s) s

def execGroupPreempt (g : Gid) (s : State) : Out := .next (s.preempt g)

/-! ### Draining (R188, R199) -/

/-- Whether an operation must land before the save: loads, lookups, local-store reads and tile loads, and the status of a
`launch` (R199, R381). -/
def OpKind.drains : OpKind → Bool
  | .store => false
  | .detach _ => false
  | _ => true

/-- Whether a split has issued an instruction that must complete first (R187, R364, R392); stores are not waited for. -/
def Split.busy (stores : List Nat) (p : Split) : Bool :=
  match p.wait with
  | .op id => !stores.contains id
  | .matrixSlot => true
  | .fence _ => true
  | .path _ => true
  | .dropped .. => true
  | _ => false

/-- Every split of a group. -/
def Group.splits (g : Group) : List Split := (if g.spLive then [g.sp] else []) ++ g.other.toList ++ g.spill

/-- Whether a group that has stopped is drained. -/
def State.drained (s : State) (g : Group) : Bool :=
  let stores := (s.eng.ops.filter fun (e : Nat × Op) => e.2.kind == .store).map fun e => e.1
  !s.hasOp g.id (fun o => o.kind.drains) && !g.splits.any (Split.busy stores) && !s.relOut g.id
    && !s.eng.slots.any fun m => m.m.g == g.id

/-- The bound of the drain: 4 µs, in cycles. -/
def drainBound : Nat := 10800

/-- Add the threads of an abandoned operation to the deferred trap of its split. -/
def addDeferred (h : HeldTrap) : List HeldTrap → List HeldTrap
  | [] => [h]
  | x :: l =>
    if x.slot = h.slot then
      { x with faults := x.faults ++ h.faults.filter (fun f => !x.faults.any fun e => e.thread == f.thread), omask := x.omask ||| h.omask } :: l
    else x :: addDeferred h l

/-- Abandon what a stopped group still has to land: each operation's threads and addresses are kept for the deferred trap of its
split (R199). A split that was held with faulters goes back to its instruction, and their trap is held. -/
def State.abandonOps (s : State) (i : Gid) : State :=
  let late := s.eng.ops.filter fun (e : Nat × Op) => e.2.g == i && e.2.kind.drains
    && (match e.2.kind with | .status .. => false | _ => true)
  late.foldl (fun (s : State) e =>
    let tags := e.2.tags
    let fs := e.2.vas.map fun v => Faulter.mk v.1 0x0D v.2
    let late : HeldTrap := ⟨fs, e.2.kindByte ||| 0x08, maskOf (fs.map fun f => f.thread), e.2.iw0, e.2.slot, 4, true, e.2.issued⟩
    let known : HeldTrap := ⟨e.2.faults, e.2.kindByte, e.2.omask, e.2.iw0, e.2.slot, 4, false, e.2.issued⟩
    let s := { s with
      eng := { s.eng with ops := Tab.erase e.1 s.eng.ops }
      fabric := { s.fabric with waiting := s.fabric.waiting.filter fun (r : Nat × Remote) => !tags.contains r.1 } }
    s.updGroup i fun x =>
      let x := (x.mapSplits (if e.2.faults.isEmpty then Split.release e.1 e.2.len s.clock.cycle else Split.unhold e.1)).uncount
        e.2.counter
      { x with
        abandoned := if fs.isEmpty then x.abandoned else addDeferred late x.abandoned
        held := if e.2.faults.isEmpty then x.held else x.held ++ [known] }) s

/-- PREEMPT_LOAD_ABANDON (R199): what has not landed within 4 µs is abandoned; the group takes a deferred trap at resume. -/
def State.abandon (s : State) (i : Gid) : State :=
  match s.group? i with
  | none => s
  | some g =>
    match g.stop with
    | none => s
    | some c => if s.clock.cycle < c + drainBound then s else s.abandonOps i

def execPreemptLoadAbandon (g : Gid) (s : State) : Out := .next (s.abandon g)

/-! ### Saving (R200, R201) -/

/-- Save one group: its image keeps everything but the tiles (R200, R202). -/
def State.saveOne (s : State) (i : Gid) : State :=
  match s.group? i with
  | none => s
  | some g =>
    let f := s.fresh
    let s := f.2
    let s := { s with
      cur := if s.cur.live && s.cur.id == i then Group.empty else s.cur
      rest := s.rest.filter fun h => !(h.live && h.id == i)
      saved := s.saved ++ [{ g with tiles := [], stop := none }] }
    s.renameOne i (parkedId i f.1)

/-- Save a group by force (R23): what waits in it is withdrawn and what is outstanding is abandoned first. -/
def State.forceSave (s : State) (i : Gid) : State :=
  match s.group? i with
  | none => s
  | some g =>
    if g.hold == .exited then s.endGroup i
    else
      let s := if g.stop.isSome then s else s.stopGroup i
      let s := s.abandonOps i
      let s := { s with
        fabric := { s.fabric with waiting := s.fabric.waiting.filter fun (e : Nat × Remote) =>
          !(e.2.g == i && (match e.2.kind with | .sync .. => true | _ => false)) }
        eng := { s.eng with
          slots := s.eng.slots.filter fun m => m.m.g != i
          waiters := s.eng.waiters.filter fun w => w.g != i || w.remote.isSome } }
      let s := s.updGroup i fun x =>
        let n := (x.splits.filter fun p => p.wait == .matrixSlot).length
        { x.mapSplits (fun p => match p.wait with
            | .fence _ | .path _ | .dropped .. | .acquire | .matrixSlot => { p with wait := .none, charged := false }
            | _ => p) with cntT := x.cntT - n }
      s.saveOne i

/-- GROUP_SAVE (R200): after the drain the group, with its gang, leaves the lane. -/
def execGroupSave (g : Gid) (s : State) : Out :=
  .next (
    match s.group? g with
    | none => s
    | some x =>
      let ms := s.together x
      let ok := ms.all fun i => (s.group? i).any fun h => h.hold == .exited || (h.stop.isSome && s.drained h)
      if x.stop.isSome && ok then
        ms.foldl (fun (s : State) i =>
          match s.group? i with
          | some h => if h.stop.isSome then s.saveOne i else s
          | none => s) s
      else s)

/-! ### Resuming (R91, R165, R199, R202) -/

/-- The saved members of a group's gang. -/
def State.savedTogether (s : State) (g : Group) : List Group :=
  if g.gang.isEmpty then [g]
  else s.saved.filter fun h => h.launch == g.launch && h.gang == g.gang && h.id.die == g.id.die && h.id.core == g.id.core
    && h.id.lane / 16 == g.id.lane / 16

/-- The lane of a group. -/
def Group.laneOf (g : Group) : Nat × Nat × Nat := (g.id.die, g.id.core, g.id.lane)

/-- Whether local store has room for a team that has no resident group (R201). -/
def State.teamFits (s : State) (g : Group) : Bool :=
  match s.team? g with
  | none => true
  | some t =>
    if s.groups.any fun h => t.has h then true
    else
      let own := ((s.teams.filter fun u => u.die == t.die && u.core == t.core && u.launch == t.launch
        && s.groups.any fun h => u.has h).map fun u => u.size).sum
      s.lsHeld t.die t.core t.launch + own + t.size ≤ 512 * 1024

/-- Whether a saved group, among the members of its gang, can be resident again (R147, R165). -/
def State.canResume (s : State) (n : Nat) (g : Group) : Bool :=
  match s.launch? g.launch with
  | none => false
  | some l =>
    let k := g.laneOf
    s.placeable l.part k.1 k.2.1 && s.laneFits l g.base k && s.tilesFit l k n && s.teamFits g

/-- The slot a saved group returns to: its own, or the lowest free one. -/
def State.slotFor (s : State) (g : Group) : Nat :=
  if (s.onLane g.laneOf).any fun h => h.id.slot == g.id.slot % 8 then s.freeSlot g.laneOf else g.id.slot % 8

/-- The restart of a group inside a matrix block (R202): one split, in slot 0, at the label. -/
def Group.restart (g : Group) (b : MatBlock) (cycle : Nat) : Group :=
  let p : Split := { Split.empty with
    mask := b.mask, fmt := b.fmt, token := b.token, depth := b.depth, pc := b.label, age := cycle }
  { g with
    slot := false, sp := p, spLive := true, other := none, spill := [], hand := none, held := []
    rejoin := g.rejoin.filter fun e => b.live.contains e.token
    rcnt := min 255 (g.rcnt + 1) }

/-- The registers that a group pre-empted in handler mode gets back from the shadow and GSAVE (R202). -/
def Group.unshadow (g : Group) (ls : Mem) : Group :=
  if g.hand.isNone then g
  else
    let w := leNat (ls.bytes g.tframe 64)
    let g := { g with v := g.shadow.foldl (fun v (e : Nat × Row) => Tab.set e.1 e.2 v) g.v }
    ((g.gset 28 (BitVec.ofNat 64 (field w 256 64))).gset 29 (BitVec.ofNat 64 (field w 320 64))).gset 30
      (BitVec.ofNat 64 (field w 384 64))

/-- The deferred traps of abandoned loads, taken at resume before any issue, or held while a handler runs (R199): at the split that
issued them, or, where that has ended, at the group's other one; a group whose splits are all parked takes them at its next
issue. -/
def State.takeAbandoned (s : State) : State :=
  let g := s.cur
  if g.abandoned.isEmpty || ((g.inSlot false).isNone && (g.inSlot true).isNone) then s
  else
    let late := g.abandoned.map fun h => if (g.inSlot h.slot).isSome then h else { h with slot := !h.slot }
    ({ s with cur := { g with abandoned := [], held := late ++ g.held } }).takeHeld

/-- Resume one saved group in a slot of its lane. The scratch range reads as zero (R201), and the commands that stopped are
queued again (R91). -/
def State.resumeOne (s : State) (g : Group) (gang : List (Nat × Nat)) (slot : Nat) : State :=
  let id : Gid := { g.id with slot := slot }
  let s := { s with saved := s.saved.filter fun h => h.id != g.id, rest := s.rest ++ [{ g with gang := gang, stop := none }] }
  let s := s.renameOne g.id id
  let s := s.focus id
  let s := s.updTeam s.cur fun t => { t with ls := t.ls.clear (g.lsb + g.scrb) (g.lsize - g.scrb) }
  let ls := ((s.team? s.cur).map fun t => t.ls).getD []
  let g := match s.cur.block with
    | some b => (s.cur.unshadow ls).restart b s.clock.cycle
    | none => s.cur
  let s := { s with
    cur := g
    eng := { s.eng with cmds := s.eng.cmds.map fun (e : Nat × Cmd) =>
      if e.2.g == id && e.2.phase == CmdPhase.stopped then (e.1, { e.2 with phase := .queued }) else e } }
  s.expireAll.wantSync.takeAbandoned.takeHeld

/-- Whether a saved group may resume now: its partition runs, the module is not halted, and its lane has room (R23, R139,
R155). -/
def State.mayResume (s : State) (g : Group) : Bool :=
  let ms := s.savedTogether g
  s.arbitrating && (s.part g.part).dry == .running && ms.all (s.canResume ms.length)

/-- GROUP_RESUME (R202): a saved group resumes on its lane, with its gang. -/
def execGroupResume (g : Gid) (s : State) : Out :=
  .next (
    match s.saved? g with
    | none => s
    | some x =>
      if !s.mayResume x then s
      else
        let ms := s.savedTogether x
        let slots := ms.map s.slotFor
        let gang := (ms.zip slots).foldl (fun (l : List (Nat × Nat)) (e : Group × Nat) => l.set e.1.gangPos (e.1.id.lane % 16, e.2)) x.gang
        (ms.zip slots).foldl (fun (s : State) (e : Group × Nat) =>
          s.resumeOne e.1 (if x.gang.isEmpty then [] else gang) e.2) s)

/-! ### Making residency (R155) -/

/-- The group of a list that is pre-empted first for a guaranteed launch: background, then best-effort, in descending
sequence number. -/
def State.victimOf (s : State) (l : List Group) : Option Group :=
  let cls := fun (g : Group) => match s.launch? g.launch with | some y => y.p.cls | none => 0
  (l.filter fun g => cls g != 0 && g.stop.isNone && g.hold != .exited).foldl (fun (m : Option Group) g =>
    match m with
    | none => some g
    | some x => if cls x < cls g || (cls x == cls g && x.launch < g.launch) then some g else some x) none

/-- The group to pre-empt so that a lane can take a group of a guaranteed launch, the last of n of a gang: one of the lane
where slots or registers are short, else one with tiles of its quad where those are, else one of its core, whose local store
is; none while a group there is already stopping. -/
def State.victim (s : State) (l : Launch) (base n : Nat) (k : Nat × Nat × Nat) : Option Group :=
  let core := s.groups.filter fun g => g.id.die == k.1 && g.id.core == k.2.1
  if core.any (fun g => g.stop.isSome) then none
  else if !s.laneFits l base k then s.victimOf (core.filter fun g => g.id.lane == k.2.2)
  else if !s.tilesFit l k n then s.victimOf (core.filter fun g => g.id.lane / 16 == k.2.2 / 16 && g.acct != 0)
  else s.victimOf core

end Sys2Proof.Machine
end

