-- ==== Sys2Proof/Machine/Security.lean ====
section
/-!
DEFINITION. The service controller's sensors and the security alarms (R17, R138, R139).
-/

namespace Sys2Proof.Machine

open Sys2Proof

/-! ### Alarms (R138, R139) -/

/-- The policy of a source (R138): 0 tamper, 1 voltage, 2 clock, 3 thermal, 4 debug misuse. -/
def State.policyOf (s : State) (src : Nat) : Policy := Tab.getD s.sec.policy src .report

/-- The stronger of two policies: ERASE, HALT, REPORT. -/
def strongest (a b : Policy) : Policy :=
  match a, b with
  | .erase, _ => .erase
  | _, .erase => .erase
  | .halt, _ => .halt
  | _, .halt => .halt
  | _, _ => .report

/-- Log something to the PF (R121, R129, R138). -/
def State.logPf (s : State) (e : PfLog) : State := { s with host := { s.host with log := s.host.log ++ [e] } }

/-- Pre-empt every resident group. -/
def State.preemptAll (s : State) : State := (s.groups.map fun g => g.id).foldl (fun s i => s.preempt i) s

/-- An alarm under HALT: every group is pre-empted and the keys are kept (R139). Doorbells are held from then on. -/
def State.halt (s : State) : State :=
  match s.sec.state with
  | .booted | .attested =>
    let s := { s with sec := { s.sec with state := .halted } }.preemptAll
    (s.launches.filter fun (e : Nat × Launch) => e.2.reserves).foldl (fun s e => s.void e.1) s
  | _ => s

/-- An update in progress is abandoned: what is staged goes (R136). -/
def Sec.dropUpdate (c : Sec) : Sec :=
  { c with ctlFw := { c.ctlFw with staged := false }, devFw := { c.devFw with staged := false } }

/-- An alarm under ERASE: the keys of every partition and session go, every partition is ERASED, repairs and updates are
abandoned, and the module is LOCKED (R23, R139). -/
def State.eraseAll (s : State) : State :=
  match s.sec.state with
  | .locked => s
  | _ =>
    { s with
      parts := s.parts.map fun (e : Nat × Part) => (e.1, { e.2 with key := none, dry := .erased })
      ctl := { s.ctl with subst := [], remapQueue := [], remapping := none }
      sec := { s.sec with state := .locked, sessions := [] } }

/-- Alarms raised together: the strongest policy governs (R138). The signal of REPORT is MSI-X vector 0 of the PF
(entry 27). -/
def State.alarms (s : State) (srcs : List Nat) : State :=
  if srcs.isEmpty then s
  else
    let s := { s with sec := s.sec.dropUpdate }
    match (srcs.map s.policyOf).foldl strongest .report with
    | .report => (srcs.foldl (fun s k => s.logPf (.alarm k)) s).msix 512 0
    | .halt => s.halt
    | .erase => s.eraseAll

def execTamperAlarm (s : State) : Out := .next (s.alarms [0])

/-- CLOCK_ALARM (R138): the condition holds until a sample finds the clocks in range (R139). -/
def execClockAlarm (s : State) : Out :=
  .next ({ s with sec := { s.sec with active := insertSorted 2 s.sec.active } }.alarms [2])

/-! ### SAMPLE_PERIOD (R17) -/

/-- Alarm conditions of a sample: voltage, clock and thermal (R17, R138). -/
def alarmsOf (x : Sample) : List Nat :=
  (if x.inputMv < 42000 || 60000 < x.inputMv || x.railBad then [1] else [])
    ++ (if x.clockBad then [2] else []) ++ (if x.junction.any fun t => 110 ≤ t then [3] else [])

/-- Junction temperature of a die in a sample. -/
def junctionOf (x : Sample) (die : Nat) : Nat := x.junction.getD die 0

/-- Whether the input lies in the band of the supply warning. -/
def supplyBand (x : Sample) : Bool :=
  (42000 ≤ x.inputMv && x.inputMv < 44000) || (54000 < x.inputMv && x.inputMv ≤ 60000)

/-- Sample periods in one second. -/
def secondSamples : Nat := 100000

/-- Samples in the 1 ms over which the module power is averaged. -/
def powerSamples : Nat := 100

/-- Whether the module power averaged over the last 1 ms exceeds 3,400 W (R17); there is no average before 1 ms of samples. -/
def Ctl.overPower (c : Ctl) : Bool := powerSamples ≤ c.powers.length && powerSamples * 3400 < c.powers.sum

/-- The powers of the last 1 ms, the counters of consecutive hot samples, and the dies that get their full clock back below
92 °C. -/
def Ctl.count (c : Ctl) (x : Sample) : Ctl :=
  { c with
    sample := x
    powers := (x.power :: c.powers).take powerSamples
    hot := (List.range 4).map fun d => (d, if 100 ≤ junctionOf x d then Tab.getD c.hot d 0 + 1 else 0)
    halved := c.halved.filter fun d => 92 ≤ junctionOf x d }

/-- The dies whose clock is to be halved: 10 consecutive samples at or above 100 °C. -/
def Ctl.tooHot (c : Ctl) : List Nat := (List.range 4).filter fun d => 10 ≤ Tab.getD c.hot d 0

/-- Void the guaranteed launches with a lane of their placement, or a group, on the cores that satisfy a test (R154). -/
def State.voidOn (s : State) (on : (die core : Nat) → Bool) : State :=
  let here := fun (e : Nat × Launch) => e.2.reserves &&
    ((e.2.place.any fun k => on k.1 k.2.1)
      || (s.groups ++ s.saved).any fun g => g.launch == e.1 && on g.id.die g.id.core)
  (s.launches.filter here).foldl (fun s e => s.void e.1) s

/-- Halve the core clock of dies, and report the guaranteed launches resident there (R17). -/
def State.halveClock (s : State) (ds : List Nat) : State :=
  let new := ds.filter fun d => !s.ctl.halved.contains d
  { s with ctl := { s.ctl with halved := s.ctl.halved ++ new } }.voidOn fun die _ => new.contains die

/-- The supply warning, reported at first and again once each second (R17). The count of the second stands still in the samples
that a lower row governs, which is the model's choice (entry 46). -/
def State.supplyWarn (s : State) : State :=
  let n := s.ctl.supplyAge
  let s := { s with ctl := { s.ctl with supplyAge := if n = secondSamples then 1 else n + 1 } }
  if n = 0 || n = secondSamples then s.report .supplyWarning else s

/-- The action on one sample: of several conditions the lowest row of R17 governs. -/
def State.sampled (s : State) (x : Sample) : State :=
  let s := { s with ctl := s.ctl.count x, sec := { s.sec with active := alarmsOf x } }
  let s := if supplyBand x then s else { s with ctl := { s.ctl with supplyAge := 0 } }
  if !(alarmsOf x).isEmpty then s.alarms (alarmsOf x)
  else if !s.ctl.tooHot.isEmpty then s.halveClock s.ctl.tooHot
  else if supplyBand x then s.supplyWarn
  else if (x.junction.any fun t => 95 ≤ t) || s.ctl.overPower then s.report .thermalWarning
  else s

def execSamplePeriod (x : Sample) (s : State) : Out := .next (s.sampled x)

end Sys2Proof.Machine
end

