-- ==== Sys2Proof/Machine/Rings.lean ====
section
/-!
DEFINITION. Doorbells and rings (R129-R131), the resets of functions (R119, R131), invalidations from the host (R132) and
the responses to page requests (R133).
-/

namespace Sys2Proof.Machine

open Sys2Proof

/-! ### Doorbells (R129) -/

/-- The valid contexts of a VF in ascending number (R129). -/
def State.ctxsOf (s : State) (vf : Nat) : List (Nat × Ctx) :=
  s.host.ctxs.filter fun (e : Nat × Ctx) => e.2.valid && e.2.vf == vf

/-- Whether the doorbells of a partition are processed: it is RUNNING and the module is not halted (R130, R139). -/
def State.ringing (s : State) (part : Nat) : Bool :=
  (s.part part).dry == .running && (match s.sec.state with | .halted | .locked => false | _ => true)

/-- Change a context. -/
def State.updCtx (s : State) (c : Nat) (f : Ctx → Ctx) : State :=
  { s with host := { s.host with ctxs := Tab.update c f s.host.ctxs } }

/-- A doorbell write for a context that is processed (R129). -/
def State.newTail (s : State) (c : Nat) (x : Ctx) (tail : BitVec 32) : State :=
  if x.fault then s
  else if 2 ^ x.rsize < (tail - x.head).toNat then (s.updCtx c fun x => { x with fault := true }).msix x.vf x.msix
  else s.updCtx c fun x => { x with tail := tail }

/-- DOORBELL_WRITE (R129, R130, R139). In LOCKED the host does not reach the doorbells. -/
def State.doorbell (s : State) (vf offset : Nat) (value : Word) : State :=
  if s.sec.state == .locked then s
  else
    match (s.ctxsOf vf)[offset / 8]? with
    | none => s.logPf .doorbell
    | some (c, x) =>
      if offset % 8 != 0 || 2 ^ 16 ≤ offset then s.logPf .doorbell
      else if !s.ringing x.part then
        { s with host := { s.host with heldDoorbells := s.host.heldDoorbells ++ [(vf, offset, value)] } }
      else if 2 ^ 32 ≤ value.toNat then s.logPf .doorbell
      else s.newTail c x (value.setWidth 32)

def execDoorbellWrite (vf offset : Nat) (value : Word) (s : State) : Out := .next (s.doorbell vf offset value)

/-- The held doorbells are processed in order; those that are still held stay (R23, R139). -/
def State.releaseDoorbells (s : State) : State :=
  s.host.heldDoorbells.foldl (fun s (d : Nat × Nat × Word) => s.doorbell d.1 d.2.1 d.2.2)
    { s with host := { s.host with heldDoorbells := [] } }

/-! ### RING_ENTRY (R130) -/

/-- Whether a context has an entry to present, and none at the arbiter. -/
def State.ringReady (s : State) (c : Nat) (x : Ctx) : Bool :=
  x.valid && !x.fault && x.head != x.tail && s.ringing x.part && !s.host.pendingRing.contains c

/-- RING_ENTRY (R130): the entry at HEAD is read and presented. The status entry, HEAD and MSIX follow the decision. -/
def State.ringEntry (s : State) (c : Nat) : State :=
  match Tab.get? c s.host.ctxs with
  | none => s
  | some x =>
    if !s.ringReady c x then s
    else
      let bs := s.host.mem.bytes (x.ringBase.toNat + 64 * (x.head.toNat % 2 ^ x.rsize)) 64
      let s := (s.present x.part 0 (.ring c) (packetOf (leNat bs))).2
      { s with host := { s.host with pendingRing := s.host.pendingRing ++ [c] } }

def execRingEntry (ctx : Nat) (s : State) : Out := .next (s.ringEntry ctx)

/-! ### Resets of functions (R119, R131) -/

/-- A context that is no longer valid: its frame reservation and the entries that it has not presented go (R131). TAIL falls
back behind the last entry presented (entry 28). -/
def Ctx.cleared (x : Ctx) (presented : Bool) : Ctx :=
  { x with valid := false, place := none, drawn := [], tail := if presented then x.head + 1 else x.head }

/-- Clear the contexts that satisfy a test. -/
def State.clearCtxs (s : State) (f : Ctx → Bool) : State :=
  { s with host := { s.host with ctxs := s.host.ctxs.map fun (e : Nat × Ctx) =>
    (if f e.2 then (e.1, e.2.cleared (s.host.pendingRing.contains e.1)) else e) } }

def execFunctionLevelReset (vf : Nat) (s : State) : Out :=
  .next ({ s with host := { s.host with
    heldDoorbells := s.host.heldDoorbells.filter fun (d : Nat × Nat × Word) => d.1 != vf } }.clearCtxs fun x => x.vf == vf)

/-- PF_HOT_RESET (R119): what the PF's BAR0 holds returns to its reset values: the mailbox registers, and V, FAULT, HEAD and
TAIL of every context (entry 28). -/
def execPfHotReset (s : State) : Out :=
  .next { s with host := { s.host with
    box := { s.host.box with mopnd := [], mres := [], rlen := 0, tag := 0, code := 0, running := none }
    ctxs := s.host.ctxs.map fun (e : Nat × Ctx) => (e.1, { e.2.cleared false with fault := false, head := 0, tail := 0 }) } }

/-! ### ATS_INVALIDATION (R132) -/

/-- Whether a cached leaf translates host memory of a range of I/O virtual addresses. -/
def TlbEntry.ofHost (e : TlbEntry) (start n : Nat) : Bool :=
  let l := e.toLeaf
  !bitAt l.entry 9 && !bitAt l.entry 4 && leafFrame l < start + n && start < leafFrame l + e.size

/-- Drop the cached translations that satisfy a test, from the TLBs of dies and cores that satisfy another. -/
def State.dropTlb (s : State) (die : Nat → Bool) (core : Nat → Bool) (f : TlbEntry → Bool) : State :=
  { s with
    dieTlb := s.dieTlb.map fun (e : Nat × List TlbEntry) => if die (e.1 / dieTlbSets) then (e.1, e.2.filter fun t => !f t) else e
    cores := s.cores.map fun (e : Nat × Core) =>
      if core e.1 then (e.1, { e.2 with tlb := e.2.tlb.filter fun t => !f t }) else e }

def execAtsInvalidation (start length : Nat) (s : State) : Out :=
  .next (
    let f := fun (e : TlbEntry) => e.ofHost start length
    let s := s.dropTlb (fun _ => true) (fun _ => true) f
    ((s.eng.cmds.filter fun (e : Nat × Cmd) => e.2.pins.any f).map fun e => e.1).foldl (fun s id => s.revoke id) s)

/-! ### PAGE_REQUEST_RESPONSE (R133) -/

/-- A host-backed page that the host has made present: the P bit of its leaf is set at the table's home (entry 29). -/
def State.makePresent (s : State) (part va : Nat) : State :=
  match s.walk part va with
  | .absent _ _ true at_ => s.putHome at_ (leBytes 8 (s.homeNat at_ 8 + 1))
  | _ => s

/-- The threads of a group's frame whose pages are listed. -/
def State.framePages (s : State) (g : Group) (pages : List Nat) : Mask :=
  match s.team? g with
  | none => 0
  | some t =>
    let fmask := BitVec.ofNat 32 (field (leNat (t.ls.bytes g.tframe 64)) 192 32)
    fmask &&& maskWhere fun k => pages.contains (leNat (t.ls.bytes (g.tframe + 64 + 8 * k) 8) % 2 ^ 52 / 4096 * 4096)

/-- A group whose requests have all been answered is awake. -/
def State.wakePages (s : State) (i : Gid) : State :=
  if s.host.pri.any fun p => p.g == i then s
  else
    let s := s.updGroup i fun g => { g with hold := match g.hold with | .pages _ => .none | h => h }
    match s.group? i with
    | some _ => (s.focus i).takeHeld
    | none => s

/-- One page-request group is answered. -/
def State.answerPri (s : State) (p : PriGroup) (ok : Bool) : State :=
  match s.anyGroup? p.g with
  | none => s
  | some g =>
    if ok then p.pages.foldl (fun s va => s.makePresent g.part va) s
    else s.updGroup p.g fun h => { h with denied := h.denied ++ s.deniedOf g (s.framePages g p.pages) }

/-- The effect of a response: the group of the index; after a failure PRI is off for its function, and what waits to be sent
for it fails too. -/
def State.priResponse (s : State) (index : Nat) (r : PriResp) : State :=
  match s.host.pri.find? fun p => p.index == index && p.sent with
  | none => s
  | some p =>
    let off := r == .failure
    let gone := p :: (if off then s.host.pri.filter fun q => q.fn == p.fn && !q.sent else [])
    let s := { s with host := { s.host with
      pri := s.host.pri.filter fun q => !gone.contains q
      priOff := if off then insertSorted p.fn s.host.priOff else s.host.priOff } }
    let s := s.answerPri p (r == .success)
    let s := (gone.drop 1).foldl (fun s q => s.answerPri q false) s
    ((gone.map fun q => q.g).eraseDups.foldl (fun s i => s.wakePages i) s).sendPages

/-- PAGE_REQUEST_RESPONSE. In LOCKED the device touches no memory (R139). -/
def execPageRequestResponse (index : Nat) (r : PriResp) (s : State) : Out :=
  .next (if s.sec.state == .locked then s else s.priResponse index r)

end Sys2Proof.Machine
end

