-- ==== Sys2Proof/Machine/Repair.lean ====
section
/-!
DEFINITION. Repair in service: spare-core substitution (R21), row remap (R53-R55), lane sparing and links (R11, R22, R24),
and drydown (R23).
-/

namespace Sys2Proof.Machine

open Sys2Proof

/-! ### Spare-core substitution (R21) -/

/-- The groups resident on a core. -/
def State.onCore (s : State) (die core : Nat) : List Group :=
  s.groups.filter fun g => g.id.die == die && g.id.core == core

/-- Draining of a core begins: its groups are pre-empted, and the guaranteed launches with a place on it are reported (R21,
R154). -/
def State.startDrain (s : State) (die core : Nat) : State :=
  ((s.onCore die core).map fun g => g.id).foldl (fun s i => s.preempt i) (s.voidOn fun d c => d == die && c == core)

/-- The first substitution of a die runs (R21: one at a time on a die). -/
def State.startSubst (s : State) (die : Nat) : State :=
  match Tab.getD s.ctl.subst die [] with
  | [] => s
  | x :: l =>
    if x.running then s
    else { s with ctl := { s.ctl with subst := Tab.set die ({ x with running := true } :: l) s.ctl.subst } }.startDrain
      die x.core

/-- A request for a substitution; a second one for a core is ignored. -/
def State.substitute (s : State) (die core : Nat) (poisoned : Bool) : State :=
  let l := Tab.getD s.ctl.subst die []
  if 4 ≤ die || 48 ≤ core || l.any (fun x => x.core == core) || s.ctl.retired.contains ⟨die, core⟩ then s
  else
    { s with ctl := { s.ctl with subst := Tab.set die (l ++ [Subst.mk core poisoned false]) s.ctl.subst } }.startSubst die

def execSpareCoreSubstitution (die core : Nat) (poisoned : Bool) (s : State) : Out :=
  .next (s.substitute die core poisoned)

/-- A saved group ends with cause 0x0D (R21: its saved state holds poison); the partition's error log tells it. -/
def State.endSaved (s : State) (i : Gid) : State :=
  match s.saved? i with
  | none => s
  | some g =>
    let s := s.logError g.part (.savedPoison i)
    let s := s.updTeam g fun t =>
      { t with xqFree := t.xqFree + g.blocksHeld, used := t.used.filter (fun a => a != g.lsb) }
    let s := s.updLaunch g.launch (fun l => { l with exited := l.exited + 1 })
    let s := { s with saved := s.saved.filter fun h => h.id != i }
    match s.team? g with
    | none => s
    | some t => if (s.members t).isEmpty then { s with teams := s.teams.filter (fun t => !t.has g) } else s

/-- Of the groups saved from a core with an uncorrectable error, those whose saved state holds poison end with 0x0D; which
they are is a free choice (entry 4). -/
def State.dropPoisoned (s : State) (die core : Nat) : State :=
  let gs := s.saved.filter fun g => g.id.die == die && g.id.core == core
  gs.foldl (fun (s : State) g =>
    let s' := { s with free := s.free + 1 }
    if Config.freeChoice s.free % 2 = 1 then s'.endSaved g.id else s') s

/-- A launch with the lanes of its placement on one core taken by another core. -/
def Launch.moved (l : Launch) (old new : CoreId) : Launch :=
  { l with place := l.place.map fun (q : Nat × Nat × Nat) =>
    if q.1 == old.die && q.2.1 == old.core then (new.die, new.core, q.2.2) else q }

/-- Move a team with its saved groups to another lane, whose core drops its clean lines: the groups have written to memory since
those were filled (R238). -/
def State.moveTeam (s : State) (t : Team) (k : Nat × Nat × Nat) : State :=
  let s := s.dropClean k.1 k.2.1 fun _ _ => true
  let mine := (s.saved.filter fun g => t.has g).map fun g => g.id
  let s := { s with teams := s.teams.map fun u => if u == t then { u with die := k.1, core := k.2.1, lane := k.2.2 } else u }
  s.rename fun i => if mine.contains i then { i with die := k.1, core := k.2.1, lane := k.2.2 } else i

/-- Whether a lane has a team of a launch. -/
def State.teamAt (s : State) (seq : Nat) (k : Nat × Nat × Nat) : Bool :=
  s.teams.any fun t => t.launch == seq && t.die == k.1 && t.core == k.2.1 && t.lane == k.2.2

/-- The teams of a launch on a core. -/
def State.teamsOn (s : State) (seq : Nat) (c : CoreId) : List Team :=
  s.teams.filter fun t => t.launch == seq && t.die == c.die && t.core == c.core

/-- The teams that a launch has on a retired core go where it has lanes and no other team of its own: all of them to one core,
or, with no gangs, each to a lane (R21; entry 30). What finds no place waits. -/
def State.moveTeams (s : State) (l : Launch) (old : CoreId) : State :=
  let ts := s.teamsOn l.seq old
  let on := fun (c : CoreId) (t : Team) => (c.die, c.core, t.lane)
  let cs := (l.place.map fun k => CoreId.mk k.1 k.2.1).eraseDups.filter fun c => c != old
  match cs.find? fun c => ts.all fun t => !s.teamAt l.seq (on c t) with
  | some c => ts.foldl (fun s t => s.moveTeam t (on c t)) s
  | none =>
    if 1 < l.p.gsz then s
    else ts.foldl (fun s t =>
      match l.place.eraseDups.find? fun k => CoreId.mk k.1 k.2.1 != old && !s.teamAt l.seq k with
      | some k => s.moveTeam t k
      | none => s) s

/-- The cores on which a launch may take up what it had on a retired one: those outside its placement first, then those of
it. A pipeline stays on its die. -/
def State.heirs (s : State) (old : CoreId) (l : Launch) : List CoreId :=
  let used := l.place.map fun q => CoreId.mk q.1 q.2.1
  let cs := (s.coresFor l.part l.p).filter fun c => !l.isPipe || c.die == old.die
  (cs.filter fun c => !used.contains c) ++ cs.filter fun c => used.contains c

/-- Re-evaluate a launch that was placed on a retired core: the first core of its partition on which it passes takes what it
had there; a guaranteed launch that passes on none ends with no capacity (R21; entry 30). One that is not guaranteed passes on
any (R149), and without a core it waits. -/
def State.retest (s : State) (old : CoreId) (l : Launch) : State :=
  match (s.heirs old l).find? fun c => l.p.cls != 0 || (l.moved old c).lanes.all (s.laneOk (l.moved old c)) with
  | some c => (s.updLaunch l.seq fun l => l.moved old c).moveTeams (l.moved old c) old
  | none => if l.p.cls != 0 then s else (s.updLaunch l.seq fun l => { l with noCap := true }).endLaunch l.seq

/-- Teams that are left on a retired core are tried again, once a team of their launch has gone. -/
def State.moveStranded (s : State) : State :=
  s.ctl.retired.foldl (fun s c =>
    (((s.teams.filter fun t => t.die == c.die && t.core == c.core).map fun t => t.launch).eraseDups.filterMap s.launch?).foldl
      (fun s l => s.moveTeams l c) s) s

/-- The held and active launches that are placed on a core, or have a saved group of it (R163). -/
def State.launchesOn (s : State) (c : CoreId) : List Launch :=
  (s.launches.filter fun (e : Nat × Launch) =>
    (match e.2.state with | .held | .active => true | _ => false)
      && ((e.2.place.any fun q => q.1 == c.die && q.2.1 == c.core)
        || s.saved.any fun g => g.launch == e.1 && g.id.die == c.die && g.id.core == c.core)).map fun e => e.2

/-- A core is retired: its partition loses it, and the launches placed there are tested again (R21). -/
def State.retire_ (s : State) (c : CoreId) : State :=
  let s := { s with
    ctl := { s.ctl with retired := s.ctl.retired ++ [c] }
    parts := s.parts.map fun (e : Nat × Part) => (e.1, { e.2 with cores := e.2.cores.filter fun d => d != c }) }
  let s := s.report (.coreRetired c)
  (s.launchesOn c).foldl (fun s l => s.retest c l) s

/-- SUBSTITUTION_DRAIN_DONE (R21): the core is empty. A spare takes the identity with its breakpoints and its trace queue, the
failing core is fenced, and the groups may resume. Which of the die's spares it is, is the model's choice: the physical cores
from 48 upward, in the order of their use (entry 46). -/
def State.drainDone (s : State) (die : Nat) : State :=
  match Tab.getD s.ctl.subst die [] with
  | [] => s
  | x :: l =>
    if !x.running || !(s.onCore die x.core).isEmpty then s
    else
      let s := s.writeBack die x.core fun _ _ => true
      let s := if x.poisoned then s.dropPoisoned die x.core else s
      let s := { s with ctl := { s.ctl with subst := Tab.set die l s.ctl.subst } }
      let used := Tab.getD s.ctl.sparesUsed die 0
      let s :=
        if used < 4 then
          let s := s.setCore die x.core { s.core die x.core with cache := [], lines := [], tlb := [] }
          { s with ctl := { s.ctl with
            identity := Tab.set (coreKey die x.core) (48 + used) s.ctl.identity
            sparesUsed := Tab.set die (used + 1) s.ctl.sparesUsed } }
        else s.retire_ ⟨die, x.core⟩
      s.startSubst die

def execSubstitutionDrainDone (die : Nat) (s : State) : Out := .next (s.drainDone die)

/-- Spares of a die that no substitution has taken or waits for. -/
def State.sparesLeft (s : State) (die : Nat) : Nat :=
  4 - Tab.getD s.ctl.sparesUsed die 0 - (Tab.getD s.ctl.subst die []).length

/-! ### Row remap (R53-R55) -/

/-- The entries of a row's bank. -/
def State.bankRemaps (s : State) (r : RowId) : List RemapEntry :=
  (s.stack r.stack).remap.filter fun e => e.row.pc == r.pc && e.row.bank == r.bank

/-- The lowest spare row of a bank that no entry uses, of 32 (R54). -/
def State.spareRow (s : State) (r : RowId) : Option Nat :=
  (List.range 32).find? fun n => !(s.bankRemaps r).any fun e => e.spare == n

/-- Queue a row for remap, once (R53). -/
def State.queueRemap (s : State) (r : RowId) : State :=
  if s.ctl.remapQueue.contains r then s else { s with ctl := { s.ctl with remapQueue := s.ctl.remapQueue ++ [r] } }

/-- Nanoseconds between the starts of two remaps (R55). -/
def remapGap : Nat := 10000000

/-- Whether the controller may start a remap now. -/
def State.remapOpen (s : State) : Bool :=
  s.ctl.remapping.isNone && !s.ctl.remapQueue.isEmpty &&
    (match s.ctl.lastRemap with | some t => t.toNat + remapGap ≤ s.clock.time.toNat | none => true)

/-- ROW_REMAP (R55): the entry goes to the persistent copy and the copy of the row begins; a bank with no spare row is
reported and the row stays in place. -/
def State.remapRow (s : State) : State :=
  match s.ctl.remapQueue with
  | [] => s
  | r :: q =>
    if !s.remapOpen then s
    else
      let s := { s with ctl := { s.ctl with remapQueue := q } }
      match s.spareRow r with
      | none => s.report (.noSpareRow r)
      | some n =>
        let k := s.stack r.stack
        let e : RemapEntry := ⟨r, n, false, false, false, false⟩
        let s := s.setStack r.stack { k with remap := k.remap ++ [e] }
        { s with ctl := { s.ctl with remapping := some ⟨r, n⟩, lastRemap := some s.clock.time } }

def execRowRemap (s : State) : Out := .next s.remapRow

/-- REMAP_COPY_DONE (R55): the entry is written into copies A and B. -/
def execRemapCopyDone (s : State) : Out :=
  .next (
    match s.ctl.remapping with
    | none => s
    | some m =>
      let k := s.stack m.row.stack
      let s := s.setStack m.row.stack { k with remap := k.remap.map fun e =>
        if e.row == m.row then { e with live := e.spare == m.spare } else e }
      { s with ctl := { s.ctl with remapping := none } })

/-! ### Lanes and links (R11, R22, R24) -/

/-- A lane of a port has failed. With two lanes failed the port is out of service. -/
def State.failLane (s : State) (port lane : Nat) : State :=
  let m := Tab.getD s.fabric.failedLanes port 0
  if 36 ≤ port || 4 ≤ lane || m.testBit lane then s
  else
    let n := m + 2 ^ lane
    let s := { s with fabric := { s.fabric with failedLanes := Tab.set port n s.fabric.failedLanes } }
    if 2 = popCount 4 n then s.report (.portOut port) else s

def execLaneSparing (port lane : Nat) (s : State) : Out := .next (s.failLane port lane)

/-- DIE_LINK_OUT_OF_SERVICE (R11, R18): traffic that crossed the link goes the other way round the ring; link k joins place k and
the next (entry 16). -/
def execDieLinkOutOfService (link : Nat) (s : State) : Out :=
  .next (if 4 ≤ link then s
    else { s with fabric := { s.fabric with linksDown := insertSorted link s.fabric.linksDown } })

/-! ### Drydown (R23) -/

/-- The drydown request of a partition: RUNNING becomes QUIESCING, and its groups are pre-empted. -/
def State.drydown (s : State) (p : Nat) : State :=
  if (s.part p).dry != .running then s
  else
    let s := s.setPart p { s.part p with dry := .quiescing, since := s.clock.cycle }
    ((s.groups.filter fun g => g.part == p).map fun g => g.id).foldl (fun s i => s.preempt i) s

/-- Whether a core of a partition is being substituted: that completes first. -/
def State.substituting (s : State) (p : Nat) : Bool :=
  (s.part p).cores.any fun c => (Tab.getD s.ctl.subst c.die []).any fun x => x.core == c.core

/-- Whether a partition has quiesced: no resident group, and every engine command and draw at a boundary. -/
def State.quiet (s : State) (p : Nat) : Bool :=
  !s.groups.any (fun g => g.part == p) && !s.substituting p
    && !s.eng.cmds.any (fun (e : Nat × Cmd) => e.2.part == p && e.2.phase == .swapping)
    && !s.eng.draws.any fun d => d.part == p

/-- The partition enters DRY: every open command completes with its progress recorded. -/
def State.enterDry (s : State) (p : Nat) : State :=
  let ids := (s.eng.cmds.filter fun (e : Nat × Cmd) => e.2.part == p).map fun e => e.1
  let s := ids.foldl (fun s id => (s.revoke id).updCmd id fun c => { c with due := s.clock.cycle }) s
  s.setPart p { s.part p with dry := .dry }

def execQuiesceComplete (p : Nat) (s : State) : Out :=
  .next (if (s.part p).dry == .quiescing && s.quiet p then s.enterDry p else s)

/-- 200 µs in core cycles. -/
def quiesceBound : Nat := 540000

/-- Whether a partition has still resident groups 200 µs after the request (R23). -/
def State.quiesceLate (s : State) (p : Nat) : Bool :=
  (s.part p).dry == .quiescing && (s.part p).since + quiesceBound ≤ s.clock.cycle && s.groups.any fun g => g.part == p

/-- QUIESCE_TIMEOUT (R23): the groups that remain are pre-empted by force, and their launches are reported. -/
def execQuiesceTimeout (p : Nat) (s : State) : Out :=
  .next (
    if !s.quiesceLate p then s
    else
      let gs := s.groups.filter fun g => g.part == p
      let s := ((gs.map fun g => g.launch).eraseDups).foldl (fun s q => s.void q) s
      ((gs.map fun g => g.id).foldl (fun s i => s.forceSave i) s).enterDry p)

/-- The failed banks of a stack after a drydown has migrated their data (R56; entry 48): they are open again, what was written
to them meanwhile is poison, and their entries are good in every copy. -/
def State.reopenBanks (s : State) (stack : Nat) : State :=
  let k := s.stack stack
  let failed := k.banks.filter fun (e : Nat × Bank) => e.2.state == .failed
  let s := ((failed.map fun (e : Nat × Bank) => e.2.log).flatten).foldl (fun s a => s.markPoison a) s
  s.setStack stack { s.stack stack with
    banks := k.banks.map fun (e : Nat × Bank) => if e.2.state == .failed then (e.1, ⟨.open_, []⟩) else e
    remap := k.remap.map fun r =>
      if failed.any fun (e : Nat × Bank) => e.1 == r.row.pc * 16 + r.row.bank then { r with badA := false, badB := false, badP := false }
      else if r.badP then r else { r with badA := false, badB := false } }

/-- REPAIR_COMPLETE (R23): the remap tables of the partition's stacks are read again from the persistent copies. -/
def execRepairComplete (p : Nat) (s : State) : Out :=
  .next (
    if (s.part p).dry != .dry then s
    else
      let s := s.setPart p { s.part p with dry := .restoring }
      (((s.part p).units.map fun u => u.1).eraseDups).foldl State.reopenBanks s)

/-- The partition is reported FAILED (R23). -/
def State.failPart (s : State) (p : Nat) : State :=
  (s.setPart p { s.part p with dry := .failed }).report (.partitionFailed p)

def execRepairFailed (p : Nat) (s : State) : Out := .next (if (s.part p).dry == .dry then s.failPart p else s)

/-- VERIFICATION_PASSED (R23): the partition runs again; its saved groups may resume, and the held doorbells go on. -/
def execVerificationPassed (p : Nat) (s : State) : Out :=
  .next (if (s.part p).dry == .restoring then (s.setPart p { s.part p with dry := .running }).releaseDoorbells else s)

def execVerificationFailed (p : Nat) (s : State) : Out :=
  .next (if (s.part p).dry == .restoring then s.failPart p else s)

end Sys2Proof.Machine
end

