-- ==== Sys2Proof/Machine/Mailbox.lean ====
section
/-!
DEFINITION. The management mailbox: its commands (R121-R128), boot and firmware (R134-R136), attestation (R135), the security
states (R138, R139) and the management port (R121).
-/

namespace Sys2Proof.Machine

open Sys2Proof

/-! ### Starting and completing a command (R121) -/

/-- What a command answers: its code, its result, and the state with its effect. -/
abbrev Reply : Type := Nat × List Byte × State

/-- How the controller refuses a command by state (R121). -/
inductive CmdClass where | partition | attest | reset | other
  deriving DecidableEq, Repr

/-- The 1,984 operand bytes of a command: MOPND as it stands, or the session's own. -/
def State.operands (s : State) (m : Mcmd) : List Byte :=
  let l := match m.session with | some l => l | none => s.host.box.mopnd
  (l ++ List.replicate 1984 (0 : Byte)).take 1984

/-- The command runs: BUSY, with what it will answer. -/
def State.startReply (s : State) (m : Mcmd) (code : Nat) (result : List Byte) : State :=
  { s with host := { s.host with box := { s.host.box with running := some ⟨m.tag, code, result, m.session.isSome⟩ } } }

/-- The code by which the state refuses a command, if it does (R121). -/
def State.refusal (s : State) (m : Mcmd) (c : CmdClass) : Option Nat :=
  if m.reserved != 0 then some 2
  else if s.sec.bootFailed && c != .attest then some 4
  else if s.sec.state == .locked && c != .attest && c != .reset then some 5
  else if c == .partition && !s.sec.attestedOnce then some 5
  else if c == .partition && !s.clock.open_ then some 3
  else none

/-- A write of MCMD (R121): while BUSY it is discarded and logged. -/
def State.command (s : State) (m : Mcmd) (c : CmdClass) (run : List Byte → State → Reply) : State :=
  if s.host.box.running.isSome then s.logPf .mailboxAccess
  else
    match s.refusal m c with
    | some code => s.startReply m code []
    | none => let r := run (s.operands m) s; r.2.2.startReply m r.1 r.2.1

/-- MSTAT (R121). -/
def Mailbox.status (b : Mailbox) : Nat :=
  b.rlen * 2 ^ 32 + b.tag.toNat * 2 ^ 16 + b.code * 2 ^ 8 + (if b.running.isSome then 1 else 0)

/-- The result of a session's command is sealed under its key and sent on the management port: a word as MSTAT has it, then
the result (the layout is the model's, entry 31). -/
def State.sealResult (s : State) (r : Running) : State :=
  match s.sec.sessions with
  | [] => s
  | k :: _ =>
    let word := r.result.length * 2 ^ 32 + r.tag.toNat * 2 ^ 16 + r.code * 2 ^ 8
    { s with host := { s.host with box := { s.host.box with
      port := s.host.box.port ++ [Config.gcmSeal k (leBytes 8 word ++ r.result)] } } }

/-- MAILBOX_COMPLETE (R121): MRES, then MSTAT with BUSY 0, then vector 0 of the PF. -/
def execMailboxComplete (s : State) : Out :=
  .next (
    match s.host.box.running with
    | none => s
    | some r =>
      let s := { s with host := { s.host with box := { s.host.box with running := none } } }
      if r.session then s.sealResult r
      else
        { s with host := { s.host with box := { s.host.box with
          mres := r.result, rlen := r.result.length, tag := r.tag, code := r.code } } }.msix 512 0)

/-! ### Operands (R122) -/

def opByte (l : List Byte) (i : Nat) : Nat := (l.getD i 0).toNat

def opNat (l : List Byte) (i n : Nat) : Nat := leNat ((l.drop i).take n)

/-- Whether every byte that a test does not name is zero. -/
def onlyNamed (l : List Byte) (f : Nat → Bool) : Bool := l.zipIdx.all fun e => f e.2 || e.1 == 0

/-- Whether a partition exists. -/
def State.exists_ (s : State) (p : Nat) : Bool := (Tab.get? p s.parts).isSome

/-- A command on one partition that exists, in byte 0, whose further operand bytes a test names. -/
def State.onPart (s : State) (l : List Byte) (f : Nat → Bool) (run : Nat → Reply) : Reply :=
  if s.exists_ (opByte l 0) && onlyNamed l (fun i => i = 0 || f i) then run (opByte l 0) else (2, [], s)

/-! ### Items (R123, R125) -/

/-- Whether an item of a kind is in range with its unnamed bits zero. -/
def itemOk (kind x : Nat) : Bool :=
  match kind with
  | 0 => field x 8 6 < 48 && x == field x 0 2 + field x 8 6 * 2 ^ 8
  | 1 => field x 8 5 < 24 && x == field x 0 2 + field x 8 5 * 2 ^ 8
  | 2 => field x 0 4 < 12 && (bitAt x 4 || field x 5 8 < 64) && x < 2 ^ 13
  | 3 => field x 0 4 < 12 && field x 4 7 < 72 && x < 2 ^ 62
  | 4 => field x 0 6 < 36 && 1 ≤ field x 6 7 && field x 6 7 ≤ 64 && x < 2 ^ 13
  | 5 => x < 2 ^ 21
  | 6 => x < 512
  | 7 => field x 22 6 < 48 && x < 2 ^ 29
  | _ => false

/-- The items of a list of operands; none where the header or an item is malformed. -/
def itemsOf (l : List Byte) (kinds : List Nat) : Option (Nat × List Nat) :=
  let kind := opByte l 1
  let n := opNat l 2 2
  let xs := (List.range n).map fun i => opNat l (8 + 8 * i) 8
  if kinds.contains kind && 1 ≤ n && n ≤ 240 && xs.all (itemOk kind)
      && onlyNamed l (fun i => i < 4 || (8 ≤ i && i < 8 + 8 * n)) then
    some (kind, xs)
  else none

def coreOf (x : Nat) : CoreId := ⟨field x 0 2, field x 8 6⟩

def wayOf (x : Nat) : Nat × Nat := (field x 0 2, field x 8 5)

def unitItem (x : Nat) : Nat × Bool × Nat := (field x 0 4, bitAt x 4, field x 5 8)

def peerOf (x : Nat) : Peer := ⟨BitVec.ofNat 22 (field x 0 22), field x 22 6, bitAt x 28⟩

/-- The slots of a channel that a partition owns, as a mask. -/
def Part.slotMask (p : Part) (stack ch : Nat) : Nat :=
  (p.slots.filter fun e => e.1 == stack && e.2.1 == ch).foldl (fun m e => m ||| e.2.2) 0

/-- A partition with the slots of one channel set to a mask. -/
def Part.setSlots (p : Part) (stack ch mask : Nat) : Part :=
  let rest := p.slots.filter fun e => !(e.1 == stack && e.2.1 == ch)
  { p with slots := if mask = 0 then rest else rest ++ [(stack, ch, mask)] }

/-- Whether a partition has something of an exclusive item. -/
def Part.has (p : Part) (kind x : Nat) : Bool :=
  match kind with
  | 0 => p.cores.contains (coreOf x)
  | 1 => p.ways.contains (wayOf x)
  | 2 => p.units.contains (unitItem x)
  | 3 => p.slotMask (field x 0 4) (field x 4 7) &&& field x 11 51 != 0
  | 6 => p.vfs.contains x
  | _ => false

/-- Whether a partition owns the whole of an item, to be taken back. -/
def Part.hasAll (p : Part) (kind x : Nat) : Bool :=
  match kind with
  | 3 => p.slotMask (field x 0 4) (field x 4 7) &&& field x 11 51 == field x 11 51
  | 4 => field x 6 7 ≤ Tab.getD p.fabric (field x 0 6) 0
  | 5 => x ≤ p.rays
  | 7 => p.peers.contains (peerOf x)
  | k => p.has k x

/-- Add an item to a partition (R123). -/
def Part.give (kind : Nat) (p : Part) (x : Nat) : Part :=
  match kind with
  | 0 => if p.has 0 x then p else { p with cores := p.cores ++ [coreOf x] }
  | 1 => if p.has 1 x then p else { p with ways := p.ways ++ [wayOf x] }
  | 2 => if p.has 2 x then p else { p with units := p.units ++ [unitItem x] }
  | 3 => p.setSlots (field x 0 4) (field x 4 7) (p.slotMask (field x 0 4) (field x 4 7) ||| field x 11 51)
  | 4 => { p with fabric := Tab.set (field x 0 6) (Tab.getD p.fabric (field x 0 6) 0 + field x 6 7) p.fabric }
  | 5 => { p with rays := p.rays + x }
  | 6 => if p.has 6 x then p else { p with vfs := p.vfs ++ [x] }
  | 7 => if p.peers.contains (peerOf x) then p else { p with peers := p.peers ++ [peerOf x] }
  | _ => p

/-- Take an item from a partition (R123). -/
def Part.take (kind : Nat) (p : Part) (x : Nat) : Part :=
  match kind with
  | 0 => { p with cores := p.cores.filter fun c => c != coreOf x }
  | 1 => { p with ways := p.ways.filter fun w => w != wayOf x }
  | 2 => { p with units := p.units.filter fun u => u != unitItem x }
  | 3 => p.setSlots (field x 0 4) (field x 4 7)
      (p.slotMask (field x 0 4) (field x 4 7) - (p.slotMask (field x 0 4) (field x 4 7) &&& field x 11 51))
  | 4 => { p with fabric := Tab.set (field x 0 6) (Tab.getD p.fabric (field x 0 6) 0 - field x 6 7) p.fabric }
  | 5 => { p with rays := p.rays - x }
  | 6 => { p with vfs := p.vfs.filter fun v => v != x }
  | 7 => { p with peers := p.peers.filter fun q => q != peerOf x }
  | _ => p

/-- Whether another partition owns something of an item. -/
def State.othersHave (s : State) (p kind x : Nat) : Bool :=
  s.parts.any fun (e : Nat × Part) => e.1 != p && e.2.has kind x

/-- Whether the limits of R125 hold with partition p as given. -/
def State.limitsOk (s : State) (p : Nat) (q : Part) : Bool :=
  let all := q :: ((s.parts.filter fun (e : Nat × Part) => e.1 != p).map fun e => e.2)
  q.cores.all (fun c => q.ways.any fun w => w.1 == c.die)
    && !q.cores.any (fun c => s.ctl.retired.contains c)
    && (List.range 36).all (fun n => (all.map fun y => Tab.getD y.fabric n 0).sum ≤ 64)
    && (all.map fun y => y.rays).sum ≤ 1048576

/-! ### Partition commands (R122) -/

/-- Drop what the die buffers and core caches hold of a unit, and write zero to it (R137). -/
def State.zeroUnit (s : State) (u : Nat × Bool × Nat) : State :=
  let base := if u.2.1 then 2 ^ 44 + u.1 * 2 ^ 38 + u.2.2 * 2 ^ 30 else u.1 * 2 ^ 36 + u.2.2 * 2 ^ 30
  let size := if !u.2.1 && u.2.2 = 63 then 768 * 2 ^ 20 else 2 ^ 30
  let out := fun (p : Nat) => p < base || base + size ≤ p
  { s with
    mem := s.mem.clear base size
    poison := s.poison.filter fun a => out (32 * a)
    home := s.home.filter fun (e : Nat × CByte) => 3 * 2 ^ 48 ≤ e.1 || out (e.1 % 2 ^ 48)
    cores := s.cores.map fun (e : Nat × Core) =>
      (e.1, { e.2 with cache := e.2.cache.filter fun (c : Nat × CByte) => 3 * 2 ^ 48 ≤ c.1 || out (c.1 % 2 ^ 48) }) }

/-- PCREATE: an empty partition and its key (R122, R137). -/
def State.createPart (s : State) (p : Nat) : State :=
  { s.setPart p { Part.empty with key := some s.sec.randoms } with sec := { s.sec with randoms := s.sec.randoms + 1 } }

def execPcreate (m : Mcmd) (s : State) : Out :=
  .next (s.command m .partition fun l s =>
    if 47 < opByte l 0 || s.exists_ (opByte l 0) || !onlyNamed l (fun i => i = 0) then (2, [], s)
    else (0, [], s.createPart (opByte l 0)))

/-- A module grant of debug ends (R124): EN of the comparators of the partition's cores and SS of its groups clear. -/
def State.endDebug (s : State) (p : Nat) : State :=
  let mine := (s.part p).cores.map fun c => coreKey c.die c.core
  let s := s.setPart p { s.part p with debug := false }
  { s with cores := s.cores.map fun (e : Nat × Core) =>
      if mine.contains e.1 then (e.1, { e.2 with bpc := e.2.bpc.map fun (b : Nat × Word) => (b.1, b.2 &&& ~~~((1 : Word) <<< 63)) })
      else e }.mapGroups fun g => if g.part == p then { g with dbg := g.dbg &&& ~~~(0x100 : Word) } else g

/-- Whether a launch has been admitted and is not over. -/
def Launch.live (l : Launch) : Bool := match l.state with | .submitted | .refused | .done => false | _ => true

/-- A command of an ended launch ends at once: it is revoked, or its swap runs, and its completion is written (R439). -/
def State.settleCmd (s : State) (id : Nat) : State :=
  let now := fun (s : State) => s.updCmd id fun c => { c with due := s.clock.cycle }
  (now ((now (s.revoke id)).swapFold id)).completeCmd id

/-- A ray of an ended launch counts no longer: its final record would be discarded (R439). -/
def State.settleRays (s : State) (p : Nat) : State :=
  let rays := (s.eng.rays.filter fun (e : Nat × Ray) => e.2.part == p).map fun e => (e.2.scene, e.2.gen % 4)
  let recs := (s.eng.records.filter fun (e : Nat × HitRec) => e.2.part == p && e.2.final).map fun e => (e.2.scene, e.2.gslot)
  let s := (rays ++ recs).foldl (fun (s : State) x => s.countRays p x.1 x.2 fun n => (n + 2 ^ 32 - 1) % 2 ^ 32) s
  { s with eng := { s.eng with
    rays := s.eng.rays.filter fun (e : Nat × Ray) => e.2.part != p
    records := s.eng.records.filter fun (e : Nat × HitRec) => e.2.part != p } }

/-- PDESTROY (R122): every launch ends under R439: the commands that are left are revoked, the rays run out, and the token is
written with status 5. Then the key is erased, the units are zeroed and every grant is revoked. -/
def State.destroyPart (s : State) (p : Nat) : State :=
  let mine := (s.launches.filter fun (e : Nat × Launch) => e.2.part == p && e.2.live).map fun e => e.1
  let units := (s.part p).units
  let s := mine.foldl State.endLaunch (s.endDebug p)
  let s := ((s.eng.cmds.filter fun (e : Nat × Cmd) => e.2.part == p).map fun e => e.1).foldl State.settleCmd s
  let s := s.settleRays p
  let s := mine.foldl (fun s q => match s.launch? q with | some l => s.complete { l with ended := true } 5 | none => s) s
  let s := { s with
    eng := { s.eng with
      ops := s.eng.ops.filter fun (e : Nat × Op) => !mine.contains e.2.launch
      cmds := s.eng.cmds.filter fun (e : Nat × Cmd) => e.2.part != p
      batches := s.eng.batches.filter fun b => !mine.contains b.launch
      draws := s.eng.draws.filter fun d => d.part != p
      predictor := [] }
    dieTlb := s.dieTlb.map fun (e : Nat × List TlbEntry) => (e.1, e.2.filter fun t => t.part != p)
    cores := s.cores.map fun (e : Nat × Core) =>
      (e.1, { e.2 with tlb := e.2.tlb.filter fun t => t.part != p }) }.clearCtxs fun x => x.part == p
  let s := units.foldl (fun s u => s.zeroUnit u) s
  { s with parts := Tab.erase p s.parts }

def execPdestroy (m : Mcmd) (s : State) : Out :=
  .next (s.command m .partition fun l s => s.onPart l (fun _ => false) fun p => (0, [], s.destroyPart p))

/-- PGRANT (R122, R123): all items or none; a granted unit is zeroed first (R137), and the predictors are cleared (R105). -/
def State.grant (s : State) (p kind : Nat) (xs : List Nat) : Reply :=
  let q := xs.foldl (Part.give kind) (s.part p)
  if xs.any (s.othersHave p kind) || !s.limitsOk p q then (1, [], s)
  else
    let new := if kind = 2 then (xs.filter fun x => !(s.part p).has 2 x).map unitItem else []
    let s := new.foldl (fun s u => s.zeroUnit u) s
    (0, [], { s.setPart p q with eng := { s.eng with predictor := [] } })

def execPgrant (m : Mcmd) (s : State) : Out :=
  .next (s.command m .partition fun l s =>
    match itemsOf l [0, 1, 2, 3, 4, 5, 6, 7] with
    | none => (2, [], s)
    | some (kind, xs) => if s.exists_ (opByte l 0) then s.grant (opByte l 0) kind xs else (2, [], s))

/-- Whether an admitted guaranteed launch of a partition uses an item (R125): a core of its placement, a way of a die of its
placement, its slots, and any unit (entry 32). -/
def State.inUse (s : State) (p kind x : Nat) : Bool :=
  s.launches.any fun (e : Nat × Launch) => e.2.part == p && e.2.reserves &&
    (match kind with
      | 0 => e.2.place.any fun q => q.1 == field x 0 2 && q.2.1 == field x 8 6
      | 1 => e.2.place.any fun q => q.1 == field x 0 2
      | 2 => true
      | 3 => e.2.p.kib != 0
      | _ => false)

/-- A core leaves its partition: its groups are saved and re-homed as on a retired core (R21; entry 30). -/
def State.coreRevoked (s : State) (c : CoreId) : State :=
  let s := ((s.onCore c.die c.core).map fun g => g.id).foldl (fun s i => s.forceSave i) s
  let s := s.writeBack c.die c.core fun _ _ => true
  let s := s.setCore c.die c.core { s.core c.die c.core with cache := [], lines := [], tlb := [] }
  (s.launchesOn c).foldl (fun s l => s.retest c l) s

/-- PREVOKE (R122, R123, R125). -/
def State.revokeItems (s : State) (p kind : Nat) (xs : List Nat) : Reply :=
  let q := xs.foldl (Part.take kind) (s.part p)
  if xs.any (s.othersHave p kind) then (1, [], s)
  else if !xs.all ((s.part p).hasAll kind) then (2, [], s)
  else if xs.any (s.inUse p kind) then (3, [], s)
  else if !s.limitsOk p q then (1, [], s)
  else
    let s := { s.setPart p q with eng := { s.eng with predictor := [] } }
    (0, [], if kind = 0 then xs.foldl (fun s x => s.coreRevoked (coreOf x)) s else s)

def execPrevoke (m : Mcmd) (s : State) : Out :=
  .next (s.command m .partition fun l s =>
    match itemsOf l [0, 1, 2, 3, 4, 5, 6, 7] with
    | none => (2, [], s)
    | some (kind, xs) => if s.exists_ (opByte l 0) then s.revokeItems (opByte l 0) kind xs else (2, [], s))

/-- The alignments of the eight values of PBASES (R212, R416). -/
def baseAlign : List Nat := [4, 65536, 65536, 4096, 4096, 4096, 32, 64]

def execPbases (m : Mcmd) (s : State) : Out :=
  .next (s.command m .partition fun l s => s.onPart l (fun i => 8 ≤ i && i < 72) fun p =>
    let v := fun (i : Nat) => opNat l (8 + 8 * i) 8
    if !baseAlign.zipIdx.all (fun e => v e.2 % e.1 == 0) then (2, [], s)
    else
      let w := fun (i : Nat) => BitVec.ofNat 64 (v i)
      (0, [], s.setPart p { s.part p with
        tvec := w 0, ptroot := w 1, geobase := w 2, accbase := w 3, scnbase := w 4, savebase := w 5, trcdesc := w 6
        poolbase := w 7 }))

/-- DRYDN (R23, R122). -/
def execDrydn (m : Mcmd) (s : State) : Out :=
  .next (s.command m .partition fun l s =>
    match itemsOf l [0, 1, 2, 4] with
    | none => (2, [], s)
    | some (kind, xs) =>
      let p := opByte l 0
      if !s.exists_ p then (2, [], s)
      else if xs.any (s.othersHave p kind) then (1, [], s)
      else if !xs.all ((s.part p).hasAll kind) then (2, [], s)
      else (0, [], s.drydown p))

/-- The code of a drydown state in PQUERY (R122). -/
def Dry.code : Dry → Nat
  | .running => 0
  | .quiescing => 1
  | .dry => 2
  | .restoring => 3
  | .failed => 4
  | .erased => 5

/-- The amount granted of each kind (R122). -/
def Part.amounts (p : Part) : List Nat :=
  [p.cores.length, p.ways.length, p.units.length, (p.slots.map fun e => popCount 51 e.2.2).sum,
    (p.fabric.map fun (e : Nat × Nat) => e.2).sum, p.rays, p.vfs.length, p.peers.length]

/-- PQUERY (R122): 72 bytes of result. -/
def execPquery (m : Mcmd) (s : State) : Out :=
  .next (s.command m .partition fun l s => s.onPart l (fun _ => false) fun p =>
    (0, leBytes 8 (s.part p).dry.code ++ ((s.part p).amounts.map (leBytes 8)).flatten, s))

/-! ### CTXWR (R127, R128) -/

/-- The record that the RW fields of 256 bytes give, with what the device keeps of the old one (R127). -/
def Ctx.written (old : Option Ctx) (n : Nat) : Ctx where
  statBase := BitVec.ofNat 64 (field n 512 64)
  ringBase := BitVec.ofNat 64 (field n 448 64)
  period := field n 416 32
  fdl := field n 384 32
  fbgt := field n 352 32
  head := match old with | some x => x.head | none => 0
  tail := match old with | some x => x.tail | none => 0
  msix := field n 21 11
  vf := field n 12 9
  part := field n 6 6
  rsize := field n 2 4
  fault := false
  valid := bitAt n 0
  place := none
  drawn := []

/-- Whether a record is malformed (R127). -/
def State.ctxBad (s : State) (x : Ctx) : Bool :=
  x.rsize < 4 || x.period < x.fdl || !s.exists_ x.part || !(s.part x.part).vfs.contains x.vf
    || x.statBase.toNat % 64 != 0 || x.ringBase.toNat % 4096 != 0

/-- The core that takes a frame reservation: the first, in the order of R149, on whose lanes it fits (R128, R147). -/
def State.framePlace (s : State) (x : Ctx) : Option CoreId :=
  let own := ((List.range 4).map fun d => (List.range 48).map fun c => CoreId.mk d c).flatten.filter fun c =>
    (s.part x.part).cores.contains c
  if x.fdl = 0 then none
  else (s.coreOrder own).find? fun c =>
    (List.range 64).all fun n =>
      ((s.laneUse (c.die, c.core, n)).plus (({ x with place := some c } : Ctx).share (c.die, c.core, n))).le (9, 10)

/-- CTXWR: the record is written whole or refused; with V and PERIOD set its reservation is admitted first (R128). -/
def State.writeCtx (s : State) (c n : Nat) : Reply :=
  let x := Ctx.written (Tab.get? c s.host.ctxs) n
  let others := s.host.ctxs.filter fun (e : Nat × Ctx) => e.1 != c && e.2.valid && e.2.vf == x.vf
  let put := fun (x : Ctx) => { s with host := { s.host with ctxs := Tab.set c x s.host.ctxs } }
  if s.ctxBad x then (2, [], s)
  else if x.valid && 4096 ≤ others.length then (1, [], s)
  else if x.valid && x.period != 0 then
    let s' := { s with host := { s.host with ctxs := Tab.erase c s.host.ctxs } }
    match s'.framePlace x with
    | none => (1, [], s)
    | some core => (0, [], put { x with place := some core })
  else (0, [], put x)

def execCtxwr (m : Mcmd) (s : State) : Out :=
  .next (s.command m .partition fun l s =>
    if 16384 ≤ opNat l 0 2 || !onlyNamed l (fun i => i < 2 || (64 ≤ i && i < 320)) then (2, [], s)
    else s.writeCtx (opNat l 0 2) (opNat l 64 256))

/-! ### REPAIR (R20-R22, R55, R122) -/

/-- A REPAIR command of a kind with its target. -/
def State.repair (s : State) (l : List Byte) (kind : Nat) (run : Nat → Reply) : Reply :=
  if opByte l 0 != kind || !onlyNamed l (fun i => i = 0 || (8 ≤ i && i < 16)) then (2, [], s) else run (opNat l 8 8)

/-- REPAIR_CORE (R21): with no spare left the command fails and the core is retired as its drain ends (entry 30). -/
def execRepairCore (m : Mcmd) (s : State) : Out :=
  .next (s.command m .other fun l s => s.repair l 0 fun x =>
    if !itemOk 0 x then (2, [], s)
    else
      let c := coreOf x
      let again := (Tab.getD s.ctl.subst c.die []).any fun y => y.core == c.core
      (if again || 0 < s.sparesLeft c.die then 0 else 4, [], s.substitute c.die c.core false))

/-- REPAIR_ROW (R55). -/
def execRepairRow (m : Mcmd) (s : State) : Out :=
  .next (s.command m .other fun l s => s.repair l 1 fun x =>
    let r : RowId := ⟨field x 0 4, field x 4 6, field x 10 4, field x 14 16⟩
    if 12 ≤ r.stack || 2 ^ 30 ≤ x then (2, [], s)
    else if (s.spareRow r).isNone then (4, [], s)
    else (0, [], s.queueRemap r))

/-- REPAIR_LANE (R22): a port that has lost a lane already has no lane to spare. -/
def execRepairLane (m : Mcmd) (s : State) : Out :=
  .next (s.command m .other fun l s => s.repair l 2 fun x =>
    if 36 ≤ field x 0 6 || 2 ^ 8 ≤ x then (2, [], s)
    else if Tab.getD s.fabric.failedLanes (field x 0 6) 0 != 0 then (4, [], s)
    else (0, [], s.failLane (field x 0 6) (field x 6 2)))

/-! ### Security commands (R124, R138, R139) -/

/-- Whether a source may be given a policy (R138). -/
def policyAllowed (src : Nat) (p : Policy) : Bool :=
  match src, p with
  | 1, .halt | 1, .erase | 2, .halt | 2, .erase => true
  | 4, _ => true
  | _, _ => false

/-- The policy of a code (R122). -/
def policyCode : Nat → Option Policy
  | 0 => some .report
  | 1 => some .halt
  | 2 => some .erase
  | _ => none

def execApolicy (m : Mcmd) (s : State) : Out :=
  .next (s.command m .other fun l s =>
    match policyCode (opByte l 1) with
    | none => (2, [], s)
    | some p =>
      if 4 < opByte l 0 || !onlyNamed l (fun i => i < 2) then (2, [], s)
      else if !policyAllowed (opByte l 0) p then (5, [], s)
      else (0, [], { s with sec := { s.sec with policy := Tab.set (opByte l 0) p s.sec.policy } }))

/-- RESUME (R139): HALTED with no alarm condition becomes ATTESTED; every guaranteed launch is voided, and the held
doorbells go on. -/
def State.resume (s : State) : Reply :=
  if s.sec.state != .halted || !s.sec.active.isEmpty then (4, [], s)
  else
    let s := { s with sec := { s.sec with state := .attested } }
    let seqs := (s.launches.filter fun (e : Nat × Launch) => e.2.reserves).map fun e => e.1
    (0, [], (seqs.foldl (fun s q => s.void q) s).releaseDoorbells)

def execResume (m : Mcmd) (s : State) : Out :=
  .next (s.command m .other fun l s => if onlyNamed l (fun _ => false) then s.resume else (2, [], s))

def execDbgrevoke (m : Mcmd) (s : State) : Out :=
  .next (s.command m .other fun l s => s.onPart l (fun _ => false) fun p => (0, [], s.endDebug p))

/-- DBGNONCE (R124): a later nonce replaces an earlier one. -/
def execDbgnonce (m : Mcmd) (s : State) : Out :=
  .next (s.command m .other fun l s =>
    if !onlyNamed l (fun _ => false) then (2, [], s)
    else
      let n := Config.random s.sec.randoms
      (0, leBytes 32 n.toNat, { s with sec := { s.sec with nonce := some n, randoms := s.sec.randoms + 1 } }))

/-- The 64 bytes that a debug credential signs (R124). -/
def credentialMessage (p : Nat) (nonce : BitVec 256) : List Byte :=
  leBytes 16 Config.serial.toNat ++ leBytes 16 p ++ leBytes 32 nonce.toNat

/-- DBGGRANT (R124): each nonce serves one; a bad credential, or no nonce, raises the debug-misuse alarm. -/
def State.debugGrant (s : State) (p : Nat) (credential : List Byte) : Reply :=
  let ok := match s.sec.nonce with
    | some n => Config.debugVerifies (credentialMessage p n) credential
    | none => false
  let s := { s with sec := { s.sec with nonce := none } }
  if ok then (0, [], s.setPart p { s.part p with debug := true }) else (5, [], s.alarms [4])

def execDbggrant (m : Mcmd) (s : State) : Out :=
  .next (s.command m .other fun l s => s.onPart l (fun i => 32 ≤ i && i < 96) fun p =>
    s.debugGrant p ((l.drop 32).take 64))

/-! ### Attestation (R135) -/

/-- The running image of a firmware. -/
def Firmware.running (f : Firmware) : Image :=
  match (if f.runB then f.b else f.a) with
  | some i => i
  | none => ⟨[], 0⟩

/-- The configuration of the partitions as numbers. -/
def Part.numbers (p : Part) : List Nat :=
  p.amounts ++ (p.cores.map fun c => c.die * 64 + c.core) ++ (p.ways.map fun w => w.1 * 32 + w.2)
    ++ (p.units.map fun u => u.1 * 512 + (if u.2.1 then 256 else 0) + u.2.2)
    ++ (p.slots.map fun e => e.1 + e.2.1 * 16 + e.2.2 * 2048) ++ (p.fabric.map fun (e : Nat × Nat) => e.1 + 64 * e.2)
    ++ p.vfs ++ (p.peers.map fun q => q.dev.toNat + q.part * 2 ^ 22 + (if q.any then 2 ^ 28 else 0))

/-- The code of a security state (R121, R135). -/
def SecState.code : SecState → Nat
  | .booted => 0
  | .attested => 1
  | .halted => 2
  | .locked => 3

/-- Bytes 0 to 255 of the report (R135). -/
def State.report256 (s : State) (nonce : Nat) : List Byte :=
  let c := s.sec.ctlFw.running
  let d := s.sec.devFw.running
  leBytes 256 (nonce + s.fabric.devid.toNat * 2 ^ 320 + (if s.sec.ctlFw.runB then 2 ^ 349 else 0)
    + s.sec.state.code * 2 ^ 350 + min c.svn d.svn % 2 ^ 8 * 2 ^ 352 + Config.serial.toNat * 2 ^ 384
    + (Config.sha512 c.bytes).toNat * 2 ^ 512 + (Config.sha512 d.bytes).toNat * 2 ^ 1024
    + (Config.partitionDigest ((s.parts.map fun (e : Nat × Part) => e.1 :: e.2.numbers).flatten)).toNat * 2 ^ 1536)

/-- The signature of a report. In LOCKED the working copy of the identity key is gone (R139), and what stands in SIG is a
free value (entry 4). -/
def State.reportSig (s : State) (body : List Byte) : List Byte :=
  if s.sec.state == .locked then ((List.range 8).map fun i => leBytes 8 (Config.freeValue (s.free + i)).toNat).flatten
  else leBytes 64 (Config.identitySign (Config.sha512 body)).toNat

/-- ATTEST (R135, R139): the report shows the state before its answer. -/
def State.attest (s : State) (nonce : Nat) : Reply :=
  let body := s.report256 nonce
  let sec := { s.sec with attestedOnce := true, state := if s.sec.state == .booted then .attested else s.sec.state }
  (0, body ++ s.reportSig body, { s with sec := sec, free := s.free + 8 })

def execAttest (m : Mcmd) (s : State) : Out :=
  .next (s.command m .attest fun l s =>
    if onlyNamed l (fun i => i < 32) then s.attest (opNat l 0 32) else (2, [], s))

/-! ### Firmware (R134, R136) -/

/-- The firmware of a code. -/
def Sec.fw (c : Sec) (k : Nat) : Firmware := if k = 0 then c.ctlFw else c.devFw

def Sec.setFw (c : Sec) (k : Nat) (f : Firmware) : Sec := if k = 0 then { c with ctlFw := f } else { c with devFw := f }

/-- Whether an image passes the check of R134. -/
def Image.good (i : Image) (fused : Nat) : Bool := Config.rootVerifies i.bytes && fused ≤ i.svn

/-- The image goes into the slot that does not run. -/
def Firmware.stage (f : Firmware) (i : Image) (ok : Bool) : Firmware :=
  if f.runB then { f with a := some i, staged := ok } else { f with b := some i, staged := ok }

/-- FWSTAGE (R122, R134, R136). -/
def execFwstage (m : Mcmd) (s : State) : Out :=
  .next (s.command m .other fun l s =>
    let n := opNat l 16 8
    if 1 < opByte l 0 || 2 ^ 26 < n || !onlyNamed l (fun i => i = 0 || (8 ≤ i && i < 24)) then (2, [], s)
    else
      let bytes := s.host.mem.bytes (opNat l 8 8) n
      let i : Image := ⟨bytes, Config.imageSvn bytes⟩
      let ok := i.good s.sec.fusedSvn
      (if ok then 0 else 4, [], { s with sec := s.sec.setFw (opByte l 0) ((s.sec.fw (opByte l 0)).stage i ok) }))

/-- FWSWITCH (R136): the staged image runs; none staged fails. -/
def execFwswitch (m : Mcmd) (s : State) : Out :=
  .next (s.command m .other fun l s =>
    let f := s.sec.fw (opByte l 0)
    if 1 < opByte l 0 || !onlyNamed l (fun i => i = 0) then (2, [], s)
    else if !f.staged then (4, [], s)
    else (0, [], { s with sec := s.sec.setFw (opByte l 0) { f with runB := !f.runB, staged := false } }))

/-- The image that a stage of the boot chain runs: A, else B (R134); the flag tells B. -/
def Firmware.chosen (f : Firmware) (fused : Nat) : Option Bool :=
  if f.a.any (fun i => i.good fused) then some false
  else if f.b.any (fun i => i.good fused) then some true
  else none

/-- A firmware after its stage of the chain. -/
def Firmware.booted (f : Firmware) (fused : Nat) : Firmware :=
  { f with runB := (f.chosen fused).getD false, staged := false }

/-- A stack after a boot: its unit modes and remap table stay, and every copy is read anew from the persistent one. -/
def Stack.rebooted (k : Stack) : Stack :=
  { Stack.empty with
    hbmCache := k.hbmCache, tierCache := k.tierCache, banks := k.banks
    remap := k.remap.map fun e => if e.badP then e else { e with badA := false, badB := false } }

/-- The boot chain runs (R134): the module is as after reset, and no partition exists (R139). What lies in the devices and in
the controller's flash stays: memory contents, spares and remaps, images, the real-time clock (entry 33). -/
def State.bootChain (s : State) : State :=
  let ok := (s.sec.ctlFw.chosen s.sec.fusedSvn).isSome && (s.sec.devFw.chosen s.sec.fusedSvn).isSome
  let r := State.reset
  let t := { r with
    clock := { r.clock with rtc := s.clock.rtc }
    ctl := { r.ctl with
      sample := s.ctl.sample, identity := s.ctl.identity, retired := s.ctl.retired, sparesUsed := s.ctl.sparesUsed }
    fabric := { r.fabric with devid := s.fabric.devid, failedLanes := s.fabric.failedLanes, linksDown := s.fabric.linksDown }
    stks := s.stks.map fun (e : Nat × Stack) => (e.1, e.2.rebooted)
    mem := s.mem
    poison := s.poison
    host := { r.host with
      box := { r.host.box with port := s.host.box.port }
      mem := s.host.mem, msix := s.host.msix, log := s.host.log, reports := s.host.reports, priAlloc := s.host.priAlloc }
    sec := { r.sec with
      bootFailed := !ok, ctlFw := s.sec.ctlFw.booted s.sec.fusedSvn, devFw := s.sec.devFw.booted s.sec.fusedSvn
      fusedSvn := s.sec.fusedSvn, randoms := s.sec.randoms }
    inputs := s.inputs
    free := s.free }
  if ok then t else t.report .bootFailed

/-- RESET by mailbox (R139): LOCKED becomes BOOTED; in another state it changes nothing. -/
def State.resetCmd (s : State) : Reply := if s.sec.state == .locked then (0, [], s.bootChain) else (4, [], s)

def execReset (m : Mcmd) (s : State) : Out :=
  .next (s.command m .reset fun l s => if onlyNamed l (fun _ => false) then s.resetCmd else (2, [], s))

/-- The unit modes that the controller sets at boot (R41). -/
def State.setModes (s : State) (b : BootIn) : State :=
  { s with stks := (List.range 12).map fun n => (n, { s.stack n with
      hbmCache := (b.hbmCache.filter fun u => u.1 == n).map fun u => u.2
      tierCache := (b.tierCache.filter fun u => u.1 == n).map fun u => u.2 }) }

/-- BOOT (R27, R35, R41, R134, R139): a power cycle, with what the management port sets. -/
def execBoot (b : BootIn) (s : State) : Out :=
  .next (
    let s := s.setModes b
    { s with fabric := { s.fabric with devid := b.devid }, clock := { s.clock with rtc := b.rtc } }.bootChain)

/-- Whether an opcode is listed (R122). -/
def listedOpcode (n : Nat) : Bool := 1 ≤ n && n ≤ 0x12

/-- An opcode that R122 does not list completes with CODE 6. -/
def execUnknownOpcode (opcode : BitVec 16) (m : Mcmd) (s : State) : Out :=
  .next (if listedOpcode opcode.toNat then s else s.command m .other fun _ s => (6, [], s))

/-! ### A command by its opcode, and the management port (R121) -/

/-- REPAIR by its byte 0 (R122). -/
def execRepair (m : Mcmd) (s : State) : Out :=
  match opByte (s.operands m) 0 with
  | 1 => execRepairRow m s
  | 2 => execRepairLane m s
  | _ => execRepairCore m s

/-- The command that an opcode names (R122). -/
def commandOf (opcode : BitVec 16) (m : Mcmd) (s : State) : Out :=
  match opcode.toNat with
  | 0x01 => execPcreate m s
  | 0x02 => execPdestroy m s
  | 0x03 => execPgrant m s
  | 0x04 => execPrevoke m s
  | 0x05 => execPbases m s
  | 0x06 => execCtxwr m s
  | 0x07 => execDrydn m s
  | 0x08 => execPquery m s
  | 0x09 => execRepair m s
  | 0x0A => execApolicy m s
  | 0x0B => execResume m s
  | 0x0C => execReset m s
  | 0x0D => execAttest m s
  | 0x0E => execFwstage m s
  | 0x0F => execFwswitch m s
  | 0x10 => execDbgnonce m s
  | 0x11 => execDbggrant m s
  | 0x12 => execDbgrevoke m s
  | _ => execUnknownOpcode opcode m s

/-- The command word and the operands of a message inside a session: as MCMD and MOPND have them (entry 31). -/
def sessionCommand (bytes : List Byte) (s : State) : Out :=
  let w := BitVec.ofNat 64 (leNat (bytes.take 8))
  commandOf (w.extractLsb' 0 16) ⟨w.extractLsb' 16 16, w.extractLsb' 32 32, some ((bytes.drop 8).take 1984)⟩ s

/-- The key under which a message authenticates moves to the front, so that the answer is sealed under it. -/
def State.useSession (s : State) (k : BitVec 256) : State :=
  { s with sec := { s.sec with sessions := k :: s.sec.sessions.filter fun x => x != k } }

/-- MANAGEMENT_SESSION (R121): a share opens a session, and the controller's own signed share answers it (not in
LOCKED, where the key that signs is gone, and not after a failed boot chain, which exposes only the mailbox: R134); a message that
authenticates carries a command; the end of the session ends its key. -/
def execManagementSession (m : SessionMsg) (s : State) : Out :=
  match m with
  | .start share =>
    if s.sec.state == .locked || s.sec.bootFailed then .next s else
    let own := Config.random s.sec.randoms
    let body := leBytes 32 own.toNat
    .next { s with
      sec := { s.sec with
        sessions := Config.sessionKey share s.sec.randoms :: s.sec.sessions, randoms := s.sec.randoms + 1 }
      host := { s.host with box := { s.host.box with
        port := s.host.box.port ++ [body ++ leBytes 64 (Config.identitySign (Config.sha512 body)).toNat] } } }
  | .sealed bytes =>
    match s.sec.sessions.find? fun k => Config.gcmVerifies k bytes with
    | none => .next s
    | some k => sessionCommand (Config.gcmOpen k bytes) (s.useSession k)
  | .finish => .next { s with sec := { s.sec with sessions := s.sec.sessions.drop 1 } }

/-! ### Accesses of the mailbox by the host (R121) -/

/-- A write of the mailbox BAR: of a wrong width it is discarded and logged; MCMD starts a command, MOPND takes operands,
every other register is read-only. -/
def mailboxWrite (offset width : Nat) (value : Word) (s : State) : Out :=
  if width != 8 || offset % 8 != 0 then .next (s.logPf .mailboxAccess)
  else if offset = 0 then
    commandOf (value.extractLsb' 0 16) ⟨value.extractLsb' 16 16, value.extractLsb' 32 32, none⟩ s
  else if 0x40 ≤ offset && offset < 0x800 then
    let l := (s.host.box.mopnd ++ List.replicate 1984 (0 : Byte)).take 1984
    .next { s with host := { s.host with box := { s.host.box with
      mopnd := l.take (offset - 0x40) ++ leBytes 8 value.toNat ++ l.drop (offset - 0x38) } } }
  else .next s

/-- What the host reads at an offset of the mailbox (R121). -/
def State.mailboxWord (s : State) (offset : Nat) : Word :=
  let b := s.host.box
  if offset = 8 then BitVec.ofNat 64 b.status
  else if offset = 0x10 then BitVec.ofNat 64 (s.sec.state.code + (if s.sec.bootFailed then 4 else 0))
  else if 0x40 ≤ offset && offset < 0x800 then BitVec.ofNat 64 (opNat b.mopnd (offset - 0x40) 8)
  else if 0x800 ≤ offset && offset < 0x1000 then BitVec.ofNat 64 (opNat b.mres (offset - 0x800) 8)
  else 0

/-- A read of the mailbox BAR: one of a wrong width, or off its alignment, is discarded and logged. -/
def State.mailboxRead (s : State) (offset width : Nat) : Option Word × State :=
  if width != 8 || offset % 8 != 0 then (none, s.logPf .mailboxAccess) else (some (s.mailboxWord offset), s)

end Sys2Proof.Machine
end

