-- ==== Sys2Proof/Machine/Raster.lean ====
section
/-!
DEFINITION. The raster engines (R115-R118, R413): draw records, triangles, reprojection, completion, and `rast` (0x6E).
-/

namespace Sys2Proof.Machine

open Sys2Proof

/-! ### Draw records (R115) -/

/-- A field of a draw record. -/
def Draw.f (d : Draw) (lo len : Nat) : Nat := field d.rec_ lo len

def Draw.compl (d : Draw) : Nat := d.f 448 64
def Draw.tris (d : Draw) : Nat := d.f 384 64
def Draw.ntri (d : Draw) : Nat := d.f 360 24
def Draw.cull (d : Draw) : Nat := d.f 6 2
def Draw.useMask (d : Draw) : Bool := d.rec_.testBit 5
def Draw.clears (d : Draw) : Bool := d.rec_.testBit 4
def Draw.reprojects (d : Draw) : Bool := d.rec_.testBit 0

/-- Whether a reserved field is nonzero or CULL is 3 (R413). -/
def Draw.bad (d : Draw) : Bool := d.f 8 264 != 0 || d.f 1 3 != 0 || d.cull == 3

/-! ### Planes (R115) -/

/-- The planes of a draw. A plane that a draw does not use stands as the ID plane. -/
structure Planes where
  id : Geo
  dep : Geo
  mask : Geo
  pid : Geo
  pdep : Geo
  mot : Geo
  deriving DecidableEq, Repr

/-- A usable plane of a partition with an element size. -/
def State.plane (s : State) (part idx esz : Nat) : Option Geo :=
  match s.geo? part idx with
  | none => none
  | some g => if s.usable g && g.esz == esz && s.ownsRegion part g then some g else none

/-- Whether two planes have equal ROWS, and the columns of the second are k times those of the first. -/
def Geo.fits (g h : Geo) (k : Nat) : Bool := g.rowsE == h.rowsE && k * g.colsE == h.colsE

/-- The planes of a well-formed draw (R115, R413). -/
def State.planes (s : State) (d : Draw) : Option Planes :=
  if d.bad then none
  else
    match s.plane d.part (d.f 348 12) 4, s.plane d.part (d.f 336 12) 4 with
    | some a, some b =>
      if !a.fits b 1 then none
      else if d.reprojects then
        match s.plane d.part (d.f 324 12) 1, s.plane d.part (d.f 312 12) 4, s.plane d.part (d.f 300 12) 4,
            s.plane d.part (d.f 288 12) 2 with
        | some m, some p, some q, some v =>
          if a.fits m 1 && a.fits p 1 && a.fits q 1 && a.fits v 4 then some ⟨a, b, m, p, q, v⟩ else none
        | _, _, _, _ => none
      else if d.useMask then
        match s.plane d.part (d.f 324 12) 1 with
        | some m => if a.fits m 1 then some ⟨a, b, m, a, b, a⟩ else none
        | none => none
      else some ⟨a, b, a, a, b, a⟩
    | _, _ => none

/-! ### Traffic (R46, R229) -/

/-- The key of the requests of a die's raster engine, in the place of an operation. -/
def drawKey (die : Nat) : Nat := 2 ^ 68 + die

/-- How the engine of a draw reaches memory. -/
def Draw.via (d : Draw) : Via := ⟨d.die, d.part, []⟩

/-- On whose behalf the engine of a draw reads. -/
def State.drawAsker (s : State) (d : Draw) : Asker := s.filtAsker (some (drawKey d.die)) d.launch d.part

/-- The reads of plane bytes from physical addresses: what misses the die buffer is requested and then stands in it. -/
def State.readPlanes (s : State) (d : Draw) (l : List (Nat × Nat)) : State :=
  let sectors := joinSectors ((l.map fun e => Sector.plain e.1).filter fun x => !s.sectorHome 0 x)
  if sectors.isEmpty then s
  else (s.ask (s.drawAsker d) false sectors).fillHome ((l.map fun e => plainLines e.1 e.2).flatten)

/-- The writes of a draw to a plane, for the path fences of its group that follow (R241). -/
def State.noteDraw (s : State) (d : Draw) (g : Geo) : State :=
  s.updGroup d.g fun x => { x with wrote := (List.range g.rows).foldl (fun l i =>
    let e := (5, g.pbase + i * g.pitch * g.square, g.cols * g.square)
    if l.contains e then l else e :: l) x.wrote }

/-- A plane's element (row i, column j) and whether its atom is poisoned. -/
def State.planeNat (s : State) (g : Geo) (i j : Nat) : Nat × Bool :=
  let p := g.physAt i j 0
  (s.homeNat p g.esz, (List.range g.esz).any fun b => s.badByte 0 (p + b))

/-- Write bytes of a plane. What the home holds of them under the other views goes, so that an acquire of the completion
record shows the new bytes through every view (R118). -/
def State.planeBytes (s : State) (p : Nat) (bs : List Byte) : State :=
  let s := s.putHome p bs
  let gone := (List.range bs.length).map (fun i => byteKey 1 (p + i)) ++ (List.range bs.length).map (fun i => byteKey 2 (p + i))
  { s with home := s.home.filter fun (e : Nat × CByte) => !gone.contains e.1 }

/-- Write an element of a plane, with the mark that its value carries (R52). -/
def State.planePut (s : State) (g : Geo) (i j v : Nat) (bad : Bool) : State :=
  let p := g.physAt i j 0
  let s := s.planeBytes p (leBytes g.esz v)
  if bad then s.markPoison (atomOf p) else s

/-- Every pixel of a plane, as row and column. -/
def Geo.pixels (g : Geo) : List (Nat × Nat) :=
  ((List.range g.rowsE).map fun i => (List.range g.colsE).map fun j => (i, j)).flatten

/-- The bytes of a plane lose their marks: each of its atoms has been written whole (R52). -/
def State.planeClean (s : State) (g : Geo) : State :=
  s.clearPoison ((g.pixels.map fun e => (List.range g.esz).map fun b => g.physAt e.1 e.2 b).flatten)

/-- The empty ID word. -/
def emptyId : Nat := 0xFFFFFFFF

/-- CLEAR (R116). -/
def State.clearPlanes (s : State) (q : Planes) : State :=
  (q.id.pixels.foldl (fun (s : State) e =>
    (s.planePut q.id e.1 e.2 emptyId false).planePut q.dep e.1 e.2 f32Inf false)
    ((s.planeClean q.id).planeClean q.dep))

/-! ### Triangles (R116) -/

/-- A vertex: x and y in 1/256 pixel, and its depth. -/
structure Vertex where
  x : Int
  y : Int
  z : Nat
  deriving DecidableEq, Repr

/-- A coordinate snapped to 1/256 pixel with RNE; nothing where it is not finite or lies outside the range. -/
def snap (n : Nat) : Option Int :=
  match toFl .f32 n with
  | .fin k m e =>
    let x := roundInt .rne (.fin k m (e + 8))
    if -16384 * 256 ≤ x && x < 16384 * 256 then some x else none
  | _ => none

/-- A triangle record. -/
structure Tri where
  words : List Nat
  id : Nat
  bad : Bool
  deriving DecidableEq, Repr

def triOf (bs : List Marked) : Tri :=
  let w := fun (k : Nat) => leNat (((bs.drop (4 * k)).take 4).map fun b => b.1)
  ⟨(List.range 9).map w, w 9, (bs.take 40).any fun b => b.2⟩

def Tri.vertex (t : Tri) (k : Nat) : Option Vertex :=
  match snap (t.words.getD (3 * k) 0), snap (t.words.getD (3 * k + 1) 0) with
  | some x, some y => some ⟨x, y, t.words.getD (3 * k + 2) 0⟩
  | _, _ => none

/-- The edge function from a to b at a point, positive inside for the positive order. -/
def edgeAt (a b : Vertex) (x y : Int) : Int := (b.x - a.x) * (y - a.y) - (b.y - a.y) * (x - a.x)

/-- Whether an edge of the positive order is a top edge or a left edge: y grows with the row. -/
def topLeft (a b : Vertex) : Bool := (b.y == a.y && decide (a.x < b.x)) || decide (b.y < a.y)

/-- Whether an edge covers a point. -/
def edgeCovers (a b : Vertex) (x y : Int) : Bool :=
  decide (0 < edgeAt a b x y) || (edgeAt a b x y == 0 && topLeft a b)

/-- Twice the signed area. -/
def area2 (a b c : Vertex) : Int := (b.x - a.x) * (c.y - a.y) - (c.x - a.x) * (b.y - a.y)

/-- The depth at a point: the exact blend, rounded once. Of a depth that is not finite the spec states no blend: a free
value. -/
def depthAt (a b c : Vertex) (x y : Int) (free : Nat) : Nat :=
  if [a, b, c].all fun v => (toFl .f32 v.z).finite then
    let part := fun (e : Int) (v : Vertex) => (Fl.ofInt e).mul (toFl .f32 v.z)
    let sum := ((part (edgeAt b c x y) a).add .rne (part (edgeAt c a x y) b)).add .rne (part (edgeAt a b x y) c)
    divFl false .f32 .rne sum (Fl.ofInt (area2 a b c))
  else (Config.freeValue free).toNat % 2 ^ 32

/-- Whether a fragment replaces the stored pixel. -/
def replaces (z id z0 id0 : Nat) : Bool := f32Lt z z0 || (f32Eq z z0 && decide (id < id0))

/-- Pixels that the bounding box of a triangle leaves, in a plane. -/
def Geo.box (g : Geo) (a b c : Vertex) : List (Nat × Nat) :=
  let lo := fun (p q r : Int) => (min p (min q r) / 256).toNat
  let hi := fun (p q r : Int) (n : Nat) => min n ((max p (max q r) / 256 + 1).toNat)
  let y0 := lo a.y b.y c.y
  let x0 := lo a.x b.x c.x
  ((List.range' y0 (hi a.y b.y c.y g.rowsE - y0)).map fun i =>
    (List.range' x0 (hi a.x b.x c.x g.colsE - x0)).map fun j => (i, j)).flatten

/-- What a draw has done so far: the pixels written, the triangles rejected, whether poison was met. -/
structure Drawn where
  px : List (Nat × Nat)
  rejected : Nat
  bad : Bool
  deriving DecidableEq, Repr

/-- One pixel of a triangle in positive order. -/
def State.fragment (s : State) (d : Draw) (q : Planes) (t : Tri) (a b c : Vertex) (r : Drawn) (e : Nat × Nat) :
    State × Drawn :=
  let x : Int := 256 * e.2 + 128
  let y : Int := 256 * e.1 + 128
  if !(edgeCovers a b x y && edgeCovers b c x y && edgeCovers c a x y) then (s, r)
  else
    let at_ := fun (g : Geo) => (g.physAt e.1 e.2 0, g.esz)
    let s := if d.useMask then s.readPlanes d [at_ q.mask] else s
    let m := if d.useMask then s.planeNat q.mask e.1 e.2 else (1, false)
    if m.1 != 1 then (s, { r with bad := r.bad || m.2 })
    else
      let s := s.readPlanes d [at_ q.id, at_ q.dep]
      let z := depthAt a b c x y (s.free + e.1 * q.id.colsE + e.2)
      let i0 := s.planeNat q.id e.1 e.2
      let z0 := s.planeNat q.dep e.1 e.2
      let r := { r with bad := r.bad || m.2 || i0.2 || z0.2 }
      if replaces z t.id z0.1 i0.1 then
        ((s.planePut q.id e.1 e.2 t.id t.bad).planePut q.dep e.1 e.2 z t.bad,
          { r with px := if r.px.contains e then r.px else e :: r.px })
      else (s, r)

/-- One triangle. -/
def State.drawTri (s : State) (d : Draw) (q : Planes) (t : Tri) (r : Drawn) : State × Drawn :=
  let r := { r with bad := r.bad || t.bad }
  match t.vertex 0, t.vertex 1, t.vertex 2 with
  | some a, some b, some c =>
    if t.id = emptyId then (s, { r with rejected := r.rejected + 1 })
    else
      let n := area2 a b c
      if n = 0 || (n < 0 && d.cull == 1) || (0 < n && d.cull == 2) then (s, r)
      else
        let b' := if n < 0 then c else b
        let c' := if n < 0 then b else c
        let out := (q.id.box a b c).foldl (fun (st : State × Drawn) e => st.1.fragment d q t a b' c' st.2 e) (s, r)
        ({ out.1 with free := out.1.free + q.id.rowsE * q.id.colsE }, out.2)
  | _, _, _ => (s, { r with rejected := r.rejected + 1 })

/-- The triangles of a draw from one on. A triangle that cannot be read ends it: malformed, with what the earlier ones have
drawn (R118). -/
def State.drawTris (s : State) (d : Draw) (q : Planes) (r : Drawn) : List Nat → State × Drawn × Bool
  | [] => (s, r, false)
  | k :: l =>
    match s.engRead d.via (add64 d.tris (48 * k)) 48 with
    | none => (s, r, true)
    | some bs =>
      let s := s.readThrough (s.drawAsker d) d.via ((s.engRange d.via false (add64 d.tris (48 * k)) 48).getD [])
      let out := s.drawTri d q (triOf bs) r
      State.drawTris out.1 d q out.2 l

/-! ### Reprojection (R117) -/

/-- q along one axis: floor(p + 0.5 + m) as a real sum, where the motion is finite. -/
def shifted (p : Nat) (m : Nat) : Option Int :=
  let x := toFl .f16 m
  if x.finite then some (flFloor ((flHalves (2 * p + 1)).add .rne x)) else none

/-- |depth(q') - depth(q)| ≤ DTOL × depth(q), each operation rounded to `f32`. -/
def near (z' z tol : Nat) : Bool := f32Le (f32Sub z' z % 2 ^ 31) (f32Mul tol z)

/-- What becomes of one pixel: the previous ID and the new depth of a kept pixel, and whether poison entered. The planes are
read as they stood when the draw began. -/
def State.keeps (s : State) (d : Draw) (q : Planes) (e : Nat × Nat) : Option (Nat × Nat) × Bool × Bool :=
  let m := fun (k : Nat) => s.planeNat q.mot e.1 (4 * e.2 + k)
  let bad := (m 0).2 || (m 1).2
  match shifted e.2 (m 0).1, shifted e.1 (m 1).1 with
  | some x, some y =>
    if x < 0 || y < 0 || (q.pid.colsE : Int) ≤ x || (q.pid.rowsE : Int) ≤ y then (none, bad, bad)
    else
      let x := x.toNat
      let y := y.toNat
      let id := s.planeNat q.pid y x
      let z := s.planeNat q.pdep y x
      let tol := convFF .rne false .f16 .f32 (toFl .f16 (d.f 272 16))
      let around := ([((y : Int) - 1, (x : Int)), (y + 1, x), (y, x - 1), (y, x + 1)] : List (Int × Int)).filter fun (n : Int × Int) =>
        0 ≤ n.1 && n.1 < (q.pid.rowsE : Int) && 0 ≤ n.2 && n.2 < (q.pid.colsE : Int)
      let zs := around.map fun n => s.planeNat q.pdep n.1.toNat n.2.toNat
      let bad := bad || id.2 || z.2 || zs.any fun n => n.2
      if id.1 == emptyId || !(zs.all fun n => near n.1 z.1 tol) then (none, bad, bad)
      else
        let dz := m 2
        (some (id.1, f32Add .rne z.1 (convFF .rne false .f16 .f32 (toFl .f16 dz.1))), bad || dz.2, id.2 || z.2 || dz.2)
  | _, _ => (none, bad, bad)

/-- The plane bytes that the reprojection of a pixel reads. -/
def State.keepReads (s : State) (q : Planes) (e : Nat × Nat) : List (Nat × Nat) :=
  let m := fun (k : Nat) => (s.planeNat q.mot e.1 (4 * e.2 + k)).1
  let prev := match shifted e.2 (m 0), shifted e.1 (m 1) with
    | some x, some y =>
      let inside := fun (n : Int × Int) => 0 ≤ n.1 && 0 ≤ n.2 && n.1 < (q.pid.rowsE : Int) && n.2 < (q.pid.colsE : Int)
      if inside (y, x) then
        (q.pid.physAt y.toNat x.toNat 0, 4) :: (([(y, x), (y - 1, x), (y + 1, x), (y, x - 1), (y, x + 1)] : List (Int × Int)).filter
          inside).map fun n => (q.pdep.physAt n.1.toNat n.2.toNat 0, 4)
      else []
    | _, _ => []
  (q.mot.physAt e.1 (4 * e.2) 0, 6) :: prev

/-- Reproject every pixel: the state, the redo pixels, whether poison was met. -/
def State.reprojectAll (s : State) (d : Draw) (q : Planes) : State × Nat × Bool :=
  let s0 := s
  let s := ((s.planeClean q.id).planeClean q.dep).planeClean q.mask
  q.id.pixels.foldl (fun (st : State × Nat × Bool) e =>
    let k := s0.keeps d q e
    let st := (st.1.readPlanes d (s0.keepReads q e), st.2)
    match k.1 with
    | some (id, z) =>
      (((st.1.planePut q.id e.1 e.2 id k.2.2).planePut q.dep e.1 e.2 z k.2.2).planePut q.mask e.1 e.2 0 false,
        st.2.1, st.2.2 || k.2.1)
    | none =>
      (((st.1.planePut q.id e.1 e.2 emptyId false).planePut q.dep e.1 e.2 f32Inf false).planePut q.mask e.1 e.2 1 false,
        st.2.1 + 1, st.2.2 || k.2.1)) (s, 0, false)

/-! ### The events (R413, R118) -/

/-- Cycles from `rast` to the engine, and from the last plane write to completion (entry 5). -/
def drawTrip : Nat := 800
def drawEnd : Nat := 200

/-- Replace the first draw of a list that satisfies a test. -/
def updFirst (p : Draw → Bool) (f : Draw → Option Draw) : List Draw → List Draw
  | [] => []
  | d :: l => if p d then (match f d with | some x => x :: l | none => l) else d :: updFirst p f l

/-- The draw that a die's engine takes next. -/
def State.nextDraw (s : State) (die : Nat) : Option Draw :=
  s.eng.draws.find? fun d => d.die == die && d.phase == .queued

/-- The draw of a die whose completion is written next. -/
def State.doneDraw (s : State) (die : Nat) : Option Draw :=
  s.eng.draws.find? fun d => d.die == die && d.phase == .finished

/-- The engine has finished the draw it took. -/
def State.endDraw (s : State) (die status pixels redo rejected : Nat) (cost : Nat) : State :=
  let l := updFirst (fun d => d.die == die && d.phase == .queued)
    (fun d => some { d with phase := .finished, status := status, pixels := pixels, redo := redo, rejected := rejected,
                            due := s.clock.cycle + cost + drawEnd }) s.eng.draws
  { s with eng := { s.eng with draws := l } }

/-- Cycles of a draw: 2 triangles and 64 pixels per cycle (R116). -/
def drawCost (tris px : Nat) : Nat := (tris + 1) / 2 + (px + 63) / 64

/-- RASTER_DRAW (R116). -/
def State.rasterDraw (s : State) (die : Nat) : State :=
  match s.nextDraw die with
  | none => s
  | some d =>
    if d.reprojects || s.clock.cycle < d.due then s
    else
      match s.planes d with
      | none => s.endDraw die 2 0 0 0 0
      | some q =>
        let s := ((if d.clears then s.clearPlanes q else s).noteDraw d q.id).noteDraw d q.dep
        let out := s.drawTris d q ⟨[], 0, false⟩ (List.range d.ntri)
        let r := out.2.1
        out.1.endDraw die (if out.2.2 then 2 else if r.bad then 3 else 0) r.px.length 0 r.rejected (drawCost d.ntri r.px.length)

def execRasterDraw (die : Nat) (s : State) : Out := .next (s.rasterDraw die)

/-- REPROJECT (R117). -/
def State.reprojectDraw (s : State) (die : Nat) : State :=
  match s.nextDraw die with
  | none => s
  | some d =>
    if !d.reprojects || s.clock.cycle < d.due then s
    else
      match s.planes d with
      | none => s.endDraw die 2 0 0 0 0
      | some q =>
        let out := (((s.noteDraw d q.id).noteDraw d q.dep).noteDraw d q.mask).reprojectAll d q
        let n := q.id.rowsE * q.id.colsE
        out.1.endDraw die (if out.2.2 then 3 else 0) n out.2.1 0 (drawCost 0 n)

def execReproject (die : Nat) (s : State) : Out := .next (s.reprojectDraw die)

/-- The completion record (R118). -/
def Draw.record (d : Draw) : List Byte :=
  leBytes 32 (d.status + d.pixels % 2 ^ 32 * 2 ^ 32 + d.redo % 2 ^ 32 * 2 ^ 64 + d.rejected % 2 ^ 32 * 2 ^ 96)

/-- DRAW_COMPLETION (R118): the record as a release at die scope, then the C counter. -/
def State.drawCompletion (s : State) (die : Nat) : State :=
  match s.doneDraw die with
  | none => s
  | some d =>
    if s.clock.cycle < d.due || s.requestsLeft (drawKey die) then s
    else
      let s := if d.compl % 32 = 0 then (s.unitWrite d.part d.compl d.record).settleWaiters else s
      let s := s.updGroup d.g fun g => g.uncount 2
      let l := updFirst (fun d => d.die == die && d.phase == .finished) (fun _ => none) s.eng.draws
      { s with eng := { s.eng with draws := l } }

def execDrawCompletion (die : Nat) (s : State) : Out := .next (s.drawCompletion die)

/-! ### rast (R413) -/

def execRast (x : Ord) (s : State) : Out :=
  .next (s.uniformly x [x.a] fun s =>
    if 62 ≤ s.cur.cntC then s.stall (.counterFull 2)
    else
      let a := (s.cur.ua x).toNat
      if a % 64 != 0 then s.uniformFault x 0x04 a 0x00
      else
        s.uniformRead x a 64 fun s rec_ =>
          let d : Draw :=
            { die := s.cur.id.die, g := s.cur.id, launch := s.cur.launch, part := s.cur.part, rec_ := rec_, phase := .queued
              status := 0, pixels := 0, redo := 0, rejected := 0, due := s.clock.cycle + drawTrip }
          let s := { s with eng := { s.eng with draws := s.eng.draws ++ [d] } }
          ({ s with cur := s.cur.addCount 2 }).done x [x.a])

end Sys2Proof.Machine
end

