-- ==== Sys2Proof/Machine/Stackev.lean ====
section
/-!
DEFINITION. The stacks at work: the channel scheduler and its frames (R44-R48), power states (R49-R51), scrub (R53) and the
remap table with its fences (R54-R56).
-/

namespace Sys2Proof.Machine

open Sys2Proof

/-! ### Channels and frames (R46) -/

/-- The state of a channel: a pseudo-channel 0-63 or a tier channel 64-71. -/
def State.chan (s : State) (stack ch : Nat) : PChan := Tab.getD (s.stack stack).pcs ch PChan.empty

def State.setChan (s : State) (stack ch : Nat) (c : PChan) : State :=
  s.setStack stack { s.stack stack with pcs := Tab.set ch c (s.stack stack).pcs }

/-- Logic-die cycles since reset (R4). -/
def State.logicCycle (s : State) : Nat := s.clock.cycle * 16 / 27

/-- Logic-die cycles as core cycles, rounded up (R4). -/
def logicToCore (n : Nat) : Nat := (n * 27 + 15) / 16

/-- The slot of the frame that now stands, 0-63, and the number of the frame. -/
def State.slotNow (s : State) : Nat := s.logicCycle % 1024 / 16
def State.frameNow (s : State) : Nat := s.logicCycle / 1024

/-- The partition that owns a slot of a channel. -/
def State.slotOwner (s : State) (stack ch slot : Nat) : Option Nat :=
  (s.parts.find? fun (e : Nat × Part) => (e.2.slotMask stack ch).testBit slot).map fun e => e.1

/-- How many of the logic-die cycles before t lie in a partition's slots of a channel (R46). -/
def ownCycles (mask t : Nat) : Nat :=
  let now := t % 1024 / 16
  t / 1024 * 16 * popCount 51 mask + 16 * popCount now (mask % 2 ^ now) + (if mask.testBit now then t % 16 else 0)

/-- Whether the slot that now stands still pays for an overrun charged to its owner (R46). -/
def State.paying (s : State) (stack ch p : Nat) : Bool :=
  ownCycles ((s.part p).slotMask stack ch) s.logicCycle < Tab.getD (s.chan stack ch).debt p 0

/-- The overruns charged to a partition after a request of n atom-times that begins in its slot: what of it falls into slots of
others (R46). -/
def State.overrunDebt (s : State) (stack ch p n : Nat) : Nat :=
  let own := ownCycles ((s.part p).slotMask stack ch)
  let t := s.logicCycle
  max (Tab.getD (s.chan stack ch).debt p 0) (own t) + (n - (own (t + n) - own t))

/-- The first request that satisfies a test, with those that stay. -/
def takeFirst (f : MemReq → Bool) : List MemReq → Option (MemReq × List MemReq)
  | [] => none
  | r :: l => if f r then some (r, l) else (takeFirst f l).map fun e => (e.1, r :: e.2)

/-- Whether a launch may take n atoms on a channel under its charge (R148): a channel on which its partition owns no slot is
charged nothing. -/
def State.charged (s : State) (l : Launch) (stack ch n : Nat) : Bool :=
  let cs := (s.part l.part).channels
  if cs.contains (stack, ch) then n * cs.length ≤ l.p.groups * l.p.kib * 32 else n = 0

/-- Whether a request is surplus (R148): with it its launch exceeds its charge on the channel. -/
def State.surplus (s : State) (stack ch : Nat) (r : MemReq) : Bool :=
  match r.launch.bind s.launch? with
  | some l => !s.charged l stack ch (Tab.getD l.atoms (stack * 128 + ch) 0 + r.atoms.length)
  | none => false

/-- The request that the scheduler serves in a slot (R46, R148): in a reserved slot the owner's guaranteed requests under their
charge, unless the slot pays for an overrun, then any, oldest first; in the others best-effort requests only. -/
def State.pick (s : State) (stack ch : Nat) (q : List MemReq) : Option (MemReq × List MemReq) :=
  if 51 ≤ s.slotNow then takeFirst (fun r => !r.guaranteed) q
  else
    match s.slotOwner stack ch s.slotNow with
    | none => takeFirst (fun _ => true) q
    | some p =>
      if s.paying stack ch p then takeFirst (fun _ => true) q
      else
        match takeFirst (fun r => r.guaranteed && r.part == p && !s.surplus stack ch r) q with
        | some e => some e
        | none => takeFirst (fun _ => true) q

/-! ### The remap table (R54, R56) -/

/-- Whether a row is being copied to its spare (R55): accesses to it wait. -/
def State.copying (s : State) (p : Nat) : Bool :=
  match s.ctl.remapping with
  | some m => p < 12 * 2 ^ 36 && rowOf p == m.row
  | none => false

/-- An entry after the lookup of its row: a bad copy is rewritten from the good one. -/
def RemapEntry.looked (e : RemapEntry) : RemapEntry :=
  if e.badA && e.badB then e else { e with badA := false, badB := false }

/-- Fence a bank (R56): only an open one. The controller is told, and the reload from the persistent copy begins. -/
def State.fence (s : State) (stack pc bank : Nat) : State :=
  let k := s.stack stack
  let b := Tab.getD k.banks (pc * 16 + bank) ⟨.open_, []⟩
  if b.state != .open_ then s
  else
    (s.setStack stack { k with banks := Tab.set (pc * 16 + bank) { b with state := .fenced } k.banks }).report
      (.bankFenced stack pc bank)

/-- What an activate finds of an entry's copies: an uncorrectable error may have arisen in copy A or in copy B since (entry 9). -/
def RemapEntry.found (e : RemapEntry) (errors : Nat) : RemapEntry :=
  { e with badA := e.badA || errors.testBit 0, badB := e.badB || errors.testBit 1 }

/-- The activate of a row looks up the table (R54): an entry bad in both copies fences its bank. -/
def State.activate (s : State) (r : RowId) : State :=
  let k := s.stack r.stack
  match k.remap.find? fun e => e.row == r && e.live with
  | none => s
  | some e =>
    let e := e.found (Config.copyErrors s.free)
    let s := { s with free := s.free + 1 }
    let s := s.setStack r.stack { k with remap := k.remap.map fun x => if x.row == r && x.live then e.looked else x }
    if e.badA && e.badB then s.fence r.stack r.pc r.bank else s

/-! ### MEMORY_REQUEST (R45, R148) -/

/-- Count a launch's atoms on a channel; a guaranteed launch beyond its charge is marked *spread exceeded* (R148). -/
def State.countAtoms (s : State) (stack ch : Nat) (r : MemReq) : State :=
  match r.launch with
  | none => s
  | some q =>
    s.updLaunch q fun l =>
      { l with
        atoms := Tab.set (stack * 128 + ch) (Tab.getD l.atoms (stack * 128 + ch) 0 + r.atoms.length) l.atoms
        missMark := l.missMark || (l.p.cls = 0 && s.surplus stack ch r) }

/-- Serve a request whole (R45). -/
def State.serve (s : State) (stack ch : Nat) : State :=
  let c := s.chan stack ch
  if c.power != .active || s.clock.cycle < c.busy then s
  else
    match s.pick stack ch c.queue with
    | none => s
    | some (r, rest) =>
      if r.atoms.any s.copying then s
      else
        let debt :=
          if s.slotOwner stack ch s.slotNow == some r.part then Tab.set r.part (s.overrunDebt stack ch r.part r.cost) c.debt
          else c.debt
        let s := ((r.atoms.filter fun p => p < 12 * 2 ^ 36).map rowOf).eraseDups.foldl (fun s x => s.activate x) s
        let s := s.countAtoms stack ch r
        s.setChan stack ch { s.chan stack ch with
          queue := rest, busy := s.clock.cycle + logicToCore r.cost, debt := debt
          idle := if rest.isEmpty then s.clock.cycle else c.idle }

def execMemoryRequest (stack pc : Nat) (s : State) : Out := .next (s.serve stack pc)

/-! ### REFRESH_WINDOW (R48) -/

/-- The DRAM temperature of a stack in the last sample (R48). -/
def State.dramTemp (s : State) (stack : Nat) : Nat := s.ctl.sample.dram.getD stack 0

/-- The refresh that the slot that now stands may hold, counted from 1 over the frames, two to a frame: slots 60-63, and above
85 °C slots 56-59 as well (R48). -/
def State.refreshNow (s : State) (stack : Nat) : Option Nat :=
  if 60 ≤ s.slotNow then some (2 * s.frameNow + 2)
  else if 56 ≤ s.slotNow && 85 < s.dramTemp stack then some (2 * s.frameNow + 1)
  else none

/-- Whether a pseudo-channel's refresh is due: one that the slot may hold and that has not been made, outside self-refresh. -/
def State.refreshDue (s : State) (stack ch : Nat) : Bool :=
  ch < 64 && (s.chan stack ch).power != .selfrefresh
    && (match s.refreshNow stack with | some n => (s.chan stack ch).frame != n | none => false)

/-- One bank after another is refreshed, one a window. -/
def execRefreshWindow (stack pc : Nat) (s : State) : Out :=
  .next (
    if s.refreshDue stack pc then
      let c := s.chan stack pc
      s.setChan stack pc { c with refreshBank := (c.refreshBank + 1) % 16, frame := (s.refreshNow stack).getD 0 }
    else s)

/-! ### Power states (R49-R51) -/

/-- Whether the slice of a pseudo-channel holds live accumulators (R51, R80). -/
def State.sliceLive (s : State) (stack ch : Nat) : Bool := !(s.chan stack ch).accs.isEmpty

/-- Whether a channel's idle timer has reached a number of logic-die cycles in an earlier cycle: a request in the cycle in
which it does wins (R50). -/
def State.idleFor (s : State) (c : PChan) (n : Nat) : Bool := c.queue.isEmpty && c.idle + logicToCore n < s.clock.cycle

/-- Whether a checkpoint that an entry waits for has not ended (R51). -/
def State.saves (s : State) (c : PChan) : Bool := match c.saving with | some t => s.clock.cycle < t | none => false

/-- Entry into a power state (R51): live accumulators are checkpointed first, for 256 logic-die cycles; then the entry
proceeds. -/
def State.enterPower (s : State) (stack ch : Nat) (next : Power) : State :=
  let c := s.chan stack ch
  s.setChan stack ch (
    if s.sliceLive stack ch && c.saving.isNone then { c with saving := some (s.clock.cycle + logicToCore 256) }
    else { c with power := next, accs := [], checkpoint := c.checkpoint ++ c.accs, saving := none })

def State.powerdownDue (s : State) (stack ch : Nat) : Bool :=
  ch < 64 && (s.chan stack ch).power == .active && s.idleFor (s.chan stack ch) 64 && !s.saves (s.chan stack ch)

/-- POWERDOWN_ENTRY (R49, R51). -/
def execPowerdownEntry (stack pc : Nat) (s : State) : Out :=
  .next (if s.powerdownDue stack pc then s.enterPower stack pc .powerdown else s)

/-- Whether an `ldfe` waits at a channel (R59). -/
def State.feWaits (s : State) (stack ch : Nat) : Bool :=
  s.eng.ops.any fun (e : Nat × Op) =>
    match e.2.kind with
    | .ldfe ws => ws.any fun w => stackOf w.addr == stack && channelOf w.addr == ch
    | _ => false

/-- Whether a reserved slot of a channel belongs to a partition with an admitted guaranteed launch (R49). -/
def State.slotsLive (s : State) (stack ch : Nat) : Bool :=
  s.parts.any fun (e : Nat × Part) => e.2.slotMask stack ch != 0 &&
    s.launches.any fun (l : Nat × Launch) => l.2.part == e.1 && l.2.reserves

def State.selfrefreshDue (s : State) (stack ch : Nat) : Bool :=
  ch < 64 && (s.chan stack ch).power == .powerdown && s.idleFor (s.chan stack ch) 160000 && !s.slotsLive stack ch
    && !s.feWaits stack ch && !s.saves (s.chan stack ch)

/-- SELFREFRESH_ENTRY (R49, R51). -/
def execSelfrefreshEntry (stack pc : Nat) (s : State) : Out :=
  .next (if s.selfrefreshDue stack pc then s.enterPower stack pc .selfrefresh else s)

/-- An exit of n logic-die cycles (R49, R51): the slice is restored before the scheduler issues anything. -/
def State.wake (s : State) (stack ch : Nat) (from_ : Power) (n : Nat) : State :=
  let c := s.chan stack ch
  if c.power != from_ || c.queue.isEmpty then s
  else s.setChan stack ch { c with
    power := .active, accs := c.checkpoint ++ c.accs, checkpoint := [], busy := s.clock.cycle + logicToCore n }

def execPowerdownExit (stack pc : Nat) (s : State) : Out := .next (s.wake stack pc .powerdown 16)

def execSelfrefreshExit (stack pc : Nat) (s : State) : Out := .next (s.wake stack pc .selfrefresh 640)

/-! ### SCRUB (R52, R53) -/

/-- The key of a row in a stack's count of corrected errors. -/
def rowKey (r : RowId) : Nat := r.pc * 2 ^ 20 + r.bank * 2 ^ 16 + r.row

/-- A corrected error of a row; the sixteenth within a pass queues it for remap (R53). -/
def State.countCorrected (s : State) (r : RowId) : State :=
  let k := s.stack r.stack
  let n := Tab.getD k.corrected (rowKey r) 0 + 1
  let s := s.setStack r.stack { k with corrected := Tab.set (rowKey r) n k.corrected }
  if n = 16 then s.queueRemap r else s

/-- SCRUB (R53): a pass of a stack begins at its first atom. A corrected error is written back; an uncorrectable one leaves
the unit poison (R52). -/
def execScrub (addr : Nat) (found : ScrubRead) (s : State) : Out :=
  .next (
    if (unitOf addr).isNone then s
    else
      let hbm := addr < 12 * 2 ^ 36
      let s := if hbm && addr % 2 ^ 36 / 32 = 0 then
        s.setStack (stackOf addr) { s.stack (stackOf addr) with corrected := [] } else s
      match found with
      | .clean => s
      | .corrected => if hbm then s.countCorrected (rowOf addr) else s
      | .uncorrectable => s.markPoison (atomOf addr))

/-! ### Fenced banks (R56) -/

/-- The bank of a pseudo-channel. -/
def State.bank (s : State) (stack pc bank : Nat) : Bank := Tab.getD (s.stack stack).banks (pc * 16 + bank) ⟨.open_, []⟩

def State.setBank (s : State) (stack pc bank : Nat) (b : Bank) : State :=
  s.setStack stack { s.stack stack with banks := Tab.set (pc * 16 + bank) b (s.stack stack).banks }

/-- REMAP_RELOAD_COMPLETE (R56): with a correct persistent copy both SRAM copies of the bank's entries are rewritten and the
bank is scrubbed; otherwise it has failed. -/
def execRemapReloadComplete (stack pc bank : Nat) (correct : Bool) (s : State) : Out :=
  .next (
    let b := s.bank stack pc bank
    if b.state != .fenced then s
    else if correct then
      let s := s.setBank stack pc bank { b with state := .scrubbing }
      s.setStack stack { s.stack stack with remap := (s.stack stack).remap.map fun e =>
        if e.row.pc == pc && e.row.bank == bank then { e with badA := false, badB := false } else e }
    else
      let s := s.setStack stack { s.stack stack with remap := (s.stack stack).remap.map fun e =>
        if e.row.pc == pc && e.row.bank == bank then { e with badP := true } else e }
      (s.setBank stack pc bank { b with state := .failed }).report (.bankFailed stack pc bank))

/-- BANK_SCRUB_COMPLETE (R56): the atoms of the fence log are poison, the log is cleared and the bank reopens. -/
def execBankScrubComplete (stack pc bank : Nat) (s : State) : Out :=
  .next (
    let b := s.bank stack pc bank
    if b.state != .scrubbing then s
    else (b.log.foldl (fun s a => s.markPoison a) s).setBank stack pc bank ⟨.open_, []⟩)

end Sys2Proof.Machine
end

