-- ==== Sys2Proof/Machine/OpcodeMap.lean ====
section
/-!
DEFINITION. The opcode map of spec/15 (R299, R300) as one table: for each opcode and sub-function code the accepted
element types, the default, the U mode, the operand fields used, and the MODA, MODB and IMM8 rules; and the two
directions between (opcode, sub-function, fields) and Instr.
-/

namespace Sys2Proof

/-- The U modes of R292. -/
inductive UMode where | v | one | zero
  deriving DecidableEq, Repr

/-- How a row uses its D field (R289, R299). -/
inductive DKind where | none | any | v | g | pred | acc
  deriving DecidableEq, Repr

/-- How a row uses an A, B or C field: unused, any register, a `v` or `g` register, `g0`-`g23` (R381), or the high
bits of a special-register selector (R299). -/
inductive SKind where | none | any | v | g | gLow | sel
  deriving DecidableEq, Repr

/-- The MODA marks of R293. -/
inductive MAKind where | none | round | scope | cls
  deriving DecidableEq, Repr

/-- The MODB marks of R294. -/
inductive MBKind where | none | policy | sat
  deriving DecidableEq, Repr

/-- The element-type classes of R298, and the narrower sets that single rows name. -/
inductive ETKind where | none | int | flt | all | to11 | from9to11 | from9to13 | from9to14 | only14 | from4to7 | mma | mmas
  deriving DecidableEq, Repr

/-- The IMM8 rules of R299 and the instruction chapters. -/
inductive ImmKind where
  | zero | any | pred | subElem | cvtSrc | idx95 | excl | bit0 | nib | paths | fmtB | fmtBs | tile | note | sync | sel
  deriving DecidableEq, Repr

/-- One sub-function of one row of the opcode map (R299). -/
structure Row where
  et : ETKind
  dflt : ET
  u : UMode
  d : DKind
  a : SKind
  b : SKind
  c : SKind
  moda : MAKind
  modb : MBKind
  imm : ImmKind
  deriving DecidableEq, Repr

/-- Whether a class accepts an element type (R298). -/
def ETKind.accepts (k : ETKind) (e : ET) : Bool :=
  match k with
  | .none => e.code == 0
  | .int => e.code < 8
  | .flt => 8 ≤ e.code && e.code ≤ 11
  | .all => true
  | .to11 => e.code ≤ 11
  | .from9to11 => 9 ≤ e.code && e.code ≤ 11
  | .from9to13 => 9 ≤ e.code && e.code ≤ 13
  | .from9to14 => 9 ≤ e.code
  | .only14 => e.code == 14
  | .from4to7 => 4 ≤ e.code && e.code ≤ 7
  | .mma => e.code == 0 || e.code == 1 || 10 ≤ e.code
  | .mmas => e.code == 0 || 12 ≤ e.code

/-- Whether MODA is within the range of a mark (R293). -/
def MAKind.accepts (k : MAKind) (m : Nat) : Bool :=
  match k with
  | .none => m == 0
  | .round | .scope | .cls => m ≤ 4

/-- Whether MODB is within the range of a mark (R294). -/
def MBKind.accepts (k : MBKind) (m : Nat) : Bool :=
  match k with
  | .none => m == 0
  | .policy => m ≤ 3
  | .sat => m ≤ 1

/-- Whether a 12-bit selector names a special register (R416). -/
def selKnown (s : Nat) : Bool :=
  s ≤ 0x006 || (0x010 ≤ s && s ≤ 0x015) || (0x020 ≤ s && s ≤ 0x022) || (0x030 ≤ s && s ≤ 0x034)
    || (0x040 ≤ s && s ≤ 0x044) || (0x080 ≤ s && s ≤ 0x08F) || (0x100 ≤ s && s ≤ 0x107)
    || (0x110 ≤ s && s ≤ 0x116) || (0x120 ≤ s && s ≤ 0x12B)

/-- Whether IMM8 is within the range its row states, under step 8 of R301. `c` is the C field's code (the selector's
high bits), `moda` the scope (R370). -/
def ImmKind.accepts (k : ImmKind) (e : ET) (moda c m : Nat) : Bool :=
  match k with
  | .zero => m == 0
  | .any => true
  | .pred => m ≤ 7
  | .subElem => m ≤ 15 && m < e.count
  | .cvtSrc => m ≤ 14
  | .idx95 => m ≤ 95
  | .excl => m % 128 == 0
  | .bit0 => m ≤ 1
  | .nib => m ≤ 15
  | .paths => m % 16 ≤ 6 && m / 16 ≤ 6
  | .fmtB => m == 0 || m == 1 || (10 ≤ m && m ≤ 14)
  | .fmtBs => m == 0 || (12 ≤ m && m ≤ 14)
  | .tile => m ≤ 3
  | .note => m ≤ 7
  | .sync => m == 1 || (m == 0 && moda == 0)
  | .sel => c < 16 && selKnown (c * 256 + m)


/-- The row of the opcode map for an opcode and a sub-function code of the ordinary form; none where the opcode is
reserved (R300), has another form, or leaves the sub-function unassigned. -/
def rowOf (opc fn : Nat) : Option Row :=
  match opc, fn with
  | 0x00, 0 => some ⟨.none, .z8, .zero, .none, .none, .none, .none, .none, .none, .zero⟩
  | 0x01, 0 => some ⟨.int, .s32, .v, .any, .any, .any, .none, .none, .sat, .zero⟩
  | 0x02, 0 => some ⟨.int, .s32, .v, .any, .any, .any, .none, .none, .sat, .zero⟩
  | 0x03, 0 => some ⟨.int, .s32, .v, .any, .any, .any, .none, .none, .sat, .zero⟩
  | 0x03, 1 => some ⟨.int, .s32, .v, .any, .any, .any, .none, .none, .none, .zero⟩
  | 0x04, 0 => some ⟨.int, .s32, .v, .any, .any, .any, .any, .none, .sat, .zero⟩
  | 0x04, 1 => some ⟨.int, .s32, .v, .any, .any, .any, .any, .none, .none, .zero⟩
  | 0x05, 0 => some ⟨.int, .s32, .v, .any, .any, .any, .none, .none, .none, .zero⟩
  | 0x05, 1 => some ⟨.int, .s32, .v, .any, .any, .any, .none, .none, .none, .zero⟩
  | 0x06, 0 => some ⟨.int, .s32, .v, .any, .any, .any, .none, .none, .none, .zero⟩
  | 0x07, 0 => some ⟨.int, .s32, .v, .any, .any, .any, .none, .none, .none, .zero⟩
  | 0x08, 0 => some ⟨.int, .s32, .v, .any, .any, .none, .none, .none, .sat, .zero⟩
  | 0x08, 1 => some ⟨.int, .s32, .v, .any, .any, .none, .none, .none, .sat, .zero⟩
  | 0x09, 0 => some ⟨.int, .s32, .v, .any, .any, .any, .none, .none, .sat, .zero⟩
  | 0x0A, 0 => some ⟨.int, .s32, .v, .any, .any, .any, .none, .none, .none, .zero⟩
  | 0x0B, 0 => some ⟨.int, .s32, .v, .any, .any, .any, .none, .none, .none, .zero⟩
  | 0x0C, 0 => some ⟨.int, .s32, .v, .any, .any, .any, .none, .none, .none, .zero⟩
  | 0x0C, 1 => some ⟨.int, .s32, .v, .any, .any, .any, .none, .none, .none, .zero⟩
  | 0x0D, 0 => some ⟨.int, .s32, .zero, .pred, .any, .any, .none, .none, .none, .zero⟩
  | 0x0D, 1 => some ⟨.int, .s32, .zero, .pred, .any, .any, .none, .none, .none, .zero⟩
  | 0x0D, 2 => some ⟨.int, .s32, .zero, .pred, .any, .any, .none, .none, .none, .zero⟩
  | 0x0D, 3 => some ⟨.int, .s32, .zero, .pred, .any, .any, .none, .none, .none, .zero⟩
  | 0x0D, 4 => some ⟨.int, .s32, .zero, .pred, .any, .any, .none, .none, .none, .zero⟩
  | 0x0D, 5 => some ⟨.int, .s32, .zero, .pred, .any, .any, .none, .none, .none, .zero⟩
  | 0x0E, 0 => some ⟨.all, .s32, .v, .any, .any, .any, .none, .none, .none, .pred⟩
  | 0x0F, 0 => some ⟨.int, .s32, .v, .any, .any, .any, .any, .none, .sat, .zero⟩
  | 0x0F, 1 => some ⟨.int, .s32, .v, .any, .any, .any, .any, .none, .sat, .zero⟩
  | 0x10, 0 => some ⟨.int, .s32, .v, .any, .any, .any, .any, .none, .none, .zero⟩
  | 0x11, 0 => some ⟨.int, .s32, .v, .any, .any, .any, .any, .none, .none, .zero⟩
  | 0x12, 0 => some ⟨.int, .s32, .v, .any, .any, .none, .none, .none, .none, .zero⟩
  | 0x12, 1 => some ⟨.int, .s32, .v, .any, .any, .none, .none, .none, .none, .zero⟩
  | 0x12, 2 => some ⟨.int, .s32, .v, .any, .any, .none, .none, .none, .none, .zero⟩
  | 0x12, 3 => some ⟨.int, .s32, .v, .any, .any, .none, .none, .none, .none, .zero⟩
  | 0x13, 0 => some ⟨.int, .s32, .v, .any, .any, .any, .any, .none, .none, .any⟩
  | 0x14, 0 => some ⟨.int, .s32, .v, .any, .any, .any, .none, .none, .none, .zero⟩
  | 0x15, 0 => some ⟨.int, .s32, .v, .any, .any, .any, .none, .none, .none, .zero⟩
  | 0x16, 0 => some ⟨.int, .s32, .v, .any, .any, .any, .none, .none, .none, .zero⟩
  | 0x17, 0 => some ⟨.int, .s32, .v, .any, .any, .any, .any, .none, .none, .zero⟩
  | 0x17, 1 => some ⟨.int, .s32, .v, .any, .any, .any, .none, .none, .none, .zero⟩
  | 0x18, 0 => some ⟨.flt, .f32, .v, .any, .any, .any, .none, .round, .sat, .zero⟩
  | 0x19, 0 => some ⟨.flt, .f32, .v, .any, .any, .any, .none, .round, .sat, .zero⟩
  | 0x1A, 0 => some ⟨.flt, .f32, .v, .any, .any, .any, .none, .round, .sat, .zero⟩
  | 0x1B, 0 => some ⟨.flt, .f32, .v, .any, .any, .any, .any, .round, .sat, .zero⟩
  | 0x1C, 0 => some ⟨.flt, .f32, .v, .any, .any, .any, .none, .none, .none, .zero⟩
  | 0x1D, 0 => some ⟨.flt, .f32, .v, .any, .any, .any, .none, .none, .none, .zero⟩
  | 0x1E, 0 => some ⟨.flt, .f32, .zero, .pred, .any, .any, .none, .none, .none, .zero⟩
  | 0x1E, 1 => some ⟨.flt, .f32, .zero, .pred, .any, .any, .none, .none, .none, .zero⟩
  | 0x1E, 2 => some ⟨.flt, .f32, .zero, .pred, .any, .any, .none, .none, .none, .zero⟩
  | 0x1E, 3 => some ⟨.flt, .f32, .zero, .pred, .any, .any, .none, .none, .none, .zero⟩
  | 0x1E, 4 => some ⟨.flt, .f32, .zero, .pred, .any, .any, .none, .none, .none, .zero⟩
  | 0x1E, 5 => some ⟨.flt, .f32, .zero, .pred, .any, .any, .none, .none, .none, .zero⟩
  | 0x1E, 6 => some ⟨.flt, .f32, .zero, .pred, .any, .any, .none, .none, .none, .zero⟩
  | 0x1E, 7 => some ⟨.flt, .f32, .zero, .pred, .any, .any, .none, .none, .none, .zero⟩
  | 0x1F, 0 => some ⟨.flt, .f32, .v, .any, .any, .none, .none, .none, .none, .zero⟩
  | 0x1F, 1 => some ⟨.flt, .f32, .v, .any, .any, .none, .none, .none, .none, .zero⟩
  | 0x1F, 2 => some ⟨.flt, .f32, .v, .any, .any, .any, .none, .none, .none, .zero⟩
  | 0x20, 0 => some ⟨.flt, .f32, .v, .any, .any, .none, .none, .round, .none, .zero⟩
  | 0x21, 0 => some ⟨.flt, .f32, .v, .any, .any, .none, .none, .round, .none, .zero⟩
  | 0x22, 0 => some ⟨.flt, .f32, .v, .any, .any, .none, .none, .round, .none, .zero⟩
  | 0x23, 0 => some ⟨.flt, .f32, .v, .any, .any, .any, .none, .round, .none, .zero⟩
  | 0x24, 0 => some ⟨.from9to11, .f32, .v, .any, .any, .none, .none, .none, .none, .zero⟩
  | 0x24, 1 => some ⟨.from9to11, .f32, .v, .any, .any, .none, .none, .none, .none, .zero⟩
  | 0x24, 2 => some ⟨.from9to11, .f32, .v, .any, .any, .none, .none, .none, .none, .zero⟩
  | 0x24, 3 => some ⟨.from9to11, .f32, .v, .any, .any, .none, .none, .none, .none, .zero⟩
  | 0x24, 4 => some ⟨.from9to11, .f32, .v, .any, .any, .none, .none, .none, .none, .zero⟩
  | 0x24, 5 => some ⟨.from9to11, .f32, .v, .any, .any, .none, .none, .none, .none, .zero⟩
  | 0x25, 0 => some ⟨.flt, .f32, .v, .any, .any, .none, .none, .none, .none, .zero⟩
  | 0x26, 0 => some ⟨.flt, .f32, .v, .any, .any, .none, .none, .none, .none, .zero⟩
  | 0x26, 1 => some ⟨.flt, .f32, .v, .any, .any, .none, .none, .none, .none, .zero⟩
  | 0x26, 2 => some ⟨.flt, .f32, .v, .any, .any, .none, .none, .none, .none, .zero⟩
  | 0x26, 3 => some ⟨.flt, .f32, .v, .any, .any, .none, .none, .none, .none, .zero⟩
  | 0x27, 0 => some ⟨.from9to14, .f32, .v, .any, .any, .any, .any, .round, .none, .zero⟩
  | 0x28, 0 => some ⟨.all, .f32, .v, .any, .any, .none, .none, .round, .none, .cvtSrc⟩
  | 0x29, 0 => some ⟨.to11, .s32, .v, .any, .any, .any, .none, .none, .none, .zero⟩
  | 0x29, 1 => some ⟨.to11, .s32, .v, .any, .any, .any, .none, .none, .none, .zero⟩
  | 0x2A, 0 => some ⟨.to11, .s32, .v, .any, .any, .none, .none, .none, .none, .zero⟩
  | 0x2A, 1 => some ⟨.to11, .s32, .v, .any, .any, .none, .none, .none, .none, .zero⟩
  | 0x2B, 0 => some ⟨.none, .z8, .v, .any, .any, .any, .none, .none, .none, .zero⟩
  | 0x2C, 0 => some ⟨.all, .s32, .v, .any, .any, .any, .none, .none, .none, .subElem⟩
  | 0x2D, 0 => some ⟨.all, .s32, .v, .any, .any, .none, .none, .none, .none, .subElem⟩
  | 0x2E, 0 => some ⟨.only14, .e2m1, .v, .any, .any, .any, .none, .none, .none, .zero⟩
  | 0x2E, 1 => some ⟨.only14, .e2m1, .v, .any, .any, .any, .none, .round, .none, .zero⟩
  | 0x2F, 0 => some ⟨.all, .s32, .v, .any, .any, .none, .none, .none, .none, .zero⟩
  | 0x2F, 1 => some ⟨.all, .s32, .v, .any, .none, .any, .none, .none, .none, .zero⟩
  | 0x2F, 2 => some ⟨.all, .s32, .v, .any, .g, .none, .none, .none, .none, .idx95⟩
  | 0x2F, 3 => some ⟨.all, .s32, .v, .none, .g, .any, .none, .none, .none, .idx95⟩
  | 0x30, 0 => some ⟨.all, .s32, .v, .any, .any, .none, .none, .none, .none, .zero⟩
  | 0x31, 0 => some ⟨.all, .s32, .v, .any, .any, .none, .none, .none, .none, .zero⟩
  | 0x32, 0 => some ⟨.all, .s32, .v, .any, .any, .any, .none, .none, .none, .subElem⟩
  | 0x33, 0 => some ⟨.all, .s32, .v, .any, .any, .any, .none, .none, .none, .subElem⟩
  | 0x34, 0 => some ⟨.to11, .s32, .v, .any, .any, .none, .none, .none, .none, .excl⟩
  | 0x34, 1 => some ⟨.to11, .s32, .v, .any, .any, .none, .none, .none, .none, .excl⟩
  | 0x34, 2 => some ⟨.to11, .s32, .v, .any, .any, .none, .none, .none, .none, .excl⟩
  | 0x34, 3 => some ⟨.int, .s32, .v, .any, .any, .none, .none, .none, .none, .excl⟩
  | 0x34, 4 => some ⟨.int, .s32, .v, .any, .any, .none, .none, .none, .none, .excl⟩
  | 0x34, 5 => some ⟨.int, .s32, .v, .any, .any, .none, .none, .none, .none, .excl⟩
  | 0x35, 0 => some ⟨.to11, .s32, .one, .g, .any, .none, .none, .none, .none, .zero⟩
  | 0x35, 1 => some ⟨.to11, .s32, .one, .g, .any, .none, .none, .none, .none, .zero⟩
  | 0x35, 2 => some ⟨.to11, .s32, .one, .g, .any, .none, .none, .none, .none, .zero⟩
  | 0x35, 3 => some ⟨.int, .s32, .one, .g, .any, .none, .none, .none, .none, .zero⟩
  | 0x35, 4 => some ⟨.int, .s32, .one, .g, .any, .none, .none, .none, .none, .zero⟩
  | 0x35, 5 => some ⟨.int, .s32, .one, .g, .any, .none, .none, .none, .none, .zero⟩
  | 0x36, 0 => some ⟨.none, .z8, .zero, .pred, .any, .none, .none, .none, .none, .zero⟩
  | 0x36, 1 => some ⟨.none, .z8, .zero, .pred, .any, .none, .none, .none, .none, .zero⟩
  | 0x36, 2 => some ⟨.none, .z8, .one, .g, .any, .none, .none, .none, .none, .zero⟩
  | 0x37, 0 => some ⟨.all, .s32, .v, .any, .any, .none, .none, .none, .none, .zero⟩
  | 0x3B, 0 => some ⟨.none, .z8, .zero, .none, .none, .none, .none, .none, .none, .zero⟩
  | 0x3D, 0 => some ⟨.none, .z8, .zero, .none, .none, .any, .none, .none, .none, .zero⟩
  | 0x3E, 0 => some ⟨.none, .z8, .zero, .none, .none, .none, .none, .none, .none, .zero⟩
  | 0x3F, 0 => some ⟨.none, .z8, .zero, .none, .none, .none, .none, .none, .none, .zero⟩
  | 0x3F, 1 => some ⟨.none, .z8, .zero, .none, .any, .none, .none, .none, .none, .zero⟩
  | 0x40, 0 => some ⟨.int, .z32, .v, .any, .any, .any, .none, .none, .policy, .zero⟩
  | 0x41, 0 => some ⟨.int, .z32, .zero, .none, .any, .any, .any, .none, .policy, .zero⟩
  | 0x42, 0 => some ⟨.int, .z32, .v, .any, .any, .any, .none, .none, .none, .zero⟩
  | 0x43, 0 => some ⟨.int, .z32, .zero, .none, .any, .any, .any, .none, .none, .zero⟩
  | 0x44, 0 => some ⟨.int, .z32, .v, .any, .any, .any, .none, .none, .none, .zero⟩
  | 0x45, 0 => some ⟨.int, .z32, .zero, .none, .any, .any, .any, .none, .none, .zero⟩
  | 0x46, 0 => some ⟨.none, .z8, .zero, .none, .any, .any, .none, .none, .none, .zero⟩
  | 0x47, 0 => some ⟨.none, .z8, .zero, .none, .any, .any, .none, .none, .policy, .zero⟩
  | 0x48, 0 => some ⟨.none, .z8, .one, .none, .any, .any, .any, .none, .none, .bit0⟩
  | 0x49, 0 => some ⟨.none, .z8, .one, .none, .any, .none, .none, .none, .none, .zero⟩
  | 0x4A, 0 => some ⟨.none, .z8, .one, .none, .any, .none, .none, .none, .none, .zero⟩
  | 0x4B, 0 => some ⟨.none, .z8, .one, .none, .any, .none, .none, .none, .none, .zero⟩
  | 0x4C, 0 => some ⟨.none, .z8, .one, .none, .none, .none, .none, .scope, .none, .zero⟩
  | 0x4C, 1 => some ⟨.none, .z8, .one, .none, .none, .none, .none, .none, .none, .paths⟩
  | 0x4C, 2 => some ⟨.none, .z8, .one, .none, .any, .any, .none, .scope, .none, .zero⟩
  | 0x4D, 0 => some ⟨.none, .z8, .one, .none, .any, .any, .any, .none, .none, .zero⟩
  | 0x4D, 1 => some ⟨.none, .z8, .one, .none, .any, .any, .none, .none, .none, .zero⟩
  | 0x4E, 0 => some ⟨.none, .z8, .one, .none, .any, .any, .none, .scope, .none, .zero⟩
  | 0x4E, 1 => some ⟨.none, .z8, .one, .none, .any, .any, .none, .scope, .none, .zero⟩
  | 0x4E, 2 => some ⟨.none, .z8, .one, .none, .any, .any, .none, .scope, .none, .zero⟩
  | 0x4F, 0 => some ⟨.none, .z8, .one, .none, .any, .any, .none, .scope, .none, .zero⟩
  | 0x4F, 1 => some ⟨.none, .z8, .one, .none, .any, .any, .none, .scope, .none, .zero⟩
  | 0x4F, 2 => some ⟨.none, .z8, .one, .none, .any, .any, .none, .scope, .none, .zero⟩
  | 0x50, 0 => some ⟨.from4to7, .z32, .v, .any, .any, .any, .none, .scope, .none, .sync⟩
  | 0x50, 1 => some ⟨.from4to7, .z32, .v, .any, .any, .any, .none, .scope, .none, .sync⟩
  | 0x50, 2 => some ⟨.from4to7, .z32, .v, .any, .any, .any, .none, .scope, .none, .sync⟩
  | 0x50, 3 => some ⟨.from4to7, .z32, .v, .any, .any, .any, .none, .scope, .none, .sync⟩
  | 0x50, 4 => some ⟨.from4to7, .z32, .v, .any, .any, .any, .none, .scope, .none, .sync⟩
  | 0x50, 5 => some ⟨.from4to7, .z32, .v, .any, .any, .any, .none, .scope, .none, .sync⟩
  | 0x50, 6 => some ⟨.from4to7, .z32, .v, .any, .any, .any, .none, .scope, .none, .sync⟩
  | 0x50, 7 => some ⟨.from4to7, .z32, .v, .any, .any, .any, .none, .scope, .none, .sync⟩
  | 0x50, 8 => some ⟨.from4to7, .z32, .v, .any, .any, .any, .none, .scope, .none, .sync⟩
  | 0x50, 9 => some ⟨.from4to7, .z32, .v, .any, .any, .any, .none, .scope, .none, .sync⟩
  | 0x50, 10 => some ⟨.from4to7, .z32, .v, .any, .any, .any, .none, .scope, .none, .sync⟩
  | 0x51, 0 => some ⟨.from4to7, .z32, .v, .any, .any, .any, .any, .scope, .none, .sync⟩
  | 0x52, 0 => some ⟨.none, .z8, .v, .any, .any, .any, .none, .none, .none, .zero⟩
  | 0x52, 1 => some ⟨.none, .z8, .v, .any, .any, .any, .none, .none, .none, .zero⟩
  | 0x52, 2 => some ⟨.none, .z8, .v, .any, .any, .any, .none, .none, .none, .zero⟩
  | 0x52, 3 => some ⟨.none, .z8, .v, .any, .any, .any, .none, .none, .none, .zero⟩
  | 0x53, 0 => some ⟨.from4to7, .z32, .v, .any, .any, .any, .none, .none, .none, .zero⟩
  | 0x53, 1 => some ⟨.from4to7, .z32, .v, .any, .any, .any, .none, .none, .none, .zero⟩
  | 0x53, 2 => some ⟨.from4to7, .z32, .v, .any, .any, .any, .none, .none, .none, .zero⟩
  | 0x53, 3 => some ⟨.from4to7, .z32, .v, .any, .any, .any, .none, .none, .none, .zero⟩
  | 0x53, 4 => some ⟨.from4to7, .z32, .v, .any, .any, .any, .none, .none, .none, .zero⟩
  | 0x53, 5 => some ⟨.from4to7, .z32, .v, .any, .any, .any, .none, .none, .none, .zero⟩
  | 0x53, 6 => some ⟨.from4to7, .z32, .v, .any, .any, .any, .none, .none, .none, .zero⟩
  | 0x53, 7 => some ⟨.from4to7, .z32, .v, .any, .any, .any, .none, .none, .none, .zero⟩
  | 0x53, 8 => some ⟨.from4to7, .z32, .v, .any, .any, .any, .none, .none, .none, .zero⟩
  | 0x53, 9 => some ⟨.from4to7, .z32, .v, .any, .any, .any, .none, .none, .none, .zero⟩
  | 0x53, 10 => some ⟨.from4to7, .z32, .v, .any, .any, .any, .none, .none, .none, .zero⟩
  | 0x54, 0 => some ⟨.none, .z8, .one, .none, .any, .none, .none, .none, .none, .zero⟩
  | 0x54, 1 => some ⟨.none, .z8, .one, .none, .any, .none, .none, .none, .none, .zero⟩
  | 0x54, 2 => some ⟨.none, .z8, .one, .none, .any, .none, .none, .none, .none, .zero⟩
  | 0x58, 0 => some ⟨.none, .z8, .zero, .none, .any, .none, .none, .none, .none, .nib⟩
  | 0x59, 0 => some ⟨.none, .z8, .v, .any, .none, .none, .none, .none, .none, .nib⟩
  | 0x59, 1 => some ⟨.none, .z8, .v, .any, .none, .none, .none, .none, .none, .nib⟩
  | 0x5A, 0 => some ⟨.none, .z8, .one, .g, .any, .none, .none, .none, .none, .nib⟩
  | 0x5A, 1 => some ⟨.none, .z8, .one, .g, .any, .none, .none, .none, .none, .nib⟩
  | 0x5B, 0 => some ⟨.none, .z8, .one, .g, .gLow, .none, .none, .none, .none, .zero⟩
  | 0x5C, 0 => some ⟨.none, .z8, .one, .none, .none, .none, .none, .none, .none, .bit0⟩
  | 0x5D, 0 => some ⟨.none, .z8, .one, .none, .none, .none, .none, .none, .none, .bit0⟩
  | 0x60, 0 => some ⟨.mma, .z8, .one, .acc, .v, .any, .none, .round, .none, .fmtB⟩
  | 0x61, 0 => some ⟨.mmas, .z8, .one, .acc, .v, .any, .v, .round, .none, .fmtBs⟩
  | 0x62, 0 => some ⟨.none, .z8, .one, .acc, .none, .none, .none, .none, .none, .zero⟩
  | 0x63, 0 => some ⟨.none, .z8, .one, .acc, .any, .any, .none, .none, .policy, .zero⟩
  | 0x64, 0 => some ⟨.none, .z8, .one, .acc, .any, .any, .none, .none, .policy, .zero⟩
  | 0x66, 0 => some ⟨.from9to11, .f32, .zero, .v, .any, .none, .none, .round, .none, .tile⟩
  | 0x68, 0 => some ⟨.none, .z8, .one, .none, .any, .g, .any, .cls, .none, .zero⟩
  | 0x69, 0 => some ⟨.none, .z8, .zero, .none, .v, .any, .none, .none, .none, .nib⟩
  | 0x69, 1 => some ⟨.none, .z8, .zero, .none, .v, .any, .none, .none, .none, .nib⟩
  | 0x6A, 0 => some ⟨.none, .z8, .v, .any, .v, .any, .none, .none, .none, .zero⟩
  | 0x6B, 0 => some ⟨.none, .z8, .v, .any, .v, .any, .none, .none, .none, .zero⟩
  | 0x6C, 0 => some ⟨.from9to13, .f32, .one, .none, .any, .any, .any, .none, .none, .zero⟩
  | 0x6D, 0 => some ⟨.none, .z8, .one, .none, .any, .any, .none, .none, .none, .zero⟩
  | 0x6D, 1 => some ⟨.none, .z8, .one, .none, .any, .none, .none, .none, .none, .note⟩
  | 0x6D, 2 => some ⟨.none, .z8, .one, .g, .any, .none, .none, .none, .none, .zero⟩
  | 0x6E, 0 => some ⟨.none, .z8, .one, .none, .any, .none, .none, .none, .none, .zero⟩
  | 0x70, 0 => some ⟨.none, .z8, .v, .any, .none, .none, .sel, .none, .none, .sel⟩
  | 0x71, 0 => some ⟨.none, .z8, .one, .none, .any, .none, .sel, .none, .none, .sel⟩
  | 0x72, 0 => some ⟨.none, .z8, .one, .none, .none, .none, .none, .none, .none, .any⟩
  | 0x73, 0 => some ⟨.none, .z8, .one, .none, .none, .none, .none, .none, .none, .zero⟩
  | 0x74, 0 => some ⟨.none, .z8, .one, .none, .none, .none, .none, .none, .none, .zero⟩
  | 0x75, 0 => some ⟨.none, .z8, .one, .g, .any, .any, .none, .none, .none, .zero⟩
  | 0x76, 0 => some ⟨.none, .z8, .one, .none, .any, .any, .none, .scope, .none, .zero⟩
  | 0x77, 0 => some ⟨.none, .z8, .one, .none, .none, .none, .none, .none, .none, .zero⟩
  | 0x77, 1 => some ⟨.none, .z8, .one, .none, .none, .none, .none, .none, .none, .zero⟩
  | 0x77, 2 => some ⟨.none, .z8, .one, .none, .none, .none, .none, .none, .none, .any⟩
  | _, _ => none

/-- The instruction of an opcode, a sub-function code and the fields of an ordinary form (R299). -/
def instrOf (opc fn : Nat) (x : Ord) : Option Instr :=
  match opc, fn with
  | 0x00, 0 => some (.nop x)
  | 0x01, 0 => some (.add x)
  | 0x02, 0 => some (.sub x)
  | 0x03, 0 => some (.mul .lo x)
  | 0x03, 1 => some (.mul .hi x)
  | 0x04, 0 => some (.mad .lo x)
  | 0x04, 1 => some (.mad .hi x)
  | 0x05, 0 => some (.div .quotient x)
  | 0x05, 1 => some (.div .remainder x)
  | 0x06, 0 => some (.min x)
  | 0x07, 0 => some (.max x)
  | 0x08, 0 => some (.iabs .abs x)
  | 0x08, 1 => some (.iabs .neg x)
  | 0x09, 0 => some (.shl x)
  | 0x0A, 0 => some (.shr x)
  | 0x0B, 0 => some (.sar x)
  | 0x0C, 0 => some (.rot .left x)
  | 0x0C, 1 => some (.rot .right x)
  | 0x0D, 0 => some (.cmp .eq x)
  | 0x0D, 1 => some (.cmp .ne x)
  | 0x0D, 2 => some (.cmp .lt x)
  | 0x0D, 3 => some (.cmp .le x)
  | 0x0D, 4 => some (.cmp .gt x)
  | 0x0D, 5 => some (.cmp .ge x)
  | 0x0E, 0 => some (.sel x)
  | 0x0F, 0 => some (.addmin .addmin x)
  | 0x0F, 1 => some (.addmin .addmax x)
  | 0x10, 0 => some (.bfe x)
  | 0x11, 0 => some (.bfi x)
  | 0x12, 0 => some (.bits .clz x)
  | 0x12, 1 => some (.bits .popc x)
  | 0x12, 2 => some (.bits .brev x)
  | 0x12, 3 => some (.bits .ffs x)
  | 0x13, 0 => some (.bmux x)
  | 0x14, 0 => some (.and x)
  | 0x15, 0 => some (.or x)
  | 0x16, 0 => some (.xor x)
  | 0x17, 0 => some (.sad .sad x)
  | 0x17, 1 => some (.sad .avg x)
  | 0x18, 0 => some (.fadd x)
  | 0x19, 0 => some (.fsub x)
  | 0x1A, 0 => some (.fmul x)
  | 0x1B, 0 => some (.ffma x)
  | 0x1C, 0 => some (.fmin x)
  | 0x1D, 0 => some (.fmax x)
  | 0x1E, 0 => some (.fcmp .eq x)
  | 0x1E, 1 => some (.fcmp .ne x)
  | 0x1E, 2 => some (.fcmp .lt x)
  | 0x1E, 3 => some (.fcmp .le x)
  | 0x1E, 4 => some (.fcmp .gt x)
  | 0x1E, 5 => some (.fcmp .ge x)
  | 0x1E, 6 => some (.fcmp .un x)
  | 0x1E, 7 => some (.fcmp .ord x)
  | 0x1F, 0 => some (.fsgn .abs x)
  | 0x1F, 1 => some (.fsgn .neg x)
  | 0x1F, 2 => some (.fsgn .copysign x)
  | 0x20, 0 => some (.frcp x)
  | 0x21, 0 => some (.frsq x)
  | 0x22, 0 => some (.fsqrt x)
  | 0x23, 0 => some (.fdiv x)
  | 0x24, 0 => some (.fsf .exp2 x)
  | 0x24, 1 => some (.fsf .log2 x)
  | 0x24, 2 => some (.fsf .sin x)
  | 0x24, 3 => some (.fsf .cos x)
  | 0x24, 4 => some (.fsf .tanh x)
  | 0x24, 5 => some (.fsf .sigmoid x)
  | 0x25, 0 => some (.fclass x)
  | 0x26, 0 => some (.frnd .rne x)
  | 0x26, 1 => some (.frnd .rtz x)
  | 0x26, 2 => some (.frnd .rdn x)
  | 0x26, 3 => some (.frnd .rup x)
  | 0x27, 0 => some (.fdot x)
  | 0x28, 0 => some (.cvt x)
  | 0x29, 0 => some (.pack .lo x)
  | 0x29, 1 => some (.pack .hi x)
  | 0x2A, 0 => some (.unpack .lo x)
  | 0x2A, 1 => some (.unpack .hi x)
  | 0x2B, 0 => some (.perm x)
  | 0x2C, 0 => some (.ins x)
  | 0x2D, 0 => some (.ext x)
  | 0x2E, 0 => some (.bscale .decode x)
  | 0x2E, 1 => some (.bscale .encode x)
  | 0x2F, 0 => some (.mov .mov x)
  | 0x2F, 1 => some (.mov .movi x)
  | 0x2F, 2 => some (.mov .rdi x)
  | 0x2F, 3 => some (.mov .wri x)
  | 0x30, 0 => some (.xprev x)
  | 0x31, 0 => some (.xnext x)
  | 0x32, 0 => some (.xsel x)
  | 0x33, 0 => some (.xbcast x)
  | 0x34, 0 => some (.xscan .add x)
  | 0x34, 1 => some (.xscan .min x)
  | 0x34, 2 => some (.xscan .max x)
  | 0x34, 3 => some (.xscan .and x)
  | 0x34, 4 => some (.xscan .or x)
  | 0x34, 5 => some (.xscan .xor x)
  | 0x35, 0 => some (.xred .add x)
  | 0x35, 1 => some (.xred .min x)
  | 0x35, 2 => some (.xred .max x)
  | 0x35, 3 => some (.xred .and x)
  | 0x35, 4 => some (.xred .or x)
  | 0x35, 5 => some (.xred .xor x)
  | 0x36, 0 => some (.xvote .any x)
  | 0x36, 1 => some (.xvote .all x)
  | 0x36, 2 => some (.xvote .ballot x)
  | 0x37, 0 => some (.xmatch x)
  | 0x3B, 0 => some (.ret x)
  | 0x3D, 0 => some (.rejoin x)
  | 0x3E, 0 => some (.exit x)
  | 0x3F, 0 => some (.yield .yield x)
  | 0x3F, 1 => some (.yield .sleepUntil x)
  | 0x40, 0 => some (.ld x)
  | 0x41, 0 => some (.st x)
  | 0x42, 0 => some (.ldls x)
  | 0x43, 0 => some (.stls x)
  | 0x44, 0 => some (.ldfe x)
  | 0x45, 0 => some (.stfe x)
  | 0x46, 0 => some (.clrfe x)
  | 0x47, 0 => some (.pref x)
  | 0x48, 0 => some (.lsmap x)
  | 0x49, 0 => some (.lsunmap x)
  | 0x4A, 0 => some (.lswb x)
  | 0x4B, 0 => some (.lsinv x)
  | 0x4C, 0 => some (.fenceScope x)
  | 0x4C, 1 => some (.fencePath x)
  | 0x4C, 2 => some (.fenceView x)
  | 0x4D, 0 => some (.bind x)
  | 0x4D, 1 => some (.unbind x)
  | 0x4E, 0 => some (.acq .eq x)
  | 0x4E, 1 => some (.acq .ge x)
  | 0x4E, 2 => some (.acq .take x)
  | 0x4F, 0 => some (.rel .store x)
  | 0x4F, 1 => some (.rel .add x)
  | 0x4F, 2 => some (.rel .give x)
  | 0x50, 0 => some (.atom .add x)
  | 0x50, 1 => some (.atom .smin x)
  | 0x50, 2 => some (.atom .smax x)
  | 0x50, 3 => some (.atom .zmin x)
  | 0x50, 4 => some (.atom .zmax x)
  | 0x50, 5 => some (.atom .and x)
  | 0x50, 6 => some (.atom .or x)
  | 0x50, 7 => some (.atom .xor x)
  | 0x50, 8 => some (.atom .xchg x)
  | 0x50, 9 => some (.atom .inc x)
  | 0x50, 10 => some (.atom .dec x)
  | 0x51, 0 => some (.cas x)
  | 0x52, 0 => some (.fatom .addF32 x)
  | 0x52, 1 => some (.fatom .minF32 x)
  | 0x52, 2 => some (.fatom .maxF32 x)
  | 0x52, 3 => some (.fatom .addBf16 x)
  | 0x53, 0 => some (.atomls .add x)
  | 0x53, 1 => some (.atomls .smin x)
  | 0x53, 2 => some (.atomls .smax x)
  | 0x53, 3 => some (.atomls .zmin x)
  | 0x53, 4 => some (.atomls .zmax x)
  | 0x53, 5 => some (.atomls .and x)
  | 0x53, 6 => some (.atomls .or x)
  | 0x53, 7 => some (.atomls .xor x)
  | 0x53, 8 => some (.atomls .xchg x)
  | 0x53, 9 => some (.atomls .inc x)
  | 0x53, 10 => some (.atomls .dec x)
  | 0x54, 0 => some (.cbar .arriveWait x)
  | 0x54, 1 => some (.cbar .arrive x)
  | 0x54, 2 => some (.cbar .wait x)
  | 0x58, 0 => some (.qpush x)
  | 0x59, 0 => some (.qpop .blocking x)
  | 0x59, 1 => some (.qpop .try_ x)
  | 0x5A, 0 => some (.emit x)
  | 0x5A, 1 => some (.emitRec x)
  | 0x5B, 0 => some (.launch x)
  | 0x5C, 0 => some (.racq x)
  | 0x5D, 0 => some (.rrel x)
  | 0x60, 0 => some (.mma x)
  | 0x61, 0 => some (.mmas x)
  | 0x62, 0 => some (.mzero x)
  | 0x63, 0 => some (.mld x)
  | 0x64, 0 => some (.mst x)
  | 0x66, 0 => some (.mrd x)
  | 0x68, 0 => some (.ecmd x)
  | 0x69, 0 => some (.rsend .closest x)
  | 0x69, 1 => some (.rsend .any x)
  | 0x6A, 0 => some (.tex x)
  | 0x6B, 0 => some (.hgrid x)
  | 0x6C, 0 => some (.accld x)
  | 0x6D, 0 => some (.accAttach x)
  | 0x6D, 1 => some (.accDetach x)
  | 0x6D, 2 => some (.accVersion x)
  | 0x6E, 0 => some (.rast x)
  | 0x70, 0 => some (.rdsr x)
  | 0x71, 0 => some (.wrsr x)
  | 0x72, 0 => some (.trap x)
  | 0x73, 0 => some (.eret x)
  | 0x74, 0 => some (.brk x)
  | 0x75, 0 => some (.pfmap x)
  | 0x76, 0 => some (.tlbinv x)
  | 0x77, 0 => some (.traceOn x)
  | 0x77, 1 => some (.traceOff x)
  | 0x77, 2 => some (.traceMark x)
  | _, _ => none

/-- The opcode, sub-function code and fields of an ordinary-form instruction; none for the other forms and for the
events, which have no encoding (R299). -/
def Instr.ordinary : Instr → Option (Nat × Nat × Ord)
  | .nop x => some (0x00, 0, x)
  | .add x => some (0x01, 0, x)
  | .sub x => some (0x02, 0, x)
  | .mul .lo x => some (0x03, 0, x)
  | .mul .hi x => some (0x03, 1, x)
  | .mad .lo x => some (0x04, 0, x)
  | .mad .hi x => some (0x04, 1, x)
  | .div .quotient x => some (0x05, 0, x)
  | .div .remainder x => some (0x05, 1, x)
  | .min x => some (0x06, 0, x)
  | .max x => some (0x07, 0, x)
  | .iabs .abs x => some (0x08, 0, x)
  | .iabs .neg x => some (0x08, 1, x)
  | .shl x => some (0x09, 0, x)
  | .shr x => some (0x0A, 0, x)
  | .sar x => some (0x0B, 0, x)
  | .rot .left x => some (0x0C, 0, x)
  | .rot .right x => some (0x0C, 1, x)
  | .cmp .eq x => some (0x0D, 0, x)
  | .cmp .ne x => some (0x0D, 1, x)
  | .cmp .lt x => some (0x0D, 2, x)
  | .cmp .le x => some (0x0D, 3, x)
  | .cmp .gt x => some (0x0D, 4, x)
  | .cmp .ge x => some (0x0D, 5, x)
  | .sel x => some (0x0E, 0, x)
  | .addmin .addmin x => some (0x0F, 0, x)
  | .addmin .addmax x => some (0x0F, 1, x)
  | .bfe x => some (0x10, 0, x)
  | .bfi x => some (0x11, 0, x)
  | .bits .clz x => some (0x12, 0, x)
  | .bits .popc x => some (0x12, 1, x)
  | .bits .brev x => some (0x12, 2, x)
  | .bits .ffs x => some (0x12, 3, x)
  | .bmux x => some (0x13, 0, x)
  | .and x => some (0x14, 0, x)
  | .or x => some (0x15, 0, x)
  | .xor x => some (0x16, 0, x)
  | .sad .sad x => some (0x17, 0, x)
  | .sad .avg x => some (0x17, 1, x)
  | .fadd x => some (0x18, 0, x)
  | .fsub x => some (0x19, 0, x)
  | .fmul x => some (0x1A, 0, x)
  | .ffma x => some (0x1B, 0, x)
  | .fmin x => some (0x1C, 0, x)
  | .fmax x => some (0x1D, 0, x)
  | .fcmp .eq x => some (0x1E, 0, x)
  | .fcmp .ne x => some (0x1E, 1, x)
  | .fcmp .lt x => some (0x1E, 2, x)
  | .fcmp .le x => some (0x1E, 3, x)
  | .fcmp .gt x => some (0x1E, 4, x)
  | .fcmp .ge x => some (0x1E, 5, x)
  | .fcmp .un x => some (0x1E, 6, x)
  | .fcmp .ord x => some (0x1E, 7, x)
  | .fsgn .abs x => some (0x1F, 0, x)
  | .fsgn .neg x => some (0x1F, 1, x)
  | .fsgn .copysign x => some (0x1F, 2, x)
  | .frcp x => some (0x20, 0, x)
  | .frsq x => some (0x21, 0, x)
  | .fsqrt x => some (0x22, 0, x)
  | .fdiv x => some (0x23, 0, x)
  | .fsf .exp2 x => some (0x24, 0, x)
  | .fsf .log2 x => some (0x24, 1, x)
  | .fsf .sin x => some (0x24, 2, x)
  | .fsf .cos x => some (0x24, 3, x)
  | .fsf .tanh x => some (0x24, 4, x)
  | .fsf .sigmoid x => some (0x24, 5, x)
  | .fclass x => some (0x25, 0, x)
  | .frnd .rne x => some (0x26, 0, x)
  | .frnd .rtz x => some (0x26, 1, x)
  | .frnd .rdn x => some (0x26, 2, x)
  | .frnd .rup x => some (0x26, 3, x)
  | .fdot x => some (0x27, 0, x)
  | .cvt x => some (0x28, 0, x)
  | .pack .lo x => some (0x29, 0, x)
  | .pack .hi x => some (0x29, 1, x)
  | .unpack .lo x => some (0x2A, 0, x)
  | .unpack .hi x => some (0x2A, 1, x)
  | .perm x => some (0x2B, 0, x)
  | .ins x => some (0x2C, 0, x)
  | .ext x => some (0x2D, 0, x)
  | .bscale .decode x => some (0x2E, 0, x)
  | .bscale .encode x => some (0x2E, 1, x)
  | .mov .mov x => some (0x2F, 0, x)
  | .mov .movi x => some (0x2F, 1, x)
  | .mov .rdi x => some (0x2F, 2, x)
  | .mov .wri x => some (0x2F, 3, x)
  | .xprev x => some (0x30, 0, x)
  | .xnext x => some (0x31, 0, x)
  | .xsel x => some (0x32, 0, x)
  | .xbcast x => some (0x33, 0, x)
  | .xscan .add x => some (0x34, 0, x)
  | .xscan .min x => some (0x34, 1, x)
  | .xscan .max x => some (0x34, 2, x)
  | .xscan .and x => some (0x34, 3, x)
  | .xscan .or x => some (0x34, 4, x)
  | .xscan .xor x => some (0x34, 5, x)
  | .xred .add x => some (0x35, 0, x)
  | .xred .min x => some (0x35, 1, x)
  | .xred .max x => some (0x35, 2, x)
  | .xred .and x => some (0x35, 3, x)
  | .xred .or x => some (0x35, 4, x)
  | .xred .xor x => some (0x35, 5, x)
  | .xvote .any x => some (0x36, 0, x)
  | .xvote .all x => some (0x36, 1, x)
  | .xvote .ballot x => some (0x36, 2, x)
  | .xmatch x => some (0x37, 0, x)
  | .ret x => some (0x3B, 0, x)
  | .rejoin x => some (0x3D, 0, x)
  | .exit x => some (0x3E, 0, x)
  | .yield .yield x => some (0x3F, 0, x)
  | .yield .sleepUntil x => some (0x3F, 1, x)
  | .ld x => some (0x40, 0, x)
  | .st x => some (0x41, 0, x)
  | .ldls x => some (0x42, 0, x)
  | .stls x => some (0x43, 0, x)
  | .ldfe x => some (0x44, 0, x)
  | .stfe x => some (0x45, 0, x)
  | .clrfe x => some (0x46, 0, x)
  | .pref x => some (0x47, 0, x)
  | .lsmap x => some (0x48, 0, x)
  | .lsunmap x => some (0x49, 0, x)
  | .lswb x => some (0x4A, 0, x)
  | .lsinv x => some (0x4B, 0, x)
  | .fenceScope x => some (0x4C, 0, x)
  | .fencePath x => some (0x4C, 1, x)
  | .fenceView x => some (0x4C, 2, x)
  | .bind x => some (0x4D, 0, x)
  | .unbind x => some (0x4D, 1, x)
  | .acq .eq x => some (0x4E, 0, x)
  | .acq .ge x => some (0x4E, 1, x)
  | .acq .take x => some (0x4E, 2, x)
  | .rel .store x => some (0x4F, 0, x)
  | .rel .add x => some (0x4F, 1, x)
  | .rel .give x => some (0x4F, 2, x)
  | .atom .add x => some (0x50, 0, x)
  | .atom .smin x => some (0x50, 1, x)
  | .atom .smax x => some (0x50, 2, x)
  | .atom .zmin x => some (0x50, 3, x)
  | .atom .zmax x => some (0x50, 4, x)
  | .atom .and x => some (0x50, 5, x)
  | .atom .or x => some (0x50, 6, x)
  | .atom .xor x => some (0x50, 7, x)
  | .atom .xchg x => some (0x50, 8, x)
  | .atom .inc x => some (0x50, 9, x)
  | .atom .dec x => some (0x50, 10, x)
  | .cas x => some (0x51, 0, x)
  | .fatom .addF32 x => some (0x52, 0, x)
  | .fatom .minF32 x => some (0x52, 1, x)
  | .fatom .maxF32 x => some (0x52, 2, x)
  | .fatom .addBf16 x => some (0x52, 3, x)
  | .atomls .add x => some (0x53, 0, x)
  | .atomls .smin x => some (0x53, 1, x)
  | .atomls .smax x => some (0x53, 2, x)
  | .atomls .zmin x => some (0x53, 3, x)
  | .atomls .zmax x => some (0x53, 4, x)
  | .atomls .and x => some (0x53, 5, x)
  | .atomls .or x => some (0x53, 6, x)
  | .atomls .xor x => some (0x53, 7, x)
  | .atomls .xchg x => some (0x53, 8, x)
  | .atomls .inc x => some (0x53, 9, x)
  | .atomls .dec x => some (0x53, 10, x)
  | .cbar .arriveWait x => some (0x54, 0, x)
  | .cbar .arrive x => some (0x54, 1, x)
  | .cbar .wait x => some (0x54, 2, x)
  | .qpush x => some (0x58, 0, x)
  | .qpop .blocking x => some (0x59, 0, x)
  | .qpop .try_ x => some (0x59, 1, x)
  | .emit x => some (0x5A, 0, x)
  | .emitRec x => some (0x5A, 1, x)
  | .launch x => some (0x5B, 0, x)
  | .racq x => some (0x5C, 0, x)
  | .rrel x => some (0x5D, 0, x)
  | .mma x => some (0x60, 0, x)
  | .mmas x => some (0x61, 0, x)
  | .mzero x => some (0x62, 0, x)
  | .mld x => some (0x63, 0, x)
  | .mst x => some (0x64, 0, x)
  | .mrd x => some (0x66, 0, x)
  | .ecmd x => some (0x68, 0, x)
  | .rsend .closest x => some (0x69, 0, x)
  | .rsend .any x => some (0x69, 1, x)
  | .tex x => some (0x6A, 0, x)
  | .hgrid x => some (0x6B, 0, x)
  | .accld x => some (0x6C, 0, x)
  | .accAttach x => some (0x6D, 0, x)
  | .accDetach x => some (0x6D, 1, x)
  | .accVersion x => some (0x6D, 2, x)
  | .rast x => some (0x6E, 0, x)
  | .rdsr x => some (0x70, 0, x)
  | .wrsr x => some (0x71, 0, x)
  | .trap x => some (0x72, 0, x)
  | .eret x => some (0x73, 0, x)
  | .brk x => some (0x74, 0, x)
  | .pfmap x => some (0x75, 0, x)
  | .tlbinv x => some (0x76, 0, x)
  | .traceOn x => some (0x77, 0, x)
  | .traceOff x => some (0x77, 1, x)
  | .traceMark x => some (0x77, 2, x)
  | _ => none

/-- Whether an opcode of the map uses the branch form (R295): `br`, `jmp`, `call`, `mrst`. -/
def isBranchOpc (opc : Nat) : Bool := opc == 0x38 || opc == 0x39 || opc == 0x3A || opc == 0x65

/-- Whether an opcode is assigned (R299, R300). -/
def opcAssigned (opc : Nat) : Bool :=
  (rowOf opc 0).isSome || isBranchOpc opc || opc == 0x3C || opc == 0x55

end Sys2Proof
end

