-- ==== Sys2Proof/WellFormed.lean ====
section
/-!
DEFINITION. Which terms of Instr are instructions that an encoding exists for (spec/15 R287-R301): every field that the
row does not use holds its zero, every other is in the range its row names. Events carry no encoding and are well formed.
-/

namespace Sys2Proof

/-- D agrees with the row's use of it (R289, R292). -/
def DKind.ok (k : DKind) (o : Opd) : Bool :=
  match k with
  | .none => o.code == 0
  | .any => true
  | .v => !o.isG
  | .g => o.isG
  | .pred => o.code < 8
  | .acc => o.code < 4

/-- A or C agrees with the row's use of it (R289, R299, R381). -/
def SKind.ok (k : SKind) (o : Opd) : Bool :=
  match k with
  | .none => o.code == 0
  | .any => true
  | .v => !o.isG
  | .g => o.isG
  | .gLow => 96 ≤ o.code && o.code < 120
  | .sel => o.code < 16

/-- B agrees with the row's use of it: unused, any source, or a register of one kind (R287, R290). -/
def SKind.okB (k : SKind) (b : BSrc) : Bool :=
  match b with
  | .reg r => k.ok r
  | .imm _ | .lit _ => k == .any

/-- The form agrees with the fields: the 32-bit form holds the defaults of R288, and a literal makes the 96-bit form. -/
def formOk (r : Row) (fn : Nat) (x : Ord) : Bool :=
  match x.form, x.b with
  | .w32, .lit _ => false
  | .w32, _ => fn == 0 && x.et == r.dflt && x.imm == 0 && x.moda == 0 && x.modb == 0 && x.c == opd0 && x.pred == pred0
  | .w64, .lit _ => false
  | .w64, _ => true
  | .w96, .lit _ => true
  | .w96, _ => false

/-- An ordinary-form instruction is well formed against its row (R301). -/
def wfOrd (r : Row) (fn : Nat) (x : Ord) : Bool :=
  formOk r fn x && r.et.accepts x.et && r.moda.accepts x.moda.toNat && r.modb.accepts x.modb.toNat
    && r.d.ok x.d && r.a.ok x.a && r.b.okB x.b && r.c.ok x.c
    && r.imm.accepts x.et x.moda.toNat x.c.code x.imm.toNat

/-- A branch-form instruction names A only in an indirect form, whose OFFSET is zero (R295). -/
def wfBranch (indirect noOffset : Bool) (x : Branch) : Bool :=
  (indirect || x.a == opd0) && (!noOffset || x.off == 0)

/-- Well-formed instructions. Events are well formed: they have no encoding. -/
def Instr.wf (i : Instr) : Bool :=
  match i.ordinary with
  | some (opc, fn, x) =>
    match rowOf opc fn with
    | some r => wfOrd r fn x
    | none => false
  | none =>
    match i with
    | .br x | .jmp .direct x | .call .direct x | .mrstSet x => wfBranch false false x
    | .jmp .indirect x | .call .indirect x => wfBranch true true x
    | .mrstEnd x => wfBranch false true x
    | .switch _ et cases _ => (et == .z32 || et == .s32) && 1 ≤ cases.length && cases.length ≤ 8
    | _ => true

end Sys2Proof
end

