-- ==== Sys2Proof/Decode.lean ====
section
/-!
DEFINITION. The decoder of spec/15 (R284-R301), total on any bytes and refusing by name in the order of R301, and the
encoder written from the same encoding tables.
-/

namespace Sys2Proof

/-- Why an instruction does not decode: the steps of R301, and too few bytes. -/
inductive DecodeErr where
  /-- step 1: LEN is 11 -/
  | badLength
  /-- step 2: the opcode is reserved or 0x7F -/
  | reservedOpcode
  /-- step 3: the length is not allowed for the opcode -/
  | lengthNotAllowed
  /-- step 4: a second word of all ones -/
  | secondWordOnes
  /-- step 5: FN, or the sub-function in D, is unassigned -/
  | subFunction
  /-- step 6: ET is reserved or not accepted -/
  | elementType
  /-- step 7: MODA or MODB is outside its range -/
  | modifier
  /-- step 8: a field the row does not use is nonzero, or a named value is out of its range -/
  | unusedField
  /-- step 9: a `g` register where a `v` register is required, or the reverse -/
  | operandClass
  /-- step 10: the U bit disagrees with the U mode -/
  | uBit
  /-- the words end before the instruction does -/
  | short
  deriving DecidableEq, Repr

/-- The raw fields of an ordinary instruction (R285, R286); the second word's are the defaults in the 32-bit form. -/
structure Fields where
  form : Form
  opc : Nat
  d : Nat
  a : Nat
  b : Nat
  u : Nat
  k : Nat
  c : Nat
  kp : Nat
  pn : Nat
  et : Nat
  fn : Nat
  imm : Nat
  moda : Nat
  modb : Nat
  lit : Nat
  deriving DecidableEq, Repr

/-- Whether some sub-function of the opcode reads B as a source that may be a literal (R287, R290). -/
def opcReadsB (opc : Nat) : Bool :=
  (List.range 16).any fun fn => match rowOf opc fn with | some r => r.b == .any | none => false

/-- The fields of the first word. -/
def firstFields (form : Form) (w0 : Nat) : Fields where
  form := form
  opc := field w0 2 7
  d := field w0 9 7
  a := field w0 16 7
  b := field w0 23 7
  u := field w0 30 1
  k := field w0 31 1
  c := 0
  kp := 0
  pn := 0
  et := match rowOf (field w0 2 7) 0 with | some r => r.dflt.code | none => 0
  fn := 0
  imm := 0
  moda := 0
  modb := 0
  lit := 0

/-- The fields of the first and second words, and the literal (R286, R287). -/
def wideFields (form : Form) (w0 w1 lit : Nat) : Fields :=
  { firstFields form w0 with
    c := field w1 0 7
    kp := field w1 7 3
    pn := field w1 10 1
    et := field w1 11 4
    fn := field w1 15 4
    imm := field w1 19 8
    moda := field w1 27 3
    modb := field w1 30 2
    lit := lit }

/-- The B source that the fields name (R287, R290). -/
def Fields.bsrc (f : Fields) : BSrc :=
  if f.form == .w96 then .lit (BitVec.ofNat 32 f.lit)
  else if f.k == 1 then .imm (BitVec.ofNat 7 f.b)
  else .reg (Opd.ofCode f.b)

/-- The predicate of KP and PN. -/
def predOf (kp pn : Nat) : Pred := ⟨⟨kp % 8, by omega⟩, pn == 1⟩

/-- The typed fields of an ordinary instruction. -/
def Fields.ord (f : Fields) (e : ET) : Ord where
  form := f.form
  d := Opd.ofCode f.d
  a := Opd.ofCode f.a
  b := f.bsrc
  c := Opd.ofCode f.c
  pred := predOf f.kp f.pn
  et := e
  imm := BitVec.ofNat 8 f.imm
  moda := BitVec.ofNat 3 f.moda
  modb := BitVec.ofNat 2 f.modb

/-- Step 8 of R301 on the operand fields: an unused field is zero, the named zero parts of D, and K and B. -/
def Fields.zerosOk (f : Fields) (r : Row) : Bool :=
  (match r.d with | .none => f.d == 0 | .pred => f.d < 8 | .acc => f.d < 4 | _ => true)
    && (r.a != .none || f.a == 0)
    && (match r.b with
        | .any => f.form != .w96 || (f.k == 0 && f.b == 0)
        | .none => f.k == 0 && f.b == 0 && f.form != .w96
        | _ => f.k == 0 && f.form != .w96)
    && (match r.c with | .none => f.c == 0 | .sel => f.c < 16 | _ => true)

/-- Step 9 of R301: the register classes. -/
def Fields.classesOk (f : Fields) (r : Row) : Bool :=
  (match r.d with | .g => 96 ≤ f.d | .v => f.d < 96 | _ => true)
    && (match r.a with | .v => f.a < 96 | .g => 96 ≤ f.a | .gLow => 96 ≤ f.a && f.a < 120 | _ => true)
    && (match r.b with | .g => 96 ≤ f.b | _ => true)
    && (match r.c with | .v => f.c < 96 | _ => true)

/-- The U bit that a row and a D field ask for (R292). -/
def uBitOf (r : Row) (d : Nat) : Nat :=
  match r.u with
  | .one => 1
  | .zero => 0
  | .v => if 96 ≤ d then 1 else 0

/-- Steps 5 to 10 of R301 on an ordinary instruction. -/
def decodeFields (f : Fields) : Except DecodeErr Instr :=
  match rowOf f.opc f.fn with
  | none => .error .subFunction
  | some r =>
    match ET.ofCode f.et with
    | none => .error .elementType
    | some e =>
      if !r.et.accepts e || (r.imm == .cvtSrc && f.imm % 16 == 15) then .error .elementType
      else if !r.moda.accepts f.moda || !r.modb.accepts f.modb then .error .modifier
      else if !f.zerosOk r || !r.imm.accepts e f.moda f.c f.imm then .error .unusedField
      else if !f.classesOk r then .error .operandClass
      else if f.u != uBitOf r f.d then .error .uBit
      else
        match instrOf f.opc f.fn (f.ord e) with
        | some i => .ok i
        | none => .error .subFunction

/-- The branch form (R295). -/
def decodeBranch (w0 w1 : Nat) : Except DecodeErr Instr :=
  let opc := field w0 2 7
  let d := field w0 9 7
  let a := field w0 16 7
  let off := field w1 11 21
  let x : Branch := ⟨BitVec.ofNat 21 off, Opd.ofCode a, predOf (field w1 7 3) (field w1 10 1)⟩
  let clean := field w0 31 1 == 0 && field w0 23 7 == 0 && field w1 0 7 == 0
  let u := field w0 30 1
  if opc == 0x38 then
    if d != 0 then .error .subFunction
    else if !clean || a != 0 then .error .unusedField
    else if u != 0 then .error .uBit
    else .ok (.br x)
  else if 2 ≤ d then .error .subFunction
  else if opc == 0x65 then
    if !clean || a != 0 || (d == 1 && off != 0) then .error .unusedField
    else if u != 1 then .error .uBit
    else if d == 0 then .ok (.mrstSet x) else .ok (.mrstEnd x)
  else
    if !clean || (d == 0 && a != 0) || (d == 1 && off != 0) then .error .unusedField
    else if u != 0 then .error .uBit
    else
      let fn := if d == 0 then JmpFn.direct else JmpFn.indirect
      if opc == 0x39 then .ok (.jmp fn x) else .ok (.call fn x)

/-- The `wait` form (R296). -/
def decodeWait (w0 w1 : Nat) : Except DecodeErr Instr :=
  if field w0 31 1 != 0 || field w0 9 21 != 0 || field w1 24 8 != 0 then .error .unusedField
  else if field w0 30 1 != 1 then .error .uBit
  else .ok (.wait (BitVec.ofNat 6 (field w1 0 6)) (BitVec.ofNat 6 (field w1 6 6))
    (BitVec.ofNat 6 (field w1 12 6)) (BitVec.ofNat 6 (field w1 18 6)))

/-- The first n cases of a case table, and the words after them (R263). -/
def decodeCases : (n : Nat) → List Nat → Option (List SwCase × List Nat)
  | 0, ws => some ([], ws)
  | n + 1, v :: o :: ws =>
    match decodeCases n ws with
    | some (cs, rest) => some (⟨BitVec.ofNat 32 v, BitVec.ofNat 32 o⟩ :: cs, rest)
    | none => none
  | _ + 1, _ => none

/-- The `switch` form with its case table (R263, R297). -/
def decodeSwitch (w0 w1 : Nat) (rest : List Nat) : Except DecodeErr Instr :=
  let n := field w1 19 8
  let e := field w1 11 4
  if e != 4 && e != 5 then .error .elementType
  else if field w1 27 5 != 0 then .error .modifier
  else if field w0 31 1 != 0 || field w0 23 7 != 0 || field w0 9 7 != 0 || field w1 0 11 != 0 || n == 0 || 8 < n then
    .error .unusedField
  else if field w0 30 1 != 0 then .error .uBit
  else
    match decodeCases n rest with
    | some (cs, d :: _) =>
      .ok (.switch (Opd.ofCode (field w0 16 7)) (if e == 4 then .z32 else .s32) cs (BitVec.ofNat 32 d))
    | _ => .error .short

/-- The decoder on 32-bit words, in the order of R301. Words of other instructions may follow. -/
def decodeWords : List Nat → Except DecodeErr Instr
  | [] => .error .short
  | w0 :: rest =>
    let opc := field w0 2 7
    if field w0 0 2 == 3 then .error .badLength
    else if !opcAssigned opc then .error .reservedOpcode
    else if isBranchOpc opc || opc == 0x55 || opc == 0x3C then
      if field w0 0 2 != 1 then .error .lengthNotAllowed
      else
        match rest with
        | [] => .error .short
        | w1 :: tl =>
          if w1 == 0xFFFFFFFF then .error .secondWordOnes
          else if isBranchOpc opc then decodeBranch w0 w1
          else if opc == 0x55 then
            -- FN is no field of this form (R296)
            decodeWait w0 w1
          else if field w1 15 4 != 0 then .error .subFunction
          else decodeSwitch w0 w1 tl
    else if field w0 0 2 == 0 then decodeFields (firstFields .w32 w0)
    else if field w0 0 2 == 1 then
      match rest with
      | [] => .error .short
      | w1 :: _ => if w1 == 0xFFFFFFFF then .error .secondWordOnes else decodeFields (wideFields .w64 w0 w1 0)
    else if !opcReadsB opc then .error .lengthNotAllowed
    else
      match rest with
      | w1 :: w2 :: _ =>
        if w1 == 0xFFFFFFFF then .error .secondWordOnes else decodeFields (wideFields .w96 w0 w1 w2)
      | _ => .error .short

/-- The 32-bit words of bytes, each little-endian, at most `fuel` of them; an incomplete last word is dropped (R3). -/
def wordsOf : (fuel : Nat) → List Byte → List Nat
  | fuel + 1, b0 :: b1 :: b2 :: b3 :: bs => leNat [b0, b1, b2, b3] :: wordsOf fuel bs
  | _, _ => []

/-- The longest instruction in words: a `switch` of eight cases (R263). -/
def maxWords : Nat := 19

/-- The length of an instruction in bytes (R284, R297); an event has none. -/
def Instr.length (i : Instr) : Nat :=
  match i.ordinary with
  | some (_, _, x) => 4 * x.form.words
  | none =>
    match i with
    | .br _ | .jmp _ _ | .call _ _ | .mrstSet _ | .mrstEnd _ | .wait _ _ _ _ => 8
    | .switch _ _ cs _ => 12 + 8 * cs.length
    | _ => 0

/-- The decoder on bytes: the instruction they begin with, or the reason there is none. -/
def decodeBytes (bs : List Byte) : Except DecodeErr Instr := decodeWords (wordsOf maxWords bs)

/-- How many words an instruction has, as far as its first words tell (R284, R297): what the lane fetches. -/
def wordsNeeded : List Nat → Nat
  | [] => 1
  | w0 :: rest =>
    if field w0 0 2 == 1 && field w0 2 7 == 0x3C then
      match rest with
      | [] => 2
      | w1 :: _ =>
        let n := field w1 19 8
        if 1 ≤ n && n ≤ 8 then 3 + 2 * n else 2
    else if field w0 0 2 == 1 then 2
    else if field w0 0 2 == 2 then 3
    else 1

/-- The instruction the decoder reads from a word numbered as spec/opcode_table.json numbers its bits; every bit above
`nbits` is zero. The bytes stand in memory order: bit 0 is the least significant bit of the first word (R3, R284). -/
def decodeTableWord (nbits w : Nat) : Option Instr :=
  match decodeBytes (leBytes (4 * maxWords) (w % 2 ^ nbits)) with
  | .ok i => some i
  | .error _ => none

/-! ### The encoder -/

/-- KP and PN in their places of the second word. -/
def Pred.bits (p : Pred) : Nat := p.k.val * 2 ^ 7 + (if p.neg then 2 ^ 10 else 0)

/-- K and B in their places of the first word. -/
def BSrc.bits : BSrc → Nat
  | .reg r => r.code * 2 ^ 23
  | .imm n => n.toNat * 2 ^ 23 + 2 ^ 31
  | .lit _ => 0

/-- The LEN code of a form. -/
def Form.code : Form → Nat
  | .w32 => 0 | .w64 => 1 | .w96 => 2

/-- The words of an ordinary instruction (R285-R287). -/
def encodeOrd (opc fn : Nat) (r : Row) (x : Ord) : List Nat :=
  let w0 := x.form.code + opc * 2 ^ 2 + x.d.code * 2 ^ 9 + x.a.code * 2 ^ 16 + x.b.bits
    + uBitOf r x.d.code * 2 ^ 30
  let w1 := x.c.code + x.pred.bits + x.et.code * 2 ^ 11 + fn * 2 ^ 15 + x.imm.toNat * 2 ^ 19
    + x.moda.toNat * 2 ^ 27 + x.modb.toNat * 2 ^ 30
  match x.form, x.b with
  | .w32, _ => [w0]
  | .w64, _ => [w0, w1]
  | .w96, .lit n => [w0, w1, n.toNat]
  | .w96, _ => [w0, w1, 0]

/-- The words of a branch-form instruction (R295). -/
def encodeBranch (opc d u : Nat) (x : Branch) : List Nat :=
  [1 + opc * 2 ^ 2 + d * 2 ^ 9 + x.a.code * 2 ^ 16 + u * 2 ^ 30, x.pred.bits + x.off.toNat * 2 ^ 11]

/-- The words of a case table (R263). -/
def encodeCases : List SwCase → List Nat
  | [] => []
  | c :: cs => c.value.toNat :: c.off.toNat :: encodeCases cs

/-- The words of a well-formed program instruction; an event has no encoding (R299). -/
def encode (i : Instr) : Option (List Nat) :=
  match i.ordinary with
  | some (opc, fn, x) =>
    match rowOf opc fn with
    | some r => some (encodeOrd opc fn r x)
    | none => none
  | none =>
    match i with
    | .br x => some (encodeBranch 0x38 0 0 x)
    | .jmp .direct x => some (encodeBranch 0x39 0 0 x)
    | .jmp .indirect x => some (encodeBranch 0x39 1 0 x)
    | .call .direct x => some (encodeBranch 0x3A 0 0 x)
    | .call .indirect x => some (encodeBranch 0x3A 1 0 x)
    | .mrstSet x => some (encodeBranch 0x65 0 1 x)
    | .mrstEnd x => some (encodeBranch 0x65 1 1 x)
    | .wait l s c t =>
      some [1 + 0x55 * 2 ^ 2 + 2 ^ 30, l.toNat + s.toNat * 2 ^ 6 + c.toNat * 2 ^ 12 + t.toNat * 2 ^ 18]
    | .switch a et cs d =>
      some ([1 + 0x3C * 2 ^ 2 + a.code * 2 ^ 16, et.code * 2 ^ 11 + cs.length * 2 ^ 19] ++ encodeCases cs ++ [d.toNat])
    | _ => none

end Sys2Proof
end

