-- ==== Sys2Proof/Machine/System.lean ====
section
/-!
DEFINITION. System instructions (R414-R421), opcodes 0x70-0x77: special registers, traps and returns, mapping pages on the
device, invalidating translations, trace control; the register writes as events; and the illegal instruction (R300, R301).
-/

namespace Sys2Proof.Machine

open Sys2Proof

/-! ### Reading a special register (R415, R416) -/

/-- `%gdim` of a group's launch. -/
def State.gdim (s : State) : Nat :=
  match s.launch? s.cur.launch with
  | some l => l.p.gx + l.p.gy * 2 ^ 16 + l.p.gz * 2 ^ 32
  | none => 0

/-- `%gang` (R183). -/
def Group.gangWord (g : Group) : Nat :=
  g.gang.zipIdx.foldl (fun acc (e : (Nat × Nat) × Nat) => acc + (e.1.1 * 2 ^ 3 + e.1.2) * 2 ^ (7 * e.2)) 0
    + g.gang.length * 2 ^ 42 + (if g.gang.isEmpty then 0 else g.gangPos * 2 ^ 45)

/-- `%mrst` (R396). -/
def Group.mrstWord (g : Group) : Nat :=
  match g.block with
  | some b => 2 ^ 63 + g.rcnt * 2 ^ 55 + b.depth.toNat * 2 ^ 47 + b.label.toNat / 4
  | none => g.rcnt * 2 ^ 55 + g.lastDepth.toNat * 2 ^ 47 + g.lastLabel.toNat / 4

/-- `%cnt` (R185). -/
def Group.cntWord (g : Group) : Nat := g.cntL + g.cntS * 2 ^ 6 + g.cntC * 2 ^ 12 + g.cntT * 2 ^ 18

/-- `%spl` (R182). -/
def Group.splWord (g : Group) : Nat :=
  (if g.slot then 1 else 0) + (if g.sp.part then 2 else 0) + (if g.other.isSome then 4 else 0) + g.spill.length * 2 ^ 3
    + g.rejoin.length * 2 ^ 9

/-- Fields of `%dbg` (R205). -/
def Group.dbgSel (g : Group) : Nat := field g.dbg.toNat 9 2
def Group.dbgSpix (g : Group) : Nat := field g.dbg.toNat 11 5
def Group.dbgReg (g : Group) : Opd := Opd.ofCode (field g.dbg.toNat 16 7)
def Group.dbgThr (g : Group) : Nat := field g.dbg.toNat 23 5

/-- The header of the current group's trap frame. -/
def State.frameWord (s : State) : Nat :=
  match s.team? s.cur with
  | some t => leNat (t.ls.bytes s.cur.tframe 64)
  | none => 0

/-- A register as the group held it at handler entry (R205): the shadow and GSAVE in handler mode, else the live value. -/
def State.dbgVal (s : State) : Word :=
  let g := s.cur
  match g.dbgReg with
  | .v n =>
    if g.hand.isSome && n.val < 4 then Row.get (Tab.getD g.shadow n.val []) g.dbgThr else g.vget n g.dbgThr
  | .g n =>
    if g.hand.isSome && 28 ≤ n.val then
      if n.val = 31 then 0 else BitVec.ofNat 64 (field s.frameWord (256 + 64 * (n.val - 28)) 64)
    else g.gget n

/-- The split record that SEL and SPIX select, as a number; zero where there is none (R205). -/
def Group.dbgRec (g : Group) : Nat :=
  let slotRec := fun (b : Bool) =>
    match g.hand with
    | some h => if h.slot == b then h.rec_.record else ((g.inSlot b).map Split.record).getD 0
    | none => ((g.inSlot b).map Split.record).getD 0
  match g.dbgSel with
  | 0 => slotRec false
  | 1 => slotRec true
  | 2 => ((g.spill[g.dbgSpix]?).map Split.record).getD 0
  | _ => 0

/-- A table base of a partition by its selector's number (R416). -/
def Part.base (p : Part) : Nat → Word
  | 0 => p.ptroot
  | 1 => p.geobase
  | 2 => p.accbase
  | 3 => p.scnbase
  | 4 => p.savebase
  | 5 => p.trcdesc
  | _ => p.poolbase

/-- What a special register holds for a thread of the current group (R416). -/
def State.special (s : State) (sel t : Nat) : Word :=
  let g := s.cur
  let w := BitVec.ofNat 64
  match sel with
  | 0x000 => w t
  | 0x001 => w g.gix
  | 0x002 => w s.gdim
  | 0x003 => w (g.id.lane + g.id.slot * 2 ^ 6)
  | 0x004 => w g.id.core
  | 0x005 => w g.id.die
  | 0x006 => w s.fabric.devid.toNat
  | 0x010 => g.sp.fmt.setWidth 64
  | 0x011 => w g.gangWord
  | 0x012 => w g.mrstWord
  | 0x013 => w g.cntWord
  | 0x014 => g.sp.mask.setWidth 64
  | 0x015 => w g.splWord
  | 0x020 => s.clock.time
  | 0x021 => w (g.bgt.toNat % 2 ^ 32)
  | 0x022 => g.dl
  | 0x030 => w g.lsb
  | 0x031 => w (g.lsize + g.scrb * 2 ^ 32)
  | 0x032 => w g.tframe
  | 0x033 => g.tcause.setWidth 64
  | 0x034 => (s.part g.part).tvec
  | 0x040 => if g.trc.on then 1 else 0
  | 0x041 => g.dbg
  | 0x042 => s.dbgVal
  | 0x043 => w g.dbgRec
  | 0x044 => w (g.dbgRec / 2 ^ 64)
  | n =>
    if n < 0x090 then Tab.getD g.q (n - 0x080) 0
    else if n < 0x108 then Tab.getD (s.core g.id.die g.id.core).bpc (n - 0x100) 0
    else if n < 0x117 then (s.part g.part).base (n - 0x110)
    else w ((s.stack (n - 0x120)).winBase + (s.stack (n - 0x120)).winSize / 2 ^ 20)

/-! ### Privilege (R205, R415, R416) -/

/-- Registers of supervisor state. -/
def selSuper (n : Nat) : Bool :=
  n == 0x033 || n == 0x034 || (0x100 ≤ n && n ≤ 0x107) || (0x110 ≤ n && n ≤ 0x116) || (0x120 ≤ n && n ≤ 0x12B)

/-- Registers that a write reaches. -/
def selWritable (n : Nat) : Bool :=
  n == 0x010 || n == 0x015 || n == 0x031 || n == 0x034 || n == 0x041 || n == 0x042 || (0x080 ≤ n && n ≤ 0x08F)
    || (0x100 ≤ n && n ≤ 0x107) || (0x110 ≤ n && n ≤ 0x116) || (0x120 ≤ n && n ≤ 0x12B)

/-- Registers that a read needs debug granted for, and that raise the debug-misuse alarm without it (R205). -/
def selDebug (n : Nat) : Bool := n == 0x042 || n == 0x043 || n == 0x044

/-- Whether the current group's partition is granted debug. -/
def State.debug (s : State) : Bool := (s.part s.cur.part).debug

def State.mayRead (s : State) (n : Nat) : Bool :=
  (!selSuper n || s.cur.hand.isSome) && (!selDebug n || s.debug)

def State.mayWrite (s : State) (n : Nat) : Bool :=
  selWritable n && (!selSuper n || s.cur.hand.isSome)
    && (!(n == 0x041 || n == 0x042 || (0x100 ≤ n && n ≤ 0x107)) || s.debug)

/-- An access without privilege (R205, R415): 0x07 at decode; of the debug registers without a grant, the alarm too. -/
def State.barred (s : State) (p : Pred) (alarm : Bool) : State :=
  let t := s.refuse p 0x07
  if alarm && !s.debug then t.alarms [4] else t

/-- The selector of an instruction (R415). -/
def selOf (x : Ord) : Nat := x.imm.toNat + x.c.code % 16 * 256

/-- Whether REG names a register that the group holds (R205). -/
def Group.holdsDbg (g : Group) : Bool := match g.dbgReg with | .v n => g.holdsV n | .g _ => true

def execRdsr (x : Ord) (s : State) : Out :=
  .next (s.named x.pred [x.d] fun s =>
    let n := selOf x
    if !s.mayRead n then s.barred x.pred (selDebug n)
    else if n = 0x042 && !s.cur.holdsDbg then s.refuse x.pred 0x02
    else
      match x.d with
      | .v d => s.perThread x.pred (lenOf x) fun s' m => { s' with cur := s'.cur.vset d m (fun t => s.special n t) }
      | .g d => s.uniform x.pred 1 (lenOf x) fun s' =>
          { s' with cur := s'.cur.gset d (s.special n (lowest (s.cur.exec x.pred))) })

/-! ### Writing a special register (R415, R416) -/

/-- The low bits of `%fmt` and `%spl` that are written belong to the issuing split (R181, R182). -/
def Group.setFmt (g : Group) (v : Word) : Group := { g with sp := { g.sp with fmt := v.setWidth 14 } }
def Group.setPart_ (g : Group) (v : Word) : Group := { g with sp := { g.sp with part := v.getLsbD 1 } }

/-- Change the partition of the current group. -/
def State.updPart (s : State) (f : Part → Part) : State := s.setPart s.cur.part (f (s.part s.cur.part))

/-- A table base of a partition takes an aligned value; another is discarded (R212). -/
def Part.setBase (p : Part) (n : Nat) (v : Word) : Part :=
  if v.toNat % baseAlign.getD (n + 1) 1 != 0 then p
  else
    match n with
    | 0 => { p with ptroot := v }
    | 1 => { p with geobase := v }
    | 2 => { p with accbase := v }
    | 3 => { p with scnbase := v }
    | 4 => { p with savebase := v }
    | 5 => { p with trcdesc := v }
    | _ => { p with poolbase := v }

/-- What a write of `%rwin` gives (R57, R416): none where its size is above 64 MiB, where a window of nonzero size leaves the
stack's HBM or meets its reserved region, or where it covers a unit that the partition does not own. -/
def State.windowFor (s : State) (n : Nat) (v : Word) : Option (Nat × Nat) :=
  let base := field v.toNat 20 28 * 2 ^ 20
  let size := field v.toNat 0 7 * 2 ^ 20
  if 64 * 2 ^ 20 < size then none
  else if size = 0 then some (base, 0)
  else if n * 2 ^ 36 ≤ base && base + size ≤ n * 2 ^ 36 + 2 ^ 36 - 2 ^ 28
      && s.owns s.cur.part base && s.owns s.cur.part (base + size - 1) then
    some (base, size)
  else none

/-- A write of a result window; after a change every bit is empty (R57). -/
def State.setWindow (s : State) (n : Nat) (w : Nat × Nat) : State :=
  let k := s.stack n
  if k.winBase = w.1 && k.winSize = w.2 then s
  else s.setStack n { k with winBase := w.1, winSize := w.2, full := [] }

/-- A write of `%dbgval` (R205): the register that `eret` restores, or the live one. -/
def State.setDbgVal (s : State) (v : Word) : State :=
  let g := s.cur
  match g.dbgReg with
  | .v n =>
    if g.hand.isSome && n.val < 4 then
      let row := Tab.getD g.shadow n.val []
      { s with cur := { g with
        shadow := Tab.set n.val (Row.mk fun t => if t = g.dbgThr then v else Row.get row t) g.shadow } }
    else { s with cur := g.vset n (maskOf [g.dbgThr]) (fun _ => v) }
  | .g n =>
    if g.hand.isSome && 28 ≤ n.val then
      if n.val = 31 then s
      else s.updTeam g fun t => { t with ls := t.ls.putBytes (g.tframe + 32 + 8 * (n.val - 28)) (leBytes 8 v.toNat) }
    else { s with cur := g.gset n v }

/-- Put a field of a number. -/
def putField (w lo len x : Nat) : Nat := w - field w lo len * 2 ^ lo + x % 2 ^ len * 2 ^ lo

/-- The faulting split's record with what the trap frame keeps of it (R194, R196). -/
def Split.fromFrame (p : Split) (w : Nat) : Split :=
  let st := BitVec.ofNat 2 (field w 96 2)
  { p with
    pc := BitVec.ofNat 48 (field w 146 46 * 4), fmt := BitVec.ofNat 14 (field w 98 14), st := st
    rtid := BitVec.ofNat 5 (field w 91 5), rem := BitVec.ofNat 32 (if st = 2 then field w 192 32 else field w 224 32) }

/-- A trap frame's header with a split's record in the place of the faulting one's. -/
def Split.intoFrame (p : Split) (w : Nat) : Nat :=
  let w := putField (putField (putField w 146 46 (p.pc.toNat / 4)) 98 14 p.fmt.toNat) 96 2 p.st.toNat
  let m := if p.st = 0 then p.mask.toNat else p.rem.toNat
  putField (putField (putField w 91 5 p.rtid.toNat) 192 32 m) 224 32 m

/-- A record on the spill stack becomes live (R205): it takes slot 1, or changes places with the record there. While a handler stands
in slot 1 that record is the faulting split's, with what the trap frame keeps of it (entry 34). -/
def State.makeLive (s : State) (i : Nat) : State :=
  let g := s.cur
  match g.spill[i]? with
  | none => s
  | some p =>
    match g.hand.filter (fun h => h.slot), g.inSlot true with
    | none, none => { s with cur := { g.setSlot true (some p) with spill := g.spill.eraseIdx i } }
    | none, some q => { s with cur := { g.setSlot true (some p) with spill := g.spill.set i q } }
    | some h, _ =>
      let w := ((s.team? g).map fun t => leNat (t.ls.bytes g.tframe 64)).getD 0
      let s := { s with cur := { g with hand := some { h with rec_ := p }, spill := g.spill.set i (h.rec_.fromFrame w) } }
      s.updTeam g fun t => { t with ls := t.ls.putBytes g.tframe (leBytes 64 (p.intoFrame w)) }

/-- The bits of `%dbg` that are written (R205). -/
def dbgMask : Word := 0x0FFFFF00

/-- A write of `%dbg` after its checks. -/
def State.setDbg (s : State) (v : Word) : State :=
  let s := { s with cur := { s.cur with dbg := v &&& dbgMask } }
  if s.cur.dbgSel = 2 && s.cur.dbg.getLsbD 8 then s.makeLive s.cur.dbgSpix else s

/-- What refuses a value in an existing, permitted register (R201, R205, R416). -/
def State.writeCause (s : State) (n : Nat) (v : Word) : Option (BitVec 8) :=
  let x := v.toNat
  if n = 0x031 then
    (if s.cur.lsize < field x 32 20 || field x 32 20 % 256 != 0 then some 0x05 else none)
  else if n = 0x041 then
    (if field x 9 2 = 3 || (field x 9 2 = 2 && s.cur.spill.length ≤ field x 11 5) then some 0x07 else none)
  else if n = 0x042 then
    (match s.cur.dbgReg with | .v k => if s.cur.holdsV k then none else some 0x02 | .g _ => none)
  else if 0x120 ≤ n then (if (s.windowFor (n - 0x120) v).isSome then none else some 0x07)
  else none

/-- The effect of a write that nothing refuses (R6, R415, R416). -/
def State.writeSpecial (s : State) (n : Nat) (v : Word) : State :=
  let g := s.cur
  match n with
  | 0x010 => { s with cur := g.setFmt v }
  | 0x015 => { s with cur := g.setPart_ v }
  | 0x031 => { s with cur := { g with scrb := field v.toNat 32 20 } }
  | 0x034 => if v.toNat % 4 = 0 then s.updPart fun p => { p with tvec := v } else s
  | 0x041 => s.setDbg v
  | 0x042 => s.setDbgVal v
  | n =>
    if n < 0x090 then { s with cur := { g with q := Tab.set (n - 0x080) v g.q } }
    else if n < 0x108 then
      let c := s.core g.id.die g.id.core
      s.setCore g.id.die g.id.core { c with bpc := Tab.set (n - 0x100) (v &&& ~~~(0x70000000000000 : Word)) c.bpc }
    else if n < 0x117 then s.updPart fun p => p.setBase (n - 0x110) v
    else
      match s.windowFor (n - 0x120) v with
      | some w => s.setWindow (n - 0x120) w
      | none => s

/-- Whether an access needs a grant whose lack raises the alarm (R205). -/
def selAlarm (n : Nat) : Bool := n == 0x041 || selDebug n

def execWrsr (x : Ord) (s : State) : Out :=
  .next (s.named x.pred [x.a] fun s =>
    let n := selOf x
    if !s.mayWrite n then s.barred x.pred (selAlarm n)
    else s.uniformly x [x.a] fun s =>
      let v := s.cur.ua x
      match s.writeCause n v with
      | some c => s.refuse x.pred c
      | none => if n = 0x041 then (s.done x [x.a]).writeSpecial n v else (s.writeSpecial n v).done x [x.a])

/-! ### The register writes as events (R6, R416) -/

/-- The write of a special register by the issuing split, as `wrsr` makes it, without the instruction's issue. -/
def State.eventWrite (s : State) (n : Nat) (v : Word) : State :=
  if !s.cur.live || !s.cur.spLive then s
  else if !s.mayWrite n then s.barred pred0 (selAlarm n)
  else
    match s.writeCause n v with
    | some c => s.refuse pred0 c
    | none => s.writeSpecial n v

def execDbgWrite (value : Word) (s : State) : Out := .next (s.eventWrite 0x041 value)

def execDbgvalWrite (value : Word) (s : State) : Out := .next (s.eventWrite 0x042 value)

def execLszWrite (value : Word) (s : State) : Out := .next (s.eventWrite 0x031 value)

def execRwinWrite (stack : Fin 12) (value : Word) (s : State) : Out := .next (s.eventWrite (0x120 + stack.val) value)

def execTvecWrite (value : Word) (s : State) : Out := .next (s.eventWrite 0x034 value)

def execTableBaseWrite (which : Fin 7) (value : Word) (s : State) : Out := .next (s.eventWrite (0x110 + which.val) value)

/-- The host sets a function's page-request allocation, which enables PRI again (R133; entry 17). -/
def State.setAllocation (s : State) (fn n : Nat) : State :=
  { s with host := { s.host with
    priAlloc := Tab.set fn n s.host.priAlloc, priOff := s.host.priOff.filter fun k => k != fn } }.sendPages

/-- REGISTER_WRITE (R6): a register of the mailbox BAR, a special register of the issuing split, or the PRI allocation. A
selector that names no register changes nothing. -/
def execRegisterWrite (r : RegTarget) (value : Word) (s : State) : Out :=
  match r with
  | .mailbox offset width => mailboxWrite offset width value s
  | .special sel => .next (if selKnown sel.toNat then s.eventWrite sel.toNat value else s)
  | .priAllocation fn => .next (s.setAllocation fn value.toNat)

/-! ### Traps and returns (R417) -/

/-- `trap` (R417): 0x10 in the step class, with n in FADDR of the reported thread. -/
def execTrap (x : Ord) (s : State) : Out :=
  .next (s.uniformly x [] fun s =>
    let t := s.cur.reportAt x.pred
    let s := (s.charge 1).occupy 1
    let g := s.cur.advance (lenOf x) s.clock.cycle
    ({ s with cur := g }).trap { g.wholeTrap 0x10 t with faults := [⟨t, 0x10, x.imm.setWidth 64⟩], omask := s.cur.omask x.pred })

/-- `brk` (R417): 0x0E in the whole class, with the saved PC at the `brk`. -/
def execBrk (x : Ord) (s : State) : Out := .next (s.uniformly x [] fun s => s.refuse x.pred 0x0E)

/-- `eret` (R196, R198, R414): outside supervisor state it raises 0x07 at decode. -/
def execEret (x : Ord) (s : State) : Out :=
  .next (
    match s.cur.hand with
    | none => s.refuse x.pred 0x07
    | some h => s.uniformly x [] fun s => s.returnFrom x.pred h)

/-! ### `pfmap` (R418, R419) -/

/-- The pool descriptor with the map of its page, where it can be read and changed. -/
def State.poolDesc (s : State) (part : Nat) : Option Nat :=
  let a := (s.part part).poolbase.toNat
  match s.unitMap part a 64 true with
  | .error _ => none
  | .ok _ => (s.unitRead part 2 a 64).map leNat

/-- The frame entry at an index: its frame, where it can be read, is well formed, and lies in a unit of the partition. -/
def State.frameAt (s : State) (part at_ : Nat) : Option Nat :=
  match s.unitRead part 2 at_ 8 with
  | none => none
  | some bs =>
    let e := leNat bs
    let f := field e 16 32 * 2 ^ 16
    if e % 2 ^ 16 != 0 || field e 48 16 != 0 || !s.owns part f || !s.reachable f then none else some f

/-- The level-0 table that the walk of an address reaches; none where it cannot (R419 status 4). -/
def State.level0At (s : State) (part va : Nat) : (level table : Nat) → Option Nat
  | 0, table => if s.reachable table && s.owns part table then some table else none
  | n + 1, table =>
    let at_ := table + 8 * (va / levelSize (n + 1) % (if n + 1 = 3 then 8192 else 512))
    if !s.reachable at_ || !s.owns part at_ then none
    else
      let e := s.homeNat at_ 8
      if !bitAt e 0 || bitAt e 5 || !tableOk e then none else s.level0At part va n (field e 12 36 * 2 ^ 12)

/-- Write zero to a 64 KiB frame at its homes and drop its lines from the die buffers; fenced banks discard it (R56, R419). -/
def State.zeroFrame (s : State) (f : Nat) : State :=
  let out := fun (p : Nat) => p < f || f + 65536 ≤ p
  let s := { s with
    home := s.home.filter fun (e : Nat × CByte) => 3 * 2 ^ 48 ≤ e.1 || out (e.1 % 2 ^ 48)
    poison := s.poison.filter fun a => out (32 * a) }
  if (List.range 64).any fun i => s.fenced (f + 1024 * i) then
    (List.range 65536).foldl (fun s i => s.dram (f + i) 0) s
  else { s with mem := s.mem.clear f 65536 }

/-- The leaf of a page that `pfmap` maps: P, LEAF, PS64 and LCL, with W, X, U and AC from B (R419). -/
def poolLeaf (part frame b : Nat) : Nat :=
  1 + field b 0 3 * 2 + 2 ^ 5 + field b 3 1 * 2 ^ 6 + 2 ^ 8 + 2 ^ 9 + frame + part * 2 ^ 58

/-- The sixteen entries of the 64 KiB page, written as one change (R217, R419). -/
def State.mapPage (s : State) (part table va frame b : Nat) : State :=
  let at_ := table + 8 * (va / 65536 * 16 % 512)
  s.putHome at_ ((List.replicate 16 (leBytes 8 (poolLeaf part frame b))).flatten)

/-- The status of `pfmap` and its effect (R419): the first condition that holds decides. -/
def State.pfmap (s : State) (a b : Nat) : Nat × State :=
  let part := s.cur.part
  match s.poolDesc part with
  | none => (5, s)
  | some d =>
    let top := field d 0 32
    let frame := if top = 0 then some 0 else s.frameAt part (field d 64 64 + 8 * (top - 1))
    if 2 ^ 52 ≤ a || 16 ≤ b || field d 128 384 != 0 || field d 32 32 < top then (5, s)
    else
      match frame with
      | none => (5, s)
      | some f =>
        match s.level0At part a 3 (s.part part).ptroot.toNat with
        | none => (4, s)
        | some table =>
          let e := s.homeNat (table + 8 * (a / 4096 % 512)) 8
          if bitAt e 0 then (3, s)
          else if !bitAt e 9 then (2, s)
          else if top = 0 then (1, s)
          else
            let s := s.unitWrite part (s.part part).poolbase.toNat (leBytes 4 (top - 1))
            (0, (s.zeroFrame f).mapPage part table a f b)

/-- `pfmap` (R419): 0x07 at decode outside supervisor state. -/
def execPfmap (x : Ord) (s : State) : Out :=
  .next (s.named x.pred (x.d :: srcAB x) fun s =>
    if s.cur.hand.isNone then s.refuse x.pred 0x07
    else s.uniformly x (srcAB x) fun s =>
      let t := lowest (s.cur.exec x.pred)
      let r := s.pfmap (s.cur.ua x).toNat (s.cur.ub .zero x).toNat
      (r.2.writeD x t (BitVec.ofNat 64 r.1)).done x (srcAB x))

/-! ### `tlbinv` (R420) -/

/-- The dies and the cores whose TLBs a `tlbinv` of the current group reaches at a scope. -/
def State.invDie (s : State) (scope d : Nat) : Bool := 3 ≤ scope || (scope = 2 && d == s.cur.id.die)
def State.invCore (s : State) (scope k : Nat) : Bool := k == coreKey s.cur.id.die s.cur.id.core || s.invDie scope (k / 64)

/-- Drop a partition's translations of a range, and revoke what pins a page of it. -/
def State.invalidate (s : State) (scope lo hi : Nat) : State :=
  let part := s.cur.part
  (s.dropTlb (s.invDie scope) (s.invCore scope) fun e => e.meets part lo hi).revokeRange part lo hi

/-- Whether an access that began before an operation number is outstanding at a page of a range in the partition, from a core that a
scope reaches: it has used a translation that is dropped. -/
def State.usesDropped (s : State) (before scope lo hi : Nat) : Bool :=
  s.eng.ops.any fun (e : Nat × Op) =>
    e.1 < before && s.invCore scope (coreKey e.2.g.die e.2.g.core)
      && (s.launch? e.2.launch).any (fun l => l.part == s.cur.part)
      && e.2.vas.any fun v => lo < v.2.toNat / 4096 * 4096 + 4096 && v.2.toNat / 4096 * 4096 < hi

def execTlbinv (x : Ord) (s : State) : Out :=
  .next (s.named x.pred (srcAB x) fun s =>
    if s.cur.hand.isNone then s.refuse x.pred 0x07
    else s.uniformly x (srcAB x) fun s =>
      let scope := x.moda.toNat
      let a := s.cur.ua x
      let b := (s.cur.ub .zero x).toNat
      let lo := if b = 0 then 0 else a.toNat
      let hi := if b = 0 then 2 ^ 64 else a.toNat + b
      match s.cur.sp.wait with
      | .dropped n .. => if s.usesDropped n scope lo hi then s.awaitWide s.cur.sp.wait else s.doneWide x (srcAB x)
      | _ =>
        if 2 ^ 52 ≤ a.toNat then s.refuse x.pred 0x07
        else if 2 ≤ scope && !s.fenceOpen s.cur.id (fenceCode scope) then s.awaitWide (.fence (fenceCode scope))
        else
          let s := if scope < 2 then s else (s.coreBack (fun _ _ => true)).coreDrop (fun sp _ => scope = 4 || sp < 4)
          let s := s.invalidate scope lo hi
          if s.usesDropped s.nextId scope lo hi then s.awaitWide (.dropped s.nextId scope lo hi)
          else s.doneWide x (srcAB x))

/-! ### Trace control (R206, R209, R421) -/

def execTraceOn (x : Ord) (s : State) : Out :=
  .next (s.uniformly x [] fun s =>
    ({ s with cur := { s.cur with trc := { s.cur.trc with on := true } } }.wantSync).done x [])

def execTraceOff (x : Ord) (s : State) : Out :=
  .next (s.uniformly x [] fun s =>
    let s := s.closeBlock
    ({ s with cur := { s.cur with trc := { s.cur.trc with on := false } } }).done x [])

def execTraceMark (x : Ord) (s : State) : Out :=
  .next (s.uniformly x [] fun s => (s.emitPacket (.mark x.imm)).done x [])

/-! ### The illegal instruction (R300, R301) -/

/-- The predicate of words that do not decode: KP and PN of the second word, where the form has them; else `k0`. -/
def predOfWords : List (BitVec 32) → Pred
  | w0 :: w1 :: _ =>
    if field w0.toNat 0 2 = 3 || field w0.toNat 0 2 = 0 || field w0.toNat 2 7 = 0x55 then pred0
    else predOf (field w1.toNat 7 3) (field w1.toNat 10 1)
  | _ => pred0

/-- Words that do not decode raise 0x01 in the whole class (R301). -/
def execIllegalInstruction (words : List (BitVec 32)) (s : State) : Out :=
  .next (if s.cur.live && s.cur.spLive then s.refuse (predOfWords words) 0x01 else s)

end Sys2Proof.Machine
end

