-- ==== Sys2Proof/Machine/Tracing.lean ====
section
/-!
DEFINITION. Trace blocks on their way to the ring, a walk for a core, and the eviction of a core-cache line (R206-R210, R218,
R224, R436, R437).
-/

namespace Sys2Proof.Machine

open Sys2Proof

/-! ### Trace blocks (R207, R210) -/

/-- TRACE_BLOCK_TIMEOUT: 4,096 cycles after its first packet a block is completed. -/
def State.traceTimeout (s : State) (i : Gid) : State :=
  match s.group? i with
  | none => s
  | some g =>
    if g.trc.block.isEmpty || s.clock.cycle < g.trc.first + 4096 then s else (s.focus i).closeBlock

def execTraceBlockTimeout (g : Gid) (s : State) : Out := .next (s.traceTimeout g)

/-- The key by which blocks are written: cycle, then lane, then resident slot (R437). -/
def TraceBlock.before (a b : TraceBlock) : Bool :=
  a.start < b.start || (a.start == b.start && (a.g.lane < b.g.lane || (a.g.lane == b.g.lane && a.g.slot % 8 < b.g.slot % 8)))

/-- The next block of a core to be written. -/
def nextBlock (q : List TraceBlock) : Option TraceBlock :=
  (q.filter fun b => !b.written).foldl (fun (m : Option TraceBlock) b =>
    match m with
    | none => some b
    | some x => if b.before x then some b else some x) none

/-- Change one block of a core's queue: written, or gone. -/
def State.settleBlock (s : State) (die core : Nat) (b : TraceBlock) (written : Bool) : State :=
  let c := s.core die core
  let q := if written then c.traceQ.map fun x => if x == b then { x with written := true } else x else c.traceQ.erase b
  s.setCore die core { c with traceQ := q }

/-- The packets of a dropped block, and those that its group has collected since, join the loss count (R210, R436). -/
def Group.loseBlock (g : Group) (n : Nat) : Group :=
  let t := g.trc
  { g with trc := { t with
    block := [], packets := 0, carried := 0, lost := true
    loss := min (t.loss + n + t.packets + t.carried) (2 ^ 32 - 1) } }

/-- TRACE_BLOCK_WRITE: the block goes to the ring and WPTR rises, as a release; without room, or where the ring cannot be
written, it is dropped (R207, R210). With the ring not enabled it is discarded (R206). -/
def State.writeBlock (s : State) (die core : Nat) : State :=
  match nextBlock (s.core die core).traceQ with
  | none => s
  | some b =>
    match s.ring b.part with
    | (none, bad) => (s.logRing b.part b.g bad).settleBlock die core b false
    | (some r, _) =>
      let drop := fun (s : State) => (s.settleBlock die core b false).updGroup b.g fun g => g.loseBlock b.packets
      let va := r.base + r.wptr % 2 ^ r.log2
      if !r.room then drop s
      else
        match s.unitMap b.part va 64 true with
        | .error _ => (drop s).logError b.part (.traceRing b.g)
        | .ok m =>
          if 4 ≤ m.space then (drop s).logError b.part (.traceRing b.g)
          else
            let s := (s.mapWrite m va b.bytes).putHome (r.at_ + 16) (leBytes 8 (r.wptr + 64))
            s.settleWaiters.settleBlock die core b true

def execTraceBlockWrite (die core : Nat) (s : State) : Out := .next (s.writeBlock die core)

/-! ### PAGE_WALK (R218) -/

/-- A walk for a core ends: a present leaf is cached in the core's and the die's TLB; a fault is the requester's, which takes
it where its instruction translates. -/
def execPageWalk (die core part : Nat) (va : Word) (s : State) : Out := .next (s.findLeaf die core part va.toNat).2

/-! ### CORE_CACHE_EVICTION (R224) -/

/-- A line leaves a core cache: its dirty bytes go to their homes. The line is named by its tag and physical address. -/
def State.evict (s : State) (die core line : Nat) : State :=
  let is := fun (space p : Nat) => byteKey space p / 64 == line
  (s.writeBack die core is).dropAll die core is

def execCoreCacheEviction (die core line : Nat) (s : State) : Out := .next (s.evict die core line)

end Sys2Proof.Machine
end

