-- ==== Sys2Proof/Machine/Dispatch.lean ====
section
/-!
DEFINITION. The dispatch of every instruction and event to its meaning: one arm per constructor of Instr.
-/

namespace Sys2Proof.Machine

open Sys2Proof

/-- The effect of an instruction or event. -/
def exec (i : Instr) (s : State) : Host.Outcome State Fault Refusal :=
  match i with
  | .samplePeriod x => Sys2Proof.Machine.execSamplePeriod x s
  | .tamperAlarm => Sys2Proof.Machine.execTamperAlarm s
  | .clockAlarm => Sys2Proof.Machine.execClockAlarm s
  | .spareCoreSubstitution die core poisoned => Sys2Proof.Machine.execSpareCoreSubstitution die core poisoned s
  | .substitutionDrainDone die => Sys2Proof.Machine.execSubstitutionDrainDone die s
  | .rowRemap => Sys2Proof.Machine.execRowRemap s
  | .remapCopyDone => Sys2Proof.Machine.execRemapCopyDone s
  | .laneSparing port lane => Sys2Proof.Machine.execLaneSparing port lane s
  | .quiesceComplete part => Sys2Proof.Machine.execQuiesceComplete part s
  | .quiesceTimeout part => Sys2Proof.Machine.execQuiesceTimeout part s
  | .repairComplete part => Sys2Proof.Machine.execRepairComplete part s
  | .repairFailed part => Sys2Proof.Machine.execRepairFailed part s
  | .verificationPassed part => Sys2Proof.Machine.execVerificationPassed part s
  | .verificationFailed part => Sys2Proof.Machine.execVerificationFailed part s
  | .readRequest f => Sys2Proof.Machine.execReadRequest f s
  | .readResponse f => Sys2Proof.Machine.execReadResponse f s
  | .write f => Sys2Proof.Machine.execWrite f s
  | .writeAcknowledge f => Sys2Proof.Machine.execWriteAcknowledge f s
  | .atomicRequest f => Sys2Proof.Machine.execAtomicRequest f s
  | .atomicResponse f => Sys2Proof.Machine.execAtomicResponse f s
  | .negativeAcknowledge f => Sys2Proof.Machine.execNegativeAcknowledge f s
  | .collectiveData f => Sys2Proof.Machine.execCollectiveData f s
  | .timeMessage locked time => Sys2Proof.Machine.execTimeMessage locked time s
  | .malformedFlit f => Sys2Proof.Machine.execMalformedFlit f s
  | .remoteAccessTimeout tag => Sys2Proof.Machine.execRemoteAccessTimeout tag s
  | .firstLockTimeout => Sys2Proof.Machine.execFirstLockTimeout s
  | .timeLockLoss => Sys2Proof.Machine.execTimeLockLoss s
  | .memoryRequest stack pc => Sys2Proof.Machine.execMemoryRequest stack pc s
  | .loadDataLand op => Sys2Proof.Machine.execLoadDataLand op s
  | .refreshWindow stack pc => Sys2Proof.Machine.execRefreshWindow stack pc s
  | .powerdownEntry stack pc => Sys2Proof.Machine.execPowerdownEntry stack pc s
  | .selfrefreshEntry stack pc => Sys2Proof.Machine.execSelfrefreshEntry stack pc s
  | .powerdownExit stack pc => Sys2Proof.Machine.execPowerdownExit stack pc s
  | .selfrefreshExit stack pc => Sys2Proof.Machine.execSelfrefreshExit stack pc s
  | .scrub addr found => Sys2Proof.Machine.execScrub addr found s
  | .remapReloadComplete stack pc bank correct => Sys2Proof.Machine.execRemapReloadComplete stack pc bank correct s
  | .bankScrubComplete stack pc bank => Sys2Proof.Machine.execBankScrubComplete stack pc bank s
  | .ldfeTimeout op => Sys2Proof.Machine.execLdfeTimeout op s
  | .accordTileLoad op => Sys2Proof.Machine.execAccordTileLoad op s
  | .fold cmd => Sys2Proof.Machine.execFold cmd s
  | .foldSwap cmd => Sys2Proof.Machine.execFoldSwap cmd s
  | .copyCommand cmd => Sys2Proof.Machine.execCopyCommand cmd s
  | .gatherPool cmd => Sys2Proof.Machine.execGatherPool cmd s
  | .matrixVector cmd => Sys2Proof.Machine.execMatrixVector cmd s
  | .collective cmd => Sys2Proof.Machine.execCollective cmd s
  | .commandCompletion cmd => Sys2Proof.Machine.execCommandCompletion cmd s
  | .commandRevoke cmd => Sys2Proof.Machine.execCommandRevoke cmd s
  | .rayArrival ray => Sys2Proof.Machine.execRayArrival ray s
  | .engineTake stack engine => Sys2Proof.Machine.execEngineTake stack engine s
  | .traversalPass stack engine => Sys2Proof.Machine.execTraversalPass stack engine s
  | .spillMoveIn stack queue => Sys2Proof.Machine.execSpillMoveIn stack queue s
  | .recordArrival record => Sys2Proof.Machine.execRecordArrival record s
  | .filterRequest op => Sys2Proof.Machine.execFilterRequest op s
  | .rasterDraw die => Sys2Proof.Machine.execRasterDraw die s
  | .reproject die => Sys2Proof.Machine.execReproject die s
  | .drawCompletion die => Sys2Proof.Machine.execDrawCompletion die s
  | .pcreate m => Sys2Proof.Machine.execPcreate m s
  | .pdestroy m => Sys2Proof.Machine.execPdestroy m s
  | .pgrant m => Sys2Proof.Machine.execPgrant m s
  | .prevoke m => Sys2Proof.Machine.execPrevoke m s
  | .pbases m => Sys2Proof.Machine.execPbases m s
  | .ctxwr m => Sys2Proof.Machine.execCtxwr m s
  | .drydn m => Sys2Proof.Machine.execDrydn m s
  | .pquery m => Sys2Proof.Machine.execPquery m s
  | .repairCore m => Sys2Proof.Machine.execRepairCore m s
  | .repairRow m => Sys2Proof.Machine.execRepairRow m s
  | .repairLane m => Sys2Proof.Machine.execRepairLane m s
  | .apolicy m => Sys2Proof.Machine.execApolicy m s
  | .resume m => Sys2Proof.Machine.execResume m s
  | .reset m => Sys2Proof.Machine.execReset m s
  | .attest m => Sys2Proof.Machine.execAttest m s
  | .fwstage m => Sys2Proof.Machine.execFwstage m s
  | .fwswitch m => Sys2Proof.Machine.execFwswitch m s
  | .dbgnonce m => Sys2Proof.Machine.execDbgnonce m s
  | .dbggrant m => Sys2Proof.Machine.execDbggrant m s
  | .dbgrevoke m => Sys2Proof.Machine.execDbgrevoke m s
  | .unknownOpcode opcode m => Sys2Proof.Machine.execUnknownOpcode opcode m s
  | .mailboxComplete => Sys2Proof.Machine.execMailboxComplete s
  | .managementSession m => Sys2Proof.Machine.execManagementSession m s
  | .doorbellWrite vf offset value => Sys2Proof.Machine.execDoorbellWrite vf offset value s
  | .ringEntry ctx => Sys2Proof.Machine.execRingEntry ctx s
  | .functionLevelReset vf => Sys2Proof.Machine.execFunctionLevelReset vf s
  | .pfHotReset => Sys2Proof.Machine.execPfHotReset s
  | .atsInvalidation start length => Sys2Proof.Machine.execAtsInvalidation start length s
  | .pageRequestResponse index r => Sys2Proof.Machine.execPageRequestResponse index r s
  | .boot b => Sys2Proof.Machine.execBoot b s
  | .launchAdmission => Sys2Proof.Machine.execLaunchAdmission s
  | .launchStart seq => Sys2Proof.Machine.execLaunchStart seq s
  | .groupDispatch seq => Sys2Proof.Machine.execGroupDispatch seq s
  | .deadlinePass seq => Sys2Proof.Machine.execDeadlinePass seq s
  | .stageGroupFormation seq stage => Sys2Proof.Machine.execStageGroupFormation seq stage s
  | .flushTimeout seq stage => Sys2Proof.Machine.execFlushTimeout seq stage s
  | .launchEnd seq => Sys2Proof.Machine.execLaunchEnd seq s
  | .launchCompletion seq => Sys2Proof.Machine.execLaunchCompletion seq s
  | .groupPreempt g => Sys2Proof.Machine.execGroupPreempt g s
  | .preemptLoadAbandon g => Sys2Proof.Machine.execPreemptLoadAbandon g s
  | .groupSave g => Sys2Proof.Machine.execGroupSave g s
  | .groupResume g => Sys2Proof.Machine.execGroupResume g s
  | .rejoinExpiry g entry => Sys2Proof.Machine.execRejoinExpiry g entry s
  | .sleepWake g slot => Sys2Proof.Machine.execSleepWake g slot s
  | .mmaSlotEnd g => Sys2Proof.Machine.execMmaSlotEnd g s
  | .traceBlockTimeout g => Sys2Proof.Machine.execTraceBlockTimeout g s
  | .traceBlockWrite die core => Sys2Proof.Machine.execTraceBlockWrite die core s
  | .pageWalk die core part va => Sys2Proof.Machine.execPageWalk die core part va s
  | .mapFill g block => Sys2Proof.Machine.execMapFill g block s
  | .coreCacheEviction die core line => Sys2Proof.Machine.execCoreCacheEviction die core line s
  | .dbgWrite value => Sys2Proof.Machine.execDbgWrite value s
  | .dbgvalWrite value => Sys2Proof.Machine.execDbgvalWrite value s
  | .lszWrite value => Sys2Proof.Machine.execLszWrite value s
  | .rwinWrite stack value => Sys2Proof.Machine.execRwinWrite stack value s
  | .tvecWrite value => Sys2Proof.Machine.execTvecWrite value s
  | .tableBaseWrite which value => Sys2Proof.Machine.execTableBaseWrite which value s
  | .registerWrite r value => Sys2Proof.Machine.execRegisterWrite r value s
  | .nop x => Sys2Proof.Machine.execNop x s
  | .add x => Sys2Proof.Machine.execAdd x s
  | .sub x => Sys2Proof.Machine.execSub x s
  | .mul fn x => Sys2Proof.Machine.execMul fn x s
  | .mad fn x => Sys2Proof.Machine.execMad fn x s
  | .div fn x => Sys2Proof.Machine.execDiv fn x s
  | .min x => Sys2Proof.Machine.execMin x s
  | .max x => Sys2Proof.Machine.execMax x s
  | .iabs fn x => Sys2Proof.Machine.execIabs fn x s
  | .shl x => Sys2Proof.Machine.execShl x s
  | .shr x => Sys2Proof.Machine.execShr x s
  | .sar x => Sys2Proof.Machine.execSar x s
  | .rot fn x => Sys2Proof.Machine.execRot fn x s
  | .cmp fn x => Sys2Proof.Machine.execCmp fn x s
  | .sel x => Sys2Proof.Machine.execSel x s
  | .addmin fn x => Sys2Proof.Machine.execAddmin fn x s
  | .bfe x => Sys2Proof.Machine.execBfe x s
  | .bfi x => Sys2Proof.Machine.execBfi x s
  | .bits fn x => Sys2Proof.Machine.execBits fn x s
  | .bmux x => Sys2Proof.Machine.execBmux x s
  | .and x => Sys2Proof.Machine.execAnd x s
  | .or x => Sys2Proof.Machine.execOr x s
  | .xor x => Sys2Proof.Machine.execXor x s
  | .sad fn x => Sys2Proof.Machine.execSad fn x s
  | .fadd x => Sys2Proof.Machine.execFadd x s
  | .fsub x => Sys2Proof.Machine.execFsub x s
  | .fmul x => Sys2Proof.Machine.execFmul x s
  | .ffma x => Sys2Proof.Machine.execFfma x s
  | .fmin x => Sys2Proof.Machine.execFmin x s
  | .fmax x => Sys2Proof.Machine.execFmax x s
  | .fcmp fn x => Sys2Proof.Machine.execFcmp fn x s
  | .fsgn fn x => Sys2Proof.Machine.execFsgn fn x s
  | .frcp x => Sys2Proof.Machine.execFrcp x s
  | .frsq x => Sys2Proof.Machine.execFrsq x s
  | .fsqrt x => Sys2Proof.Machine.execFsqrt x s
  | .fdiv x => Sys2Proof.Machine.execFdiv x s
  | .fsf fn x => Sys2Proof.Machine.execFsf fn x s
  | .fclass x => Sys2Proof.Machine.execFclass x s
  | .frnd fn x => Sys2Proof.Machine.execFrnd fn x s
  | .fdot x => Sys2Proof.Machine.execFdot x s
  | .cvt x => Sys2Proof.Machine.execCvt x s
  | .pack fn x => Sys2Proof.Machine.execPack fn x s
  | .unpack fn x => Sys2Proof.Machine.execUnpack fn x s
  | .perm x => Sys2Proof.Machine.execPerm x s
  | .ins x => Sys2Proof.Machine.execIns x s
  | .ext x => Sys2Proof.Machine.execExt x s
  | .bscale fn x => Sys2Proof.Machine.execBscale fn x s
  | .mov fn x => Sys2Proof.Machine.execMov fn x s
  | .xprev x => Sys2Proof.Machine.execXprev x s
  | .xnext x => Sys2Proof.Machine.execXnext x s
  | .xsel x => Sys2Proof.Machine.execXsel x s
  | .xbcast x => Sys2Proof.Machine.execXbcast x s
  | .xscan fn x => Sys2Proof.Machine.execXscan fn x s
  | .xred fn x => Sys2Proof.Machine.execXred fn x s
  | .xvote fn x => Sys2Proof.Machine.execXvote fn x s
  | .xmatch x => Sys2Proof.Machine.execXmatch x s
  | .br x => Sys2Proof.Machine.execBr x s
  | .jmp fn x => Sys2Proof.Machine.execJmp fn x s
  | .call fn x => Sys2Proof.Machine.execCall fn x s
  | .ret x => Sys2Proof.Machine.execRet x s
  | .switch a et cases dflt => Sys2Proof.Machine.execSwitch a et cases dflt s
  | .rejoin x => Sys2Proof.Machine.execRejoin x s
  | .exit x => Sys2Proof.Machine.execExit x s
  | .yield fn x => Sys2Proof.Machine.execYield fn x s
  | .ld x => Sys2Proof.Machine.execLd x s
  | .st x => Sys2Proof.Machine.execSt x s
  | .ldls x => Sys2Proof.Machine.execLdls x s
  | .stls x => Sys2Proof.Machine.execStls x s
  | .ldfe x => Sys2Proof.Machine.execLdfe x s
  | .stfe x => Sys2Proof.Machine.execStfe x s
  | .clrfe x => Sys2Proof.Machine.execClrfe x s
  | .pref x => Sys2Proof.Machine.execPref x s
  | .lsmap x => Sys2Proof.Machine.execLsmap x s
  | .lsunmap x => Sys2Proof.Machine.execLsunmap x s
  | .lswb x => Sys2Proof.Machine.execLswb x s
  | .lsinv x => Sys2Proof.Machine.execLsinv x s
  | .fenceScope x => Sys2Proof.Machine.execFenceScope x s
  | .fencePath x => Sys2Proof.Machine.execFencePath x s
  | .fenceView x => Sys2Proof.Machine.execFenceView x s
  | .bind x => Sys2Proof.Machine.execBind x s
  | .unbind x => Sys2Proof.Machine.execUnbind x s
  | .acq fn x => Sys2Proof.Machine.execAcq fn x s
  | .rel fn x => Sys2Proof.Machine.execRel fn x s
  | .atom fn x => Sys2Proof.Machine.execAtom fn x s
  | .cas x => Sys2Proof.Machine.execCas x s
  | .fatom fn x => Sys2Proof.Machine.execFatom fn x s
  | .atomls fn x => Sys2Proof.Machine.execAtomls fn x s
  | .cbar fn x => Sys2Proof.Machine.execCbar fn x s
  | .wait l sc c t => Sys2Proof.Machine.execWait l sc c t s
  | .qpush x => Sys2Proof.Machine.execQpush x s
  | .qpop fn x => Sys2Proof.Machine.execQpop fn x s
  | .emit x => Sys2Proof.Machine.execEmit x s
  | .emitRec x => Sys2Proof.Machine.execEmitRec x s
  | .launch x => Sys2Proof.Machine.execLaunch x s
  | .racq x => Sys2Proof.Machine.execRacq x s
  | .rrel x => Sys2Proof.Machine.execRrel x s
  | .mma x => Sys2Proof.Machine.execMma x s
  | .mmas x => Sys2Proof.Machine.execMmas x s
  | .mzero x => Sys2Proof.Machine.execMzero x s
  | .mld x => Sys2Proof.Machine.execMld x s
  | .mst x => Sys2Proof.Machine.execMst x s
  | .mrstSet x => Sys2Proof.Machine.execMrstSet x s
  | .mrstEnd x => Sys2Proof.Machine.execMrstEnd x s
  | .mrd x => Sys2Proof.Machine.execMrd x s
  | .ecmd x => Sys2Proof.Machine.execEcmd x s
  | .rsend fn x => Sys2Proof.Machine.execRsend fn x s
  | .tex x => Sys2Proof.Machine.execTex x s
  | .hgrid x => Sys2Proof.Machine.execHgrid x s
  | .accld x => Sys2Proof.Machine.execAccld x s
  | .accAttach x => Sys2Proof.Machine.execAccAttach x s
  | .accDetach x => Sys2Proof.Machine.execAccDetach x s
  | .accVersion x => Sys2Proof.Machine.execAccVersion x s
  | .rast x => Sys2Proof.Machine.execRast x s
  | .rdsr x => Sys2Proof.Machine.execRdsr x s
  | .wrsr x => Sys2Proof.Machine.execWrsr x s
  | .trap x => Sys2Proof.Machine.execTrap x s
  | .eret x => Sys2Proof.Machine.execEret x s
  | .brk x => Sys2Proof.Machine.execBrk x s
  | .pfmap x => Sys2Proof.Machine.execPfmap x s
  | .tlbinv x => Sys2Proof.Machine.execTlbinv x s
  | .traceOn x => Sys2Proof.Machine.execTraceOn x s
  | .traceOff x => Sys2Proof.Machine.execTraceOff x s
  | .traceMark x => Sys2Proof.Machine.execTraceMark x s
  | .illegalInstruction words => Sys2Proof.Machine.execIllegalInstruction words s
  | .storePerformed op => Sys2Proof.Machine.execStorePerformed op s
  | .dieLinkOutOfService link => Sys2Proof.Machine.execDieLinkOutOfService link s

end Sys2Proof.Machine
end

