-- ==== Sys2Proof/Machine/Due.lean ====
section
/-!
DEFINITION. Which event of the module is due: everything that happens in a cycle other than the lanes' issues, in the order in
which the model takes what falls in one cycle (entry 5).
-/

namespace Sys2Proof.Machine

open Sys2Proof

/-- An event where a condition holds. -/
def whenDue (b : Bool) (i : Instr) : Option Instr := if b then some i else none

/-- Whether an event comes from outside the module: from the host, the fabric, the management port, the sensors, the memory
devices, or by a choice that the spec leaves to the implementation. -/
def fromOutside : Instr → Bool
  | .samplePeriod _ | .tamperAlarm | .clockAlarm | .spareCoreSubstitution .. | .laneSparing .. | .dieLinkOutOfService _
  | .repairComplete _ | .repairFailed _ | .verificationPassed _ | .verificationFailed _
  | .readRequest _ | .readResponse _ | .write _ | .writeAcknowledge _ | .atomicRequest _ | .atomicResponse _
  | .negativeAcknowledge _ | .collectiveData _ | .malformedFlit _ | .remoteAccessTimeout _
  | .timeMessage .. | .timeLockLoss | .scrub .. | .remapReloadComplete .. | .bankScrubComplete ..
  | .commandRevoke _ | .launchEnd _ | .pageWalk .. | .coreCacheEviction ..
  | .pcreate _ | .pdestroy _ | .pgrant _ | .prevoke _ | .pbases _ | .ctxwr _ | .drydn _ | .pquery _ | .repairCore _
  | .repairRow _ | .repairLane _ | .apolicy _ | .resume _ | .reset _ | .attest _ | .fwstage _ | .fwswitch _ | .dbgnonce _
  | .dbggrant _ | .dbgrevoke _ | .unknownOpcode .. | .managementSession _
  | .doorbellWrite .. | .functionLevelReset _ | .pfHotReset | .atsInvalidation .. | .pageRequestResponse .. | .boot _ => true
  | .registerWrite (.mailbox _ _) _ | .registerWrite (.priAllocation _) _ => true
  | _ => false

/-! ### Service controller, mailbox and rings -/

/-- The dies. -/
def dies : List Nat := List.range 4

/-- Whether the drain of a die's substitution has ended (R21). -/
def State.drainEnded (s : State) (die : Nat) : Bool :=
  match Tab.getD s.ctl.subst die [] with
  | [] => false
  | x :: _ => x.running && (s.onCore die x.core).isEmpty

/-- Nanoseconds of the copy of a row in refresh windows (entry 5). -/
def remapCopy : Nat := 2000

/-- Whether the row being copied has been copied (R55). -/
def State.copyEnded (s : State) : Bool :=
  s.ctl.remapping.isSome
    && (match s.ctl.lastRemap with | some t => t.toNat + remapCopy ≤ s.clock.time.toNat | none => true)

/-- Drydown of one partition (R23). -/
def State.dryEvent (s : State) (e : Nat × Part) : Option Instr :=
  if e.2.dry != .quiescing then none
  else if s.quiet e.1 then some (.quiesceComplete e.1)
  else whenDue (s.quiesceLate e.1) (.quiesceTimeout e.1)

/-- What is due at the service controller and the host boundary. -/
def State.controlEvent (s : State) : Option Instr :=
  whenDue (!s.clock.timeSet && firstLockBound ≤ s.clock.cycle) .firstLockTimeout
  <|> (dies.find? s.drainEnded).map .substitutionDrainDone
  <|> s.parts.findSome? s.dryEvent
  <|> whenDue s.copyEnded .remapCopyDone
  <|> whenDue s.remapOpen .rowRemap

/-- A ring whose next entry is presented, as core 64 of die 0 (R144). -/
def State.ringDue (s : State) : Option Instr :=
  (s.host.ctxs.find? fun (e : Nat × Ctx) => s.ringReady e.1 e.2).map fun e => .ringEntry e.1

/-! ### The arbiters -/

/-- Whether the arbiter may dispatch groups of a launch. -/
def State.dispatching (s : State) (l : Launch) : Bool :=
  l.state == .active && s.arbitrating && (s.part l.part).dry == .running

/-- Whether LAUNCH_COMPLETION changes a launch: it drains, or its token is written (R162, R163). -/
def State.completing (s : State) (l : Launch) : Bool :=
  match l.state with
  | .active | .draining | .ending =>
    if s.groupsRemain l || (s.part l.part).dry != .running then false
    else if s.workRemains l.seq || (l.recordsRemain && !l.ended) then l.state == .active && !l.ended
    else true
  | _ => false

/-- Whether a guaranteed launch's deadline has passed and has not been taken note of (R154). -/
def State.deadlineDue (s : State) (l : Launch) : Bool :=
  l.reserves && !l.deadlinePassed && (match l.deadline with | some d => d.toNat < s.clock.time.toNat | none => false)

/-- What is due at a stage of a launch (R159, R160, R422). -/
def State.stageEvent (s : State) (l : Launch) (e : Nat × Stage) : Option Instr :=
  if e.1 = 0 || !s.arbitrating || (s.part l.part).dry != .running then none
  else if !s.stageOpen l e.1 e.2 then whenDue e.2.eligible (.stageGroupFormation l.seq e.1)
  else if !e.2.eligible then
    some (if e.2.flushed s.clock.time then .flushTimeout l.seq e.1 else .stageGroupFormation l.seq e.1)
  else none

/-- The eligible stage with the highest fill fraction that a lane can take a group of, ties going to the lower number (R159). -/
def State.fullestStage (s : State) (l : Launch) : Option Nat :=
  if s.formedNow l.die || !s.arbitrating || (s.part l.part).dry != .running then none
  else
    let open_ := l.stages.filter fun (e : Nat × Stage) =>
      e.1 != 0 && s.stageOpen l e.1 e.2 && e.2.eligible && (s.stageLane l e.2).isSome
    (open_.foldl (fun (m : Option (Nat × Stage)) e =>
      match m with
      | none => some e
      | some x => if x.2.queue.length * e.2.cap < e.2.queue.length * x.2.cap then some e else m) none).map fun e => e.1

/-- What is due for one launch. -/
def State.launchEvent (s : State) (l : Launch) : Option Instr :=
  whenDue (s.deadlineDue l) (.deadlinePass l.seq)
  <|> whenDue (s.completing l) (.launchCompletion l.seq)
  <|> whenDue (l.state == .held && l.p.start.toNat ≤ s.clock.time.toNat && (s.part l.part).dry == .running && s.arbitrating)
        (.launchStart l.seq)
  <|> l.stages.findSome? (s.stageEvent l)
  <|> (s.fullestStage l).map (fun k => Instr.stageGroupFormation l.seq k)
  <|> whenDue (s.dispatching l && l.nextGix < l.p.groups && s.gridTurn l && (s.nextLanes l).isSome) (.groupDispatch l.seq)

/-- What a guaranteed launch wants residency for and does not get (R155): base registers, the size of the gang, and a lane. -/
def State.wanted (s : State) (l : Launch) : List (Nat × Nat × Nat × Nat × Nat) :=
  if l.p.cls != 0 || !s.dispatching l then []
  else
    let n := max 1 l.p.gsz
    let base := baseOf l.p.regs
    let grid := if l.nextGix < l.p.groups && s.gridTurn l then
      (((l.place.drop l.nextGix).take n).filter fun k => !s.canTake l base (n - 1) k).map fun k => (base, n, k) else []
    let staged := ((l.stages.filter fun (e : Nat × Stage) => e.2.eligible && (s.stageLane l e.2).isNone).map
      fun e => l.lanes.map fun k => (baseOf e.2.regs, 1, k)).flatten
    let back := (s.saved.filter fun g => g.launch == l.seq && s.placeable l.part g.id.die g.id.core && !s.mayResume g).map
      fun g => (g.base, (s.savedTogether g).length, g.laneOf)
    grid ++ staged ++ back

/-- The group that the arbiter pre-empts to make residency for a guaranteed launch (R155). -/
def State.residencyEvent (s : State) : Option Instr :=
  s.launches.findSome? fun (e : Nat × Launch) =>
    (s.wanted e.2).findSome? fun w => (s.victim e.2 w.1 w.2.1 w.2.2).map fun g => .groupPreempt g.id

/-- Whether a saved group leaves its core's residency to a guaranteed launch that still wants some there (R155). -/
def State.yields (s : State) (g : Group) : Bool :=
  (s.launch? g.launch).any (fun l => l.p.cls != 0) && s.launches.any fun (e : Nat × Launch) =>
    (s.wanted e.2).any fun w => w.2.2.1 == g.id.die && w.2.2.2.1 == g.id.core

/-- What is due at the arbiters: the decisions, the guaranteed launches, the saved groups, the other launches, then
residency. -/
def State.arbiterEvent (s : State) : Option Instr :=
  whenDue (s.arbitrating && s.presented.head?.any fun q => !s.descOut q) .launchAdmission
  <|> s.launches.findSome? (fun (e : Nat × Launch) => if e.2.p.cls = 0 then s.launchEvent e.2 else none)
  <|> (s.saved.find? fun g => s.mayResume g && !s.yields g).map (fun g => .groupResume g.id)
  <|> s.launches.findSome? (fun (e : Nat × Launch) => s.launchEvent e.2)
  <|> s.residencyEvent

/-! ### Groups -/

/-- A rejoin entry whose expiry takes effect: after the issues of the cycle, so that an arrival in it wins (R179). -/
def State.lateEvent (s : State) : Option Instr :=
  s.groups.findSome? fun g =>
    (g.rejoin.find? fun e => e.expired s.clock.time).map fun e => .rejoinExpiry g.id e.token.toNat

/-- Whether a sleeping split's time has come (R351). -/
def Split.wakes (p : Split) (now : Word) : Bool :=
  match p.wait with | .sleep t _ => t.toNat ≤ now.toNat | _ => false

/-- The block whose fill a split waits for (R222). -/
def Split.fillOf (p : Split) : Option Nat := match p.wait with | .fill b => some b | _ => none

/-- What is due for a group that the lane has stopped (R199, R200). -/
def State.stopEvent (s : State) (g : Group) : Option Instr :=
  match g.stop with
  | none => none
  | some c =>
    if (s.together g).all fun i => (s.group? i).any fun h => h.hold == .exited || (h.stop.isSome && s.drained h) then
      some (.groupSave g.id)
    else
      whenDue (c + drainBound ≤ s.clock.cycle
        && s.hasOp g.id fun o => o.kind.drains && (match o.kind with | .status .. => false | _ => true))
        (.preemptLoadAbandon g.id)

/-- What is due for one resident group. -/
def State.groupEvent (s : State) (g : Group) : Option Instr :=
  ([false, true].find? fun k => (g.inSlot k).any fun p => p.wakes s.clock.time).map (fun k => .sleepWake g.id k)
  <|> (if s.fillOut g.id then none else (g.splits.findSome? Split.fillOf).map fun b => .mapFill g.id b)
  <|> whenDue (!g.trc.block.isEmpty && g.trc.first + 4096 ≤ s.clock.cycle) (.traceBlockTimeout g.id)
  <|> s.stopEvent g

/-! ### Outstanding operations and the fabric -/

/-- Whether an operation's accesses are complete. -/
def State.opComplete (s : State) (e : Nat × Op) : Bool :=
  e.2.due ≤ s.clock.cycle && e.2.tags.isEmpty && !s.requestsLeft e.1

/-- What is due for one operation. -/
def State.opEvent (s : State) (e : Nat × Op) : Option Instr :=
  match e.2.kind with
  | .store => whenDue (s.opComplete e) (.storePerformed e.1)
  | .ldfe w =>
    if w.isEmpty then whenDue (s.opComplete e) (.loadDataLand e.1)
    else whenDue (w.any fun x => x.late s.clock.cycle) (.ldfeTimeout e.1)
  | .accord .. => whenDue (e.2.due ≤ s.clock.cycle && (s.group? e.2.g).isSome) (.accordTileLoad e.1)
  | .filter .. => whenDue (e.2.due ≤ s.clock.cycle) (.filterRequest e.1)
  | .detach after =>
    whenDue (s.opComplete e && after.all fun k => (Tab.get? k s.eng.ops).isNone) (.loadDataLand e.1)
  | .status .. => none
  | .load | .remote | .tile .. | .local_ .. => whenDue (s.opComplete e) (.loadDataLand e.1)

/-- What is due for the lanes' groups and what they have outstanding. -/
def State.laneEvent (s : State) : Option Instr :=
  s.eng.ops.findSome? s.opEvent
  <|> (s.eng.slots.find? fun m => m.until_ ≤ s.clock.cycle).map (fun m => .mmaSlotEnd m.m.g)
  <|> s.groups.findSome? s.groupEvent
  <|> (s.fabric.waiting.find? fun (e : Nat × Remote) => s.timedOut e.2).map
        fun e => .remoteAccessTimeout (BitVec.ofNat 16 e.1)

/-! ### Channels -/

/-- What is due on a channel: its queue first, so that a request in the cycle in which an idle timer ends wins (R50). -/
def State.chanEvent (s : State) (k ch : Nat) : Option Instr :=
  let c := s.chan k ch
  if !c.queue.isEmpty then
    match c.power with
    | .powerdown => some (.powerdownExit k ch)
    | .selfrefresh => some (.selfrefreshExit k ch)
    | .active =>
      whenDue (c.busy ≤ s.clock.cycle
        && (match s.pick k ch c.queue with | some (r, _) => !r.atoms.any s.copying | none => false)) (.memoryRequest k ch)
      <|> whenDue (s.refreshDue k ch) (.refreshWindow k ch)
  else
    whenDue (s.refreshDue k ch) (.refreshWindow k ch)
    <|> whenDue (s.powerdownDue k ch) (.powerdownEntry k ch)
    <|> whenDue (s.selfrefreshDue k ch) (.selfrefreshEntry k ch)

/-- What is due on the channels of the stacks: 64 pseudo-channels and 8 tier channels each. -/
def State.stackEvent (s : State) : Option Instr :=
  (List.range 12).findSome? fun k => (List.range 72).findSome? fun ch => s.chanEvent k ch

/-! ### Engines -/

/-- Whether a collective has something to do: to read and send its part, to reduce what has arrived, or to end. -/
def State.collDue (s : State) (c : Cmd) : Bool :=
  !s.collBehind c && (!c.asked || !c.sent
    || (match s.ranks c with | some l => (s.collParts c l).isSome || (s.collEnd? c l).isSome | none => true))

/-- The block of a mapped range that the next element of a command waits for (R222). -/
def State.blockOfCmd (s : State) (c : Cmd) : Option Nat :=
  match c.cls with
  | 0 => s.copyBlock c c.done
  | 1 => s.gatherBlock c
  | 2 => (s.mvec? c).bind fun mv => s.mvecBlock c mv
  | _ => none

/-- Whether an engine can go on with a command: nothing that it has asked for is outstanding, and no fill is. -/
def State.cmdOpen (s : State) (c : Cmd) : Bool :=
  s.ready c c.cls && !(c.cls = 0 && s.copyWaits c)
    && !(!c.asked && (c.dls || (c.cls = 0 && c.shape.testBit 7)) && s.fillHeld c && (s.blockOfCmd c).isSome)

/-- What is due for an engine command. A partition in drydown starts none (R23). -/
def State.cmdEvent (s : State) (e : Nat × Cmd) : Option Instr :=
  let c := e.2
  if s.clock.cycle < c.due then none
  else
    match c.phase with
    | .finished => some (.commandCompletion e.1)
    | .swapping => whenDue (c.cls == 3) (.foldSwap e.1)
    | .stopped => none
    | .queued =>
      if (s.part c.part).dry != .running || !s.cmdOpen c then none
      else
        match c.cls with
        | 0 => some (.copyCommand e.1)
        | 1 => some (.gatherPool e.1)
        | 2 => some (.matrixVector e.1)
        | 3 => some (.fold e.1)
        | _ => whenDue (s.collDue c) (.collective e.1)

/-- Whether the read of a spilled ray has completed (R427). -/
def Ray.moved (r : Ray) (cycle : Nat) : Option Nat :=
  match r.place with
  | .queued k _ true true => if r.due ≤ cycle then some k else none
  | _ => none

/-- What is due at a traversal engine: the end of a pass, or a take by an engine that holds no ray. -/
def State.engineEvent (s : State) (k n : Nat) : Option Instr :=
  let l := s.heldRays k n
  if l.isEmpty then whenDue (logicEnds s.clock.cycle && s.eng.rays.any fun (e : Nat × Ray) => e.2.onDie k) (.engineTake k n)
  else whenDue (l.all fun e => e.2.due ≤ s.clock.cycle && !s.requestsLeft e.1) (.traversalPass k n)

/-- What is due for rays: arrivals and moves before passes and takes. -/
def State.rayEvent (s : State) : Option Instr :=
  if s.eng.rays.isEmpty then none
  else
    s.nextArrival.map .rayArrival
    <|> s.eng.rays.findSome? (fun (e : Nat × Ray) => (e.2.moved s.clock.cycle).map fun k => .spillMoveIn k e.2.queueKey)
    <|> (List.range 12).findSome? fun k => (List.range 4).findSome? fun n => s.engineEvent k n

/-- Whether a record arrives now, or has arrived and may go on (R108, R429). -/
def State.recordDue (s : State) (e : Nat × HitRec) : Bool :=
  if !e.2.arrived then e.2.due ≤ s.clock.cycle
  else (s.eng.batches.any fun b => b.bid == e.2.bid && (s.nextRecord b).any fun x => x.1 == e.1)
    && (s.mayEnter e.2 || s.discards e.2)

/-- What is due at a die's raster engine. -/
def State.drawEvent (s : State) (die : Nat) : Option Instr :=
  ((s.doneDraw die).bind fun d => whenDue (d.due ≤ s.clock.cycle && !s.requestsLeft (drawKey die)) (.drawCompletion die))
  <|> (s.nextDraw die).bind fun d =>
        whenDue (d.due ≤ s.clock.cycle) (if d.reprojects then .reproject die else .rasterDraw die)

/-- What is due at the engines. -/
def State.workEvent (s : State) : Option Instr :=
  s.eng.cmds.findSome? s.cmdEvent
  <|> s.rayEvent
  <|> (s.eng.records.find? s.recordDue).map (fun e => .recordArrival e.1)
  <|> dies.findSome? s.drawEvent

/-! ### The next event -/

/-- The event that is due next. In LOCKED every core and engine stands still; only the mailbox answers (R139). -/
def State.nextEvent (s : State) : Option Instr :=
  whenDue s.host.box.running.isSome .mailboxComplete
  <|> (if s.sec.state == .locked then none
    else s.controlEvent <|> s.stackEvent <|> s.laneEvent <|> s.workEvent <|> s.arbiterEvent)

/-- The core whose next trace block is written: blocks are written after the issues of their cycle (R210, R437). -/
def State.traceEvent (s : State) : Option Instr :=
  if s.sec.state == .locked then none
  else (s.cores.find? fun (e : Nat × Core) => (nextBlock e.2.traceQ).isSome).map
    fun e => .traceBlockWrite (e.1 / 64) (e.1 % 64)

end Sys2Proof.Machine
end

