-- ==== Sys2Proof/Machine/Ready.lean ====
section
/-!
DEFINITION. Fetching an instruction (R284, R302), and the readiness of its operands: six cycles from the issue of a thread in
the instruction that writes a register or predicate to its issue in one that uses it (R167, R334).
-/

namespace Sys2Proof.Machine

open Sys2Proof

/-! ### Fetch (R174, R284, R302) -/

/-- The words of the instruction at the current split's PC, or the cause and the address of a word that cannot be fetched,
with the words before it. -/
def State.fetchWords (s : State) : (fuel : Nat) → List Nat → Except (BitVec 8 × Nat × List Nat) (List Nat) × State
  | 0, ws => (.ok ws, s)
  | fuel + 1, ws =>
    if wordsNeeded ws ≤ ws.length then (.ok ws, s)
    else
      let g := s.cur
      let va := (g.sp.pc.toNat + 4 * ws.length) % 2 ^ 48
      match s.translate { g.acc false with fetch := true } (BitVec.ofNat 64 va) 4 4 with
      | (.error c, s) => (.error (c, va, ws), s)
      | (.ok m, s) =>
        if s.poisoned m va 4 then (.error (0x0D, va, ws), s)
        else
          let w := leNat (s.coreBytes g.id.die g.id.core m va 4)
          State.fetchWords (s.touch g.id.die g.id.core m va 4 0) fuel (ws ++ [w])

/-! ### The registers and predicates that an instruction uses -/

/-- The code of a predicate, behind those of the registers; `k0` is constant and has none. -/
def predCodes (k : Nat) : List Nat := if k = 0 then [] else [128 + k]

/-- The predicate of an instruction. -/
def guardOf (i : Instr) : Pred :=
  match i.ordinary with
  | some (_, _, x) => x.pred
  | none =>
    match i with
    | .br x | .jmp _ x | .call _ x | .mrstSet x | .mrstEnd x => x.pred
    | _ => pred0

/-- The registers that the A field stands for: several of some instructions (R381, R387, R390, R411, R412). -/
def State.aCount (s : State) (opc : Nat) (x : Ord) : Nat :=
  match opc with
  | 0x5B => 8
  | 0x60 => match resolveFmt x.et.code (fmtAF s.cur.sp.fmt) with | some e => aRegs e | none => 4
  | 0x61 | 0x69 => 4
  | 0x6A => 3
  | 0x6B => 2
  | _ => 1

/-- The register of an indirect `mov` (R172). -/
def State.indirectCode (s : State) (x : Ord) : List Nat :=
  let n := (s.cur.opd x.a 0).toNat + x.imm.toNat
  if n < 96 then [n] else []

/-- The codes that an instruction in the ordinary form reads. -/
def State.readsOrd (s : State) (opc fn : Nat) (x : Ord) : List Nat :=
  match Sys2Proof.rowOf opc fn with
  | none => []
  | some r =>
    (if r.a = .none then [] else (List.range (s.aCount opc x)).map (x.a.code + ·))
      ++ (match r.b, x.b with
          | .none, _ => []
          | _, .reg b => if opc = 0x68 then [b.code, b.code + 1] else [b.code]
          | _, _ => [])
      ++ (match r.c with | .none | .sel => [] | _ => if opc = 0x61 then [x.c.code, x.c.code + 1] else [x.c.code])
      ++ predCodes x.pred.k.val
      ++ (if r.imm = .pred then predCodes (x.imm.toNat % 8) else [])
      ++ (if opc = 0x3B then [15] else [])
      ++ (if opc = 0x2F ∧ fn = 2 then s.indirectCode x else [])

/-- The codes that an instruction reads. -/
def State.reads (s : State) (i : Instr) : List Nat :=
  match i.ordinary with
  | some (opc, fn, x) => s.readsOrd opc fn x
  | none =>
    match i with
    | .br x | .jmp .direct x | .call .direct x | .mrstSet x | .mrstEnd x => predCodes x.pred.k.val
    | .jmp .indirect x | .call .indirect x => x.a.code :: predCodes x.pred.k.val
    | .switch a _ _ _ => [a.code]
    | _ => []

/-- Opcodes whose destination is written when an answer lands, and is not covered by the rule: loads, atomics, lookups,
`launch` and `mrd` (R167, R173). -/
def landsLater (opc : Nat) : Bool := [0x40, 0x42, 0x44, 0x50, 0x51, 0x52, 0x53, 0x5B, 0x66, 0x6A, 0x6B].contains opc

/-- The codes that an instruction writes as its threads issue; `g31` is constant. -/
def State.writesAt (s : State) (i : Instr) : List Nat :=
  (match i.ordinary with
  | some (opc, fn, x) =>
    match Sys2Proof.rowOf opc fn with
    | none => []
    | some r =>
      (if landsLater opc then []
       else match r.d with
        | .any | .v | .g => [x.d.code]
        | .pred => predCodes (x.d.code % 8)
        | .none | .acc => [])
      ++ (if opc = 0x2F ∧ fn = 3 then s.indirectCode x else [])
  | none => match i with | .call _ _ => [15] | _ => []).filter (· != 127)

/-- Whether an instruction is uniform (R168). -/
def isUniform (i : Instr) : Bool :=
  match i.ordinary with
  | some (opc, fn, x) => match Sys2Proof.rowOf opc fn with | some r => uBitOf r x.d.code == 1 | none => false
  | none => match i with | .mrstSet _ | .mrstEnd _ | .wait _ _ _ _ => true | _ => false

/-- Whether an instruction issues thread by thread (R166, R168): each that is not uniform, a cross-thread instruction, `emit`,
and a uniform one with an operand in a vector register, but for `mma` and `mmas` (R389). -/
def State.perThreadIssue (s : State) (i : Instr) : Bool :=
  !(isUniform i) || (match i.ordinary with
    | some (opc, _, _) =>
      opc != 0x60 && opc != 0x61 && ((0x30 ≤ opc && opc ≤ 0x37) || opc == 0x5A || (s.reads i).any fun n => n < 96)
    | none => false)

/-- The other threads whose A register a thread of a cross-thread instruction reads (R334). -/
def crossReads (opc : Nat) (e : List Nat) (t : Nat) : List Nat :=
  match opc with
  | 0x30 => ((e.filter fun u => u < t).getLast?).toList
  | 0x31 => (e.find? fun u => t < u).toList
  | 0x32 | 0x33 => List.range 32
  | 0x37 => e
  | _ => []

/-! ### Readiness (R167, R334) -/

/-- Cycles from the issue of a producer's thread to that of a consumer's (R167). -/
def pipeDepth : Nat := 6

/-- The cycle from which a thread's copy of a register or predicate may be used. -/
def Group.usableAt (g : Group) (code t : Nat) : Nat := (Tab.getD g.usable code []).getD t 0

/-- Whether each executing thread of an instruction would issue when its operands may be used (R167, R334). -/
def State.operandsReady (s : State) (i : Instr) : Bool :=
  let g := s.cur
  let e := threads (g.exec (guardOf i))
  let codes := s.reads i ++ s.writesAt i
  let each := s.perThreadIssue i
  e.zipIdx.all fun (x : Nat × Nat) =>
    let c := s.clock.cycle + if each then x.2 else 0
    codes.all (fun n => g.usableAt n x.1 ≤ c)
      && (match i.ordinary with
          | some (opc, _, o) => (crossReads opc e x.1).all fun u => g.usableAt o.a.code u ≤ c
          | none => true)

/-- Whether the current split's instruction is ready in this respect. One that has issued and waits is; so is one whose words
raise a trap. -/
def State.operandsIn (s : State) : Bool :=
  if s.cur.sp.charged || !s.cur.usable.any (fun e => e.2.any fun c => s.clock.cycle < c) then true
  else
    match (s.fetchWords maxWords []).1 with
    | .error _ => true
    | .ok ws => match decodeWords ws with | .error _ => true | .ok i => s.operandsReady i

/-- Whether the issuing split has only begun to wait: the lane has not been taken. -/
def stalled (s0 s : State) : Bool :=
  let i := s0.cur.id
  Tab.getD (s.core i.die i.core).busy i.lane 0 ≤ s.clock.cycle

/-- The threads that have issued an instruction: all that execute, or those below the thread at which the budget ended (R153). -/
def State.issuedThreads (s s' : State) (i : Instr) : List Nat :=
  let e := threads (s.cur.exec (guardOf i))
  match s.cur.hand, (s'.group? s.cur.id).bind fun g => g.hand.map fun h => (g.tcause, h.rec_) with
  | none, some (cause, r) => if cause = 0x09 && r.st = 1 then e.filter fun t => t < r.rtid.toNat else []
  | _, _ => e

/-- The cycles from which the threads may use what an instruction writes: six after each thread's issue, or six after the last
cycle of a uniform instruction and of `xvote` (R167, R334). -/
def State.usableRow (s s' : State) (i : Instr) (e : List Nat) (old : List Nat) : List Nat :=
  let last := Tab.getD (s'.core s.cur.id.die s.cur.id.core).busy s.cur.id.lane 0 - 1
  (List.range 32).map fun t =>
    if isUniform i || (match i with | .xvote _ _ => true | _ => false) then last + pipeDepth
    else if e.contains t then s.clock.cycle + e.idxOf t + pipeDepth
    else old.getD t 0

/-- Keep what the issue of an instruction has written, from the state before it; one that has trapped whole or only waits is not
counted. -/
def State.noteWrites (s : State) (i : Instr) (s' : State) : State :=
  let ws := s.writesAt i
  let e := s.issuedThreads s' i
  if ws.isEmpty || e.isEmpty || s.cur.sp.charged || stalled s s' then s'
  else
    s'.updGroup s.cur.id fun g =>
      if g.launch == s.cur.launch && g.gix == s.cur.gix then
        let live := g.usable.filter fun (e : Nat × List Nat) => e.2.any fun c => s.clock.cycle < c
        { g with usable := ws.foldl (fun u n => Tab.set n (s.usableRow s' i e (Tab.getD u n [])) u) live }
      else g

/-- The same of an outcome. -/
def State.noted (s : State) (i : Instr) : Out → Out
  | .next s' => .next (s.noteWrites i s')
  | r => r

end Sys2Proof.Machine
end

