-- ==== Sys2Proof/Machine/Issue.lean ====
section
/-!
DEFINITION. The lanes: which split issues (R145, R150, R151, R166, R187), breakpoints,
trace packets at issue, and what follows an issue; and the tick of the clock.
-/

namespace Sys2Proof.Machine

open Sys2Proof

/-! ### Waiting and ready splits (R185, R187, R199, R205) -/

/-- Whether a ring has room, or an entry (R377, R378). -/
def State.queueOpen (s : State) (desc : Nat) (push : Bool) : Bool :=
  let d := QDesc.of (s.homeNat desc 64)
  if push then !d.full else d.used != 0

/-- Whether what the current split waits for has come. -/
def State.waitOpen (s : State) : Bool :=
  let g := s.cur
  match g.sp.wait with
  | .none => true
  | .until_ n => n ≤ s.clock.cycle
  | .counters l a c t => g.countersOpen l a c t
  | .counterFull k => g.counter k < 62
  | .acquire => s.waiterOf.any fun w => w.met
  | .barrier b ph => !g.sp.charged || s.phaseOf b != ph
  | .block => (match s.team? g with | some t => 0 < t.xqFree | none => true)
  | .queue d push => s.queueTurn d push g.id && s.queueOpen d push
  | .stage q k =>
    match s.stage? q k with
    | some x => x.queue.length < x.cap && x.formed != s.clock.cycle + 1
    | none => true
  | .rays n => s.raysFit g n
  | .tile a => !s.tileBusy g.id a
  | .fence k => s.fenceOpen g.id k
  | .path p => s.pathOpen g.id p
  | .dropped n scope lo hi => !s.usesDropped n scope lo hi
  | .raise _ _ _ _ => true
  | .sleep _ _ | .op _ | .latch | .matrixSlot | .fill _ => false

/-- Whether a split is to issue before every other of its group: the remainder of its instruction (R187), or what `eret` returned
it to (R196). One that has issued and waits, or waits for what the group's other split may do, holds back no other. -/
def Split.resuming (p : Split) : Bool :=
  (p.first || p.st = 1 || p.st = 2) && !p.charged
    && (match p.wait with | .queue .. | .stage .. | .block | .counters .. => false | _ => true)

/-- Whether a stopped group lets a split complete the instruction that it has issued (R187, R199). -/
def Split.finishing (p : Split) : Bool :=
  match p.wait with | .fence _ => true | .path _ => true | .dropped .. => true | .acquire => true | _ => false

/-- The slot that single step selects (R205). -/
def Group.steppedSlot (g : Group) : Bool := g.dbgSel != 0

/-- Whether a group lets the split of a slot issue, apart from what the split waits for. -/
def Group.lets (g : Group) (slot : Bool) (p : Split) : Bool :=
  g.live && g.hold == .none
    && (g.stop.isNone || p.finishing)
    && (if g.hand.isSome then p.hand
      else (p.resuming || !(g.inSlot (!slot)).any Split.resuming) && (!g.dbg.getLsbD 8 || slot == g.steppedSlot))

/-- The state with a group's split of a slot as the issuing one. -/
def State.view (s : State) (i : Gid) (slot : Bool) : State :=
  let s := s.focus i
  { s with cur := s.cur.select slot }

/-- Whether the split of a group's slot is ready. -/
def State.slotReady (s : State) (g : Group) (slot : Bool) : Bool :=
  match g.inSlot slot with
  | none => false
  | some p => g.lets slot p && (s.view g.id slot).waitOpen && (s.view g.id slot).operandsIn

/-! ### The lane's choice (R150, R151, R153) -/

/-- A ready split and what the lane compares. -/
structure Cand where
  g : Gid
  slot : Bool
  /-- 0 guaranteed, 1 best-effort, 2 background -/
  cls : Nat
  order : List Nat
  age : List Nat
  deriving DecidableEq, Repr

/-- The class a group runs in: an overrun launch runs as best-effort (R153). -/
def State.classOf (s : State) (g : Group) : Nat :=
  match s.launch? g.launch with
  | some l => if l.overrun then 1 else l.p.cls
  | none => 1

/-- A candidate. -/
def State.cand (s : State) (g : Group) (slot : Bool) : Cand :=
  let c := s.classOf g
  let p := (g.inSlot slot).getD Split.empty
  let age := [p.age, if slot then 1 else 0, g.id.slot]
  ⟨g.id, slot, c, (if c = 0 then [0, g.dl.toNat, g.launch] else [c]) ++ age, age⟩

/-- The lexical order of lists of one length. -/
def lexLt : List Nat → List Nat → Bool
  | a :: l, b :: m => a < b || (a == b && lexLt l m)
  | _, _ => false

/-- The first of the candidates by a key. -/
def firstBy (key : Cand → List Nat) : List Cand → Option Cand
  | [] => none
  | c :: l =>
    match firstBy key l with
    | none => some c
    | some d => if lexLt (key d) (key c) then some d else some c

/-- Whether no best-effort split has issued on a lane in the preceding 31 cycles (R151). -/
def State.floorDue (s : State) (k : Nat × Nat × Nat) : Bool :=
  let last := Tab.getD (s.core k.1 k.2.1).lastBest k.2.2 0
  last = 0 || last + 31 ≤ s.clock.cycle

/-- The ready splits of a lane. -/
def State.ready_ (s : State) (k : Nat × Nat × Nat) : List Cand :=
  ((s.onLane k).map fun g => ([false, true].filter (s.slotReady g)).map (s.cand g)).flatten

/-- The split that a lane issues now, where it is free. -/
def State.pickSplit (s : State) (k : Nat × Nat × Nat) : Option Cand :=
  if s.clock.cycle < Tab.getD (s.core k.1 k.2.1).busy k.2.2 0 then none
  else
    let l := s.ready_ k
    match firstBy Cand.age (l.filter fun c => c.cls == 1) with
    | some c => if s.floorDue k then some c else firstBy Cand.order l
    | none => firstBy Cand.order l

/-- The number of a lane in the module. -/
def laneNo (k : Nat × Nat × Nat) : Nat := k.1 * 3072 + k.2.1 * 64 + k.2.2

/-- The first of a list of lanes that issues in this cycle, from the lane whose turn it is. -/
def State.firstLane (s : State) : List (Nat × Nat × Nat) → Option Cand
  | [] => none
  | k :: l =>
    match s.pickSplit k with
    | some c => some c
    | none => State.firstLane s l

/-- A lane in a list in rising order. -/
def insertLane (k : Nat × Nat × Nat) : List (Nat × Nat × Nat) → List (Nat × Nat × Nat)
  | [] => [k]
  | j :: l => if laneNo k < laneNo j then k :: j :: l else if laneNo k = laneNo j then j :: l else j :: insertLane k l

/-- The lanes with a resident group, in rising order. -/
def State.lanes (s : State) : List (Nat × Nat × Nat) := s.groups.foldl (fun l g => insertLane g.laneOf l) []

/-- The split that issues next in this cycle. -/
def State.nextIssue (s : State) : Option Cand := s.firstLane (s.lanes.filter fun k => s.turn ≤ laneNo k)

/-! ### Instructions that do not issue (R284, R301) -/

/-- A whole-class trap of an instruction that does not issue: the lane takes its one cycle (entry 18). -/
def State.turnAway (s : State) (tr : Trap) : State := ((if s.cur.sp.charged then s else s.charge 1).occupy 1).trap tr

/-- A word cannot be fetched: KIND bit 1, at the lowest active thread (R284). -/
def State.fetchFault (s : State) (c : BitVec 8) (va : Nat) : State :=
  let t := lowest s.cur.sp.mask
  s.turnAway { s.cur.wholeTrap c t with faults := [⟨t, c, BitVec.ofNat 64 va⟩], kind := 0x02 }

/-! ### At the issue -/

/-- Whether an execution comparator covers the instruction's address (R204). -/
def State.breaks (s : State) : Bool :=
  s.comparing && !s.cur.sp.charged && (s.core s.cur.id.die s.cur.id.core).bpc.any fun (e : Nat × Word) =>
    field e.2.toNat 61 2 == 0 && comparatorHits e.2 s.cur.sp.pc.toNat 1

/-- The breakpoint trap: its return issues with comparators suppressed (R204). -/
def State.breakAt (s : State) (p : Pred) : State :=
  s.turnAway { s.cur.wholeTrap 0x0E (s.cur.reportAt p) with omask := s.cur.omask p, quiet := true }

/-- The packets that a traced issue begins with (R209): SYNC where one is due, then SPL. -/
def State.traceIssue (s : State) : State :=
  let t := s.cur.trc
  if !t.on then s
  else
    let s :=
      if t.wantSync || s.cur.sp.sync || 256 ≤ t.sinceSync || t.syncCycle + 65536 ≤ s.clock.cycle then
        let s := s.emitPacket (.sync s.cur.sp.pc)
        { s with cur := { s.cur with
            trc := { s.cur.trc with wantSync := false }, sp := { s.cur.sp with sync := false } } }
      else s
    let s := if s.cur.slot != t.lastSlot then s.emitPacket (.spl s.cur.slot) else s
    { s with cur := { s.cur with trc := { s.cur.trc with lastSlot := s.cur.slot } } }

/-- Run an instruction with the packets of its issue; one that only begins to wait has not issued. -/
def State.traced (s : State) (run : State → Out) : Out :=
  if !s.cur.trc.on || s.cur.sp.charged then run s
  else
    match run s with
    | .next s' => if stalled s s' then .next s' else run s.traceIssue
    | r => r

/-- Whether every thread of a re-issue has a failed page request (R133). -/
def Group.allDenied (g : Group) : Bool := g.sp.st = 2 && g.sp.rem != 0 && (threads g.sp.rem).all g.isDenied

/-- The trap of threads whose page requests have failed, where no other thread re-issues (R133). -/
def State.denyAll (s : State) : State :=
  match s.cur.denied.find? fun h => h.slot == s.cur.slot with
  | none => s
  | some h =>
    let s := { s with cur := s.cur.undenied }
    s.turnAway (s.cur.memoryTrap h.faults h.kind h.omask h.iw0)

/-- An instruction whose remaining threads are none: the split goes on behind it (R196). -/
def State.skip (s : State) (i : Instr) : State := { s with cur := s.cur.advance i.length s.clock.cycle }

/-- The issue of the current split's instruction. -/
def State.issueWords (s : State) (ws : List Nat) : Out :=
  let words := ws.map (BitVec.ofNat 32)
  let s := { s with cur := { s.cur with iw0 := words.headD 0 } }
  if s.breaks then s.traced fun s => .next (s.breakAt (predOfWords words))
  else
    match decodeWords ws with
    | .error _ => s.traced (exec (.illegalInstruction words))
    | .ok i =>
      if s.cur.sp.st = 2 && s.cur.sp.rem = 0 then .next (s.skip i)
      else if s.cur.allDenied then .next s.denyAll
      else s.noted i (s.traced (exec i))

/-- The trap that an earlier wait has left to the next issue (R376, R391). -/
def State.raiseNow (s : State) (c : BitVec 8) (t : Nat) (iw0 : BitVec 32) (omask : Mask) : State :=
  let s := { s with cur := { s.cur with iw0 := iw0, sp := { s.cur.sp with wait := .none, charged := false } } }
  s.turnAway { s.cur.wholeTrap c t with omask := omask }

/-- The current split issues. -/
def State.issueCur (s : State) : Out :=
  match s.cur.sp.wait with
  | .raise c t iw0 omask => .next (s.raiseNow c t iw0 omask)
  | _ =>
    if !s.cur.abandoned.isEmpty && s.cur.stop.isNone && s.cur.hand.isNone then .next s.takeAbandoned else
    match s.fetchWords maxWords [] with
    | (.error (c, va, ws), s) =>
      .next (({ s with cur := { s.cur with iw0 := BitVec.ofNat 32 (ws.headD 0) } }).fetchFault c va)
    | (.ok ws, s) => s.issueWords ws

/-! ### After the issue -/

/-- The last best-effort issue of a lane (R151). -/
def State.noteBest (s : State) (c : Cand) (busy : Nat) : State :=
  if c.cls != 1 then s
  else
    let k := s.core c.g.die c.g.core
    s.setCore c.g.die c.g.core { k with lastBest := Tab.set c.g.lane busy k.lastBest }

/-- When the last thread of a gang's member has exited, the members at the latch learn it (R391). -/
def State.noteExit (s : State) (g : Group) : State :=
  if g.gang.isEmpty then s
  else if (s.group? g.id).any fun h => h.launch == g.launch && h.hold != .exited then s
  else s.gangExit g

/-- What follows an issue: the lane's turn has passed, or, where the split has only begun to wait, the lane looks again. -/
def State.afterLane (s : State) (g : Group) (c : Cand) : State :=
  let k := (c.g.die, c.g.core, c.g.lane)
  let busy := Tab.getD (s.core c.g.die c.g.core).busy c.g.lane 0
  let s := s.noteExit g
  if s.clock.cycle < busy then
    let s := if g.sp.first then s.updGroup c.g fun x => x.mapSplits fun p => { p with first := false } else s
    { s.noteBest c busy with turn := laneNo k + 1 }
  else if (match s.group? c.g with | some h => s.slotReady h c.slot | none => false) then { s with turn := laneNo k + 1 }
  else { s with turn := laneNo k }

/-- A lane issues a split. -/
def State.issue (s : State) (c : Cand) : Out :=
  let s := s.view c.g c.slot
  let g := s.cur
  match s.issueCur with
  | .next s' => .next (s'.afterLane g c)
  | r => r

/-! ### The clock (R4, R15, R35) -/

/-- One nanosecond of device time: a correction is slewed at no more than 1 ns in 10,000. -/
def Clock.tickNs (c : Clock) : Clock :=
  if c.slew = 0 || c.slewGap + 1 < 10000 then { c with time := c.time + 1, slewGap := c.slewGap + 1 }
  else if 0 < c.slew then { c with time := c.time + 2, slew := c.slew - 1, slewGap := 0 }
  else { c with slew := c.slew + 1, slewGap := 0 }

/-- One core cycle: 10/27 ns. -/
def Clock.tick (c : Clock) : Clock :=
  let c := { c with cycle := c.cycle + 1 }
  if c.part + 10 < 27 then { c with part := c.part + 10 } else { c with part := c.part + 10 - 27, rtc := c.rtc + 1 }.tickNs

/-- A split that is not ready in a cycle becomes ready in a later one, from which its age runs (R175). -/
def State.age (s : State) (s' : State) (g : Group) (slot : Bool) : State :=
  if (g.inSlot slot).isNone || s.slotReady g slot then s'
  else s'.updGroup g.id fun x => x.setSlot slot ((x.inSlot slot).map fun p => { p with age := max p.age (s.clock.cycle + 1) })

def State.ages (s : State) : State := s.groups.foldl (fun s' g => s.age (s.age s' g false) g true) s

/-- Nothing more happens in this cycle. -/
def State.tick (s : State) : State :=
  let s := if logicEnds s.clock.cycle && (!s.eng.fe.isEmpty || s.eng.ops.any fun (e : Nat × Op) => e.2.unseen) then s.applyFe else s
  { s.ages.seeRptr with clock := s.clock.tick, turn := 0 }

end Sys2Proof.Machine
end

