-- ==== Sys2Proof/Machine/Load.lean ====
section
/-!
DEFINITION. A machine in which one group of a launch stands before an instruction: what a program's first fetch needs
(entry 3). The module has no program of its own: a host creates a partition, fills its memory and submits a launch.
-/

namespace Sys2Proof.Machine

open Sys2Proof

/-- Physical addresses of the two tables: the root, and the table of 1 GiB leaves. -/
def rootAt : Nat := 0x10000
def tableAt : Nat := 0x20000

/-- Where the instruction stands, virtually and physically. -/
def codeAt : Nat := 0x100000

/-- The first leaf: present, writable, executable, for programs, in device memory, 1 GiB from physical 0 (R214). -/
def codeLeaf : Nat := 0x22F

/-- The packet of the launch: one best-effort group of 32 threads that enters at the instruction (R140). -/
def placedPacket : Packet :=
  { packetOf 0 with entry := BitVec.ofNat 64 codeAt, gx := 1, gy := 1, gz := 1, cls := 1, ncore := 1 }

/-- The launch, active, with its group dispatched. -/
def placedLaunch : Launch :=
  { newLaunch 0 0 0 (.ring 0) placedPacket with state := .active, place := [(0, 0, 0)], nextGix := 1 }

/-- The partition: one core, one memory unit, its tables. -/
def placedPart : Part :=
  { Part.empty with key := some 0, cores := [⟨0, 0⟩], units := [(0, false, 0)], ptroot := BitVec.ofNat 64 rootAt }

/-- The group, resident in slot 0 of lane 0 of core 0 of die 0. -/
def placedGroup (cycle : Nat) : Group :=
  startGroup placedLaunch ⟨0, 0, 0, 0⟩ 0 0 0 (stageZero placedPacket 0) (BitVec.allOnes 32) [] cycle

/-- The group's team. -/
def placedTeam : Team :=
  { die := 0, core := 0, lane := 0, launch := 0, ls := [], size := placedLaunch.area, area := placedLaunch.area, used := [0],
    maps := [], bars := [], xqFree := 0, xq := 0 }

/-- The state with that group as the only one, about to fetch the given bytes. -/
def State.placed (s : State) (bytes : List Byte) : State :=
  let m := s.mem.putBytes rootAt (leBytes 8 (tableAt + 1))
  let m := m.putBytes tableAt (leBytes 8 codeLeaf)
  { s with
    mem := m.putBytes codeAt bytes, home := [], homeLines := [], cores := [], dieTlb := []
    cur := placedGroup s.clock.cycle, rest := [], saved := [], teams := [placedTeam]
    launches := [(0, placedLaunch)], presented := [], nextSeq := 1, parts := [(0, placedPart)]
    inputs := [], turn := 0 }

end Sys2Proof.Machine
end

