-- ==== Sys2Proof/Machine/Step.lean ====
section
/-!
DEFINITION. The step of the machine, and the placement of an instruction where the next step fetches it.
-/

namespace Sys2Proof.Machine

open Sys2Proof

/-- The lanes of the module: no lane's number is as high. -/
def laneCount : Nat := 4 * 3072

/-- The ring entry that is presented now: after the issues of die 0 and before those of the other dies (R144). -/
def State.ringTurn (s : State) : Option Instr :=
  if s.nextIssue.any fun c => c.g.die = 0 then none else s.ringDue

/-- One step. What comes from outside comes first; then what is due in the module; then the issues of the lanes in their
order, a ring's entry among them; then the expiries of rejoin entries and the trace blocks of the cycle; then the cycle ends. A module that is LOCKED stands still (R139). -/
def step (s : State) : Host.Outcome State Fault Refusal :=
  let s := s.settleWaiters
  match s.inputs with
  | i :: rest => if fromOutside i then exec i { s with inputs := rest } else .next { s with inputs := rest }
  | [] =>
    match s.nextEvent with
    | some i => exec i s
    | none =>
      if s.sec.state == .locked then .fault .locked
      else
        match s.ringTurn, s.nextIssue with
        | some i, _ => exec i s
        | none, some c => s.issue c
        | none, none =>
          match s.lateEvent, s.traceEvent with
          | some i, _ => exec i { s with turn := laneCount }
          | none, some i => exec i s
          | none, none => .next s.moveStranded.tick

/-- `s` with an instruction placed where the next step fetches it (entry 3). -/
def State.withFetchWord (s : State) (nbits w : Nat) : State := s.placed (leBytes (4 * maxWords) (w % 2 ^ nbits))

end Sys2Proof.Machine
end

