-- ==== Sys2Proof/Safety.lean ====
section
/-!
DEFINITION. What counts as a good state and a good run: the canonical form of every memory, the states that a run reaches, and
the terms that statements about instructions use: when an instruction of the issuing split runs to its own effect, and what
such an issue leaves as it was.
-/

namespace Sys2Proof.Machine

open Sys2Proof

/-! ### States and runs -/

/-- The memories of a state are in canonical form: device memory, host memory and the teams' local stores. -/
def State.memWf (s : State) : Bool := s.mem.wf && s.host.mem.wf && s.teams.all fun t => t.ls.wf

/-- The states that a run from a state reaches. -/
inductive Reaches : State → State → Prop where
  | refl (s : State) : Reaches s s
  | step (s t u : State) : Reaches s t → Sys2Proof.Machine.step t = .next u → Reaches s u

/-! ### When an instruction issues to its own effect (R152, R153, R166, R195, R205, R301) -/

/-- The budget covers n thread-instructions: in handler mode, where nothing raises 0x09, it also stays above 0 (R153,
R195). -/
def State.funds (s : State) (n : Nat) : Bool :=
  if s.cur.hand.isSome then !s.counts || max 1 n < s.cur.bgt.toNat
  else !s.cur.spent && (!s.counts || n ≤ s.cur.bgt.toNat)

/-- The issuing split names only registers that it may name, its budget covers n thread-instructions, it has not been charged
already, and no single step follows (R301, R153, R152, R205). -/
def State.issues (s : State) (ops : List Opd) (n : Nat) : Bool :=
  s.cur.allNamed ops && s.funds n && !s.cur.sp.charged && (!s.cur.dbg.getLsbD 8 || s.cur.hand.isSome)

/-- Every listed operand gives the executing threads one value (R169). -/
def State.uniformIn (s : State) (p : Pred) (ops : List Opd) : Bool := ops.all fun o => s.cur.same (s.cur.exec p) o

/-- An arithmetic instruction runs to its own effect: its registers may be named, its budget covers its executing threads, and
with a `g` destination its sources are uniform (R166, R169, R304). -/
def State.runs (s : State) (x : Ord) (srcs : List Opd) : Bool :=
  s.issues (x.d :: srcs) (count (s.cur.exec x.pred)) && (!x.d.isG || s.uniformIn x.pred srcs)

/-- Issue cycles of an arithmetic instruction: one per executing thread, at least one; with a `g` destination one, or one per
executing thread where it reads a vector register (R166, R168). -/
def State.cost (s : State) (x : Ord) (srcs : List Opd) : Nat :=
  if x.d.isG && !anyV srcs then 1 else max 1 (count (s.cur.exec x.pred))

/-! ### What an issue leaves as it was -/

/-- The split's record after an issue of n cycles and len bytes: PC moves on, ST returns to 0; FMT is said apart. -/
def Split.after (p : Split) (fmt : BitVec 14) (len ready : Nat) : Split :=
  { p with
    fmt := fmt, pc := p.pc + BitVec.ofNat 48 len, st := 0, rtid := 0, rem := 0, wait := .none, age := ready,
    charged := false, quiet := false }

/-- `t` is `s` after an instruction has issued for n cycles and moved on by len bytes: only the issuing group's registers,
predicates, split and budget, and the busy time of its lane, may differ. All memory, every cache, every other group, every
special register, accumulator and exception register is as before. -/
structure State.Issued (s t : State) (n len : Nat) : Prop where
  elsewhere : t = { s with cur := t.cur, cores := t.cores }
  cores : ∀ k, Tab.getD t.cores k Core.empty =
    if k = coreKey s.cur.id.die s.cur.id.core then
      { s.core s.cur.id.die s.cur.id.core with
        busy := Tab.set s.cur.id.lane (s.clock.cycle + n) (s.core s.cur.id.die s.cur.id.core).busy }
    else Tab.getD s.cores k Core.empty
  group : t.cur = { s.cur with v := t.cur.v, g := t.cur.g, k := t.cur.k, sp := t.cur.sp, bgt := t.cur.bgt }
  split : t.cur.sp = s.cur.sp.after t.cur.sp.fmt len (s.clock.cycle + n)
  budget : t.cur.bgt.toNat = s.cur.bgt.toNat - n

/-- The destination operand holds `f t` for each executing thread t; a `g` destination holds the value of the lowest executing
thread, and `g31` discards it (R303, R304, R170). Every other register, and every thread that does not execute, keeps its
value. -/
def State.Wrote (s t : State) (d : Opd) (e : Mask) (f : Nat → Word) : Prop :=
  t.cur.k = s.cur.k ∧
  match d with
  | .v n =>
    t.cur.g = s.cur.g ∧ ∀ m i, i < 32 → t.cur.vget m i = if m = n.val ∧ inMask e i then f i else s.cur.vget m i
  | .g n =>
    t.cur.v = s.cur.v ∧
      ∀ m, t.cur.gget m = if m = n.val ∧ n.val ≠ 31 ∧ e ≠ 0 then f (lowest e) else s.cur.gget m

/-- The predicate register n holds `f t` for each executing thread t; `k0` discards it (R313, R170). Everything else keeps its
value. -/
def State.WroteK (s t : State) (n : Nat) (e : Mask) (f : Nat → Bool) : Prop :=
  t.cur.v = s.cur.v ∧ t.cur.g = s.cur.g ∧
    ∀ m i, i < 32 → inMask (t.cur.kget m) i = if m = n ∧ n ≠ 0 ∧ inMask e i then f i else inMask (s.cur.kget m) i

/-- The instruction completes: it answers a next state, the destination of every executing thread i holds a value that stands
in the relation `P i` to the operands, `%fmt` keeps its fields but for the sticky bit that `dz` says is set (R309), and nothing
else changes. -/
def Completes (i : Instr) (s : State) (x : Ord) (srcs : List Opd) (dz : Bool) (P : Nat → Word → Prop) : Prop :=
  ∃ t f, exec i s = .next t ∧ s.Issued t (s.cost x srcs) (lenOf x) ∧ s.Wrote t x.d (s.cur.exec x.pred) f ∧
    t.cur.sp.fmt = (if dz then s.cur.sp.fmt ||| 0x2000#14 else s.cur.sp.fmt) ∧ ∀ j, j < 32 → P j (f j)

/-- The instruction writes a predicate register: it answers a next state, bit i of predicate D[2:0] is `f i` for every
executing thread i (R313, R320, R341), and nothing else changes. -/
def CompletesK (i : Instr) (s : State) (x : Ord) (f : Nat → Bool) : Prop :=
  ∃ t, exec i s = .next t ∧ s.Issued t (max 1 (count (s.cur.exec x.pred))) (lenOf x) ∧
    s.WroteK t (x.d.code % 8) (s.cur.exec x.pred) f ∧ t.cur.sp.fmt = s.cur.sp.fmt

/-! ### Traps (R191-R195) -/

/-- The group of `t` has taken a trap of the issuing split of `s` (R193, R194): the registers keep their values and `v0`-`v3`
stand in the shadow; the split's record is kept with its ST, RTID and PC; the handler's split has the slot, at `%tvec`; and the
frame holds what R194 gives it. -/
structure State.Trapped (s t : State) (cause kind : BitVec 8) (st rtid : Nat) (pc : BitVec 48) (handlers omask : Mask)
    (faddr : Nat → Nat) : Prop where
  vectors : t.cur.g = s.cur.g ∧ t.cur.k = s.cur.k ∧ t.cur.q = s.cur.q ∧ t.cur.tiles = s.cur.tiles
  shadow : ∀ n i, n < 4 → i < 32 → Row.get (Tab.getD t.cur.shadow n []) i = t.cur.vget n i
  tcause : t.cur.tcause = cause
  record : ∃ h, t.cur.hand = some h ∧ h.slot = s.cur.slot ∧ h.rec_.mask = s.cur.sp.mask ∧ h.rec_.pc = pc ∧
    h.rec_.st.toNat = st ∧ h.rec_.rtid.toNat = rtid ∧ h.rec_.fmt = s.cur.sp.fmt ∧ h.rec_.token = s.cur.sp.token ∧
    h.rec_.depth = s.cur.sp.depth ∧ h.rec_.part = s.cur.sp.part
  handler : t.cur.slot = s.cur.slot ∧ t.cur.spLive = true ∧ t.cur.sp.mask = handlers ∧
    t.cur.sp.pc = (s.part s.cur.part).tvec.setWidth 48 ∧ t.cur.sp.token = 0 ∧ t.cur.sp.depth = 0 ∧ t.cur.sp.fmt = 0 ∧
    t.cur.sp.st = 0
  others : t.cur.other = s.cur.other ∧ t.cur.spill = s.cur.spill ∧ t.cur.rejoin = s.cur.rejoin
  frame : ∀ a, s.team? s.cur = some a → a.ls.wf = true → ∃ b, t.team? t.cur = some b ∧
    let w := leNat (b.ls.bytes s.cur.tframe 64)
    field w 0 8 = cause.toNat ∧ field w 8 8 = kind.toNat ∧ field w 16 73 = 0 ∧ field w 89 1 = 0 ∧
    field w 90 1 = (if s.cur.slot then 1 else 0) ∧ field w 91 5 = rtid ∧ field w 96 2 = st ∧
    field w 98 14 = s.cur.sp.fmt.toNat ∧ field w 112 32 = s.cur.iw0.toNat ∧ field w 144 2 = 0 ∧
    field w 146 46 = pc.toNat / 4 ∧ field w 192 32 = handlers.toNat ∧ field w 224 32 = omask.toNat ∧
    field w 256 64 = (s.cur.gget 28).toNat ∧ field w 320 64 = (s.cur.gget 29).toNat ∧
    field w 384 64 = (s.cur.gget 30).toNat ∧ field w 448 64 = 0 ∧
    (∀ i, i < 32 → leNat (b.ls.bytes (s.cur.tframe + 64 + 8 * i) 8) = faddr i) ∧
    ∀ x, (x < s.cur.sysBase ∨ s.cur.sysBase + 832 ≤ x) → b.ls.byte x = a.ls.byte x

/-- The word FADDR of a thread that faulted (R194). -/
def faddrWord (cause : BitVec 8) (addr : Word) : Nat := addr.toNat % 2 ^ 52 + cause.toNat * 2 ^ 56

/-- Nothing outside the issuing group changed, but for its team's local store, the trace queue and busy time of its core, and
what its partition's error log holds. -/
def State.OnlyGroup (s t : State) : Prop :=
  t = { s with cur := t.cur, cores := t.cores, teams := t.teams, parts := t.parts } ∧
    (∀ k, (Tab.getD t.cores k Core.empty).cache = (Tab.getD s.cores k Core.empty).cache) ∧
    (∀ u ∈ t.teams, ∃ v ∈ s.teams, u = { v with ls := u.ls } ∧ (v.has s.cur = false → u = v)) ∧
    ∀ p, ∃ l, t.part p = { s.part p with errors := (s.part p).errors ++ l, traceLogged := (t.part p).traceLogged }

/-- The issuing split meets what a trap needs: it is not in handler mode and has not been charged. -/
def State.trappable (s : State) : Bool := s.cur.hand.isNone && !s.cur.sp.charged

/-! ### Splits (R174-R178) -/

/-- Every split of a group: those in its slots, then its spill stack from the top. -/
def Group.allSplits (g : Group) : List Split :=
  (if g.spLive then [g.sp] else []) ++ g.other.toList ++ g.spill

/-- The issuing group's registers, counters and special registers are as before; only its splits, its rejoin table, its budget
and its trace may differ. -/
def Group.OnlySplits (g h : Group) : Prop :=
  h = { g with
    sp := h.sp, spLive := h.spLive, slot := h.slot, other := h.other, spill := h.spill, rejoin := h.rejoin,
    tokens := h.tokens, merges := h.merges, bgt := h.bgt, trc := h.trc }

/-- `t` is `s` after a control instruction that took n cycles (R343): the splits and the rejoin table of the issuing group, its
vector registers (the link of `call`), its budget, its trace, and the busy time of its lane may differ; nothing else does. -/
structure State.Moved (s t : State) (n : Nat) : Prop where
  elsewhere : t = { s with cur := t.cur, cores := t.cores, parts := t.parts }
  cores : ∀ k, (Tab.getD t.cores k Core.empty).cache = (Tab.getD s.cores k Core.empty).cache
  busy : Tab.getD (t.core s.cur.id.die s.cur.id.core).busy s.cur.id.lane 0 = s.clock.cycle + n
  parts : ∀ p, ∃ l, t.part p = { s.part p with errors := (s.part p).errors ++ l, traceLogged := (t.part p).traceLogged }
  group : ({ s.cur with v := t.cur.v }).OnlySplits t.cur
  budget : t.cur.bgt.toNat = s.cur.bgt.toNat - n

/-- The split `q` holds the threads `m` at an address, with a token and a depth; it keeps the format of `p`, is not part of an
instruction, and waits for nothing (R174). -/
def Split.at_ (p : Split) (m : Mask) (pc : Word) (token : BitVec 16) (depth : BitVec 8) (q : Split) : Prop :=
  q.mask = m ∧ q.pc = pc.setWidth 48 ∧ q.token = token ∧ q.depth = depth ∧ q.fmt = p.fmt ∧ q.st = 0 ∧ q.wait = .none

/-- The splits `l` have gone beside the issuing one: the first takes the other slot if it is free; the rest are pushed so that
they pop in order (R177, R347). -/
def Group.Beside (g h : Group) (l : List Split) : Prop :=
  h.slot = g.slot ∧ h.spLive = true ∧
    match g.other with
    | none => h.other = l.head? ∧ h.spill = l.tail ++ g.spill
    | some p => h.other = some p ∧ h.spill = l ++ g.spill

/-- The instruction is refused at its lowest executing thread, or at the lowest active one where none executes: it traps whole,
and no thread takes effect (R191, R343). -/
def Refuses (i : Instr) (s : State) (p : Pred) (cause : BitVec 8) : Prop :=
  ∃ t, exec i s = .next t ∧ s.OnlyGroup t ∧ t.cur.v = s.cur.v ∧
    s.Trapped t cause 0 0 (s.cur.reportAt p) s.cur.sp.pc (maskOf [s.cur.reportAt p]) (s.cur.omask p)
      (fun _ => 0)

/-- The step-3 check of R343 on a target. -/
def GoodTarget (t : Word) : Prop := t.toNat % 4 = 0 ∧ t.toNat < 2 ^ 48

/-- A target that step 3 of R343 refuses, with its cause. -/
def BadTarget (t : Word) (cause : BitVec 8) : Prop :=
  (t.toNat % 4 ≠ 0 ∧ cause = 0x04) ∨ (t.toNat % 4 = 0 ∧ 2 ^ 48 ≤ t.toNat ∧ cause = 0x07)

/-- The target of a relative form: the address of word one + 4 × OFFSET (R345). -/
def State.relative (s : State) (off : Int) : Word := BitVec.ofInt 64 (s.cur.sp.pc.toNat + 4 * off)

/-! ### Memory instructions (R185, R354-R356) -/

/-- What the issue of a memory instruction may change of its group: the issuing split, the budget, the counters, the faults
that it has reported, and the writes of its engines that no fence has made visible. Every register, predicate, tile, special register and exception register is as before. -/
def Group.OnlyIssue (g h : Group) : Prop :=
  h = { g with
    sp := h.sp, bgt := h.bgt, cntL := h.cntL, cntS := h.cntS, cntC := h.cntC, cntT := h.cntT, denied := h.denied,
    fillFaults := h.fillFaults, wrote := h.wrote }

/-- Outside the memory system and what is in flight in it, nothing changes but what the issue of a memory instruction may
change of its group. -/
def State.OnlyMemory (s t : State) : Prop :=
  t = { s with
    cur := t.cur, cores := t.cores, dieTlb := t.dieTlb, home := t.home, homeLines := t.homeLines, mem := t.mem,
    poison := t.poison, stks := t.stks, host := t.host, fabric := t.fabric, eng := t.eng, nextId := t.nextId, launches := t.launches, free := t.free,
    teams := t.teams } ∧ s.cur.OnlyIssue t.cur

/-- A value that device memory, a die buffer under any view, or a core cache holds of a physical byte (R224, R225). -/
def State.Holds (s : State) (p : Nat) (b : Byte) : Prop :=
  s.mem.byte p = b ∨
  (∃ x c, x < 3 ∧ Tab.get? (byteKey x p) s.home = some c ∧ c.val = b) ∨
  ∃ die core x c, x < 3 ∧ Tab.get? (byteKey x p) (s.core die core).cache = some c ∧ c.val = b

/-- What a byte of a view reads as on a core without the core's clean lines: its own write, or what stands at the home (R224). -/
def State.ownByte (s : State) (die core space p : Nat) : Byte :=
  match Tab.get? (byteKey space p) (s.core die core).cache with
  | some c => if c.dirty then c.val else s.homeByte space p
  | none => s.homeByte space p

/-- Nothing but its view stands between a byte and memory: no other view has it in a die buffer or in the core's cache, a clean
copy in the die buffer is what memory holds, and its bank takes writes (R56, R225). -/
def State.oneView (s : State) (die core space p : Nat) : Prop :=
  s.fenced p = false ∧
  (∀ x, x < 3 → x ≠ space → Tab.get? (byteKey x p) s.home = none ∧ Tab.get? (byteKey x p) (s.core die core).cache = none) ∧
  ∀ c, Tab.get? (byteKey space p) s.home = some c → c.dirty = false → c.val = s.mem.byte p

/-- A byte that an access names is in host memory, or nothing but its view stands between it and memory. -/
def State.plainByte (s : State) (m : Map) (va : Nat) : Prop :=
  m.space = 3 ∨ s.oneView s.cur.id.die s.cur.id.core m.space (m.phys va)

/-- An access meets no byte that another view may change under it, and no old copy in the core's cache: whatever line moves
between the caches and memory, it reads one value (R224, R225, R243). -/
def State.settled (s : State) (m : Map) (va n : Nat) : Prop :=
  ∀ i, i < n → s.plainByte m (va + i) ∧ (m.space = 3 ∨
    s.coreByte s.cur.id.die s.cur.id.core m (va + i) =
      s.ownByte s.cur.id.die s.cur.id.core m.space (m.phys (va + i)))

/-- Every byte of memory but the physical bytes of a set is as before. Lines may move between the caches and memory (R224, R225,
R227): no byte gets a value that none of them held; what the issuing core has written, or what the home holds of it, it reads
as before, unless another view, an old copy in the die buffer or a fenced bank takes part (R56, R243); the other cores' caches, host memory and the context
table are untouched. -/
def State.BytesBut (s t : State) (p : Nat → Prop) : Prop :=
  (s.mem.wf = true → ∀ a b, a < 2 ^ 48 → ¬p a → t.Holds a b → s.Holds a b) ∧
  (s.mem.wf = true → ∀ x a, x < 3 → a < 2 ^ 48 → ¬p a → s.fenced a = false → s.oneView s.cur.id.die s.cur.id.core x a →
    t.ownByte s.cur.id.die s.cur.id.core x a = s.ownByte s.cur.id.die s.cur.id.core x a) ∧
  (∀ die core, coreKey die core ≠ coreKey s.cur.id.die s.cur.id.core → (t.core die core).cache = (s.core die core).cache) ∧
  (∀ a, ¬p a → t.host.mem.byte a = s.host.mem.byte a) ∧ t.host.ctxs = s.host.ctxs

/-- The access bytes of a list of planned accesses of n bytes each. -/
def touches (n : Nat) (l : List Plan) (p : Nat) : Prop := ∃ q ∈ l, ∃ i, i < n ∧ p = q.map.phys (q.va.toNat + i)

/-- Of a list of planned stores of n bytes each, that of `q` is the last to byte i of its access, and the only one of another
view (R238, R358). -/
def lastWriter (n : Nat) (l : List Plan) (q : Plan) (i : Nat) : Prop :=
  let p := q.map.phys (q.va.toNat + i)
  (∀ r ∈ l, touches n [r] p → r.map.space = q.map.space ∧ r.thread ≤ q.thread) ∧
  ∀ k, k < n → k ≠ i → q.map.phys (q.va.toNat + k) ≠ p

/-- The checks of the executing threads of a memory instruction of n bytes at A + B, in ascending order (R354, R356): what
passed, what faulted, and the state after the translations. -/
def State.plans (s : State) (x : Ord) (n : Nat) (write poison : Bool) (ts : List Nat) : List Plan × List Faulter × State :=
  planAll (fun s t => s.checkGlobal (addrOf x s t) n write poison) (addrOf x) ts s

/-- The same with the window check of full/empty accesses (R361). -/
def State.windowPlans (s : State) (x : Ord) (n : Nat) (write : Bool) (ts : List Nat) : List Plan × List Faulter × State :=
  planAll (fun s t => s.checkWindow (addrOf x s t) n write) (addrOf x) ts s

/-- The threads that access: the executing ones, or the lowest of them for a `g` destination (R166, R168). -/
def State.accessors (s : State) (x : Ord) (uniform : Bool) : List Nat :=
  if uniform then [lowest (s.cur.exec x.pred)] else threads (s.cur.exec x.pred)

/-- A memory instruction has issued for n cycles, and its operation, with what has faulted of it, is outstanding under the next
identifier: its counter is one higher, and the split has moved on, or is held at the operation (R185, R355, R356). -/
structure State.Outstanding (s t : State) (x : Ord) (n counter : Nat) (op : Op) (held : Bool) (faults : List Faulter := []) : Prop where
  kept : Tab.get? s.nextId t.eng.ops = some op
  own : op.g = s.cur.id ∧ op.launch = s.cur.launch ∧ op.counter = counter ∧ op.faults = faults ∧ op.len = lenOf x ∧
    op.omask = s.cur.omask x.pred ∧ op.slot = s.cur.slot
  counters : ∀ c, c < 4 → t.cur.counter c = s.cur.counter c + if c = counter then 1 else 0
  split : t.cur.sp =
    if held then { s.cur.sp with wait := .op s.nextId, charged := true }
    else s.cur.sp.after s.cur.sp.fmt (lenOf x) (s.clock.cycle + n)
  budget : t.cur.bgt.toNat = s.cur.bgt.toNat - n

/-! ### Group-wide instructions and sync operations (R364-R374) -/

/-- Only the memory system and the issue of the group's instruction have changed, and the split has moved on after n cycles. -/
structure State.WentOn (s t : State) (x : Ord) (n : Nat) : Prop where
  only : s.OnlyMemory t
  split : t.cur.sp = s.cur.sp.after s.cur.sp.fmt (lenOf x) (s.clock.cycle + n)
  counters : ∀ c, t.cur.counter c = s.cur.counter c

/-- Only the memory system and the issue of the group's instruction have changed, and the split waits in its instruction, charged
once (R364). -/
structure State.Waits (s t : State) (w : Wait) : Prop where
  only : s.OnlyMemory t
  split : t.cur.sp = { s.cur.sp with wait := w, charged := true }
  counters : ∀ c, t.cur.counter c = s.cur.counter c
  budget : t.cur.bgt.toNat = s.cur.bgt.toNat - 1

/-- Cycles of a uniform instruction: one, or one per executing thread where it reads a vector register (R168). -/
def State.ucost (s : State) (x : Ord) (srcs : List Opd) : Nat :=
  if anyV srcs then max 1 (count (s.cur.exec x.pred)) else 1

/-- A uniform instruction runs to its own effect: its registers may be named, its sources are uniform, some thread executes, and
the budget covers it (R168, R169, R301). -/
def State.runsU (s : State) (x : Ord) (srcs : List Opd) : Bool :=
  s.issues srcs (s.ucost x srcs) && s.uniformIn x.pred srcs && s.cur.exec x.pred != 0

/-- The common values of A, B (zero-extended) and C. -/
def State.a0 (s : State) (x : Ord) : Word := s.cur.opd x.a (lowest (s.cur.exec x.pred))
def State.b0 (s : State) (x : Ord) : Word := s.cur.bopd .zero x.et x.b (lowest (s.cur.exec x.pred))
def State.c0 (s : State) (x : Ord) : Word := s.cur.opd x.c (lowest (s.cur.exec x.pred))

/-- The group has outstanding operations on the `CORE` path, or stores on it (R240). -/
def State.opsOn (s : State) (f : Op → Bool) : Prop := ∃ e ∈ s.eng.ops, e.2.g = s.cur.id ∧ f e.2 = true

/-- The physical bytes of a list of runs. -/
def inRuns (l : List (Nat × Nat)) (p : Nat) : Bool := l.any fun e => e.1 ≤ p && p < e.1 + e.2

/-- The values of a word before each of a list of updates, and the value after the last. -/
def serial {α : Type} (f : Nat → α → Nat) : Nat → List α → List Nat × Nat
  | v, [] => ([], v)
  | v, b :: l => let r := serial f (f v b) l; (v :: r.1, r.2)

/-- The new value of an integer atomic on w-bit values (R370). -/
def atomNew (fn : AtomFn) (w old b : Nat) : Nat :=
  match fn with
  | .add => (old + b) % 2 ^ w
  | .smin => if signed w b < signed w old then b else old
  | .smax => if signed w old < signed w b then b else old
  | .zmin => min old b
  | .zmax => max old b
  | .and => old &&& b
  | .or => old ||| b
  | .xor => old ^^^ b
  | .xchg => b
  | .inc => if old ≥ b then 0 else old + 1
  | .dec => if old = 0 ∨ old > b then b else old - 1

/-! ### Queues and stages (R376-R380) -/

/-- Pushes of values in order at one descriptor, each of which moves. -/
def State.pushes (a : Acc) (desc : Map) (va : Nat) : List Word → State → Option State
  | [], s => some s
  | x :: l, s =>
    match s.queuePush a desc va x with
    | (.moved _, s) => State.pushes a desc va l s
    | _ => none

/-- Pops of n entries in order at one descriptor, each of which moves: the entries, and the state after them. -/
def State.pops (a : Acc) (desc : Map) (va : Nat) : Nat → State → Option (List Word × State)
  | 0, s => some ([], s)
  | n + 1, s =>
    match s.queuePop a desc va with
    | (.moved x, s) => (State.pops a desc va n s).map fun r => (x :: r.1, r.2)
    | _ => none

/-- A group register holds a value; every other register keeps its own, and `g31` discards it (R170). -/
def State.GotG (s t : State) (r : Fin 32) (x : Word) : Prop :=
  t.cur.v = s.cur.v ∧ t.cur.k = s.cur.k ∧
    ∀ m, t.cur.gget m = if m = r.val ∧ r.val ≠ 31 then x else s.cur.gget m

/-- The group's registers, predicates and splits beside the issuing one are as before. -/
def Group.SameRegs (g h : Group) : Prop :=
  h.v = g.v ∧ h.g = g.g ∧ h.k = g.k ∧ h.q = g.q ∧ h.tiles = g.tiles ∧ h.other = g.other ∧ h.spill = g.spill ∧
    h.rejoin = g.rejoin ∧ h.hand = g.hand ∧ h.shadow = g.shadow ∧ h.tcause = g.tcause

/-! ### Engine commands (R402-R409) -/

/-- The command that an `ecmd` queues, before it is validated (R402). -/
def State.queuedCmd (s : State) (x : Ord) (shape : Nat) : Cmd :=
  let l := match s.listAtIssue s.cur.part x.moda.toNat shape with | .ok l => l | .error _ => none
  { id := s.nextId, cls := x.moda.toNat, g := s.cur.id, launch := s.cur.launch, part := s.cur.part, die := s.cur.id.die
    shape := shape, x := s.b0 x
    y := match x.b with | .reg (.g n) => if n.val = 31 then 0 else s.cur.gget (n.val + 1) | _ => 0
    counter := s.c0 x, pins := [], fmt := s.cur.sp.fmt.setWidth 4, done := 0, total := 0, status := 0, poisoned := false
    version := (l.map fun l => l.version).getD 0, list := l, phase := .queued, hdr := none, superseded := false
    dls := false, sent := false, started := false, asked := false, vbuf := none, gone := 0, due := s.clock.cycle + cmdStart }

/-- Nothing but its view stands between a byte and memory, but for what the cores hold: no other view of it stands in the die
buffer, and its bank takes writes (R56, R225). -/
def State.oneHome (s : State) (space p : Nat) : Prop :=
  s.fenced p = false ∧ (∀ x, x < 3 → x ≠ space → Tab.get? (byteKey x p) s.home = none) ∧
  ∀ c, Tab.get? (byteKey space p) s.home = some c → c.dirty = false → c.val = s.mem.byte p

/-- What the translation of an address of a unit goes by is in `u` as in `s`, but for the physical bytes of a set: the partitions, the
modes of the units, and the tables where nothing but their view stands before memory (R213, R216). -/
def State.TablesAs (s u : State) (p : Nat → Prop) : Prop :=
  u.parts = s.parts ∧ u.fabric.devid = s.fabric.devid ∧ (∀ k, (u.stack k).hbmCache = (s.stack k).hbmCache) ∧
  (∀ a ∈ u.poison, a ∈ s.poison) ∧
  ∀ x a, x < 3 → a < 2 ^ 48 → ¬p a → s.oneHome x a → u.homeByte x a = s.homeByte x a

/-- The places of the bytes of a range in the order of its addresses: a view and a physical address each. -/
def placesOf (l : List (Map × Nat × Nat)) : List (Nat × Nat) :=
  (l.map fun e => (List.range e.2.2).map fun i => (e.1.space, e.1.phys (e.2.1 + i))).flatten

/-- A range of a command translates alike whatever stands in memory: its pages are pinned and plain (R88). -/
def State.pinnedTo (s : State) (u : Via) (write : Bool) (va n : Nat) (l : List (Map × Nat × Nat)) : Prop :=
  ∀ t : State, t.parts = s.parts → t.fabric.devid = s.fabric.devid → (∀ k, (t.stack k).hbmCache = (s.stack k).hbmCache) →
    t.engRange u write va n = some l

/-- The destination of a command takes the runs: in local store, or through pages that may be written. -/
def State.Takes (s : State) (c : Cmd) (dls : Bool) (runs : List (Nat × List Byte)) (l : Nat → List (Map × Nat × Nat)) : Prop :=
  dls = true ∨ ∀ (k : Nat) (r : Nat × List Byte), runs[k]? = some r → s.engRange c.via true r.1 r.2.length = some (l k) ∧
    (1 < runs.length → s.pinnedTo c.via true r.1 r.2.length (l k))

/-- The runs of bytes stand at a command's destination: in its team's local store, or in this module's device memory. Every other
byte is as before. -/
def State.Delivered (s t : State) (c : Cmd) (dls : Bool) (runs : List (Nat × List Byte)) (l : Nat → List (Map × Nat × Nat)) : Prop :=
  if dls = true then
    ∀ a, s.cmdTeam c = some a → a.ls.wf = true → ∃ b, t.cmdTeam c = some b ∧
      (∀ (k : Nat) (r : Nat × List Byte) (i : Nat), runs[k]? = some r → i < r.2.length →
        (∀ (k' : Nat) (r' : Nat × List Byte) (i' : Nat), runs[k']? = some r' → i' < r'.2.length → r'.1 + i' = r.1 + i → k' = k) →
        b.ls.byte (r.1 + i) = r.2.getD i 0) ∧
      ∀ x, (∀ r ∈ runs, x < r.1 ∨ r.1 + r.2.length ≤ x) → b.ls.byte x = a.ls.byte x
  else
    let ps := ((List.range runs.length).map fun k => placesOf (l k)).flatten
    (∀ q ∈ ps, q.1 < 3 ∧ s.oneHome q.1 q.2) → (ps.map fun q => q.2).Nodup →
      t.teams = s.teams ∧ s.BytesBut t (fun p => ∃ q ∈ ps, q.2 = p) ∧
      ∀ (k : Nat) (r : Nat × List Byte) (i : Nat) (q : Nat × Nat), runs[k]? = some r → (placesOf (l k))[i]? = some q → t.homeByte q.1 q.2 = r.2.getD i 0

/-- A command has completed one more element, or all of them (R89, R90). -/
def State.Advanced (t : State) (id : Nat) (c : Cmd) (bad : Bool) : Prop :=
  ∃ k, t.cmd? id = some k ∧ k.done = c.done + 1 ∧ k.asked = false ∧ k.poisoned = (c.poisoned || bad) ∧ k.total = c.total ∧
    k.shape = c.shape ∧ k.cls = c.cls ∧ k.g = c.g ∧
    (if c.done + 1 = c.total then k.phase = .finished ∧ k.status = (if c.poisoned || bad then 3 else 0)
      else k.phase = c.phase ∧ k.status = c.status)

/-- A command has ended with a status and a number of elements (R90). -/
def State.Ended (t : State) (id : Nat) (c : Cmd) (status done : Nat) : Prop :=
  ∃ k, t.cmd? id = some k ∧ k.phase = .finished ∧ k.status = status ∧ k.done = done ∧ k.total = c.total ∧ k.g = c.g ∧
    k.shape = c.shape ∧ k.cls = c.cls ∧ k.version = c.version

/-! ### The mailbox (R121, R122) -/

/-- Every resident group has a name of its own, the groups beside the issuing one live, and the members of a gang are named in
it (R183). -/
def State.WellNamed (s : State) : Prop :=
  (s.groups.map fun g => g.id).Nodup ∧ (∀ g ∈ s.rest, g.live = true) ∧ ∀ g ∈ s.groups, g.gang = [] ∨ g.id ∈ g.gangIds

/-- No command runs, and the state of the module refuses none of a class (R121): the reserved bits are zero; after a failed boot
chain only ATTEST, in LOCKED only RESET and ATTEST, is answered; the partition commands wait for the first ATTEST and for the
arbiters. -/
def State.Accepts (s : State) (m : Mcmd) (c : CmdClass) : Prop :=
  s.host.box.running = none ∧ m.reserved = 0 ∧ (s.sec.bootFailed = true → c = .attest) ∧
    (s.sec.state = .locked → c = .attest ∨ c = .reset) ∧
    (c = .partition → s.sec.attestedOnce = true ∧ s.clock.open_ = true)

/-- The state in which a command runs that will answer with a code and a result. -/
def State.answering (s : State) (m : Mcmd) (code : Nat) (result : List Byte) : State :=
  { s with host := { s.host with box := { s.host.box with running := some ⟨m.tag, code, result, m.session.isSome⟩ } } }

/-- A command answers a next state in which it runs, will answer with a code and a result, and has its effect. -/
def Replies (i : Instr) (s : State) (m : Mcmd) (code : Nat) (result : List Byte) (P : State → Prop) : Prop :=
  ∃ t, exec i s = .next t ∧ t.host.box.running = some ⟨m.tag, code, result, m.session.isSome⟩ ∧ P t

/-- A command answers a code and has no effect. -/
def Turned (i : Instr) (s : State) (m : Mcmd) (code : Nat) : Prop := exec i s = .next (s.answering m code [])

/-- The operand bytes of a command that a test does not name are zero (R122). -/
def State.Named0 (s : State) (m : Mcmd) (f : Nat → Prop) : Prop := ∀ n, n < 1984 → ¬f n → opByte (s.operands m) n = 0

/-- The items of a command: a kind among those allowed, 1 to 240 items in range, and no other operand byte set (R122, R123). -/
def State.Items (s : State) (m : Mcmd) (kinds : List Nat) (kind : Nat) (xs : List Nat) : Prop :=
  let l := s.operands m
  kind = opByte l 1 ∧ kind ∈ kinds ∧ 1 ≤ opNat l 2 2 ∧ opNat l 2 2 ≤ 240 ∧
    xs = (List.range (opNat l 2 2)).map (fun n => opNat l (8 + 8 * n) 8) ∧ (∀ x ∈ xs, itemOk kind x = true) ∧
    s.Named0 m fun n => n < 4 ∨ (8 ≤ n ∧ n < 8 + 8 * opNat l 2 2)

/-- The addresses of a memory unit (R41, R123): a GiB, and of HBM unit 63 its lower 768 MiB. -/
def unitHolds (u : Nat × Bool × Nat) (a : Nat) : Prop :=
  let base := if u.2.1 then 2 ^ 44 + u.1 * 2 ^ 38 + u.2.2 * 2 ^ 30 else u.1 * 2 ^ 36 + u.2.2 * 2 ^ 30
  base ≤ a ∧ a < base + if u.2.1 = false ∧ u.2.2 = 63 then 768 * 2 ^ 20 else 2 ^ 30

/-- A unit reads zero at every home, and holds no poison (R137). -/
def State.UnitZero (t : State) (u : Nat × Bool × Nat) : Prop :=
  ∀ a, unitHolds u a → a < 2 ^ 48 → a / 32 ∉ t.poison ∧ ∀ space, space < 3 → t.homeByte space a = 0

/-- The items of a list have been added to a partition (R123). -/
def Part.Given (p q : Part) (kind : Nat) (xs : List Nat) : Prop :=
  (∀ c, c ∈ q.cores ↔ c ∈ p.cores ∨ (kind = 0 ∧ ∃ x ∈ xs, coreOf x = c)) ∧
  (∀ w, w ∈ q.ways ↔ w ∈ p.ways ∨ (kind = 1 ∧ ∃ x ∈ xs, wayOf x = w)) ∧
  (∀ u, u ∈ q.units ↔ u ∈ p.units ∨ (kind = 2 ∧ ∃ x ∈ xs, unitItem x = u)) ∧
  (∀ k ch b, (q.slotMask k ch).testBit b = true ↔ (p.slotMask k ch).testBit b = true ∨
    (kind = 3 ∧ ∃ x ∈ xs, field x 0 4 = k ∧ field x 4 7 = ch ∧ (field x 11 51).testBit b = true)) ∧
  (∀ n, Tab.getD q.fabric n 0 = Tab.getD p.fabric n 0 +
    if kind = 4 then ((xs.filter fun x => field x 0 6 == n).map fun x => field x 6 7).sum else 0) ∧
  (q.rays = p.rays + if kind = 5 then xs.sum else 0) ∧
  (∀ v, v ∈ q.vfs ↔ v ∈ p.vfs ∨ (kind = 6 ∧ v ∈ xs)) ∧
  (∀ d, d ∈ q.peers ↔ d ∈ p.peers ∨ (kind = 7 ∧ ∃ x ∈ xs, peerOf x = d)) ∧
  q.key = p.key ∧ q.dry = p.dry ∧ q.debug = p.debug ∧ q.tvec = p.tvec ∧ q.ptroot = p.ptroot

/-- The items of a list have been taken from a partition (R123). -/
def Part.Taken (p q : Part) (kind : Nat) (xs : List Nat) : Prop :=
  (∀ c, c ∈ q.cores ↔ c ∈ p.cores ∧ ¬(kind = 0 ∧ ∃ x ∈ xs, coreOf x = c)) ∧
  (∀ w, w ∈ q.ways ↔ w ∈ p.ways ∧ ¬(kind = 1 ∧ ∃ x ∈ xs, wayOf x = w)) ∧
  (∀ u, u ∈ q.units ↔ u ∈ p.units ∧ ¬(kind = 2 ∧ ∃ x ∈ xs, unitItem x = u)) ∧
  (∀ k ch b, (q.slotMask k ch).testBit b = true ↔ (p.slotMask k ch).testBit b = true ∧
    ¬(kind = 3 ∧ ∃ x ∈ xs, field x 0 4 = k ∧ field x 4 7 = ch ∧ (field x 11 51).testBit b = true)) ∧
  (∀ n, Tab.getD q.fabric n 0 = Tab.getD p.fabric n 0 -
    if kind = 4 then ((xs.filter fun x => field x 0 6 == n).map fun x => field x 6 7).sum else 0) ∧
  (q.rays = p.rays - if kind = 5 then xs.sum else 0) ∧
  (∀ v, v ∈ q.vfs ↔ v ∈ p.vfs ∧ ¬(kind = 6 ∧ v ∈ xs)) ∧
  (∀ d, d ∈ q.peers ↔ d ∈ p.peers ∧ ¬(kind = 7 ∧ ∃ x ∈ xs, peerOf x = d)) ∧
  q.key = p.key ∧ q.dry = p.dry ∧ q.debug = p.debug ∧ q.tvec = p.tvec ∧ q.ptroot = p.ptroot

/-! ### Special registers (R415, R416) -/

/-- A special register n has been written with v: of the registers that a write reaches, that one holds what R416 says, and
every other one what it held. -/
structure State.WroteSpecial (s t : State) (n : Nat) (v : Word) : Prop where
  memory : t.mem = s.mem ∧ t.home = s.home ∧ t.eng = s.eng
  fmt : t.cur.sp.fmt = if n = 0x010 then v.setWidth 14 else s.cur.sp.fmt
  part : t.cur.sp.part = if n = 0x015 then v.getLsbD 1 else s.cur.sp.part
  scratch : t.cur.scrb = if n = 0x031 then field v.toNat 32 20 else s.cur.scrb
  tvec : (t.part s.cur.part).tvec = if n = 0x034 ∧ v.toNat % 4 = 0 then v else (s.part s.cur.part).tvec
  dbg : t.cur.dbg = if n = 0x041 then v &&& 0x0FFFFF00#64 else s.cur.dbg
  queues : ∀ k, k < 16 → Tab.getD t.cur.q k 0 = if n = 0x080 + k then v else Tab.getD s.cur.q k 0
  comparators : ∀ k, k < 8 → Tab.getD (t.core s.cur.id.die s.cur.id.core).bpc k 0 =
    if n = 0x100 + k then v &&& 0xFF8FFFFFFFFFFFFF#64 else Tab.getD (s.core s.cur.id.die s.cur.id.core).bpc k 0
  bases : ∀ k, k < 7 → (t.part s.cur.part).base k =
    if n = 0x110 + k ∧ v.toNat % baseAlign.getD (k + 1) 1 = 0 then v else (s.part s.cur.part).base k
  windows : ∀ k, k < 12 → ((t.stack k).winBase, (t.stack k).winSize) =
    if n = 0x120 + k then (field v.toNat 20 28 * 2 ^ 20, field v.toNat 0 7 * 2 ^ 20)
    else ((s.stack k).winBase, (s.stack k).winSize)
  emptied : ∀ k, k < 12 → (t.stack k).full =
    if n = 0x120 + k ∧ ((s.stack k).winBase, (s.stack k).winSize) ≠ ((t.stack k).winBase, (t.stack k).winSize) then []
    else (s.stack k).full
  registers : n ≠ 0x042 → t.cur.v = s.cur.v ∧ t.cur.g = s.cur.g ∧ t.cur.shadow = s.cur.shadow ∧ t.teams = s.teams
  value : n = 0x042 → s.cur.dbgReg ≠ .g 31 → (∀ a, s.team? s.cur = some a → a.ls.wf = true) →
    (s.cur.hand.isSome = true → (s.team? s.cur).isSome = true) → t.dbgVal = v
  rest : t.cur.k = s.cur.k ∧ t.cur.tcause = s.cur.tcause ∧ t.cur.hand = s.cur.hand ∧ t.cur.tiles = s.cur.tiles ∧
    (∀ c, t.cur.counter c = s.cur.counter c)

/-! ### Operands and results of arithmetic (R303, R306) -/

/-- What A, B and C hold for a thread; a literal B is replicated by ET (R289-R291). -/
def State.va (s : State) (x : Ord) (i : Nat) : Word := s.cur.opd x.a i
def State.vb (s : State) (x : Ord) (i : Nat) : Word := s.cur.bopd .byET x.et x.b i
def State.vc (s : State) (x : Ord) (i : Nat) : Word := s.cur.opd x.c i

/-- An exact integer result as an element of a type: wrapped into its range, or clamped to it with `.sat` (R306, R307). -/
def narrow (e : ET) (sat : Bool) (v : Int) : Int :=
  if sat then max (intMin e) (min (intMax e) v)
  else if e.isSigned then Int.bmod v (2 ^ e.width) else v % (2 ^ e.width : Nat)

/-- Element j of a result is a w-bit pattern. -/
def Element (r : Word) (e : ET) (j n : Nat) : Prop := sub r e.width j = n % 2 ^ e.width

/-- A float source element of the issuing split: flushed under FTZ (R278). -/
def State.fl (s : State) (e : ET) (w : Word) (j : Nat) : Fl := srcFl s.cur.ftz e (sub w e.width j)

/-- A rounded float result: the mode of R276, FTZ of R278, and the clamp of R306. -/
def State.rounded (s : State) (x : Ord) (v : Fl) : Nat :=
  let p := resultFl s.cur.ftz x.et (s.cur.mode x) v
  if x.modb = 1 then satUnit x.et p else p

/-- The participant nearest below, or above, a thread (R333, R337). -/
def NearestBelow (ps : Mask) (i p : Nat) : Prop := inMask ps p = true ∧ p < i ∧ ∀ q, inMask ps q = true → q < i → q ≤ p
def NearestAbove (ps : Mask) (i p : Nat) : Prop := inMask ps p = true ∧ i < p ∧ ∀ q, inMask ps q = true → i < q → p ≤ q

/-- A running value of one position over a list of elements in order: the first is taken as it is, the others through OP
(R339). -/
def foldPos (op : Nat → Nat → Nat) : Option Nat → List Nat → Option Nat
  | acc, [] => acc
  | none, a :: l => foldPos op (some a) l
  | some w, a :: l => foldPos op (some (op w a)) l

end Sys2Proof.Machine
end

