-- ==== Sys2Proof/Certificates/Slice0/Obligations.lean ====
section
/-!
DEFINITION. The statements for the provers: what the instructions, the events and the machine do, from the numbered rules of
spec/.
-/

open Sys2Proof Sys2Proof.Machine

/-! ### Arithmetic (spec/16) -/

/-- O1: integer sums, products and extremes (R306-R308, R310, R311): each element is the exact result, wrapped or clamped.
Division (R309): the quotient truncated toward zero and the remainder with the sign of the dividend; a zero divisor gives
all-ones or the dividend and sets the sticky bit [13] of `%fmt`, and raises no trap. -/
def Obligations.IntegerResults : Prop :=
  (∀ (s : State) (x : Ord), x.et.isInt = true →
     let a := fun i j => subInt (s.va x i) x.et j
     let b := fun i j => subInt (s.vb x i) x.et j
     let c := fun i j => subInt (s.vc x i) x.et j
     let each := fun (f : Nat → Nat → Int) (i : Nat) (r : Word) => ∀ j, j < x.et.count → subInt r x.et j = f i j
     let hi := fun (f : Nat → Nat → Int) (i : Nat) (r : Word) => ∀ j, j < x.et.count →
       ((sub r x.et.width j : Nat) : Int) = f i j / (2 ^ x.et.width : Nat) % (2 ^ x.et.width : Nat)
     (s.runs x (srcA x) = true →
       Completes (.iabs .abs x) s x (srcA x) false (each fun i j => narrow x.et (isSat x) |a i j|) ∧
       Completes (.iabs .neg x) s x (srcA x) false (each fun i j => narrow x.et (isSat x) (-(a i j)))) ∧
     (s.runs x (srcAB x) = true →
       Completes (.add x) s x (srcAB x) false (each fun i j => narrow x.et (isSat x) (a i j + b i j)) ∧
       Completes (.sub x) s x (srcAB x) false (each fun i j => narrow x.et (isSat x) (a i j - b i j)) ∧
       Completes (.min x) s x (srcAB x) false (each fun i j => min (a i j) (b i j)) ∧
       Completes (.max x) s x (srcAB x) false (each fun i j => max (a i j) (b i j)) ∧
       Completes (.mul .lo x) s x (srcAB x) false (each fun i j => narrow x.et (isSat x) (a i j * b i j)) ∧
       Completes (.mul .hi x) s x (srcAB x) false (hi fun i j => a i j * b i j) ∧
       Completes (.sad .avg x) s x (srcAB x) false (each fun i j => (a i j + b i j + 1) / 2)) ∧
     (s.runs x (srcABC x) = true →
       Completes (.mad .lo x) s x (srcABC x) false (each fun i j => narrow x.et (isSat x) (a i j * b i j + c i j)) ∧
       Completes (.mad .hi x) s x (srcABC x) false (hi fun i j => a i j * b i j + c i j) ∧
       Completes (.addmin .addmin x) s x (srcABC x) false
         (each fun i j => min (narrow x.et (isSat x) (a i j + b i j)) (c i j)) ∧
       Completes (.addmin .addmax x) s x (srcABC x) false
         (each fun i j => max (narrow x.et (isSat x) (a i j + b i j)) (c i j)) ∧
       Completes (.sad .sad x) s x (srcABC x) false (each fun i j => narrow x.et false (|a i j - b i j| + c i j)))) ∧
  (∀ (s : State) (x : Ord), x.et.isInt = true → s.runs x (srcAB x) = true →
     let a := fun i j => subInt (s.va x i) x.et j
     let b := fun i j => subInt (s.vb x i) x.et j
     let dz := (threads (s.cur.exec x.pred)).any fun i => (List.range x.et.count).any fun j => b i j == 0
     Completes (.div .quotient x) s x (srcAB x) dz (fun i r => ∀ j, j < x.et.count →
       if b i j = 0 then sub r x.et.width j = 2 ^ x.et.width - 1
       else subInt r x.et j = narrow x.et false ((a i j).tdiv (b i j))) ∧
     Completes (.div .remainder x) s x (srcAB x) dz (fun i r => ∀ j, j < x.et.count →
       subInt r x.et j = (a i j).tmod (b i j)))

/-- O2: shifts, bit fields and bit counts (R312, R316, R317), element by element and bit by bit. -/
def Obligations.ShiftsAndBits : Prop :=
  ∀ (s : State) (x : Ord), x.et.isInt = true →
    let w := x.et.width
    let a := fun i j => sub (s.va x i) w j
    let b := fun i j => sub (s.vb x i) w j
    let c := fun i j => sub (s.vc x i) w j
    let each := fun (f : Nat → Nat → Nat → Prop) (i : Nat) (r : Word) => ∀ j, j < x.et.count → f i j (sub r w j)
    (s.runs x (srcAB x) = true →
      Completes (.shl x) s x (srcAB x) false (fun i r => ∀ j, j < x.et.count →
        subInt r x.et j = narrow x.et (isSat x) (subInt (s.va x i) x.et j * 2 ^ b i j)) ∧
      Completes (.shr x) s x (srcAB x) false (each fun i j r => r = a i j / 2 ^ b i j) ∧
      Completes (.sar x) s x (srcAB x) false (each fun i j r => signed w r = signed w (a i j) / 2 ^ b i j) ∧
      Completes (.rot .left x) s x (srcAB x) false (each fun i j r => ∀ k, k < w →
        r.testBit ((k + b i j) % w) = (a i j).testBit k) ∧
      Completes (.rot .right x) s x (srcAB x) false (each fun i j r => ∀ k, k < w →
        r.testBit k = (a i j).testBit ((k + b i j) % w))) ∧
    (s.runs x (srcABC x) = true →
      Completes (.bfe x) s x (srcABC x) false (fun i r => ∀ j, j < x.et.count →
        let len := min (c i j) (w - b i j)
        subInt r x.et j =
          if len = 0 then 0
          else if x.et.isSigned then signed len (a i j / 2 ^ b i j) else ((a i j / 2 ^ b i j % 2 ^ len : Nat) : Int)) ∧
      Completes (.bfi x) s x (srcABC x) false (fun i r => ∀ j k, j < x.et.count → k < w →
        let pos := (s.vc x i).toNat % 128
        let len := (s.vc x i).toNat / 256 % 128
        (sub r w j).testBit k = if pos ≤ k ∧ k < pos + len then (b i j).testBit (k - pos) else (a i j).testBit k)) ∧
    (s.runs x (srcA x) = true →
      Completes (.bits .clz x) s x (srcA x) false (each fun i j r => r ≤ w ∧ a i j < 2 ^ (w - r) ∧ (r < w → 2 ^ (w - r - 1) ≤ a i j)) ∧
      Completes (.bits .popc x) s x (srcA x) false (each fun i j r => r = (List.range w).countP fun k => (a i j).testBit k) ∧
      Completes (.bits .brev x) s x (srcA x) false (each fun i j r => ∀ k, k < w → r.testBit k = (a i j).testBit (w - 1 - k)) ∧
      Completes (.bits .ffs x) s x (srcA x) false (each fun i j r =>
        if a i j = 0 then r = 2 ^ w - 1 else (a i j).testBit r = true ∧ ∀ k, k < r → (a i j).testBit k = false))

/-- O3: logic on whole registers, selection, moves, packing, byte permutes and single elements (R314, R315, R328-R330, R332).
Indirect moves and `nop` (R332, R172, R307): the register that G[A] + o names is read, or written for each executing thread. -/
def Obligations.LogicAndMoves : Prop :=
  (∀ (s : State) (x : Ord),
     let w := x.et.width
     let k := x.imm.toNat % 16
     (s.runs x (srcAB x) = true →
       Completes (.and x) s x (srcAB x) false (fun i r => ∀ j, j < 64 →
         r.getLsbD j = ((s.va x i).getLsbD j && (s.vb x i).getLsbD j)) ∧
       Completes (.or x) s x (srcAB x) false (fun i r => ∀ j, j < 64 →
         r.getLsbD j = ((s.va x i).getLsbD j || (s.vb x i).getLsbD j)) ∧
       Completes (.xor x) s x (srcAB x) false (fun i r => ∀ j, j < 64 →
         r.getLsbD j = ((s.va x i).getLsbD j != (s.vb x i).getLsbD j)) ∧
       Completes (.sel x) s x (srcAB x) false (fun i r =>
         r = if inMask (s.cur.kget (x.imm.toNat % 8)) i then s.va x i else s.vb x i) ∧
       Completes (.pack .lo x) s x (srcAB x) false (fun i r =>
         sub r 32 0 = sub (s.va x i) 32 0 ∧ sub r 32 1 = sub (s.vb x i) 32 0) ∧
       Completes (.pack .hi x) s x (srcAB x) false (fun i r =>
         sub r 32 0 = sub (s.va x i) 32 1 ∧ sub r 32 1 = sub (s.vb x i) 32 1) ∧
       Completes (.perm x) s x (srcAB x) false (fun i r => ∀ j, j < 8 →
         let sel := sub (s.cur.bopd .zero x.et x.b i) 8 j
         sub r 8 j = if 128 ≤ sel then 0 else sub (s.va x i) 8 (sel % 8)) ∧
       (k < x.et.count → Completes (.ins x) s x (srcAB x) false (fun i r => ∀ j, j < x.et.count →
         sub r w j = if j = k then sub (s.vb x i) w 0 else sub (s.va x i) w j))) ∧
     (s.runs x (srcABC x) = true →
       Completes (.bmux x) s x (srcABC x) false (fun i r => ∀ j, j < 64 →
         let n := (if (s.va x i).getLsbD j then 1 else 0) + (if (s.vb x i).getLsbD j then 2 else 0)
           + (if (s.vc x i).getLsbD j then 4 else 0)
         r.getLsbD j = x.imm.getLsbD n)) ∧
     (s.runs x (srcA x) = true →
       Completes (.mov .mov x) s x (srcA x) false (fun i r => r = s.va x i) ∧
       (k < x.et.count → Completes (.ext x) s x (srcA x) false (fun i r =>
         r = BitVec.ofInt 64 (subInt (s.va x i) x.et k)))) ∧
     (s.runs x (breg x.b) = true → Completes (.mov .movi x) s x (breg x.b) false (fun i r => r = s.vb x i))) ∧
  (∀ (s : State) (x : Ord) (n : Nat),
     (s.issues [] (count (s.cur.exec x.pred)) = true →
       ∃ t, exec (.nop x) s = .next t ∧ s.Issued t (max 1 (count (s.cur.exec x.pred))) (lenOf x) ∧
         t.cur.v = s.cur.v ∧ t.cur.g = s.cur.g ∧ t.cur.k = s.cur.k ∧ t.cur.sp.fmt = s.cur.sp.fmt) ∧
     (s.cur.indirect x = some n →
       (s.issues [x.d, x.a] (count (s.cur.exec x.pred)) = true →
         (x.d.isG = true → ∀ i j, inMask (s.cur.exec x.pred) i = true → inMask (s.cur.exec x.pred) j = true →
           s.cur.vget n i = s.cur.vget n j) →
         ∃ t f, exec (.mov .rdi x) s = .next t ∧ s.Issued t (max 1 (count (s.cur.exec x.pred))) (lenOf x) ∧
           s.Wrote t x.d (s.cur.exec x.pred) f ∧ t.cur.sp.fmt = s.cur.sp.fmt ∧ ∀ i, f i = s.cur.vget n i) ∧
       (s.issues (x.a :: breg x.b) (count (s.cur.exec x.pred)) = true →
         ∃ t, exec (.mov .wri x) s = .next t ∧ s.Issued t (max 1 (count (s.cur.exec x.pred))) (lenOf x) ∧
           t.cur.g = s.cur.g ∧ t.cur.k = s.cur.k ∧ t.cur.sp.fmt = s.cur.sp.fmt ∧
           ∀ m i, i < 32 → t.cur.vget m i =
             if m = n ∧ inMask (s.cur.exec x.pred) i = true then s.vb x i else s.cur.vget m i)))

/-- O4: compares (R313, R320): element 0 of A against element 0 of B, written to a predicate bit of each executing thread. Votes
(R341). -/
def Obligations.ComparesAndVotes : Prop :=
  (∀ (s : State) (x : Ord), s.issues (srcAB x) (count (s.cur.exec x.pred)) = true →
     let a := fun i => subInt (s.va x i) x.et 0
     let b := fun i => subInt (s.vb x i) x.et 0
     let fa := fun i => s.fl x.et (s.va x i) 0
     let fb := fun i => s.fl x.et (s.vb x i) 0
     CompletesK (.cmp .eq x) s x (fun i => a i = b i) ∧ CompletesK (.cmp .ne x) s x (fun i => a i ≠ b i) ∧
     CompletesK (.cmp .lt x) s x (fun i => a i < b i) ∧ CompletesK (.cmp .le x) s x (fun i => a i ≤ b i) ∧
     CompletesK (.cmp .gt x) s x (fun i => b i < a i) ∧ CompletesK (.cmp .ge x) s x (fun i => b i ≤ a i) ∧
     CompletesK (.fcmp .un x) s x (fun i => (fa i).isNaN || (fb i).isNaN) ∧
     CompletesK (.fcmp .ord x) s x (fun i => !(fa i).isNaN && !(fb i).isNaN) ∧
     CompletesK (.fcmp .eq x) s x (fun i => (fa i).eq (fb i)) ∧
     CompletesK (.fcmp .ne x) s x (fun i => (fa i).isNaN || (fb i).isNaN || !(fa i).eq (fb i)) ∧
     CompletesK (.fcmp .lt x) s x (fun i => (fa i).lt (fb i)) ∧
     CompletesK (.fcmp .gt x) s x (fun i => (fb i).lt (fa i)) ∧
     CompletesK (.fcmp .le x) s x (fun i => !(fa i).isNaN && !(fb i).isNaN && !(fb i).lt (fa i)) ∧
     CompletesK (.fcmp .ge x) s x (fun i => !(fa i).isNaN && !(fb i).isNaN && !(fa i).lt (fb i))) ∧
  (∀ (s : State) (x : Ord),
     let e := s.cur.exec x.pred
     let set := fun p => s.va x p != 0
     s.cur.sp.st = 0 →
     (s.issues [x.a] (count e) = true →
       CompletesK (.xvote .any x) s x (fun _ => (threads e).any set) ∧
       CompletesK (.xvote .all x) s x (fun _ => (threads e).all set)) ∧
     (s.issues [x.d, x.a] (count e) = true → x.d.isG = true →
       ∃ t f, exec (.xvote .ballot x) s = .next t ∧ s.Issued t (max 1 (count e)) (lenOf x) ∧ s.Wrote t x.d e f ∧
         t.cur.sp.fmt = s.cur.sp.fmt ∧ ∀ i p, p < 64 → (f i).getLsbD p = (inMask e p && set p)))

/-- O5: float sums, products, extremes, signs, classes and integral rounding (R318, R319, R321, R324, R325). Correctly rounded
quotients and roots, special functions and the dot product (R322, R323, R326). Where the spec names no single candidate of a
special function, the model takes the candidate of log entry 6. -/
def Obligations.FloatResults : Prop :=
  (∀ (s : State) (x : Ord),
     let w := x.et.width
     let a := fun i j => s.fl x.et (s.va x i) j
     let b := fun i j => s.fl x.et (s.vb x i) j
     let c := fun i j => s.fl x.et (s.vc x i) j
     let each := fun (f : Nat → Nat → Nat) (i : Nat) (r : Word) => ∀ j, j < x.et.count → Element r x.et j (f i j)
     let src := fun (v : Nat → Word) i j => flush s.cur.ftz x.et (sub (v i) w j)
     let pick := fun (before : Fl → Fl → Bool) (i j : Nat) =>
       let p := src (s.va x) i j
       let q := src (s.vb x) i j
       if (toFl x.et p).isNaN then (if (toFl x.et q).isNaN then canonNaN x.et else q)
       else if (toFl x.et q).isNaN then p
       else if before (toFl x.et q) (toFl x.et p) then q else p
     (s.runs x (srcAB x) = true →
       Completes (.fadd x) s x (srcAB x) false (each fun i j => s.rounded x ((a i j).add (s.cur.mode x) (b i j))) ∧
       Completes (.fsub x) s x (srcAB x) false (each fun i j => s.rounded x ((a i j).add (s.cur.mode x) (b i j).negate)) ∧
       Completes (.fmul x) s x (srcAB x) false (each fun i j => s.rounded x ((a i j).mul (b i j))) ∧
       Completes (.fmin x) s x (srcAB x) false (each (pick fun q p => q.before p)) ∧
       Completes (.fmax x) s x (srcAB x) false (each (pick fun q p => p.before q)) ∧
       Completes (.fsgn .copysign x) s x (srcAB x) false (fun i r => ∀ j k, j < x.et.count → k < w →
         (sub r w j).testBit k = if k = w - 1 then (sub (s.vb x i) w j).testBit k else (sub (s.va x i) w j).testBit k)) ∧
     (s.runs x (srcABC x) = true →
       Completes (.ffma x) s x (srcABC x) false
         (each fun i j => s.rounded x (((a i j).mul (b i j)).add (s.cur.mode x) (c i j)))) ∧
     (s.runs x (srcA x) = true →
       Completes (.fsgn .abs x) s x (srcA x) false (fun i r => ∀ j k, j < x.et.count → k < w →
         (sub r w j).testBit k = (k != w - 1 && (sub (s.va x i) w j).testBit k)) ∧
       Completes (.fsgn .neg x) s x (srcA x) false (fun i r => ∀ j k, j < x.et.count → k < w →
         (sub r w j).testBit k = ((sub (s.va x i) w j).testBit k != (k == w - 1))) ∧
       Completes (.fclass x) s x (srcA x) false (each fun i j => classOf x.et (sub (s.va x i) w j)) ∧
       ∀ m, Completes (.frnd m x) s x (srcA x) false (each fun i j => integral m x.et (a i j)))) ∧
  (∀ (s : State) (x : Ord),
     let a := fun i j => s.fl x.et (s.va x i) j
     let b := fun i j => s.fl x.et (s.vb x i) j
     let m := s.cur.mode x
     let ftz := s.cur.ftz
     let each := fun (f : Nat → Nat → Nat) (i : Nat) (r : Word) => ∀ j, j < x.et.count → Element r x.et j (f i j)
     (s.runs x (srcA x) = true →
       Completes (.frcp x) s x (srcA x) false (each fun i j => divFl ftz x.et m Fl.one (a i j)) ∧
       Completes (.frsq x) s x (srcA x) false (each fun i j => rsqrtFl ftz x.et m (a i j)) ∧
       Completes (.fsqrt x) s x (srcA x) false (each fun i j => sqrtFl ftz x.et m (a i j)) ∧
       ∀ fn, Completes (.fsf fn x) s x (srcA x) false (each fun i j =>
         let v := fsf32 fn (flush ftz .f32 (roundFl .f32 .rne false (toFl x.et (sub (s.va x i) x.et.width j))))
         flush ftz x.et (if x.et = .f32 then v else roundFl x.et .rne false (toFl .f32 v)))) ∧
     (s.runs x (srcAB x) = true →
       Completes (.fdiv x) s x (srcAB x) false (each fun i j => divFl ftz x.et m (a i j) (b i j))) ∧
     (s.runs x (srcABC x) = true →
       Completes (.fdot x) s x (srcABC x) false (fun i r =>
         r.toNat = ((List.range x.et.count).foldl
           (fun acc j => resultFl ftz .f32 m ((toFl .f32 acc).add m ((a i j).mul (b i j))))
           (flush ftz .f32 (sub (s.vc x i) 32 0))) % 2 ^ 64)))

/-- O6: conversions, widening of a half, and scaled `e2m1` (R327, R328, R331). -/
def Obligations.Conversions : Prop :=
  ∀ (s : State) (x : Ord),
    let w := x.et.width
    let m := s.cur.mode x
    let ftz := s.cur.ftz
    (s.runs x (srcA x) = true →
      (∀ src, ET.ofCode (x.imm.toNat % 16) = some src →
        Completes (.cvt x) s x (srcA x) false (fun i r => ∀ j, j < x.et.count →
          Element r x.et j (if j < 64 / max src.width w then
            convert m ftz s.cur.satN src x.et (sub (s.va x i) src.width j) else 0))) ∧
      (x.et ≠ .e4m3 → x.et ≠ .e5m2 → x.et ≠ .e2m1 →
        Completes (.unpack .lo x) s x (srcA x) false (fun i r => ∀ j, j < x.et.count →
          Element r x.et j (widen x.et (sub (s.va x i) (w / 2) j))) ∧
        Completes (.unpack .hi x) s x (srcA x) false (fun i r => ∀ j, j < x.et.count →
          Element r x.et j (widen x.et (sub (s.va x i) (w / 2) (j + x.et.count)))))) ∧
    (s.runs x (srcAB x) = true →
      Completes (.bscale .decode x) s x (srcAB x) false (fun i r => ∀ j, j < 4 →
        let b := (s.vb x i).toNat
        Element r .bf16 j (roundFl .bf16 .rne false
          ((toFl .e2m1 (sub (s.va x i) 4 (4 * (b / 256 % 4) + j))).mul (scaleFl (b % 256))))) ∧
      Completes (.bscale .encode x) s x (srcAB x) false (fun i r => ∀ j, j < 16 →
        let b := (s.vb x i).toNat
        Element r .e2m1 j (if 4 ≤ j ∨ b % 256 = 0 ∨ b % 256 = 255 then 0
          else encodeOne m (srcFl ftz .bf16 (sub (s.va x i) 16 j)) (scaleFl (b % 256)))))

/-! ### Cross-thread instructions (spec/17) -/

/-- O7: shifts through time, selection and matches (R335, R337, R338, R342). -/
def Obligations.CrossThreadReads : Prop :=
  ∀ (s : State) (x : Ord),
    let ps := s.cur.omask x.pred
    let w := x.et.width
    let k := x.imm.toNat % 16
    (s.runs x (srcA x) = true →
      Completes (.xprev x) s x (srcA x) false (fun i r =>
        if x.d.isG then r = s.cur.opd x.d i
        else (∀ p, NearestBelow ps i p → r = s.va x p) ∧
          ((∀ p, inMask ps p = true → i ≤ p) → r = s.cur.opd x.d i)) ∧
      Completes (.xnext x) s x (srcA x) false (fun i r =>
        if x.d.isG then r = s.cur.opd x.d i
        else (∀ p, NearestAbove ps i p → r = s.va x p) ∧
          ((∀ p, inMask ps p = true → p ≤ i) → r = s.cur.opd x.d i)) ∧
      Completes (.xmatch x) s x (srcA x) false (fun i r => ∀ p, p < 64 →
        r.getLsbD p = (inMask ps p && (x.d.isG || sub (s.va x p) w 0 == sub (s.va x i) w 0)))) ∧
    (s.runs x (srcAB x) = true → k < x.et.count →
      let picked := fun i (r : Word) => ∀ j, j < x.et.count →
        sub r w j = sub (s.va x (if x.d.isG then i else (s.vb x i).toNat % 32)) w k
      Completes (.xsel x) s x (srcAB x) false picked ∧
      (s.uniformIn x.pred (breg x.b) = true → Completes (.xbcast x) s x (srcAB x) false picked))

/-- O8: scans and reductions (R335, R339, R340): each position separately, over the participants in ascending order; after a
0x09 the running value comes from the registers as they stand. -/
def Obligations.ScansAndReductions : Prop :=
  ∀ (s : State) (x : Ord) (fn : ScanOp),
    let w := x.et.width
    let op := scanOp fn (fmtMode s.cur.sp.fmt) s.cur.ftz x.et
    let elem := fun j p => scanIn s.cur.ftz x.et (sub (s.va x p) w j)
    let from_ := if s.cur.sp.st = 1 then s.cur.sp.rtid.toNat else 0
    let excl := x.imm.getLsbD 7
    (s.runs x (srcA x) = true →
      Completes (.xscan fn x) s x (srcA x) false (fun i r => ∀ j, j < x.et.count →
        let run := if x.d.isG then (if excl then [] else [i])
          else (threads (s.cur.omask x.pred)).filter fun p => from_ ≤ p && (if excl then p < i else p ≤ i)
        Element r x.et j
          ((foldPos op ((s.cur.scanInit fn x).map fun v => sub v w j) (run.map (elem j))).getD (scanId fn x.et)))) ∧
    (s.issues [x.d, x.a] (count (s.cur.exec x.pred)) = true → x.d.isG = true → s.cur.sp.st = 0 →
      ∃ t f, exec (.xred fn x) s = .next t ∧ s.Issued t (max 1 (count (s.cur.exec x.pred))) (lenOf x) ∧
        s.Wrote t x.d (s.cur.exec x.pred) f ∧ t.cur.sp.fmt = s.cur.sp.fmt ∧
        (s.cur.exec x.pred ≠ 0 → ∀ i j, j < x.et.count → Element (f i) x.et j
          ((foldPos op none ((threads (s.cur.exec x.pred)).map (elem j))).getD 0)))

/-! ### Traps (spec/10) -/

/-- O9: taking a trap (R193, R194) on the instructions whose effect it is: `brk` raises 0x0E with the saved PC at the `brk`,
`trap` raises 0x10 with the saved PC behind it and its code in FADDR (R417), and words that do not decode raise 0x01 (R300,
R301). -/
def Obligations.TrapEntry : Prop :=
  ∀ (s : State), s.trappable = true →
    (∀ x : Ord, s.cur.exec x.pred ≠ 0 → s.funds 1 = true →
      (∃ t, exec (.brk x) s = .next t ∧ s.OnlyGroup t ∧ t.cur.v = s.cur.v ∧
        s.Trapped t 0x0E 0 0 (lowest (s.cur.exec x.pred)) s.cur.sp.pc (maskOf [lowest (s.cur.exec x.pred)])
          (s.cur.omask x.pred) (fun _ => 0)) ∧
      (∃ t, exec (.trap x) s = .next t ∧ s.OnlyGroup t ∧ t.cur.v = s.cur.v ∧
        s.Trapped t 0x10 0 0 (lowest (s.cur.exec x.pred)) (s.cur.sp.pc + BitVec.ofNat 48 (lenOf x))
          (maskOf [lowest (s.cur.exec x.pred)]) (s.cur.omask x.pred)
          (fun i => if i = lowest (s.cur.exec x.pred) then faddrWord 0x10 (x.imm.setWidth 64) else 0))) ∧
    (∀ words : List (BitVec 32), s.cur.live = true → s.cur.spLive = true → s.cur.sp.mask ≠ 0 →
      let p := predOfWords words
      ∃ t, exec (.illegalInstruction words) s = .next t ∧ s.OnlyGroup t ∧ t.cur.v = s.cur.v ∧
        s.Trapped t 0x01 0 0 (s.cur.reportAt p) s.cur.sp.pc (maskOf [s.cur.reportAt p]) (s.cur.omask p)
          (fun _ => 0))

/-- O10: an instruction that names a register the group may not name raises 0x02 in the whole class: no thread takes effect, and
it is reported at the lowest executing thread, or at the lowest active one where none executes (R170, R301). Here for a compare,
an arithmetic instruction, a load, a store and an atomic. A uniform instruction whose vector sources differ between executing
threads raises 0x03 at the lowest of them, and no thread takes effect (R169, R304). That a refused instruction takes one issue
cycle and one charge is the model's reading (log entry 18). -/
def Obligations.OperandRefusals : Prop :=
  (∀ (s : State) (x : Ord), s.trappable = true →
     let refused := fun (i : Instr) => ∃ t, exec i s = .next t ∧ s.OnlyGroup t ∧ t.cur.v = s.cur.v ∧
       s.Trapped t 0x02 0 0 (s.cur.reportAt x.pred) s.cur.sp.pc (maskOf [s.cur.reportAt x.pred]) (s.cur.omask x.pred)
         (fun _ => 0)
     (s.cur.allNamed (srcAB x) = false → ∀ fn, refused (.cmp fn x)) ∧
     (s.cur.allNamed (x.d :: srcAB x) = false → refused (.add x) ∧ refused (.fadd x) ∧ refused (.ld x)) ∧
     (s.cur.allNamed (srcABC x) = false → refused (.st x))) ∧
  (∀ (s : State) (x : Ord), s.trappable = true → x.d.isG = true → s.cur.exec x.pred ≠ 0 →
     s.cur.allNamed (x.d :: srcAB x) = true → s.uniformIn x.pred (srcAB x) = false →
     let refused := fun (i : Instr) => ∃ t, exec i s = .next t ∧ s.OnlyGroup t ∧ t.cur.v = s.cur.v ∧
       s.Trapped t 0x03 0 0 (lowest (s.cur.exec x.pred)) s.cur.sp.pc (maskOf [lowest (s.cur.exec x.pred)])
         (s.cur.omask x.pred) (fun _ => 0)
     refused (.add x) ∧ refused (.xor x) ∧ refused (.fmul x) ∧ refused (.ld x) ∧ refused (.ldls x))

/-- O11: a thread-instruction that would issue while `%bgt` is 0 raises 0x09 at that thread: the lower threads have completed,
the launch is marked overrun and `%bgt` reads 0 (R153). In handler mode a budget that reaches 0 raises no trap; the launch is
marked overrun, and the group's first thread-instruction after the return raises 0x09 (R195). Single step raises 0x0F after the
instruction, with the saved PC at the next instruction (R205, R191). Readiness of operands (R167, R334): in the instruction that
a lane issues, every executing thread issues no earlier than six cycles after its issue in the latest instruction that wrote a
register or predicate which this one reads or writes; `xsel` and `xbcast` wait so for every thread of A. An issue keeps six
cycles after each thread's own cycle, and of a uniform instruction six after its last. Which destinations land later, and that a
trap keeps nothing, is the model's reading (log entry 43). -/
def Obligations.Budgets : Prop :=
  (∀ (s : State) (x : Ord) (n : Fin 96), s.trappable = true → x.d = .v n → s.cur.allNamed (x.d :: srcAB x) = true →
     s.counts = true → s.cur.spent = false → s.cur.bgt.toNat < count (s.cur.exec x.pred) →
     let e := s.cur.exec x.pred
     let ok := firstThreads e s.cur.bgt.toNat
     let at_ := lowest (e &&& ~~~ok)
     ∃ t, exec (.xor x) s = .next t ∧
       (∀ m i, i < 32 → t.cur.vget m i =
         if m = n.val ∧ inMask ok i = true then s.va x i ^^^ s.vb x i else s.cur.vget m i) ∧
       s.Trapped t 0x09 0 1 at_ s.cur.sp.pc (maskOf [at_]) (s.cur.omask x.pred)
         (fun _ => 0) ∧
       t.cur.bgt = 0 ∧ (∀ l, t.launch? s.cur.launch = some l → l.overrun = true) ∧
       t.mem = s.mem ∧ t.home = s.home ∧ t.stks = s.stks ∧ t.eng = s.eng) ∧
  (∀ (s : State) (x : Ord) (n : Fin 96), s.cur.hand.isSome = true → s.cur.sp.charged = false → x.d = .v n →
     s.cur.allNamed (x.d :: srcAB x) = true → s.counts = true → s.cur.bgt.toNat ≤ max 1 (count (s.cur.exec x.pred)) →
     ∃ t, exec (.xor x) s = .next t ∧ t.cur.hand = s.cur.hand ∧ t.cur.spent = true ∧ t.cur.bgt = 0 ∧
       (∀ l, t.launch? s.cur.launch = some l → l.overrun = true) ∧
       t.cur.sp.pc = s.cur.sp.pc + BitVec.ofNat 48 (lenOf x) ∧
       ∀ m i, i < 32 → t.cur.vget m i =
         if m = n.val ∧ inMask (s.cur.exec x.pred) i = true then s.va x i ^^^ s.vb x i else s.cur.vget m i) ∧
  (∀ (s : State) (x : Ord) (n : Fin 96), s.trappable = true → x.d = .v n → s.cur.allNamed (x.d :: srcAB x) = true →
     s.funds (count (s.cur.exec x.pred)) = true → s.cur.live = true → s.cur.spLive = true →
     s.cur.dbg.getLsbD 8 = true → s.cur.exec x.pred ≠ 0 → s.cur.sp.st = 0 →
     let e := s.cur.exec x.pred
     ∃ t, exec (.xor x) s = .next t ∧
       (∀ m i, i < 32 → t.cur.vget m i =
         if m = n.val ∧ inMask e i = true then s.va x i ^^^ s.vb x i else s.cur.vget m i) ∧
       s.Trapped t 0x0F 0 0 (lowest e) (s.cur.sp.pc + BitVec.ofNat 48 (lenOf x)) (maskOf [lowest e]) e
         (fun _ => 0)) ∧
  (∀ (s : State),
     (∀ c u ws i, s.nextIssue = some c →
       let v := s.view c.g c.slot
       let e := threads (v.cur.exec (guardOf i))
       let at_ := fun k => s.clock.cycle + if v.perThreadIssue i then k else 0
       v.cur.sp.charged = false → v.fetchWords maxWords [] = (.ok ws, u) → decodeWords ws = .ok i →
       ∀ (k t : Nat), e[k]? = some t →
         (∀ n ∈ v.reads i ++ v.writesAt i, v.cur.usableAt n t ≤ at_ k) ∧
         (∀ x, (i = .xsel x ∨ i = .xbcast x) → ∀ u, u < 32 → v.cur.usableAt x.a.code u ≤ at_ k)) ∧
     (∀ (x : Ord) (n : Fin 96), x.d = .v n → s.writesAt (.xor x) = [n.val] ∧ isUniform (.xor x) = false ∧
       x.a.code ∈ s.reads (.xor x) ∧ (∀ b, x.b = .reg b → b.code ∈ s.reads (.xor x)) ∧
       (x.pred.k.val ≠ 0 → 128 + x.pred.k.val ∈ s.reads (.xor x))) ∧
     (∀ (i : Instr) (s' : State) (n : Nat),
       let e := threads (s.cur.exec (guardOf i))
       n ∈ s.writesAt i → s.cur.exec (guardOf i) ≠ 0 → s.cur.sp.charged = false → stalled s s' = false →
       s'.cur.live = true → s'.cur.id = s.cur.id → s'.cur.launch = s.cur.launch → s'.cur.gix = s.cur.gix →
       s'.cur.hand.isSome = s.cur.hand.isSome →
         (isUniform i = false → (∀ fn x, i ≠ .xvote fn x) → ∀ (k t : Nat), e[k]? = some t →
           (s.noteWrites i s').cur.usableAt n t = s.clock.cycle + k + 6) ∧
         (isUniform i = true → ∀ t, t < 32 → (s.noteWrites i s').cur.usableAt n t =
           Tab.getD (s'.core s.cur.id.die s.cur.id.core).busy s.cur.id.lane 0 - 1 + 6)))

/-- O12: a trap raised in handler mode is a double trap (R195): the event is logged to the partition's error log, and the
group's launch is ended: none of its groups is resident or saved, and nothing is queued at its stages (R439). -/
def Obligations.DoubleTrap : Prop :=
  ∀ (s : State), s.cur.hand.isSome = true → s.cur.live = true → s.cur.sp.charged = false → s.counts = false →
    let ended := fun (t : State) =>
      (t.part s.cur.part).errors = (s.part s.cur.part).errors ++ [.doubleTrap s.cur.id] ∧
      (∀ g ∈ t.groups, g.live = true → g.launch ≠ s.cur.launch) ∧ (∀ g ∈ t.saved, g.launch ≠ s.cur.launch) ∧
      ∀ l, t.launch? s.cur.launch = some l → l.ended = true ∧ ∀ e ∈ l.stages, e.2.queue = []
    (∀ x : Ord, s.cur.exec x.pred ≠ 0 → ∃ t, exec (.brk x) s = .next t ∧ ended t) ∧
    (∀ words, s.cur.spLive = true → ∃ t, exec (.illegalInstruction words) s = .next t ∧ ended t) ∧
    (∀ x : Ord, s.cur.exec x.pred ≠ 0 → ∃ t, exec (.exit x) s = .next t ∧ ended t) ∧
    (∀ (x : Branch) fn, ∃ t, exec (.call fn x) s = .next t ∧ ended t) ∧ (∀ x : Ord, ∃ t, exec (.ret x) s = .next t ∧ ended t)

/-- O13: `eret` leaves handler mode (R196): `v0`-`v3` come back from the shadow and `g28`-`g30` from GSAVE, and the faulting
split is rebuilt in its slot with PC, FMT, ST, RTID and the remaining mask as the handler left them in the frame. That the
splits that the handler made all end is the model's reading (log entry 20). -/
def Obligations.HandlerReturn : Prop :=
  ∀ (s : State) (x : Ord) (h : Handler) (a : Team), s.cur.hand = some h → s.team? s.cur = some a →
    s.cur.exec x.pred ≠ 0 → s.cur.sp.charged = false → s.funds 1 = true → s.cur.held = [] →
    let w := leNat (a.ls.bytes s.cur.tframe 64)
    field w 96 2 ≠ 3 → field w 89 1 = 0 →
    s.cur.shadow.map (fun e => e.1) = [0, 1, 2, 3] →
    ∃ t, exec (.eret x) s = .next t ∧ t.cur.hand = none ∧ t.mem = s.mem ∧ t.home = s.home ∧ t.teams = s.teams ∧
      (∀ n i, i < 32 → t.cur.vget n i = if n < 4 then Row.get (Tab.getD s.cur.shadow n []) i else s.cur.vget n i) ∧
      (∀ n, t.cur.gget n = if 28 ≤ n ∧ n < 31 then BitVec.ofNat 64 (field w (256 + 64 * (n - 28)) 64) else s.cur.gget n) ∧
      t.cur.k = s.cur.k ∧ t.cur.slot = h.slot ∧ t.cur.spLive = true ∧ t.cur.sp.mask = h.rec_.mask ∧
      t.cur.sp.token = h.rec_.token ∧ t.cur.sp.depth = h.rec_.depth ∧ t.cur.sp.part = h.rec_.part ∧
      t.cur.sp.pc.toNat = 4 * field w 146 46 ∧ t.cur.sp.fmt.toNat = field w 98 14 ∧ t.cur.sp.st.toNat = field w 96 2 ∧
      t.cur.sp.rtid.toNat = field w 91 5 ∧
      t.cur.sp.rem.toNat = (if field w 96 2 = 2 then field w 192 32 else field w 224 32) ∧
      ∀ p ∈ t.cur.allSplits, p.hand = true → p = t.cur.sp

/-! ### Control flow (spec/17) -/

/-- O14: `br` (R345): with no executing thread the split goes on; with all of its threads it goes to the target; else it
diverges: one rejoin entry with ORIGIN the whole mask, the executing threads in a split of their own. Step 3 of R343, a full
rejoin table and a full spill stack refuse it. `jmp` and `call` (R346) to a relative or an indirect target: the whole split
goes, or its executing threads part from it with no rejoin entry; `call` leaves the address of the next instruction in `v15` and
adds 1 to DEPTH, and at DEPTH 255 raises 0x11. -/
def Obligations.Branches : Prop :=
  (∀ (s : State) (x : Branch),
     let e := s.cur.acting x.pred
     let n := max 1 (count (s.cur.exec x.pred))
     let dest := s.relative x.off.toInt
     let full := s.cur.rejoin.length ≥ 16 ∨ (s.cur.other.isSome = true ∧ s.cur.spill.length ≥ 32)
     (s.issues [] (count (s.cur.exec x.pred)) = true → s.cur.spLive = true →
       (e = 0 → ∃ t, exec (.br x) s = .next t ∧ s.Moved t 1 ∧ t.cur.v = s.cur.v ∧ t.cur.rejoin = s.cur.rejoin ∧
         t.cur.sp = s.cur.sp.after s.cur.sp.fmt 8 (s.clock.cycle + 1) ∧ s.cur.Beside t.cur []) ∧
       (e ≠ 0 → GoodTarget dest → e = s.cur.sp.mask → ∃ t, exec (.br x) s = .next t ∧ s.Moved t n ∧ t.cur.v = s.cur.v ∧
         t.cur.rejoin = s.cur.rejoin ∧ s.cur.sp.at_ e dest s.cur.sp.token s.cur.sp.depth t.cur.sp ∧
         s.cur.Beside t.cur []) ∧
       (e ≠ 0 → GoodTarget dest → e ≠ s.cur.sp.mask → ¬full → ∃ t r q, exec (.br x) s = .next t ∧ s.Moved t n ∧
         t.cur.v = s.cur.v ∧ t.cur.rejoin = s.cur.rejoin ++ [r] ∧ r.token = t.cur.tokens ∧
         t.cur.tokens = (if s.cur.tokens + 1 = 0 then 1 else s.cur.tokens + 1) ∧
         r.origin = s.cur.sp.mask ∧ r.parent = s.cur.sp.token ∧ r.arrived = 0 ∧ r.closed = false ∧ r.merged = none ∧
         s.cur.sp.at_ (s.cur.sp.mask &&& ~~~e) (s.relative 2) r.token s.cur.sp.depth t.cur.sp ∧
         s.cur.sp.at_ e dest r.token s.cur.sp.depth q ∧ s.cur.Beside t.cur [q])) ∧
     (s.trappable = true → e ≠ 0 →
       (∀ c, BadTarget dest c → Refuses (.br x) s x.pred c) ∧
       (GoodTarget dest → e ≠ s.cur.sp.mask → full → Refuses (.br x) s x.pred 0x11))) ∧
  (∀ (s : State) (x : Branch) (fn : JmpFn) (call : Bool),
     let i := if call then Instr.call fn x else Instr.jmp fn x
     let srcs := match fn with | .direct => [] | .indirect => [x.a]
     let dest := match fn with | .direct => s.relative x.off.toInt | .indirect => s.cur.opd x.a (lowest (s.cur.exec x.pred))
     let e := s.cur.acting x.pred
     let n := max 1 (count (s.cur.exec x.pred))
     let depth := if call then s.cur.sp.depth + 1 else s.cur.sp.depth
     let links := fun (t : State) => ∀ m j, j < 32 → t.cur.vget m j =
       if call = true ∧ m = 15 ∧ inMask (s.cur.exec x.pred) j = true then s.relative 2 else s.cur.vget m j
     (s.issues srcs (count (s.cur.exec x.pred)) = true → s.uniformIn x.pred srcs = true → s.cur.spLive = true →
       (call = true → s.cur.hand = none) →
       (s.cur.exec x.pred = 0 → ∃ t, exec i s = .next t ∧ s.Moved t 1 ∧ t.cur.v = s.cur.v ∧ t.cur.rejoin = s.cur.rejoin ∧
         t.cur.sp = s.cur.sp.after s.cur.sp.fmt 8 (s.clock.cycle + 1) ∧ s.cur.Beside t.cur []) ∧
       (s.cur.exec x.pred ≠ 0 → GoodTarget dest → (call = true → s.cur.sp.depth ≠ 255) →
         (e = s.cur.sp.mask → ∃ t, exec i s = .next t ∧ s.Moved t n ∧ links t ∧ t.cur.rejoin = s.cur.rejoin ∧
           s.cur.sp.at_ e dest s.cur.sp.token depth t.cur.sp ∧ s.cur.Beside t.cur []) ∧
         (e ≠ s.cur.sp.mask → ¬(s.cur.other.isSome = true ∧ s.cur.spill.length ≥ 32) →
           ∃ t q, exec i s = .next t ∧ s.Moved t n ∧ links t ∧ t.cur.rejoin = s.cur.rejoin ∧
             s.cur.sp.at_ (s.cur.sp.mask &&& ~~~e) (s.relative 2) s.cur.sp.token s.cur.sp.depth t.cur.sp ∧
             s.cur.sp.at_ e dest s.cur.sp.token depth q ∧ s.cur.Beside t.cur [q]))) ∧
     (s.trappable = true → s.cur.allNamed srcs = true → s.uniformIn x.pred srcs = true → s.cur.exec x.pred ≠ 0 →
       (∀ c, BadTarget dest c → Refuses i s x.pred c) ∧
       (GoodTarget dest → call = true → s.cur.sp.depth = 255 → Refuses i s x.pred 0x11) ∧
       (GoodTarget dest → (call = true → s.cur.sp.depth ≠ 255) → e ≠ s.cur.sp.mask →
         (s.cur.other.isSome = true ∧ s.cur.spill.length ≥ 32) → Refuses i s x.pred 0x11)))

/-- O15: `ret` above DEPTH 0 (R347): the returning threads part by their links into splits, one for each target and in order of
their lowest threads, at one DEPTH less; a bad link is refused with the cause of the lowest thread that has one. `exit` (R350),
and `ret` at DEPTH 0 (R347): the executing threads leave the split and the ORIGIN of every entry; a split left empty ends and
frees its slot; a group with no thread left and nothing outstanding ends. -/
def Obligations.ReturnsAndExits : Prop :=
  (∀ (s : State) (x : Ord),
     let e := s.cur.acting x.pred
     let n := max 1 (count (s.cur.exec x.pred))
     let link := fun j => s.cur.vget 15 j
     (s.issues [] (count (s.cur.exec x.pred)) = true → s.cur.spLive = true → s.cur.hand = none → s.cur.sp.depth ≠ 0 →
       s.cur.exec x.pred ≠ 0 → e ≠ 0 → (∀ j, inMask e j = true → GoodTarget (link j)) →
       ((threads e).map link).eraseDups.length ≤
         (if e = s.cur.sp.mask then 1 else 0) + (if s.cur.other.isSome then 0 else 1) + (32 - s.cur.spill.length) →
       ∃ t, ∃ rs : List Split, exec (.ret x) s = .next t ∧ s.Moved t n ∧ t.cur.v = s.cur.v ∧
         t.cur.rejoin = s.cur.rejoin ∧
         (∀ j, inMask e j = true → ∃ r ∈ rs, inMask r.mask j = true) ∧
         rs.Pairwise (fun a b => a.pc ≠ b.pc ∧ lowest a.mask < lowest b.mask) ∧
         (∀ r ∈ rs, r.mask ≠ 0 ∧ (∀ j, inMask r.mask j = true → inMask e j = true ∧ (link j).toNat = r.pc.toNat) ∧
           r.token = s.cur.sp.token ∧ r.depth = s.cur.sp.depth - 1 ∧ r.fmt = s.cur.sp.fmt ∧ r.st = 0) ∧
         if e = s.cur.sp.mask then
           t.cur.sp.pc.toNat = (link (lowest e)).toNat ∧ (rs.head?.map fun r => r.mask) = some t.cur.sp.mask ∧
             t.cur.sp.depth = s.cur.sp.depth - 1 ∧ t.cur.sp.token = s.cur.sp.token ∧ s.cur.Beside t.cur rs.tail
         else
           s.cur.sp.at_ (s.cur.sp.mask &&& ~~~e) (s.relative (lenOf x / 4)) s.cur.sp.token s.cur.sp.depth t.cur.sp ∧
             s.cur.Beside t.cur rs) ∧
     (s.trappable = true → s.cur.sp.depth ≠ 0 → s.cur.exec x.pred ≠ 0 → ∀ j c, inMask e j = true →
       (∀ k, inMask e k = true → k < j → GoodTarget (link k)) → BadTarget (link j) c → Refuses (.ret x) s x.pred c)) ∧
  (∀ (s : State) (x : Ord) (i : Instr), (i = .exit x ∨ (i = .ret x ∧ s.cur.sp.depth = 0)) →
     s.issues [] (count (s.cur.exec x.pred)) = true → s.cur.spLive = true → s.cur.live = true → s.cur.hand = none →
     let e := s.cur.exec x.pred
     let n := max 1 (count e)
     (e = 0 → ∃ t, exec i s = .next t ∧ s.Moved t 1 ∧ t.cur.v = s.cur.v ∧ t.cur.rejoin = s.cur.rejoin ∧
       t.cur.sp = s.cur.sp.after s.cur.sp.fmt (lenOf x) (s.clock.cycle + 1) ∧ s.cur.Beside t.cur []) ∧
     (e ≠ 0 → s.cur.acting x.pred = e →
       (s.cur.sp.mask &&& ~~~e ≠ 0 ∨ s.cur.other.isSome = true ∨ s.cur.spill ≠ [] →
         ∃ t, exec i s = .next t ∧ s.Moved t n ∧ t.cur.v = s.cur.v ∧
           (∀ r ∈ t.cur.rejoin, ∃ r0 ∈ s.cur.rejoin, r.token = r0.token ∧ r.origin = r0.origin &&& ~~~e ∧ r.arrived = r0.arrived) ∧
           (s.cur.sp.mask &&& ~~~e ≠ 0 →
             s.cur.sp.at_ (s.cur.sp.mask &&& ~~~e) (s.relative (lenOf x / 4)) s.cur.sp.token s.cur.sp.depth t.cur.sp) ∧
           (s.cur.rejoin = [] → t.cur.allSplits.Perm
             ((if s.cur.sp.mask &&& ~~~e = 0 then [] else [t.cur.sp]) ++ s.cur.other.toList ++ s.cur.spill))) ∧
       (s.cur.sp.mask &&& ~~~e = 0 → s.cur.other = none → s.cur.spill = [] → s.cur.rejoin = [] →
         (∀ a, s.team? s.cur = some a → a.maps = []) → s.cur.cntL = 0 → s.cur.cntS = 0 → s.cur.cntT = 0 → s.cur.fillFaults = [] →
         s.backOut s.cur.id = false → ∃ t, exec i s = .next t ∧ t.mem = s.mem ∧ t.home = s.home ∧
           (∀ g ∈ t.groups, g.live = true → g.id ≠ s.cur.id) ∧
           ∀ l, s.launch? s.cur.launch = some l → t.launch? s.cur.launch = some { l with exited := l.exited + 1 })))

/-- O16: `switch` (R348): every active thread goes to the target of the lowest case whose value equals bits [31:0] of A, or to
the default; with one target the split goes there whole, else one rejoin entry covers the splits, in order of their cases. -/
def Obligations.Switches : Prop :=
  ∀ (s : State) (a : Opd) (et : ET) (cases : List SwCase) (dflt : BitVec 32) (sel : Nat → Nat),
    s.issues [a] (count (s.cur.exec pred0)) = true → s.cur.spLive = true → s.cur.sp.mask ≠ 0 →
    let v := fun j => (s.cur.opd a j).toNat % 2 ^ 32
    let n := max 1 (count (s.cur.exec pred0))
    let dest := fun i => match cases[i]? with | some c => s.relative c.off.toInt | none => s.relative dflt.toInt
    let here := fun j => inMask s.cur.sp.mask j = true
    (∀ j, here j → sel j ≤ cases.length ∧ (∀ c, cases[sel j]? = some c → c.value.toNat = v j) ∧
      ∀ i c, i < sel j → cases[i]? = some c → c.value.toNat ≠ v j) →
    (∀ j, here j → GoodTarget (dest (sel j))) →
    ((∀ j k, here j → here k → dest (sel j) = dest (sel k)) → ∃ t, exec (.switch a et cases dflt) s = .next t ∧ s.Moved t n ∧
      t.cur.v = s.cur.v ∧ t.cur.rejoin = s.cur.rejoin ∧ s.cur.Beside t.cur [] ∧
      s.cur.sp.at_ s.cur.sp.mask (dest (sel (lowest s.cur.sp.mask))) s.cur.sp.token s.cur.sp.depth t.cur.sp) ∧
    ((∃ j k, here j ∧ here k ∧ dest (sel j) ≠ dest (sel k)) → s.cur.rejoin.length < 16 →
      ((threads s.cur.sp.mask).map sel).eraseDups.length ≤
        1 + (if s.cur.other.isSome then 0 else 1) + (32 - s.cur.spill.length) →
      ∃ t r, ∃ q : Nat × Split, ∃ qs : List (Nat × Split), exec (.switch a et cases dflt) s = .next t ∧ s.Moved t n ∧
        t.cur.v = s.cur.v ∧ t.cur.rejoin = s.cur.rejoin ++ [r] ∧ r.token = t.cur.tokens ∧ r.origin = s.cur.sp.mask ∧
        r.parent = s.cur.sp.token ∧ r.arrived = 0 ∧ r.closed = false ∧
        (∀ j, here j → ∃ p ∈ q :: qs, p.1 = sel j) ∧ (q :: qs).Pairwise (fun a b => a.1 < b.1) ∧
        (∀ p ∈ q :: qs, (∃ j, here j ∧ sel j = p.1) ∧
          s.cur.sp.at_ (maskOf ((threads s.cur.sp.mask).filter fun j => sel j == p.1)) (dest p.1) r.token s.cur.sp.depth p.2) ∧
        t.cur.sp.mask = q.2.mask ∧ t.cur.sp.pc = q.2.pc ∧ t.cur.sp.token = r.token ∧
        s.cur.Beside t.cur (qs.map fun p => p.2))

/-- O17: arrival at a rejoin (R349, R178): at TOKEN 0 the split goes on; with no entry of its TOKEN, or at a closed or a
different entry, it goes on alone with PART set; else it parks, and the last arrival merges the parked splits at the next
instruction of the first. The expiry of a rejoin entry (R179): at its time the parked splits of an open entry merge with PART
set, and the entry is closed; before that, or at a closed or empty entry, nothing happens. -/
def Obligations.Rejoins : Prop :=
  (∀ (s : State) (x : Ord), s.issues (breg x.b) (count (s.cur.exec x.pred)) = true → s.uniformIn x.pred (breg x.b) = true →
     s.cur.spLive = true → s.cur.spill.length ≤ 32 →
     let p := s.cur.sp
     let n := max 1 (count (s.cur.exec x.pred))
     let next := p.pc + BitVec.ofNat 48 (lenOf x)
     let limit := (s.cur.bopd .zero x.et x.b (lowest (s.cur.exec x.pred))).toNat % 2 ^ 32
     let moved := fun (t : State) => exec (.rejoin x) s = .next t ∧ s.Moved t n ∧ t.cur.v = s.cur.v
     let goesOn := fun (t : State) (token : BitVec 16) (part : Bool) =>
       t.cur.sp.mask = p.mask ∧ t.cur.sp.pc = next ∧ t.cur.sp.token = token ∧ t.cur.sp.part = part ∧
         t.cur.sp.depth = p.depth ∧ t.cur.sp.fmt = p.fmt ∧ s.cur.Beside t.cur []
     ((s.cur.exec x.pred = 0 ∨ p.token = 0) → ∃ t, moved t ∧ goesOn t p.token p.part ∧ t.cur.rejoin = s.cur.rejoin) ∧
     (s.cur.exec x.pred ≠ 0 → p.token ≠ 0 →
       (s.cur.entry? p.token = none → ∃ t, moved t ∧ goesOn t 0 true ∧ t.cur.rejoin = s.cur.rejoin) ∧
       ∀ e, s.cur.entry? p.token = some e →
         ((e.closed = true ∨ e.merged.isSome = true ∨ (e.arrived ≠ 0 ∧ ¬(e.pc = p.pc ∧ e.depth = p.depth))) →
           ∃ t, moved t ∧ goesOn t e.parent true) ∧
         (e.closed = false → e.merged = none → (e.arrived ≠ 0 → e.pc = p.pc ∧ e.depth = p.depth) →
           (∀ r ∈ s.cur.rejoin, r.merged = none) →
           (e.arrived ||| p.mask ≠ e.origin → ∃ t r, moved t ∧ t.cur.entry? p.token = some r ∧
             r.arrived = e.arrived ||| p.mask ∧ r.origin = e.origin ∧ r.parent = e.parent ∧ r.closed = false ∧
             (e.arrived = 0 → r.pc = p.pc ∧ r.next = next ∧ r.depth = p.depth ∧ r.fmt = p.fmt ∧
               r.expiry = if limit = 0 then none else some (s.clock.time + BitVec.ofNat 64 limit)) ∧
             (e.arrived ≠ 0 → r.pc = e.pc ∧ r.next = e.next ∧ r.depth = e.depth ∧ r.expiry = e.expiry ∧
               r.fmt = if lowest p.mask < e.low then p.fmt else e.fmt) ∧
             t.cur.allSplits.Perm (s.cur.other.toList ++ s.cur.spill)) ∧
           (e.arrived ||| p.mask = e.origin → ∃ t q, moved t ∧ (∀ r ∈ t.cur.rejoin, r.token ≠ p.token) ∧
             q.mask = e.origin ∧ q.token = e.parent ∧ q.part = false ∧
             q.pc = (if e.arrived = 0 then next else e.next) ∧ q.depth = p.depth ∧
             q.fmt = (if e.arrived = 0 ∨ lowest p.mask < e.low then p.fmt else e.fmt) ∧
             t.cur.allSplits.Perm (q :: (s.cur.other.toList ++ s.cur.spill)))))) ∧
  (∀ (s : State) (i : Gid) (n : Nat) (g : Group) (e : Rejoin), s.group? i = some g →
     g.entry? (BitVec.ofNat 16 n) = some e →
     ((e.closed = true ∨ e.merged.isSome = true ∨ e.arrived = 0 ∨ e.expiry = none ∨
         ∃ x, e.expiry = some x ∧ s.clock.time.toNat < x.toNat) → exec (.rejoinExpiry i n) s = .next s) ∧
     (∀ x, e.expiry = some x → e.closed = false → e.merged = none → e.arrived ≠ 0 → x.toNat ≤ s.clock.time.toNat →
       (∀ r ∈ g.rejoin, r.merged = none) → (∀ r ∈ g.rejoin, r.token = e.token → r = e) →
       ∃ t q, exec (.rejoinExpiry i n) s = .next t ∧ t.mem = s.mem ∧ t.home = s.home ∧ t.teams = s.teams ∧
         t.cur.id = i ∧ t.cur.v = g.v ∧ t.cur.g = g.g ∧ t.cur.k = g.k ∧ t.cur.bgt = g.bgt ∧
         q.mask = e.arrived ∧ q.part = true ∧ q.pc = e.next ∧ q.token = e.parent ∧ q.depth = e.depth ∧ q.fmt = e.fmt ∧
         (if g.spLive = true ∧ g.other.isSome = true ∧ g.spill.length ≥ 32 then
           t.cur.allSplits = g.allSplits ∧ ∃ r ∈ t.cur.rejoin, r.token = e.token ∧ r.closed = true ∧ r.merged = some q
         else
           t.cur.allSplits.Perm (q :: g.allSplits) ∧
             ∀ r ∈ t.cur.rejoin, r.token = e.token → r.closed = true ∧ r.merged = none ∧ r.arrived = e.arrived)))

/-- O18: `yield` makes the split wait one cycle, `yield.sleep.until` until device time A; a time already passed waits one cycle
(R351). At its time a sleeping split is ready. -/
def Obligations.Yields : Prop :=
  (∀ (s : State) (x : Ord) (fn : YieldFn),
    let srcs := match fn with | .yield => [] | .sleepUntil => [x.a]
    let n := max 1 (count (s.cur.exec x.pred))
    s.issues srcs (count (s.cur.exec x.pred)) = true → s.uniformIn x.pred srcs = true → s.cur.spLive = true →
    ∃ t, exec (.yield fn x) s = .next t ∧ s.Moved t n ∧ t.cur.v = s.cur.v ∧ t.cur.rejoin = s.cur.rejoin ∧
      s.cur.Beside t.cur [] ∧ t.cur.sp.mask = s.cur.sp.mask ∧
      t.cur.sp.pc = s.cur.sp.pc + BitVec.ofNat 48 (lenOf x) ∧ t.cur.sp.token = s.cur.sp.token ∧
      t.cur.sp.depth = s.cur.sp.depth ∧ t.cur.sp.fmt = s.cur.sp.fmt ∧
      let a := s.cur.opd x.a (lowest (s.cur.exec x.pred))
      t.cur.sp.wait =
        if s.cur.exec x.pred = 0 then .none
        else if fn = .yield ∨ a.toNat ≤ s.clock.time.toNat then .until_ (s.clock.cycle + n + 1)
        else .sleep a (lenOf x)) ∧
  (∀ (s : State) (i : Gid) (g : Group) (slot : Bool) (p : Split) (until_ : Word) (len : Nat), s.group? i = some g →
    g.inSlot slot = some p → p.wait = .sleep until_ len →
    ∃ t h, exec (.sleepWake i slot) s = .next t ∧ t = { s with cur := t.cur, rest := t.rest, saved := t.saved } ∧
      t.group? i = some h ∧ g.OnlySplits h ∧
      h.inSlot slot = some (if until_.toNat ≤ s.clock.time.toNat
        then { p with wait := .none, age := s.clock.cycle } else p) ∧
      h.inSlot (!slot) = g.inSlot (!slot))

/-! ### Loads and stores (spec/18) -/

/-- O19: `ld` (R357, R354): the address of thread t is A + B; once every thread passes its checks, the operation is outstanding
on L, and it brings each thread the bytes that its core sees there, extended by ET; a remote page that the core does not hold is
read by a flit, and the split is held until it answers. Every byte reads as before. `ld` with faulting threads (R356, R191,
R192): the other threads' loads are performed, no byte changes, and the split is held at the operation, which keeps each faulter
with its cause and address. The partial point of a load or store (R356, R191): when all of it that does not fault has completed,
its writes land, its counter falls, and the memory-class trap hands the faulters to the handler, each with its cause and address
in FADDR; the cause is that of the lowest. Threads beyond the budget alone are a thread-class trap of the lowest of them (R153).
`pref` (R360) changes no register, no counter and no byte, and takes no trap, whatever its addresses are. -/
def Obligations.LoadsAndPrefetch : Prop :=
  (∀ (s : State) (x : Ord) (l : List Plan) (u : State),
     let n := x.et.width / 8
     s.issues (x.d :: srcAB x) (s.cost x (srcAB x)) = true → (x.d.isG = true → s.uniformIn x.pred (srcAB x) = true) →
     s.cur.exec x.pred ≠ 0 → s.cur.cntL < 62 → s.plans x n false true (s.accessors x x.d.isG) = (l, [], u) →
     let away := fun q : Plan => 4 ≤ q.map.space ∧ s.inCore s.cur.id.die s.cur.id.core q.map q.va.toNat n = false
     let near := (∀ q ∈ l, q.map.space < 4) ∨ ∀ q ∈ l, 4 ≤ q.map.space ∧ ¬away q
     let brings := fun (q : Plan) (op : Op) => ⟨q.thread, x.d.code, extendBytes n x.et.isSigned
       (s.coreBytes s.cur.id.die s.cur.id.core q.map q.va.toNat n)⟩ ∈ op.writes
     ∃ t op, exec (.ld x) s = .next t ∧ s.OnlyMemory t ∧ s.BytesBut t (fun _ => False) ∧
       t.teams = s.teams ∧ t.poison = s.poison ∧
       (near → s.Outstanding t x (s.cost x (srcAB x)) 0 op false ∧ op.tags = [] ∧
         op.writes.map (fun w => w.thread) = l.map (fun q => q.thread)) ∧
       ((∃ q ∈ l, away q) → s.Outstanding t x (s.cost x (srcAB x)) 0 op true ∧ op.tags ≠ [] ∧
         (s.noRoute = false → ∃ f ∈ t.fabric.outbox, f.op = 0x00 ∧ f.src = s.fabric.devid)) ∧
       l.map (fun q => q.thread) = s.accessors x x.d.isG ∧
       (∀ q ∈ l, q.va = s.cur.opd x.a q.thread + s.cur.boff x.b q.thread) ∧
       (∀ q ∈ l, q.map.space < 4 → s.settled q.map q.va.toNat n → brings q op) ∧
       (near → ∀ q ∈ l, 4 ≤ q.map.space → brings q op)) ∧
  (∀ (s : State) (x : Ord) (r : Fin 96) (l : List Plan) (f : Faulter) (fs : List Faulter) (u : State),
     let n := x.et.width / 8
     let cost := max 1 (count (s.cur.exec x.pred))
     x.d = .v r → s.cur.sp.charged = false → s.cur.allNamed (x.d :: srcAB x) = true →
     s.funds (count (s.cur.exec x.pred)) = true → s.cur.cntL < 62 →
     s.plans x n false true (threads (s.cur.exec x.pred)) = (l, f :: fs, u) →
     (∀ q ∈ l, q.map.space < 4) →
     ∃ t op, exec (.ld x) s = .next t ∧ s.OnlyMemory t ∧ s.BytesBut t (fun _ => False) ∧ t.teams = s.teams ∧
       s.Outstanding t x cost 0 op true (f :: fs) ∧ op.kind = .load ∧ op.tags = [] ∧
       s.clock.cycle + cost ≤ op.due ∧ op.writes.map (fun w => w.thread) = l.map (fun q => q.thread) ∧
       (∀ q ∈ l, s.settled q.map q.va.toNat n → ⟨q.thread, x.d.code, extendBytes n x.et.isSigned
         (s.coreBytes s.cur.id.die s.cur.id.core q.map q.va.toNat n)⟩ ∈ op.writes) ∧
       (∀ j, j ∈ threads (s.cur.exec x.pred) → s.cur.isDenied j = false →
         (addrOf x s j).toNat % n ≠ 0 → ⟨j, 0x04, addrOf x s j⟩ ∈ f :: fs) ∧
       (∀ j, j ∈ threads (s.cur.exec x.pred) → s.cur.isDenied j = false →
         (addrOf x s j).toNat % n = 0 → 2 ^ 52 ≤ (addrOf x s j).toNat → ⟨j, 0x07, addrOf x s j⟩ ∈ f :: fs)) ∧
  (∀ (s : State) (id : Nat) (op : Op) (f : Faulter) (fs : List Faulter) (i : Instr),
     (op.kind = .load ∧ i = .loadDataLand id) ∨ (op.kind = .store ∧ i = .storePerformed id) →
     Tab.get? id s.eng.ops = some op → op.faults = f :: fs → op.hand = false → op.tags = [] → op.due ≤ s.clock.cycle →
     s.requestsLeft id = false → op.counter < 4 → (∀ w ∈ op.writes, w.reg < 96) → (∀ g ∈ fs, f.thread < g.thread) →
     (∀ g ∈ f :: fs, g.thread < 32) →
     op.g = s.cur.id → op.slot = s.cur.slot → s.cur.live = true → s.cur.hand = none → s.cur.hold = .none → s.cur.held = [] →
     s.cur.sp.wait = .op id → (∀ p ∈ s.cur.other.toList ++ s.cur.spill, p.wait ≠ .op id) →
     let issued : State := { s with cur := { s.cur with iw0 := op.iw0 } }
     let watched := (f :: fs).any fun g => g.cause == 0x0E
     ∃ t, exec i s = .next t ∧ Tab.get? id t.eng.ops = none ∧ t.mem = s.mem ∧ t.home = s.home ∧
       (∀ c, c < 4 → t.cur.counter c = s.cur.counter c - if c = op.counter then 1 else 0) ∧
       (∀ m j, j < 32 → t.cur.vget m j =
         match op.writes.reverse.find? (fun w => w.reg == m && w.thread == j) with
         | some w => w.val
         | none => s.cur.vget m j) ∧
       ((∃ g ∈ f :: fs, g.cause ≠ 0x09) →
         issued.Trapped t f.cause (if watched then op.kindByte ||| 0x80 else op.kindByte) 2 f.thread s.cur.sp.pc
           (maskOf ((f :: fs).map fun g => g.thread)) op.omask
           (fun i => (((f :: fs).find? fun g => g.thread == i).map fun g => faddrWord g.cause g.addr).getD 0)) ∧
       ((∀ g ∈ f :: fs, g.cause = 0x09) →
         issued.Trapped t 0x09 0 1 f.thread s.cur.sp.pc (maskOf [f.thread]) op.omask (fun _ => 0))) ∧
  (∀ (s : State) (x : Ord), s.issues (srcAB x) (count (s.cur.exec x.pred)) = true →
     ∃ t, exec (.pref x) s = .next t ∧ s.OnlyMemory t ∧ s.BytesBut t (fun _ => False) ∧
       t.teams = s.teams ∧ t.eng = s.eng ∧ t.cur.hand = s.cur.hand ∧ (∀ c, t.cur.counter c = s.cur.counter c) ∧
       t.cur.sp = s.cur.sp.after s.cur.sp.fmt (lenOf x) (s.clock.cycle + max 1 (count (s.cur.exec x.pred))))

/-- O20: `st` (R358, R354): once every thread passes its checks, the low w bits of C lie at A + B as the issuing core reads it;
where threads meet in a byte the highest has written it; every other byte reads as before. -/
def Obligations.Stores : Prop :=
  ∀ (s : State) (x : Ord) (l : List Plan) (u : State),
    let n := x.et.width / 8
    let cost := max 1 (count (s.cur.exec x.pred))
    s.issues (srcABC x) cost = true → s.cur.exec x.pred ≠ 0 → s.cur.cntS < 62 → s.memWf = true →
    s.plans x n true false (threads (s.cur.exec x.pred)) = (l, [], u) → (∀ q ∈ l, q.map.space < 4) →
    ∃ t op, exec (.st x) s = .next t ∧ s.OnlyMemory t ∧ s.BytesBut t (touches n l) ∧
      s.Outstanding t x cost 1 op false ∧ op.kind = .store ∧ op.tags = [] ∧ op.writes = [] ∧ t.teams = s.teams ∧
      l.map (fun q => q.thread) = threads (s.cur.exec x.pred) ∧
      (∀ q ∈ l, q.va = s.cur.opd x.a q.thread + s.cur.boff x.b q.thread) ∧
      ∀ q ∈ l, ∀ i, i < n → s.plainByte q.map (q.va.toNat + i) → lastWriter n l q i →
        t.coreByte s.cur.id.die s.cur.id.core q.map (q.va.toNat + i) =
          BitVec.ofNat 8 ((s.cur.opd x.c q.thread).toNat / 2 ^ (8 * i))

/-- O21: `ldls` and `stls` (R359, R219): the operand A + B is an offset of the team's allocation; a load brings the bytes that
stand there, a store writes the low w bits of C with the highest thread last, and every other byte of local store, and all
memory, is as before. A handler's store into its trap frame leaves the read-only bits of the frame as they are (R194). An access
to a block that is not filled waits for it (R222). -/
def Obligations.LocalStoreAccesses : Prop :=
  ∀ (s : State) (x : Ord) (a : Team), s.team? s.cur = some a → s.cur.exec x.pred ≠ 0 →
    let n := x.et.width / 8
    let at_ := fun j => (s.cur.opd x.a j + s.cur.boff x.b j).toNat
    let fine := fun ts : List Nat => ∀ j, j ∈ ts → at_ j % n = 0 ∧ a.allows s.cur (at_ j) n = true ∧ s.cur.isDenied j = false
    (s.issues (x.d :: srcAB x) (s.cost x (srcAB x)) = true → (x.d.isG = true → s.uniformIn x.pred (srcAB x) = true) →
      s.cur.cntL < 62 → fine (s.accessors x x.d.isG) → s.cur.fillFaults = [] →
      ((∀ j, j ∈ s.accessors x x.d.isG → a.unfilled (at_ j) = false) →
        ∃ t op, exec (.ldls x) s = .next t ∧ s.OnlyMemory t ∧ s.BytesBut t (fun _ => False) ∧ t.teams = s.teams ∧
          t.mem = s.mem ∧ s.Outstanding t x (s.cost x (srcAB x)) 0 op false ∧ op.tags = [] ∧
          op.due = s.clock.cycle + s.cost x (srcAB x) + 20 ∧
          op.writes = (s.accessors x x.d.isG).map fun j =>
            ⟨j, x.d.code, extendBytes n x.et.isSigned (a.ls.bytes (at_ j) n)⟩) ∧
      (∀ j, j ∈ s.accessors x x.d.isG → a.unfilled (at_ j) = true →
        (∀ k, k ∈ s.accessors x x.d.isG → k < j → a.unfilled (at_ k) = false) →
        ∃ t, exec (.ldls x) s = .next t ∧
          t = { s with cur := { s.cur with sp := { s.cur.sp with wait := .fill (at_ j / 256 * 256) } } })) ∧
    (s.issues (srcABC x) (max 1 (count (s.cur.exec x.pred))) = true → s.cur.cntS < 62 →
      fine (threads (s.cur.exec x.pred)) → s.cur.fillFaults = [] → a.ls.wf = true →
      (∀ j, j ∈ threads (s.cur.exec x.pred) → a.unfilled (at_ j) = false) →
      ∃ t op b, exec (.stls x) s = .next t ∧ s.OnlyMemory t ∧ s.BytesBut t (fun _ => False) ∧ t.mem = s.mem ∧
        s.Outstanding t x (max 1 (count (s.cur.exec x.pred))) 1 op false ∧ op.kind = .store ∧ op.writes = [] ∧
        t.team? t.cur = some b ∧
        (∀ y, (∀ j, j ∈ threads (s.cur.exec x.pred) → ¬(at_ j ≤ y ∧ y < at_ j + n)) → b.ls.byte y = a.ls.byte y) ∧
        ∀ j i, j ∈ threads (s.cur.exec x.pred) → i < n →
          (∀ k, k ∈ threads (s.cur.exec x.pred) → j < k → ¬(at_ k ≤ at_ j + i ∧ at_ j + i < at_ k + n)) →
          b.ls.byte (at_ j + i) =
            s.cur.frameByte a.ls (at_ j + i) (BitVec.ofNat 8 ((s.cur.opd x.c j).toNat / 2 ^ (8 * i))))

/-- O22: full/empty atoms (R361, R57-R60): each thread's `ldfe` goes to the controller of its atom, with the split held; `stfe`
writes its bytes, and its atoms are to be full, `clrfe` leaves every byte, and they are to be empty. The controllers apply what
arrives in one logic-die cycle in the order of die, core and lane: of two changes of one atom the later stands, and a check that
finds it full, or is released by a fill, reads its bytes there, while one that finds it empty waits. A request that has waited 1
ms faults with 0x13. -/
def Obligations.FullEmptyAtoms : Prop :=
  (∀ (s : State) (x : Ord) (l : List Plan) (u : State), s.cur.exec x.pred ≠ 0 →
    let n := x.et.width / 8
    let cost := max 1 (count (s.cur.exec x.pred))
    let atom := fun q : Plan => q.map.phys q.va.toNat
    let sent := fun (t : State) (fills : Bool) => ∃ rs, t.eng.fe = s.eng.fe ++ rs ∧
      rs.map (fun r => (r.atoms, r.fills, r.die, r.core, r.lane)) =
        l.map fun q => ([atomOf (atom q)], fills, s.cur.id.die, s.cur.id.core, s.cur.id.lane)
    (s.issues (x.d :: srcAB x) (s.cost x (srcAB x)) = true → (x.d.isG = true → s.uniformIn x.pred (srcAB x) = true) →
      s.cur.cntL < 62 → s.windowPlans x n false (s.accessors x x.d.isG) = (l, [], u) →
      ∃ t op waits, exec (.ldfe x) s = .next t ∧ s.OnlyMemory t ∧ s.BytesBut t (fun _ => False) ∧ t.mem = s.mem ∧
        t.home = s.home ∧ t.teams = s.teams ∧ t.eng.fe = s.eng.fe ∧
        s.Outstanding t x (s.cost x (srcAB x)) 0 op true ∧ op.kind = .ldfe waits ∧ op.writes = [] ∧
        waits.map (fun w => (w.thread, w.addr, w.va, w.size, w.reg, w.seen)) =
          l.map fun q => (q.thread, atom q, q.va, n, x.d.code, false)) ∧
    (s.issues (srcABC x) cost = true → s.cur.cntS < 62 → s.memWf = true →
      s.windowPlans x n true (threads (s.cur.exec x.pred)) = (l, [], u) →
      ∃ t op, exec (.stfe x) s = .next t ∧ s.OnlyMemory t ∧ s.BytesBut t (touches n l) ∧ t.teams = s.teams ∧
        s.Outstanding t x cost 1 op false ∧ op.kind = .store ∧ sent t true ∧
        ∀ q ∈ l, ∀ i, i < n → s.plainByte q.map (q.va.toNat + i) → lastWriter n l q i →
          t.coreByte s.cur.id.die s.cur.id.core q.map (q.va.toNat + i) =
            BitVec.ofNat 8 ((s.cur.opd x.c q.thread).toNat / 2 ^ (8 * i))) ∧
    (s.issues (srcAB x) cost = true → s.cur.cntS < 62 →
      s.windowPlans x 1 true (threads (s.cur.exec x.pred)) = (l, [], u) →
      ∃ t op, exec (.clrfe x) s = .next t ∧ s.OnlyMemory t ∧ s.BytesBut t (fun _ => False) ∧ t.mem = s.mem ∧
        t.home = s.home ∧ t.teams = s.teams ∧ s.Outstanding t x cost 1 op false ∧ sent t false)) ∧
  (∀ (s : State) (r : FeReq) (a : Nat), r.atoms = [a] → s.inWindow (32 * a) = true →
    let place := fun (die core lane : Nat) => (die * 65 + core) * 64 + lane
    (∀ q : FeReq, q.atoms = [a] → s.eng.fe.Perm [r, q] → (∀ e ∈ s.eng.ops, e.2.unseen = false) →
      place r.die r.core r.lane < place q.die q.core q.lane →
      s.applyFe.isFull (32 * a) = q.fills ∧ s.applyFe.eng.fe = []) ∧
    (∀ (id : Nat) (o : Op) (w : FeWait), s.eng.fe = [r] → s.eng.ops = [(id, o)] → o.kind = .ldfe [w] → w.seen = false →
      atomOf w.addr = a → s.poisoned w.map w.va.toNat w.size = false →
      let g := place o.g.die o.g.core o.g.lane
      let reads := ∃ p, Tab.get? id s.applyFe.eng.ops = some p ∧ p.kind = .ldfe [] ∧
        p.writes = o.writes ++ [⟨w.thread, w.reg, extendBytes w.size w.sgn (s.mapBytes w.map w.va.toNat w.size)⟩]
      (r.fills = true → reads) ∧
      (r.fills = false → s.isFull w.addr = true → g < place r.die r.core r.lane → reads) ∧
      (r.fills = false → place r.die r.core r.lane < g →
        ∃ p, Tab.get? id s.applyFe.eng.ops = some p ∧ p.kind = .ldfe [{ w with seen := true }] ∧ p.writes = o.writes))) ∧
  (∀ (s : State) (id : Nat) (op : Op) (w : FeWait) (ws : List FeWait), Tab.get? id s.eng.ops = some op →
    op.kind = .ldfe (w :: ws) → op.faults = [] → op.counter = 0 → op.hand = false → op.g = s.cur.id → s.cur.live = true →
    s.cur.hand = none → s.cur.hold = .none → s.cur.held = [] → s.cur.slot = op.slot → s.cur.spLive = true →
    ((∀ v ∈ w :: ws, v.seen = true ∧ v.arrived + 2700000 < s.clock.cycle) →
      ∃ t, exec (.ldfeTimeout id) s = .next t ∧ t.cur.hand.isSome = true ∧
        t.cur.tcause = 0x13 ∧ t.cur.sp.mask = maskOf ((w :: ws).map fun v => v.thread) ∧ t.cur.cntL = s.cur.cntL - 1 ∧
        Tab.get? id t.eng.ops = none ∧ t.mem = s.mem ∧ t.home = s.home) ∧
    ((∀ v ∈ w :: ws, v.seen = false ∨ s.clock.cycle ≤ v.arrived + 2700000) → exec (.ldfeTimeout id) s = .next s))

/-- O23: the end of an operation (R173, R355): when its data is due and nothing of it is outstanding, its register writes land
and its counter falls by one; a store that is performed only lowers its counter; before that nothing happens. -/
def Obligations.OperationsEnd : Prop :=
  ∀ (s : State) (id : Nat) (op : Op) (g : Group), Tab.get? id s.eng.ops = some op → s.group? op.g = some g →
    op.faults = [] → op.counter < 4 → g.hold ≠ .exited → g.hand = none → g.dbg.getLsbD 8 = false →
    s.requestsLeft id = false →
    let ready := op.due ≤ s.clock.cycle ∧ op.tags = []
    let ends := fun (t : State) (h : Group) => Tab.get? id t.eng.ops = none ∧ t.group? op.g = some h ∧
      (∀ c, c < 4 → h.counter c = g.counter c - if c = op.counter then 1 else 0) ∧ h.k = g.k ∧ h.q = g.q ∧
      h.tiles = g.tiles ∧ t.mem = s.mem ∧ t.home = s.home ∧ t.teams = s.teams
    (op.kind = .load → ready → ∃ t h, exec (.loadDataLand id) s = .next t ∧ ends t h ∧
      (∀ m j, m < 96 → j < 32 → h.vget m j =
        match op.writes.reverse.find? (fun w => w.reg == m && w.thread == j) with
        | some w => w.val
        | none => g.vget m j) ∧
      ∀ m, h.gget m =
        match op.writes.reverse.find? (fun w => w.reg == m + 96) with
        | some w => if m = 31 then 0 else w.val
        | none => g.gget m) ∧
    (op.kind = .store → ready → op.writes = [] →
      ∃ t h, exec (.storePerformed id) s = .next t ∧ ends t h ∧ h.v = g.v ∧ h.g = g.g) ∧
    ((s.clock.cycle < op.due ∨ op.tags ≠ []) →
      exec (.loadDataLand id) s = .next s ∧ exec (.storePerformed id) s = .next s)

/-- O24: mapped ranges (R362, R363, R221, R223): `lsmap` binds [A, A + C) of local store to the range at B, or is refused by
name; `lsunmap`, `lswb` and `lsinv` act on the binding that starts at A, and have no effect without one. The fill of a block of
a mapped range (R222): each of its atoms that is not filled gets the bytes that the core sees in the global range, and the
accesses that wait for the block are ready; an atom that is poisoned stays unfilled, with 0x0D kept for its accesses (R52), and
where the page is refused every atom does, with the cause. Of a page of another module the pieces that the core does not hold
are asked for, and the accesses go on waiting. -/
def Obligations.MappedRanges : Prop :=
  (∀ (s : State) (x : Ord) (t0 : Team), s.team? s.cur = some t0 → s.cur.exec x.pred ≠ 0 →
     let a := s.cur.opd x.a (lowest (s.cur.exec x.pred))
     let b := s.cur.bopd .zero x.et x.b (lowest (s.cur.exec x.pred))
     let c := s.cur.opd x.c (lowest (s.cur.exec x.pred))
     let n := fun l => if anyV l then max 1 (count (s.cur.exec x.pred)) else 1
     let moved := fun (t : State) k => s.cur.OnlyIssue t.cur ∧
       t.cur.sp = s.cur.sp.after s.cur.sp.fmt (lenOf x) (s.clock.cycle + k)
     let ready := fun l => s.issues l (n l) = true ∧ s.uniformIn x.pred l = true
     (ready (srcABC x) → a.toNat % 256 = 0 → b.toNat % 256 = 0 → c.toNat % 256 = 0 → c ≠ 0 → b.toNat < 2 ^ 52 →
       a.toNat + c.toNat ≤ t0.size → a.toNat % t0.area + c.toNat ≤ s.cur.lsize →
       (∀ m ∈ t0.maps, ¬(a.toNat < m.loc + m.len ∧ m.loc < a.toNat + c.toNat)) → t0.maps.length < 16 →
       ∃ t u m, exec (.lsmap x) s = .next t ∧ moved t (n (srcABC x)) ∧ t.mem = s.mem ∧ t.home = s.home ∧
         t.team? t.cur = some u ∧ u = { t0 with maps := t0.maps ++ [m] } ∧ m.loc = a.toNat ∧ m.glob = b ∧
         m.len = c.toNat ∧ m.noFill = x.imm.getLsbD 0 ∧ m.filled = [] ∧ m.dirty = []) ∧
     (s.trappable = true → s.cur.allNamed (srcABC x) = true → s.uniformIn x.pred (srcABC x) = true →
       s.funds (n (srcABC x)) = true →
       (a.toNat % 256 ≠ 0 ∨ b.toNat % 256 ≠ 0 ∨ c.toNat % 256 ≠ 0 ∨ c = 0 → Refuses (.lsmap x) s x.pred 0x04)) ∧
     (ready [x.a] → (∀ m ∈ t0.maps, m.loc ≠ a.toNat) → ∀ i ∈ [Instr.lsunmap x, .lswb x, .lsinv x],
       ∃ t, exec i s = .next t ∧ moved t (n [x.a]) ∧ t.mem = s.mem ∧ t.home = s.home ∧ t.teams = s.teams ∧
         t.eng = s.eng ∧ ∀ k, t.cur.counter k = s.cur.counter k) ∧
     (ready [x.a] → ∀ m, t0.maps.find? (fun m => m.loc == a.toNat) = some m →
       let r := s.backFirst [m]
       (r.1 = none → r.2.backOut s.cur.id = false → ∃ t u, exec (.lsunmap x) s = .next t ∧ moved t (n [x.a]) ∧
         t.team? t.cur = some u ∧ u.ls = t0.ls ∧ ∀ k ∈ u.maps, k.loc ≠ a.toNat) ∧
       (r.1 = none → r.2.backOut s.cur.id = false → s.cur.cntC < 62 → ∃ t u, exec (.lswb x) s = .next t ∧ moved t (n [x.a]) ∧
         t.cur.cntC = s.cur.cntC + 1 ∧ t.team? t.cur = some u ∧ u.ls = t0.ls ∧
         u.maps.map (fun k => (k.loc, k.glob, k.len, k.filled)) = t0.maps.map (fun k => (k.loc, k.glob, k.len, k.filled))) ∧
       (s.cur.cntS < 62 → s.fillOut s.cur.id = false → ∃ t u, exec (.lsinv x) s = .next t ∧ moved t (n [x.a]) ∧ t.mem = s.mem ∧ t.home = s.home ∧
         t.cur.cntS = s.cur.cntS + 1 ∧ t.team? t.cur = some u ∧ u.ls = t0.ls ∧
         ∀ k ∈ u.maps, k.loc = a.toNat → k.filled = [] ∧ k.dirty = []))) ∧
  (∀ (s u : State) (block : Nat) (a : Team) (m : MapBind), s.cur.live = true → s.team? s.cur = some a →
     let at_ := block / 256 * 256
     let va := m.globalOf at_
     let i := s.cur.id
     let todo := fun b => b ∈ blockAtoms at_ ∧ a.unfilled b = true
     a.bindAt at_ = some m → a.ls.wf = true → s.cur.fillFaults = [] → (∃ b, todo b) →
     (∀ mp, s.translate (s.cur.acc false) (BitVec.ofNat 64 va) 256 1 = (.ok mp, u) → mp.space < 4 →
       ∃ t b, exec (.mapFill i block) s = .next t ∧ t.team? t.cur = some b ∧ s.BytesBut t (fun _ => False) ∧
         (∀ x, todo x → u.poisoned mp (m.globalOf x) 32 = false → b.unfilled x = false ∧ (s.settled mp (m.globalOf x) 32 →
           ∀ k, k < 32 → b.ls.byte (x + k) = u.coreByte i.die i.core mp (m.globalOf x + k))) ∧
         (∀ x, todo x → u.poisoned mp (m.globalOf x) 32 = true → b.unfilled x = true ∧
           ⟨x, 0x0D, BitVec.ofNat 64 (m.globalOf x)⟩ ∈ t.cur.fillFaults) ∧
         (∀ y, (∀ x, todo x → u.poisoned mp (m.globalOf x) 32 = false → ¬(x ≤ y ∧ y < x + 32)) → b.ls.byte y = a.ls.byte y) ∧
         (s.cur.sp.wait = .fill at_ → t.cur.sp.wait = .none)) ∧
     (∀ c, s.translate (s.cur.acc false) (BitVec.ofNat 64 va) 256 1 = (.error c, u) →
       ∃ t, exec (.mapFill i block) s = .next t ∧ t.teams = s.teams ∧ t.mem = s.mem ∧
         (∀ x, todo x → ⟨x, c, BitVec.ofNat 64 (m.globalOf x)⟩ ∈ t.cur.fillFaults) ∧
         (s.cur.sp.wait = .fill at_ → t.cur.sp.wait = .none)) ∧
     (∀ mp, s.translate (s.cur.acc false) (BitVec.ofNat 64 va) 256 1 = (.ok mp, u) → 4 ≤ mp.space →
       u.inCore i.die i.core mp va 256 = false → s.noRoute = false →
       ∃ t, exec (.mapFill i block) s = .next t ∧ t.teams = s.teams ∧ t.mem = s.mem ∧ t.cur.sp.wait = s.cur.sp.wait ∧
         ∀ k ∈ [0, 64, 128, 192], u.inCore i.die i.core mp (va + k) 64 = false → ∃ f ∈ t.fabric.outbox,
           f.op = opReadRequest ∧ f.dst = BitVec.ofNat 22 mp.dev ∧ f.paddr = BitVec.ofNat 48 (mp.phys (va + k))))

/-! ### Synchronisation (spec/18) -/

/-- O25: `fence` of a scope and of a path (R365, R240, R241): it waits, charged once, while the group's earlier accesses are not
complete; then a scope of die or wider leaves no byte of local memory in the core's cache, each dirty one at its home; a path to
`core` leaves no line there that overlaps what the engines of the path have written, and no clean byte, and a path from `core`
writes back what it releases. `fence.view` (R365, R242) on [A, A + B): no line of it stays in the die buffer or in the core's
cache in any view, and DRAM holds what they held; a length of 0 is refused with 0x04; a page that fails traps in the memory
class. -/
def Obligations.Fences : Prop :=
  (∀ (s : State) (x : Ord), s.runsU x [] = true → ((s.core s.cur.id.die s.cur.id.core).cache.map fun e => e.1).Nodup →
     let cache := fun (t : State) => (t.core s.cur.id.die s.cur.id.core).cache
     let written := fun (t : State) => ∀ sp p b, sp < 3 → p < 2 ^ 48 → Tab.get? (byteKey sp p) (cache s) = some ⟨b, true⟩ →
       s.oneView s.cur.id.die s.cur.id.core sp p → t.homeByte sp p = b
     let scope := x.moda.toNat
     let busy := if scope < 2 then s.opsOn (fun o => o.path == 0)
       else s.opsOn (fun _ => true) ∨ s.hasCmd s.cur.id (fun _ => true) = true ∨ s.hasDraw s.cur.id = true ∨
         (scope = 4 ∧ s.unacknowledged s.cur.id = true)
     let px := x.imm.toNat % 16
     let py := x.imm.toNat / 16
     let wrote := fun p => py = 0 ∧ ∃ e ∈ s.cur.wrote, e.1 = px ∧ e.2.1 ≤ p ∧ p < e.2.1 + e.2.2
     let kept := fun (t : State) => t.mem = s.mem ∧ t.home = s.home ∧ ∀ d k, (t.core d k).cache = (s.core d k).cache
     (¬busy → ∃ t, exec (.fenceScope x) s = .next t ∧ s.WentOn t x 1 ∧ s.BytesBut t (fun _ => False) ∧ t.teams = s.teams ∧
       (scope < 2 → kept t) ∧
       (2 ≤ scope → written t ∧ ∀ k, k < 3 * 2 ^ 48 → Tab.get? k (cache t) = none)) ∧
     (busy → ∃ t, exec (.fenceScope x) s = .next t ∧
       s.Waits t (.fence (if scope < 2 then 0 else if scope = 4 then 2 else 1)) ∧ kept t) ∧
     (s.pathOpen s.cur.id px = true → ∃ t, exec (.fencePath x) s = .next t ∧ s.WentOn t x 1 ∧ s.BytesBut t wrote ∧
       t.teams = s.teams ∧ (px = 0 → written t) ∧ (py = 0 → ∀ e ∈ cache t, e.2.dirty = true) ∧
       (∀ sp p, sp < 3 → p < 2 ^ 48 → wrote p → Tab.get? (byteKey sp p) (cache t) = none) ∧
       (px ≠ 0 → py ≠ 0 → kept t)) ∧
     (s.pathOpen s.cur.id px = false → ∃ t, exec (.fencePath x) s = .next t ∧ s.Waits t (.path px) ∧ kept t)) ∧
  (∀ (s : State) (x : Ord), s.runsU x (srcAB x) = true → s.memWf = true →
     let a := (s.a0 x).toNat
     let n := (s.b0 x).toNat
     let r := s.range (s.cur.acc false) (n / 4096 + 2) a n
     (n = 0 → s.cur.hand = none → Refuses (.fenceView x) s x.pred 0x04) ∧
     (n ≠ 0 → ∀ l u, r = (.ok l, u) → ∃ t, exec (.fenceView x) s = .next t ∧
       s.WentOn t x (s.ucost x (srcAB x)) ∧ t.teams = s.teams ∧
       (∀ k, piecesCover l (k % 2 ^ 48) = true → Tab.get? k t.home = none) ∧
       (∀ k, k < 3 * 2 ^ 48 → piecesCover l (k % 2 ^ 48) = true →
         Tab.get? k (t.core s.cur.id.die s.cur.id.core).cache = none) ∧
       s.BytesBut t (fun _ => False) ∧
       ∀ sp p, sp < 3 → p < 2 ^ 48 → piecesCover l p = true → s.oneView s.cur.id.die s.cur.id.core sp p →
         t.mem.byte p = s.ownByte s.cur.id.die s.cur.id.core sp p) ∧
     (n ≠ 0 → s.cur.hand = none → ∀ c va u, r = (.error (c, va), u) → ∃ t, exec (.fenceView x) s = .next t ∧
       t.cur.tcause = c ∧ t.cur.hand.isSome = true ∧ t.cur.sp.mask = maskOf [lowest (s.cur.exec x.pred)] ∧ t.mem = s.mem))

/-- O26: `bind` and `bind.unbind` (R366, R234): after a bind the launch's table binds the bytes of [B, B + C) to the word at A
beside what it bound before; after an unbind it binds no byte of [A, A + B); bytes bound to another word, a full table and bad
operands refuse them. -/
def Obligations.Bindings : Prop :=
  ∀ (s : State) (x : Ord) (l0 : Launch), s.launch? s.cur.launch = some l0 →
    (l0.binds.map fun b => b.start).Pairwise (· ≤ ·) →
    let kept := fun (t : State) => t.mem = s.mem ∧ t.home = s.home ∧ t.teams = s.teams ∧ t.eng = s.eng
    (s.runsU x (srcABC x) = true → (s.a0 x).toNat % 8 = 0 → (s.b0 x).toNat % 256 = 0 → (s.c0 x).toNat % 256 = 0 →
      s.c0 x ≠ 0 → ∀ m u l w, s.translate (s.cur.acc false) (s.a0 x) 8 8 = (.ok m, u) → m.plain = true →
      u.range (s.cur.acc false) ((s.c0 x).toNat / 4096 + 2) (s.b0 x).toNat (s.c0 x).toNat = (.ok l, w) →
      let word := m.wordKey (s.a0 x).toNat
      let runs := (l.map pieceRuns).flatten
      (∀ p, inRuns runs p = true → ∀ b ∈ l0.binds, b.word ≠ word → ¬(b.start ≤ p ∧ p < b.start + b.len)) →
      (∀ e ∈ runs, 0 < e.2) → (∀ b ∈ l0.binds, 0 < b.len) →
      (addRuns l0.binds word runs).length ≤ 64 →
      ∃ t l1, exec (.bind x) s = .next t ∧ s.WentOn t x (s.ucost x (srcABC x)) ∧ kept t ∧
        t.launch? s.cur.launch = some l1 ∧ l1 = { l0 with binds := l1.binds, vbinds := l1.vbinds } ∧
        ∀ v p, boundTo l1.binds v p = (boundTo l0.binds v p || (v == word && inRuns runs p))) ∧
    (s.runsU x (srcAB x) = true → (s.a0 x).toNat % 256 = 0 → (s.b0 x).toNat % 256 = 0 → s.b0 x ≠ 0 →
      ∀ l u, s.range (s.cur.acc false) ((s.b0 x).toNat / 4096 + 2) (s.a0 x).toNat (s.b0 x).toNat = (.ok l, u) →
      let runs := (l.map pieceRuns).flatten
      (runs.foldl (fun bs e => cutRun e.1 e.2 bs) l0.binds).length ≤ 64 →
      ∃ t l1, exec (.unbind x) s = .next t ∧ s.WentOn t x (s.ucost x (srcAB x)) ∧ kept t ∧
        t.launch? s.cur.launch = some l1 ∧ l1 = { l0 with binds := l1.binds, vbinds := l1.vbinds } ∧
        ∀ v p, boundTo l1.binds v p = (boundTo l0.binds v p && !inRuns runs p)) ∧
    (s.cur.hand = none → s.runsU x (srcABC x) = true →
      ((s.a0 x).toNat % 8 ≠ 0 ∨ (s.b0 x).toNat % 256 ≠ 0 ∨ (s.c0 x).toNat % 256 ≠ 0 ∨ s.c0 x = 0) →
      Refuses (.bind x) s x.pred 0x04)

/-- O27: `acq` (R367, R236): where the word satisfies it the split goes on, and a take has subtracted B in the same operation;
else the request waits at the word's home, and the word is as before. At die scope or wider no line of a region bound to the
word stays in the core's cache or in the die buffer. Here on a word of this module, with no other request waiting. `rel` (R368,
R235): with the group's earlier stores performed, the word becomes B, or S + B modulo 2^64, and the split goes on; before that
it waits, and the word is as before. -/
def Obligations.AcquiresAndReleases : Prop :=
  (∀ (s : State) (x : Ord) (fn : AcqFn) (m : Map) (u : State), s.runsU x (srcAB x) = true → s.eng.waiters = [] →
     s.translate (s.cur.acc (fn == .take)) (s.a0 x) 8 8 = (.ok m, u) → m.space = 0 → m.geo = none →
     let word := m.phys (s.a0 x).toNat
     let v := s.homeNat word 8
     let b := (s.b0 x).toNat
     let holds := match fn with | .eq => v = b | .ge => b ≤ v | .take => b ≤ v
     (holds → ∃ t, exec (.acq fn x) s = .next t ∧ s.WentOn t x (s.ucost x (srcAB x)) ∧ t.teams = s.teams ∧
       t.eng.waiters = [] ∧ s.BytesBut t (fun p => fn = .take ∧ word ≤ p ∧ p < word + 8) ∧
       ((∀ i, i < 8 → s.plainByte m ((s.a0 x).toNat + i)) → t.homeNat word 8 = if fn = .take then v - b else v) ∧
       (2 ≤ x.moda.toNat → ∀ k, k < 3 * 2 ^ 48 → boundTo s.binds word (k % 2 ^ 48) = true →
         Tab.get? k t.home = none ∧ Tab.get? k (t.core s.cur.id.die s.cur.id.core).cache = none)) ∧
     (¬holds → ∃ t w, exec (.acq fn x) s = .next t ∧ s.Waits t .acquire ∧ t.eng.waiters = [w] ∧
       w.word = word ∧ w.value = s.b0 x ∧ w.fn = fn ∧ w.met = false ∧ w.g = s.cur.id ∧ t.mem = s.mem ∧ t.home = s.home)) ∧
  (∀ (s : State) (x : Ord) (fn : RelFn) (m : Map) (u w : State), s.runsU x (srcAB x) = true → s.eng.waiters = [] →
     s.syncOut = false → s.translate (s.cur.acc true) (s.a0 x) 8 8 = (.ok m, u) → m.space = 0 → m.geo = none →
     u.releaseBound (m.phys (s.a0 x).toNat) x.moda.toNat = (none, w) →
     let far := 2 ≤ x.moda.toNat ∨ w.backOut s.cur.id = true
     let busy := s.opsOn (fun o => o.path == 0 && o.kind == .store) ∨ (far ∧ w.unacknowledged s.cur.id = true)
     let w1 := if fn = .give ∧ 2 ≤ x.moda.toNat then w.writeBack s.cur.id.die s.cur.id.core (fun _ _ => true) else w
     let old := leNat (w1.mapBytes m (s.a0 x).toNat 8)
     (¬busy → ∃ t, exec (.rel fn x) s = .next t ∧ s.WentOn t x (s.ucost x (srcAB x)) ∧
       ((∀ i, i < 8 → w1.plainByte m ((s.a0 x).toNat + i)) → leNat (t.mapBytes m (s.a0 x).toNat 8) =
         (if fn = .store then (s.b0 x).toNat else (old + (s.b0 x).toNat) % 2 ^ 64))) ∧
     (busy → ∃ t code, exec (.rel fn x) s = .next t ∧ s.Waits t (.fence code) ∧ (code = 4 ↔ far) ∧ (code = 3 ∨ code = 4) ∧
       leNat (t.mapBytes m (s.a0 x).toNat 8) = old))

/-- O28: atomics on one word (R370-R372): the executing threads, in ascending order, each read the word and write its new value;
D receives what each read, and the counter L is one higher until it lands; every byte outside the word reads as before. Here
with no acquire waiting; the values where no other view of the word is cached. `atomls` (R373): the same on one place of the
team's local store; all memory and every other byte of local store is as before. -/
def Obligations.Atomics : Prop :=
  (∀ (s : State) (x : Ord) (m : Map) (a : Word) (l : List Plan) (u : State),
     let e := s.cur.exec x.pred
     let at_ := fun n sync => planAll (fun s t => s.checkAtomic (s.cur.opd x.a t) n sync) (fun s t => s.cur.opd x.a t)
       (s.accessors x x.d.isG) s
     let relaxed := x.imm.getLsbD 0 = false ∨
       (s.binds = [] ∧ s.vbinds = [] ∧ s.cur.fillFaults = [] ∧ s.fenceOpen s.cur.id 4 = true)
     let ok := fun srcs => s.runs x srcs = true ∧ e ≠ 0 ∧ s.cur.cntL < 62 ∧ s.eng.waiters = []
     let here := ∀ q ∈ l, q.map = m ∧ q.va = a
     let apart := fun n => ∀ i j, i < n → j < n → m.phys (a.toNat + i) = m.phys (a.toNat + j) → i = j
     let done := fun (i : Instr) srcs n (sgn : Bool) (f : Nat → Nat × Nat → Nat) (bs : List (Nat × Nat)) =>
       let old := leNat ((List.range n).map fun i => s.ownByte s.cur.id.die s.cur.id.core m.space (m.phys (a.toNat + i)))
       ∃ t op, exec i s = .next t ∧ s.OnlyMemory t ∧ s.Outstanding t x (s.cost x srcs) 0 op false ∧ op.tags = [] ∧
         t.teams = s.teams ∧ s.BytesBut t (touches n l) ∧
         op.writes.map (fun w => (w.thread, w.reg)) = (s.accessors x x.d.isG).map (fun j => (j, x.d.code)) ∧
         ((∀ i, i < n → s.plainByte m (a.toNat + i)) → apart n → leNat (t.mapBytes m a.toNat n) = (serial f old bs).2 ∧
           op.writes.map (fun w => w.val) = (serial f old bs).1.map (fun v => extendBytes n sgn (leBytes n v)))
     m.space < 3 → here →
     let bc := (s.accessors x x.d.isG).map fun j => ((s.vb x j).toNat % 2 ^ x.et.width, (s.vc x j).toNat % 2 ^ x.et.width)
     (∀ fn, at_ (x.et.width / 8) (x.imm.getLsbD 0) = (l, [], u) → ok (srcAB x) → relaxed →
       done (.atom fn x) (srcAB x) (x.et.width / 8) x.et.isSigned (fun old p => atomNew fn x.et.width old p.1) bc) ∧
     (at_ (x.et.width / 8) (x.imm.getLsbD 0) = (l, [], u) → ok (srcABC x) → relaxed →
       done (.cas x) (srcABC x) (x.et.width / 8) x.et.isSigned (fun old p => if old = p.1 then p.2 else old) bc) ∧
     (∀ fn, at_ 4 false = (l, [], u) → ok (srcAB x) →
       done (.fatom fn x) (srcAB x) 4 false (fun old p => fatomValue fn old p.1)
         ((s.accessors x x.d.isG).map fun j => ((s.cur.bopd .zero x.et x.b j).toNat % 2 ^ 32, 0)))) ∧
  (∀ (s : State) (x : Ord) (fn : AtomFn) (t0 : Team) (a : Word), s.team? s.cur = some t0 → t0.ls.wf = true →
     let n := x.et.width / 8
     s.runs x (srcAB x) = true → s.cur.exec x.pred ≠ 0 → s.cur.cntL < 62 → s.cur.fillFaults = [] →
     (∀ j ∈ s.accessors x x.d.isG, s.cur.opd x.a j = a ∧ s.cur.isDenied j = false) → a.toNat % n = 0 →
     t0.allows s.cur a.toNat n = true → t0.unfilled a.toNat = false →
     let bs := (s.accessors x x.d.isG).map fun j => (s.vb x j).toNat % 2 ^ x.et.width
     let old := leNat (t0.ls.bytes a.toNat n)
     ∃ t op b, exec (.atomls fn x) s = .next t ∧ s.OnlyMemory t ∧ s.Outstanding t x (s.cost x (srcAB x)) 0 op false ∧
       s.BytesBut t (fun _ => False) ∧ t.mem = s.mem ∧ t.team? t.cur = some b ∧
       (∀ y, (y < a.toNat ∨ a.toNat + n ≤ y) → b.ls.byte y = t0.ls.byte y) ∧
       op.writes.map (fun w => (w.thread, w.reg)) = (s.accessors x x.d.isG).map (fun j => (j, x.d.code)) ∧
       ((s.cur.hand = none ∨ a.toNat + n ≤ s.cur.tframe ∨ s.cur.tframe + 64 ≤ a.toNat) →
         leNat (b.ls.bytes a.toNat n) = (serial (atomNew fn x.et.width) old bs).2 ∧
         op.writes.map (fun w => w.val) = (serial (atomNew fn x.et.width) old bs).1.map
           (fun v => extendBytes n x.et.isSigned (leBytes n v))))

/-- O29: `cbar` (R374): an arrive counts the group once in a phase and flips the phase at the target; a wait ends when the phase
is not that of the group's last arrival; reserved bits and a count above the team's are refused with 0x07. `wait` (R375, R186):
it goes on once each counter is at or below its threshold, where 63 ignores a counter; before that it waits, charged once; where
a revoked command's decrement satisfied its C threshold it raises 0x14 whole (R90). -/
def Obligations.BarriersAndWaits : Prop :=
  (∀ (s : State) (x : Ord) (t0 : Team), s.team? s.cur = some t0 → s.runsU x [x.a] = true →
     let a := (s.a0 x).toNat
     let b := a % 8
     let n := a / 256 % 16
     let bar := t0.bar b
     let members := ((s.groups ++ s.saved).filter fun g => t0.has g).length
     let target := if n = 0 then s.running t0 else n
     let seen := Tab.get? b s.cur.arrivals
     let flips := target ≤ bar.count + 1
     let went := fun (t : State) (u : Team) => t.cur.sp = s.cur.sp.after s.cur.sp.fmt (lenOf x) (s.clock.cycle + s.ucost x [x.a]) ∧
       t.team? t.cur = some u ∧ u.ls = t0.ls ∧ t.mem = s.mem ∧ t.home = s.home ∧ t.cur.v = s.cur.v ∧ t.cur.g = s.cur.g
     let waits := fun (t : State) (u : Team) ph => t.cur.sp = { s.cur.sp with wait := .barrier b ph, charged := true } ∧
       t.team? t.cur = some u ∧ u.ls = t0.ls ∧ t.mem = s.mem ∧ t.home = s.home ∧ t.cur.v = s.cur.v ∧ t.cur.g = s.cur.g
     let counted := fun (u : Team) => u.bar b = (if flips then ⟨0, bar.phase + 1, n⟩ else ⟨bar.count + 1, bar.phase, n⟩)
     (s.cur.hand = none → (a ≠ b + n * 256 ∨ members < n) → ∀ fn, Refuses (.cbar fn x) s x.pred 0x07) ∧
     (a = b + n * 256 → n ≤ members →
       (seen ≠ some bar.phase → ∃ t u, exec (.cbar .arrive x) s = .next t ∧ went t u ∧ counted u ∧
         Tab.get? b t.cur.arrivals = some bar.phase) ∧
       (seen = some bar.phase → ∃ t, exec (.cbar .arrive x) s = .next t ∧ went t t0 ∧ t.cur.arrivals = s.cur.arrivals) ∧
       (seen ≠ some bar.phase → s.cur.sp.wait = .none →
         (flips → ∃ t u, exec (.cbar .arriveWait x) s = .next t ∧ went t u ∧ counted u) ∧
         (¬flips → ∃ t u, exec (.cbar .arriveWait x) s = .next t ∧ waits t u bar.phase ∧ counted u)) ∧
       (seen ≠ some bar.phase → ∃ t, exec (.cbar .wait x) s = .next t ∧ went t t0) ∧
       (seen = some bar.phase → ∃ t, exec (.cbar .wait x) s = .next t ∧ waits t t0 bar.phase))) ∧
  (∀ (s : State) (l sc c k : BitVec 6), s.issues [] 1 = true → s.cur.sp.mask ≠ 0 →
     let met := fun (n : Nat) (lim : BitVec 6) => lim.toNat = 63 ∨ n ≤ lim.toNat
     let opened := met s.cur.cntL l ∧ met s.cur.cntS sc ∧ met s.cur.cntC c ∧ met s.cur.cntT k
     (opened → (c.toNat = 63 ∨ s.cur.revoked = 0) → ∃ t, exec (.wait l sc c k) s = .next t ∧ s.Issued t 1 8 ∧
       t.cur.v = s.cur.v ∧ t.cur.g = s.cur.g ∧ t.cur.k = s.cur.k ∧ t.cur.sp.fmt = s.cur.sp.fmt) ∧
     (¬opened → ∃ t, exec (.wait l sc c k) s = .next t ∧ s.Waits t (.counters l sc c k) ∧ t.mem = s.mem ∧
       t.home = s.home ∧ t.teams = s.teams ∧ t.eng = s.eng) ∧
     (opened → c.toNat ≠ 63 → s.cur.revoked ≠ 0 → s.cur.hand = none → ∃ t, exec (.wait l sc c k) s = .next t ∧
       t.cur.revoked = 0 ∧ t.cur.v = s.cur.v ∧
       s.Trapped t 0x14 0 0 (s.cur.reportAt pred0) s.cur.sp.pc (maskOf [s.cur.reportAt pred0]) (s.cur.omask pred0)
         (fun _ => 0)))

/-! ### Queues, stages, launches and register blocks (spec/18) -/

/-- O30: one push and one pop at the home of a descriptor (R376-R378), indivisibly: a push into a ring that is not full writes
its entry at TAIL and adds 1 to TAIL; a pop from one that is not empty answers the entry at HEAD and adds 1 to HEAD; else
neither does anything. `qpush` and `qpop` (R376-R379): the executing threads act at the descriptor of the handle in ascending
order; where all of them move the split goes on, a pop leaves thread t's entry in D of thread t; where none can move, the split
waits before its first thread, or `qpop.try` gives all ones; a bad handle is refused with 0x0B. -/
def Obligations.Queues : Prop :=
  (∀ (s : State) (a : Acc) (desc : Map) (va : Nat), desc.space < 3 →
     let w := leNat (s.mapBytes desc va 64)
     let tail := field w 192 64
     let head := field w 128 64
     let size := 2 ^ field w 0 5
     let used := (tail + 2 ^ 64 - head) % 2 ^ 64
     let entry := fun n => field w 64 64 + 8 * (n % size)
     let apart := fun (m : Map) (e o : Nat) => ∀ i j, i < 8 → j < 8 →
       (m.phys (e + i) = m.phys (e + j) → i = j) ∧ (desc.phys (va + o + i) = desc.phys (va + o + j) → i = j) ∧
       m.phys (e + i) ≠ desc.phys (va + o + j)
     let plain := fun (m : Map) (e : Nat) => ∀ i, i < 8 → s.plainByte m (e + i)
     (∀ x, size ≤ used → s.queuePush a desc va x = (.wait, s)) ∧
     (used = 0 → s.queuePop a desc va = (.wait, s)) ∧
     (∀ x m u, used < size → s.translate a (BitVec.ofNat 64 (entry tail)) 8 8 = (.ok m, u) → m.space < 3 →
       apart m (entry tail) 24 →
       ∃ t, s.queuePush a desc va x = (.moved x, t) ∧ t.cur = s.cur ∧
         (plain m (entry tail) → plain desc (va + 24) → leNat (t.mapBytes m (entry tail) 8) = x.toNat ∧
           leNat (t.mapBytes desc (va + 24) 8) = (tail + 1) % 2 ^ 64) ∧
         s.BytesBut t (fun p => ∃ i, i < 8 ∧ (p = m.phys (entry tail + i) ∨ p = desc.phys (va + 24 + i)))) ∧
     (∀ m u, used ≠ 0 → s.translate a (BitVec.ofNat 64 (entry head)) 8 8 = (.ok m, u) → apart m (entry head) 16 →
       ∃ t, s.queuePop a desc va = (.moved (BitVec.ofNat 64 (leNat (s.mapBytes m (entry head) 8))), t) ∧ t.cur = s.cur ∧
         (plain desc (va + 16) → leNat (t.mapBytes desc (va + 16) 8) = (head + 1) % 2 ^ 64) ∧
         s.BytesBut t (fun p => ∃ i, i < 8 ∧ p = desc.phys (va + 16 + i)))) ∧
  (∀ (s : State) (x : Ord) (m : Map) (u : State),
     let e := s.cur.exec x.pred
     let h := Tab.getD s.cur.q (x.imm.toNat % 16) 0
     let va := h.toNat / 64 * 64 % 2 ^ 52
     let good := h.toNat % 64 = 1 ∧ h.toNat < 2 ^ 52
     let acc := s.cur.acc true
     let cost := max 1 (count e)
     let key := m.wordKey va
     let turn := ∀ q ∈ s.eng.queueWaits, q.1 ≠ key
     let pushed := s.writeBack s.cur.id.die s.cur.id.core (fun _ p => !boundAny s.binds p)
     let fit := fun (w : State) => w.translate acc (BitVec.ofNat 64 va) 64 64 = (.ok m, u) ∧ m.space < 3 ∧
       (QDesc.of (leNat (u.mapBytes m va 64))).bad = false
     e ≠ 0 →
     (s.trappable = true → s.funds cost = true →
       (¬good → (s.cur.allNamed [x.a] = true → Refuses (.qpush x) s x.pred 0x0B) ∧
         (s.cur.allNamed [x.d] = true → ∀ fn, Refuses (.qpop fn x) s x.pred 0x0B))) ∧
     (s.issues [x.a] cost = true → good → (∀ j ∈ threads e, s.cur.opd x.a j ≠ BitVec.allOnes 64) → turn →
       s.unacknowledged s.cur.id = false → fit pushed →
       (∀ w, State.pushes acc m va ((threads e).map fun j => s.cur.opd x.a j) u = some w →
         ∃ t, exec (.qpush x) s = .next t ∧ s.cur.SameRegs t.cur ∧ t.home = w.home ∧ t.mem = w.mem ∧
           t.teams = s.teams ∧ t.cur.sp = s.cur.sp.after s.cur.sp.fmt (lenOf x) (s.clock.cycle + cost)) ∧
       ((u.queuePush acc m va (s.cur.opd x.a (lowest e))).1 = .wait →
         ∃ t, exec (.qpush x) s = .next t ∧ s.cur.SameRegs t.cur ∧ t.home = u.home ∧ t.mem = u.mem ∧
           t.cur.sp.pc = s.cur.sp.pc ∧ t.cur.sp.st = 1 ∧ t.cur.sp.rtid.toNat = lowest e ∧ t.cur.sp.wait = .queue key true ∧
           (key, true, s.cur.id) ∈ t.eng.queueWaits)) ∧
     (s.issues [x.d] cost = true → good → turn → fit s → ∀ r : Fin 96, x.d = .v r →
       (∀ xs w, State.pops acc m va (count e) u = some (xs, w) →
         ∃ t, (∀ fn, exec (.qpop fn x) s = .next t) ∧ t.home = w.home ∧ t.mem = w.mem ∧ t.teams = s.teams ∧
           t.cur.g = s.cur.g ∧ t.cur.k = s.cur.k ∧
           (∀ k j, j < 32 → t.cur.vget k j = if k = r.val ∧ inMask e j = true
             then xs.getD ((threads e).idxOf j) 0 else s.cur.vget k j) ∧
           t.cur.sp = s.cur.sp.after s.cur.sp.fmt (lenOf x) (s.clock.cycle + cost)) ∧
       ((u.queuePop acc m va).1 = .wait →
         (∃ t, exec (.qpop .blocking x) s = .next t ∧ s.cur.SameRegs t.cur ∧ t.home = s.home ∧ t.mem = s.mem ∧
           t.cur.sp.pc = s.cur.sp.pc ∧ t.cur.sp.st = 1 ∧ t.cur.sp.rtid.toNat = lowest e ∧
           t.cur.sp.wait = .queue key false) ∧
         ∃ t, exec (.qpop .try_ x) s = .next t ∧ t.home = s.home ∧ t.mem = s.mem ∧ t.cur.g = s.cur.g ∧
           (∀ k j, j < 32 → t.cur.vget k j = if k = r.val ∧ inMask e j = true then BitVec.allOnes 64 else s.cur.vget k j) ∧
           t.cur.sp = s.cur.sp.after s.cur.sp.fmt (lenOf x) (s.clock.cycle + cost))))

/-- O31: `emit` and `emit.rec` (R380, R158): the executing threads' records go to the end of the stage's queue in ascending
order, and D is 0; `emit` waits for room, and for the fill of a record's blocks (R222); `emit.rec` answers 2 without room, and
at the depth limit 1 with the launch's count, or with the strict flag 0x0C; a stage that is not an output is refused with 0x0B.
-/
def Obligations.Emission : Prop :=
  ∀ (s : State) (x : Ord) (r : Fin 32) (l : Launch) (mine dst : Stage),
    let e := s.cur.exec x.pred
    let st := x.imm.toNat % 16
    let off := (s.cur.opd x.a (lowest e)).toNat
    let cost := max 1 (count e)
    x.d = .g r → s.launch? s.cur.launch = some l → Tab.get? s.cur.stage l.stages = some mine →
    Tab.get? st l.stages = some dst → e ≠ 0 → s.cur.allNamed [x.d, x.a] = true →
    let inside := s.badRecord off dst.recSize (threads e) = none
    let fits := inside ∧ ∀ j ∈ threads e, s.holes (off + j * dst.recSize) dst.recSize [] = []
    let recs := fun d => (threads e).map fun j => QRec.mk (s.lsBytes (off + j * dst.recSize) dst.recSize) (d j) s.clock.time
    let sent := fun (t : State) d => ∃ l1, t.launch? s.cur.launch = some l1 ∧
      Tab.get? st l1.stages = some { dst with queue := dst.queue ++ recs d } ∧
      (∀ k, k ≠ st → Tab.get? k l1.stages = Tab.get? k l.stages) ∧ l1.depthX = l.depthX
    let went := fun (t : State) v => s.GotG t r v ∧ s.BytesBut t (fun _ => False) ∧ t.teams = s.teams ∧
      t.cur.sp = s.cur.sp.after s.cur.sp.fmt (lenOf x) (s.clock.cycle + cost)
    (s.trappable = true → s.funds cost = true → (mine.outMask.testBit st = false ∨ st = 0) →
      Refuses (.emit x) s x.pred 0x0B) ∧
    (s.trappable = true → s.funds cost = true → (st ≠ s.cur.stage ∨ st = 0) → Refuses (.emitRec x) s x.pred 0x0B) ∧
    (s.issues [x.d, x.a] cost = true → mine.outMask.testBit st = true → st ≠ 0 → fits →
      (dst.queue.length + count e ≤ dst.cap →
        ∃ t, exec (.emit x) s = .next t ∧ went t 0 ∧ sent t (fun _ => 0)) ∧
      (dst.cap ≤ dst.queue.length → ∃ t, exec (.emit x) s = .next t ∧ s.cur.SameRegs t.cur ∧ s.BytesBut t (fun _ => False) ∧
        t.cur.sp.pc = s.cur.sp.pc ∧ t.cur.sp.st = 1 ∧ t.cur.sp.rtid.toNat = lowest e ∧
        t.cur.sp.wait = .stage s.cur.launch st ∧ t.launch? s.cur.launch = some l)) ∧
    (s.issues [x.d, x.a] cost = true → mine.outMask.testBit st = true → st ≠ 0 → inside → ∀ j a,
      s.recordHole off dst.recSize (threads e) = some (j, a, none) →
      exec (.emit x) s = .next { s with cur := { s.cur with sp := { s.cur.sp with wait := .fill (a / 256 * 256) } } }) ∧
    (s.issues [x.d, x.a] cost = true → st = s.cur.stage → st ≠ 0 → fits →
      let deep := (threads e).any fun j => s.cur.depths.getD j 0 == dst.depth
      (deep = false → dst.queue.length + count e ≤ dst.cap →
        ∃ t, exec (.emitRec x) s = .next t ∧ went t 0 ∧ sent t (fun j => s.cur.depths.getD j 0 + 1)) ∧
      (deep = false → dst.cap < dst.queue.length + count e →
        ∃ t, exec (.emitRec x) s = .next t ∧ went t 2 ∧ t.launches = s.launches) ∧
      (deep = true → l.p.strict = false → ∃ t l1, exec (.emitRec x) s = .next t ∧ went t 1 ∧
        t.launch? s.cur.launch = some l1 ∧ l1 = { l with depthX := min (l.depthX + 1) (2 ^ 32 - 1) }) ∧
      (deep = true → l.p.strict = true → s.cur.hand = none → Refuses (.emitRec x) s x.pred 0x0C))

/-- O32: `launch` (R381, R140, R144): the packet in eight group registers from A is presented to the partition's arbiter under
the next sequence number, and the split is held until the status has come to D. -/
def Obligations.DeviceLaunches : Prop :=
  ∀ (s : State) (x : Ord) (a : Fin 32), s.issues [x.d, x.a] 1 = true → s.cur.exec x.pred ≠ 0 → x.a = .g a →
    let bits := ((List.range 8).map fun i => (s.cur.gget (a.val + i)).toNat * 2 ^ (64 * i)).sum
    s.cur.launch ≠ s.nextSeq →
    ∃ t l op, exec (.launch x) s = .next t ∧ s.cur.OnlyIssue t.cur ∧ s.BytesBut t (fun _ => False) ∧ t.teams = s.teams ∧
      t.nextSeq = s.nextSeq + 1 ∧ t.presented = s.presented ++ [s.nextSeq] ∧ t.launch? s.nextSeq = some l ∧
      (∀ k, k ≠ s.nextSeq → t.launch? k = s.launch? k) ∧
      l.part = s.cur.part ∧ l.die = s.cur.id.die ∧ l.state = .submitted ∧ l.from_ = .group s.cur.id ∧
      l.p.entry.toNat = field bits 448 64 ∧ l.p.start.toNat = field bits 384 64 ∧ l.p.args.toNat = field bits 320 64 ∧
      l.p.token.toNat = field bits 256 64 ∧ l.p.pipe.toNat = field bits 192 64 ∧ l.p.dl = field bits 160 32 ∧
      l.p.bgt = field bits 128 32 ∧ l.p.gx = field bits 112 16 ∧ l.p.gy = field bits 96 16 ∧ l.p.gz = field bits 88 8 ∧
      Tab.get? s.nextId t.eng.ops = some op ∧ op.kind = .status s.nextSeq x.d.code ∧
      t.cur.sp = { s.cur.sp with wait := .op s.nextId, charged := true }

/-- O33: `racq` and `rrel` (R382, R171): a block that is acquired comes from the team's quota and its registers read zero; one
that is released goes back; with the quota used up `racq` waits, and with a quota of 0 it is refused with 0x02. -/
def Obligations.RegisterBlocks : Prop :=
  ∀ (s : State) (x : Ord) (t0 : Team), s.team? s.cur = some t0 → s.runsU x [] = true →
    let b := x.imm.toNat % 2
    let held := if b = 0 then s.cur.blk0 else s.cur.blk1
    let went := fun (t : State) u q k => t.team? t.cur = some u ∧ u = { t0 with xqFree := q } ∧ t.mem = s.mem ∧
      t.home = s.home ∧ t.cur.g = s.cur.g ∧ t.cur.k = s.cur.k ∧
      t.cur.sp = s.cur.sp.after s.cur.sp.fmt (lenOf x) (s.clock.cycle + 1) ∧
      (t.cur.blk0, t.cur.blk1) = (if b = 0 then (k, s.cur.blk1) else (s.cur.blk0, k)) ∧
      ∀ m j, t.cur.vget m j = if k ≠ held ∧ 64 + 16 * b ≤ m ∧ m < 80 + 16 * b then 0 else s.cur.vget m j
    (t0.xq = 0 → s.cur.hand = none → Refuses (.racq x) s x.pred 0x02) ∧
    (t0.xq ≠ 0 → held = true → ∃ t u, exec (.racq x) s = .next t ∧ went t u t0.xqFree true) ∧
    (t0.xq ≠ 0 → held = false → t0.xqFree ≠ 0 → ∃ t u, exec (.racq x) s = .next t ∧ went t u (t0.xqFree - 1) true) ∧
    (t0.xq ≠ 0 → held = false → t0.xqFree = 0 → ∃ t, exec (.racq x) s = .next t ∧ s.Waits t .block ∧ t.teams = s.teams) ∧
    (held = true → ∃ t u, exec (.rrel x) s = .next t ∧ went t u (t0.xqFree + 1) false) ∧
    (held = false → ∃ t u, exec (.rrel x) s = .next t ∧ went t u t0.xqFree false)

/-! ### The matrix unit and accords (spec/20) -/

/-- O34: `mma` and `mmas` up to the latch (R387-R391): the member waits, with T one higher; the last member of the gang closes
the latch, and the members get slots of 8 cycles in ascending POS, or, where they differ, each is to raise 0x08; a bad pair of
formats is refused with 0x01. No tile changes. The end of a member's slot (R389, R392): row i of the tile of each executing
thread i holds acc + the products over k, for `s8` the exact sum modulo 2^32, else each step rounded to `f32`; other rows and
tiles are unchanged, T falls by one, and the split may issue in the next cycle. -/
def Obligations.MatrixInstructions : Prop :=
  (∀ (s : State) (x : Ord) (scaled : Bool),
     let i := if scaled then Instr.mmas x else .mma x
     let e := s.cur.exec x.pred
     let pair := pairOf scaled (resolveFmt x.et.code (fmtAF s.cur.sp.fmt)) (resolveFmt (x.imm.toNat % 16) (fmtBF s.cur.sp.fmt))
     let holds := fun n => ((List.range n).map (x.a.code + ·) ++ (if scaled then [x.c.code, x.c.code + 1] else [])).all
       fun n => n < 96 && s.cur.holdsV n && (s.cur.hand.isNone || n < 4)
     let b := (s.cur.bopd .zero x.et x.b (s.cur.reportAt x.pred)).toNat
     let words := ordKey (if scaled then 0x61 else 0x60) x
     s.cur.namesTile x.d.code = true → s.cur.sp.mask ≠ 0 →
     (s.trappable = true → s.cur.allNamed (breg x.b) = true → holds 4 = true → pair = none →
       Refuses i s x.pred 0x01) ∧
     (∀ fa fb l, pair = some (fa, fb) → holds (aRegs fa) = true → s.issues (breg x.b) 1 = true →
       s.uniformIn x.pred (breg x.b) = true → b % 256 = 0 → s.group? s.cur.leadId = some l →
       b + operandBytes fb scaled ≤ l.lsize → s.gangWhole s.cur = true → s.tileBusy s.cur.id x.d.code = false →
       s.cur.cntT < 62 → s.cur.live = true → s.cur.spLive = true → s.cur.id ∈ s.cur.gangIds → s.cur.gangIds.Nodup →
       (∀ m ∈ s.eng.latch, m.g ≠ s.cur.id) → (∀ a, s.team? s.cur = some a → ∀ y, a.unfilled y = false) →
       let op : MatOp := ⟨fa, fb, s.cur.mode x, s.cur.ftz, scaled && fmtBsc s.cur.sp.fmt, b⟩
       let mine := fun (m : LatchMember) => m.g = s.cur.id ∧ m.op = op ∧ m.words = words ∧ m.tile = x.d.code ∧
         m.a = x.a.code ∧ m.threads = e ∧ m.low = s.cur.reportAt x.pred ∧ m.iw0 = s.cur.iw0 ∧ m.omask = s.cur.omask x.pred
       let kept := fun (t : State) => t.mem = s.mem ∧ t.home = s.home ∧ t.teams = s.teams ∧ t.cur.v = s.cur.v ∧
         t.cur.g = s.cur.g ∧ t.cur.k = s.cur.k ∧ t.cur.tiles = s.cur.tiles ∧ t.cur.sp.pc = s.cur.sp.pc ∧
         t.cur.bgt.toNat = s.cur.bgt.toNat - 1
       let others := fun j => j ∈ s.cur.gangIds ∧ j ≠ s.cur.id
       ((∃ j, others j ∧ ∀ m ∈ s.eng.latch, m.g ≠ j) → ∃ t m, exec i s = .next t ∧ kept t ∧ mine m ∧
         t.eng.latch = s.eng.latch ++ [m] ∧ t.eng.slots = s.eng.slots ∧ t.cur.cntT = s.cur.cntT + 1 ∧
         t.cur.sp.wait = .latch) ∧
       ((∀ j, others j → ∃ m ∈ s.eng.latch, m.g = j) →
         ((∀ m ∈ s.eng.latch, m.g ∈ s.cur.gangIds → m.words = words ∧ m.op = op) → ∃ t new, exec i s = .next t ∧
           kept t ∧ t.eng.slots = s.eng.slots ++ new ∧ new.map (fun k => k.m.g) = s.cur.gangIds ∧
           new.map (fun k => k.until_) = (List.range new.length).map (fun p => s.clock.cycle + 8 * p + 8) ∧
           (∃ k ∈ new, mine k.m) ∧ (∀ k ∈ new, k.lead = s.cur.leadId) ∧ (∀ m ∈ t.eng.latch, m.g ∉ s.cur.gangIds) ∧
           t.cur.cntT = s.cur.cntT + 1 ∧ t.cur.sp.wait = .matrixSlot) ∧
         ((∃ m ∈ s.eng.latch, m.g ∈ s.cur.gangIds ∧ (∀ n ∈ s.eng.latch, n.g = m.g → n = m) ∧
             (m.words ≠ words ∨ m.op ≠ op)) → ∃ t, exec i s = .next t ∧
           kept t ∧ t.eng.slots = s.eng.slots ∧ (∀ m ∈ t.eng.latch, m.g ∉ s.cur.gangIds) ∧
           t.cur.cntT = s.cur.cntT ∧ t.cur.sp.wait = .raise 0x08 (s.cur.reportAt x.pred) s.cur.iw0 (s.cur.omask x.pred))))) ∧
  (∀ (s : State) (i : Gid) (sl : MatSlot) (g l : Group) (tl : Team), s.eng.slots.find? (fun x => x.m.g == i) = some sl →
     (s.clock.cycle < sl.until_ → exec (.mmaSlotEnd i) s = .next s) ∧
     (sl.until_ ≤ s.clock.cycle → s.group? i = some g → g.hold ≠ .exited → g.dbg.getLsbD 8 = false → s.group? sl.lead = some l →
       s.team? l = some tl → sl.m.op.scaled = false →
       let op := sl.m.op
       let a := fun r k => g.aElem op.fa sl.m.a r k
       let b := fun n k => bElem tl.ls op.fb (l.lsb + op.b) n k
       ∃ t h, exec (.mmaSlotEnd i) s = .next t ∧ t.group? i = some h ∧ h.v = g.v ∧ h.g = g.g ∧ h.k = g.k ∧
         h.cntT = g.cntT - 1 ∧ t.mem = s.mem ∧ t.teams = s.teams ∧ (∀ k ∈ t.eng.slots, k ≠ sl) ∧
         (∀ c r n, r < 32 → n < 32 → (c ≠ sl.m.tile ∨ inMask sl.m.threads r = false) → h.tileWord c r n = g.tileWord c r n) ∧
         (∀ r n, n < 32 → inMask sl.m.threads r = true →
           h.tileWord sl.m.tile r n =
             if op.fa = .s8 then
               BitVec.ofInt 32 ((g.tileWord sl.m.tile r n).toInt +
                 ((List.range 64).map fun k => signed 8 (a r k) * signed 8 (b n k)).sum)
             else
               BitVec.ofNat 32 (((List.range (stepsOf op.fa)).map fun k =>
                 (srcFl op.ftz op.fa (a r k)).mul (srcFl op.ftz op.fb (b n k))).foldl
                 (fun acc p => resultFl op.ftz .f32 op.mode ((toFl .f32 acc).add op.mode p))
                 (flush op.ftz .f32 (g.tileWord sl.m.tile r n).toNat))) ∧
         ∀ p, g.inSlot sl.m.slot = some p → p.wait = .matrixSlot → ∃ q, h.inSlot sl.m.slot = some q ∧
           q.pc = p.pc + BitVec.ofNat 48 sl.m.len ∧ q.mask = p.mask ∧ q.wait = .until_ (s.clock.cycle + 1)))

/-- O35: tile moves (R393, R394): `mzero` zeroes the rows of the executing threads; `mld` brings each of them the 128 bytes at A
+ i × B, `mst` stores them there, on the counter T; `mrd` gives thread t chunk A mod (32 / n) of row t. Everything else is as
before. -/
def Obligations.TileMoves : Prop :=
  ∀ (s : State) (x : Ord), s.cur.exec x.pred ≠ 0 →
    let e := s.cur.exec x.pred
    let d := x.d.code
    let row := fun i => s.cur.opd x.a (lowest e) + BitVec.ofNat 64 i * s.cur.bopd .zero x.et x.b (lowest e)
    let plan := fun write => planAll (fun s t => s.checkRow x write t) (rowAddr x) (threads e) s
    let n := s.ucost x (srcAB x)
    (s.issues [] 1 = true → s.cur.namesTile d = true → s.tileBusy s.cur.id d = false →
      ∃ t, exec (.mzero x) s = .next t ∧ t.cur.v = s.cur.v ∧ t.cur.g = s.cur.g ∧ t.cur.k = s.cur.k ∧ t.mem = s.mem ∧
        t.home = s.home ∧ t.teams = s.teams ∧
        t.cur.sp = s.cur.sp.after s.cur.sp.fmt (lenOf x) (s.clock.cycle + 1) ∧
        ∀ c r k, r < 32 → k < 32 → t.cur.tileWord c r k =
          if c = d ∧ inMask e r = true then 0 else s.cur.tileWord c r k) ∧
    (s.runsU x (srcAB x) = true → s.cur.namesTile d = true → s.tileBusy s.cur.id d = false → s.cur.cntT < 62 →
      (∀ l u, plan false = (l, [], u) → (∀ q ∈ l, q.map.space < 4) → ∃ t op rows, exec (.mld x) s = .next t ∧
        s.OnlyMemory t ∧ s.BytesBut t (fun _ => False) ∧ t.teams = s.teams ∧ s.Outstanding t x n 3 op false ∧
        op.kind = .tile d rows ∧ op.writes = [] ∧ rows.map (fun r => r.1) = threads e ∧
        ∀ q ∈ l, q.va = row q.thread ∧ ∃ r ∈ rows, r.1 = q.thread ∧ r.2.1 = 0 ∧ (s.settled q.map q.va.toNat 128 → ∀ k, k < 32 →
          (r.2.2.getD k 0).toNat = leNat (s.coreBytes s.cur.id.die s.cur.id.core q.map (q.va.toNat + 4 * k) 4))) ∧
      (∀ l u, plan true = (l, [], u) → (∀ q ∈ l, q.map.space < 4) → s.memWf = true → ∃ t op, exec (.mst x) s = .next t ∧
        s.OnlyMemory t ∧ s.BytesBut t (touches 128 l) ∧ t.teams = s.teams ∧ s.Outstanding t x n 3 op false ∧
        op.kind = .store ∧ l.map (fun q => q.thread) = threads e ∧ (∀ q ∈ l, q.va = row q.thread) ∧
        ∀ q ∈ l, ∀ i, i < 128 → s.plainByte q.map (q.va.toNat + i) → lastWriter 128 l q i →
          t.coreByte s.cur.id.die s.cur.id.core q.map (q.va.toNat + i) =
            BitVec.ofNat 8 ((s.cur.tileWord d q.thread (i / 4)).toNat / 2 ^ (8 * (i % 4))))) ∧
    (s.issues [x.d, x.a] (max 1 (count e)) = true → s.cur.namesTile (x.imm.toNat % 4) = true →
      s.tileBusy s.cur.id (x.imm.toNat % 4) = false → s.cur.cntT < 62 → (∀ j ∈ threads e, s.cur.isDenied j = false) →
      ∃ t op, exec (.mrd x) s = .next t ∧ s.OnlyMemory t ∧ s.BytesBut t (fun _ => False) ∧ t.teams = s.teams ∧
        t.mem = s.mem ∧ s.Outstanding t x (max 1 (count e)) 3 op false ∧
        op.writes.map (fun w => (w.thread, w.reg)) = (threads e).map (fun j => (j, d)) ∧
        ∀ w ∈ op.writes, ∀ j, j < x.et.count →
          let word := (s.cur.tileWord (x.imm.toNat % 4) w.thread
            ((s.cur.opd x.a w.thread).toNat % (32 / x.et.count) * x.et.count + j)).toNat
          sub w.val x.et.width j =
            (if x.et = .f32 then word else convert (s.cur.mode x) s.cur.ftz s.cur.satN .f32 x.et word) % 2 ^ x.et.width)

/-- O36: matrix blocks (R395): `mrst` records the restart label with the split's mask, DEPTH, TOKEN and FMT, sets IN and clears
RCNT; `mrst.end` clears IN; another live split, a handler and a bad label refuse the set. -/
def Obligations.MatrixBlocks : Prop :=
  ∀ (s : State) (x : Branch), s.cur.exec x.pred ≠ 0 →
    let label := s.relative x.off.toInt
    let went := fun (t : State) => t.cur.sp = s.cur.sp.after s.cur.sp.fmt 8 (s.clock.cycle + 1) ∧ t.mem = s.mem ∧
      t.home = s.home ∧ t.teams = s.teams ∧ s.cur.SameRegs t.cur
    (s.issues [] 1 = true → s.cur.hand = none → s.cur.other = none → s.cur.spill = [] → GoodTarget label →
      ∃ t b, exec (.mrstSet x) s = .next t ∧ went t ∧ t.cur.block = some b ∧ b.label.toNat = label.toNat ∧
        b.mask = s.cur.sp.mask ∧ b.depth = s.cur.sp.depth ∧ b.token = s.cur.sp.token ∧ b.fmt = s.cur.sp.fmt ∧
        t.cur.rcnt = 0) ∧
    (s.issues [] 1 = true → ∃ t, exec (.mrstEnd x) s = .next t ∧ went t ∧ t.cur.block = none ∧ t.cur.rcnt = s.cur.rcnt) ∧
    (s.trappable = true → s.funds 1 = true → (s.cur.other.isSome = true ∨ s.cur.spill ≠ []) →
      Refuses (.mrstSet x) s x.pred 0x07) ∧
    (s.trappable = true → s.funds 1 = true → s.cur.other = none → s.cur.spill = [] → ∀ c, BadTarget label c →
      Refuses (.mrstSet x) s x.pred c)

/-- O37: accord tiles (R397, R398, R72): `accld` holds its split, with T one higher, until its request has arrived at the home
stack; there the tile is made from the foundation and the notes, or a fault is taken; the 1,024 bytes land at C in local store,
and T falls. `acc` (R74, R75, R399, R400): `acc.version` gives D the version of the handle; `acc.attach` appends the note and
`acc.detach` removes note k, each with a version one higher in the record and in the handle's sync word; a handle that is not
valid is refused with 0x07, a full list or a note that is not there with 0x0A. -/
def Obligations.AccordTiles : Prop :=
  ((∀ (s : State) (x : Ord), s.runsU x (srcABC x) = true → (s.a0 x).toNat / 4096 % 16 = 0 → (s.a0 x).toNat < 2 ^ 17 →
     s.cur.cntT < 62 →
     let c := (s.c0 x).toNat
     (∀ a, s.team? s.cur = some a → ∀ y, a.unfilled y = false) → c % 32 = 0 → s.cur.lsb ≤ c → c + 1024 ≤ s.cur.lsb + s.cur.lsize → c < 2 ^ 19 →
     ∃ t op, exec (.accld x) s = .next t ∧ s.OnlyMemory t ∧ t.mem = s.mem ∧ t.home = s.home ∧ t.teams = s.teams ∧
       Tab.get? s.nextId t.eng.ops = some op ∧
       op.kind = .accord (s.a0 x) (s.b0 x) (s.c0 x) x.et.code s.cur.satN (s.cur.exec x.pred) ∧
       t.cur.cntT = s.cur.cntT + 1 ∧ t.cur.sp = { s.cur.sp with wait := .op s.nextId, charged := true }) ∧
   (∀ (s : State) (id : Nat) (op : Op) a b c fmt sat m, Tab.get? id s.eng.ops = some op →
     op.kind = .accord a b c fmt sat m →
     (s.clock.cycle < op.due → exec (.accordTileLoad id) s = .next s) ∧
     (op.due ≤ s.clock.cycle → op.g = s.cur.id → s.cur.live = true → s.cur.dbg.getLsbD 8 = false →
       let via : Via := ⟨s.accordDie s.cur.part a.toNat, s.cur.part, []⟩
       (∀ bytes l tr, s.tile via a.toNat b.toNat ((ET.ofCode fmt).getD .f32) sat = .ok (bytes, l, tr) →
         ∃ t op1, exec (.accordTileLoad id) s = .next t ∧ Tab.get? id t.eng.ops = some op1 ∧
           op1.kind = .local_ c.toNat bytes (s.cur.part * 4096 + a.toNat % 4096) l.notes ∧ op1.counter = op.counter ∧
           t.mem = s.mem ∧ t.home = s.home ∧ t.teams = s.teams ∧ t.cur.cntT = s.cur.cntT ∧
           (s.cur.sp.wait = .op id → t.cur.sp.wait = .none ∧ t.cur.sp.pc = s.cur.sp.pc + BitVec.ofNat 48 op.len)) ∧
       (∀ e, s.tile via a.toNat b.toNat ((ET.ofCode fmt).getD .f32) sat = .error e → s.cur.hand = none →
         s.cur.hold = .none → s.cur.held = [] → op.counter = 3 → op.hand = false →
         ∃ t, exec (.accordTileLoad id) s = .next t ∧ t.cur.hand.isSome = true ∧ t.cur.tcause = e.cause ∧
           t.cur.sp.mask = maskOf [lowest m] ∧ Tab.get? id t.eng.ops = none ∧ t.cur.cntT = s.cur.cntT - 1))) ∧
   (∀ (s : State) (id : Nat) (op : Op) off bytes h notes (a : Team), Tab.get? id s.eng.ops = some op →
     op.kind = .local_ off bytes h notes → op.g = s.cur.id → s.cur.live = true → s.cur.hold ≠ .exited → op.counter = 3 →
     op.faults = [] → op.writes = [] → op.tags = [] → op.due ≤ s.clock.cycle → s.requestsLeft id = false →
     s.cur.dbg.getLsbD 8 = false → s.team? s.cur = some a → a.ls.wf = true →
     ∃ t b, exec (.loadDataLand id) s = .next t ∧ t.team? t.cur = some b ∧ t.mem = s.mem ∧
       t.cur.cntT = s.cur.cntT - 1 ∧ Tab.get? id t.eng.ops = none ∧
       (∀ i, i < bytes.length → b.ls.byte (off + i) = bytes.getD i 0) ∧
       ∀ y, (y < off ∨ off + bytes.length ≤ y) → b.ls.byte y = a.ls.byte y)) ∧
  (∀ (s : State) (x : Ord) (h : Handle) (p : Nat),
     let a := (s.a0 x).toNat
     let b := s.b0 x
     let word := fun (w : Map) => w.wordKey h.list.sync.toNat
     let plain := fun (u : State) (w : Map) => (∀ i, i < 128 → u.oneView s.cur.id.die s.cur.id.core 0 (p + i)) ∧
       ∀ j, j < 8 → u.plainByte w (h.list.sync.toNat + j)
     s.eng.waiters = [] → s.syncOut = false →
     (s.runsU x [x.a] = true → s.cur.hand = none → (4096 ≤ a ∨ s.handle? s.cur.part a = none) →
       Refuses (.accDetach x) s x.pred 0x07) ∧
     (a < 4096 → s.handle? s.cur.part a = some (h, p) →
       (∀ r : Fin 32, x.d = .g r → s.runsU x [x.a] = true → s.cur.allNamed [x.d, x.a] = true →
         ∃ t, exec (.accVersion x) s = .next t ∧ s.GotG t r (h.list.version.setWidth 64) ∧ t.mem = s.mem ∧ t.home = s.home ∧
           t.teams = s.teams ∧ t.cur.sp = s.cur.sp.after s.cur.sp.fmt (lenOf x) (s.clock.cycle + s.ucost x [x.a])) ∧
       (s.runsU x (srcAB x) = true → s.cur.hand = none → h.ncount = 8 → Refuses (.accAttach x) s x.pred 0x0A) ∧
       (s.runsU x [x.a] = true → s.cur.hand = none → h.ncount ≤ x.imm.toNat % 8 → Refuses (.accDetach x) s x.pred 0x0A) ∧
       (∀ m w u, s.runsU x (srcAB x) = true → h.ncount ≠ 8 → b.toNat % 64 = 0 → b.toNat < 2 ^ 52 →
         s.unitMap s.cur.part b.toNat 64 false = .ok m → s.unitMap s.cur.part h.list.sync.toNat 8 true = .ok w →
         m.ac = true → m.space < 4 → w.space = 0 → w.geo = none → s.poisoned m b.toNat 64 = false →
         (noteOf (leNat (s.mapBytes m b.toNat 64))).isSome = true →
         s.releaseBound (word w) 3 = (none, u) → ¬s.opsOn (fun o => o.path == 0 && o.kind == .store) →
         u.unacknowledged s.cur.id = false → plain u w →
         (∀ i j, i < 128 → j < 8 → p + i ≠ w.phys (h.list.sync.toNat + j)) →
         (∀ i j, i < 8 → j < 8 → w.phys (h.list.sync.toNat + i) = w.phys (h.list.sync.toNat + j) → i = j) →
         p + 128 ≤ 2 ^ 48 →
         ∃ t, exec (.accAttach x) s = .next t ∧ t.cur.v = s.cur.v ∧ t.cur.g = s.cur.g ∧
           t.homeNat p 128 = recordWith (u.homeNat p 128) (h.list.notes ++ [b]) (h.list.version + 1) % 2 ^ 1024 ∧
           leNat (t.mapBytes w h.list.sync.toNat 8) = (h.list.version + 1).toNat ∧
           t.cur.sp = s.cur.sp.after s.cur.sp.fmt (lenOf x) (s.clock.cycle + s.ucost x (srcAB x))) ∧
       (∀ m w u, s.runsU x [x.a] = true → x.imm.toNat % 8 < h.ncount →
         let note := h.list.notes.getD (x.imm.toNat % 8) 0
         s.unitMap s.cur.part note.toNat 64 false = .ok m → s.unitMap s.cur.part h.list.sync.toNat 8 true = .ok w →
         m.ac = true → m.space < 4 → w.space = 0 → w.geo = none → s.cur.cntT < 62 →
         s.releaseBound (word w) 3 = (none, u) → ¬s.opsOn (fun o => o.path == 0 && o.kind == .store) →
         u.unacknowledged s.cur.id = false → plain u w → (∀ i j, i < 128 → j < 8 → p + i ≠ w.phys (h.list.sync.toNat + j)) →
         (∀ i j, i < 8 → j < 8 → w.phys (h.list.sync.toNat + i) = w.phys (h.list.sync.toNat + j) → i = j) →
         p + 128 ≤ 2 ^ 48 →
         ∃ t op after, exec (.accDetach x) s = .next t ∧ t.cur.v = s.cur.v ∧ t.cur.g = s.cur.g ∧
           t.homeNat p 128 = recordWith (u.homeNat p 128) (h.list.notes.eraseIdx (x.imm.toNat % 8)) (h.list.version + 1)
             % 2 ^ 1024 ∧
           leNat (t.mapBytes w h.list.sync.toNat 8) = (h.list.version + 1).toNat ∧ t.cur.cntT = s.cur.cntT + 1 ∧
           Tab.get? s.nextId t.eng.ops = some op ∧ op.kind = .detach after ∧
           t.cur.sp = s.cur.sp.after s.cur.sp.fmt (lenOf x) (s.clock.cycle + s.ucost x [x.a]))))

/-! ### Engines (spec/05, spec/21) -/

/-- O38: `ecmd` and the end of a command (R402-R404, R89, R90): the shape record and its completion record are read as the core
sees them, the pages are pinned, C is one higher and the command is queued, or is finished at once as malformed or as of a stale
version; a misaligned A or C faults with 0x04 and queues nothing; a full counter holds the split. A revocation ends a command
that has not completed its last element at an element boundary, and a guaranteed launch is voided at a miss then; the completion
writes the record, adds 1 to the counter word and takes 1 from C. The engines at work on a queued command, element by element
(R405-R409, R77, R81-R86, R33, R34): each asks for its reads and, when they are served, completes the element. A copy puts a row
where its record says; a gather-pool pools a record's rows; a matrix-vector command adds a square's products to the sums and at
the end of a row group leaves the results; a fold sets FIP and writes the elements of a square of its snapshot, and its swap
changes the record and releases the sync word; a collective sends its data, waits for its participants and then leaves the
reduction. -/
def Obligations.Engines : Prop :=
  ((∀ (s : State) (x : Ord) (n : Fin 32), s.runsU x (srcABC x) = true → x.b = .reg (.g n) →
     let a := (s.a0 x).toNat
     let die := s.cur.id.die
     let core := s.cur.id.core
     let odd := a % 64 ≠ 0 ∨ (s.c0 x).toNat % 8 ≠ 0
     (odd → s.cur.hand = none → ∃ t, exec (.ecmd x) s = .next t ∧ t.cur.tcause = 0x04 ∧ t.cur.hand.isSome = true ∧
       t.cur.sp.mask = maskOf [lowest (s.cur.exec x.pred)] ∧ t.mem = s.mem ∧ t.eng.cmds = s.eng.cmds ∧
       t.cur.cntC = s.cur.cntC) ∧
     (¬odd → 62 ≤ s.cur.cntC → exec (.ecmd x) s =
       .next { s with cur := { s.cur with sp := { s.cur.sp with wait := .counterFull 2 } } }) ∧
     (¬odd → s.cur.cntC < 62 → ∀ m u m2 u2 ns pins w ls, s.checkGlobal (s.a0 x) 64 false true = (.ok m, u) → m.space < 4 →
       let shape := leNat (u.coreBytes die core m a 64)
       let s1 := u.touch die core m a 64 0
       let compl := field shape 64 64
       compl % 64 = 0 → s1.checkGlobal (BitVec.ofNat 64 compl) 64 false true = (.ok m2, u2) → m2.space < 4 →
       let rec_ := leNat (u2.coreBytes die core m2 compl 64)
       let s2 := u2.touch die core m2 compl 64 0
       let c := s2.queuedCmd x shape
       s2.listAtIssue s.cur.part x.moda.toNat shape = .ok ls →
       s2.fresh.2.needs c = .ok ns → s2.fresh.2.pinAll (s2.cur.acc false) ns [] = (.ok pins, w) →
       let stale := fun total => resumes rec_ c.cls total = true ∧ c.list.isSome = true ∧ field rec_ 96 32 ≠ c.version.toNat
       ∃ t k, exec (.ecmd x) s = .next t ∧ s.OnlyMemory t ∧ s.BytesBut t (fun _ => False) ∧ t.teams = s.teams ∧
         t.cur.sp = s.cur.sp.after s.cur.sp.fmt (lenOf x) (s.clock.cycle + s.ucost x (srcABC x)) ∧
         t.cur.cntC = s.cur.cntC + 1 ∧ t.cmd? c.id = some k ∧ k.cls = x.moda.toNat ∧ k.g = s.cur.id ∧
         k.launch = s.cur.launch ∧ k.part = s.cur.part ∧ k.shape = shape ∧ k.counter = s.c0 x ∧ k.x = s.b0 x ∧
         k.y = (if n.val = 31 then 0 else s.cur.gget (n.val + 1)) ∧ k.list = ls ∧
         (w.check c = none ∨ pinMax < pins.length → k.status = 2 ∧ k.phase = .finished) ∧
         (∀ total, w.check c = some total → pins.length ≤ pinMax → k.total = total ∧ k.pins = pins ∧
           k.done = (if resumes rec_ c.cls total = true then field rec_ 32 32 else 0) ∧
           (stale total → k.status = 5 ∧ k.phase = .finished) ∧
           (¬stale total → k.status = 0 ∧ k.phase = .queued)))) ∧
   (∀ (s : State) (id : Nat) (c : Cmd), s.cmd? id = some c → c.id = id →
     (c.cls < 4 → (c.phase = .queued ∨ c.phase = .stopped) → (c.cls = 2 ∨ c.cls = 3 → c.asked = false) →
       (∃ t, exec (.commandRevoke id) s = .next t ∧ t.Ended id c 1 (if c.cls = 0 then s.copyDone c else c.done) ∧
         s.cur.OnlyIssue t.cur ∧ t.teams = s.teams ∧
         (∀ l, s.launch? c.launch = some l → (t.launch? c.launch).map (fun k => k.missMark) = some true) ∧
         (c.cls < 2 → t.mem = s.mem ∧ t.home = s.home) ∧
         (∀ mv l, c.cls = 2 → c.phase = .queued → s.mvec? c = some mv →
           let ys := s.accsOf (mv.g.sliceOf c.done) c.id
           let runs := (List.range c.vectors).filterMap fun v =>
             match ys.filter fun y => y.vec == v with
             | [] => none
             | y :: ys => some (c.psum mv.g.rowsE v y.row, ((y :: ys).map fun y => leBytes 4 y.val.toNat).flatten)
           s.Takes c false runs l → s.Delivered t c false runs l))) ∧
     (c.cls = 0 → c.phase = .swapping → ∃ t, exec (.commandRevoke id) s = .next t ∧ t.Ended id c 1 (s.copyDone c) ∧
       t.cur = s.cur ∧ t.mem = s.mem ∧ t.home = s.home ∧ t.teams = s.teams) ∧
     (c.cls = 4 → c.phase = .queued → ∃ t, exec (.commandRevoke id) s = .next t ∧ t.Ended id c 1 0 ∧ t.cur = s.cur ∧
       t.mem = s.mem ∧ t.home = s.home ∧ t.teams = s.teams) ∧
     ((c.phase = .swapping ∧ c.cls ≠ 0) ∨ c.phase = .finished → exec (.commandRevoke id) s = .next s)) ∧
   (∀ (s : State) (id : Nat) (c : Cmd) (m w : Map), s.cmd? id = some c → c.phase = .finished → c.status < 8 → c.cls < 5 →
     (s.clock.cycle < c.due → exec (.commandCompletion id) s = .next s) ∧
     (c.due ≤ s.clock.cycle → c.compl % 64 = 0 → s.eng.waiters = [] → s.viaMap c.via c.compl 64 true = .ok m →
       m.space < 3 → w.space < 3 →
       let s1 := s.cmdPut c c.compl (c.record s.clock.time)
       let ctr := c.counter.toNat
       s1.viaMap c.via ctr 8 true = .ok w →
       (∀ i, i < 64 → s.oneHome m.space (m.phys (c.compl + i))) → (∀ i, i < 8 → s.oneHome w.space (w.phys (ctr + i))) →
       (∀ i j, i < 64 → j < 64 → m.phys (c.compl + i) = m.phys (c.compl + j) → i = j) →
       (∀ i j, i < 8 → j < 8 → w.phys (ctr + i) = w.phys (ctr + j) → i = j) →
       (∀ i j, i < 64 → j < 8 → m.phys (c.compl + i) ≠ w.phys (ctr + j)) →
       ∃ t, exec (.commandCompletion id) s = .next t ∧ t.cmd? id = none ∧ t.teams = s.teams ∧
         leNat (t.mapBytes w ctr 8) = (leNat (s.mapBytes w ctr 8) + 1) % 2 ^ 64 ∧
         (let r := leNat (t.mapBytes m c.compl 64)
         field r 0 8 = c.status ∧ field r 8 4 = c.cls ∧ field r 12 20 = 0 ∧ field r 32 32 = c.done % 2 ^ 32 ∧
           field r 64 32 = c.total % 2 ^ 32 ∧ field r 96 32 = c.version.toNat ∧ field r 128 192 = 0 ∧
           field r 320 64 = s.clock.time.toNat ∧ (c.hdr = none → field r 384 128 = 0)) ∧
         ∀ g, s.group? c.g = some g → ∃ h, t.group? c.g = some h ∧ h.cntC = g.cntC - 1 ∧ h.cntL = g.cntL ∧
           h.cntS = g.cntS ∧ h.cntT = g.cntT ∧ h.v = g.v ∧ h.g = g.g ∧
           h.revoked = (if c.status = 1 then g.revoked + 1 else g.revoked)))) ∧
  ((∀ (s : State) (id : Nat) (c : Cmd) (bs : List Byte) (bad : Bool) (l : Nat → List (Map × Nat × Nat)), s.cmd? id = some c →
     c.id = id → s.ready c 0 = true → s.copyWaits c = false →
     let sls := c.shape.testBit 7
     let dls := c.shape.testBit 8
     let n := c.rowBytes
     (c.asked = false → s.copyBlock c c.done = none → (sls = true ∨ (s.engRange c.via false (c.srcRow c.done) n).isSome = true) →
       ∃ t k, exec (.copyCommand id) s = .next t ∧ t.cmd? id = some k ∧ k.asked = true ∧ k.done = c.done ∧ t.cur = s.cur ∧
         t.teams = s.teams ∧ s.BytesBut t (fun _ => False)) ∧
     (c.asked = true → s.expects id = false →
       (if sls = true then bad = false ∧ bs = ((s.cmdTeam c).map fun a => a.ls.bytes (c.srcRow c.done) n).getD []
         else ∃ m, s.engRange c.via false (c.srcRow c.done) n = some [(m, c.srcRow c.done, n)] ∧ m.space < 4 ∧
           bs = (s.marked m (c.srcRow c.done) n).map (fun b => b.1) ∧ bad = anyMark (s.marked m (c.srcRow c.done) n)) →
       s.Takes c dls [(c.dstRow c.done, bs)] l →
       ∃ t, exec (.copyCommand id) s = .next t ∧ t.Advanced id c bad ∧ s.cur.OnlyIssue t.cur ∧
         s.Delivered t c dls [(c.dstRow c.done, bs)] l)) ∧
   (∀ (s : State) (c : Cmd) (r : Lookup) (ib : List Marked) (rows : List (List Marked)),
     s.engRead c.via r.idx (4 * r.count) = some ib →
     let idx := fun j => markedNat ((ib.drop (4 * j)).take 4)
     let w := r.tfmt.width / 8
     ((∃ j, j < r.count ∧ r.nrows ≤ idx j) → s.pool c r = .stop 4) ∧
     ((∀ j, j < r.count → idx j < r.nrows) → rows.length = r.count → (∀ b ∈ ib, b.2 = false) →
       (∀ j, j < r.count → s.engRead c.via (add64 r.tbase (idx j * r.stride)) (r.rowlen * w) = rows[j]?) →
       (∀ row ∈ rows, ∀ b ∈ row, b.2 = false) →
       s.pool c r = .ok (((List.range r.rowlen).map fun e => (leBytes (r.ofmt.width / 8)
         (poolElem r (c.fmt.getLsbD 3) (rows.map fun row =>
           roundFl .f32 .rne false (toFl r.tfmt (markedNat ((row.drop (w * e)).take w)))))).map fun b => (b, false)).flatten))) ∧
   (∀ (s : State) (id : Nat) (c : Cmd), s.cmd? id = some c → c.id = id → s.ready c 1 = true →
     (c.started = false → s.badLocal c = true → ∃ t, exec (.gatherPool id) s = .next t ∧ t.Ended id c 2 c.done ∧ t.mem = s.mem ∧
       t.home = s.home ∧ t.teams = s.teams) ∧
     (∀ rb r l, c.started = true → c.asked = true → s.recBytes c c.done = some rb → lookupOf (markedNat rb) = some r →
       (∀ k, s.pool c r = .stop k → ∃ t, exec (.gatherPool id) s = .next t ∧ t.Ended id c k c.done ∧ t.mem = s.mem ∧
         t.home = s.home ∧ t.teams = s.teams) ∧
       ∀ bs, s.pool c r = .ok bs →
         let out := bs.map fun b => b.1
         s.Takes c r.dls [(r.dest, out)] l →
         ∃ t, exec (.gatherPool id) s = .next t ∧ t.Advanced id c (anyMark rb && !bs.isEmpty || anyMark bs) ∧
           s.cur.OnlyIssue t.cur ∧ s.Delivered t c r.dls [(r.dest, out)] l)) ∧
   (∀ (s : State) (id : Nat) (c : Cmd) (mv : Mvec) (vs : List (List (Nat × Bool))) (rows : List (List (Fl × Bool)))
       (reads : List Sector) (l : Nat → List (Map × Nat × Nat)), s.cmd? id = some c → c.id = id → s.ready c 2 = true →
     s.mvec? c = some mv → c.vbuf = some vs → c.asked = true → s.squareRows c mv c.done = some (rows, reads) →
     let e := c.done
     let w := squareCols mv.b mv.g
     let mode := fmtMode (c.fmt.setWidth 14)
     let ftz := c.fmt.getLsbD 2
     let held := s.accsOf (mv.g.sliceOf e) c.id
     let ys := s.squareSums c mv e rows
     let bad := ys.any fun y => y.poison
     (∀ v r row, v < c.vectors → rows[r]? = some row →
       let m := e / mv.g.cols * mv.g.n + r
       let init := s.accBefore c mv held e v m
       let terms := (((vs.getD v []).drop (e % mv.g.cols * w)).take w).zip row
       let sum :=
         if mv.b = .s8 then unsigned 32 (((terms.map fun t => signed 8 t.1.1 *
           (match t.2.1 with | .fin neg k _ => if neg then -(k : Int) else k | _ => 0)).sum) + init.1)
         else terms.foldl (fun acc t => resultFl ftz .f32 mode ((toFl .f32 acc).add mode
           ((srcFl ftz (c.afmt.getD .bf16) t.1.1).mul t.2.1))) (flush ftz .f32 init.1)
       ∃ y ∈ ys, y.cmd = id ∧ y.vec = v ∧ y.row = m ∧ y.val = BitVec.ofNat 32 sum) ∧
     ((e + 1) % mv.g.cols ≠ 0 → ∃ t, exec (.matrixVector id) s = .next t ∧ t.Advanced id c bad ∧ t.cur = s.cur ∧
       t.mem = s.mem ∧ t.home = s.home ∧ t.teams = s.teams ∧ ∀ y ∈ ys, y ∈ t.accsOf (mv.g.sliceOf (e + 1)) id) ∧
     ((e + 1) % mv.g.cols = 0 →
       let ow := mv.o.width / 8
       let out := fun (y : AccEntry) =>
         if mv.o = .bf16 then convFF mode (c.fmt.getLsbD 3) .f32 .bf16 (toFl .f32 y.val.toNat) else y.val.toNat
       let runs := (List.range c.vectors).map fun v => (c.yAddr mv.g.rowsE ow v (e / mv.g.cols * mv.g.n),
         ((ys.filter fun y => y.vec == v).map fun y => leBytes ow (out y)).flatten)
       s.Takes c c.dls2 runs l → ∃ t, exec (.matrixVector id) s = .next t ∧ t.Advanced id c bad ∧ s.cur.OnlyIssue t.cur ∧
         s.Delivered t c c.dls2 runs l)) ∧
   (∀ (s : State) (id : Nat) (c : Cmd) (d : ET) (al : AccList) (h : Handle) (p : Nat) (g f : Geo) (v : Nat → Nat → Nat × Trail),
     s.cmd? id = some c → c.id = id → s.ready c 3 = true → (s.checkFold c).isSome = true → c.dfmt = some d →
     c.list = some al → s.handle? c.part c.handle = some (h, p) → s.region? c.part (c.f 16 12) d = some g →
     s.region? c.part al.geo al.et = some f →
     (c.started = false → h.fip = true → ∃ t, exec (.fold id) s = .next t ∧ t.Ended id c 6 c.done ∧ t.mem = s.mem ∧
       t.home = s.home) ∧
     (c.started = false → h.fip = false → c.superseded = false → (∀ i, i < 128 → s.oneHome 0 (p + i)) → ∃ t k,
       exec (.fold id) s = .next t ∧ t.cmd? id = some k ∧ k.started = true ∧ k.phase = .queued ∧ t.cur = s.cur ∧
       (Handle.of (t.homeNat p 128)).fip = true ∧ (Handle.of (t.homeNat p 128)).list = h.list) ∧
     (c.started = true → c.superseded = false → c.asked = true →
       let byte := fun i j k => g.physAt i j 0 + k
       let w := d.width / 8
       let row := fun r => c.done / g.cols * g.n + r
       let col := fun q => c.done % g.cols * g.n + q
       (∀ r q, r < g.n → q < g.n → s.elemT c.via al f (row r) (col q) Trail.none = .ok (v r q) ∧ (v r q).2.poison = false) →
       (∀ r q k, r < g.n → q < g.n → k < w → s.oneHome 0 (byte (row r) (col q) k)) →
       (∀ r q k r' q' k', r < g.n → q < g.n → k < w → r' < g.n → q' < g.n → k' < w →
         byte (row r) (col q) k = byte (row r') (col q') k' → r = r' ∧ q = q' ∧ k = k') →
       ∃ t k, exec (.fold id) s = .next t ∧ t.cmd? id = some k ∧ k.done = c.done + 1 ∧ k.poisoned = c.poisoned ∧
         k.phase = (if c.done + 1 = c.total then .swapping else .queued) ∧ s.cur.OnlyIssue t.cur ∧ t.teams = s.teams ∧
         ∀ r q, r < g.n → q < g.n →
           t.homeNat (byte (row r) (col q) 0) w = outOf (c.fmt.getLsbD 3) d (v r q).1 % 2 ^ (8 * w))) ∧
   (∀ (s : State) (id : Nat) (c : Cmd) (d : ET) (l : AccList) (p : Nat) (m : Map), s.cmd? id = some c → c.id = id →
     c.cls = 3 → c.phase = .swapping → (s.clock.cycle < c.due → exec (.foldSwap id) s = .next s) ∧
     (c.due ≤ s.clock.cycle → c.superseded = false → c.poisoned = false → c.dfmt = some d → c.list = some l →
       s.handleAt c.part c.handle = some p → s.eng.waiters = [] →
       let old := Handle.of (s.homeNat p 128)
       let gone := l.notes.length - c.gone
       let s1 := (s.putHome p (leBytes 128 (swapRecord (s.homeNat p 128) (c.f 16 12) d gone))).foldedAway c gone
       s1.viaMap c.via l.sync.toNat 8 true = .ok m → m.space < 3 → old.ncount ≤ 8 → p + 128 ≤ 2 ^ 48 →
       (∀ i, i < 128 → s.oneHome 0 (p + i)) → (∀ i, i < 8 → s.oneHome m.space (m.phys (l.sync.toNat + i))) →
       (∀ i j, i < 8 → j < 8 → m.phys (l.sync.toNat + i) = m.phys (l.sync.toNat + j) → i = j) →
       (∀ i j, i < 128 → j < 8 → p + i ≠ m.phys (l.sync.toNat + j)) →
       ∃ t, exec (.foldSwap id) s = .next t ∧ t.Ended id c 0 c.total ∧ t.cur = s.cur ∧
         leNat (t.mapBytes m l.sync.toNat 8) = (old.list.version + 1).toNat ∧
         (let new := Handle.of (t.homeNat p 128)
         new.fip = false ∧ new.list.version = old.list.version + 1 ∧ new.list.geo = c.f 16 12 ∧
           new.list.fmt = (if d = .e4m3 then 1 else 0) ∧ new.list.notes = old.list.notes.drop gone ∧
           new.list.sync = old.list.sync ∧ new.list.sbase = 0 ∧ new.list.bbase = 0 ∧ new.v = old.v))) ∧
   (∀ (s : State) (id : Nat) (c : Cmd) (l : List Nat) (own : List Marked), s.cmd? id = some c → c.id = id →
     s.ready c 4 = true → s.collBehind c = false → s.ranks c = some l →
     s.engRead c.via c.sbuf (c.count * c.collBytes) = some own → s.collEnd? c l = none → c.asked = true →
     let me := s.fabric.devid.toNat
     (c.sent = false → ∃ t k, exec (.collective id) s = .next t ∧ t.mem = s.mem ∧ t.home = s.home ∧
       t.cur = s.cur ∧ t.cmd? id = some k ∧ k.phase = .queued ∧ k.sent = true ∧
       (s.noRoute = false → ∀ d ∈ l, d ≠ me → d < 2 ^ 22 → ∃ f ∈ t.fabric.outbox, f.op = 0x08 ∧ f.dst.toNat = d ∧
         f.src = s.fabric.devid ∧ leNat (f.payload.take 4) = c.f 448 32)) ∧
     (c.sent = true → s.collParts c l = none → exec (.collective id) s = .next s) ∧
     (∀ ps k, c.sent = true → s.collParts c l = some ps →
       let head := c.announce l
       let bits := markBits c.collBytes own
       (∀ p ∈ ps, p.bytes.take head.length = head ∧ p.bytes.length = head.length + own.length + bits.length) →
       let data := l.map fun d => if d = me then own
         else ((ps.find? fun p => p.src.toNat == d).map fun p => unmark c.collBytes own.length (p.bytes.drop head.length)).getD []
       let out := c.collResult (l.findIdx fun d => d == me) data
       let runs := [(c.dbuf, out.map fun b => b.1)]
       s.Takes c false runs k → ∃ t, exec (.collective id) s = .next t ∧
         t.Ended id c (if anyMark out = true then 3 else 0) c.total ∧ s.cur.OnlyIssue t.cur ∧ s.Delivered t c false runs k)))

/-! ### Traversal, filtering, raster (spec/06, spec/21) -/

/-- O39: `rsend` and a ray's way (R411, R95, R101-R108): the executing threads' rays become one batch, each on its way to the
queue of treelet 0, or its record at once; a ray that arrives joins its queue, on-die where there is room; an engine takes up to
8 from the queue it chooses; a pass gives each held ray one test, after which it stays, moves on, or ends with its final record;
records are released in the order of their slots where the stage has room. A scene above 255 is refused with 0x07, a stage that
is no hit stage of the issuing one with 0x0B. -/
def Obligations.RayTraversal : Prop :=
  (∀ (s : State) (fn : RayMode) (x : Ord), s.cur.exec x.pred ≠ 0 →
    s.cur.namesCodes ((List.range 4).map fun i => x.a.code + i) = true → s.uniformIn x.pred (bRegs x) = true →
    let e := s.cur.exec x.pred
    let n := count e
    let b := (s.b0 x).toNat
    let st := x.imm.toNat % 16
    let die := s.cur.id.die
    let core := s.cur.id.core
    (s.trappable = true → s.cur.allNamed (bRegs x) = true → s.funds n = true →
      (256 ≤ b → Refuses (.rsend fn x) s x.pred 0x07) ∧
      (b < 256 → s.hitStage? st = false → Refuses (.rsend fn x) s x.pred 0x0B)) ∧
    (s.issues (bRegs x) n = true → s.cur.sp.st = 0 → b < 256 → s.hitStage? st = true → ∀ m u w u2,
      let va := (s.part s.cur.part).scnbase.toNat + 128 * b
      s.checkGlobal (BitVec.ofNat 64 va) 128 false true = (.ok m, u) → m.space < 4 →
      let rec_ := leNat (u.coreBytes die core m va 128)
      let u1 := u.touch die core m va 128 0
      u1.checkGlobal (BitVec.ofNat 64 (field rec_ 0 64)) 8 false true = (.ok w, u2) → w.plain = true → w.isLocal = true →
      let gen := leNat (u2.mapBytes w (field rec_ 0 64) 8) % 2 ^ 20
      let slot := field rec_ (256 + 192 * (gen % 4)) 192
      let u3 := u2.acquireBound (w.wordKey (field rec_ 0 64)) 3
      rec_.testBit 64 = true → field slot 128 20 = gen → u3.raysFit s.cur n = true →
      let ray := fun j => u3.newRay fn x.a.code j b gen st u3.nextId slot
      let count_ := u3.tablePhys s.cur.part (va + 52 + 24 * (gen % 4))
      ∃ t bt, exec (.rsend fn x) s = .next t ∧ t.cur.v = s.cur.v ∧ t.cur.g = s.cur.g ∧ t.cur.k = s.cur.k ∧
        s.BytesBut t (fun a => ∃ p, count_ = some p ∧ p ≤ a ∧ a < p + 4) ∧ t.teams = s.teams ∧ t.cur.batch = (s.cur.batch + 1) % 256 ∧
        (t.part s.cur.part).raysUsed = (s.part s.cur.part).raysUsed + n ∧
        t.cur.sp = s.cur.sp.after s.cur.sp.fmt (lenOf x) (s.clock.cycle + n) ∧
        t.eng.batches = s.eng.batches ++ [bt] ∧ bt.g = s.cur.id ∧ bt.launch = s.cur.launch ∧ bt.slots = e ∧
        (∀ p, count_ = some p → (∀ i, i < 4 → u3.oneHome 0 (p + i)) → t.homeNat p 4 = (u3.homeNat p 4 + n) % 2 ^ 32) ∧
        ∀ j, inMask e j = true →
          ((ray j).idle = true → ∃ id h, Tab.get? id t.eng.records = some h ∧ h.bid = bt.bid ∧ h.slot = j ∧
            h.final = true ∧ h.stage = st ∧ h.bytes = (ray j).final 0) ∧
          ((ray j).idle = false → ∀ tr, u3.treelet (ray j) die 0 = .ok tr → ∃ id r k, Tab.get? id t.eng.rays = some r ∧
            r.bid = bt.bid ∧ r.slot = j ∧ r.place = .flying tr.stack 0 k ∧ r.org = (ray j).org ∧ r.dir = (ray j).dir ∧
            r.tmin = (ray j).tmin ∧ r.tmax = (ray j).tmax ∧ r.mode = fn ∧ r.scene = b ∧ r.gen = gen ∧ r.hitStage = st))) ∧
  (∀ (s : State) (id stack treelet k : Nat) (r : Ray), Tab.get? id s.eng.rays = some r → r.place = .flying stack treelet k →
    let mine := fun (e : Nat × Ray) => e.2.inQueue stack && e.2.queueKey == r.queueKey
    let on := s.eng.rays.countP fun e => mine e && e.2.onDie stack
    let spill := (s.eng.rays.any fun e => mine e && !e.2.onDie stack) || r.qcap ≤ on
    (s.nextArrival ≠ some id → exec (.rayArrival id) s = .next s) ∧
    (s.nextArrival = some id → ∃ t q, exec (.rayArrival id) s = .next t ∧ t.cur = s.cur ∧ t.mem = s.mem ∧ t.home = s.home ∧
      Tab.get? id t.eng.rays = some q ∧ q = { r with place := .queued stack treelet spill false, arrived := s.clock.cycle,
                                                     order := q.order } ∧
      ∀ i, i ≠ id → Tab.get? i t.eng.rays = Tab.get? i s.eng.rays)) ∧
  (∀ (s : State) (stack engine : Nat), (s.eng.rays.map fun e => e.1).Nodup →
    let l := (s.chosenQueue stack).take 8
    ((4 ≤ engine ∨ s.heldRays stack engine ≠ [] ∨ l = []) → exec (.engineTake stack engine) s = .next s) ∧
    (engine < 4 → s.heldRays stack engine = [] → l ≠ [] → ∃ t, exec (.engineTake stack engine) s = .next t ∧ t.cur = s.cur ∧
      t.mem = s.mem ∧ t.home = s.home ∧
      (∀ e ∈ l, ∃ r, Tab.get? e.1 t.eng.rays = some r ∧ r.place = .held stack engine ∧
        r.due = s.clock.cycle + 2 * l.length ∧ r.org = e.2.org ∧ r.dir = e.2.dir ∧ r.stack = e.2.stack) ∧
      ∀ i r, Tab.get? i s.eng.rays = some r → (∀ e ∈ l, e.1 ≠ i) → ∃ q, Tab.get? i t.eng.rays = some q ∧
        (q = r ∨ (r.isSpilled = true ∧ q.isMoving = true ∧ q.org = r.org)))) ∧
  (∀ (s : State) (stack engine : Nat), (s.eng.rays.map fun e => e.1).Nodup →
    (∀ e ∈ s.eng.rays, e.1 < s.nextId) → (∀ e ∈ s.eng.records, e.1 < s.nextId) →
    let l := s.heldRays stack engine
    let die := stack / 3
    let after := fun (k : List (Nat × Ray)) => (State.passAll stack engine (s.clock.cycle - 2 * l.length) 0 k s).2
    ((l = [] ∨ ∃ e ∈ l, s.clock.cycle < e.2.due ∨ s.requestsLeft e.1 = true) → exec (.traversalPass stack engine) s = .next s) ∧
    (l ≠ [] → (∀ e ∈ l, e.2.due ≤ s.clock.cycle ∧ s.requestsLeft e.1 = false) →
      ∃ t, exec (.traversalPass stack engine) s = .next t ∧ t.cur = s.cur ∧ t.teams = s.teams ∧ s.BytesBut t (fun _ => False) ∧
      (∀ i r, Tab.get? i s.eng.rays = some r → r.place ≠ .held stack engine → Tab.get? i t.eng.rays = some r) ∧
      let ends := fun (id : Nat) (r : Ray) status => Tab.get? id t.eng.rays = none ∧ ∃ k h, Tab.get? k t.eng.records = some h ∧
        h.bid = r.bid ∧ h.slot = r.slot ∧ h.final = true ∧ h.bytes = r.final status
      ∀ l1 e l2, l = l1 ++ e :: l2 →
        (∀ st, (after l1).testRay e.2 die = .error st → ends e.1 e.2 st) ∧
        ∀ d, (after l1).testRay e.2 die = .ok d →
          (d.go.2 = .stay → ∃ q, Tab.get? e.1 t.eng.rays = some q ∧ q = { d.go.1 with due := q.due }) ∧
          (∀ st, d.go.2 = .finish st → ends e.1 d.go.1 st) ∧
          ∀ k, d.go.2 = .forward k →
            (∀ st, (after l).treelet d.go.1 die k = .error st → ends e.1 d.go.1 st) ∧
            ∀ tr, (after l).treelet d.go.1 die k = .ok tr → ∃ q, Tab.get? e.1 t.eng.rays = some q ∧ q.treelet = k ∧
              q.place = .flying tr.stack k (stack * 4 + engine) ∧ q.org = e.2.org ∧ q.stack = d.go.1.stack)) ∧
  (∀ (s : State) (stack queue : Nat), ∃ t, exec (.spillMoveIn stack queue) s = .next t ∧ t.cur = s.cur ∧ t.mem = s.mem ∧
    ∀ i r, Tab.get? i s.eng.rays = some r → Tab.get? i t.eng.rays = some
      (match r.place with
        | .queued k tr true true => if k = stack ∧ r.queueKey = queue ∧ r.due ≤ s.clock.cycle
            then { r with place := .queued k tr false false } else r
        | _ => r)) ∧
  (∀ (s : State) (id : Nat) (h : HitRec) (b : Batch) (l : Launch) (st : Stage), Tab.get? id s.eng.records = some h →
    (s.clock.cycle < h.due → exec (.recordArrival id) s = .next s) ∧
    (h.due ≤ s.clock.cycle → s.eng.batches.filter (fun c => c.bid == h.bid) = [b] →
      (s.eng.records.filter fun e => e.2.bid == h.bid) = [(id, h)] → h.slot < 32 →
      s.launch? h.launch = some l → l.ended = false → Tab.get? h.stage l.stages = some st → h.blocked = false →
      (lowest b.slots ≠ h.slot → ∃ t, exec (.recordArrival id) s = .next t ∧ t.launches = s.launches ∧
        Tab.get? id t.eng.records = some { h with arrived := true }) ∧
      (lowest b.slots = h.slot → st.cap ≤ st.queue.length → ∃ t, exec (.recordArrival id) s = .next t ∧
        t.launches = s.launches ∧ Tab.get? id t.eng.records = some { h with arrived := true, blocked := true }) ∧
      (lowest b.slots = h.slot → inMask b.slots h.slot = true → st.queue.length < st.cap →
        ∃ t m, exec (.recordArrival id) s = .next t ∧ Tab.get? id t.eng.records = none ∧ t.launch? h.launch = some m ∧
          Tab.get? h.stage m.stages = some { st with queue := st.queue ++ [⟨h.bytes, 0, s.clock.time⟩] } ∧
          (h.final = true → (t.part h.part).raysUsed = (s.part h.part).raysUsed - 1 ∧
            ∀ c ∈ t.eng.batches, c.bid = h.bid → inMask c.slots h.slot = false) ∧
          (h.final = false → t.eng.batches = s.eng.batches ∧ t.home = s.home))))

/-- O40: `tex`, `hgrid` and the filter engine (R410, R412, R110-R114): each accessing thread asks with its coordinates and its
descriptor, the split is held, and L is one higher; at the engine the results become the pending writes of the operation, two
`f32` values to a register, the split goes on, and a thread whose read failed keeps it held with its fault. A coordinate that is
no finite number gives the canonical NaN. `rast` and the raster engine (R413, R115-R118): the draw is queued with C one higher;
a draw that clears leaves at each pixel of a front-facing triangle that covers its centre the triangle's ID and depth, where
they replace the empty ones, and the empty values elsewhere; a reprojection keeps or redoes each pixel; the completion record is
written, and C falls. Lengths, levels and transfers that the spec states no single rounding for are those of log entry 7. -/
def Obligations.FilterAndRaster : Prop :=
  ((∀ (s : State) (x : Ord), s.cur.exec x.pred ≠ 0 → s.cur.cntL < 62 →
     let e := s.cur.exec x.pred
     let n := max 1 (count e)
     let addr := fun j => s.cur.bopd .zero x.et x.b j
     let coords := fun k j => (List.range k).map fun i => s.cur.vget (x.a.code + i) j
     (s.issues (bRegs x) n = true → s.cur.namesCodes ((List.range 3).map fun i => x.a.code + i) = true →
       s.cur.namesFrom x.d.code 2 = true → (x.d.isG = true → s.uniformIn x.pred (aOpds x 3 ++ bRegs x) = true) →
       ∀ l u, planAll (fun s t => s.checkTex x t) (fun s t => s.cur.bopd .zero x.et x.b t) (s.accessors x x.d.isG) s = (l, [], u) →
       ∃ t op reqs, exec (.tex x) s = .next t ∧ s.OnlyMemory t ∧ s.BytesBut t (fun _ => False) ∧ t.teams = s.teams ∧
         s.Outstanding t x n 0 op true ∧ op.kind = .filter false reqs x.d.code ∧ op.writes = [] ∧
         reqs = (s.accessors x x.d.isG).map fun j => (j, coords 3 j, leNat (u.mapBytes
           (((l.find? fun q => q.thread == j).map fun q => q.map).getD Map.local_) (addr j).toNat 32))) ∧
     (s.issues (bRegs x) n = true → s.cur.namesCodes ((List.range 2).map fun i => x.a.code + i) = true →
       s.uniformIn x.pred (bRegs x ++ (if x.d.isG then aOpds x 2 else [])) = true →
       ∀ m u, s.checkGlobal (s.b0 x) 64 false false = (.ok m, u) → m.space < 4 →
       let desc := leNat (u.mapBytes m (s.b0 x).toNat 64)
       s.cur.namesFrom x.d.code 1 = true → s.cur.namesFrom x.d.code (Grid.of desc).regs = true → (Grid.of desc).bad = false →
       (∀ j, inMask e j = true → s.cur.isDenied j = false) →
       ∃ t op reqs, exec (.hgrid x) s = .next t ∧ s.OnlyMemory t ∧ s.BytesBut t (fun _ => False) ∧ t.teams = s.teams ∧
         s.Outstanding t x n 0 op true ∧ op.kind = .filter true reqs x.d.code ∧ op.writes = [] ∧
         reqs = (s.accessors x x.d.isG).map fun j => (j, coords 2 j, desc))) ∧
   (∀ (s : State) (id : Nat) (o : Op) h reqs d (g : Group) (l : Launch), Tab.get? id s.eng.ops = some o → o.kind = .filter h reqs d →
     (s.clock.cycle < o.due → exec (.filterRequest id) s = .next s) ∧
     (o.due ≤ s.clock.cycle → s.launch? o.launch = some l → s.group? o.g = some g → o.faults = [] → o.writes = [] →
       g.dbg.getLsbD 8 = false →
       let free := fun (t : Nat) => s.free + t * filtFree
       let res := fun (r : Nat × List Word × Nat) =>
         if h then s.gridResult o l.part r.2.1 r.2.2 (free r.1) else s.texResult o l.part r.2.1 r.2.2 (free r.1)
       (∀ vals : Nat → List Nat, (∀ r ∈ reqs, ∃ bad, res r = .ok (vals r.1, bad)) →
         ∃ t o1 h1, exec (.filterRequest id) s = .next t ∧ Tab.get? id t.eng.ops = some o1 ∧ o1.kind = .load ∧ o1.faults = [] ∧
           o1.counter = o.counter ∧ o1.due = s.clock.cycle + 480 ∧
           o1.writes = (reqs.map fun r => (pairWords (vals r.1)).zipIdx.map fun v => (⟨r.1, d + v.2, v.1⟩ : Landing)).flatten ∧
           s.BytesBut t (fun _ => False) ∧ t.teams = s.teams ∧ t.group? o.g = some h1 ∧
           h1 = g.mapSplits (Split.release id o.len s.clock.cycle)) ∧
       ∀ r c va, r ∈ reqs → res r = .error (c, va) → ∃ t o1, exec (.filterRequest id) s = .next t ∧
         Tab.get? id t.eng.ops = some o1 ∧ ⟨r.1, c, BitVec.ofNat 64 va⟩ ∈ o1.faults ∧ t.group? o.g = some g)) ∧
   (∀ (s : State) (o : Op) (part : Nat) (cs : List Word) (desc free : Nat),
     ((toFl .f32 ((cs.getD 0 0).toNat % 2 ^ 32)).finite = false ∨ (toFl .f32 ((cs.getD 0 0).toNat / 2 ^ 32)).finite = false) →
       s.texResult o part cs desc free = .ok ([0x7FC00000, 0x7FC00000, 0x7FC00000, 0x7FC00000], .nothing))) ∧
  ((∀ (s : State) (x : Ord), s.runsU x [x.a] = true →
     let a := (s.a0 x).toNat
     (62 ≤ s.cur.cntC → exec (.rast x) s =
       .next { s with cur := { s.cur with sp := { s.cur.sp with wait := .counterFull 2 } } }) ∧
     (s.cur.cntC < 62 → a % 64 = 0 → ∀ m u, s.checkGlobal (s.a0 x) 64 false true = (.ok m, u) → m.space < 4 →
       ∃ t d, exec (.rast x) s = .next t ∧ s.OnlyMemory t ∧ s.BytesBut t (fun _ => False) ∧ t.teams = s.teams ∧
         t.cur.cntC = s.cur.cntC + 1 ∧ t.eng.draws = s.eng.draws ++ [d] ∧ d.die = s.cur.id.die ∧ d.g = s.cur.id ∧
         d.launch = s.cur.launch ∧ d.part = s.cur.part ∧ d.phase = .queued ∧
         d.rec_ = leNat (u.coreBytes s.cur.id.die s.cur.id.core m a 64) ∧
         t.cur.sp = s.cur.sp.after s.cur.sp.fmt (lenOf x) (s.clock.cycle + s.ucost x [x.a]))) ∧
   (∀ (s : State) (die : Nat) (d : Draw), s.nextDraw die = some d →
     let ends := fun (t : State) status pixels redo => ∃ k ∈ t.eng.draws, k.phase = .finished ∧ k.status = status ∧
       k.pixels = pixels ∧ k.redo = redo ∧ k.g = d.g ∧ k.launch = d.launch ∧ k.rec_ = d.rec_
     ((d.reprojects = true ∨ s.clock.cycle < d.due) → exec (.rasterDraw die) s = .next s) ∧
     ((d.reprojects = false ∨ s.clock.cycle < d.due) → exec (.reproject die) s = .next s) ∧
     (d.due ≤ s.clock.cycle → s.planes d = none →
       (d.reprojects = false → ∃ t, exec (.rasterDraw die) s = .next t ∧ ends t 2 0 0 ∧ t.home = s.home ∧ t.mem = s.mem) ∧
       (d.reprojects = true → ∃ t, exec (.reproject die) s = .next t ∧ ends t 2 0 0 ∧ t.home = s.home ∧ t.mem = s.mem)) ∧
     (d.due ≤ s.clock.cycle → ∀ q, s.planes d = some q →
       let px := fun (g : Geo) (t : State) (i j : Nat) => t.homeNat (g.physAt i j 0) g.esz
       let apart := fun (g h : Geo) => ∀ i j k i' j' k', i < g.rowsE → j < g.colsE → k < g.esz → i' < h.rowsE → j' < h.colsE →
         k' < h.esz → g.physAt i j 0 + k ≠ h.physAt i' j' 0 + k'
       let distinct := fun (g : Geo) => ∀ i j k i' j' k', i < g.rowsE → j < g.colsE → k < g.esz → i' < g.rowsE → j' < g.colsE →
         k' < g.esz → g.physAt i j 0 + k = g.physAt i' j' 0 + k' → i = i' ∧ j = j' ∧ k = k'
       let low := fun (g : Geo) => ∀ i j k, i < g.rowsE → j < g.colsE → k < g.esz → g.physAt i j 0 + k < 2 ^ 48 ∧
         s.oneHome 0 (g.physAt i j 0 + k)
       let within := fun (g : Geo) (p : Nat) => ∃ i j k, i < g.rowsE ∧ j < g.colsE ∧ k < g.esz ∧ p = g.physAt i j 0 + k
       distinct q.id → distinct q.dep → apart q.id q.dep → low q.id → low q.dep → q.id.esz = 4 → q.dep.esz = 4 →
       (d.reprojects = false → d.clears = true → d.useMask = false → d.ntri = 1 →
         ∀ bs a b c, (s.clearPlanes q).engRead d.via (add64 d.tris 0) 48 = some bs → (∀ y ∈ bs, y.2 = false) →
         let tri := triOf bs
         tri.vertex 0 = some a → tri.vertex 1 = some b → tri.vertex 2 = some c → tri.id ≠ emptyId → 0 < area2 a b c →
         d.cull ≠ 2 → (∀ v ∈ [a, b, c], (toFl .f32 v.z).finite = true) → q.dep.rowsE = q.id.rowsE → q.dep.colsE = q.id.colsE →
         let z := fun i j => depthAt a b c (256 * (j : Int) + 128) (256 * (i : Int) + 128) 0
         let covers := fun (i j : Nat) => [(a, b), (b, c), (c, a)].all fun v =>
           let e := edgeAt v.1 v.2 (256 * (j : Int) + 128) (256 * (i : Int) + 128)
           decide (0 < e) || (e == 0 && ((v.1.y == v.2.y && decide (v.1.x < v.2.x)) || decide (v.2.y < v.1.y)))
         let draws := fun i j => covers i j && replaces (z i j) tri.id f32Inf emptyId
         ∃ t, exec (.rasterDraw die) s = .next t ∧
           ends t 0 ((q.id.pixels.filter fun e => draws e.1 e.2).length) 0 ∧ s.cur.OnlyIssue t.cur ∧ t.teams = s.teams ∧
           s.BytesBut t (fun p => within q.id p ∨ within q.dep p) ∧
           ∀ i j, i < q.id.rowsE → j < q.id.colsE →
             px q.id t i j = (if draws i j then tri.id else emptyId) % 2 ^ 32 ∧
             px q.dep t i j = (if draws i j then z i j else f32Inf) % 2 ^ 32) ∧
       (d.reprojects = true → distinct q.mask → apart q.id q.mask → apart q.dep q.mask → low q.mask → q.mask.esz = 1 →
         q.dep.rowsE = q.id.rowsE → q.dep.colsE = q.id.colsE → q.mask.rowsE = q.id.rowsE → q.mask.colsE = q.id.colsE →
         let kept := fun i j => (s.keeps d q (i, j)).1
         ∃ t status, exec (.reproject die) s = .next t ∧ s.cur.OnlyIssue t.cur ∧ t.teams = s.teams ∧
           s.BytesBut t (fun p => within q.id p ∨ within q.dep p ∨ within q.mask p) ∧
           ends t status (q.id.rowsE * q.id.colsE) ((q.id.pixels.filter fun e => (kept e.1 e.2).isNone).length) ∧
           ∀ i j, i < q.id.rowsE → j < q.id.colsE →
             (∀ id z, kept i j = some (id, z) → px q.id t i j = id % 2 ^ 32 ∧ px q.dep t i j = z % 2 ^ 32 ∧ px q.mask t i j = 0) ∧
             (kept i j = none → px q.id t i j = emptyId ∧ px q.dep t i j = f32Inf ∧ px q.mask t i j = 1)))) ∧
   (∀ (s : State) (die : Nat) (d : Draw) (m : Map), s.doneDraw die = some d →
     ((s.clock.cycle < d.due ∨ s.requestsLeft (drawKey die) = true) → exec (.drawCompletion die) s = .next s) ∧
     (d.due ≤ s.clock.cycle → s.requestsLeft (drawKey die) = false → d.compl % 32 = 0 →
       s.unitMap d.part d.compl 32 true = .ok m → m.space < 3 → (∀ i, i < 32 → s.oneHome m.space (m.phys (d.compl + i))) →
       s.eng.waiters = [] → d.status < 2 ^ 32 →
       (∀ i j, i < 32 → j < 32 → m.phys (d.compl + i) = m.phys (d.compl + j) → i = j) →
       ∃ t, exec (.drawCompletion die) s = .next t ∧ t.teams = s.teams ∧
         (let r := leNat (t.mapBytes m d.compl 32)
         field r 0 32 = d.status ∧ field r 32 32 = d.pixels % 2 ^ 32 ∧ field r 64 32 = d.redo % 2 ^ 32 ∧
           field r 96 32 = d.rejected % 2 ^ 32 ∧ field r 128 128 = 0) ∧
         t.eng.draws.length + 1 = s.eng.draws.length ∧
         ∀ g, s.group? d.g = some g → ∃ h, t.group? d.g = some h ∧ h.cntC = g.cntC - 1 ∧ h.cntL = g.cntL ∧ h.v = g.v)))

/-! ### System instructions (spec/21) -/

/-- O41: `rdsr` and `wrsr`, and the same writes as events (R415, R416, R205, R212): a permitted read gives D what the register
holds; a permitted write of a good value leaves it in its register and every other register alone; an access without privilege
is refused with 0x07, a bad value with the cause of its register. -/
def Obligations.SpecialRegisters : Prop :=
  (∀ (s : State) (x : Ord),
    let n := selOf x
    (s.runs x [] = true → s.mayRead n = true → (n = 0x042 → s.cur.holdsDbg = true) →
      Completes (.rdsr x) s x [] false (fun j r => r = s.special n j)) ∧
    (s.trappable = true → s.cur.allNamed [x.d] = true → s.mayRead n = false → selDebug n = false →
      Refuses (.rdsr x) s x.pred 0x07) ∧
    (s.runsU x [x.a] = true → s.mayWrite n = true → s.writeCause n (s.a0 x) = none →
      (n = 0x041 → (s.a0 x).getLsbD 8 = true → field (s.a0 x).toNat 9 2 ≠ 2) →
      ∃ t, exec (.wrsr x) s = .next t ∧ s.WroteSpecial t n (s.a0 x) ∧ t.cur.sp.mask = s.cur.sp.mask ∧
        t.cur.sp.pc = s.cur.sp.pc + BitVec.ofNat 48 (lenOf x) ∧ t.cur.sp.st = 0) ∧
    (s.trappable = true → s.cur.allNamed [x.a] = true → s.mayWrite n = false → selAlarm n = false →
      Refuses (.wrsr x) s x.pred 0x07) ∧
    (∀ c, s.trappable = true → s.cur.allNamed [x.a] = true → s.uniformIn x.pred [x.a] = true →
      s.cur.exec x.pred ≠ 0 → s.funds 1 = true → s.mayWrite n = true → s.writeCause n (s.a0 x) = some c →
      Refuses (.wrsr x) s x.pred c)) ∧
  (∀ (s : State) (v : Word), s.cur.live = true → s.cur.spLive = true →
    let writes := fun (i : Instr) n => s.mayWrite n = true → s.writeCause n v = none → (n = 0x041 → v.getLsbD 8 = true → field v.toNat 9 2 ≠ 2) →
      ∃ t, exec i s = .next t ∧ s.WroteSpecial t n v ∧ t.cur.sp.pc = s.cur.sp.pc ∧ t.cur.bgt = s.cur.bgt
    writes (.dbgWrite v) 0x041 ∧ writes (.dbgvalWrite v) 0x042 ∧ writes (.lszWrite v) 0x031 ∧ writes (.tvecWrite v) 0x034 ∧
      (∀ k : Fin 12, writes (.rwinWrite k v) (0x120 + k.val)) ∧ (∀ k : Fin 7, writes (.tableBaseWrite k v) (0x110 + k.val)) ∧
      (∀ sel, selKnown sel.toNat = true → writes (.registerWrite (.special sel) v) sel.toNat)) ∧
  (∀ (s : State) (fn : Nat) (v : Word), ∃ t, exec (.registerWrite (.priAllocation fn) v) s = .next t ∧ t.cur = s.cur ∧
    t.mem = s.mem ∧ Tab.get? fn t.host.priAlloc = some v.toNat ∧ fn ∉ t.host.priOff) ∧
  (∀ (s : State) (j : Nat), s.special 0x000 j = BitVec.ofNat 64 j ∧ s.special 0x001 j = BitVec.ofNat 64 s.cur.gix ∧
    s.special 0x014 j = s.cur.sp.mask.setWidth 64 ∧ s.special 0x020 j = s.clock.time ∧ s.special 0x022 j = s.cur.dl ∧
    s.special 0x010 j = s.cur.sp.fmt.setWidth 64 ∧ s.special 0x033 j = s.cur.tcause.setWidth 64 ∧
    s.special 0x021 j = BitVec.ofNat 64 (s.cur.bgt.toNat % 2 ^ 32) ∧
    (∀ k, k < 16 → s.special (0x080 + k) j = Tab.getD s.cur.q k 0) ∧
    (∀ k, k < 7 → s.special (0x110 + k) j = (s.part s.cur.part).base k))

/-- O42: `pfmap`, `tlbinv`, walks, invalidations from the host and answers to page requests (R418-R420, R217, R218, R132, R133).
Outside handler mode the two instructions are refused with 0x07; with a free frame `pfmap` answers 0, the 16 entries of the page
name the frame, which reads zero, and TOP is one less, and with another status nothing changes; `tlbinv` leaves no translation
of the range in the scope's TLBs and no queued command that pins a page of it, and waits for the accesses that used one. That
the answer Success makes the leaf present is the model's reading (log entry 29). -/
def Obligations.PageMappings : Prop :=
  (∀ (s : State) (x : Ord), s.trappable = true →
    (s.cur.allNamed (x.d :: srcAB x) = true → Refuses (.pfmap x) s x.pred 0x07) ∧
    (s.cur.allNamed (srcAB x) = true → Refuses (.tlbinv x) s x.pred 0x07)) ∧
  (∀ (s : State) (x : Ord) (r : Fin 32), s.cur.hand.isSome = true → s.runsU x (srcAB x) = true →
    s.cur.allNamed (x.d :: srcAB x) = true → x.d = .g r →
    let a := (s.a0 x).toNat
    let b := (s.b0 x).toNat
    let part := s.cur.part
    let pool := (s.part part).poolbase.toNat
    let root := (s.part part).ptroot.toNat
    let went := fun (t : State) code => s.GotG t r (BitVec.ofNat 64 code) ∧ t.teams = s.teams ∧
      t.cur.sp = s.cur.sp.after s.cur.sp.fmt (lenOf x) (s.clock.cycle + s.ucost x (srcAB x))
    (∀ d, s.poolDesc part = some d →
      let top := field d 0 32
      let frame := s.frameAt part (field d 64 64 + 8 * (top - 1))
      let good := a < 2 ^ 52 ∧ b < 16 ∧ field d 128 384 = 0 ∧ top ≤ field d 32 32
      (¬good ∨ (top ≠ 0 ∧ frame = none) → ∃ t, exec (.pfmap x) s = .next t ∧ went t 5 ∧ t.mem = s.mem ∧ t.home = s.home) ∧
      (good → (top ≠ 0 → frame.isSome = true) →
        (s.level0At part a 3 root = none → ∃ t, exec (.pfmap x) s = .next t ∧ went t 4 ∧ t.mem = s.mem ∧ t.home = s.home) ∧
        ∀ table, s.level0At part a 3 root = some table →
          let e := s.homeNat (table + 8 * (a / 4096 % 512)) 8
          (bitAt e 0 = true → ∃ t, exec (.pfmap x) s = .next t ∧ went t 3 ∧ t.mem = s.mem ∧ t.home = s.home) ∧
          (bitAt e 0 = false → bitAt e 9 = false →
            ∃ t, exec (.pfmap x) s = .next t ∧ went t 2 ∧ t.mem = s.mem ∧ t.home = s.home) ∧
          (bitAt e 0 = false → bitAt e 9 = true → top = 0 →
            ∃ t, exec (.pfmap x) s = .next t ∧ went t 1 ∧ t.mem = s.mem ∧ t.home = s.home) ∧
          (bitAt e 0 = false → bitAt e 9 = true → top ≠ 0 → ∀ f m, frame = some f → s.memWf = true →
            s.unitMap part pool 4 true = .ok m → m.space < 3 → (∀ i, i < 64 → s.fenced (f + 1024 * i) = false) →
            let leaves := table + 8 * (a / 65536 * 16 % 512)
            let inFrame := fun p => f ≤ p ∧ p < f + 65536
            (∀ i, i < 4 → ¬inFrame (m.phys (pool + i))) → (∀ i, i < 128 → ¬inFrame (leaves + i)) → f + 65536 ≤ 2 ^ 48 →
            leaves + 128 ≤ 2 ^ 48 →
            (∀ i j, i < 4 → j < 4 → m.phys (pool + i) = m.phys (pool + j) → i = j) →
            (∀ i j, i < 4 → j < 128 → m.phys (pool + i) ≠ leaves + j) →
            (∀ i, i < 4 → s.oneHome m.space (m.phys (pool + i))) → (∀ i, i < 128 → s.oneHome 0 (leaves + i)) →
            ∃ t, exec (.pfmap x) s = .next t ∧ went t 0 ∧ leNat (t.mapBytes m pool 4) = top - 1 ∧
              (∀ i, i < 65536 → t.homeByte 0 (f + i) = 0) ∧
              ∀ i, i < 16 → let l := t.homeNat (leaves + 8 * i) 8
                bitAt l 0 = true ∧ field l 1 3 = field b 0 3 ∧ bitAt l 4 = false ∧ bitAt l 5 = true ∧
                  bitAt l 6 = bitAt b 3 ∧ bitAt l 8 = true ∧ bitAt l 9 = true ∧ field l 12 36 * 2 ^ 12 = f ∧
                  field l 58 6 = part % 64))) ∧
    (s.poolDesc part = none → ∃ t, exec (.pfmap x) s = .next t ∧ went t 5 ∧ t.mem = s.mem ∧ t.home = s.home)) ∧
  (∀ (s : State) (x : Ord), s.cur.hand.isSome = true → s.runsU x (srcAB x) = true → (s.a0 x).toNat < 2 ^ 52 →
    let part := s.cur.part
    let scope := x.moda.toNat
    let lo := if s.b0 x = 0 then 0 else (s.a0 x).toNat
    let hi := if s.b0 x = 0 then 2 ^ 64 else (s.a0 x).toNat + (s.b0 x).toNat
    let met := fun (e : Nat × Cmd) => (e.2.pins.any fun p => p.meets part lo hi) = true
    (scope < 2 ∨ s.fenceOpen s.cur.id (fenceCode scope) = true) → s.cur.sp.wait = .none →
    (s.eng.cmds = [] → s.usesDropped s.nextId scope lo hi = true → ∃ t n, exec (.tlbinv x) s = .next t ∧
      t.cur.sp = { s.cur.sp with wait := .dropped n scope lo hi, charged := true } ∧
      ∀ e ∈ (t.core s.cur.id.die s.cur.id.core).tlb, e.meets part lo hi = false) ∧
    ((∀ e ∈ s.eng.cmds, e.2.id = e.1) → (s.eng.cmds.map fun e => e.1).Nodup → (∀ n, s.usesDropped n scope lo hi = false) →
      ∃ t, exec (.tlbinv x) s = .next t ∧ t.cur.v = s.cur.v ∧ t.cur.g = s.cur.g ∧
        t.cur.sp.pc = s.cur.sp.pc + BitVec.ofNat 48 (lenOf x) ∧
        (∀ e ∈ (t.core s.cur.id.die s.cur.id.core).tlb, e.meets part lo hi = false) ∧
        (2 ≤ scope → ∀ c, c < 64 → ∀ e ∈ (t.core s.cur.id.die c).tlb, e.meets part lo hi = false) ∧
        (3 ≤ scope → ∀ d c, ∀ e ∈ (t.core d c).tlb, e.meets part lo hi = false) ∧
        (∀ e ∈ t.eng.cmds, met e → e.2.phase ≠ .queued ∧ e.2.phase ≠ .stopped) ∧
        ((∀ e ∈ s.eng.cmds, met e → e.2.cls < 2 ∨ e.2.cls = 4) → t.teams = s.teams ∧ s.BytesBut t (fun _ => False) ∧
          (scope < 2 → t.mem = s.mem ∧ t.home = s.home) ∧
          (2 ≤ scope → ∀ k, k / dieTlbSets = s.cur.id.die → ∀ e ∈ Tab.getD t.dieTlb k [], e.meets part lo hi = false) ∧
          (3 ≤ scope → ∀ k, ∀ e ∈ Tab.getD t.dieTlb k [], e.meets part lo hi = false)))) ∧
  (∀ (s : State) (die core part : Nat) (va : Word) (l : Leaf), s.walk part va.toNat = .leaf l →
    tlbFind part va.toNat (s.core die core).tlb = none → s.dieFind die part va.toNat = none →
    (s.localise l).base ≤ va.toNat → va.toNat < (s.localise l).base + (s.localise l).size →
    ∃ t e, exec (.pageWalk die core part va) s = .next t ∧ t.mem = s.mem ∧ t.home = s.home ∧ t.cur = s.cur ∧
      tlbFind part va.toNat (t.core die core).tlb = some e ∧ e = (s.localise l).toTlb part) ∧
  (∀ (s : State) (start n : Nat), (∀ e ∈ s.eng.cmds, e.2.id = e.1) → (s.eng.cmds.map fun e => e.1).Nodup →
    let met := fun (e : Nat × Cmd) => (e.2.pins.any fun p => p.ofHost start n) = true
    ∃ t, exec (.atsInvalidation start n) s = .next t ∧ (∀ d c, ∀ e ∈ (t.core d c).tlb, e.ofHost start n = false) ∧
      (∀ e ∈ t.eng.cmds, met e → e.2.phase ≠ .queued ∧ e.2.phase ≠ .stopped) ∧
      ((∀ e ∈ s.eng.cmds, met e → e.2.cls < 2 ∨ e.2.cls = 4) → t.cur = s.cur ∧ t.mem = s.mem ∧ t.home = s.home ∧
        ∀ k, ∀ e ∈ Tab.getD t.dieTlb k [], e.ofHost start n = false)) ∧
  (∀ (s : State) (index : Nat) (r : PriResp),
    ((∀ p ∈ s.host.pri, ¬(p.index = index ∧ p.sent = true)) → exec (.pageRequestResponse index r) s = .next s) ∧
    (s.sec.state = .locked → exec (.pageRequestResponse index r) s = .next s) ∧
    (∀ p va, s.sec.state ≠ .locked → s.host.pri = [p] → p.index = index → p.sent = true → p.g = s.cur.id → s.cur.live = true → s.cur.hand = none →
      s.cur.held = [] → p.pages = [va] → (∃ k, s.cur.hold = .pages k) →
      (r = .success → ∀ level place at_, s.walk s.cur.part va = .absent level place true at_ → at_ + 8 ≤ 2 ^ 48 →
        (∀ i, i < 8 → s.oneHome 0 (at_ + i)) → ∃ t, exec (.pageRequestResponse index r) s = .next t ∧ t.host.pri = [] ∧ t.cur.hold = .none ∧
          t.homeNat at_ 8 = (s.homeNat at_ 8 + 1) % 2 ^ 64 ∧ t.host.priOff = s.host.priOff) ∧
      (r = .failure → ∃ t, exec (.pageRequestResponse index r) s = .next t ∧ t.host.pri = [] ∧ t.cur.hold = .none ∧
        t.home = s.home ∧ t.mem = s.mem ∧ p.fn ∈ t.host.priOff)))

/-- O43: `trace` and the trace unit (R206-R210, R421, R436): tracing turns on with a SYNC due, turns off with the open block
closed, and a mark is a packet of its number; a block that has been open 4,096 cycles is closed; the next block of a core goes
to its ring where there is room, and WPTR rises by 64; without room it is dropped and its packets are counted as lost. -/
def Obligations.Tracing : Prop :=
  (∀ (s : State) (x : Ord), s.runsU x [] = true → s.cur.live = true →
    let went := fun (t : State) => t.mem = s.mem ∧ t.home = s.home ∧ t.teams = s.teams ∧ s.cur.SameRegs t.cur ∧
      t.cur.sp = s.cur.sp.after s.cur.sp.fmt (lenOf x) (s.clock.cycle + 1)
    (∃ t, exec (.traceOn x) s = .next t ∧ went t ∧ t.cur.trc.on = true ∧ t.cur.trc.wantSync = true ∧
      t.cur.trc.block = s.cur.trc.block) ∧
    (∃ t, exec (.traceOff x) s = .next t ∧ went t ∧ t.cur.trc.on = false ∧ t.cur.trc.block = [] ∧
      (s.cur.trc.block ≠ [] → ((s.core s.cur.id.die s.cur.id.core).traceQ.filter
          fun b => b.queued s.clock.cycle).length < 16 →
        ∃ b ∈ (t.core s.cur.id.die s.cur.id.core).traceQ, b.g = s.cur.id ∧ b.part = s.cur.part ∧ b.written = false ∧
          b.packets = s.cur.trc.packets + s.cur.trc.carried ∧ b.bytes = blockBytes s.cur.id s.cur.trc.block)) ∧
    (s.cur.trc.on = false → ∃ t, exec (.traceMark x) s = .next t ∧ went t ∧ t.cur.trc = s.cur.trc) ∧
    (∀ r, s.cur.trc.on = true → s.ring s.cur.part = (some r, []) → s.cur.trc.lost = false →
      let delta := s.clock.cycle - s.cur.trc.last
      let bytes := 0x15#8 :: (varint 10 delta ++ [x.imm])
      s.cur.trc.block.length + bytes.length ≤ 60 →
      ∃ t, exec (.traceMark x) s = .next t ∧ went t ∧ t.cur.trc.block = s.cur.trc.block ++ bytes ∧
        t.cur.trc.packets = s.cur.trc.packets + 1 ∧ t.cur.trc.last = s.clock.cycle)) ∧
  (∀ (s : State), s.cur.live = true →
    ((s.cur.trc.block = [] ∨ s.clock.cycle < s.cur.trc.first + 4096) →
      exec (.traceBlockTimeout s.cur.id) s = .next s) ∧
    (s.cur.trc.block ≠ [] → s.cur.trc.first + 4096 ≤ s.clock.cycle →
      ∃ t, exec (.traceBlockTimeout s.cur.id) s = .next t ∧ t.cur.trc.block = [] ∧ t.mem = s.mem ∧ t.home = s.home ∧
        t.cur.trc.on = s.cur.trc.on)) ∧
  (∀ (s : State) (die core : Nat) (b : TraceBlock) (r : Ring), nextBlock (s.core die core).traceQ = some b →
    s.ring b.part = (some r, []) → s.eng.waiters = [] → b.bytes.length = 64 →
    let va := r.base + r.wptr % 2 ^ r.log2
    (r.room = true → ∀ m, s.unitMap b.part va 64 true = .ok m → m.space < 3 → r.at_ + 32 ≤ 2 ^ 48 →
      (∀ i j, i < 64 → j < 64 → m.phys (va + i) = m.phys (va + j) → i = j) →
      (∀ i j, i < 64 → j < 8 → m.phys (va + i) ≠ r.at_ + 16 + j) →
      (∀ i, i < 64 → s.oneHome m.space (m.phys (va + i))) → (∀ i, i < 8 → s.oneHome 0 (r.at_ + 16 + i)) →
      ∃ t, exec (.traceBlockWrite die core) s = .next t ∧ t.mapBytes m va 64 = b.bytes ∧
        t.homeNat (r.at_ + 16) 8 = (r.wptr + 64) % 2 ^ 64 ∧ t.cur = s.cur ∧ t.teams = s.teams ∧
        s.BytesBut t (fun p => (∃ i, i < 64 ∧ p = m.phys (va + i)) ∨ (r.at_ + 16 ≤ p ∧ p < r.at_ + 24)) ∧
        ∀ c ∈ (t.core die core).traceQ, c = { b with written := true } ∨ (c ∈ (s.core die core).traceQ ∧ c ≠ b)) ∧
    (r.room = false → ∃ t, exec (.traceBlockWrite die core) s = .next t ∧ t.mem = s.mem ∧ t.home = s.home ∧
      (t.core die core).traceQ = (s.core die core).traceQ.erase b ∧
      ∀ g, s.group? b.g = some g → ∃ h, t.group? b.g = some h ∧ h.trc.lost = true ∧ h.trc.block = [] ∧
        h.trc.loss = min (g.trc.loss + b.packets + g.trc.packets + g.trc.carried) (2 ^ 32 - 1)))

/-! ### Fabric and time (spec/02) -/

/-- O44: flits that arrive (R25-R29, R32-R35, R225, R231): a request of this module is served at its home and answered under its
tag, or refused by a negative acknowledge, with 0x07 outside the peer window and 0x0D at poison; an answer completes the access
of its tag; a refusal, or no answer in 100 µs, is the fault of its thread, and a store without an answer is reported; a flit
with an unlisted OP is logged; device time is loaded once and slewed afterwards. The layout of a flit's payload is the model's
(log entry 21). -/
def Obligations.FabricTraffic : Prop :=
  (∀ (s : State) (f : Flit), s.eng.waiters = [] → s.noRoute = false →
    let p := f.paddr.toNat
    let bs := f.payload.dropLast
    let mine := fun op => f.op = op ∧ f.dst = s.fabric.devid
    let answers := fun (t : State) (op : BitVec 6) payload => ∃ a, t.fabric.outbox = s.fabric.outbox ++ [a] ∧ a.op = op ∧
      a.dst = f.src ∧ a.src = s.fabric.devid ∧ a.tag = f.tag ∧ a.part = f.part ∧ a.payload = payload ∧ t.cur = s.cur
    let same := fun (t : State) => s.BytesBut t (fun _ => False)
    let one := fun (n : Nat) => p + n ≤ 2 ^ 48 ∧ ∀ i, i < n → s.oneHome 0 (p + i)
    let only := fun (t : State) (n : Nat) => s.BytesBut t (fun q => p ≤ q ∧ q < p + n)
    let n := (bs.headD 0).toNat
    let r := atomReq f
    (mine 0x00 →
      (s.window f n = false → ∃ t, exec (.readRequest f) s = .next t ∧ answers t 0x06 [0x07] ∧ same t) ∧
      (s.window f n = true → bs.getD 1 0 ≠ 1 → s.badHome p n = true →
        ∃ t, exec (.readRequest f) s = .next t ∧ answers t 0x06 [0x0D] ∧ same t) ∧
      (s.window f n = true → bs.getD 1 0 = 1 ∨ s.badHome p n = false → one n → ∃ t mark, exec (.readRequest f) s = .next t ∧
        answers t 0x01 (s.homeBytes p n ++ mark) ∧ (bs.getD 1 0 ≠ 1 → mark = []) ∧ same t)) ∧
    (mine 0x02 →
      let body := bs.dropLast
      (s.window f body.length = false → ∃ t, exec (.write f) s = .next t ∧ answers t 0x06 [0x07] ∧ same t) ∧
      (s.window f body.length = true → one body.length → ∃ t, exec (.write f) s = .next t ∧ answers t 0x03 [] ∧
        t.homeBytes p body.length = body ∧ only t body.length)) ∧
    (mine 0x04 →
      (s.window f (if 22 ≤ r.code then 64 else r.size) = false →
        ∃ t, exec (.atomicRequest f) s = .next t ∧ answers t 0x06 [0x07] ∧ same t) ∧
      (∀ fn, r.code = atomCode fn → s.window f r.size = true → s.badHome p r.size = false → one r.size →
        (r.size = 4 ∨ r.size = 8) →
        let old := s.homeNat p r.size
        ∃ t, exec (.atomicRequest f) s = .next t ∧ answers t 0x05 (leBytes r.size old) ∧
          t.homeNat p r.size = atomNew fn (8 * r.size) old (r.b % 2 ^ (8 * r.size)) ∧
          only t r.size) ∧
      (∀ fn : AcqFn, fn = acqOf r.code → 19 ≤ r.code → r.code < 22 → s.window f r.size = true → s.badHome p r.size = false →
        one 8 → r.b < 2 ^ 64 →
        let v := s.homeNat p 8
        let holds := match fn with | .eq => v = r.b | .ge => r.b ≤ v | .take => r.b ≤ v
        (holds → ∃ t, exec (.atomicRequest f) s = .next t ∧ answers t 0x05 (leBytes 8 0) ∧ t.eng.waiters = [] ∧
          t.homeNat p 8 = (if fn = .take then v - r.b else v)) ∧
        (¬holds → ∃ t w, exec (.atomicRequest f) s = .next t ∧ t.eng.waiters = [w] ∧ w.word = p ∧ w.value.toNat = r.b ∧
          w.fn = fn ∧ w.remote = some f ∧ t.fabric.outbox = s.fabric.outbox ∧ same t))) ∧
    (f.op ≠ 0x00 ∨ f.dst ≠ s.fabric.devid → exec (.readRequest f) s = .next s) ∧
    (f.op ≠ 0x02 ∨ f.dst ≠ s.fabric.devid → exec (.write f) s = .next s) ∧
    (f.op ≠ 0x04 ∨ f.dst ≠ s.fabric.devid → exec (.atomicRequest f) s = .next s)) ∧
  (∀ (s : State) (f : Flit) (r : Remote) (o : Op), Tab.get? f.tag.toNat s.fabric.waiting = some r → r.dest = f.src →
    f.dst = s.fabric.devid → Tab.get? r.op s.eng.ops = some o → r.op < 2 ^ 64 →
    let left := fun (t : State) (p : Op) => Tab.get? f.tag.toNat t.fabric.waiting = none ∧ Tab.get? r.op t.eng.ops = some p ∧
      p.tags = o.tags.filter (fun k => k != f.tag.toNat) ∧ t.cur = s.cur
    let same := fun (t : State) => t.mem = s.mem ∧ t.home = s.home
    (∀ reg size sgn keep, r.kind = .value reg size sgn keep →
      let v := extendBytes size sgn (f.payload.take size)
      (f.op = 0x01 → ∃ t p, exec (.readResponse f) s = .next t ∧ left t p ∧ p.writes = o.writes ++ [⟨r.thread, reg, v⟩] ∧
        p.faults = o.faults ∧ (keep = none → r.acq = none → same t)) ∧
      (f.op = 0x05 → ∃ t p, exec (.atomicResponse f) s = .next t ∧ left t p ∧ p.writes = o.writes ++ [⟨r.thread, reg, v⟩] ∧
        p.faults = o.faults ∧ (keep = none → r.acq = none → same t))) ∧
    (r.kind = .store → f.op = 0x03 → ∃ t p, exec (.writeAcknowledge f) s = .next t ∧ left t p ∧ p.writes = o.writes ∧
      p.faults = o.faults ∧ same t) ∧
    (((∃ reg size sgn keep, r.kind = .value reg size sgn keep) ∨ r.kind = .store) → f.op = 0x06 → f.payload.length ≠ 12 →
      ∃ t p, exec (.negativeAcknowledge f) s = .next t ∧ left t p ∧
        p.faults = o.faults ++ [⟨r.thread, f.payload.headD 0x07, r.va⟩] ∧ p.writes = o.writes ∧ same t) ∧
    (s.noRoute = false → s.clock.cycle < r.issued + 270000 → ((∃ reg size sgn keep, r.kind = .value reg size sgn keep) ∨ r.kind = .store) →
      exec (.remoteAccessTimeout f.tag) s = .next s) ∧
    (r.issued + 270000 ≤ s.clock.cycle →
      ((∃ reg size sgn keep, r.kind = .value reg size sgn keep) →
        ∃ t p, exec (.remoteAccessTimeout f.tag) s = .next t ∧ left t p ∧ p.faults = o.faults ++ [⟨r.thread, 0x0D, r.va⟩]) ∧
      (r.kind = .store → ∃ t p, exec (.remoteAccessTimeout f.tag) s = .next t ∧ left t p ∧ p.faults = o.faults ∧
        .storeUnreachable r.va ∈ t.host.reports))) ∧
  (∀ (s : State) (f : Flit),
    (f.op = 0x08 → f.dst = s.fabric.devid →
      let tag := leNat (f.payload.take 4)
      let turn := leNat ((f.payload.drop 4).take 4)
      (turn < s.collTurn tag f.src.toNat → exec (.collectiveData f) s = .next s) ∧
      (s.collTurn tag f.src.toNat ≤ turn → (∀ p ∈ s.eng.coll, ¬(p.tag = tag ∧ p.src = f.src ∧ p.turn = turn ∧ p.whole = false)) →
      ∃ t p, exec (.collectiveData f) s = .next t ∧ t.eng.coll = s.eng.coll ++ [p] ∧ p.tag = tag ∧ p.src = f.src ∧
        p.turn = turn ∧ p.bytes = f.payload.drop 8 ∧ p.whole = f.last ∧ t.cur = s.cur ∧ t.mem = s.mem)) ∧
    (f.op ∉ [0x00#6, 0x01, 0x02, 0x03, 0x04, 0x05, 0x06, 0x08, 0x0C] → ∃ t, exec (.malformedFlit f) s = .next t ∧
      t = { s with fabric := { s.fabric with malformed := s.fabric.malformed ++ [f] } }) ∧
    (f.op ∈ [0x00#6, 0x01, 0x02, 0x03, 0x04, 0x05, 0x06, 0x08, 0x0C] → exec (.malformedFlit f) s = .next s)) ∧
  (∀ (s : State) (w : Word),
    exec (.timeMessage false w) s = .next s ∧
    (s.clock.timeSet = false → ∃ t, exec (.timeMessage true w) s = .next t ∧ t.clock.time = w ∧ t.clock.timeSet = true ∧
      t.clock.open_ = true ∧ t.clock.locked = true ∧ t.cur = s.cur ∧ t.mem = s.mem) ∧
    (s.clock.timeSet = true → ∃ t, exec (.timeMessage true w) s = .next t ∧ t.clock.time = s.clock.time ∧
      t.clock.slew = (w.toNat : Int) - s.clock.time.toNat ∧ t.clock.locked = true ∧ t.cur = s.cur) ∧
    ((s.clock.timeSet = true ∨ s.clock.cycle < 27000000000) → exec .firstLockTimeout s = .next s) ∧
    (s.clock.timeSet = false → 27000000000 ≤ s.clock.cycle → ∃ t, exec .firstLockTimeout s = .next t ∧
      t.clock.time = s.clock.rtc ∧ t.clock.timeSet = true ∧ t.clock.open_ = true ∧ .timeUnlocked ∈ t.host.reports ∧
      t.cur = s.cur) ∧
    (∃ t, exec .timeLockLoss s = .next t ∧ t.clock.locked = false ∧ t.clock.time = s.clock.time ∧
      .timeUnlocked ∈ t.host.reports ∧ t.cur = s.cur))

/-! ### Stacks and repair (spec/01, spec/03) -/

/-- O45: a channel serves the oldest request that its slot allows, in a reserved slot the owner's guaranteed ones first, none
while asleep, busy or on a row that is being copied (R45, R46); refresh takes one bank after another, once a frame (R48);
channels go to sleep by their idle timers and wake for a request (R49, R50); a scrub marks what it cannot correct as poison and
queues a row at its sixteenth corrected error (R52, R53); a remap takes the lowest spare row and is live when the copy is done
(R54, R55); a fenced bank reopens with its logged atoms poison (R56). -/
def Obligations.StackEvents : Prop :=
  (∀ (s : State) (k ch : Nat),
    let c := s.chan k ch
    let asleep := c.power ≠ .active ∨ s.clock.cycle < c.busy
    let owner := s.slotOwner k ch s.slotNow
    let may := fun (r : MemReq) => if 51 ≤ s.slotNow then r.guaranteed = false else True
    let first := fun (r : MemReq) => s.slotNow < 51 ∧ r.guaranteed = true ∧ owner = some r.part ∧
      s.paying k ch r.part = false ∧ s.surplus k ch r = false
    (asleep → exec (.memoryRequest k ch) s = .next s) ∧
    ((∀ r ∈ c.queue, ¬may r) → exec (.memoryRequest k ch) s = .next s) ∧
    (¬asleep → s.ctl.remapping = none → (∃ r ∈ c.queue, may r) → ∃ t r, exec (.memoryRequest k ch) s = .next t ∧ t.cur = s.cur ∧
      t.mem = s.mem ∧ t.home = s.home ∧ r ∈ c.queue ∧ may r ∧ ((∃ q ∈ c.queue, first q) → first r) ∧
      (t.chan k ch).queue = c.queue.erase r ∧ (t.chan k ch).power = .active ∧
      (t.chan k ch).busy = s.clock.cycle + (r.cost * 27 + 15) / 16)) ∧
  (∀ (s : State) (k ch : Nat),
    let c := s.chan k ch
    let window := if 60 ≤ s.slotNow then some (2 * s.frameNow + 2)
      else if 56 ≤ s.slotNow ∧ 85 < s.dramTemp k then some (2 * s.frameNow + 1) else none
    let due := fun n => window = some n ∧ ch < 64 ∧ c.power ≠ .selfrefresh ∧ c.frame ≠ n
    let live := c.accs ≠ [] ∧ c.saving = none
    ((∀ n, ¬due n) → exec (.refreshWindow k ch) s = .next s) ∧
    (∀ n, due n → ∃ t, exec (.refreshWindow k ch) s = .next t ∧ t.mem = s.mem ∧ t.cur = s.cur ∧ t.chan k ch =
      { c with refreshBank := (c.refreshBank + 1) % 16, frame := n }) ∧
    (s.powerdownDue k ch = true → ∃ t, exec (.powerdownEntry k ch) s = .next t ∧ t.mem = s.mem ∧ t.cur = s.cur ∧
      (live → t.chan k ch = { c with saving := some (s.clock.cycle + 432) }) ∧
      (¬live → t.chan k ch = { c with power := .powerdown, accs := [], checkpoint := c.checkpoint ++ c.accs, saving := none })) ∧
    (s.powerdownDue k ch = true → c.power = .active ∧ c.queue = [] ∧ c.idle + 108 < s.clock.cycle) ∧
    (s.powerdownDue k ch = false → exec (.powerdownEntry k ch) s = .next s) ∧
    (s.selfrefreshDue k ch = true → ∃ t, exec (.selfrefreshEntry k ch) s = .next t ∧ t.mem = s.mem ∧ t.cur = s.cur ∧
      (¬live → (t.chan k ch).power = .selfrefresh) ∧ (t.chan k ch).queue = c.queue ∧ c.power = .powerdown ∧
      c.idle + 270000 < s.clock.cycle) ∧
    (s.selfrefreshDue k ch = false → exec (.selfrefreshEntry k ch) s = .next s) ∧
    (c.queue ≠ [] → (c.power = .powerdown → ∃ t, exec (.powerdownExit k ch) s = .next t ∧ t.mem = s.mem ∧ t.cur = s.cur ∧
        t.chan k ch = { c with power := .active, accs := c.checkpoint ++ c.accs, checkpoint := [], busy := s.clock.cycle + 27 }) ∧
      (c.power = .selfrefresh → ∃ t, exec (.selfrefreshExit k ch) s = .next t ∧ t.mem = s.mem ∧ t.cur = s.cur ∧
        t.chan k ch = { c with power := .active, accs := c.checkpoint ++ c.accs, checkpoint := [], busy := s.clock.cycle + 1080 })) ∧
    ((c.queue = [] ∨ c.power ≠ .powerdown) → exec (.powerdownExit k ch) s = .next s) ∧
    ((c.queue = [] ∨ c.power ≠ .selfrefresh) → exec (.selfrefreshExit k ch) s = .next s)) ∧
  (∀ (s : State) (a : Nat), (unitOf a).isSome = true →
    let r := Sys2Proof.Machine.rowOf a
    let fresh := a % 2 ^ 36 / 32 = 0
    let n := if fresh then 0 else Tab.getD (s.stack r.stack).corrected (rowKey r) 0
    (∃ t, exec (.scrub a .uncorrectable) s = .next t ∧ t.cur = s.cur ∧ t.mem = s.mem ∧
      ∀ b, b ∈ t.poison ↔ b ∈ s.poison ∨ b = a / 32 ∨ (inTier a = true ∧ b / 2 = a / 64)) ∧
    (∃ t, exec (.scrub a .clean) s = .next t ∧ t.poison = s.poison ∧ t.cur = s.cur ∧ t.mem = s.mem) ∧
    (a < 12 * 2 ^ 36 → ∃ t, exec (.scrub a .corrected) s = .next t ∧ t.poison = s.poison ∧ t.cur = s.cur ∧ t.mem = s.mem ∧
      Tab.get? (rowKey r) (t.stack r.stack).corrected = some (n + 1) ∧
      t.ctl.remapQueue = (if n + 1 = 16 ∧ r ∉ s.ctl.remapQueue then s.ctl.remapQueue ++ [r] else s.ctl.remapQueue)) ∧
    (12 * 2 ^ 36 ≤ a → exec (.scrub a .corrected) s = .next s)) ∧
  (∀ (s : State) (r : RowId) (q : List RowId), s.ctl.remapQueue = r :: q →
    let used := fun n => ∃ e ∈ (s.stack r.stack).remap, e.row.pc = r.pc ∧ e.row.bank = r.bank ∧ e.spare = n
    let early := s.ctl.remapping.isSome = true ∨ ∃ x, s.ctl.lastRemap = some x ∧ s.clock.time.toNat < x.toNat + 10000000
    (early → exec .rowRemap s = .next s) ∧
    (¬early → (∀ n, n < 32 → used n) → ∃ t, exec .rowRemap s = .next t ∧ t.ctl.remapQueue = q ∧ t.ctl.remapping = none ∧
      .noSpareRow r ∈ t.host.reports ∧ t.stks = s.stks ∧ t.mem = s.mem) ∧
    (∀ n, ¬early → n < 32 → ¬used n → (∀ k, k < n → used k) → ∃ t, exec .rowRemap s = .next t ∧ t.ctl.remapQueue = q ∧
      t.ctl.remapping = some ⟨r, n⟩ ∧ t.ctl.lastRemap = some s.clock.time ∧ t.mem = s.mem ∧
      (t.stack r.stack).remap = (s.stack r.stack).remap ++ [⟨r, n, false, false, false, false⟩])) ∧
  (∀ (s : State), (s.ctl.remapping = none → exec .remapCopyDone s = .next s) ∧
    ∀ m, s.ctl.remapping = some m → ∃ t, exec .remapCopyDone s = .next t ∧ t.ctl.remapping = none ∧ t.mem = s.mem ∧
      t.cur = s.cur ∧ ∀ e ∈ (t.stack m.row.stack).remap, e.row = m.row → (e.live = true ↔ e.spare = m.spare)) ∧
  (∀ (s : State) (k pc b : Nat), pc < 64 → b < 16 →
    let bank := s.bank k pc b
    (bank.state ≠ .fenced → ∀ ok, exec (.remapReloadComplete k pc b ok) s = .next s) ∧
    (bank.state = .fenced → (∃ t, exec (.remapReloadComplete k pc b true) s = .next t ∧ t.mem = s.mem ∧
        t.bank k pc b = { bank with state := .scrubbing } ∧
        ∀ e ∈ (t.stack k).remap, e.row.pc = pc → e.row.bank = b → e.badA = false ∧ e.badB = false) ∧
      ∃ t, exec (.remapReloadComplete k pc b false) s = .next t ∧ t.mem = s.mem ∧
        t.bank k pc b = { bank with state := .failed } ∧ .bankFailed k pc b ∈ t.host.reports) ∧
    (bank.state ≠ .scrubbing → exec (.bankScrubComplete k pc b) s = .next s) ∧
    (bank.state = .scrubbing → ∃ t, exec (.bankScrubComplete k pc b) s = .next t ∧ t.bank k pc b = ⟨.open_, []⟩ ∧
      t.mem = s.mem ∧ t.cur = s.cur ∧ (∀ a ∈ bank.log, a ∈ t.poison) ∧ ∀ a ∈ s.poison, a ∈ t.poison))

/-- O46: the controller's actions (R11, R17, R21-R24, R138, R139): the governing row of a sample acts; alarms follow the
strongest policy of their sources; a failing core is drained and its identity goes to a spare; a port with two failed lanes is
out; a partition goes through drydown, repair and verification to RUNNING or FAILED. The alarm of the PF on MSI-X vector 0 and
the homes of revoked cores are the model's (log entries 27 and 30). -/
def Obligations.ControllerActions : Prop :=
  (∀ (s : State),
    let raised := fun (i : Instr) k => ∃ t, exec i s = .next t ∧ t.mem = s.mem ∧
      t.sec.ctlFw.staged = false ∧ t.sec.devFw.staged = false ∧
      (s.policyOf k = .report → .alarm k ∈ t.host.log ∧ (512, 0) ∈ t.host.msix ∧ t.sec.state = s.sec.state ∧ t.cur = s.cur) ∧
      (s.policyOf k = .halt → (s.sec.state = .booted ∨ s.sec.state = .attested) → t.sec.state = .halted ∧
        t.parts.map (fun e => (e.1, e.2.key)) = s.parts.map (fun e => (e.1, e.2.key)) ∧
        ∀ g ∈ t.groups, g.hold ≠ .exited → g.stop.isSome = true) ∧
      (s.policyOf k = .erase → s.sec.state ≠ .locked → t.sec.state = .locked ∧ t.sec.sessions = [] ∧
        ∀ e ∈ t.parts, e.2.key = none ∧ e.2.dry = .erased)
    (s.WellNamed → raised .tamperAlarm 0 ∧ raised .clockAlarm 2) ∧
    (∀ x : Sample,
      let t1 := s.ctl.count x
      let band := (42000 ≤ x.inputMv ∧ x.inputMv < 44000) ∨ (54000 < x.inputMv ∧ x.inputMv ≤ 60000)
      let hot := ∃ d, d < 4 ∧ 10 ≤ Tab.getD t1.hot d 0
      let warm := (∃ j ∈ x.junction, 95 ≤ j) ∨ (100 ≤ t1.powers.length ∧ 100 * 3400 < t1.powers.sum)
      let calm := alarmsOf x = []
      (∀ k, k ∈ alarmsOf x → s.policyOf k = .report → (∀ j ∈ alarmsOf x, s.policyOf j = .report) →
        ∃ t, exec (.samplePeriod x) s = .next t ∧ .alarm k ∈ t.host.log ∧ t.cur = s.cur ∧ t.ctl.halved = t1.halved) ∧
      (calm → hot → ∃ t, exec (.samplePeriod x) s = .next t ∧ t.mem = s.mem ∧
        ∀ d, d < 4 → (d ∈ t.ctl.halved ↔ d ∈ t1.halved ∨ 10 ≤ Tab.getD t1.hot d 0)) ∧
      (calm → ¬hot → band → s.ctl.supplyAge = 0 → ∃ t, exec (.samplePeriod x) s = .next t ∧ .supplyWarning ∈ t.host.reports ∧
        t.cur = s.cur ∧ t.ctl.halved = t1.halved) ∧
      (calm → ¬hot → ¬band → warm → ∃ t, exec (.samplePeriod x) s = .next t ∧ .thermalWarning ∈ t.host.reports ∧
        t.cur = s.cur ∧ t.ctl.halved = t1.halved) ∧
      (calm → ¬hot → ¬band → ¬warm → ∃ t, exec (.samplePeriod x) s = .next t ∧ t.host = s.host ∧ t.cur = s.cur ∧
        t.mem = s.mem) ∧
      t1.powers = (x.power :: s.ctl.powers).take 100 ∧
      ∀ d, d < 4 → Tab.getD t1.hot d 0 = (if 100 ≤ x.junction.getD d 0 then Tab.getD s.ctl.hot d 0 + 1 else 0))) ∧
  (∀ (s : State) (die core : Nat) (poisoned : Bool), die < 4 → core < 48 →
    let l := Tab.getD s.ctl.subst die []
    let known := (∃ x ∈ l, x.core = core) ∨ ⟨die, core⟩ ∈ s.ctl.retired
    (known → exec (.spareCoreSubstitution die core poisoned) s = .next s) ∧
    (¬known → s.WellNamed → (∀ x, l.head? = some x → x.running = true) →
      ∃ t, exec (.spareCoreSubstitution die core poisoned) s = .next t ∧ t.mem = s.mem ∧
        Tab.getD t.ctl.subst die [] = l ++ [⟨core, poisoned, l.isEmpty⟩] ∧
        (l = [] → ∀ g ∈ t.groups, g.id.die = die → g.id.core = core → g.hold ≠ .exited → g.stop.isSome = true))) ∧
  (∀ (s : State) (die : Nat) (x : Subst), Tab.getD s.ctl.subst die [] = [x] →
    ((x.running = false ∨ s.onCore die x.core ≠ []) → exec (.substitutionDrainDone die) s = .next s) ∧
    (x.running = true → s.onCore die x.core = [] → x.poisoned = false →
      let used := Tab.getD s.ctl.sparesUsed die 0
      (used < 4 → ∃ t, exec (.substitutionDrainDone die) s = .next t ∧ t.cur = s.cur ∧
        ((∀ e ∈ Tab.canon (s.core die x.core).cache, e.2.dirty = false) → t.mem = s.mem ∧ t.home = s.home) ∧
        Tab.get? (coreKey die x.core) t.ctl.identity = some (48 + used) ∧ Tab.get? die t.ctl.sparesUsed = some (used + 1) ∧
        Tab.getD t.ctl.subst die [] = [] ∧ (t.core die x.core).cache = [] ∧ (t.core die x.core).tlb = [] ∧
        (t.core die x.core).bpc = (s.core die x.core).bpc ∧ (t.core die x.core).traceQ = (s.core die x.core).traceQ) ∧
      (4 ≤ used → ∃ t, exec (.substitutionDrainDone die) s = .next t ∧ ⟨die, x.core⟩ ∈ t.ctl.retired ∧
        (∀ e ∈ t.parts, ⟨die, x.core⟩ ∉ e.2.cores) ∧ .coreRetired ⟨die, x.core⟩ ∈ t.host.reports))) ∧
  (∀ (s : State) (port lane : Nat),
    let m := Tab.getD s.fabric.failedLanes port 0
    ((36 ≤ port ∨ 4 ≤ lane ∨ m.testBit lane = true) → exec (.laneSparing port lane) s = .next s) ∧
    (port < 36 → lane < 4 → m.testBit lane = false → m < 16 → ∃ t, exec (.laneSparing port lane) s = .next t ∧ t.mem = s.mem ∧
      t.cur = s.cur ∧ (∀ k, (Tab.getD t.fabric.failedLanes port 0).testBit k = (m.testBit k || k == lane)) ∧
      (popCount 4 m = 1 → .portOut port ∈ t.host.reports)) ∧
    (∀ k, 4 ≤ k → exec (.dieLinkOutOfService k) s = .next s) ∧
    (∀ k, k < 4 → ∃ t, exec (.dieLinkOutOfService k) s = .next t ∧ k ∈ t.fabric.linksDown ∧ t.mem = s.mem ∧ t.cur = s.cur)) ∧
  (∀ (s : State) (p : Nat),
    let d := (s.part p).dry
    let becomes := fun (i : Instr) (x : Dry) => ∃ t, exec i s = .next t ∧ (t.part p).dry = x ∧ t.mem = s.mem
    (d = .quiescing → s.quiet p = true → (∀ e ∈ s.eng.cmds, e.2.part = p → e.2.cls < 2 ∨ e.2.cls = 4) →
      becomes (.quiesceComplete p) .dry) ∧
    ((d ≠ .quiescing ∨ s.quiet p = false) → exec (.quiesceComplete p) s = .next s) ∧
    ((d ≠ .quiescing ∨ s.clock.cycle < (s.part p).since + 540000 ∨ ∀ g ∈ s.groups, g.part ≠ p) →
      exec (.quiesceTimeout p) s = .next s) ∧
    (d = .quiescing → (s.part p).since + 540000 ≤ s.clock.cycle → (∃ g ∈ s.groups, g.part = p) →
      ∃ t, exec (.quiesceTimeout p) s = .next t ∧ (t.part p).dry = .dry) ∧
    (d = .dry → becomes (.repairComplete p) .restoring ∧
      ∃ t, exec (.repairFailed p) s = .next t ∧ (t.part p).dry = .failed ∧ .partitionFailed p ∈ t.host.reports) ∧
    (d ≠ .dry → exec (.repairComplete p) s = .next s ∧ exec (.repairFailed p) s = .next s) ∧
    (d = .restoring → becomes (.verificationPassed p) .running ∧
      ∃ t, exec (.verificationFailed p) s = .next t ∧ (t.part p).dry = .failed ∧ .partitionFailed p ∈ t.host.reports) ∧
    (d ≠ .restoring → exec (.verificationPassed p) s = .next s ∧ exec (.verificationFailed p) s = .next s))

/-! ### The mailbox (spec/07) -/

/-- O47: the mailbox runs one command at a time: a command while one runs is discarded and logged, the state of the module
refuses commands by their class, an unlisted opcode completes with CODE 6, completion writes MRES and MSTAT and signals vector 0
of the PF, and the management port carries the same commands under a session key (R121, R122). The layout of the messages of the
management session is the model's (log entry 31). -/
def Obligations.MailboxRules : Prop :=
  (∀ (s : State) (m : Mcmd) (op : BitVec 16),
    ∀ e ∈ [(Instr.pcreate m, CmdClass.partition), (.pdestroy m, .partition), (.pgrant m, .partition), (.prevoke m, .partition),
      (.pbases m, .partition), (.ctxwr m, .partition), (.drydn m, .partition), (.pquery m, .partition), (.repairCore m, .other),
      (.repairRow m, .other), (.repairLane m, .other), (.apolicy m, .other), (.resume m, .other), (.reset m, .reset),
      (.attest m, .attest), (.fwstage m, .other), (.fwswitch m, .other), (.dbgnonce m, .other), (.dbggrant m, .other),
      (.dbgrevoke m, .other), (.unknownOpcode op m, .other)], (op.toNat = 0 ∨ 18 < op.toNat) →
      (s.host.box.running.isSome = true →
        exec e.1 s = .next { s with host := { s.host with log := s.host.log ++ [.mailboxAccess] } }) ∧
      (s.host.box.running = none →
        (m.reserved ≠ 0 → Turned e.1 s m 2) ∧
        (m.reserved = 0 → s.sec.bootFailed = true → e.2 ≠ .attest → Turned e.1 s m 4) ∧
        (m.reserved = 0 → s.sec.bootFailed = false → s.sec.state = .locked → e.2 ≠ .attest → e.2 ≠ .reset →
          Turned e.1 s m 5) ∧
        (m.reserved = 0 → s.sec.bootFailed = false → s.sec.state ≠ .locked → e.2 = .partition →
          (s.sec.attestedOnce = false → Turned e.1 s m 5) ∧
          (s.sec.attestedOnce = true → s.clock.open_ = false → Turned e.1 s m 3)))) ∧
  (∀ (s : State) (m : Mcmd) (op : BitVec 16), (op.toNat = 0 ∨ 18 < op.toNat) → s.Accepts m .other →
    Turned (.unknownOpcode op m) s m 6) ∧
  (∀ (s : State), s.host.box.running = none → exec .mailboxComplete s = .next s) ∧
  (∀ (s : State) (r : Running), s.host.box.running = some r →
    (r.session = false → exec .mailboxComplete s = .next { s with host := { s.host with
      box := { s.host.box with running := none, mres := r.result, rlen := r.result.length, tag := r.tag, code := r.code }
      msix := s.host.msix ++ [(512, 0)] } }) ∧
    (∀ k ks, r.session = true → s.sec.sessions = k :: ks → exec .mailboxComplete s = .next { s with host := { s.host with
      box := { s.host.box with running := none, port := s.host.box.port ++ [Config.gcmSeal k
        (leBytes 8 (r.result.length * 2 ^ 32 + r.tag.toNat * 2 ^ 16 + r.code * 2 ^ 8) ++ r.result)] } } })) ∧
  (∀ (s : State) (share : BitVec 256),
    ((s.sec.state = .locked ∨ s.sec.bootFailed = true) → exec (.managementSession (.start share)) s = .next s) ∧
    (s.sec.state ≠ .locked → s.sec.bootFailed = false → ∃ t, exec (.managementSession (.start share)) s = .next t ∧ t.mem = s.mem ∧ t.cur = s.cur ∧
      t.sec = { s.sec with
        sessions := Config.sessionKey share s.sec.randoms :: s.sec.sessions, randoms := s.sec.randoms + 1 } ∧
      t.host.box.port.length = s.host.box.port.length + 1) ∧
    exec (.managementSession .finish) s = .next { s with sec := { s.sec with sessions := s.sec.sessions.drop 1 } }) ∧
  (∀ (s : State) (bytes : List Byte),
    ((∀ k ∈ s.sec.sessions, Config.gcmVerifies k bytes = false) → exec (.managementSession (.sealed bytes)) s = .next s) ∧
    ∀ k pre post, s.sec.sessions = pre ++ k :: post → (∀ j ∈ pre, Config.gcmVerifies j bytes = false) →
      Config.gcmVerifies k bytes = true →
      let l := Config.gcmOpen k bytes
      let w := BitVec.ofNat 64 (leNat (l.take 8))
      let m : Mcmd := ⟨w.extractLsb' 16 16, w.extractLsb' 32 32, some ((l.drop 8).take 1984)⟩
      let repair := fun (n : Nat) => opByte ((l.drop 8).take 1984) 0 = n
      ∀ e ∈ [(1, Instr.pcreate m, True), (2, .pdestroy m, True), (3, .pgrant m, True), (4, .prevoke m, True),
        (5, .pbases m, True), (6, .ctxwr m, True), (7, .drydn m, True), (8, .pquery m, True), (9, .repairCore m, repair 0),
        (9, .repairRow m, repair 1), (9, .repairLane m, repair 2), (10, .apolicy m, True), (11, .resume m, True),
        (12, .reset m, True), (13, .attest m, True), (14, .fwstage m, True), (15, .fwswitch m, True), (16, .dbgnonce m, True),
        (17, .dbggrant m, True), (18, .dbgrevoke m, True)],
        (w.extractLsb' 0 16).toNat = e.1 → e.2.2 → exec (.managementSession (.sealed bytes)) s =
          exec e.2.1 { s with sec := { s.sec with sessions := k :: s.sec.sessions.filter fun x => x != k } })

/-- O48: the partition commands: PCREATE and PDESTROY, PGRANT and PREVOKE of items all or none, PBASES, DRYDN, PQUERY and CTXWR
(R122, R123, R125, R127, R128, R137). When an item is in use is the model's reading (log entry 32). -/
def Obligations.PartitionCommands : Prop :=
  ∀ (s : State) (m : Mcmd), s.Accepts m .partition →
    let l := s.operands m
    let p := opByte l 0
    let here := (Tab.get? p s.parts).isSome = true
    let apart := fun (t : State) => ∀ q, q ≠ p → Tab.get? q t.parts = Tab.get? q s.parts
    ((p < 48 → ¬here → s.Named0 m (fun n => n = 0) → Replies (.pcreate m) s m 0 [] fun t =>
        Tab.get? p t.parts = some { Part.empty with key := some s.sec.randoms } ∧ apart t ∧
        t.sec.randoms = s.sec.randoms + 1 ∧ t.mem = s.mem ∧ t.launches = s.launches) ∧
      ((48 ≤ p ∨ here ∨ ¬s.Named0 m (fun n => n = 0)) → Turned (.pcreate m) s m 2)) ∧
    ((here → s.Named0 m (fun n => n = 0) → Replies (.pdestroy m) s m 0 [] fun t => Tab.get? p t.parts = none ∧
        (∀ e ∈ t.host.ctxs, e.2.part = p → e.2.valid = false) ∧ (∀ e ∈ t.eng.cmds, e.2.part ≠ p) ∧
        ∀ u ∈ (s.part p).units, t.UnitZero u) ∧
      (here → s.Named0 m (fun n => n = 0) → Replies (.pquery m) s m 0
        (leBytes 8 (s.part p).dry.code ++ ((s.part p).amounts.map (leBytes 8)).flatten) fun t => t.parts = s.parts ∧
          t.mem = s.mem ∧ t.cur = s.cur) ∧
      ((¬here ∨ ¬s.Named0 m (fun n => n = 0)) → Turned (.pdestroy m) s m 2 ∧ Turned (.pquery m) s m 2)) ∧
    (∀ kind xs, s.Items m [0, 1, 2, 3, 4, 5, 6, 7] kind xs →
      let others := ∃ e ∈ s.parts, e.1 ≠ p ∧ ∃ x ∈ xs, e.2.has kind x = true
      (here → (others ∨ s.limitsOk p (xs.foldl (Part.give kind) (s.part p)) = false) → Turned (.pgrant m) s m 1) ∧
      (here → ¬others → s.limitsOk p (xs.foldl (Part.give kind) (s.part p)) = true →
        Replies (.pgrant m) s m 0 [] fun t => (s.part p).Given (t.part p) kind xs ∧ apart t ∧ t.eng.predictor = [] ∧
          (kind ≠ 2 → t.mem = s.mem) ∧
          ∀ x ∈ xs, kind = 2 → unitItem x ∉ (s.part p).units → t.UnitZero (unitItem x)) ∧
      (here → others → Turned (.prevoke m) s m 1) ∧
      (here → ¬others → (∃ x ∈ xs, (s.part p).hasAll kind x = false) → Turned (.prevoke m) s m 2) ∧
      (here → ¬others → (∀ x ∈ xs, (s.part p).hasAll kind x = true) →
        ((∃ x ∈ xs, s.inUse p kind x = true) → Turned (.prevoke m) s m 3) ∧
        ((∀ x ∈ xs, s.inUse p kind x = false) →
          (s.limitsOk p (xs.foldl (Part.take kind) (s.part p)) = false → Turned (.prevoke m) s m 1) ∧
          (s.limitsOk p (xs.foldl (Part.take kind) (s.part p)) = true →
            Replies (.prevoke m) s m 0 [] fun t => (s.part p).Taken (t.part p) kind xs ∧ apart t))) ∧
      (¬here → Turned (.pgrant m) s m 2 ∧ Turned (.prevoke m) s m 2)) ∧
    ((∀ kind xs, ¬s.Items m [0, 1, 2, 3, 4, 5, 6, 7] kind xs) → Turned (.pgrant m) s m 2 ∧ Turned (.prevoke m) s m 2) ∧
    (let v := fun (i : Nat) => opNat l (8 + 8 * i) 8
      let named := s.Named0 m (fun n => n = 0 ∨ (8 ≤ n ∧ n < 72))
      let aligned := v 0 % 4 = 0 ∧ v 1 % 65536 = 0 ∧ v 2 % 65536 = 0 ∧ v 3 % 4096 = 0 ∧ v 4 % 4096 = 0 ∧ v 5 % 4096 = 0 ∧
        v 6 % 32 = 0 ∧ v 7 % 64 = 0
      ((¬here ∨ ¬named ∨ ¬aligned) → Turned (.pbases m) s m 2) ∧
      (here → named → aligned → Replies (.pbases m) s m 0 [] fun t => apart t ∧ t.mem = s.mem ∧ t.cur = s.cur ∧
        t.part p = { s.part p with
          tvec := BitVec.ofNat 64 (v 0), ptroot := BitVec.ofNat 64 (v 1), geobase := BitVec.ofNat 64 (v 2),
          accbase := BitVec.ofNat 64 (v 3), scnbase := BitVec.ofNat 64 (v 4), savebase := BitVec.ofNat 64 (v 5),
          trcdesc := BitVec.ofNat 64 (v 6), poolbase := BitVec.ofNat 64 (v 7) })) ∧
    (∀ kind xs, s.Items m [0, 1, 2, 4] kind xs →
      let others := ∃ e ∈ s.parts, e.1 ≠ p ∧ ∃ x ∈ xs, e.2.has kind x = true
      (¬here → Turned (.drydn m) s m 2) ∧ (here → others → Turned (.drydn m) s m 1) ∧
      (here → ¬others → (∃ x ∈ xs, (s.part p).hasAll kind x = false) → Turned (.drydn m) s m 2) ∧
      (here → ¬others → (∀ x ∈ xs, (s.part p).hasAll kind x = true) → Replies (.drydn m) s m 0 [] fun t => apart t ∧
        (s.eng.cmds = [] → t.mem = s.mem) ∧
        t.part p = (if (s.part p).dry = .running then { s.part p with dry := .quiescing, since := s.clock.cycle }
          else s.part p) ∧
        (s.WellNamed → (s.part p).dry = .running → ∀ g ∈ t.groups, g.part = p → g.hold ≠ .exited → g.stop.isSome = true))) ∧
    (let c := opNat l 0 2
      let n := opNat l 64 256
      let old := Tab.get? c s.host.ctxs
      let x := Ctx.written old n
      let named := s.Named0 m (fun n => n < 2 ∨ (64 ≤ n ∧ n < 320))
      let bad := field n 2 4 < 4 ∨ field n 416 32 < field n 384 32 ∨ (Tab.get? (field n 6 6) s.parts).isSome = false ∨
        field n 12 9 ∉ (s.part (field n 6 6)).vfs ∨ field n 512 64 % 64 ≠ 0 ∨ field n 448 64 % 4096 ≠ 0
      let crowded := n.testBit 0 = true ∧
        4096 ≤ (s.host.ctxs.filter fun (e : Nat × Ctx) => e.1 != c && e.2.valid && e.2.vf == field n 12 9).length
      let wrote := fun (y : Ctx) (t : State) => Tab.get? c t.host.ctxs = some y ∧ t.mem = s.mem ∧ t.cur = s.cur ∧
        ∀ k, k ≠ c → Tab.get? k t.host.ctxs = Tab.get? k s.host.ctxs
      let s' := { s with host := { s.host with ctxs := Tab.erase c s.host.ctxs } }
      let fits := fun (d : CoreId) => d ∈ (s.part x.part).cores ∧ d.die < 4 ∧ d.core < 48 ∧ ∀ k, k < 64 →
        ((s'.laneUse (d.die, d.core, k)).plus
          (({ x with place := some d } : Ctx).share (d.die, d.core, k))).le (9, 10) = true
      (x.fault = false ∧ x.head = (old.map fun o => o.head).getD 0 ∧ x.tail = (old.map fun o => o.tail).getD 0 ∧
        x.period = field n 416 32 ∧ x.fbgt = field n 352 32 ∧ x.msix = field n 21 11 ∧ x.valid = n.testBit 0) ∧
      ((16384 ≤ c ∨ ¬named ∨ bad) → Turned (.ctxwr m) s m 2) ∧
      (c < 16384 → named → ¬bad →
        (crowded → Turned (.ctxwr m) s m 1) ∧
        (¬crowded → (x.valid = false ∨ x.period = 0) → Replies (.ctxwr m) s m 0 [] (wrote x)) ∧
        (¬crowded → x.valid = true → x.period ≠ 0 →
          ((x.fdl = 0 ∨ ∀ d, ¬fits d) → Turned (.ctxwr m) s m 1) ∧
          (x.fdl ≠ 0 → (∃ d, fits d) → ∃ d, fits d ∧ Replies (.ctxwr m) s m 0 [] (wrote { x with place := some d })))))

/-- O49: the other mailbox commands: the alarm policies, RESUME and RESET, debug nonces, grants and revocations, ATTEST, the
firmware updates and the repairs (R20-R22, R55, R122, R124, R134-R136, R138, R139). The random nonces and keys are free values
(log entry 4). -/
def Obligations.SecurityCommands : Prop :=
  ∀ (s : State) (m : Mcmd),
    let l := s.operands m
    let p := opByte l 0
    let calm := fun (t : State) => t.mem = s.mem ∧ t.cur = s.cur ∧ t.parts = s.parts ∧ t.launches = s.launches
    (s.Accepts m .other →
      let code := opByte l 1
      let named := s.Named0 m (fun n => n < 2)
      let policy := if code = 0 then Policy.report else if code = 1 then .halt else .erase
      let allowed := ((p = 1 ∨ p = 2) ∧ (code = 1 ∨ code = 2)) ∨ p = 4
      ((2 < code ∨ 4 < p ∨ ¬named) → Turned (.apolicy m) s m 2) ∧
      (code ≤ 2 → p ≤ 4 → named → ¬allowed → Turned (.apolicy m) s m 5) ∧
      (code ≤ 2 → p ≤ 4 → named → allowed → Replies (.apolicy m) s m 0 [] fun t => calm t ∧
        ∀ k, t.policyOf k = if k = p then policy else s.policyOf k)) ∧
    (s.Accepts m .other →
      let named := s.Named0 m (fun _ => False)
      (¬named → Turned (.resume m) s m 2 ∧ Turned (.dbgnonce m) s m 2) ∧
      (named → (s.sec.state ≠ .halted ∨ s.sec.active ≠ []) → Turned (.resume m) s m 4) ∧
      (named → s.sec.state = .halted → s.sec.active = [] → Replies (.resume m) s m 0 [] fun t => t.sec.state = .attested ∧
        t.mem = s.mem ∧ t.parts = s.parts ∧ t.cur = s.cur ∧
        ∀ q y, s.launch? q = some y → y.reserves = true → ∃ z, t.launch? q = some z ∧ z.voided = true) ∧
      (named → Replies (.dbgnonce m) s m 0 (leBytes 32 (Config.random s.sec.randoms).toNat) fun t => calm t ∧
        t.sec = { s.sec with nonce := some (Config.random s.sec.randoms), randoms := s.sec.randoms + 1 })) ∧
    (s.Accepts m .reset →
      let named := s.Named0 m (fun _ => False)
      (¬named → Turned (.reset m) s m 2) ∧
      (named → s.sec.state ≠ .locked → Turned (.reset m) s m 4) ∧
      (named → s.sec.state = .locked → Replies (.reset m) s m 0 [] fun t => t.sec.state = .booted ∧ t.parts = [] ∧
        t.groups = [] ∧ t.saved = [] ∧ t.launches = [] ∧ t.sec.sessions = [] ∧ t.mem = s.mem)) ∧
    (s.Accepts m .other →
      let here := (Tab.get? p s.parts).isSome = true
      let named := s.Named0 m (fun n => n = 0)
      let signed := s.Named0 m (fun n => n = 0 ∨ (32 ≤ n ∧ n < 96))
      let good := ∃ n, s.sec.nonce = some n ∧ Config.debugVerifies (credentialMessage p n) ((l.drop 32).take 64) = true
      ((¬here ∨ ¬named) → Turned (.dbgrevoke m) s m 2) ∧
      (here → named → Replies (.dbgrevoke m) s m 0 [] fun t => (t.part p).debug = false ∧ t.mem = s.mem ∧
        (∀ g ∈ t.groups, g.part = p → g.dbg.getLsbD 8 = false) ∧
        ∀ c ∈ (s.part p).cores, ∀ k, (Tab.getD (t.core c.die c.core).bpc k 0).getLsbD 63 = false) ∧
      ((¬here ∨ ¬signed) → Turned (.dbggrant m) s m 2) ∧
      (here → signed → good → Replies (.dbggrant m) s m 0 [] fun t => (t.part p).debug = true ∧ t.sec.nonce = none ∧
        t.mem = s.mem ∧ t.cur = s.cur) ∧
      (here → signed → ¬good → Replies (.dbggrant m) s m 5 [] fun t => (t.part p).debug = (s.part p).debug ∧
        t.sec.nonce = none ∧ (s.policyOf 4 = .halt → s.eng.cmds = [] → t.mem = s.mem) ∧ (s.policyOf 4 ≠ .halt → t.mem = s.mem) ∧
        t.sec.ctlFw.staged = false ∧ t.sec.devFw.staged = false ∧
        (s.policyOf 4 = .report → .alarm 4 ∈ t.host.log ∧ t.sec.state = s.sec.state ∧ t.cur = s.cur) ∧
        (s.policyOf 4 = .halt → (s.sec.state = .booted ∨ s.sec.state = .attested) → t.sec.state = .halted) ∧
        (s.policyOf 4 = .erase → t.sec.state = .locked ∧ ∀ e ∈ t.parts, e.2.key = none))) ∧
    (s.Accepts m .attest →
      let named := s.Named0 m (fun n => n < 32)
      let c := s.sec.ctlFw.running
      let d := s.sec.devFw.running
      (¬named → Turned (.attest m) s m 2) ∧
      (named → ∃ result, result.length = 320 ∧
        (let r := leNat (result.take 256);
          field r 0 256 = opNat l 0 32 ∧ field r 256 64 = 0 ∧ field r 320 22 = s.fabric.devid.toNat ∧ field r 342 7 = 0 ∧
          r.testBit 349 = s.sec.ctlFw.runB ∧ field r 352 8 = min c.svn d.svn % 256 ∧ field r 360 24 = 0 ∧
          field r 350 2 = s.sec.state.code ∧
          field r 384 128 = Config.serial.toNat ∧ field r 512 512 = (Config.sha512 c.bytes).toNat ∧
          field r 1024 512 = (Config.sha512 d.bytes).toNat) ∧
        (s.sec.state ≠ .locked →
          leNat (result.drop 256) = (Config.identitySign (Config.sha512 (result.take 256))).toNat) ∧
        Replies (.attest m) s m 0 result fun t => calm t ∧ t.sec.attestedOnce = true ∧
          t.sec.state = if s.sec.state = .booted then .attested else s.sec.state)) ∧
    (s.Accepts m .other →
      let n := opNat l 16 8
      let bytes := s.host.mem.bytes (opNat l 8 8) n
      let named := s.Named0 m (fun n => n = 0 ∨ (8 ≤ n ∧ n < 24))
      let ok := Config.rootVerifies bytes = true ∧ s.sec.fusedSvn ≤ Config.imageSvn bytes
      let f := s.sec.fw p
      ((1 < p ∨ 2 ^ 26 < n ∨ ¬named) → Turned (.fwstage m) s m 2) ∧
      (p ≤ 1 → n ≤ 2 ^ 26 → named → ∃ t code, exec (.fwstage m) s = .next t ∧ calm t ∧ (ok → code = 0) ∧ (¬ok → code = 4) ∧
        t.host.box.running = some ⟨m.tag, code, [], m.session.isSome⟩ ∧ t.sec.fw (1 - p) = s.sec.fw (1 - p) ∧
        (t.sec.fw p).a = (if f.runB = true then some ⟨bytes, Config.imageSvn bytes⟩ else f.a) ∧
        (t.sec.fw p).b = (if f.runB = true then f.b else some ⟨bytes, Config.imageSvn bytes⟩) ∧
        (t.sec.fw p).runB = f.runB ∧ ((t.sec.fw p).staged = true ↔ ok)) ∧
      ((1 < p ∨ ¬s.Named0 m (fun n => n = 0)) → Turned (.fwswitch m) s m 2) ∧
      (p ≤ 1 → s.Named0 m (fun n => n = 0) →
        (f.staged = false → Turned (.fwswitch m) s m 4) ∧
        (f.staged = true → Replies (.fwswitch m) s m 0 [] fun t => calm t ∧ t.sec.fw (1 - p) = s.sec.fw (1 - p) ∧
          t.sec.fw p = { f with runB := !f.runB, staged := false }))) ∧
    (s.Accepts m .other → s.Named0 m (fun n => n = 0 ∨ (8 ≤ n ∧ n < 16)) →
      let x := opNat l 8 8
      let c := coreOf x
      let subst := Tab.getD s.ctl.subst c.die []
      let again := ∃ y ∈ subst, y.core = c.core
      let left := 4 - Tab.getD s.ctl.sparesUsed c.die 0 - subst.length
      let r : RowId := ⟨field x 0 4, field x 4 6, field x 10 4, field x 14 16⟩
      let port := field x 0 6
      (p = 0 → itemOk 0 x = false → Turned (.repairCore m) s m 2) ∧
      (p = 0 → itemOk 0 x = true → again → Replies (.repairCore m) s m 0 [] calm) ∧
      (p = 0 → itemOk 0 x = true → ¬again → c ∉ s.ctl.retired → (∀ y, subst.head? = some y → y.running = true) →
        Replies (.repairCore m) s m (if 0 < left then 0 else 4) [] fun t =>
          Tab.getD t.ctl.subst c.die [] = subst ++ [⟨c.core, false, subst.isEmpty⟩] ∧ (s.eng.cmds = [] → t.mem = s.mem)) ∧
      (p = 1 → (12 ≤ r.stack ∨ 2 ^ 30 ≤ x) → Turned (.repairRow m) s m 2) ∧
      (p = 1 → r.stack < 12 → x < 2 ^ 30 →
        let used := fun n => ∃ e ∈ (s.stack r.stack).remap, e.row.pc = r.pc ∧ e.row.bank = r.bank ∧ e.spare = n
        ((∀ n, n < 32 → used n) → Turned (.repairRow m) s m 4) ∧
        ((∃ n, n < 32 ∧ ¬used n) → Replies (.repairRow m) s m 0 [] fun t => calm t ∧ r ∈ t.ctl.remapQueue)) ∧
      (p = 2 → (36 ≤ port ∨ 2 ^ 8 ≤ x) → Turned (.repairLane m) s m 2) ∧
      (p = 2 → port < 36 → x < 2 ^ 8 →
        (Tab.getD s.fabric.failedLanes port 0 ≠ 0 → Turned (.repairLane m) s m 4) ∧
        (Tab.getD s.fabric.failedLanes port 0 = 0 → Replies (.repairLane m) s m 0 [] fun t => calm t ∧
          Tab.getD t.fabric.failedLanes port 0 = 2 ^ field x 6 2)))

/-! ### The host and the boot chain (spec/07) -/

/-- O50: doorbells, rings, resets of functions and the boot chain (R119, R129-R131, R134, R139): a doorbell is discarded, held,
a fault of its ring, or its new TAIL; a ring entry is presented and its context waits for the status; a function-level reset
clears V of its contexts and drops the entries that they have not presented and the doorbells that it holds; a hot reset the
mailbox and every context; BOOT runs image A, else B, and no partition exists. What stays over a boot and a hot reset is the
model's choice (log entries 28 and 33). -/
def Obligations.HostSide : Prop :=
  (∀ (s : State) (vf offset : Nat) (value : Word),
    let ws := fun (t : State) => exec (.doorbellWrite vf offset value) s = .next t
    let logged := { s with host := { s.host with log := s.host.log ++ [.doorbell] } }
    (s.sec.state = .locked → ws s) ∧
    (s.sec.state ≠ .locked → (s.ctxsOf vf).length ≤ offset / 8 → ws logged) ∧
    ∀ c x, s.sec.state ≠ .locked → (s.ctxsOf vf)[offset / 8]? = some (c, x) → Tab.get? c s.host.ctxs = some x →
      let rings := (s.part x.part).dry = .running ∧ s.sec.state ≠ .halted
      let put := fun (y : Ctx) (t : State) => Tab.get? c t.host.ctxs = some y ∧ t.mem = s.mem ∧ t.cur = s.cur ∧
        (∀ k, k ≠ c → Tab.get? k t.host.ctxs = Tab.get? k s.host.ctxs) ∧ t.host.log = s.host.log
      ((offset % 8 ≠ 0 ∨ 2 ^ 16 ≤ offset) → ws logged) ∧
      (offset % 8 = 0 → offset < 2 ^ 16 →
        (¬rings → ws { s with host := { s.host with heldDoorbells := s.host.heldDoorbells ++ [(vf, offset, value)] } }) ∧
        (rings → 2 ^ 32 ≤ value.toNat → ws logged) ∧
        (rings → value.toNat < 2 ^ 32 → x.fault = true → ws s) ∧
        (rings → value.toNat < 2 ^ 32 → x.fault = false →
          2 ^ x.rsize < (value.toNat + 2 ^ 32 - x.head.toNat) % 2 ^ 32 → ∃ t, ws t ∧ put { x with fault := true } t ∧
            t.host.msix = s.host.msix ++ [(x.vf, x.msix)]) ∧
        (rings → value.toNat < 2 ^ 32 → x.fault = false →
          (value.toNat + 2 ^ 32 - x.head.toNat) % 2 ^ 32 ≤ 2 ^ x.rsize →
          ∃ t, ws t ∧ put { x with tail := value.setWidth 32 } t ∧ t.host.msix = s.host.msix))) ∧
  (∀ (s : State) (c : Nat), (Tab.get? c s.host.ctxs = none → exec (.ringEntry c) s = .next s) ∧
    ∀ x, Tab.get? c s.host.ctxs = some x →
      let ready := x.valid = true ∧ x.fault = false ∧ x.head ≠ x.tail ∧ (s.part x.part).dry = .running ∧
        s.sec.state ≠ .halted ∧ s.sec.state ≠ .locked ∧ c ∉ s.host.pendingRing
      let bs := s.host.mem.bytes (x.ringBase.toNat + 64 * (x.head.toNat % 2 ^ x.rsize)) 64
      (¬ready → exec (.ringEntry c) s = .next s) ∧
      (ready → ∃ t y, exec (.ringEntry c) s = .next t ∧ t.presented = s.presented ++ [s.nextSeq] ∧
        t.nextSeq = s.nextSeq + 1 ∧ t.launch? s.nextSeq = some y ∧ y.state = .submitted ∧ y.from_ = .ring c ∧
        y.part = x.part ∧ y.p = packetOf (leNat bs) ∧ y.seq = s.nextSeq ∧
        t.host.pendingRing = s.host.pendingRing ++ [c] ∧ t.host.ctxs = s.host.ctxs ∧ t.mem = s.mem ∧ t.cur = s.cur)) ∧
  (∀ (s : State) (vf : Nat), ∃ t, exec (.functionLevelReset vf) s = .next t ∧
    t = { s with host := { s.host with
      ctxs := t.host.ctxs, heldDoorbells := s.host.heldDoorbells.filter fun (d : Nat × Nat × Word) => d.1 != vf } } ∧
    (∀ e ∈ t.host.ctxs, e.2.vf = vf → e.2.valid = false) ∧
    ∀ c x, Tab.get? c s.host.ctxs = some x → Tab.get? c t.host.ctxs =
      some (if x.vf = vf then { x with
        valid := false, place := none, drawn := [], tail := if c ∈ s.host.pendingRing then x.head + 1 else x.head } else x)) ∧
  (∀ (s : State), ∃ t, exec .pfHotReset s = .next t ∧
    t = { s with host := { s.host with box := t.host.box, ctxs := t.host.ctxs } } ∧
    t.host.box.running = none ∧ t.host.box.mopnd = [] ∧ t.host.box.mres = [] ∧ t.host.box.status = 0 ∧
    ∀ e ∈ t.host.ctxs, e.2.valid = false ∧ e.2.fault = false ∧ e.2.head = 0 ∧ e.2.tail = 0) ∧
  (∀ (s : State) (b : BootIn),
    let good := fun (i : Option Image) => ∃ j, i = some j ∧ Config.rootVerifies j.bytes = true ∧ s.sec.fusedSvn ≤ j.svn
    let ok := fun (f : Firmware) => good f.a ∨ good f.b
    ∃ t, exec (.boot b) s = .next t ∧ t.sec.state = .booted ∧ t.parts = [] ∧ t.groups = [] ∧ t.saved = [] ∧ t.launches = [] ∧
      t.sec.sessions = [] ∧ t.sec.attestedOnce = false ∧ t.fabric.devid = b.devid ∧ t.clock.rtc = b.rtc ∧ t.clock.cycle = 0 ∧
      t.clock.open_ = false ∧ t.mem = s.mem ∧ t.poison = s.poison ∧
      (t.sec.bootFailed = true ↔ ¬(ok s.sec.ctlFw ∧ ok s.sec.devFw)) ∧
      (t.sec.ctlFw.runB = true ↔ ¬good s.sec.ctlFw.a ∧ good s.sec.ctlFw.b) ∧
      (t.sec.devFw.runB = true ↔ ¬good s.sec.devFw.a ∧ good s.sec.devFw.b) ∧
      ∀ n u, n < 12 → (u ∈ (t.stack n).hbmCache ↔ (n, u) ∈ b.hbmCache) ∧ (u ∈ (t.stack n).tierCache ↔ (n, u) ∈ b.tierCache))

/-! ### Launches (spec/08) -/

/-- O51: the arbiter's decision on the oldest presented launch (R128, R130, R140, R141, R144, R147, R149, R163): malformed 2, no
capacity 1, admitted 0; an admitted launch is active, or held until START; a guaranteed one stands on a placement whose every
lane stays within the test, with its absolute deadline; the status goes to the submitter's register, or to its ring. The lanes'
test is stated through the model's sums of R147, and the frames of a context by the model's choice of log entry 26. The
placement taken is that of log entry 25. -/
def Obligations.LaunchDecisions : Prop :=
  (∀ (s : State), (s.presented = [] ∨ s.arbitrating = false ∨ ∃ seq q, s.presented = seq :: q ∧ s.descOut seq = true) →
    exec .launchAdmission s = .next s) ∧
  ∀ (s : State) (seq : Nat) (q : List Nat), s.presented = seq :: q → s.arbitrating = true → s.descOut seq = false →
    (s.launch? seq = none → exec .launchAdmission s = .next { s with presented := q }) ∧
    (∀ l, s.launch? seq = some l → l.seq = seq → s.descNeeds l ≠ [] → ∃ t, exec .launchAdmission s = .next t ∧ t.presented = s.presented ∧
      t.launches = s.launches ∧ t.mem = s.mem ∧ t.home = s.home ∧ t.cur = s.cur ∧ t.descOut seq = true) ∧
    ∀ l, s.launch? seq = some l → l.seq = seq → s.descNeeds l = [] →
      let p := l.p
      let now := s.clock.time.toNat
      let cores := ∃ d c, d < 4 ∧ c < 48 ∧ (p.dieMask = 0 ∨ p.dieMask.testBit d = true) ∧ ⟨d, c⟩ ∈ (s.part l.part).cores
      let malformed := p.entry.toNat % 4 ≠ 0 ∨ p.entry = 0 ∨ p.token.toNat % 32 ≠ 0 ∨ p.gx = 0 ∨ p.gy = 0 ∨ p.gz = 0 ∨
        p.cls = 3 ∨ 4 < p.acct ∨ p.gsz = 1 ∨ p.gsz = 7 ∨ 8 < p.xq ∨ (p.cls = 0 ∧ 8 < p.notes) ∨ 48 < p.ncore ∨ p.reserved ≠ 0 ∨
        2048 < p.lsu ∨ p.pipe.toNat % 64 ≠ 0 ∨ (p.gsz ≠ 0 ∧ p.gx * p.gy * p.gz % p.gsz ≠ 0) ∨ (p.acct ≠ 0 ∧ p.gsz = 0) ∨
        (p.gsz ≠ 0 ∧ p.acct = 0) ∨ (p.cls = 0 ∧ p.dl = 0) ∨ ¬cores
      let stages := if p.pipe = 0 then some [] else s.stagesOf l
      let ring := fun (code c : Nat) (x : Ctx) (t : State) =>
        t.host.mem = s.host.mem.putBytes (x.statBase.toNat + 8 * (x.head.toNat % 2 ^ x.rsize))
          (leBytes 8 (code + seq % 2 ^ 32 * 2 ^ 32)) ∧
        (∃ y, Tab.get? c t.host.ctxs = some y ∧ y.head = x.head + 1 ∧ y.tail = x.tail) ∧
        t.host.pendingRing = s.host.pendingRing.filter (fun k => k != c) ∧ t.host.msix = s.host.msix ++ [(x.vf, x.msix)]
      let toRing := fun (code : Nat) (t : State) =>
        ∃ c x, l.from_ = .ring c ∧ Tab.get? c s.host.ctxs = some x ∧ ring code c x t
      let op := fun (id : Nat) (o : Op) (r : Nat) (g : Group) => Tab.get? id s.eng.ops = some o ∧ o.kind = .status seq r ∧
        96 ≤ r ∧ (∀ e ∈ s.eng.ops, ∀ k, e.2.kind = .status seq k → e = (id, o)) ∧ o.faults = [] ∧ 4 ≤ o.counter ∧
        s.group? o.g = some g ∧ g.hold ≠ .exited ∧ g.hand = none ∧ g.dbg.getLsbD 8 = false
      let toGroup := fun (code : Nat) (t : State) => ∃ id o r g h, l.from_ = .group o.g ∧ op id o r g ∧
        Tab.get? id t.eng.ops = none ∧ t.group? o.g = some h ∧ h.v = g.v ∧ h.k = g.k ∧ t.host.mem = s.host.mem ∧
        ∀ m, h.gget m = if m + 96 = r ∧ m ≠ 31 then BitVec.ofNat 64 code else g.gget m
      let plain := (∃ c x, l.from_ = .ring c ∧ Tab.get? c s.host.ctxs = some x) ∨
        ∃ id o r g, l.from_ = .group o.g ∧ op id o r g
      let decided := fun (code : Nat) (P : Launch → Prop) => ∃ t y, exec .launchAdmission s = .next t ∧ t.presented = q ∧
        t.launch? seq = some y ∧ (∀ k, k ≠ seq → t.launch? k = s.launch? k) ∧ t.mem = s.mem ∧ y.p = p ∧ P y ∧
        (toRing code t ∨ toGroup code t)
      let begun := fun (y : Launch) => y.state = if now < p.start.toNat then .held else .active
      plain →
        ((malformed ∨ stages = none) → decided 2 fun y => y.state = .refused) ∧
        ∀ sts, ¬malformed → stages = some sts →
          let l' := { l with stages := sts }
          let own := max p.start.toNat now + p.dl
          let frame := fun (x : Ctx) => ∃ c, l.from_ = .ring c ∧ Tab.get? c s.host.ctxs = some x ∧ x.valid = true ∧
            x.period ≠ 0
          let tested := fun (y : Launch) => sts = [] → ∀ k ∈ y.place,
            ((s.laneUse k).plus (y.share k)).le (9, 10) = true
          ((s.part l.part).dry ≠ .running → decided 1 fun y => y.state = .refused) ∧
          ((s.part l.part).dry = .running → p.cls ≠ 0 → decided 0 fun y => begun y ∧ y.deadline = none ∧ y.stages = sts) ∧
          ((s.part l.part).dry = .running → p.cls = 0 → (∀ x, ¬frame x) →
            (s.findPlace l' = none → decided 1 fun y => y.state = .refused) ∧
            (∀ pl, s.findPlace l' = some pl → decided 0 fun y => begun y ∧ y.place = pl ∧ tested y ∧
              y.deadline = some (BitVec.ofNat 64 own) ∧ y.stages = sts)) ∧
          ∀ x, (s.part l.part).dry = .running → p.cls = 0 → frame x →
            let due := min own (x.frameDeadline (max p.start.toNat now))
            let on := fun (core : CoreId) => { l' with framed := true, place := assign [core] p }
            let draws := fun (core : CoreId) => x.place = some core ∧ p.waits < p.dl ∧ core ∈ s.coresFor l.part p ∧
              s.channelOk l.part p = true ∧ (∀ k ∈ (on core).lanes, s.laneOk (on core) k = true) ∧
              (x.draw (on core) now (max p.start.toNat now)).isSome = true
            (∀ core, draws core → decided 0 fun z => begun z ∧ z.framed = true ∧ z.place = assign [core] p ∧
              z.deadline = some (BitVec.ofNat 64 due)) ∧
            ((∀ core, ¬draws core) →
              (s.findPlace l' = none → decided 1 fun y => y.state = .refused) ∧
              ∀ pl, s.findPlace l' = some pl → decided 0 fun y => begun y ∧ y.place = pl ∧ tested y ∧
                y.deadline = some (BitVec.ofNat 64 due))

/-- O52: the life of a launch (R144, R154, R162, R163, R439): a held launch becomes active at START; past its deadline the marks
that count at a miss void it; an ended launch loses its groups and records; with no group and no work left the token is written,
DONE last, with the first status of 5, 4, 2, 3, 1, 0 that applies. -/
def Obligations.LaunchLives : Prop :=
  ∀ (s : State) (seq : Nat),
    (s.launch? seq = none → ∀ i ∈ [Instr.launchStart seq, .deadlinePass seq, .launchEnd seq, .launchCompletion seq,
      .groupDispatch seq], exec i s = .next s) ∧
    ∀ l, s.launch? seq = some l → l.seq = seq →
      let now := s.clock.time.toNat
      let becomes := fun (i : Instr) (P : State → Launch → Prop) => ∃ t y, exec i s = .next t ∧ t.launch? seq = some y ∧ P t y
      let starts := l.state = .held ∧ l.p.start.toNat ≤ now ∧ (s.part l.part).dry = .running ∧ s.arbitrating = true
      let late := l.p.cls = 0 ∧ ∃ d, l.deadline = some d ∧ d.toNat < now
      let miss := l.reserves = true ∧ l.deadlinePassed = false ∧ late
      (starts → becomes (.launchStart seq) fun t y => y = { l with state := .active } ∧ t.cur = s.cur ∧ t.mem = s.mem) ∧
      (¬starts → exec (.launchStart seq) s = .next s) ∧
      (miss → becomes (.deadlinePass seq) fun t y => t.cur = s.cur ∧ t.mem = s.mem ∧
        y = { l with deadlinePassed := true, voided := l.voided || s.missed l }) ∧
      (¬miss → exec (.deadlinePass seq) s = .next s) ∧
      ((l.state = .held ∨ l.state = .active ∨ l.state = .draining) → (∀ g ∈ s.rest, g.live = true) →
        becomes (.launchEnd seq) fun t y => y.state = .ending ∧ y.ended = true ∧ (∀ e ∈ y.stages, e.2.queue = []) ∧
          (∀ g ∈ t.groups, g.launch ≠ seq) ∧ (∀ g ∈ t.saved, g.launch ≠ seq) ∧ (∀ x ∈ t.teams, x.launch ≠ seq) ∧
          t.mem = s.mem ∧ t.eng.cmds.length = s.eng.cmds.length ∧ t.eng.rays.length = s.eng.rays.length) ∧
      (¬(l.state = .held ∨ l.state = .active ∨ l.state = .draining) → exec (.launchEnd seq) s = .next s) ∧
      (let runs := l.state = .active ∨ l.state = .draining ∨ l.state = .ending
        let groups := (l.ended = false ∧ l.nextGix < l.p.groups) ∨ ∃ g ∈ s.groups ++ s.saved, g.launch = seq
        let records := ∃ e ∈ l.stages, e.2.queue ≠ []
        let work := (∃ e ∈ s.eng.cmds, e.2.launch = seq) ∨ (∃ d ∈ s.eng.draws, d.launch = seq) ∨
          (∃ e ∈ s.eng.rays, e.2.launch = seq) ∨ (∃ e ∈ s.eng.records, e.2.launch = seq) ∨ (records ∧ l.ended = false)
        let status :=
          if l.ended = true ∧ l.noCap = false then 5 else if l.noCap = true then 4 else if l.overrun = true then 2
          else if l.voided = true ∨ (miss ∧ s.missed l = true) then 3 else if late then 1 else 0
        let token := leBytes 8 1 ++
          leBytes 24 (status + l.skip * 2 ^ 8 + l.depthX * 2 ^ 32 + now * 2 ^ 64 + seq * 2 ^ 128)
        let a := l.p.token.toNat
        let open_ := runs ∧ ¬groups ∧ (s.part l.part).dry = .running
        (¬open_ → exec (.launchCompletion seq) s = .next s) ∧
        (open_ → work → l.ended = true → exec (.launchCompletion seq) s = .next s) ∧
        (open_ → work → l.ended = false → becomes (.launchCompletion seq) fun t y =>
          y = { l with state := .draining } ∧ t.cur = s.cur ∧ t.mem = s.mem ∧ t.home = s.home) ∧
        (open_ → ¬work → s.eng.waiters = [] → becomes (.launchCompletion seq) fun t y => y.state = .done ∧
          t.cur = s.cur ∧
          ∀ m, l.place = [] → m.space < 3 → s.mem.wf = true → (∀ i, i < 32 → s.oneHome m.space (m.phys (a + i))) →
            (∀ i j, i < 32 → j < 32 → m.phys (a + i) = m.phys (a + j) → i = j) →
            (∀ u : State, s.TablesAs u (fun b => ∃ i, i < 32 ∧ b = m.phys (a + i)) →
              u.unitMap l.part (a + 8) 24 true = .ok m ∧ u.unitMap l.part a 8 true = .ok m) →
            ∀ i, i < 32 → t.homeByte m.space (m.phys (a + i)) = token.getD i 0))

/-- O53: dispatch (R142, R145-R147, R183, R201): the next groups go to the lanes that the placement rule gives, and start as
R142 says. Stages of a pipeline (R143, R158-R160, R422): a stage is eligible by its queue, its flush time or its finished
sources, while every queue it emits to is below three quarters; its predicate is read once at that instant, and on zero the
records go and are counted; an eligible stage takes up to 32 records, of those that its predicate saw, into a group that runs
one thread a record. The index of such a group is a free value (log entry 4). -/
def Obligations.GroupStarts : Prop :=
  (∀ (s : State) (seq : Nat) (l : Launch), s.launch? seq = some l → l.seq = seq →
     let turn := l.state = .active ∧ l.nextGix < l.p.groups ∧ s.arbitrating = true ∧ (s.part l.part).dry = .running ∧
       s.gridTurn l = true
     let base := 16 * (l.p.regs + 1)
     let starts := fun (t : State) (g : Group) (n : Nat) (k : Nat × Nat × Nat) => g.live = true ∧ g.launch = seq ∧
       g.part = l.part ∧ g.gix = l.nextGix + n ∧ g.stage = 0 ∧ g.base = base ∧ g.id.die = k.1 ∧ g.id.core = k.2.1 ∧
       g.id.lane = k.2.2 ∧ (∀ i, i < g.id.slot → ∃ h ∈ s.onLane k, h.id.slot = i) ∧
       (∀ m, g.gget m = if m = 0 then l.p.args else 0) ∧ (∀ m i, g.vget m i = 0) ∧ (∀ m, m ≠ 0 → g.kget m = 0) ∧
       g.kget 0 = BitVec.allOnes 32 ∧ g.spLive = true ∧ g.other = none ∧ g.spill = [] ∧ g.rejoin = [] ∧
       g.sp.mask = BitVec.allOnes 32 ∧ g.sp.fmt = 0 ∧ g.sp.pc = l.p.entry.setWidth 48 ∧
       g.bgt = (if l.overrun = true then 0 else BitVec.ofNat 64 l.p.bgt) ∧ g.dl = l.deadline.getD (BitVec.allOnes 64) ∧
       g.tiles = [] ∧ g.hand = none ∧ g.trc.on = l.p.trace ∧ g.lsize = l.lmax * 256 ∧ (t.team? g).isSome = true
     (¬turn → exec (.groupDispatch seq) s = .next s) ∧
     (turn → s.nextLanes l = none → exec (.groupDispatch seq) s = .next s) ∧
     (turn → l.p.gsz = 0 → ∀ ks, s.nextLanes l = some ks → (l.p.cls = 0 → l.nextGix < l.place.length) →
       ∃ t g k y, exec (.groupDispatch seq) s = .next t ∧ ks = [k] ∧ t.rest = s.rest ++ [g] ∧ t.cur = s.cur ∧ starts t g 0 k ∧
         g.gang = [] ∧ t.mem = s.mem ∧ t.home = s.home ∧ t.launch? seq = some y ∧ y.nextGix = l.nextGix + 1 ∧
         s.canTake l base 0 k = true ∧
         (l.p.cls = 0 → l.place[l.nextGix]? = some k) ∧
         (l.p.cls ≠ 0 → ∀ j ∈ s.lanesFor l base, s.canTake l base 0 j = true →
           (s.onLane k).length ≤ (s.onLane j).length)) ∧
     (turn → 2 ≤ l.p.gsz → l.p.cls ≠ 0 → ∀ ks, s.nextLanes l = some ks → ∃ t gs, exec (.groupDispatch seq) s = .next t ∧
       t.rest = s.rest ++ gs ∧ gs.length = l.p.gsz ∧ ks.length = l.p.gsz ∧ t.cur = s.cur ∧ t.mem = s.mem ∧
       (∀ j k, j ∈ ks → k ∈ ks → j.1 = k.1 ∧ j.2.1 = k.2.1 ∧ j.2.2 / 16 = k.2.2 / 16) ∧
       ∀ n g, gs[n]? = some g → g.gangPos = n ∧ g.gang.length = l.p.gsz ∧ g.gang[n]? = some (g.id.lane % 16, g.id.slot) ∧
         g.gix = l.nextGix + n ∧ g.launch = seq ∧ g.acct = l.p.acct ∧ g.sp.pc = l.p.entry.setWidth 48)) ∧
  (∀ (s : State) (seq k : Nat) (l : Launch) (st : Stage), s.launch? seq = some l → l.seq = seq → Tab.get? k l.stages = some st →
     s.arbitrating = true → (s.part l.part).dry = .running → (∀ e ∈ l.stages, Tab.get? e.1 l.stages = some e.2) →
     let flushed := st.flush ≠ 0 ∧ ∃ r rs, st.queue = r :: rs ∧ r.arrived.toNat + st.flush ≤ s.clock.time.toNat
     let quiet := ∀ e ∈ l.stages, e.1 ≠ k → e.2.outMask.testBit k = true →
       (∀ g ∈ s.groups ++ s.saved, ¬(g.launch = seq ∧ g.stage = e.1)) ∧ e.2.queue = [] ∧
       (e.1 = 0 → l.p.groups ≤ l.nextGix)
     let room := ∀ e ∈ l.stages, st.outMask.testBit e.1 = true → 4 * e.2.queue.length < 3 * e.2.cap
     let opens := k ≠ 0 ∧ (l.state = .active ∨ l.state = .draining) ∧ st.queue ≠ [] ∧
       (st.cap ≤ 2 * st.queue.length ∨ flushed ∨ quiet) ∧ room
     let n := min 32 st.queue.length
     let same := fun (t : State) => t.mem = s.mem ∧ t.home = s.home ∧ t.cur = s.cur
     let join := if st.pred = 0 then 32 else st.queue.length
     let m := min (min 32 st.join) st.queue.length
     let marks := fun (i : Instr) (b : Bool) => ∃ t y z, exec i s = .next t ∧ same t ∧ t.rest = s.rest ∧
       t.launch? seq = some y ∧ Tab.get? k y.stages = some z ∧ z = { st with eligible := b, join := if b = true then join else 0 } ∧ y.skip = l.skip
     let skips := fun (i : Instr) => ∃ t y z, exec i s = .next t ∧ same t ∧ t.rest = s.rest ∧ t.launch? seq = some y ∧
       Tab.get? k y.stages = some z ∧ z = { st with queue := st.queue.drop n } ∧ y.skip = min (l.skip + n) (2 ^ 24 - 1)
     (¬opens → marks (.stageGroupFormation seq k) false) ∧
     (opens → st.eligible = false → s.predOf l.part st = true → marks (.stageGroupFormation seq k) true) ∧
     (opens → st.eligible = false → s.predOf l.part st = false → skips (.stageGroupFormation seq k)) ∧
     (opens → st.eligible = true → (s.formedNow l.die = true ∨ s.stageLane l st = none) →
       exec (.stageGroupFormation seq k) s = .next s) ∧
     (opens → st.eligible = true → s.formedNow l.die = false → ∀ lane, s.stageLane l st = some lane →
       ∃ t g y z, exec (.stageGroupFormation seq k) s = .next t ∧ same t ∧ t.rest = s.rest ++ [g] ∧ g.stage = k ∧
         g.launch = seq ∧ g.id.die = lane.1 ∧ g.id.core = lane.2.1 ∧ g.id.lane = lane.2.2 ∧
         g.sp.pc = st.entry.setWidth 48 ∧ g.bgt = (if l.overrun = true then 0 else BitVec.ofNat 64 st.bgt) ∧
         (∀ i, i < 32 → inMask g.sp.mask i = decide (i < m)) ∧ g.depths = (st.queue.take m).map (fun r => r.depth) ∧
         t.launch? seq = some y ∧ Tab.get? k y.stages = some z ∧ z.queue = st.queue.drop m ∧ z.eligible = false ∧
         ((∀ x ∈ s.teams, x.ls.wf = true) → (∀ r ∈ st.queue, r.bytes.length = st.recSize) → ∃ x, t.team? g = some x ∧
           ∀ i j r, st.queue[i]? = some r → i < m → j < st.recSize →
             x.ls.byte (g.lsb + i * st.recSize + j) = r.bytes.getD j 0)) ∧
     (let due := opens ∧ flushed ∧ st.eligible = false;
       (due → s.predOf l.part st = true → marks (.flushTimeout seq k) true) ∧
       (due → s.predOf l.part st = false → skips (.flushTimeout seq k)) ∧
       (¬due → exec (.flushTimeout seq k) s = .next s)))

/-! ### Pre-emption (spec/10) -/

/-- O54: pre-emption stops, drains and saves a group, and its resume brings it back (R91, R165, R184, R188, R199-R202): what
waits is withdrawn to issue anew; loads that have not landed within 4 µs are abandoned and trap with 0x0D at resume; the image
keeps everything but the tiles; the group returns at its saved splits, or in one split at the restart label of its matrix block,
and its scratch range reads zero. -/
def Obligations.Preemption : Prop :=
  (∀ (s : State) (i : Gid), s.group? i = none →
    ∀ e ∈ [Instr.groupPreempt i, .preemptLoadAbandon i, .groupSave i], exec e s = .next s) ∧
  (∀ (s : State) (i : Gid) (g : Group), s.group? i = some g →
    let same := fun (t : State) => t.mem = s.mem ∧ t.home = s.home ∧ t.teams = s.teams ∧ t.launches = s.launches ∧
      t.host = s.host
    let regs := fun (h : Group) => h.v = g.v ∧ h.g = g.g ∧ h.k = g.k ∧ h.q = g.q ∧ h.tiles = g.tiles ∧
      h.rejoin = g.rejoin ∧ h.hand = g.hand ∧ h.shadow = g.shadow ∧ h.bgt = g.bgt
    let ldfe := s.ldfeWaiting i
    let anew := fun (p : Split) => { p with wait := .none, charged := false }
    let withdrawn := fun (p : Split) =>
      match p.wait with
      | .sleep _ n => { p with wait := .none, pc := p.pc - BitVec.ofNat 48 n, charged := false }
      | .barrier .. => { p with charged := false }
      | .counters .. | .counterFull _ | .acquire | .block | .queue .. | .stage .. | .rays _ | .latch | .tile _ | .fill _ =>
        anew p
      | .op id => if id ∈ ldfe then anew p else p
      | _ => p
    ((g.hold = .exited ∨ g.stop.isSome = true) → exec (.groupPreempt i) s = .next s) ∧
    (g.hold ≠ .exited → g.stop = none → g.gang = [] → s.relOut i = false → (∀ e ∈ s.eng.cmds, ¬(e.2.g = i ∧ e.2.dls = true)) →
      ∃ t h, exec (.groupPreempt i) s = .next t ∧
      same t ∧ t.group? i = some h ∧ h.stop = some s.clock.cycle ∧ regs h ∧ h.held = g.held ∧ h.sp = withdrawn g.sp ∧
      h.other = g.other.map withdrawn ∧ h.spill = g.spill.map withdrawn ∧ h.cntS = g.cntS ∧ h.cntC = g.cntC ∧
      h.cntL = g.cntL - ldfe.length ∧ (∀ m ∈ t.eng.latch, m.g ≠ i)) ∧
    (g.hold ≠ .exited → g.stop = none → s.WellNamed → ∀ j h, j ∈ g.gangIds → s.group? j = some h → h.launch = g.launch →
      h.hold ≠ .exited → ∃ t u, exec (.groupPreempt i) s = .next t ∧ t.group? j = some u ∧ u.stop.isSome = true) ∧
    (let early := ∀ c, g.stop = some c → s.clock.cycle < c + 10800
      let late := fun (o : Op) => o.g = i ∧ o.kind.drains = true ∧ ∀ q r, o.kind ≠ .status q r;
      (early → exec (.preemptLoadAbandon i) s = .next s) ∧
      (¬early → ∃ t h, exec (.preemptLoadAbandon i) s = .next t ∧ same t ∧ t.group? i = some h ∧ regs h ∧
        (∀ e ∈ t.eng.ops, ¬late e.2) ∧
        (∀ e ∈ s.eng.ops, late e.2 → ∀ v ∈ e.2.vas, ∃ d ∈ h.abandoned, d.slot = e.2.slot ∧ ∃ f ∈ d.faults, f.thread = v.1) ∧
        (g.abandoned = [] → ∀ d ∈ h.abandoned, d.deferred = true ∧ d.kind.getLsbD 3 = true ∧ ∀ f ∈ d.faults, f.cause = 0x0D ∧
          ∃ e ∈ s.eng.ops, late e.2 ∧ e.2.slot = d.slot ∧ (f.thread, f.addr) ∈ e.2.vas) ∧
        ∀ d, d ∈ h.held ↔ d ∈ g.held ∨ ∃ e ∈ s.eng.ops, late e.2 ∧ e.2.faults ≠ [] ∧ d.faults = e.2.faults ∧
          d.kind = e.2.kindByte ∧ d.omask = e.2.omask ∧ d.iw0 = e.2.iw0 ∧ d.slot = e.2.slot ∧ d.counter = 4 ∧
          d.deferred = false)) ∧
    (g.stop = none → exec (.groupSave i) s = .next s) ∧
    (g.gang = [] → g.stop.isSome = true → g.hold ≠ .exited → s.drained g = false → exec (.groupSave i) s = .next s) ∧
    (g.gang = [] → g.stop.isSome = true → s.drained g = true → ∃ t h, exec (.groupSave i) s = .next t ∧ t.mem = s.mem ∧
      t.home = s.home ∧ t.teams = s.teams ∧ t.launches = s.launches ∧ t.group? i = none ∧ h ∈ t.saved ∧ h = { g with id := h.id, tiles := [], stop := none } ∧ h.id.die = i.die ∧
      h.id.core = i.core ∧ h.id.lane = i.lane ∧ h.id.slot % 8 = i.slot % 8)) ∧
  (∀ (s : State) (i : Gid), s.saved? i = none → exec (.groupResume i) s = .next s) ∧
  (∀ (s : State) (i : Gid) (x : Group), s.saved? i = some x →
    let new : Gid := { i with slot := s.slotFor x }
    let back := fun (t : State) => exec (.groupResume i) s = .next t ∧ t.mem = s.mem ∧ t.home = s.home ∧ t.cur.id = new ∧
      t.cur.live = true ∧ t.cur.stop = none ∧ (∀ h ∈ t.saved, h.id ≠ i) ∧ t.cur.g = x.g ∧ t.cur.v = x.v ∧
      t.cur.k = x.k ∧ t.cur.q = x.q ∧ t.cur.tiles = x.tiles ∧ t.cur.bgt = x.bgt ∧ t.cur.launch = x.launch
    (s.mayResume x = false → exec (.groupResume i) s = .next s) ∧
    (s.mayResume x = true → x.gang = [] → x.live = true → (∀ h ∈ s.groups, h.id ≠ i ∧ h.id ≠ new) → x.hold = .none →
      x.hand = none → x.held = [] → (∀ e ∈ x.rejoin, e.expired s.clock.time = false) →
      (x.abandoned = [] → x.block = none → ∃ t, back t ∧ t.cur.sp = x.sp ∧ t.cur.other = x.other ∧
        t.cur.spill = x.spill ∧ t.cur.rejoin = x.rejoin ∧ t.cur.hand = none ∧
        ∀ a, s.team? x = some a → ∃ b, t.team? t.cur = some b ∧ ∀ n, b.ls.byte n =
          if x.lsb + x.scrb ≤ n ∧ n < x.lsb + x.scrb + (x.lsize - x.scrb) then 0 else a.ls.byte n) ∧
      (∀ b, x.abandoned = [] → x.block = some b → ∃ t, back t ∧ t.cur.slot = false ∧ t.cur.other = none ∧ t.cur.spill = [] ∧
        t.cur.sp = { Split.empty with
          mask := b.mask, fmt := b.fmt, token := b.token, depth := b.depth, pc := b.label, age := s.clock.cycle } ∧
        t.cur.rejoin = x.rejoin.filter (fun e => b.live.contains e.token) ∧ t.cur.rcnt = min 255 (x.rcnt + 1)) ∧
      (∀ d l p, x.abandoned = d :: l → d.deferred = true → d.faults ≠ [] → (∀ f ∈ d.faults, f.cause = 0x0D ∧ f.thread < 32) →
        x.inSlot d.slot = some p → x.block = none →
        ∃ t r, back t ∧ t.cur.tcause = 0x0D ∧ t.cur.hand = some r ∧ r.slot = d.slot ∧ r.rec_.st = 0 ∧ r.rec_.pc = p.pc ∧
          t.cur.sp.mask = maskOf (d.faults.map fun f => f.thread) ∧ t.cur.abandoned = [] ∧
          t.cur.sp.pc = (s.part x.part).tvec.setWidth 48))) ∧
  (∀ (s : State) (die core line : Nat), ∃ t, exec (.coreCacheEviction die core line) s = .next t ∧
    t.cur = s.cur ∧ ∀ space p, p < 2 ^ 48 →
      let k := space * 2 ^ 48 + p
      let c := Tab.get? k (s.core die core).cache
      (k / 64 = line → Tab.get? k (t.core die core).cache = none) ∧
      let settled := s.mem.wf = true ∧ space < 3 ∧ s.oneView die core space p
      (k / 64 ≠ line → Tab.get? k (t.core die core).cache = c ∧ (settled → t.homeByte space p = s.homeByte space p)) ∧
      (k / 64 = line → settled → (∀ e ∈ (s.core die core).cache, Tab.get? e.1 (s.core die core).cache = some e.2) →
        t.homeByte space p = match c with
          | some b => if b.dirty = true then b.val else s.homeByte space p
          | none => s.homeByte space p))

/-! ### The machine as a whole -/

/-- O55: after reset (R35, R121, R138, R139, R414) the arbiters are closed and the module is BOOTED; the alarm sources have
their default policies; there is no partition, group or launch; MSTAT reads 0; and no memory is written. -/
def Obligations.ResetState : Prop :=
  State.reset.sec.state = .booted ∧ State.reset.clock.open_ = false ∧ State.reset.clock.cycle = 0 ∧
    State.reset.policyOf 0 = .erase ∧ State.reset.policyOf 1 = .halt ∧ State.reset.policyOf 2 = .halt ∧
    State.reset.policyOf 3 = .halt ∧ State.reset.policyOf 4 = .report ∧ State.reset.parts = [] ∧ State.reset.groups = [] ∧
    State.reset.saved = [] ∧ State.reset.launches = [] ∧ State.reset.sec.sessions = [] ∧ State.reset.sec.attestedOnce = false ∧
    State.reset.host.box.status = 0 ∧ State.reset.host.box.running = none ∧ State.reset.mem = [] ∧ State.reset.host.mem = []

/-- O56: a step runs the decoded instruction: when no input and no event of the module is due and a lane issues a split, the
step fetches the words at its PC (R284), keeps the first of them for the trap frame (R194), and is exec of the instruction that
they decode to, followed by the lane's own bookkeeping, which also keeps what was written for R167; words that do not decode run
as the illegal instruction (R300, R301). Before that, an input from outside, an event that is due, a ring's entry behind the
issues of die 0 (R144), a rejoin entry's expiry behind all issues (R179) and, in a quiet cycle, the tick of the clock are steps
of their own; that order is the model's choice (log entry 5). -/
def Obligations.StepDecoded : Prop :=
  ∀ (s : State), s.settleWaiters = s →
    (∀ i l, s.inputs = i :: l → step s = if fromOutside i = true then exec i { s with inputs := l }
      else .next { s with inputs := l }) ∧
    (s.inputs = [] →
      (∀ i, s.nextEvent = some i → step s = exec i s) ∧
      (s.nextEvent = none → s.sec.state = .locked → step s = .fault .locked) ∧
      (s.nextEvent = none → s.sec.state ≠ .locked →
        (∀ i, s.ringTurn = some i → step s = exec i s) ∧
        (s.ringTurn = none → s.nextIssue = none →
          (∀ i, s.lateEvent = some i → step s = exec i { s with turn := laneCount }) ∧
          (∀ i, s.lateEvent = none → s.traceEvent = some i → step s = exec i s) ∧
          (s.lateEvent = none → s.traceEvent = none → step s = .next s.moveStranded.tick)) ∧
        ∀ c u ws, s.ringTurn = none → s.nextIssue = some c →
          (∀ k t w m, (s.view c.g c.slot).cur.sp.wait ≠ .raise k t w m) → (s.view c.g c.slot).cur.abandoned = [] →
          (s.view c.g c.slot).fetchWords maxWords [] = (.ok ws, u) →
          let v := { u with cur := { u.cur with iw0 := BitVec.ofNat 32 (ws.headD 0) } }
          let after := fun (o : Out) =>
            match o with
            | .next t => .next (t.afterLane (s.view c.g c.slot).cur c)
            | r => r
          v.breaks = false → v.cur.trc.on = false →
            (∀ i, decodeWords ws = .ok i → i.wf = true → ¬(v.cur.sp.st = 2 ∧ v.cur.sp.rem = 0) → v.cur.allDenied = false →
              step s = after (v.noted i (exec i v))) ∧
            (∀ e, decodeWords ws = .error e → step s = after (exec (.illegalInstruction (ws.map (BitVec.ofNat 32))) v))))

/-- O57: words written out from the spec's encodings (R284-R288, R295-R301, R421) decode to the instructions that they stand
for. -/
def Obligations.DecodeSamples : Prop :=
  let x : Ord := ⟨.w32, .v 0, .v 0, .reg (.v 0), .v 0, ⟨0, false⟩, .z8, 0, 0, 0⟩
  let y : Ord := { x with form := .w64 }
  decodeWords [0x80820405, 0x40002800] =
    .ok (.add { y with d := .v 2, a := .v 2, b := .imm 1, et := .s32, modb := 1 }) ∧
  decodeWords [0x01820815, 0x0000A000] = .ok (.div .remainder { y with d := .v 4, a := .v 2, b := .reg (.v 3), et := .z32 }) ∧
  decodeWords [0x4001CCD9, 0x00010000] = .ok (.xvote .ballot { y with d := .g 6, a := .v 1 }) ∧
  decodeWords [0x000000E1, 0x00003080] = .ok (.br ⟨6, .v 0, ⟨1, false⟩⟩) ∧
  decodeWords [0x006702E5, 0x00000000] = .ok (.jmp .indirect ⟨0, .g 7, ⟨0, false⟩⟩) ∧
  decodeWords [0xB20000F4] = .ok (.rejoin { x with b := .imm 100 }) ∧
  decodeWords [0x74E801A1, 0x1000006A] = .ok (.ecmd { y with a := .g 8, b := .reg (.g 9), c := .g 10, moda := 2 }) ∧
  decodeWords [0x31820DA8] = .ok (.tex { x with d := .v 6, a := .v 2, b := .reg (.g 3) }) ∧
  decodeWords [0x407C01C5, 0x00800000] = .ok (.wrsr { y with a := .g 28, imm := 0x10 }) ∧
  decodeWords [0x7F7DF9D4] = .ok (.pfmap { x with d := .g 28, a := .g 29, b := .reg (.g 30) })

/-- O58: decoding and encoding agree, for every instruction and every operand that its encoding admits (R284-R301): the words of
a well-formed instruction decode to it, whatever follows them, and fill its length; and words that decode are the words of what
they decode to, so that each instruction has one encoding in a form. -/
def Obligations.DecodeEncode : Prop :=
  (∀ (i : Instr) (ws rest : List Nat), i.wf = true → encode i = some ws →
    decodeWords (ws ++ rest) = .ok i ∧ 4 * ws.length = i.length ∧ (∀ w ∈ ws, w < 2 ^ 32) ∧ wordsNeeded ws = ws.length) ∧
  ∀ (i : Instr) (ws : List Nat), (∀ w ∈ ws, w < 2 ^ 32) → decodeWords ws = .ok i →
    i.wf = true ∧ encode i = some (ws.take (i.length / 4)) ∧ i.length ≤ 4 * ws.length

/-- O59: the memories of the state after reset are in canonical form. -/
def Obligations.ResetInv : Prop :=
  State.reset.memWf = true

/-- O60: every step keeps the canonical form of every memory: device memory, host memory and the teams' local stores. -/
def Obligations.StepKeepsInv : Prop :=
  ∀ (s t : State), s.memWf = true → step s = .next t → t.memWf = true
end

