-- ==== Sys2Proof/Laws/Tables.lean ====
section
/-!
SUPPORT. The laws of the two kinds of storage: tables read back what was set, and memory reads back what was put and keeps its
canonical form.
-/

namespace Sys2Proof.Machine

open Sys2Proof

/-! ### Tables -/

@[simp] theorem Tab.get?_set {α : Type} (k j : Nat) (x : α) (l : Tab α) :
    Tab.get? j (Tab.set k x l) = if j = k then some x else Tab.get? j l := by
  induction l with
  | nil => simp [Tab.set, Tab.get?]
  | cons e l ih =>
    obtain ⟨i, y⟩ := e
    simp only [Tab.set]
    split
    · next h => subst h; simp only [Tab.get?]; split <;> simp_all
    · split
      · simp only [Tab.get?]
      · next h h' =>
        simp only [Tab.get?, ih]
        by_cases h1 : j = i
        · subst h1; simp [Ne.symm h]
        · simp [h1]

@[simp] theorem Tab.getD_set {α : Type} (k j : Nat) (x d : α) (l : Tab α) :
    Tab.getD (Tab.set k x l) j d = if j = k then x else Tab.getD l j d := by
  simp only [Tab.getD, Tab.get?_set]; split <;> rfl

theorem Tab.get?_update {α : Type} (k j : Nat) (f : α → α) (l : Tab α) :
    Tab.get? j (Tab.update k f l) = if j = k then (Tab.get? j l).map f else Tab.get? j l := by
  induction l with
  | nil => simp [Tab.update, Tab.get?]
  | cons e l ih =>
    obtain ⟨i, y⟩ := e
    simp only [Tab.update, List.map_cons] at ih ⊢
    by_cases h : i = k
    · subst h; simp only [if_true, Tab.get?]; split
      · next h => subst h; simp
      · next h => rw [ih, if_neg h]
    · simp only [h, if_false, Tab.get?]; split
      · next h' => subst h'; simp [h]
      · rw [ih]

theorem Tab.get?_erase {α : Type} (k j : Nat) (l : Tab α) :
    Tab.get? j (Tab.erase k l) = if j = k then none else Tab.get? j l := by
  induction l with
  | nil => simp [Tab.erase, Tab.get?]
  | cons e l ih =>
    obtain ⟨i, y⟩ := e
    simp only [Tab.erase, List.filter_cons] at ih ⊢
    by_cases h : i = k
    · subst h; simp only [bne_self_eq_false, Bool.false_eq_true, if_false, Tab.get?, ih]; split <;> simp_all
    · simp only [bne_iff_ne, ne_eq, h, not_false_eq_true, if_true, Tab.get?, ih]
      split
      · next h' => subst h'; simp [h]
      · rfl

/-! ### Memory -/

theorem Mem.wfFrom_mono {a b : Nat} {m : Mem} (h : a ≤ b) (hw : Mem.wfFrom b m = true) : Mem.wfFrom a m = true := by
  cases m with
  | nil => rfl
  | cons c l =>
    simp only [Mem.wfFrom, Bool.and_eq_true, decide_eq_true_eq] at hw ⊢
    exact ⟨⟨by omega, hw.1.2⟩, hw.2⟩

theorem Mem.byte_of_lt {lo a : Nat} {m : Mem} (hw : Mem.wfFrom lo m = true) (h : a < lo) :
    m.byte a = Config.unlistedByte := by
  induction m generalizing lo with
  | nil => rfl
  | cons c l ih =>
    obtain ⟨k, b⟩ := c
    simp only [Mem.wfFrom, Bool.and_eq_true, decide_eq_true_eq] at hw
    simp only [Mem.byte]
    rw [if_neg (by omega)]
    exact ih hw.2 (by omega)

theorem Mem.wfFrom_insert {lo a : Nat} {b : Byte} {m : Mem} (hb : b ≠ Config.unlistedByte) (hl : lo ≤ a)
    (hw : Mem.wfFrom lo m = true) : Mem.wfFrom lo (Mem.insert a b m) = true := by
  induction m generalizing lo with
  | nil => simp [Mem.insert, Mem.wfFrom, hl, hb]
  | cons c l ih =>
    obtain ⟨k, x⟩ := c
    simp only [Mem.wfFrom, Bool.and_eq_true, decide_eq_true_eq, bne_iff_ne] at hw
    simp only [Mem.insert]
    split
    · next h => subst h; simp [Mem.wfFrom, hl, hb, hw.2]
    · split
      · next h h' =>
        simp only [Mem.wfFrom, Bool.and_eq_true, decide_eq_true_eq, bne_iff_ne]
        exact ⟨⟨hl, hb⟩, ⟨by omega, hw.1.2⟩, hw.2⟩
      · next h h' =>
        simp only [Mem.wfFrom, Bool.and_eq_true, decide_eq_true_eq, bne_iff_ne]
        exact ⟨⟨hw.1.1, hw.1.2⟩, ih (by omega) hw.2⟩

theorem Mem.wfFrom_remove {lo a : Nat} {m : Mem} (hw : Mem.wfFrom lo m = true) : Mem.wfFrom lo (Mem.remove a m) = true := by
  induction m generalizing lo with
  | nil => rfl
  | cons c l ih =>
    obtain ⟨k, x⟩ := c
    simp only [Mem.wfFrom, Bool.and_eq_true, decide_eq_true_eq] at hw
    simp only [Mem.remove]
    split
    · exact Mem.wfFrom_mono (by omega) hw.2
    · simp only [Mem.wfFrom, Bool.and_eq_true, decide_eq_true_eq]; exact ⟨hw.1, ih hw.2⟩

theorem Mem.wfFrom_filter {lo : Nat} {m : Mem} (f : Host.Cell → Bool) (hw : Mem.wfFrom lo m = true) :
    Mem.wfFrom lo (m.filter f) = true := by
  induction m generalizing lo with
  | nil => rfl
  | cons c l ih =>
    obtain ⟨k, x⟩ := c
    simp only [Mem.wfFrom, Bool.and_eq_true, decide_eq_true_eq] at hw
    simp only [List.filter_cons]
    split
    · simp only [Mem.wfFrom, Bool.and_eq_true, decide_eq_true_eq]; exact ⟨hw.1, ih hw.2⟩
    · exact Mem.wfFrom_mono (by omega) (ih hw.2)

/-- Writing one byte keeps the canonical form. -/
theorem Mem.wf_put {m : Mem} (a : Nat) (b : Byte) (hw : m.wf = true) : (m.put a b).wf = true := by
  unfold Mem.put Mem.wf at *
  split
  · exact Mem.wfFrom_remove hw
  · next h => exact Mem.wfFrom_insert h (Nat.zero_le _) hw

/-- Writing bytes keeps the canonical form. -/
theorem Mem.wf_putBytes {m : Mem} (a : Nat) (bs : List Byte) (hw : m.wf = true) : (m.putBytes a bs).wf = true := by
  induction bs generalizing m a with
  | nil => exact hw
  | cons b bs ih => exact ih _ (Mem.wf_put a b hw)

/-- Clearing a range keeps the canonical form. -/
theorem Mem.wf_clear {m : Mem} (a n : Nat) (hw : m.wf = true) : (m.clear a n).wf = true := Mem.wfFrom_filter _ hw

theorem Mem.wf_nil : Mem.wf [] = true := rfl

theorem Mem.byte_insert (m : Mem) (a j : Nat) (b : Byte) : (Mem.insert a b m).byte j = if j = a then b else m.byte j := by
  induction m with
  | nil => simp [Mem.insert, Mem.byte]
  | cons c l ih =>
    obtain ⟨k, x⟩ := c
    simp only [Mem.insert]
    split
    · next h => subst h; simp only [Mem.byte]; split <;> simp_all
    · split
      · simp only [Mem.byte]
      · next h h' =>
        simp only [Mem.byte, ih]
        by_cases h1 : j = k
        · subst h1; simp [Ne.symm h]
        · simp [h1]

theorem Mem.byte_remove {lo : Nat} {m : Mem} (a j : Nat) (hw : Mem.wfFrom lo m = true) :
    (Mem.remove a m).byte j = if j = a then Config.unlistedByte else m.byte j := by
  induction m generalizing lo with
  | nil => simp [Mem.remove, Mem.byte]
  | cons c l ih =>
    obtain ⟨k, x⟩ := c
    simp only [Mem.wfFrom, Bool.and_eq_true, decide_eq_true_eq] at hw
    simp only [Mem.remove]
    by_cases h : a = k
    · subst h
      simp only [if_true, Mem.byte]
      by_cases h1 : j = a
      · subst h1; simp only [if_true]; exact Mem.byte_of_lt hw.2 (by omega)
      · simp [h1]
    · simp only [h, if_false, Mem.byte, ih hw.2]
      by_cases h1 : j = k
      · subst h1; simp [Ne.symm h]
      · simp [h1]

/-- A byte written reads back, and every other byte reads as before. -/
theorem Mem.byte_put {m : Mem} (a j : Nat) (b : Byte) (hw : m.wf = true) :
    (m.put a b).byte j = if j = a then b else m.byte j := by
  unfold Mem.put
  split
  · next h => rw [Mem.byte_remove a j hw, h]
  · exact Mem.byte_insert m a j b

/-- Bytes written read back, and every other byte reads as before. -/
theorem Mem.byte_putBytes {m : Mem} (a j : Nat) (bs : List Byte) (hw : m.wf = true) :
    (m.putBytes a bs).byte j = if a ≤ j ∧ j < a + bs.length then bs.getD (j - a) 0 else m.byte j := by
  induction bs generalizing m a with
  | nil =>
    rw [if_neg (by simp only [List.length_nil]; omega)]; rfl
  | cons b bs ih =>
    simp only [Mem.putBytes, List.length_cons]
    rw [ih (a + 1) (Mem.wf_put a b hw), Mem.byte_put a j b hw]
    by_cases h1 : j = a
    · subst h1
      rw [if_neg (by omega), if_pos rfl, if_pos (by omega)]
      simp
    · by_cases h2 : a + 1 ≤ j ∧ j < a + 1 + bs.length
      · rw [if_pos h2, if_pos (by omega)]
        obtain ⟨i, rfl⟩ : ∃ i, j = a + 1 + i := ⟨j - (a + 1), by omega⟩
        have e1 : a + 1 + i - (a + 1) = i := by omega
        have e2 : a + 1 + i - a = i + 1 := by omega
        rw [e1, e2, List.getD_cons_succ]
      · rw [if_neg h2, if_neg h1, if_neg (by omega)]

end Sys2Proof.Machine
end

