-- ==== Sys2Proof/Laws/Registers.lean ====
section
/-!
SUPPORT. The laws of masks and of the registers of a group: what was written reads back, for the threads that were written, and
everything else reads as before.
-/

namespace Sys2Proof.Machine

open Sys2Proof

/-! ### Masks -/

theorem testBit_foldl_or (f : Nat → Bool) (l : List Nat) (acc j : Nat) :
    (l.foldl (fun acc t => if f t then acc ||| 2 ^ t else acc) acc).testBit j = (acc.testBit j || (l.contains j && f j)) := by
  induction l generalizing acc with
  | nil => simp
  | cons t l ih =>
    rw [List.foldl_cons, ih]
    by_cases h : f t
    · simp only [h, if_true, Nat.testBit_or, Nat.testBit_two_pow, List.contains_cons]
      by_cases h' : t = j
      · subst h'; simp [h]
      · have e : (j == t) = false := by simpa using Ne.symm h'
        simp [h', e]
    · simp only [h, Bool.false_eq_true, if_false, List.contains_cons]
      by_cases h' : j = t
      · subst h'; simp [h]
      · have e : (j == t) = false := by simpa using h'
        simp [e]

theorem inMask_maskWhere (f : Nat → Bool) (j : Nat) : inMask (maskWhere f) j = (decide (j < 32) && f j) := by
  unfold inMask maskWhere
  rw [BitVec.toNat_ofNat, Nat.testBit_mod_two_pow, testBit_foldl_or]
  by_cases h : j < 32 <;> simp [h]

theorem maskOf_eq (l : List Nat) : maskOf l = BitVec.ofNat 32 (l.foldl (fun acc t => if (fun _ => true) t then acc ||| 2 ^ t else acc) 0) := by
  simp [maskOf]

theorem inMask_maskOf (l : List Nat) (j : Nat) : inMask (maskOf l) j = (decide (j < 32) && l.contains j) := by
  unfold inMask
  rw [maskOf_eq, BitVec.toNat_ofNat, Nat.testBit_mod_two_pow, testBit_foldl_or]
  simp

theorem inMask_lt {m : Mask} {j : Nat} (h : inMask m j = true) : j < 32 := by
  by_contra hc
  have : m.toNat < 2 ^ j := Nat.lt_of_lt_of_le m.isLt (Nat.pow_le_pow_right (by omega) (by omega))
  rw [inMask, Nat.testBit_lt_two_pow this] at h
  exact Bool.noConfusion h

theorem mem_threads {m : Mask} {j : Nat} : j ∈ threads m ↔ inMask m j = true := by
  simp only [threads, List.mem_filter, List.mem_range]
  exact ⟨fun h => h.2, fun h => ⟨inMask_lt h, h⟩⟩

theorem mask_ext {a b : Mask} (h : ∀ j, j < 32 → inMask a j = inMask b j) : a = b := by
  apply BitVec.eq_of_getLsbD_eq
  intro i hi
  exact h i hi

theorem maskOf_threads (m : Mask) : maskOf (threads m) = m := by
  apply mask_ext
  intro j hj
  rw [inMask_maskOf]
  have : (threads m).contains j = inMask m j := by
    rw [Bool.eq_iff_iff, List.contains_iff_mem, mem_threads]
  rw [this]; simp [hj]

theorem firstThreads_all {m : Mask} {n : Nat} (h : count m ≤ n) : firstThreads m n = m := by
  rw [firstThreads, List.take_of_length_le h, maskOf_threads]

theorem lowest_mem {m : Mask} (h : m ≠ 0) : inMask m (lowest m) = true := by
  unfold lowest
  cases hl : threads m with
  | nil =>
    exfalso; apply h; apply mask_ext
    intro j _
    have : ¬ j ∈ threads m := by rw [hl]; simp
    rw [mem_threads] at this
    simp only [Bool.not_eq_true] at this
    rw [this]; simp [inMask]
  | cons t l =>
    have : t ∈ threads m := by rw [hl]; simp
    exact mem_threads.mp this

theorem threads_zero : threads 0 = [] := by decide

theorem count_zero : count 0 = 0 := by decide

theorem inMask_zero (j : Nat) : inMask 0 j = false := by simp [inMask]

/-! ### Registers -/

theorem Row.get_mk (f : Nat → Word) (t : Nat) : Row.get (Row.mk f) t = if t < 32 then f t else 0 := by
  unfold Row.get Row.mk
  by_cases h : t < 32
  · simp [List.getD, h]
  · simp [List.getD, h]

theorem Group.vget_vset (g : Group) (n m i : Nat) (e : Mask) (f : Nat → Word) (hi : i < 32) :
    (g.vset n e f).vget m i = if m = n ∧ inMask e i = true then f i else g.vget m i := by
  unfold Group.vset Group.vrow Group.vget
  simp only [Tab.getD_set]
  by_cases h : m = n
  · subst h
    simp only [if_true, Row.get_mk, hi, true_and]
  · simp [h]

theorem Group.gget_gset (g : Group) (n m : Nat) (x : Word) :
    (g.gset n x).gget m = if m = n ∧ n ≠ 31 then x else g.gget m := by
  unfold Group.gset Group.gget
  by_cases h : n = 31
  · subst h; simp
  · simp only [h, if_false, Tab.getD_set]
    by_cases h1 : m = 31
    · subst h1; simp [Ne.symm h]
    · by_cases h2 : m = n
      · subst h2; simp [h]
      · simp [h1, h2]

theorem Group.kget_kset (g : Group) (n m i : Nat) (e : Mask) (f : Nat → Bool) (hi : i < 32) :
    inMask ((g.kset n e f).kget m) i = if m = n ∧ n ≠ 0 ∧ inMask e i = true then f i else inMask (g.kget m) i := by
  unfold Group.kset
  by_cases h : n = 0
  · simp [h]
  · simp only [h, if_false]
    unfold Group.kget
    by_cases h1 : m = 0
    · subst h1; simp [Ne.symm h]
    · simp only [h1, if_false, Tab.getD_set]
      by_cases h2 : m = n
      · subst h2
        simp only [if_true, inMask_maskWhere, hi, decide_true, Bool.true_and, h, not_false_eq_true, true_and, if_false, ne_eq]
      · simp [h2]

@[simp] theorem Group.vset_g (g : Group) (n : Nat) (m : Mask) (f) : (g.vset n m f).g = g.g := rfl
@[simp] theorem Group.vset_k (g : Group) (n : Nat) (m : Mask) (f) : (g.vset n m f).k = g.k := rfl
@[simp] theorem Group.vset_sp (g : Group) (n : Nat) (m : Mask) (f) : (g.vset n m f).sp = g.sp := rfl
@[simp] theorem Group.gset_v (g : Group) (n : Nat) (x : Word) : (g.gset n x).v = g.v := by unfold Group.gset; split <;> rfl
@[simp] theorem Group.gset_k (g : Group) (n : Nat) (x : Word) : (g.gset n x).k = g.k := by unfold Group.gset; split <;> rfl
@[simp] theorem Group.gset_sp (g : Group) (n : Nat) (x : Word) : (g.gset n x).sp = g.sp := by unfold Group.gset; split <;> rfl
@[simp] theorem Group.kset_v (g : Group) (n : Nat) (m : Mask) (f) : (g.kset n m f).v = g.v := by unfold Group.kset; split <;> rfl
@[simp] theorem Group.kset_g (g : Group) (n : Nat) (m : Mask) (f) : (g.kset n m f).g = g.g := by unfold Group.kset; split <;> rfl
@[simp] theorem Group.kset_sp (g : Group) (n : Nat) (m : Mask) (f) : (g.kset n m f).sp = g.sp := by unfold Group.kset; split <;> rfl

theorem Group.vset_eq (g : Group) (n : Nat) (m : Mask) (f) : g.vset n m f = { g with v := (g.vset n m f).v } := rfl
theorem Group.gset_eq (g : Group) (n : Nat) (x : Word) : g.gset n x = { g with g := (g.gset n x).g } := by
  unfold Group.gset; split <;> rfl
theorem Group.kset_eq (g : Group) (n : Nat) (m : Mask) (f) : g.kset n m f = { g with k := (g.kset n m f).k } := by
  unfold Group.kset; split <;> rfl

end Sys2Proof.Machine
end

