-- ==== Sys2Proof/Laws/Issue.lean ====
section
/-!
SUPPORT. What the shared frames of an instruction do: the register check, the uniform check, the frames per thread and uniform,
and the frame of the arithmetic instructions, each in one lemma.
-/

namespace Sys2Proof.Machine

open Sys2Proof

/-! ### Reading the hypotheses -/

theorem State.issues_named {s : State} {ops : List Opd} {n : Nat} (h : s.issues ops n = true) :
    s.cur.allNamed ops = true := by
  simp only [State.issues, Bool.and_eq_true] at h; exact h.1.1.1

theorem State.issues_funds {s : State} {ops : List Opd} {n : Nat} (h : s.issues ops n = true) : s.funds n = true := by
  simp only [State.issues, Bool.and_eq_true] at h; exact h.1.1.2

theorem State.issues_fresh {s : State} {ops : List Opd} {n : Nat} (h : s.issues ops n = true) :
    s.cur.sp.charged = false := by
  simp only [State.issues, Bool.and_eq_true, Bool.not_eq_true'] at h; exact h.1.2

theorem State.issues_step {s : State} {ops : List Opd} {n : Nat} (h : s.issues ops n = true) :
    (s.cur.dbg.getLsbD 8 = false ∨ s.cur.hand.isSome = true) := by
  simp only [State.issues, Bool.and_eq_true, Bool.or_eq_true, Bool.not_eq_true'] at h; exact h.2

/-- The register check passes. -/
theorem State.named_of {s : State} {p : Pred} {l : List Opd} {run : State → State} (h : s.cur.allNamed l = true) :
    s.named p l run = run s := if_pos h

/-- The register check refuses (R301 step 11). -/
theorem State.named_not {s : State} {p : Pred} {l : List Opd} {run : State → State} (h : s.cur.allNamed l = false) :
    s.named p l run = s.refuse p 0x02 := by simp [State.named, h]

/-- The uniform check passes. -/
theorem State.checked_of {s : State} {p : Pred} {l : List Opd} {run : State → State} (h : s.uniformIn p l = true) :
    s.checked p l run = run s := by
  unfold State.uniformIn at h
  simp only [State.checked, h, Bool.or_true, if_true]

/-- The uniform check refuses (R169). -/
theorem State.checked_not {s : State} {p : Pred} {l : List Opd} {run : State → State} (he : s.cur.exec p ≠ 0)
    (h : s.uniformIn p l = false) : s.checked p l run = s.refuse p 0x03 := by
  unfold State.uniformIn at h
  simp only [State.checked, h, Bool.or_false, decide_eq_true_eq]
  exact if_neg he

/-- A budget that covers a mask's threads affords them. -/
theorem State.affordable_of {s : State} {e : Mask} (h : s.funds (count e) = true) : s.affordable e = e := by
  unfold State.funds at h
  unfold State.affordable
  split
  · rfl
  · next hh =>
    simp only [hh, Bool.false_eq_true, if_false, Bool.and_eq_true, Bool.not_eq_true', Bool.or_eq_true,
      decide_eq_true_eq] at h
    rw [if_neg (by simp [h.1])]
    split
    · next hc =>
      apply firstThreads_all
      rcases h.2 with h2 | h2
      · simp [hc] at h2
      · exact h2
    · rfl

/-! ### An issue -/

/-- Charging n cycles: the budget falls by n, and nothing else changes. -/
theorem State.charge_eq {s : State} {n : Nat} (h : s.cur.hand.isSome = true → s.counts = true → n < s.cur.bgt.toNat) :
    s.charge n = { s with cur := { s.cur with bgt := BitVec.ofNat 64 (s.cur.bgt.toNat - n) } } := by
  unfold State.charge
  split
  · next hc =>
    simp only [Bool.and_eq_true, decide_eq_true_eq] at hc
    exact absurd (h hc.1.2 hc.1.1) (by omega)
  · rfl

/-- The budget after a charge. -/
theorem bgt_charge (b : Word) (n : Nat) : (BitVec.ofNat 64 (b.toNat - n)).toNat = b.toNat - n := by
  rw [BitVec.toNat_ofNat]; exact Nat.mod_eq_of_lt (by have := b.isLt; omega)

theorem State.funds_hand {s : State} {n : Nat} (h : s.funds n = true) :
    s.cur.hand.isSome = true → s.counts = true → max 1 n < s.cur.bgt.toNat := by
  intro h1 h2
  unfold State.funds at h
  simp only [h1, if_true, h2, Bool.not_true, Bool.false_or, decide_eq_true_eq] at h
  exact h

/-- An effect on the issuing group's registers, predicates and `%fmt` alone. -/
def State.withRegs (s : State) (g : Group) (fmt : BitVec 14) : State :=
  { s with cur := { s.cur with v := g.v, g := g.g, k := g.k, sp := { s.cur.sp with fmt := fmt } } }

/-- Retiring after an effect on the registers alone: the frame of an issue (R152, R166, R187). -/
theorem State.retire_issued {s : State} {g : Group} {fmt : BitVec 14} {n len : Nat} {e : Mask}
    (hc : s.cur.sp.charged = false) (hs : s.cur.dbg.getLsbD 8 = false ∨ s.cur.hand.isSome = true)
    (hb : s.cur.hand.isSome = true → s.counts = true → n < s.cur.bgt.toNat) :
    ∃ t, (s.withRegs g fmt).retire n len e = t ∧ s.Issued t n len ∧
      t.cur.v = g.v ∧ t.cur.g = g.g ∧ t.cur.k = g.k ∧ t.cur.sp.fmt = fmt := by
  refine ⟨_, rfl, ?_⟩
  have hcount : (s.withRegs g fmt).counts = s.counts := rfl
  have hch : (s.withRegs g fmt).charge n = { (s.withRegs g fmt) with
      cur := { (s.withRegs g fmt).cur with bgt := BitVec.ofNat 64 (s.cur.bgt.toNat - n) } } :=
    State.charge_eq hb
  have hret : (s.withRegs g fmt).retire n len e =
      { (((s.withRegs g fmt).charge n).occupy n) with
        cur := (((s.withRegs g fmt).charge n).occupy n).cur.advance len (s.clock.cycle + n) } := by
    unfold State.retire
    have h1 : (s.withRegs g fmt).cur.sp.charged = false := hc
    simp only [h1, Bool.false_eq_true, if_false]
    rw [hch]
    unfold State.afterIssue
    rw [if_neg]
    · rfl
    · change ¬((s.cur.live && s.cur.hand.isNone && s.cur.dbg.getLsbD 8 && s.cur.spLive) = true)
      rcases hs with hs | hs
      · rw [hs]; simp
      · obtain ⟨y, hy⟩ := Option.isSome_iff_exists.mp hs
        simp [hy]
  rw [hret, hch]
  refine ⟨⟨rfl, ?_, rfl, rfl, ?_⟩, rfl, rfl, rfl, rfl⟩
  · intro k
    simp only [State.occupy, State.setCore, State.withRegs, Tab.getD_set]
    rfl
  · exact bgt_charge _ _

/-! ### The frames -/

/-- The frame per thread, for an effect on the registers alone. -/
theorem State.perThread_issued {s : State} {ops : List Opd} {p : Pred} {len : Nat} {eff : State → Mask → State} {g : Group}
    {fmt : BitVec 14} (h : s.issues ops (count (s.cur.exec p)) = true)
    (he : eff s (s.cur.exec p) = s.withRegs g fmt) :
    ∃ t, s.perThread p len eff = t ∧ s.Issued t (max 1 (count (s.cur.exec p))) len ∧
      t.cur.v = g.v ∧ t.cur.g = g.g ∧ t.cur.k = g.k ∧ t.cur.sp.fmt = fmt := by
  have ha := State.affordable_of (State.issues_funds h)
  unfold State.perThread
  simp only [ha, if_true, he]
  exact State.retire_issued (State.issues_fresh h) (State.issues_step h)
    (fun h1 h2 => State.funds_hand (State.issues_funds h) h1 h2)

theorem count_pos {e : Mask} (h : e ≠ 0) : 0 < count e := by
  have := lowest_mem h
  exact List.length_pos_of_mem (mem_threads.mpr this)

/-- A budget that covers one of a mask's threads affords some. -/
theorem State.affordable_some {s : State} {e : Mask} {n : Nat} (h : s.funds n = true) (hn : 0 < n) (he : e ≠ 0) :
    s.affordable e ≠ 0 := by
  unfold State.funds at h
  unfold State.affordable
  split
  · exact he
  · next hh =>
    simp only [hh, Bool.false_eq_true, if_false, Bool.and_eq_true, Bool.not_eq_true', Bool.or_eq_true,
      decide_eq_true_eq] at h
    rw [if_neg (by simp [h.1])]
    split
    · next hc =>
      rcases h.2 with h2 | h2
      · simp [hc] at h2
      · intro hz
        have h0 : 0 < (threads e).length := count_pos he
        have : lowest e ∈ (threads e).take s.cur.bgt.toNat := by
          unfold lowest
          cases hl : threads e with
          | nil => rw [hl] at h0; simp at h0
          | cons t l =>
            obtain ⟨b, hb⟩ : ∃ b, s.cur.bgt.toNat = b + 1 := ⟨s.cur.bgt.toNat - 1, by omega⟩
            rw [hb]; simp
        have h1 : inMask (firstThreads e s.cur.bgt.toNat) (lowest e) = true := by
          unfold firstThreads
          rw [inMask_maskOf]
          have hlt := inMask_lt (lowest_mem he)
          simp only [hlt, decide_true, Bool.true_and, List.contains_iff_mem]
          exact this
        rw [hz, inMask_zero] at h1
        exact Bool.noConfusion h1
    · exact he

/-- The uniform frame, for an effect on the registers alone. -/
theorem State.uniform_issued {s : State} {ops : List Opd} {p : Pred} {n len : Nat} {eff : State → State} {g : Group}
    {fmt : BitVec 14} (h : s.issues ops (max 1 (count (s.cur.exec p))) = true ∨ s.issues ops (count (s.cur.exec p)) = true)
    (hn : n ≤ max 1 (count (s.cur.exec p))) (he : s.cur.exec p ≠ 0 → eff s = s.withRegs g fmt)
    (h0 : s.cur.exec p = 0 → n = 1 ∧ s = s.withRegs g fmt) :
    ∃ t, s.uniform p n len eff = t ∧ s.Issued t n len ∧
      t.cur.v = g.v ∧ t.cur.g = g.g ∧ t.cur.k = g.k ∧ t.cur.sp.fmt = fmt := by
  have hf : s.cur.sp.charged = false := by rcases h with h | h <;> exact State.issues_fresh h
  have hs : s.cur.dbg.getLsbD 8 = false ∨ s.cur.hand.isSome = true := by rcases h with h | h <;> exact State.issues_step h
  have hb : s.cur.hand.isSome = true → s.counts = true → n < s.cur.bgt.toNat := by
    intro h1 h2
    rcases h with h | h
    · have := State.funds_hand (State.issues_funds h) h1 h2; omega
    · have := State.funds_hand (State.issues_funds h) h1 h2; omega
  unfold State.uniform
  by_cases hz : s.cur.exec p = 0
  · obtain ⟨rfl, hw⟩ := h0 hz
    simp only [hz, if_true]
    have := State.retire_issued (g := g) (fmt := fmt) (n := 1) (len := len) (e := 0) hf hs hb
    rw [← hw] at this
    exact this
  · simp only [hz, if_false]
    have ha : s.affordable (s.cur.exec p) ≠ 0 := by
      rcases h with h | h
      · exact State.affordable_some (State.issues_funds h) (by omega) hz
      · exact State.affordable_some (State.issues_funds h) (count_pos hz) hz
    rw [if_neg (by rw [decide_eq_false ha]; simp), he hz]
    exact State.retire_issued hf hs hb

/-! ### The frame of arithmetic (R303, R304, R309) -/

theorem State.withRegs_self (s : State) : s.withRegs s.cur s.cur.sp.fmt = s := rfl

theorem Fl_dz : (BitVec.ofNat 14 (2 ^ 13) : BitVec 14) = 0x2000#14 := by decide

/-- The sticky bit as an effect on the registers. -/
theorem State.setDZ_withRegs (s : State) (g : Group) (fmt : BitVec 14) (b : Bool) :
    (s.withRegs g fmt).setDZ b = s.withRegs g (if b then fmt ||| 0x2000#14 else fmt) := by
  unfold State.setDZ
  cases b
  · rfl
  · simp only [if_true]; rw [Fl_dz]; rfl

/-- What the frame of arithmetic does: each executing thread's value lands in D, and the sticky bit is set where a thread that
executes divides by zero. -/
theorem State.calc_next {s : State} {x : Ord} {srcs : List Opd} {f : Group → Nat → Calc} (h : s.runs x srcs = true) :
    ∃ t, s.calc x srcs f = t ∧ s.Issued t (s.cost x srcs) (lenOf x) ∧
      s.Wrote t x.d (s.cur.exec x.pred) (fun i => (f s.cur i).value) ∧
      t.cur.sp.fmt = (if (if x.d.isG then s.cur.exec x.pred != 0 && (f s.cur (lowest (s.cur.exec x.pred))).zeroDivide
        else (threads (s.cur.exec x.pred)).any fun i => (f s.cur i).zeroDivide)
        then s.cur.sp.fmt ||| 0x2000#14 else s.cur.sp.fmt) := by
  unfold State.runs at h
  simp only [Bool.and_eq_true] at h
  obtain ⟨hi, hu⟩ := h
  unfold State.calc
  rw [State.named_of (State.issues_named hi)]
  cases hd : x.d with
  | v n =>
    simp only [Opd.isG, Bool.false_eq_true, if_false, State.cost, hd, Bool.false_and]
    obtain ⟨t, ht, hI, hv, hg, hk, hf⟩ := State.perThread_issued (len := lenOf x)
      (eff := fun s m => ({ s with cur := s.cur.vset n m (fun t => (f s.cur t).value) }).setDZ
          ((threads m).any fun t => (f s.cur t).zeroDivide))
      (g := s.cur.vset n (s.cur.exec x.pred) (fun t => (f s.cur t).value))
      (fmt := if (threads (s.cur.exec x.pred)).any fun i => (f s.cur i).zeroDivide
        then s.cur.sp.fmt ||| 0x2000#14 else s.cur.sp.fmt) hi
      (State.setDZ_withRegs s (s.cur.vset n (s.cur.exec x.pred) (fun t => (f s.cur t).value)) s.cur.sp.fmt _)
    refine ⟨t, ht, hI, ⟨hk, ?_⟩, hf⟩
    refine ⟨hg, ?_⟩
    intro m i hlt
    have : t.cur.vget m i = (s.cur.vset n (s.cur.exec x.pred) (fun t => (f s.cur t).value)).vget m i := by
      unfold Group.vget; rw [hv]
    rw [this, Group.vget_vset _ _ _ _ _ _ hlt]
  | g n =>
    have hu' : s.uniformIn x.pred srcs = true := by simpa [hd, Opd.isG] using hu
    simp only [Opd.isG, if_true]
    rw [State.checked_of hu']
    have hcost : Group.uniformCost (s.cur.exec x.pred) (anyV srcs) = s.cost x srcs := by
      unfold Group.uniformCost State.cost
      rw [hd]; simp only [Opd.isG, Bool.true_and]
      cases anyV srcs <;> simp
    have hgset : ∀ y : Word, ({ s with cur := s.cur.gset n y } : State) = s.withRegs (s.cur.gset n y) s.cur.sp.fmt := by
      intro y
      unfold State.withRegs
      rw [Group.gset_v, Group.gset_k]
      conv_lhs => rw [Group.gset_eq]
    by_cases hz : s.cur.exec x.pred = 0
    · obtain ⟨t, ht, hI, hv, hg, hk, hf⟩ := State.uniform_issued (len := lenOf x)
        (n := Group.uniformCost (s.cur.exec x.pred) (anyV srcs))
        (eff := fun s' => ({ s' with cur := s'.cur.gset n (f s'.cur (lowest (s.cur.exec x.pred))).value }).setDZ
          (f s'.cur (lowest (s.cur.exec x.pred))).zeroDivide) (g := s.cur) (fmt := s.cur.sp.fmt) (Or.inr hi)
        (by unfold Group.uniformCost; split <;> omega)
        (fun h => absurd hz h)
        (fun _ => ⟨by rw [hz]; unfold Group.uniformCost; rw [count_zero]; simp, rfl⟩)
      refine ⟨t, ht, by rw [← hcost]; exact hI, ⟨hk, hv, ?_⟩, by rw [hf]; simp [hz]⟩
      intro m
      unfold Group.gget; rw [hg]; simp [hz]
    · obtain ⟨t, ht, hI, hv, hg, hk, hf⟩ := State.uniform_issued (len := lenOf x)
        (n := Group.uniformCost (s.cur.exec x.pred) (anyV srcs))
        (eff := fun s' => ({ s' with cur := s'.cur.gset n (f s'.cur (lowest (s.cur.exec x.pred))).value }).setDZ
          (f s'.cur (lowest (s.cur.exec x.pred))).zeroDivide)
        (g := s.cur.gset n (f s.cur (lowest (s.cur.exec x.pred))).value)
        (fmt := if (f s.cur (lowest (s.cur.exec x.pred))).zeroDivide
          then s.cur.sp.fmt ||| 0x2000#14 else s.cur.sp.fmt) (Or.inr hi)
        (by unfold Group.uniformCost; split <;> omega)
        (fun _ => by
          simp only [hgset]
          rw [State.setDZ_withRegs])
        (fun h => absurd h hz)
      refine ⟨t, ht, by rw [← hcost]; exact hI, ⟨?_, ?_, ?_⟩, by rw [hf, bne_iff_ne.mpr hz]; simp only [Bool.true_and]⟩
      · rw [hk, Group.gset_k]
      · rw [hv, Group.gset_v]
      · intro m
        have : t.cur.gget m = (s.cur.gset n (f s.cur (lowest (s.cur.exec x.pred))).value).gget m := by
          unfold Group.gget; rw [hg]
        rw [this, Group.gget_gset]
        simp only [ne_eq, hz, not_false_eq_true, and_true]

/-- What the frame of an instruction that writes a predicate register does (R313, R320). -/
theorem State.setPred_next {s : State} {x : Ord} {srcs : List Opd} {f : Group → Nat → Bool}
    (h : s.issues srcs (count (s.cur.exec x.pred)) = true) :
    ∃ t, s.setPred x srcs f = t ∧ s.Issued t (max 1 (count (s.cur.exec x.pred))) (lenOf x) ∧
      s.WroteK t (x.d.code % 8) (s.cur.exec x.pred) (f s.cur) ∧ t.cur.sp.fmt = s.cur.sp.fmt := by
  unfold State.setPred
  rw [State.named_of (State.issues_named h)]
  obtain ⟨t, ht, hI, hv, hg, hk, hf⟩ := State.perThread_issued (len := lenOf x)
    (eff := fun s m => { s with cur := s.cur.kset (x.d.code % 8) m (f s.cur) })
    (g := s.cur.kset (x.d.code % 8) (s.cur.exec x.pred) (f s.cur)) (fmt := s.cur.sp.fmt) h
    (by
      unfold State.withRegs
      rw [Group.kset_v, Group.kset_g]
      conv_lhs => rw [Group.kset_eq])
  refine ⟨t, ht, hI, ⟨?_, ?_, ?_⟩, hf⟩
  · rw [hv, Group.kset_v]
  · rw [hg, Group.kset_g]
  · intro m i hi
    have : t.cur.kget m = (s.cur.kset (x.d.code % 8) (s.cur.exec x.pred) (f s.cur)).kget m := by
      unfold Group.kget; rw [hk]
    rw [this, Group.kget_kset _ _ _ _ _ _ hi]

end Sys2Proof.Machine
end

