-- ==== Sys2Proof/Laws/State.lean ====
section
/-!
SUPPORT. What each update of the state leaves: one lemma for each field that it does not touch, and one for each that it
sets.
-/

namespace Sys2Proof.Machine

open Sys2Proof

@[simp] theorem State.setCore_clock (s : State) (die core : Nat) (c : Core) : (s.setCore die core c).clock = s.clock := rfl
@[simp] theorem State.setCore_ctl (s : State) (die core : Nat) (c : Core) : (s.setCore die core c).ctl = s.ctl := rfl
@[simp] theorem State.setCore_fabric (s : State) (die core : Nat) (c : Core) : (s.setCore die core c).fabric = s.fabric := rfl
@[simp] theorem State.setCore_stks (s : State) (die core : Nat) (c : Core) : (s.setCore die core c).stks = s.stks := rfl
@[simp] theorem State.setCore_mem (s : State) (die core : Nat) (c : Core) : (s.setCore die core c).mem = s.mem := rfl
@[simp] theorem State.setCore_poison (s : State) (die core : Nat) (c : Core) : (s.setCore die core c).poison = s.poison := rfl
@[simp] theorem State.setCore_home (s : State) (die core : Nat) (c : Core) : (s.setCore die core c).home = s.home := rfl
@[simp] theorem State.setCore_homeLines (s : State) (die core : Nat) (c : Core) : (s.setCore die core c).homeLines = s.homeLines := rfl
@[simp] theorem State.setCore_dieTlb (s : State) (die core : Nat) (c : Core) : (s.setCore die core c).dieTlb = s.dieTlb := rfl
@[simp] theorem State.setCore_cur (s : State) (die core : Nat) (c : Core) : (s.setCore die core c).cur = s.cur := rfl
@[simp] theorem State.setCore_rest (s : State) (die core : Nat) (c : Core) : (s.setCore die core c).rest = s.rest := rfl
@[simp] theorem State.setCore_saved (s : State) (die core : Nat) (c : Core) : (s.setCore die core c).saved = s.saved := rfl
@[simp] theorem State.setCore_teams (s : State) (die core : Nat) (c : Core) : (s.setCore die core c).teams = s.teams := rfl
@[simp] theorem State.setCore_launches (s : State) (die core : Nat) (c : Core) : (s.setCore die core c).launches = s.launches := rfl
@[simp] theorem State.setCore_presented (s : State) (die core : Nat) (c : Core) : (s.setCore die core c).presented = s.presented := rfl
@[simp] theorem State.setCore_nextSeq (s : State) (die core : Nat) (c : Core) : (s.setCore die core c).nextSeq = s.nextSeq := rfl
@[simp] theorem State.setCore_parts (s : State) (die core : Nat) (c : Core) : (s.setCore die core c).parts = s.parts := rfl
@[simp] theorem State.setCore_host (s : State) (die core : Nat) (c : Core) : (s.setCore die core c).host = s.host := rfl
@[simp] theorem State.setCore_sec (s : State) (die core : Nat) (c : Core) : (s.setCore die core c).sec = s.sec := rfl
@[simp] theorem State.setCore_eng (s : State) (die core : Nat) (c : Core) : (s.setCore die core c).eng = s.eng := rfl
@[simp] theorem State.setCore_nextId (s : State) (die core : Nat) (c : Core) : (s.setCore die core c).nextId = s.nextId := rfl
@[simp] theorem State.setCore_inputs (s : State) (die core : Nat) (c : Core) : (s.setCore die core c).inputs = s.inputs := rfl
@[simp] theorem State.setCore_turn (s : State) (die core : Nat) (c : Core) : (s.setCore die core c).turn = s.turn := rfl
@[simp] theorem State.setCore_free (s : State) (die core : Nat) (c : Core) : (s.setCore die core c).free = s.free := rfl

@[simp] theorem State.setPart_clock (s : State) (p : Nat) (q : Part) : (s.setPart p q).clock = s.clock := rfl
@[simp] theorem State.setPart_ctl (s : State) (p : Nat) (q : Part) : (s.setPart p q).ctl = s.ctl := rfl
@[simp] theorem State.setPart_fabric (s : State) (p : Nat) (q : Part) : (s.setPart p q).fabric = s.fabric := rfl
@[simp] theorem State.setPart_stks (s : State) (p : Nat) (q : Part) : (s.setPart p q).stks = s.stks := rfl
@[simp] theorem State.setPart_mem (s : State) (p : Nat) (q : Part) : (s.setPart p q).mem = s.mem := rfl
@[simp] theorem State.setPart_poison (s : State) (p : Nat) (q : Part) : (s.setPart p q).poison = s.poison := rfl
@[simp] theorem State.setPart_home (s : State) (p : Nat) (q : Part) : (s.setPart p q).home = s.home := rfl
@[simp] theorem State.setPart_homeLines (s : State) (p : Nat) (q : Part) : (s.setPart p q).homeLines = s.homeLines := rfl
@[simp] theorem State.setPart_dieTlb (s : State) (p : Nat) (q : Part) : (s.setPart p q).dieTlb = s.dieTlb := rfl
@[simp] theorem State.setPart_cores (s : State) (p : Nat) (q : Part) : (s.setPart p q).cores = s.cores := rfl
@[simp] theorem State.setPart_cur (s : State) (p : Nat) (q : Part) : (s.setPart p q).cur = s.cur := rfl
@[simp] theorem State.setPart_rest (s : State) (p : Nat) (q : Part) : (s.setPart p q).rest = s.rest := rfl
@[simp] theorem State.setPart_saved (s : State) (p : Nat) (q : Part) : (s.setPart p q).saved = s.saved := rfl
@[simp] theorem State.setPart_teams (s : State) (p : Nat) (q : Part) : (s.setPart p q).teams = s.teams := rfl
@[simp] theorem State.setPart_launches (s : State) (p : Nat) (q : Part) : (s.setPart p q).launches = s.launches := rfl
@[simp] theorem State.setPart_presented (s : State) (p : Nat) (q : Part) : (s.setPart p q).presented = s.presented := rfl
@[simp] theorem State.setPart_nextSeq (s : State) (p : Nat) (q : Part) : (s.setPart p q).nextSeq = s.nextSeq := rfl
@[simp] theorem State.setPart_host (s : State) (p : Nat) (q : Part) : (s.setPart p q).host = s.host := rfl
@[simp] theorem State.setPart_sec (s : State) (p : Nat) (q : Part) : (s.setPart p q).sec = s.sec := rfl
@[simp] theorem State.setPart_eng (s : State) (p : Nat) (q : Part) : (s.setPart p q).eng = s.eng := rfl
@[simp] theorem State.setPart_nextId (s : State) (p : Nat) (q : Part) : (s.setPart p q).nextId = s.nextId := rfl
@[simp] theorem State.setPart_inputs (s : State) (p : Nat) (q : Part) : (s.setPart p q).inputs = s.inputs := rfl
@[simp] theorem State.setPart_turn (s : State) (p : Nat) (q : Part) : (s.setPart p q).turn = s.turn := rfl
@[simp] theorem State.setPart_free (s : State) (p : Nat) (q : Part) : (s.setPart p q).free = s.free := rfl

@[simp] theorem State.updLaunch_clock (s : State) (seq : Nat) (f : Launch → Launch) : (s.updLaunch seq f).clock = s.clock := rfl
@[simp] theorem State.updLaunch_ctl (s : State) (seq : Nat) (f : Launch → Launch) : (s.updLaunch seq f).ctl = s.ctl := rfl
@[simp] theorem State.updLaunch_fabric (s : State) (seq : Nat) (f : Launch → Launch) : (s.updLaunch seq f).fabric = s.fabric := rfl
@[simp] theorem State.updLaunch_stks (s : State) (seq : Nat) (f : Launch → Launch) : (s.updLaunch seq f).stks = s.stks := rfl
@[simp] theorem State.updLaunch_mem (s : State) (seq : Nat) (f : Launch → Launch) : (s.updLaunch seq f).mem = s.mem := rfl
@[simp] theorem State.updLaunch_poison (s : State) (seq : Nat) (f : Launch → Launch) : (s.updLaunch seq f).poison = s.poison := rfl
@[simp] theorem State.updLaunch_home (s : State) (seq : Nat) (f : Launch → Launch) : (s.updLaunch seq f).home = s.home := rfl
@[simp] theorem State.updLaunch_homeLines (s : State) (seq : Nat) (f : Launch → Launch) : (s.updLaunch seq f).homeLines = s.homeLines := rfl
@[simp] theorem State.updLaunch_dieTlb (s : State) (seq : Nat) (f : Launch → Launch) : (s.updLaunch seq f).dieTlb = s.dieTlb := rfl
@[simp] theorem State.updLaunch_cores (s : State) (seq : Nat) (f : Launch → Launch) : (s.updLaunch seq f).cores = s.cores := rfl
@[simp] theorem State.updLaunch_cur (s : State) (seq : Nat) (f : Launch → Launch) : (s.updLaunch seq f).cur = s.cur := rfl
@[simp] theorem State.updLaunch_rest (s : State) (seq : Nat) (f : Launch → Launch) : (s.updLaunch seq f).rest = s.rest := rfl
@[simp] theorem State.updLaunch_saved (s : State) (seq : Nat) (f : Launch → Launch) : (s.updLaunch seq f).saved = s.saved := rfl
@[simp] theorem State.updLaunch_teams (s : State) (seq : Nat) (f : Launch → Launch) : (s.updLaunch seq f).teams = s.teams := rfl
@[simp] theorem State.updLaunch_presented (s : State) (seq : Nat) (f : Launch → Launch) : (s.updLaunch seq f).presented = s.presented := rfl
@[simp] theorem State.updLaunch_nextSeq (s : State) (seq : Nat) (f : Launch → Launch) : (s.updLaunch seq f).nextSeq = s.nextSeq := rfl
@[simp] theorem State.updLaunch_parts (s : State) (seq : Nat) (f : Launch → Launch) : (s.updLaunch seq f).parts = s.parts := rfl
@[simp] theorem State.updLaunch_host (s : State) (seq : Nat) (f : Launch → Launch) : (s.updLaunch seq f).host = s.host := rfl
@[simp] theorem State.updLaunch_sec (s : State) (seq : Nat) (f : Launch → Launch) : (s.updLaunch seq f).sec = s.sec := rfl
@[simp] theorem State.updLaunch_eng (s : State) (seq : Nat) (f : Launch → Launch) : (s.updLaunch seq f).eng = s.eng := rfl
@[simp] theorem State.updLaunch_nextId (s : State) (seq : Nat) (f : Launch → Launch) : (s.updLaunch seq f).nextId = s.nextId := rfl
@[simp] theorem State.updLaunch_inputs (s : State) (seq : Nat) (f : Launch → Launch) : (s.updLaunch seq f).inputs = s.inputs := rfl
@[simp] theorem State.updLaunch_turn (s : State) (seq : Nat) (f : Launch → Launch) : (s.updLaunch seq f).turn = s.turn := rfl
@[simp] theorem State.updLaunch_free (s : State) (seq : Nat) (f : Launch → Launch) : (s.updLaunch seq f).free = s.free := rfl

@[simp] theorem State.setStack_clock (s : State) (n : Nat) (k : Stack) : (s.setStack n k).clock = s.clock := rfl
@[simp] theorem State.setStack_ctl (s : State) (n : Nat) (k : Stack) : (s.setStack n k).ctl = s.ctl := rfl
@[simp] theorem State.setStack_fabric (s : State) (n : Nat) (k : Stack) : (s.setStack n k).fabric = s.fabric := rfl
@[simp] theorem State.setStack_mem (s : State) (n : Nat) (k : Stack) : (s.setStack n k).mem = s.mem := rfl
@[simp] theorem State.setStack_poison (s : State) (n : Nat) (k : Stack) : (s.setStack n k).poison = s.poison := rfl
@[simp] theorem State.setStack_home (s : State) (n : Nat) (k : Stack) : (s.setStack n k).home = s.home := rfl
@[simp] theorem State.setStack_homeLines (s : State) (n : Nat) (k : Stack) : (s.setStack n k).homeLines = s.homeLines := rfl
@[simp] theorem State.setStack_dieTlb (s : State) (n : Nat) (k : Stack) : (s.setStack n k).dieTlb = s.dieTlb := rfl
@[simp] theorem State.setStack_cores (s : State) (n : Nat) (k : Stack) : (s.setStack n k).cores = s.cores := rfl
@[simp] theorem State.setStack_cur (s : State) (n : Nat) (k : Stack) : (s.setStack n k).cur = s.cur := rfl
@[simp] theorem State.setStack_rest (s : State) (n : Nat) (k : Stack) : (s.setStack n k).rest = s.rest := rfl
@[simp] theorem State.setStack_saved (s : State) (n : Nat) (k : Stack) : (s.setStack n k).saved = s.saved := rfl
@[simp] theorem State.setStack_teams (s : State) (n : Nat) (k : Stack) : (s.setStack n k).teams = s.teams := rfl
@[simp] theorem State.setStack_launches (s : State) (n : Nat) (k : Stack) : (s.setStack n k).launches = s.launches := rfl
@[simp] theorem State.setStack_presented (s : State) (n : Nat) (k : Stack) : (s.setStack n k).presented = s.presented := rfl
@[simp] theorem State.setStack_nextSeq (s : State) (n : Nat) (k : Stack) : (s.setStack n k).nextSeq = s.nextSeq := rfl
@[simp] theorem State.setStack_parts (s : State) (n : Nat) (k : Stack) : (s.setStack n k).parts = s.parts := rfl
@[simp] theorem State.setStack_host (s : State) (n : Nat) (k : Stack) : (s.setStack n k).host = s.host := rfl
@[simp] theorem State.setStack_sec (s : State) (n : Nat) (k : Stack) : (s.setStack n k).sec = s.sec := rfl
@[simp] theorem State.setStack_eng (s : State) (n : Nat) (k : Stack) : (s.setStack n k).eng = s.eng := rfl
@[simp] theorem State.setStack_nextId (s : State) (n : Nat) (k : Stack) : (s.setStack n k).nextId = s.nextId := rfl
@[simp] theorem State.setStack_inputs (s : State) (n : Nat) (k : Stack) : (s.setStack n k).inputs = s.inputs := rfl
@[simp] theorem State.setStack_turn (s : State) (n : Nat) (k : Stack) : (s.setStack n k).turn = s.turn := rfl
@[simp] theorem State.setStack_free (s : State) (n : Nat) (k : Stack) : (s.setStack n k).free = s.free := rfl

@[simp] theorem State.updTeam_clock (s : State) (g : Group) (f : Team → Team) : (s.updTeam g f).clock = s.clock := rfl
@[simp] theorem State.updTeam_ctl (s : State) (g : Group) (f : Team → Team) : (s.updTeam g f).ctl = s.ctl := rfl
@[simp] theorem State.updTeam_fabric (s : State) (g : Group) (f : Team → Team) : (s.updTeam g f).fabric = s.fabric := rfl
@[simp] theorem State.updTeam_stks (s : State) (g : Group) (f : Team → Team) : (s.updTeam g f).stks = s.stks := rfl
@[simp] theorem State.updTeam_mem (s : State) (g : Group) (f : Team → Team) : (s.updTeam g f).mem = s.mem := rfl
@[simp] theorem State.updTeam_poison (s : State) (g : Group) (f : Team → Team) : (s.updTeam g f).poison = s.poison := rfl
@[simp] theorem State.updTeam_home (s : State) (g : Group) (f : Team → Team) : (s.updTeam g f).home = s.home := rfl
@[simp] theorem State.updTeam_homeLines (s : State) (g : Group) (f : Team → Team) : (s.updTeam g f).homeLines = s.homeLines := rfl
@[simp] theorem State.updTeam_dieTlb (s : State) (g : Group) (f : Team → Team) : (s.updTeam g f).dieTlb = s.dieTlb := rfl
@[simp] theorem State.updTeam_cores (s : State) (g : Group) (f : Team → Team) : (s.updTeam g f).cores = s.cores := rfl
@[simp] theorem State.updTeam_cur (s : State) (g : Group) (f : Team → Team) : (s.updTeam g f).cur = s.cur := rfl
@[simp] theorem State.updTeam_rest (s : State) (g : Group) (f : Team → Team) : (s.updTeam g f).rest = s.rest := rfl
@[simp] theorem State.updTeam_saved (s : State) (g : Group) (f : Team → Team) : (s.updTeam g f).saved = s.saved := rfl
@[simp] theorem State.updTeam_launches (s : State) (g : Group) (f : Team → Team) : (s.updTeam g f).launches = s.launches := rfl
@[simp] theorem State.updTeam_presented (s : State) (g : Group) (f : Team → Team) : (s.updTeam g f).presented = s.presented := rfl
@[simp] theorem State.updTeam_nextSeq (s : State) (g : Group) (f : Team → Team) : (s.updTeam g f).nextSeq = s.nextSeq := rfl
@[simp] theorem State.updTeam_parts (s : State) (g : Group) (f : Team → Team) : (s.updTeam g f).parts = s.parts := rfl
@[simp] theorem State.updTeam_host (s : State) (g : Group) (f : Team → Team) : (s.updTeam g f).host = s.host := rfl
@[simp] theorem State.updTeam_sec (s : State) (g : Group) (f : Team → Team) : (s.updTeam g f).sec = s.sec := rfl
@[simp] theorem State.updTeam_eng (s : State) (g : Group) (f : Team → Team) : (s.updTeam g f).eng = s.eng := rfl
@[simp] theorem State.updTeam_nextId (s : State) (g : Group) (f : Team → Team) : (s.updTeam g f).nextId = s.nextId := rfl
@[simp] theorem State.updTeam_inputs (s : State) (g : Group) (f : Team → Team) : (s.updTeam g f).inputs = s.inputs := rfl
@[simp] theorem State.updTeam_turn (s : State) (g : Group) (f : Team → Team) : (s.updTeam g f).turn = s.turn := rfl
@[simp] theorem State.updTeam_free (s : State) (g : Group) (f : Team → Team) : (s.updTeam g f).free = s.free := rfl

@[simp] theorem State.setHome_clock (s : State) (space p : Nat) (b : Byte) : (s.setHome space p b).clock = s.clock := rfl
@[simp] theorem State.setHome_ctl (s : State) (space p : Nat) (b : Byte) : (s.setHome space p b).ctl = s.ctl := rfl
@[simp] theorem State.setHome_fabric (s : State) (space p : Nat) (b : Byte) : (s.setHome space p b).fabric = s.fabric := rfl
@[simp] theorem State.setHome_stks (s : State) (space p : Nat) (b : Byte) : (s.setHome space p b).stks = s.stks := rfl
@[simp] theorem State.setHome_mem (s : State) (space p : Nat) (b : Byte) : (s.setHome space p b).mem = s.mem := rfl
@[simp] theorem State.setHome_poison (s : State) (space p : Nat) (b : Byte) : (s.setHome space p b).poison = s.poison := rfl
@[simp] theorem State.setHome_homeLines (s : State) (space p : Nat) (b : Byte) : (s.setHome space p b).homeLines = s.homeLines := rfl
@[simp] theorem State.setHome_dieTlb (s : State) (space p : Nat) (b : Byte) : (s.setHome space p b).dieTlb = s.dieTlb := rfl
@[simp] theorem State.setHome_cores (s : State) (space p : Nat) (b : Byte) : (s.setHome space p b).cores = s.cores := rfl
@[simp] theorem State.setHome_cur (s : State) (space p : Nat) (b : Byte) : (s.setHome space p b).cur = s.cur := rfl
@[simp] theorem State.setHome_rest (s : State) (space p : Nat) (b : Byte) : (s.setHome space p b).rest = s.rest := rfl
@[simp] theorem State.setHome_saved (s : State) (space p : Nat) (b : Byte) : (s.setHome space p b).saved = s.saved := rfl
@[simp] theorem State.setHome_teams (s : State) (space p : Nat) (b : Byte) : (s.setHome space p b).teams = s.teams := rfl
@[simp] theorem State.setHome_launches (s : State) (space p : Nat) (b : Byte) : (s.setHome space p b).launches = s.launches := rfl
@[simp] theorem State.setHome_presented (s : State) (space p : Nat) (b : Byte) : (s.setHome space p b).presented = s.presented := rfl
@[simp] theorem State.setHome_nextSeq (s : State) (space p : Nat) (b : Byte) : (s.setHome space p b).nextSeq = s.nextSeq := rfl
@[simp] theorem State.setHome_parts (s : State) (space p : Nat) (b : Byte) : (s.setHome space p b).parts = s.parts := rfl
@[simp] theorem State.setHome_host (s : State) (space p : Nat) (b : Byte) : (s.setHome space p b).host = s.host := rfl
@[simp] theorem State.setHome_sec (s : State) (space p : Nat) (b : Byte) : (s.setHome space p b).sec = s.sec := rfl
@[simp] theorem State.setHome_eng (s : State) (space p : Nat) (b : Byte) : (s.setHome space p b).eng = s.eng := rfl
@[simp] theorem State.setHome_nextId (s : State) (space p : Nat) (b : Byte) : (s.setHome space p b).nextId = s.nextId := rfl
@[simp] theorem State.setHome_inputs (s : State) (space p : Nat) (b : Byte) : (s.setHome space p b).inputs = s.inputs := rfl
@[simp] theorem State.setHome_turn (s : State) (space p : Nat) (b : Byte) : (s.setHome space p b).turn = s.turn := rfl
@[simp] theorem State.setHome_free (s : State) (space p : Nat) (b : Byte) : (s.setHome space p b).free = s.free := rfl

@[simp] theorem State.report_clock (s : State) (r : Report) : (s.report r).clock = s.clock := rfl
@[simp] theorem State.report_ctl (s : State) (r : Report) : (s.report r).ctl = s.ctl := rfl
@[simp] theorem State.report_fabric (s : State) (r : Report) : (s.report r).fabric = s.fabric := rfl
@[simp] theorem State.report_stks (s : State) (r : Report) : (s.report r).stks = s.stks := rfl
@[simp] theorem State.report_mem (s : State) (r : Report) : (s.report r).mem = s.mem := rfl
@[simp] theorem State.report_poison (s : State) (r : Report) : (s.report r).poison = s.poison := rfl
@[simp] theorem State.report_home (s : State) (r : Report) : (s.report r).home = s.home := rfl
@[simp] theorem State.report_homeLines (s : State) (r : Report) : (s.report r).homeLines = s.homeLines := rfl
@[simp] theorem State.report_dieTlb (s : State) (r : Report) : (s.report r).dieTlb = s.dieTlb := rfl
@[simp] theorem State.report_cores (s : State) (r : Report) : (s.report r).cores = s.cores := rfl
@[simp] theorem State.report_cur (s : State) (r : Report) : (s.report r).cur = s.cur := rfl
@[simp] theorem State.report_rest (s : State) (r : Report) : (s.report r).rest = s.rest := rfl
@[simp] theorem State.report_saved (s : State) (r : Report) : (s.report r).saved = s.saved := rfl
@[simp] theorem State.report_teams (s : State) (r : Report) : (s.report r).teams = s.teams := rfl
@[simp] theorem State.report_launches (s : State) (r : Report) : (s.report r).launches = s.launches := rfl
@[simp] theorem State.report_presented (s : State) (r : Report) : (s.report r).presented = s.presented := rfl
@[simp] theorem State.report_nextSeq (s : State) (r : Report) : (s.report r).nextSeq = s.nextSeq := rfl
@[simp] theorem State.report_parts (s : State) (r : Report) : (s.report r).parts = s.parts := rfl
@[simp] theorem State.report_sec (s : State) (r : Report) : (s.report r).sec = s.sec := rfl
@[simp] theorem State.report_eng (s : State) (r : Report) : (s.report r).eng = s.eng := rfl
@[simp] theorem State.report_nextId (s : State) (r : Report) : (s.report r).nextId = s.nextId := rfl
@[simp] theorem State.report_inputs (s : State) (r : Report) : (s.report r).inputs = s.inputs := rfl
@[simp] theorem State.report_turn (s : State) (r : Report) : (s.report r).turn = s.turn := rfl
@[simp] theorem State.report_free (s : State) (r : Report) : (s.report r).free = s.free := rfl

@[simp] theorem State.logError_clock (s : State) (p : Nat) (e : ErrEvent) : (s.logError p e).clock = s.clock := rfl
@[simp] theorem State.logError_ctl (s : State) (p : Nat) (e : ErrEvent) : (s.logError p e).ctl = s.ctl := rfl
@[simp] theorem State.logError_fabric (s : State) (p : Nat) (e : ErrEvent) : (s.logError p e).fabric = s.fabric := rfl
@[simp] theorem State.logError_stks (s : State) (p : Nat) (e : ErrEvent) : (s.logError p e).stks = s.stks := rfl
@[simp] theorem State.logError_mem (s : State) (p : Nat) (e : ErrEvent) : (s.logError p e).mem = s.mem := rfl
@[simp] theorem State.logError_poison (s : State) (p : Nat) (e : ErrEvent) : (s.logError p e).poison = s.poison := rfl
@[simp] theorem State.logError_home (s : State) (p : Nat) (e : ErrEvent) : (s.logError p e).home = s.home := rfl
@[simp] theorem State.logError_homeLines (s : State) (p : Nat) (e : ErrEvent) : (s.logError p e).homeLines = s.homeLines := rfl
@[simp] theorem State.logError_dieTlb (s : State) (p : Nat) (e : ErrEvent) : (s.logError p e).dieTlb = s.dieTlb := rfl
@[simp] theorem State.logError_cores (s : State) (p : Nat) (e : ErrEvent) : (s.logError p e).cores = s.cores := rfl
@[simp] theorem State.logError_cur (s : State) (p : Nat) (e : ErrEvent) : (s.logError p e).cur = s.cur := rfl
@[simp] theorem State.logError_rest (s : State) (p : Nat) (e : ErrEvent) : (s.logError p e).rest = s.rest := rfl
@[simp] theorem State.logError_saved (s : State) (p : Nat) (e : ErrEvent) : (s.logError p e).saved = s.saved := rfl
@[simp] theorem State.logError_teams (s : State) (p : Nat) (e : ErrEvent) : (s.logError p e).teams = s.teams := rfl
@[simp] theorem State.logError_launches (s : State) (p : Nat) (e : ErrEvent) : (s.logError p e).launches = s.launches := rfl
@[simp] theorem State.logError_presented (s : State) (p : Nat) (e : ErrEvent) : (s.logError p e).presented = s.presented := rfl
@[simp] theorem State.logError_nextSeq (s : State) (p : Nat) (e : ErrEvent) : (s.logError p e).nextSeq = s.nextSeq := rfl
@[simp] theorem State.logError_host (s : State) (p : Nat) (e : ErrEvent) : (s.logError p e).host = s.host := rfl
@[simp] theorem State.logError_sec (s : State) (p : Nat) (e : ErrEvent) : (s.logError p e).sec = s.sec := rfl
@[simp] theorem State.logError_eng (s : State) (p : Nat) (e : ErrEvent) : (s.logError p e).eng = s.eng := rfl
@[simp] theorem State.logError_nextId (s : State) (p : Nat) (e : ErrEvent) : (s.logError p e).nextId = s.nextId := rfl
@[simp] theorem State.logError_inputs (s : State) (p : Nat) (e : ErrEvent) : (s.logError p e).inputs = s.inputs := rfl
@[simp] theorem State.logError_turn (s : State) (p : Nat) (e : ErrEvent) : (s.logError p e).turn = s.turn := rfl
@[simp] theorem State.logError_free (s : State) (p : Nat) (e : ErrEvent) : (s.logError p e).free = s.free := rfl

@[simp] theorem State.mapGroups_clock (s : State) (f : Group → Group) : (s.mapGroups f).clock = s.clock := rfl
@[simp] theorem State.mapGroups_ctl (s : State) (f : Group → Group) : (s.mapGroups f).ctl = s.ctl := rfl
@[simp] theorem State.mapGroups_fabric (s : State) (f : Group → Group) : (s.mapGroups f).fabric = s.fabric := rfl
@[simp] theorem State.mapGroups_stks (s : State) (f : Group → Group) : (s.mapGroups f).stks = s.stks := rfl
@[simp] theorem State.mapGroups_mem (s : State) (f : Group → Group) : (s.mapGroups f).mem = s.mem := rfl
@[simp] theorem State.mapGroups_poison (s : State) (f : Group → Group) : (s.mapGroups f).poison = s.poison := rfl
@[simp] theorem State.mapGroups_home (s : State) (f : Group → Group) : (s.mapGroups f).home = s.home := rfl
@[simp] theorem State.mapGroups_homeLines (s : State) (f : Group → Group) : (s.mapGroups f).homeLines = s.homeLines := rfl
@[simp] theorem State.mapGroups_dieTlb (s : State) (f : Group → Group) : (s.mapGroups f).dieTlb = s.dieTlb := rfl
@[simp] theorem State.mapGroups_cores (s : State) (f : Group → Group) : (s.mapGroups f).cores = s.cores := rfl
@[simp] theorem State.mapGroups_teams (s : State) (f : Group → Group) : (s.mapGroups f).teams = s.teams := rfl
@[simp] theorem State.mapGroups_launches (s : State) (f : Group → Group) : (s.mapGroups f).launches = s.launches := rfl
@[simp] theorem State.mapGroups_presented (s : State) (f : Group → Group) : (s.mapGroups f).presented = s.presented := rfl
@[simp] theorem State.mapGroups_nextSeq (s : State) (f : Group → Group) : (s.mapGroups f).nextSeq = s.nextSeq := rfl
@[simp] theorem State.mapGroups_parts (s : State) (f : Group → Group) : (s.mapGroups f).parts = s.parts := rfl
@[simp] theorem State.mapGroups_host (s : State) (f : Group → Group) : (s.mapGroups f).host = s.host := rfl
@[simp] theorem State.mapGroups_sec (s : State) (f : Group → Group) : (s.mapGroups f).sec = s.sec := rfl
@[simp] theorem State.mapGroups_eng (s : State) (f : Group → Group) : (s.mapGroups f).eng = s.eng := rfl
@[simp] theorem State.mapGroups_nextId (s : State) (f : Group → Group) : (s.mapGroups f).nextId = s.nextId := rfl
@[simp] theorem State.mapGroups_inputs (s : State) (f : Group → Group) : (s.mapGroups f).inputs = s.inputs := rfl
@[simp] theorem State.mapGroups_turn (s : State) (f : Group → Group) : (s.mapGroups f).turn = s.turn := rfl
@[simp] theorem State.mapGroups_free (s : State) (f : Group → Group) : (s.mapGroups f).free = s.free := rfl

@[simp] theorem State.occupy_clock (s : State) (n : Nat) : (s.occupy n).clock = s.clock := rfl
@[simp] theorem State.occupy_ctl (s : State) (n : Nat) : (s.occupy n).ctl = s.ctl := rfl
@[simp] theorem State.occupy_fabric (s : State) (n : Nat) : (s.occupy n).fabric = s.fabric := rfl
@[simp] theorem State.occupy_stks (s : State) (n : Nat) : (s.occupy n).stks = s.stks := rfl
@[simp] theorem State.occupy_mem (s : State) (n : Nat) : (s.occupy n).mem = s.mem := rfl
@[simp] theorem State.occupy_poison (s : State) (n : Nat) : (s.occupy n).poison = s.poison := rfl
@[simp] theorem State.occupy_home (s : State) (n : Nat) : (s.occupy n).home = s.home := rfl
@[simp] theorem State.occupy_homeLines (s : State) (n : Nat) : (s.occupy n).homeLines = s.homeLines := rfl
@[simp] theorem State.occupy_dieTlb (s : State) (n : Nat) : (s.occupy n).dieTlb = s.dieTlb := rfl
@[simp] theorem State.occupy_cur (s : State) (n : Nat) : (s.occupy n).cur = s.cur := rfl
@[simp] theorem State.occupy_rest (s : State) (n : Nat) : (s.occupy n).rest = s.rest := rfl
@[simp] theorem State.occupy_saved (s : State) (n : Nat) : (s.occupy n).saved = s.saved := rfl
@[simp] theorem State.occupy_teams (s : State) (n : Nat) : (s.occupy n).teams = s.teams := rfl
@[simp] theorem State.occupy_launches (s : State) (n : Nat) : (s.occupy n).launches = s.launches := rfl
@[simp] theorem State.occupy_presented (s : State) (n : Nat) : (s.occupy n).presented = s.presented := rfl
@[simp] theorem State.occupy_nextSeq (s : State) (n : Nat) : (s.occupy n).nextSeq = s.nextSeq := rfl
@[simp] theorem State.occupy_parts (s : State) (n : Nat) : (s.occupy n).parts = s.parts := rfl
@[simp] theorem State.occupy_host (s : State) (n : Nat) : (s.occupy n).host = s.host := rfl
@[simp] theorem State.occupy_sec (s : State) (n : Nat) : (s.occupy n).sec = s.sec := rfl
@[simp] theorem State.occupy_eng (s : State) (n : Nat) : (s.occupy n).eng = s.eng := rfl
@[simp] theorem State.occupy_nextId (s : State) (n : Nat) : (s.occupy n).nextId = s.nextId := rfl
@[simp] theorem State.occupy_inputs (s : State) (n : Nat) : (s.occupy n).inputs = s.inputs := rfl
@[simp] theorem State.occupy_turn (s : State) (n : Nat) : (s.occupy n).turn = s.turn := rfl
@[simp] theorem State.occupy_free (s : State) (n : Nat) : (s.occupy n).free = s.free := rfl

@[simp] theorem State.stall_clock (s : State) (w : Wait) : (s.stall w).clock = s.clock := rfl
@[simp] theorem State.stall_ctl (s : State) (w : Wait) : (s.stall w).ctl = s.ctl := rfl
@[simp] theorem State.stall_fabric (s : State) (w : Wait) : (s.stall w).fabric = s.fabric := rfl
@[simp] theorem State.stall_stks (s : State) (w : Wait) : (s.stall w).stks = s.stks := rfl
@[simp] theorem State.stall_mem (s : State) (w : Wait) : (s.stall w).mem = s.mem := rfl
@[simp] theorem State.stall_poison (s : State) (w : Wait) : (s.stall w).poison = s.poison := rfl
@[simp] theorem State.stall_home (s : State) (w : Wait) : (s.stall w).home = s.home := rfl
@[simp] theorem State.stall_homeLines (s : State) (w : Wait) : (s.stall w).homeLines = s.homeLines := rfl
@[simp] theorem State.stall_dieTlb (s : State) (w : Wait) : (s.stall w).dieTlb = s.dieTlb := rfl
@[simp] theorem State.stall_cores (s : State) (w : Wait) : (s.stall w).cores = s.cores := rfl
@[simp] theorem State.stall_rest (s : State) (w : Wait) : (s.stall w).rest = s.rest := rfl
@[simp] theorem State.stall_saved (s : State) (w : Wait) : (s.stall w).saved = s.saved := rfl
@[simp] theorem State.stall_teams (s : State) (w : Wait) : (s.stall w).teams = s.teams := rfl
@[simp] theorem State.stall_launches (s : State) (w : Wait) : (s.stall w).launches = s.launches := rfl
@[simp] theorem State.stall_presented (s : State) (w : Wait) : (s.stall w).presented = s.presented := rfl
@[simp] theorem State.stall_nextSeq (s : State) (w : Wait) : (s.stall w).nextSeq = s.nextSeq := rfl
@[simp] theorem State.stall_parts (s : State) (w : Wait) : (s.stall w).parts = s.parts := rfl
@[simp] theorem State.stall_host (s : State) (w : Wait) : (s.stall w).host = s.host := rfl
@[simp] theorem State.stall_sec (s : State) (w : Wait) : (s.stall w).sec = s.sec := rfl
@[simp] theorem State.stall_eng (s : State) (w : Wait) : (s.stall w).eng = s.eng := rfl
@[simp] theorem State.stall_nextId (s : State) (w : Wait) : (s.stall w).nextId = s.nextId := rfl
@[simp] theorem State.stall_inputs (s : State) (w : Wait) : (s.stall w).inputs = s.inputs := rfl
@[simp] theorem State.stall_turn (s : State) (w : Wait) : (s.stall w).turn = s.turn := rfl
@[simp] theorem State.stall_free (s : State) (w : Wait) : (s.stall w).free = s.free := rfl

@[simp] theorem State.wantSync_clock (s : State) : (s.wantSync).clock = s.clock := rfl
@[simp] theorem State.wantSync_ctl (s : State) : (s.wantSync).ctl = s.ctl := rfl
@[simp] theorem State.wantSync_fabric (s : State) : (s.wantSync).fabric = s.fabric := rfl
@[simp] theorem State.wantSync_stks (s : State) : (s.wantSync).stks = s.stks := rfl
@[simp] theorem State.wantSync_mem (s : State) : (s.wantSync).mem = s.mem := rfl
@[simp] theorem State.wantSync_poison (s : State) : (s.wantSync).poison = s.poison := rfl
@[simp] theorem State.wantSync_home (s : State) : (s.wantSync).home = s.home := rfl
@[simp] theorem State.wantSync_homeLines (s : State) : (s.wantSync).homeLines = s.homeLines := rfl
@[simp] theorem State.wantSync_dieTlb (s : State) : (s.wantSync).dieTlb = s.dieTlb := rfl
@[simp] theorem State.wantSync_cores (s : State) : (s.wantSync).cores = s.cores := rfl
@[simp] theorem State.wantSync_rest (s : State) : (s.wantSync).rest = s.rest := rfl
@[simp] theorem State.wantSync_saved (s : State) : (s.wantSync).saved = s.saved := rfl
@[simp] theorem State.wantSync_teams (s : State) : (s.wantSync).teams = s.teams := rfl
@[simp] theorem State.wantSync_launches (s : State) : (s.wantSync).launches = s.launches := rfl
@[simp] theorem State.wantSync_presented (s : State) : (s.wantSync).presented = s.presented := rfl
@[simp] theorem State.wantSync_nextSeq (s : State) : (s.wantSync).nextSeq = s.nextSeq := rfl
@[simp] theorem State.wantSync_parts (s : State) : (s.wantSync).parts = s.parts := rfl
@[simp] theorem State.wantSync_host (s : State) : (s.wantSync).host = s.host := rfl
@[simp] theorem State.wantSync_sec (s : State) : (s.wantSync).sec = s.sec := rfl
@[simp] theorem State.wantSync_eng (s : State) : (s.wantSync).eng = s.eng := rfl
@[simp] theorem State.wantSync_nextId (s : State) : (s.wantSync).nextId = s.nextId := rfl
@[simp] theorem State.wantSync_inputs (s : State) : (s.wantSync).inputs = s.inputs := rfl
@[simp] theorem State.wantSync_turn (s : State) : (s.wantSync).turn = s.turn := rfl
@[simp] theorem State.wantSync_free (s : State) : (s.wantSync).free = s.free := rfl

@[simp] theorem State.overrun_clock (s : State) : (s.overrun).clock = s.clock := rfl
@[simp] theorem State.overrun_ctl (s : State) : (s.overrun).ctl = s.ctl := rfl
@[simp] theorem State.overrun_fabric (s : State) : (s.overrun).fabric = s.fabric := rfl
@[simp] theorem State.overrun_stks (s : State) : (s.overrun).stks = s.stks := rfl
@[simp] theorem State.overrun_mem (s : State) : (s.overrun).mem = s.mem := rfl
@[simp] theorem State.overrun_poison (s : State) : (s.overrun).poison = s.poison := rfl
@[simp] theorem State.overrun_home (s : State) : (s.overrun).home = s.home := rfl
@[simp] theorem State.overrun_homeLines (s : State) : (s.overrun).homeLines = s.homeLines := rfl
@[simp] theorem State.overrun_dieTlb (s : State) : (s.overrun).dieTlb = s.dieTlb := rfl
@[simp] theorem State.overrun_cores (s : State) : (s.overrun).cores = s.cores := rfl
@[simp] theorem State.overrun_teams (s : State) : (s.overrun).teams = s.teams := rfl
@[simp] theorem State.overrun_presented (s : State) : (s.overrun).presented = s.presented := rfl
@[simp] theorem State.overrun_nextSeq (s : State) : (s.overrun).nextSeq = s.nextSeq := rfl
@[simp] theorem State.overrun_parts (s : State) : (s.overrun).parts = s.parts := rfl
@[simp] theorem State.overrun_host (s : State) : (s.overrun).host = s.host := rfl
@[simp] theorem State.overrun_sec (s : State) : (s.overrun).sec = s.sec := rfl
@[simp] theorem State.overrun_eng (s : State) : (s.overrun).eng = s.eng := rfl
@[simp] theorem State.overrun_nextId (s : State) : (s.overrun).nextId = s.nextId := rfl
@[simp] theorem State.overrun_inputs (s : State) : (s.overrun).inputs = s.inputs := rfl
@[simp] theorem State.overrun_turn (s : State) : (s.overrun).turn = s.turn := rfl
@[simp] theorem State.overrun_free (s : State) : (s.overrun).free = s.free := rfl

@[simp] theorem State.coreStore_clock (s : State) (die core space p : Nat) (b : Byte) : (s.coreStore die core space p b).clock = s.clock := rfl
@[simp] theorem State.coreStore_ctl (s : State) (die core space p : Nat) (b : Byte) : (s.coreStore die core space p b).ctl = s.ctl := rfl
@[simp] theorem State.coreStore_fabric (s : State) (die core space p : Nat) (b : Byte) : (s.coreStore die core space p b).fabric = s.fabric := rfl
@[simp] theorem State.coreStore_stks (s : State) (die core space p : Nat) (b : Byte) : (s.coreStore die core space p b).stks = s.stks := rfl
@[simp] theorem State.coreStore_mem (s : State) (die core space p : Nat) (b : Byte) : (s.coreStore die core space p b).mem = s.mem := rfl
@[simp] theorem State.coreStore_poison (s : State) (die core space p : Nat) (b : Byte) : (s.coreStore die core space p b).poison = s.poison := rfl
@[simp] theorem State.coreStore_home (s : State) (die core space p : Nat) (b : Byte) : (s.coreStore die core space p b).home = s.home := rfl
@[simp] theorem State.coreStore_homeLines (s : State) (die core space p : Nat) (b : Byte) : (s.coreStore die core space p b).homeLines = s.homeLines := rfl
@[simp] theorem State.coreStore_dieTlb (s : State) (die core space p : Nat) (b : Byte) : (s.coreStore die core space p b).dieTlb = s.dieTlb := rfl
@[simp] theorem State.coreStore_cur (s : State) (die core space p : Nat) (b : Byte) : (s.coreStore die core space p b).cur = s.cur := rfl
@[simp] theorem State.coreStore_rest (s : State) (die core space p : Nat) (b : Byte) : (s.coreStore die core space p b).rest = s.rest := rfl
@[simp] theorem State.coreStore_saved (s : State) (die core space p : Nat) (b : Byte) : (s.coreStore die core space p b).saved = s.saved := rfl
@[simp] theorem State.coreStore_teams (s : State) (die core space p : Nat) (b : Byte) : (s.coreStore die core space p b).teams = s.teams := rfl
@[simp] theorem State.coreStore_launches (s : State) (die core space p : Nat) (b : Byte) : (s.coreStore die core space p b).launches = s.launches := rfl
@[simp] theorem State.coreStore_presented (s : State) (die core space p : Nat) (b : Byte) : (s.coreStore die core space p b).presented = s.presented := rfl
@[simp] theorem State.coreStore_nextSeq (s : State) (die core space p : Nat) (b : Byte) : (s.coreStore die core space p b).nextSeq = s.nextSeq := rfl
@[simp] theorem State.coreStore_parts (s : State) (die core space p : Nat) (b : Byte) : (s.coreStore die core space p b).parts = s.parts := rfl
@[simp] theorem State.coreStore_host (s : State) (die core space p : Nat) (b : Byte) : (s.coreStore die core space p b).host = s.host := rfl
@[simp] theorem State.coreStore_sec (s : State) (die core space p : Nat) (b : Byte) : (s.coreStore die core space p b).sec = s.sec := rfl
@[simp] theorem State.coreStore_eng (s : State) (die core space p : Nat) (b : Byte) : (s.coreStore die core space p b).eng = s.eng := rfl
@[simp] theorem State.coreStore_nextId (s : State) (die core space p : Nat) (b : Byte) : (s.coreStore die core space p b).nextId = s.nextId := rfl
@[simp] theorem State.coreStore_inputs (s : State) (die core space p : Nat) (b : Byte) : (s.coreStore die core space p b).inputs = s.inputs := rfl
@[simp] theorem State.coreStore_turn (s : State) (die core space p : Nat) (b : Byte) : (s.coreStore die core space p b).turn = s.turn := rfl
@[simp] theorem State.coreStore_free (s : State) (die core space p : Nat) (b : Byte) : (s.coreStore die core space p b).free = s.free := rfl

@[simp] theorem State.coreUpdate_clock (s : State) (die core space p : Nat) (b : Byte) : (s.coreUpdate die core space p b).clock = s.clock := rfl
@[simp] theorem State.coreUpdate_ctl (s : State) (die core space p : Nat) (b : Byte) : (s.coreUpdate die core space p b).ctl = s.ctl := rfl
@[simp] theorem State.coreUpdate_fabric (s : State) (die core space p : Nat) (b : Byte) : (s.coreUpdate die core space p b).fabric = s.fabric := rfl
@[simp] theorem State.coreUpdate_stks (s : State) (die core space p : Nat) (b : Byte) : (s.coreUpdate die core space p b).stks = s.stks := rfl
@[simp] theorem State.coreUpdate_mem (s : State) (die core space p : Nat) (b : Byte) : (s.coreUpdate die core space p b).mem = s.mem := rfl
@[simp] theorem State.coreUpdate_poison (s : State) (die core space p : Nat) (b : Byte) : (s.coreUpdate die core space p b).poison = s.poison := rfl
@[simp] theorem State.coreUpdate_home (s : State) (die core space p : Nat) (b : Byte) : (s.coreUpdate die core space p b).home = s.home := rfl
@[simp] theorem State.coreUpdate_homeLines (s : State) (die core space p : Nat) (b : Byte) : (s.coreUpdate die core space p b).homeLines = s.homeLines := rfl
@[simp] theorem State.coreUpdate_dieTlb (s : State) (die core space p : Nat) (b : Byte) : (s.coreUpdate die core space p b).dieTlb = s.dieTlb := rfl
@[simp] theorem State.coreUpdate_cur (s : State) (die core space p : Nat) (b : Byte) : (s.coreUpdate die core space p b).cur = s.cur := rfl
@[simp] theorem State.coreUpdate_rest (s : State) (die core space p : Nat) (b : Byte) : (s.coreUpdate die core space p b).rest = s.rest := rfl
@[simp] theorem State.coreUpdate_saved (s : State) (die core space p : Nat) (b : Byte) : (s.coreUpdate die core space p b).saved = s.saved := rfl
@[simp] theorem State.coreUpdate_teams (s : State) (die core space p : Nat) (b : Byte) : (s.coreUpdate die core space p b).teams = s.teams := rfl
@[simp] theorem State.coreUpdate_launches (s : State) (die core space p : Nat) (b : Byte) : (s.coreUpdate die core space p b).launches = s.launches := rfl
@[simp] theorem State.coreUpdate_presented (s : State) (die core space p : Nat) (b : Byte) : (s.coreUpdate die core space p b).presented = s.presented := rfl
@[simp] theorem State.coreUpdate_nextSeq (s : State) (die core space p : Nat) (b : Byte) : (s.coreUpdate die core space p b).nextSeq = s.nextSeq := rfl
@[simp] theorem State.coreUpdate_parts (s : State) (die core space p : Nat) (b : Byte) : (s.coreUpdate die core space p b).parts = s.parts := rfl
@[simp] theorem State.coreUpdate_host (s : State) (die core space p : Nat) (b : Byte) : (s.coreUpdate die core space p b).host = s.host := rfl
@[simp] theorem State.coreUpdate_sec (s : State) (die core space p : Nat) (b : Byte) : (s.coreUpdate die core space p b).sec = s.sec := rfl
@[simp] theorem State.coreUpdate_eng (s : State) (die core space p : Nat) (b : Byte) : (s.coreUpdate die core space p b).eng = s.eng := rfl
@[simp] theorem State.coreUpdate_nextId (s : State) (die core space p : Nat) (b : Byte) : (s.coreUpdate die core space p b).nextId = s.nextId := rfl
@[simp] theorem State.coreUpdate_inputs (s : State) (die core space p : Nat) (b : Byte) : (s.coreUpdate die core space p b).inputs = s.inputs := rfl
@[simp] theorem State.coreUpdate_turn (s : State) (die core space p : Nat) (b : Byte) : (s.coreUpdate die core space p b).turn = s.turn := rfl
@[simp] theorem State.coreUpdate_free (s : State) (die core space p : Nat) (b : Byte) : (s.coreUpdate die core space p b).free = s.free := rfl

@[simp] theorem State.dropClean_clock (s : State) (die core : Nat) (f : Nat → Nat → Bool) : (s.dropClean die core f).clock = s.clock := rfl
@[simp] theorem State.dropClean_ctl (s : State) (die core : Nat) (f : Nat → Nat → Bool) : (s.dropClean die core f).ctl = s.ctl := rfl
@[simp] theorem State.dropClean_fabric (s : State) (die core : Nat) (f : Nat → Nat → Bool) : (s.dropClean die core f).fabric = s.fabric := rfl
@[simp] theorem State.dropClean_stks (s : State) (die core : Nat) (f : Nat → Nat → Bool) : (s.dropClean die core f).stks = s.stks := rfl
@[simp] theorem State.dropClean_mem (s : State) (die core : Nat) (f : Nat → Nat → Bool) : (s.dropClean die core f).mem = s.mem := rfl
@[simp] theorem State.dropClean_poison (s : State) (die core : Nat) (f : Nat → Nat → Bool) : (s.dropClean die core f).poison = s.poison := rfl
@[simp] theorem State.dropClean_home (s : State) (die core : Nat) (f : Nat → Nat → Bool) : (s.dropClean die core f).home = s.home := rfl
@[simp] theorem State.dropClean_homeLines (s : State) (die core : Nat) (f : Nat → Nat → Bool) : (s.dropClean die core f).homeLines = s.homeLines := rfl
@[simp] theorem State.dropClean_dieTlb (s : State) (die core : Nat) (f : Nat → Nat → Bool) : (s.dropClean die core f).dieTlb = s.dieTlb := rfl
@[simp] theorem State.dropClean_cur (s : State) (die core : Nat) (f : Nat → Nat → Bool) : (s.dropClean die core f).cur = s.cur := rfl
@[simp] theorem State.dropClean_rest (s : State) (die core : Nat) (f : Nat → Nat → Bool) : (s.dropClean die core f).rest = s.rest := rfl
@[simp] theorem State.dropClean_saved (s : State) (die core : Nat) (f : Nat → Nat → Bool) : (s.dropClean die core f).saved = s.saved := rfl
@[simp] theorem State.dropClean_teams (s : State) (die core : Nat) (f : Nat → Nat → Bool) : (s.dropClean die core f).teams = s.teams := rfl
@[simp] theorem State.dropClean_launches (s : State) (die core : Nat) (f : Nat → Nat → Bool) : (s.dropClean die core f).launches = s.launches := rfl
@[simp] theorem State.dropClean_presented (s : State) (die core : Nat) (f : Nat → Nat → Bool) : (s.dropClean die core f).presented = s.presented := rfl
@[simp] theorem State.dropClean_nextSeq (s : State) (die core : Nat) (f : Nat → Nat → Bool) : (s.dropClean die core f).nextSeq = s.nextSeq := rfl
@[simp] theorem State.dropClean_parts (s : State) (die core : Nat) (f : Nat → Nat → Bool) : (s.dropClean die core f).parts = s.parts := rfl
@[simp] theorem State.dropClean_host (s : State) (die core : Nat) (f : Nat → Nat → Bool) : (s.dropClean die core f).host = s.host := rfl
@[simp] theorem State.dropClean_sec (s : State) (die core : Nat) (f : Nat → Nat → Bool) : (s.dropClean die core f).sec = s.sec := rfl
@[simp] theorem State.dropClean_eng (s : State) (die core : Nat) (f : Nat → Nat → Bool) : (s.dropClean die core f).eng = s.eng := rfl
@[simp] theorem State.dropClean_nextId (s : State) (die core : Nat) (f : Nat → Nat → Bool) : (s.dropClean die core f).nextId = s.nextId := rfl
@[simp] theorem State.dropClean_inputs (s : State) (die core : Nat) (f : Nat → Nat → Bool) : (s.dropClean die core f).inputs = s.inputs := rfl
@[simp] theorem State.dropClean_turn (s : State) (die core : Nat) (f : Nat → Nat → Bool) : (s.dropClean die core f).turn = s.turn := rfl
@[simp] theorem State.dropClean_free (s : State) (die core : Nat) (f : Nat → Nat → Bool) : (s.dropClean die core f).free = s.free := rfl

@[simp] theorem State.dropAll_clock (s : State) (die core : Nat) (f : Nat → Nat → Bool) : (s.dropAll die core f).clock = s.clock := rfl
@[simp] theorem State.dropAll_ctl (s : State) (die core : Nat) (f : Nat → Nat → Bool) : (s.dropAll die core f).ctl = s.ctl := rfl
@[simp] theorem State.dropAll_fabric (s : State) (die core : Nat) (f : Nat → Nat → Bool) : (s.dropAll die core f).fabric = s.fabric := rfl
@[simp] theorem State.dropAll_stks (s : State) (die core : Nat) (f : Nat → Nat → Bool) : (s.dropAll die core f).stks = s.stks := rfl
@[simp] theorem State.dropAll_mem (s : State) (die core : Nat) (f : Nat → Nat → Bool) : (s.dropAll die core f).mem = s.mem := rfl
@[simp] theorem State.dropAll_poison (s : State) (die core : Nat) (f : Nat → Nat → Bool) : (s.dropAll die core f).poison = s.poison := rfl
@[simp] theorem State.dropAll_home (s : State) (die core : Nat) (f : Nat → Nat → Bool) : (s.dropAll die core f).home = s.home := rfl
@[simp] theorem State.dropAll_homeLines (s : State) (die core : Nat) (f : Nat → Nat → Bool) : (s.dropAll die core f).homeLines = s.homeLines := rfl
@[simp] theorem State.dropAll_dieTlb (s : State) (die core : Nat) (f : Nat → Nat → Bool) : (s.dropAll die core f).dieTlb = s.dieTlb := rfl
@[simp] theorem State.dropAll_cur (s : State) (die core : Nat) (f : Nat → Nat → Bool) : (s.dropAll die core f).cur = s.cur := rfl
@[simp] theorem State.dropAll_rest (s : State) (die core : Nat) (f : Nat → Nat → Bool) : (s.dropAll die core f).rest = s.rest := rfl
@[simp] theorem State.dropAll_saved (s : State) (die core : Nat) (f : Nat → Nat → Bool) : (s.dropAll die core f).saved = s.saved := rfl
@[simp] theorem State.dropAll_teams (s : State) (die core : Nat) (f : Nat → Nat → Bool) : (s.dropAll die core f).teams = s.teams := rfl
@[simp] theorem State.dropAll_launches (s : State) (die core : Nat) (f : Nat → Nat → Bool) : (s.dropAll die core f).launches = s.launches := rfl
@[simp] theorem State.dropAll_presented (s : State) (die core : Nat) (f : Nat → Nat → Bool) : (s.dropAll die core f).presented = s.presented := rfl
@[simp] theorem State.dropAll_nextSeq (s : State) (die core : Nat) (f : Nat → Nat → Bool) : (s.dropAll die core f).nextSeq = s.nextSeq := rfl
@[simp] theorem State.dropAll_parts (s : State) (die core : Nat) (f : Nat → Nat → Bool) : (s.dropAll die core f).parts = s.parts := rfl
@[simp] theorem State.dropAll_host (s : State) (die core : Nat) (f : Nat → Nat → Bool) : (s.dropAll die core f).host = s.host := rfl
@[simp] theorem State.dropAll_sec (s : State) (die core : Nat) (f : Nat → Nat → Bool) : (s.dropAll die core f).sec = s.sec := rfl
@[simp] theorem State.dropAll_eng (s : State) (die core : Nat) (f : Nat → Nat → Bool) : (s.dropAll die core f).eng = s.eng := rfl
@[simp] theorem State.dropAll_nextId (s : State) (die core : Nat) (f : Nat → Nat → Bool) : (s.dropAll die core f).nextId = s.nextId := rfl
@[simp] theorem State.dropAll_inputs (s : State) (die core : Nat) (f : Nat → Nat → Bool) : (s.dropAll die core f).inputs = s.inputs := rfl
@[simp] theorem State.dropAll_turn (s : State) (die core : Nat) (f : Nat → Nat → Bool) : (s.dropAll die core f).turn = s.turn := rfl
@[simp] theorem State.dropAll_free (s : State) (die core : Nat) (f : Nat → Nat → Bool) : (s.dropAll die core f).free = s.free := rfl

/-! ### The fields that they set -/

@[simp] theorem State.setCore_cores (s : State) (die core : Nat) (c : Core) :
    (s.setCore die core c).cores = Tab.set (coreKey die core) c s.cores := rfl
@[simp] theorem State.setPart_parts (s : State) (p : Nat) (q : Part) : (s.setPart p q).parts = Tab.set p q s.parts := rfl
@[simp] theorem State.updLaunch_launches (s : State) (seq : Nat) (f : Launch → Launch) :
    (s.updLaunch seq f).launches = Tab.update seq f s.launches := rfl
@[simp] theorem State.setStack_stks (s : State) (n : Nat) (k : Stack) : (s.setStack n k).stks = Tab.set n k s.stks := rfl
@[simp] theorem State.setHome_home (s : State) (space p : Nat) (b : Byte) :
    (s.setHome space p b).home = Tab.set (byteKey space p) ⟨b, true⟩ s.home := rfl
@[simp] theorem State.report_reports (s : State) (r : Report) : (s.report r).host.reports = s.host.reports ++ [r] := rfl
@[simp] theorem State.report_hostMem (s : State) (r : Report) : (s.report r).host.mem = s.host.mem := rfl
@[simp] theorem State.stall_wait (s : State) (w : Wait) : (s.stall w).cur.sp.wait = w := rfl

@[simp] theorem State.part_setPart (s : State) (p q : Nat) (x : Part) :
    (s.setPart p x).part q = if q = p then x else s.part q := by simp [State.part]
@[simp] theorem State.stack_setStack (s : State) (n m : Nat) (k : Stack) :
    (s.setStack n k).stack m = if m = n then k else s.stack m := by simp [State.stack]
@[simp] theorem State.core_setCore (s : State) (die core : Nat) (c : Core) : (s.setCore die core c).core die core = c := by
  simp [State.core]

end Sys2Proof.Machine
end

