-- ==== Sys2Proof/Laws/Trap.lean ====
section
/-!
SUPPORT. What tracing changes, and what taking a trap does (R193, R194).
-/

namespace Sys2Proof.Machine

open Sys2Proof

/-! ### Tracing -/

/-- `t` is `s` but for the issuing group's trace, the write queues of the cores, and what the partitions' error logs hold. -/
structure TraceOnly (s t : State) : Prop where
  eq : t = { s with cur := { s.cur with trc := t.cur.trc }, cores := t.cores, parts := t.parts }
  cores : ∀ k, Tab.getD t.cores k Core.empty =
    { Tab.getD s.cores k Core.empty with traceQ := (Tab.getD t.cores k Core.empty).traceQ }
  parts : ∀ p, ∃ l, t.part p =
    { s.part p with errors := (s.part p).errors ++ l, traceLogged := (t.part p).traceLogged }

theorem TraceOnly.refl (s : State) : TraceOnly s s := ⟨rfl, fun _ => rfl, fun _ => ⟨[], by simp⟩⟩

theorem TraceOnly.trans {s t u : State} (h1 : TraceOnly s t) (h2 : TraceOnly t u) : TraceOnly s u := by
  refine ⟨?_, ?_, ?_⟩
  · conv_lhs => rw [h2.eq]
    conv_lhs => rw [h1.eq]
  · intro k
    conv_lhs => rw [h2.cores k, h1.cores k]
  · intro p
    obtain ⟨l1, e1⟩ := h1.parts p
    obtain ⟨l2, e2⟩ := h2.parts p
    refine ⟨l1 ++ l2, ?_⟩
    conv_lhs => rw [e2, e1]
    simp

/-- Only the trace of the issuing group changes. -/
theorem TraceOnly.trc (s : State) (t : Trace) : TraceOnly s { s with cur := { s.cur with trc := t } } :=
  ⟨rfl, fun _ => rfl, fun _ => ⟨[], by simp; rfl⟩⟩

theorem State.closeBlock_traceOnly (s : State) : TraceOnly s s.closeBlock := by
  unfold State.closeBlock
  dsimp only
  split
  · exact TraceOnly.refl s
  · split
    · refine ⟨rfl, ?_, fun _ => ⟨[], by simp [State.part, State.setCore]⟩⟩
      intro k
      simp only [State.setCore, Tab.getD_set, State.core]
      by_cases h : k = coreKey s.cur.id.die s.cur.id.core
      · subst h; simp only [if_true]
      · simp only [h, if_false]
    · exact TraceOnly.trc s _

theorem State.countPacket_traceOnly (s : State) (p : Packet_) : TraceOnly s (s.countPacket p) := TraceOnly.trc s _

theorem State.losePacket_traceOnly (s : State) : TraceOnly s s.losePacket := TraceOnly.trc s _

theorem State.putPacket_traceOnly (s : State) (n : Nat) (p : Packet_) : TraceOnly s (s.putPacket n p) := by
  unfold State.putPacket
  dsimp only
  have h : TraceOnly s (if 60 < s.cur.trc.block.length + (p.bytes (n - s.cur.trc.last) s.clock.time).length
      then s.closeBlock else s) := by
    split
    · exact s.closeBlock_traceOnly
    · exact TraceOnly.refl s
  revert h
  generalize (if 60 < s.cur.trc.block.length + (p.bytes (n - s.cur.trc.last) s.clock.time).length
      then s.closeBlock else s) = u
  intro h
  refine (h.trans (u.countPacket_traceOnly p)).trans ?_
  split
  · exact State.losePacket_traceOnly _
  · exact TraceOnly.trc _ _

/-- One entry joins a partition's error log. -/
theorem State.logError_traceOnly (s : State) (p : Nat) (e : ErrEvent) : TraceOnly s (s.logError p e) := by
  refine ⟨rfl, fun _ => rfl, fun q => ?_⟩
  by_cases h : q = p
  · subst h; exact ⟨[e], by simp [State.logError, State.setPart, State.part]⟩
  · exact ⟨[], by simp [State.logError, State.setPart, State.part, h]⟩

theorem State.logRing_traceOnly (s : State) (p : Nat) (g : Gid) (l : List RingFault) : TraceOnly s (s.logRing p g l) := by
  unfold State.logRing
  dsimp only
  have h : ∀ (l : List RingFault) (u : State), TraceOnly u (l.foldl (fun s _ => s.logError p (.traceRing g)) u) := by
    intro l
    induction l with
    | nil => exact TraceOnly.refl
    | cons a l ih => exact fun u => (u.logError_traceOnly p _).trans (ih _)
  have h1 : ∀ x, TraceOnly s (s.setPart p { s.part p with traceLogged := x }) := by
    refine fun x => ⟨rfl, fun _ => rfl, fun q => ⟨[], ?_⟩⟩
    by_cases h : q = p
    · subst h; simp [State.setPart, State.part]
    · simp [State.setPart, State.part, h]
  exact (h1 _).trans (h _ _)

/-- What a packet changes. -/
theorem State.emitAt_traceOnly (s : State) (n : Nat) (p : Packet_) : TraceOnly s (s.emitAt n p) := by
  unfold State.emitAt
  split
  · exact TraceOnly.refl s
  · split
    · exact (s.logRing_traceOnly _ _ _).trans (State.countPacket_traceOnly _ _)
    · dsimp only
      split
      · exact s.putPacket_traceOnly n p
      · split
        · exact s.losePacket_traceOnly.trans (State.countPacket_traceOnly _ _)
        · split
          · exact (TraceOnly.trc s _).trans (State.putPacket_traceOnly _ _ _)
          · exact ((TraceOnly.trc s _).trans (State.putPacket_traceOnly _ _ _)).trans (State.putPacket_traceOnly _ _ _)

theorem State.emitPacket_traceOnly (s : State) (p : Packet_) : TraceOnly s (s.emitPacket p) := s.emitAt_traceOnly _ p

/-! ### Bytes -/

theorem leNat_leBytes (n x : Nat) : leNat (leBytes n x) = x % 256 ^ n := by
  induction n generalizing x with
  | zero => simp [leBytes, leNat, Nat.mod_one]
  | succ n ih =>
    simp only [leBytes, leNat, ih, BitVec.toNat_ofNat]
    change x % 256 + 256 * (x / 256 % 256 ^ n) = x % 256 ^ (n + 1)
    rw [Nat.pow_succ, Nat.mul_comm (256 ^ n) 256, Nat.mod_mul]

theorem leBytes_length (n x : Nat) : (leBytes n x).length = n := by
  induction n generalizing x with
  | zero => rfl
  | succ n ih => simp [leBytes, ih]

theorem Mem.bytes_eq (m : Mem) (a n : Nat) : m.bytes a n = (List.range n).map fun i => m.byte (a + i) := by
  induction n generalizing a with
  | zero => rfl
  | succ n ih =>
    rw [Mem.bytes, ih, List.range_succ_eq_map, List.map_cons, List.map_map]
    congr 1
    apply List.map_congr_left
    intro i _
    simp only [Function.comp]
    congr 1
    omega

/-- Bytes written read back, from an offset on. -/
theorem Mem.bytes_putBytes {m : Mem} (a k n : Nat) (bs : List Byte) (hw : m.wf = true) (h : k + n ≤ bs.length) :
    (m.putBytes a bs).bytes (a + k) n = (bs.drop k).take n := by
  rw [Mem.bytes_eq]
  apply List.ext_getElem
  · simp; omega
  · intro i h1 h2
    simp only [List.length_map, List.length_range] at h1
    simp only [List.getElem_map, List.getElem_range, List.getElem_take, List.getElem_drop]
    rw [Mem.byte_putBytes _ _ _ hw, if_pos (by omega)]
    have e : a + k + i - a = k + i := by omega
    rw [e, List.getD_eq_getElem _ _ (by omega)]

/-- Bytes outside what was written read as before. -/
theorem Mem.byte_putBytes_out {m : Mem} (a x : Nat) (bs : List Byte) (hw : m.wf = true) (h : x < a ∨ a + bs.length ≤ x) :
    (m.putBytes a bs).byte x = m.byte x := by
  rw [Mem.byte_putBytes _ _ _ hw, if_neg (by omega)]

/-! ### The frame -/

/-- The header of R194 holds its fields. -/
theorem header_fields (cause kind slot rtid st fmt iw0 pc fmask omask g28 g29 g30 : Nat) (h1 : cause < 2 ^ 8)
    (h2 : kind < 2 ^ 8) (h3 : slot < 2) (h4 : rtid < 2 ^ 5) (h5 : st < 2 ^ 2) (h6 : fmt < 2 ^ 14) (h7 : iw0 < 2 ^ 32)
    (h8 : pc < 2 ^ 46) (h9 : fmask < 2 ^ 32) (h10 : omask < 2 ^ 32) (h11 : g28 < 2 ^ 64) (h12 : g29 < 2 ^ 64)
    (h13 : g30 < 2 ^ 64) :
    let w := cause + kind * 2 ^ 8 + slot * 2 ^ 90 + rtid * 2 ^ 91 + st * 2 ^ 96 + fmt * 2 ^ 98 + iw0 * 2 ^ 112
      + pc * 2 ^ 146 + fmask * 2 ^ 192 + omask * 2 ^ 224 + g28 * 2 ^ 256 + g29 * 2 ^ 320 + g30 * 2 ^ 384
    w < 2 ^ 512 ∧ field w 0 8 = cause ∧ field w 8 8 = kind ∧ field w 16 73 = 0 ∧ field w 89 1 = 0 ∧ field w 90 1 = slot ∧
    field w 91 5 = rtid ∧ field w 96 2 = st ∧ field w 98 14 = fmt ∧ field w 112 32 = iw0 ∧ field w 144 2 = 0 ∧
    field w 146 46 = pc ∧ field w 192 32 = fmask ∧ field w 224 32 = omask ∧ field w 256 64 = g28 ∧
    field w 320 64 = g29 ∧ field w 384 64 = g30 ∧ field w 448 64 = 0 := by
  unfold field
  repeat' apply And.intro
  all_goals omega

/-- A piece of a list of pieces of one length. -/
theorem flatten_piece {α : Type} (n : Nat) (l : List (List α)) (hl : ∀ x ∈ l, x.length = n) (i : Nat) (hi : i < l.length) :
    (l.flatten.drop (n * i)).take n = l[i] := by
  induction l generalizing i with
  | nil => simp at hi
  | cons x l ih =>
    have hx : x.length = n := hl x (by simp)
    cases i with
    | zero =>
      simp only [Nat.mul_zero, List.drop_zero, List.flatten_cons, List.getElem_cons_zero]
      rw [← hx, List.take_left]
    | succ i =>
      simp only [List.flatten_cons, List.getElem_cons_succ]
      have e : n * (i + 1) = x.length + n * i := by rw [hx, Nat.mul_add]; omega
      rw [e, List.drop_append]
      rw [List.drop_of_length_le (by omega), List.nil_append]
      have : x.length + n * i - x.length = n * i := by omega
      rw [this]
      exact ih (fun y hy => hl y (by simp [hy])) i (by simpa using hi)

theorem faddrOf_lt (fs : List Faulter) (i : Nat) : faddrOf fs i < 256 ^ 8 := by
  unfold faddrOf
  split
  · next f _ => have := f.cause.isLt; have := Nat.mod_lt f.addr.toNat (show 0 < 2 ^ 52 by decide); omega
  · omega

theorem flatten_length {α : Type} (n : Nat) (l : List (List α)) (hl : ∀ x ∈ l, x.length = n) : l.flatten.length = n * l.length := by
  induction l with
  | nil => simp
  | cons x l ih =>
    simp only [List.flatten_cons, List.length_append, List.length_cons]
    rw [ih (fun y hy => hl y (by simp [hy])), hl x (by simp)]
    rw [Nat.mul_add]; omega

theorem Group.frame_length (g : Group) (tr : Trap) : (g.frame tr).length = 320 := by
  unfold Group.frame
  dsimp only
  rw [List.length_append, leBytes_length, flatten_length 8]
  · simp
  · intro x hx
    simp only [List.mem_map] at hx
    obtain ⟨_, _, rfl⟩ := hx
    exact leBytes_length _ _

theorem Group.spillImage_length (g : Group) : g.spillImage.length = 512 := by
  unfold Group.spillImage
  rw [List.length_take, List.length_append, List.length_replicate]
  omega

/-- The team of a group after its own team has changed. -/
theorem State.team?_updTeam {s : State} {g h : Group} {f : Team → Team} (hg : ∀ t : Team, (f t).has g = t.has g)
    (hh : ∀ t : Team, t.has h = t.has g) : (s.updTeam g f).team? h = (s.team? g).map f := by
  unfold State.team? State.updTeam
  induction s.teams with
  | nil => rfl
  | cons t l ih =>
    rw [List.map_cons, List.find?_cons, List.find?_cons]
    cases ht : t.has g
    · rw [if_neg (by simp), hh, ht]
      exact ih
    · rw [if_pos rfl, hh, hg, ht]
      rfl

/-- The state's row of one of the first four registers. -/
theorem shadow_get (f : Nat → Nat → Word) {n i : Nat} (hn : n < 4) (hi : i < 32) :
    Row.get (Tab.getD [(0, Row.mk (f 0)), (1, Row.mk (f 1)), (2, Row.mk (f 2)), (3, Row.mk (f 3))] n []) i = f n i := by
  have : n = 0 ∨ n = 1 ∨ n = 2 ∨ n = 3 := by omega
  rcases this with rfl | rfl | rfl | rfl <;> exact (Row.get_mk _ i).trans (if_pos hi)

theorem State.onlyGroup_eq {s u t : State} (hu : TraceOnly s u)
    (ht : t = { u with cur := t.cur, teams := t.teams }) :
    t = { s with cur := t.cur, cores := t.cores, teams := t.teams, parts := t.parts } := by
  obtain ⟨trc, co, pa, e⟩ : ∃ trc co pa,
    u = ({ s with cur := { s.cur with trc := trc }, cores := co, parts := pa } : State) := ⟨_, _, _, hu.eq⟩
  subst e
  rw [ht]

/-- What taking a trap does, outside handler mode (R193, R194). -/
theorem State.trap_trapped {s : State} {tr : Trap} (hh : s.cur.hand = none) (hi : tr.iw0 = s.cur.iw0)
    (hm : tr.st = 2 → tr.handlers = maskOf (tr.faults.map (·.thread))) :
    ∃ t, s.trap tr = t ∧ s.OnlyGroup t ∧ t.cur.v = s.cur.v ∧ t.cur.bgt = s.cur.bgt ∧
      s.Trapped t tr.cause tr.kind tr.st.toNat tr.rtid.toNat tr.pc tr.handlers tr.omask (faddrOf tr.faults) := by
  have hT := s.emitAt_traceOnly (tr.issued.getD s.clock.cycle) (.trap tr.cause)
  obtain ⟨u, hu⟩ : ∃ u, s.emitAt (tr.issued.getD s.clock.cycle) (.trap tr.cause) = u := ⟨_, rfl⟩
  obtain ⟨trc, hcur⟩ : ∃ trc, u.cur = { s.cur with trc := trc } := ⟨u.cur.trc, by rw [← hu]; conv_lhs => rw [hT.eq]⟩
  have hteams : u.teams = s.teams := by rw [← hu, hT.eq]
  rw [hu] at hT
  have hpart : ∀ p, (u.part p).tvec = (s.part p).tvec := by
    intro p; obtain ⟨l, e⟩ := hT.parts p; rw [e]
  refine ⟨s.trap tr, rfl, ?_⟩
  have ht : s.trap tr = ({ (u.updTeam u.cur (fun t =>
      { t with ls := Mem.putBytes (Mem.putBytes t.ls u.cur.sysBase u.cur.spillImage) u.cur.tframe (u.cur.frame tr) })) with
      cur := { u.cur with
        shadow := [(0, Row.mk (u.cur.vget 0)), (1, Row.mk (u.cur.vget 1)), (2, Row.mk (u.cur.vget 2)),
          (3, Row.mk (u.cur.vget 3))]
        hand := some ⟨u.cur.slot, { u.cur.sp with
          st := tr.st, rtid := tr.rtid, pc := tr.pc, wait := .none, charged := false, quiet := tr.quiet, first := false,
          sync := false, rem := if tr.st = 2 then maskOf (tr.faults.map (·.thread)) else tr.omask }⟩
        tcause := tr.cause
        sp := handlerSplit (u.part u.cur.part).tvec tr.handlers u.clock.cycle
        spLive := true } } : State).wantSync := by
    unfold State.trap
    rw [hh]
    simp only [Option.isSome_none, Bool.false_eq_true, if_false]
    rw [hu]
    rfl
  rw [ht]
  have hid : u.cur.id = s.cur.id := by rw [hcur]
  have hla : u.cur.launch = s.cur.launch := by rw [hcur]
  have hhas : ∀ t : Team, t.has u.cur = t.has s.cur := by intro t; unfold Team.has; rw [hid, hla]
  refine ⟨⟨?_, ?_, ?_, ?_⟩, ?_, ?_, ⟨?_, ?_, ?_, ?_, ?_, ?_, ?_⟩⟩
  · exact State.onlyGroup_eq hT rfl
  · intro k
    change (Tab.getD u.cores k Core.empty).cache = _
    rw [hT.cores k]
  · intro x hx
    change x ∈ u.teams.map _ at hx
    rw [hteams, List.mem_map] at hx
    obtain ⟨v, hv, hxe⟩ := hx
    refine ⟨v, hv, ?_, ?_⟩
    · cases hc : v.has u.cur
      · rw [hc, if_neg Bool.false_ne_true] at hxe
        subst hxe; rfl
      · rw [hc, if_pos rfl] at hxe
        dsimp only at hxe
        generalize Mem.putBytes (Mem.putBytes v.ls u.cur.sysBase u.cur.spillImage) u.cur.tframe (u.cur.frame tr) = m at hxe
        subst hxe; rfl
    · intro hn
      rw [(hhas v).trans hn, if_neg Bool.false_ne_true] at hxe
      exact hxe.symm
  · exact hT.parts
  · change u.cur.v = _; rw [hcur]
  · change u.cur.bgt = _; rw [hcur]
  · change u.cur.g = _ ∧ u.cur.k = _ ∧ u.cur.q = _ ∧ u.cur.tiles = _
    rw [hcur]; exact ⟨rfl, rfl, rfl, rfl⟩
  · intro n i hn hlt
    change Row.get (Tab.getD [(0, Row.mk (u.cur.vget 0)), (1, Row.mk (u.cur.vget 1)), (2, Row.mk (u.cur.vget 2)),
          (3, Row.mk (u.cur.vget 3))] n []) i = u.cur.vget n i
    exact shadow_get u.cur.vget hn hlt
  · rfl
  · refine ⟨_, rfl, ?_⟩
    simp only [hcur, and_true]
  · refine ⟨?_, rfl, rfl, ?_, rfl, rfl, rfl, rfl⟩
    · change u.cur.slot = _; rw [hcur]
    · change (u.part u.cur.part).tvec.setWidth 48 = _
      rw [hpart, show u.cur.part = s.cur.part by rw [hcur]]
  · change u.cur.other = _ ∧ u.cur.spill = _ ∧ u.cur.rejoin = _
    rw [hcur]; exact ⟨rfl, rfl, rfl⟩
  · intro a ha hw
    have hframe : u.cur.frame tr = s.cur.frame tr := by rw [hcur]; rfl
    have hsb : u.cur.sysBase = s.cur.sysBase := by rw [hcur]; rfl
    have htf : u.cur.tframe = s.cur.tframe := by rw [hcur]; rfl
    refine ⟨{ a with ls := Mem.putBytes (Mem.putBytes a.ls u.cur.sysBase u.cur.spillImage) u.cur.tframe (u.cur.frame tr) },
      ?_, ?_⟩
    · refine (State.team?_updTeam (s := u) (g := u.cur) (h := u.cur) (f := fun t => { t with
          ls := Mem.putBytes (Mem.putBytes t.ls u.cur.sysBase u.cur.spillImage) u.cur.tframe (u.cur.frame tr) })
        (fun t => rfl) (fun t => rfl)).trans ?_
      have : u.team? u.cur = s.team? s.cur := by
        unfold State.team?
        rw [hteams]
        congr 1
        funext t; exact hhas t
      rw [this, ha]; rfl
    · simp only
      have hw1 : (Mem.putBytes a.ls u.cur.sysBase u.cur.spillImage).wf = true := Mem.wf_putBytes _ _ hw
      rw [hframe, htf]
      have hf64 : (s.cur.frame tr).length = 320 := Group.frame_length _ _
      have hb : ∀ k n, k + n ≤ 320 →
          (Mem.putBytes (Mem.putBytes a.ls u.cur.sysBase u.cur.spillImage) s.cur.tframe (s.cur.frame tr)).bytes
            (s.cur.tframe + k) n = ((s.cur.frame tr).drop k).take n := by
        intro k n hkn; exact Mem.bytes_putBytes _ _ _ _ hw1 (by omega)
      have h0 := hb 0 64 (by omega)
      simp only [Nat.add_zero, List.drop_zero] at h0
      have hH := header_fields tr.cause.toNat tr.kind.toNat (if s.cur.slot then 1 else 0) tr.rtid.toNat tr.st.toNat
        s.cur.sp.fmt.toNat tr.iw0.toNat (tr.pc.toNat / 4) tr.handlers.toNat tr.omask.toNat (s.cur.gget 28).toNat
        (s.cur.gget 29).toNat (s.cur.gget 30).toNat (by have := tr.cause.isLt; omega) (by have := tr.kind.isLt; omega)
        (by split <;> omega) (by have := tr.rtid.isLt; omega) (by have := tr.st.isLt; omega)
        (by have := s.cur.sp.fmt.isLt; omega) (by have := tr.iw0.isLt; omega) (by have := tr.pc.isLt; omega)
        (by have := tr.handlers.isLt; omega) (by have := tr.omask.isLt; omega) (by have := (s.cur.gget 28).isLt; omega)
        (by have := (s.cur.gget 29).isLt; omega) (by have := (s.cur.gget 30).isLt; omega)
      have hfm : (if tr.st = 2 then maskOf (tr.faults.map (·.thread)) else tr.handlers) = tr.handlers := by
        split
        · next h => exact (hm h).symm
        · rfl
      have hslot : (if s.cur.slot then 2 ^ 90 else 0 : Nat) = (if s.cur.slot then 1 else 0) * 2 ^ 90 := by
        cases s.cur.slot <;> rfl
      have hframe' : s.cur.frame tr = leBytes 64 (tr.cause.toNat + tr.kind.toNat * 2 ^ 8
          + (if s.cur.slot then 1 else 0) * 2 ^ 90 + tr.rtid.toNat * 2 ^ 91
          + tr.st.toNat * 2 ^ 96 + s.cur.sp.fmt.toNat * 2 ^ 98 + tr.iw0.toNat * 2 ^ 112 + tr.pc.toNat / 4 * 2 ^ 146
          + tr.handlers.toNat * 2 ^ 192 + tr.omask.toNat * 2 ^ 224 + (s.cur.gget 28).toNat * 2 ^ 256
          + (s.cur.gget 29).toNat * 2 ^ 320 + (s.cur.gget 30).toNat * 2 ^ 384)
          ++ ((List.range 32).map (fun t => leBytes 8 (faddrOf tr.faults t))).flatten := by
        unfold Group.frame
        simp only
        rw [hfm, hslot]
      have hhead : leNat ((s.cur.frame tr).take 64) = tr.cause.toNat + tr.kind.toNat * 2 ^ 8
          + (if s.cur.slot then 1 else 0) * 2 ^ 90 + tr.rtid.toNat * 2 ^ 91
          + tr.st.toNat * 2 ^ 96 + s.cur.sp.fmt.toNat * 2 ^ 98 + tr.iw0.toNat * 2 ^ 112 + tr.pc.toNat / 4 * 2 ^ 146
          + tr.handlers.toNat * 2 ^ 192 + tr.omask.toNat * 2 ^ 224 + (s.cur.gget 28).toNat * 2 ^ 256
          + (s.cur.gget 29).toNat * 2 ^ 320 + (s.cur.gget 30).toNat * 2 ^ 384 := by
        rw [hframe', List.take_append_of_le_length (by rw [leBytes_length]),
          List.take_of_length_le (by rw [leBytes_length]), leNat_leBytes]
        apply Nat.mod_eq_of_lt
        have := hH.1
        have e : (256 : Nat) ^ 64 = 2 ^ 512 := by rw [show (256 : Nat) = 2 ^ 8 from rfl, ← pow_mul]
        rw [e]; exact this
      rw [h0, hhead]
      obtain ⟨_, f1, f2, f3, f4, f5, f6, f7, f8, f9, f10, f11, f12, f13, f14, f15, f16, f17⟩ := hH
      refine ⟨f1, f2, f3, f4, f5, f6, f7, f8, ?_, f10, f11, f12, f13, f14, f15, f16, f17, ?_, ?_⟩
      · rw [f9, hi]
      · intro i hlt
        have h8 := hb (64 + 8 * i) 8 (by omega)
        rw [Nat.add_assoc, h8, hframe', List.drop_append]
        rw [List.drop_of_length_le (by rw [leBytes_length]; omega), List.nil_append, leBytes_length]
        have e : 64 + 8 * i - 64 = 8 * i := by omega
        rw [e, flatten_piece 8 _ ?_ i (by simpa using hlt)]
        · simp only [List.getElem_map, List.getElem_range]
          rw [leNat_leBytes, Nat.mod_eq_of_lt (faddrOf_lt _ _)]
        · intro x hx
          simp only [List.mem_map] at hx
          obtain ⟨_, _, rfl⟩ := hx
          exact leBytes_length _ _
      · intro x hx
        rw [Mem.byte_putBytes_out _ _ _ hw1 (by rw [hf64]; unfold Group.tframe; omega),
          Mem.byte_putBytes_out _ _ _ hw (by rw [Group.spillImage_length, hsb]; omega)]

end Sys2Proof.Machine
end

