-- ==== Sys2Proof/Laws/Memory.lean ====
section
/-!
SUPPORT. Every operation over memory keeps the canonical form of device memory, host memory and the local stores.
-/

namespace Sys2Proof.Machine

open Sys2Proof

/-- `t` has its memories in canonical form where `s` has. -/
def Keeps (s t : State) : Prop := s.memWf = true → t.memWf = true

theorem Keeps.refl (s : State) : Keeps s s := id

theorem Keeps.trans {s t u : State} (h1 : Keeps s t) (h2 : Keeps t u) : Keeps s u := fun h => h2 (h1 h)

/-- An operation that writes no memory keeps the form. -/
theorem Keeps.same {s t : State} (h1 : t.mem = s.mem) (h2 : t.host.mem = s.host.mem) (h3 : t.teams = s.teams) : Keeps s t := by
  intro h; simpa [State.memWf, h1, h2, h3] using h

theorem Keeps.foldl {α : Type} {f : State → α → State} (hf : ∀ s a, Keeps s (f s a)) (l : List α) (s : State) :
    Keeps s (l.foldl f s) := by
  induction l generalizing s with
  | nil => exact Keeps.refl s
  | cons a l ih => exact (hf s a).trans (ih _)

theorem State.memWf_iff (s : State) :
    s.memWf = true ↔ s.mem.wf = true ∧ s.host.mem.wf = true ∧ ∀ t ∈ s.teams, t.ls.wf = true := by
  simp [State.memWf, and_assoc]

/-- A write to device memory. -/
theorem Keeps.put (s : State) (p : Nat) (b : Byte) : Keeps s { s with mem := s.mem.put p b } := by
  intro h; rw [State.memWf_iff] at *; exact ⟨Mem.wf_put _ _ h.1, h.2⟩

theorem Keeps.clear (s : State) (p n : Nat) : Keeps s { s with mem := s.mem.clear p n } := by
  intro h; rw [State.memWf_iff] at *; exact ⟨Mem.wf_clear _ _ h.1, h.2⟩

/-- A write to host memory. -/
theorem Keeps.hostPut (s : State) (p : Nat) (b : Byte) :
    Keeps s { s with host := { s.host with mem := s.host.mem.put p b } } := by
  intro h; rw [State.memWf_iff] at *; exact ⟨h.1, Mem.wf_put _ _ h.2.1, h.2.2⟩

theorem State.hostWrite_keeps (s : State) (a : Nat) (bs : List Byte) : Keeps s (s.hostWrite a bs) := by
  intro h; rw [State.memWf_iff] at *; exact ⟨h.1, Mem.wf_putBytes _ _ h.2.1, h.2.2⟩

/-- A change of a team that keeps its local store in the form. -/
theorem State.updTeam_keeps (s : State) (g : Group) {f : Team → Team} (hf : ∀ t : Team, t.ls.wf = true → (f t).ls.wf = true) :
    Keeps s (s.updTeam g f) := by
  intro h; rw [State.memWf_iff] at *
  refine ⟨h.1, h.2.1, fun t ht => ?_⟩
  simp only [State.updTeam, List.mem_map] at ht
  obtain ⟨u, hu, rfl⟩ := ht
  split
  · exact hf u (h.2.2 u hu)
  · exact h.2.2 u hu

/-- Teams that go take their local stores with them. -/
theorem Keeps.filterTeams (s : State) (p : Team → Bool) : Keeps s { s with teams := s.teams.filter p } := by
  intro h; rw [State.memWf_iff] at *
  exact ⟨h.1, h.2.1, fun t ht => h.2.2 t (List.mem_filter.1 ht).1⟩

/-! ### Bytes at the home and in the caches -/

theorem State.setStack_keeps (s : State) (n : Nat) (k : Stack) : Keeps s (s.setStack n k) := .same rfl rfl rfl
theorem State.setCore_keeps (s : State) (die core : Nat) (c : Core) : Keeps s (s.setCore die core c) := .same rfl rfl rfl
theorem State.setPart_keeps (s : State) (p : Nat) (q : Part) : Keeps s (s.setPart p q) := .same rfl rfl rfl
theorem State.setHome_keeps (s : State) (space p : Nat) (b : Byte) : Keeps s (s.setHome space p b) := .same rfl rfl rfl
theorem State.updLaunch_keeps (s : State) (n : Nat) (f : Launch → Launch) : Keeps s (s.updLaunch n f) := .same rfl rfl rfl
theorem State.report_keeps (s : State) (r : Report) : Keeps s (s.report r) := .same rfl rfl rfl
theorem State.logError_keeps (s : State) (p : Nat) (e : ErrEvent) : Keeps s (s.logError p e) := .same rfl rfl rfl
theorem State.mapGroups_keeps (s : State) (f : Group → Group) : Keeps s (s.mapGroups f) := .same rfl rfl rfl

theorem State.dram_keeps (s : State) (p : Nat) (b : Byte) : Keeps s (s.dram p b) := by
  unfold State.dram
  split
  · dsimp only; split
    · exact .refl s
    · exact s.setStack_keeps _ _
  · exact .put s p b

theorem State.setHomeBypass_keeps (s : State) (space p : Nat) (b : Byte) : Keeps s (s.setHomeBypass space p b) := by
  unfold State.setHomeBypass
  split
  · exact .same rfl rfl rfl
  · exact s.dram_keeps p b

/-- Requests to the channels write no memory. -/
theorem State.sendReqs_keeps (s : State) (a : Asker) (w : Bool) (l : List Sector) : Keeps s (s.sendReqs a w l) := by
  unfold State.sendReqs
  dsimp only
  exact .foldl (fun s _ => State.setStack_keeps s _ _) _ _

theorem State.throughTier_keeps (s : State) (a : Asker) (w : Bool) (p : Nat) : Keeps s (s.throughTier a w p).1 := by
  unfold State.throughTier
  dsimp only
  have h : ∀ (u : State) (b : Asker) x y, Keeps u ((u.sendReqs b false x).sendReqs b true y) := fun u b x y =>
    (u.sendReqs_keeps b false x).trans (State.sendReqs_keeps _ b true y)
  split
  · split
    · exact (s.setStack_keeps _ _).trans (h _ _ _ _)
    · exact s.setStack_keeps _ _
  · refine Keeps.trans ?_ (h _ _ _ _)
    split
    · exact (s.setStack_keeps _ _).trans (h _ _ _ _)
    · exact s.setStack_keeps _ _

theorem State.ask_keeps (s : State) (a : Asker) (w : Bool) (l : List Sector) : Keeps s (s.ask a w l) := by
  unfold State.ask
  dsimp only
  refine Keeps.trans ?_ (State.sendReqs_keeps _ _ _ _)
  generalize List.filter _ _ = far
  have h : ∀ (far : List Sector) (acc : State × List Sector), Keeps s acc.1 → Keeps s (far.foldl (fun acc x =>
      ((acc.1.throughTier a w x.key).1, acc.2 ++ [Sector.plain (acc.1.throughTier a w x.key).2,
        Sector.plain ((acc.1.throughTier a w x.key).2 + 32)])) acc).1 := by
    intro far
    induction far with
    | nil => exact fun _ h => h
    | cons x far ih => exact fun acc h => ih _ (h.trans (acc.1.throughTier_keeps a w x.key))
  exact h far (s, []) (.refl s)

theorem State.askBack_keeps (s : State) (l : List Nat) : Keeps s (s.askBack l) := by
  unfold State.askBack
  split
  · exact .refl s
  · exact s.ask_keeps _ _ _

/-- A line that leaves a die buffer. -/
theorem State.leaveHome_keeps (s : State) (l : CLine) : Keeps s (s.leaveHome l) := by
  unfold State.leaveHome
  dsimp only
  refine Keeps.trans ?_ (State.askBack_keeps _ _)
  exact (Keeps.same (s := s) (t := { s with home := s.home.filter fun e => !l.keys.contains e.1 }) rfl rfl rfl).trans
    (.foldl (fun s (e : Nat × Byte) => s.dram_keeps e.1 e.2) _ _)

theorem State.useHome_keeps (s : State) (l : CLine) : Keeps s (s.useHome l) := by
  unfold State.useHome
  dsimp only
  split
  · exact .same rfl rfl rfl
  · refine Keeps.trans ?_ (State.leaveHome_keeps _ _); exact .same rfl rfl rfl

/-- A line that leaves a core cache. -/
theorem State.leaveCore_keeps (s : State) (die core : Nat) (l : CLine) : Keeps s (s.leaveCore die core l) := by
  unfold State.leaveCore
  dsimp only
  split
  · exact s.setCore_keeps _ _ _
  · refine Keeps.trans ?_ (State.useHome_keeps _ _); exact .same rfl rfl rfl

theorem State.useCore_keeps (s : State) (die core : Nat) (l : CLine) : Keeps s (s.useCore die core l) := by
  unfold State.useCore
  dsimp only
  split
  · exact s.setCore_keeps _ _ _
  · refine Keeps.trans ?_ (State.leaveCore_keeps _ _ _ _); exact .same rfl rfl rfl

theorem State.putHome_keeps (s : State) (p : Nat) (bs : List Byte) : Keeps s (s.putHome p bs) :=
  (Keeps.foldl (f := fun (s : State) (e : Byte × Nat) => s.setHome 0 (p + e.2) e.1) (fun _ _ => .same rfl rfl rfl) _ _).trans
    (.foldl State.useHome_keeps _ _)

theorem State.storeByte_keeps (s : State) (die core : Nat) (m : Map) (va : Nat) (b : Byte) (policy : Nat) :
    Keeps s (s.storeByte die core m va b policy) := by
  unfold State.storeByte
  dsimp only
  split
  · exact .hostPut _ _ _
  · split
    · exact .same rfl rfl rfl
    · split
      · exact .same rfl rfl rfl
      · exact (s.setHomeBypass_keeps _ _ _).trans (.same rfl rfl rfl)

theorem State.useLines_keeps (s : State) (die core : Nat) (m : Map) (va n policy : Nat) :
    Keeps s (s.useLines die core m va n policy) := by
  unfold State.useLines
  split
  · exact .refl s
  · split
    · exact .foldl (fun s l => s.useCore_keeps die core l) _ _
    · split
      · exact .foldl State.useHome_keeps _ _
      · exact .refl s

theorem State.storeBytes_keeps (s : State) (die core : Nat) (m : Map) (va : Nat) (bs : List Byte) (policy : Nat) :
    Keeps s (s.storeBytes die core m va bs policy) :=
  (Keeps.foldl (fun _ _ => State.storeByte_keeps _ _ _ _ _ _ _) _ _).trans (State.useLines_keeps _ _ _ _ _ _ _)

theorem State.mapWrite_keeps (s : State) (m : Map) (va : Nat) (bs : List Byte) : Keeps s (s.mapWrite m va bs) := by
  refine Keeps.trans (.foldl (fun s e => ?_) _ _) (State.useLines_keeps _ _ _ _ _ _ _)
  split
  · exact .hostPut _ _ _
  · exact .same rfl rfl rfl

theorem State.fillHome_keeps (s : State) (ls : List CLine) : Keeps s (s.fillHome ls) :=
by
  refine Keeps.trans ?_ (.foldl State.useHome_keeps _ _); exact .same rfl rfl rfl

theorem State.fillCore_keeps (s : State) (die core : Nat) (ls : List CLine) : Keeps s (s.fillCore die core ls) :=
  (s.setCore_keeps _ _ _).trans (.foldl (fun s l => s.useCore_keeps die core l) _ _)

theorem State.touch_keeps (s : State) (die core : Nat) (m : Map) (va size policy : Nat) :
    Keeps s (s.touch die core m va size policy) := by
  unfold State.touch
  split
  · exact .refl s
  · dsimp only
    split <;> split
    · exact s.fillCore_keeps _ _ _
    · exact (s.fillHome_keeps _).trans (State.fillCore_keeps _ _ _ _)
    · exact .refl s
    · exact s.fillHome_keeps _

theorem State.writeBack_keeps (s : State) (die core : Nat) (f : Nat → Nat → Bool) : Keeps s (s.writeBack die core f) := by
  unfold State.writeBack
  dsimp only
  refine Keeps.trans ?_ (.foldl State.useHome_keeps _ _); exact .same rfl rfl rfl

theorem State.drainHome_keeps (s : State) (f : Nat → Bool) : Keeps s (s.drainHome f) := by
  unfold State.drainHome
  dsimp only
  refine Keeps.trans ?_ (State.askBack_keeps _ _)
  exact (Keeps.foldl (fun s (e : Nat × CByte) => s.dram_keeps (e.1 % 2 ^ 48) e.2.val) _ s).trans (.same rfl rfl rfl)

theorem State.fenceBytes_keeps (s : State) (die core : Nat) (f : Nat → Bool) : Keeps s (s.fenceBytes die core f) :=
  (s.writeBack_keeps _ _ _).trans ((State.drainHome_keeps _ f).trans (State.setCore_keeps _ _ _ _))

theorem State.clearPoison_keeps (s : State) (l : List Nat) : Keeps s (s.clearPoison l) := by
  unfold State.clearPoison
  split
  · exact .refl s
  · exact .same rfl rfl rfl

theorem State.markPoison_keeps (s : State) (a : Nat) : Keeps s (s.markPoison a) := .same rfl rfl rfl

/-! ### Groups and launches -/

theorem State.updGroup_keeps (s : State) (i : Gid) (f : Group → Group) : Keeps s (s.updGroup i f) := by
  unfold State.updGroup
  split <;> exact .same rfl rfl rfl

theorem State.focus_keeps (s : State) (i : Gid) : Keeps s (s.focus i) := by
  unfold State.focus
  split
  · exact .refl s
  · split
    · exact .refl s
    · exact .same rfl rfl rfl

theorem State.void_keeps (s : State) (seq : Nat) : Keeps s (s.void seq) := by
  unfold State.void
  split
  · exact .refl s
  · split
    · exact .same rfl rfl rfl
    · exact .refl s

theorem State.rename_keeps (s : State) (f : Gid → Gid) : Keeps s (s.rename f) := .same rfl rfl rfl

theorem State.partWith_keeps (s : State) (i : Gid) : Keeps s (s.partWith i) := .same rfl rfl rfl

theorem State.endLaunch_keeps (s : State) (seq : Nat) : Keeps s (s.endLaunch seq) := by
  unfold State.endLaunch
  dsimp only
  refine Keeps.trans ?_ (.foldl (fun s i => s.partWith_keeps i) _ _)
  exact (Keeps.filterTeams s (fun t => t.launch != seq)).trans (.same rfl rfl rfl)

/-! ### Traps and the frame of an instruction -/

theorem TraceOnly.keeps {s t : State} (h : TraceOnly s t) : Keeps s t := by
  obtain ⟨h1, -, -⟩ := h
  refine .same ?_ ?_ ?_ <;> rw [h1]

theorem State.trap_keeps (s : State) (tr : Trap) : Keeps s (s.trap tr) := by
  unfold State.trap
  split
  · exact (s.logError_keeps _ _).trans (State.endLaunch_keeps _ _)
  · have h := (s.emitAt_traceOnly (tr.issued.getD s.clock.cycle) (.trap tr.cause)).keeps
    dsimp only
    generalize s.emitAt (tr.issued.getD s.clock.cycle) (.trap tr.cause) = u at h ⊢
    have hu : Keeps u (u.updTeam u.cur fun t =>
        { t with ls := Mem.putBytes (Mem.putBytes t.ls u.cur.sysBase u.cur.spillImage) u.cur.tframe (u.cur.frame tr) }) :=
      u.updTeam_keeps u.cur fun t ht => by dsimp only; exact Mem.wf_putBytes _ _ (Mem.wf_putBytes _ _ ht)
    refine (h.trans hu).trans ?_
    exact .same rfl rfl rfl

/-- Another group takes a trap. -/
theorem State.trapIn_keeps (s : State) (g : Group) (tr : Trap) : Keeps s (({ s with cur := g } : State).trap tr) :=
  (Keeps.same (t := { s with cur := g }) rfl rfl rfl).trans (State.trap_keeps _ _)

theorem State.overrun_keeps (s : State) : Keeps s s.overrun := .same rfl rfl rfl
theorem State.occupy_keeps (s : State) (n : Nat) : Keeps s (s.occupy n) := .same rfl rfl rfl

theorem State.charge_keeps (s : State) (n : Nat) : Keeps s (s.charge n) := by
  unfold State.charge
  split <;> exact .same rfl rfl rfl

theorem State.refuse_keeps (s : State) (p : Pred) (cause : BitVec 8) :
    Keeps s (s.refuse p cause) := by
  unfold State.refuse
  dsimp only
  refine Keeps.trans ?_ (State.trap_keeps _ _)
  split
  · exact .same rfl rfl rfl
  · exact (s.charge_keeps 1).trans (.same rfl rfl rfl)

theorem State.afterIssue_keeps (s : State) (e : Mask) : Keeps s (s.afterIssue e) := by
  unfold State.afterIssue
  split
  · exact s.trap_keeps _
  · exact .refl s

theorem State.retire_keeps (s : State) (n len : Nat) (e : Mask) : Keeps s (s.retire n len e) := by
  unfold State.retire
  dsimp only
  refine Keeps.trans ?_ (State.afterIssue_keeps _ _)
  split
  · exact .same rfl rfl rfl
  · exact (s.charge_keeps n).trans (.same rfl rfl rfl)

theorem State.exhausted_keeps (s : State) (t : Nat) (m : Mask) : Keeps s (s.exhausted t m) :=
  (Keeps.same (s := s) (t := { s.overrun with cur := { s.overrun.cur with spent := false } }) rfl rfl rfl).trans
    (State.trap_keeps _ _)

theorem State.await_keeps (s : State) (n : Nat) (w : Wait) : Keeps s (s.await n w) := by
  unfold State.await
  dsimp only
  split
  · exact .same rfl rfl rfl
  · exact (s.charge_keeps n).trans (.same rfl rfl rfl)

/-- The frame of a per-thread instruction keeps the form where its effect does. -/
theorem State.perThread_keeps (s : State) (p : Pred) (len : Nat) {eff : State → Mask → State}
    (he : ∀ e, Keeps s (eff s e)) : Keeps s (s.perThread p len eff) := by
  unfold State.perThread
  dsimp only
  split
  · exact (he _).trans (State.retire_keeps _ _ _ _)
  · exact (he _).trans ((State.charge_keeps _ _).trans ((State.occupy_keeps _ _).trans (State.exhausted_keeps _ _ _)))

/-- The frame of a uniform instruction keeps the form where its effect does. -/
theorem State.uniform_keeps (s : State) (p : Pred) (n len : Nat) {eff : State → State} (he : Keeps s (eff s)) :
    Keeps s (s.uniform p n len eff) := by
  unfold State.uniform
  dsimp only
  split
  · exact s.retire_keeps _ _ _
  · split
    · exact s.exhausted_keeps _ _
    · exact he.trans (State.retire_keeps _ _ _ _)

theorem State.named_keeps (s : State) (p : Pred) (l : List Opd) {run : State → State} (h : Keeps s (run s)) :
    Keeps s (s.named p l run) := by
  unfold State.named
  split
  · exact h
  · exact s.refuse_keeps _ _

theorem State.takeHeld_keeps (s : State) : Keeps s s.takeHeld := by
  unfold State.takeHeld
  split
  · exact .refl s
  · split
    · exact .refl s
    · dsimp only
      exact s.trapIn_keeps _ _

/-! ### What an operation lands -/

theorem State.landSaved_keeps (s : State) (i : Gid) (hand : Bool) (ls : List Landing) : Keeps s (s.landSaved i hand ls) := by
  unfold State.landSaved
  split
  · exact .refl s
  · split
    · refine s.updTeam_keeps _ fun t ht => ?_
      dsimp only
      generalize t.ls = m at ht
      induction ls generalizing m with
      | nil => exact ht
      | cons l ls ih =>
        refine ih _ ?_
        dsimp only
        split
        · exact Mem.wf_putBytes _ _ ht
        · exact ht
    · exact .refl s

theorem State.landAll_keeps (s : State) (i : Gid) (hand : Bool) (ls : List Landing) : Keeps s (s.landAll i hand ls) :=
  (s.landSaved_keeps _ _ _).trans (State.updGroup_keeps _ _ _)

/-- A store of a team writes its local store; the marks of its bindings are beside it. -/
theorem Team.store_wf {t : Team} (b : Nat) (xs : List Byte) (h : t.ls.wf = true) : (t.store b xs).ls.wf = true := by
  unfold Team.store
  generalize xs.zipIdx = l
  induction l generalizing t with
  | nil => exact h
  | cons e l ih => exact ih (Mem.wf_put _ _ h)

theorem Team.markBlocks_ls (t : Team) (l : List Nat) : (l.foldl Team.markBlock t).ls = t.ls := by
  have h : ∀ (l : List Nat) (t : Team), (l.foldl Team.markFilled t).ls = t.ls := by
    intro l
    induction l with
    | nil => exact fun _ => rfl
    | cons a l ih => exact fun t => (ih _).trans rfl
  induction l generalizing t with
  | nil => rfl
  | cons a l ih => rw [List.foldl_cons, ih]; exact h _ _

theorem State.landKind_keeps (s : State) (i : Gid) (hand : Bool) (k : OpKind) (ls : List Landing) :
    Keeps s (s.landKind i hand k ls) := by
  unfold State.landKind
  refine (s.landAll_keeps i hand ls).trans ?_
  dsimp only
  split
  · exact State.updGroup_keeps _ _ _
  · split
    · exact .refl _
    · exact State.updTeam_keeps _ _ fun t ht => by
        rw [Team.markBlocks_ls]; exact Team.store_wf _ _ ht
  · exact .refl _

end Sys2Proof.Machine
end

