-- ==== Sys2Proof/Tests/Slice0.lean ====
section
/-!
SUPPORT. Tests: ill-formed instructions are refused, words written out from the spec's encodings decode, single steps of
instructions give the results that the spec states, and a witness stands for the hypotheses of each statement.
-/

namespace Sys2Proof.Tests

open Sys2Proof Sys2Proof.Machine

set_option Elab.async false

/-! ### Helpers -/

/-- A state in which one group of 32 threads stands before an instruction. -/
def st0 : State := State.reset.placed []

/-- That state with its group changed. -/
def withCur (f : Group → Group) : State := { st0 with cur := f st0.cur }

/-- Operands in `v` registers, and in `g` registers. -/
def ord : Ord := ⟨.w64, .v 2, .v 3, .reg (.v 4), .v 5, ⟨0, false⟩, .s32, 0, 0, 0⟩
def ordG : Ord := { ord with d := .g 2, a := .g 3, b := .reg (.g 4), c := .g 5 }

/-- `v3` holds the thread's number. -/
def lanes : State := withCur fun g => g.vset 3 (BitVec.allOnes 32) fun t => BitVec.ofNat 64 t

/-- Bit n of a group's predicate 1 set for the threads below 16. -/
def half : State := withCur fun g => g.kset 1 (BitVec.allOnes 32) fun t => decide (t < 16)

/-- Guarded by `k1`. -/
def k1 : Pred := ⟨1, false⟩

/-- A guaranteed launch, whose group has a budget of n. -/
def budget (n : Nat) : State :=
  { st0 with
    launches := [(0, { placedLaunch with p := { placedPacket with cls := 0 } })]
    cur := { st0.cur with bgt := BitVec.ofNat 64 n } }

/-- The group in handler mode, after a `brk`. -/
def inHandler : State := st0.trap (st0.cur.wholeTrap 0x0E 0)

/-- A property of the executing threads, from the 32 threads. -/
theorem each_thread {P : Nat → Prop} {m : Mask} (h : ∀ j : Fin 32, inMask m j = true → P j) : ∀ j, inMask m j = true → P j :=
  fun j hj => h ⟨j, inMask_lt hj⟩ hj

/-- 4,096 bytes of local store in the group's program space. -/
def stL : State :=
  { st0 with cur := { st0.cur with lsize := 4096 }, teams := [{ placedTeam with size := 5120, area := 5120 }] }

/-- Addresses in `v3`: word t of 0x200000 for thread t; in `g3` the first of them. -/
def addrs : State := withCur fun g =>
  (g.vset 3 (BitVec.allOnes 32) fun t => BitVec.ofNat 64 (0x200000 + 4 * t)).gset 3 0x200000

/-- A 32-bit access at A + 0. -/
def at32 : Ord := { ord with b := .imm 0, et := .z32 }

/-- A result window of 1 MiB at 0x200000 in stack 0. -/
def window (s : State) : State := { s with stks := [(0, { Stack.empty with winBase := 0x200000, winSize := 0x100000 })] }

/-- An outstanding operation of the group. -/
def opOf (k : OpKind) (counter : Nat) : Op :=
  { g := st0.cur.id, launch := 0, kind := k, counter := counter, path := 0, due := 0, writes := [], faults := [], tags := []
    vas := [], omask := BitVec.allOnes 32, kindByte := 0, iw0 := 0, slot := false, len := 4, hand := false, issued := 0 }

def withOp (op : Op) (s : State) : State := { s with eng := { s.eng with ops := [(7, op)] } }

/-- With nothing in the die buffer and the core's cache, and no fenced bank, nothing stands between a byte and memory. -/
theorem oneView_of_empty {s : State} {die core space p : Nat} (h : s.home = []) (hc : (s.core die core).cache = [])
    (hf : s.fenced p = false) : s.oneView die core space p :=
  ⟨hf, fun x _ _ => by simp [h, hc, Tab.get?], fun c h' => by simp [h, Tab.get?] at h'⟩

theorem fenced_of_noStacks {s : State} {p : Nat} (h : s.stks = []) : s.fenced p = false := by
  simp [State.fenced, State.stack, h, Tab.getD, Tab.get?, Stack.empty]

theorem oneHome_of_empty {s : State} {space p : Nat} (h : s.home = []) (hf : s.fenced p = false) : s.oneHome space p :=
  ⟨hf, fun x _ _ => by simp [h, Tab.get?], fun c h' => by simp [h, Tab.get?] at h'⟩

/-- That nothing but its view stands between a byte and memory, as a test. -/
def clearHome (s : State) (space p : Nat) : Bool :=
  !s.fenced p && ((List.range 3).all fun x => x == space || (Tab.get? (byteKey x p) s.home).isNone) &&
  (match Tab.get? (byteKey space p) s.home with
    | none => true
    | some c => c.dirty || c.val == s.mem.byte p)

theorem oneHome_of_clear {s : State} {space p : Nat} (h : clearHome s space p = true) : s.oneHome space p := by
  simp only [clearHome, Bool.and_eq_true, List.all_eq_true, List.mem_range, Bool.or_eq_true, beq_iff_eq,
    Bool.not_eq_true', Option.isNone_iff_eq_none] at h
  refine ⟨h.1.1, fun x hx hn => (h.1.2 x hx).resolve_left hn, fun c hc hd => ?_⟩
  simpa [hc, hd] using h.2

/-- A rejoin entry of the whole group. -/
def entry (token : BitVec 16) (arrived : Mask) : Rejoin :=
  { token := token, origin := BitVec.allOnes 32, parent := 0, arrived := arrived, pc := 0x100000, next := 0x100004
    depth := 0, fmt := 0, low := 16, expiry := some 0, closed := false, merged := none, order := 0, hand := false }

/-- A number of n bytes in device memory. -/
def poke (p n v : Nat) (s : State) : State := { s with mem := s.mem.putBytes p (leBytes n v) }

/-- Whether a translation answers a map, and what is asked of it. -/
def okMap {ε : Type} (r : Except ε Map × State) (f : Map → Bool) : Bool := match r.1 with | .ok m => f m | .error _ => false

/-- A map of plain device memory whose first n bytes at an address are distinct. -/
def plainAt (n va : Nat) (m : Map) : Bool :=
  m.space == 0 && m.geo.isNone && ((List.range n).map fun i => m.phys (va + i)) == (List.range n).map (va + ·)

/-- Uniform operands A, B and C in `g3`, `g4` and `g5`. -/
def operands (a b c : Word) : State := withCur fun g => ((g.gset 3 a).gset 4 b).gset 5 c

/-- A command of class k with a shape record, one element, whose engine takes it now. -/
def cmdOf (k shape : Nat) : Cmd :=
  { id := 7, cls := k, g := st0.cur.id, launch := 0, part := 0, die := 0, shape := shape, x := 0, y := 0, counter := 0x900000
    pins := [], fmt := 0, done := 0, total := 1, status := 0, poisoned := false, version := 0, list := none, phase := .queued
    hdr := none, superseded := false, dls := false, sent := false, started := false, asked := false, vbuf := none, gone := 0, due := 0 }

def withCmd (c : Cmd) (s : State) : State := { s with eng := { s.eng with cmds := [(7, c)] } }

/-- Handle 0 of a table at 0x500000: a foundation of 32 by 32 `e4m3` at 0x700000, n notes, its sync word at 0x800000; the
page carries the accord-capable bit. -/
def accord (n : Nat) (s : State) : State :=
  let s := poke tableAt 8 0x26F s
  let s := poke 0x500000 128 (1 + 1 * 2 ^ 2 + n * 2 ^ 4 + 3 * 2 ^ 32 + 0x800000 * 2 ^ 64 +
    (List.range n).foldr (fun k v => v + 0x400000 * 2 ^ (256 + 64 * k)) 0) s
  let s := poke 0x600000 16 (0x700000 / 1024 + 2 ^ 38 + 2 ^ 62 + 2 ^ 86 + 12 * 2 ^ 112 + 2 ^ 118) s
  let s := poke 0x400000 64 (2 + 1 * 2 ^ 32 + 0x401000 * 2 ^ 64 + 0x402000 * 2 ^ 128) s
  { s with parts := [(0, { placedPart with accbase := 0x500000, geobase := 0x600000 })] }

/-! ### Witnesses: arithmetic, cross-thread instructions and traps (O1-O13) -/

theorem test_meets_O1 : ord.et.isInt = true ∧ st0.runs ord (srcA ord) = true ∧ st0.runs ord (srcAB ord) = true ∧
    st0.runs ord (srcABC ord) = true ∧ st0.runs ordG (srcABC ordG) = true := by decide +kernel

/-- A divisor of zero. -/
theorem test_meets_O1_zero : subInt (st0.vb ord 0) ord.et 0 = 0 ∧ st0.runs ord (srcAB ord) = true := by decide +kernel

theorem test_meets_O2 : ord.et.isInt = true ∧ st0.runs ord (srcABC ord) = true ∧ lanes.runs ord (srcAB ord) = true ∧
    sub (lanes.va ord 31) 32 0 = 31 := by decide +kernel

theorem test_meets_O3 : st0.runs { ord with imm := 1 } (srcAB ord) = true ∧ 1 < ord.et.count ∧
    st0.runs { ord with b := .imm 7 } (breg (.imm 7)) = true := by decide +kernel

theorem test_meets_O3_indirect : st0.issues [] (count (st0.cur.exec ord.pred)) = true ∧
    st0.cur.indirect { ord with a := .g 3 } = some 0 ∧ st0.issues [ord.d, .g 3] (count (st0.cur.exec ord.pred)) = true ∧
    st0.cur.indirect { ordG with imm := 15 } = some 15 ∧
    (∀ i j : Fin 32, st0.cur.vget 15 i = st0.cur.vget 15 j) := by decide +kernel

theorem test_meets_O4 : st0.issues (srcAB ord) (count (st0.cur.exec ord.pred)) = true ∧ st0.cur.sp.st = 0 ∧
    st0.issues [.g 2, ord.a] (count (st0.cur.exec ord.pred)) = true := by decide +kernel

theorem test_meets_O5 : st0.runs { ord with et := .f32 } (srcABC ord) = true ∧
    st0.runs { ordG with et := .e4m3 } (srcABC ordG) = true := by decide +kernel

theorem test_meets_O6 : ET.ofCode ((9 : BitVec 8).toNat % 16) = some .f32 ∧
    st0.runs { ord with et := .f16 } (srcAB ord) = true := by decide +kernel

theorem test_meets_O7 : lanes.runs ord (srcAB ord) = true ∧ 0 < ord.et.count ∧ st0.uniformIn ord.pred (breg ord.b) = true ∧
    NearestBelow (lanes.cur.omask ord.pred) 31 30 ∧ NearestAbove (lanes.cur.omask ord.pred) 0 1 := by
  refine ⟨by decide +kernel, by decide, by decide +kernel, ⟨by decide +kernel, by decide, fun q _ h => by omega⟩,
    by decide +kernel, by decide, fun q _ h => by omega⟩

theorem test_meets_O8 : lanes.runs { ord with imm := 0x80 } (srcA ord) = true ∧
    lanes.issues [.g 2, ord.a] (count (lanes.cur.exec ord.pred)) = true ∧ lanes.cur.sp.st = 0 ∧
    lanes.cur.exec ord.pred ≠ 0 := by decide +kernel

theorem test_meets_O9 : st0.trappable = true ∧ st0.cur.exec ord.pred ≠ 0 ∧ st0.funds 1 = true ∧ st0.cur.live = true ∧
    st0.cur.spLive = true ∧ st0.cur.sp.mask ≠ 0 ∧ (∃ a, st0.team? st0.cur = some a ∧ a.ls.wf = true) := by
  have h : st0.funds 1 = true ∧ st0.cur.live = true ∧ st0.cur.spLive = true ∧ st0.cur.sp.mask ≠ 0 := by decide +kernel
  exact ⟨by decide +kernel, by decide +kernel, h.1, h.2.1, h.2.2.1, h.2.2.2, placedTeam, by decide +kernel, by decide +kernel⟩

theorem test_meets_O10 : st0.trappable = true ∧ st0.cur.allNamed (srcAB { ord with a := .v 95 }) = false ∧
    st0.cur.allNamed (ord.d :: srcAB { ord with a := .v 95 }) = false ∧
    st0.cur.allNamed (srcABC { ord with c := .v 64 }) = false := by decide +kernel

theorem test_meets_O10_uniform : lanes.trappable = true ∧ lanes.cur.exec ord.pred ≠ 0 ∧
    lanes.cur.allNamed (.g 2 :: srcAB ord) = true ∧ lanes.uniformIn ord.pred (srcAB ord) = false := by decide +kernel

theorem test_meets_O11 : (budget 8).trappable = true ∧ (budget 8).cur.allNamed (ord.d :: srcAB ord) = true ∧
    (budget 8).counts = true ∧ (budget 8).cur.spent = false ∧
    (budget 8).cur.bgt.toNat < count ((budget 8).cur.exec ord.pred) := by decide +kernel

/-- In handler mode, with a budget of exactly the executing threads. -/
def handBudget : State :=
  let s := (budget 32).trap ((budget 32).cur.wholeTrap 0x0E 0)
  { s with cur := { s.cur with bgt := 1 } }

theorem test_meets_O11_handler : handBudget.cur.hand.isSome = true ∧ handBudget.cur.sp.charged = false ∧
    handBudget.cur.allNamed (ord.d :: srcAB { ord with b := .reg (.v 1) }) = true ∧ handBudget.counts = true ∧
    handBudget.cur.bgt.toNat ≤ max 1 (count (handBudget.cur.exec ord.pred)) := by decide +kernel

def singleStep : State := withCur fun g => { g with dbg := 0x100 }

theorem test_meets_O11_step : singleStep.trappable = true ∧ singleStep.funds (count (singleStep.cur.exec ord.pred)) = true ∧
    singleStep.cur.allNamed (ord.d :: srcAB ord) = true ∧ singleStep.cur.live = true ∧ singleStep.cur.spLive = true ∧
    singleStep.cur.dbg.getLsbD 8 = true ∧ singleStep.cur.exec ord.pred ≠ 0 ∧ singleStep.cur.sp.st = 0 := by decide +kernel

/-- A machine that fetches `xor v2, v3, v4`, of whose `v3` thread n has been written k cycles ago. -/
def written (n k : Nat) : State :=
  let s := State.reset.placed (((encode (.xor { ord with c := .v 0 })).getD []).flatMap (leBytes 4))
  { s with
    clock := { s.clock with cycle := 100 }
    cur := { s.cur with usable := [(3, (List.replicate 32 0).set n (100 - k + 6))] } }

/-- Thread 0 waits until six cycles have passed; thread 4 issues four cycles later, and is ready two cycles after it was written
(R167). -/
theorem test_readiness : (written 0 5).nextIssue = none ∧ (written 0 6).nextIssue.isSome = true ∧
    (written 4 1).nextIssue = none ∧ (written 4 2).nextIssue.isSome = true := by decide +kernel

theorem test_meets_O11_ready : ∃ c ws, (written 4 2).nextIssue = some c ∧
    ((written 4 2).view c.g c.slot).cur.sp.charged = false ∧
    (((written 4 2).view c.g c.slot).fetchWords maxWords []).1.toOption = some ws ∧
    (decodeWords ws).toOption = some (.xor { ord with c := .v 0 }) ∧
    (threads (((written 4 2).view c.g c.slot).cur.exec ord.pred))[4]? = some 4 := by
  refine ⟨(written 4 2).nextIssue.get (by decide +kernel), (encode (.xor { ord with c := .v 0 })).get (by decide +kernel), ?_⟩
  decide +kernel

/-- After its issue thread 4 may use `v2` from six cycles after its own cycle. -/
theorem test_meets_O11_written : 2 ∈ st0.writesAt (.xor ord) ∧ st0.cur.sp.charged = false ∧
    stalled st0 (st0.occupy 32) = false ∧ (st0.noteWrites (.xor ord) (st0.occupy 32)).cur.usableAt 2 4 = st0.clock.cycle + 10 ∧
    96 + 2 ∈ st0.writesAt (.xor ordG) ∧ isUniform (.xor ordG) = true ∧ isUniform (.xor ord) = false := by decide +kernel

theorem test_meets_O12 : inHandler.cur.hand.isSome = true ∧ inHandler.cur.live = true ∧ inHandler.cur.sp.charged = false ∧
    inHandler.counts = false ∧ inHandler.cur.exec ord.pred ≠ 0 ∧ inHandler.cur.spLive = true := by decide +kernel

theorem test_meets_O13 : ∃ h a, inHandler.cur.hand = some h ∧ inHandler.team? inHandler.cur = some a ∧
    inHandler.cur.exec ord.pred ≠ 0 ∧ inHandler.cur.sp.charged = false ∧ inHandler.funds 1 = true ∧
    inHandler.cur.held = [] ∧ field (leNat (a.ls.bytes inHandler.cur.tframe 64)) 96 2 ≠ 3 ∧
    field (leNat (a.ls.bytes inHandler.cur.tframe 64)) 89 1 = 0 ∧
    inHandler.cur.shadow.map (fun e => e.1) = [0, 1, 2, 3] := by
  refine ⟨inHandler.cur.hand.get (by decide +kernel), (inHandler.team? inHandler.cur).get (by decide +kernel), ?_⟩
  decide +kernel

/-! ### Witnesses: control flow, loads and stores (O14-O24) -/

/-- A branch by `off` words under `k1`. -/
def br (off : BitVec 21) : Branch := ⟨off, .g 3, k1⟩

/-- The lowest target, 0, and one word below it. -/
theorem test_meets_O14 : st0.issues [] (count (st0.cur.exec pred0)) = true ∧ st0.cur.spLive = true ∧
    st0.trappable = true ∧ st0.cur.acting pred0 = st0.cur.sp.mask ∧ st0.cur.acting pred0 ≠ 0 ∧
    st0.cur.acting ⟨1, false⟩ = 0 ∧ half.cur.acting k1 ≠ 0 ∧ half.cur.acting k1 ≠ half.cur.sp.mask ∧
    half.issues [] (count (half.cur.exec k1)) = true ∧ half.cur.spLive = true ∧ half.trappable = true ∧
    ¬(half.cur.rejoin.length ≥ 16 ∨ (half.cur.other.isSome = true ∧ half.cur.spill.length ≥ 32)) ∧
    GoodTarget (half.relative (br (-0x40000)).off.toInt) ∧ BadTarget (half.relative (br (-0x40001)).off.toInt) 0x07 := by
  refine ⟨?_, ?_, ?_, ?_, ?_, ?_, ?_, ?_, ?_, ?_, ?_, ?_, ⟨?_, ?_⟩, .inr ⟨?_, ?_, rfl⟩⟩ <;> decide +kernel

/-- A full rejoin table, and a full spill stack. -/
def crowded : State := { half with cur := { half.cur with
  rejoin := List.replicate 16 (entry 1 0), other := some half.cur.sp, spill := List.replicate 32 half.cur.sp } }

theorem test_meets_O14_full : crowded.cur.rejoin.length ≥ 16 ∧ crowded.cur.other.isSome = true ∧
    crowded.cur.spill.length ≥ 32 ∧ crowded.trappable = true ∧ crowded.cur.acting k1 ≠ 0 ∧
    crowded.cur.acting k1 ≠ crowded.cur.sp.mask ∧ GoodTarget (crowded.relative (br 2).off.toInt) := by
  refine ⟨?_, ?_, ?_, ?_, ?_, ?_, ?_, ?_⟩ <;> decide +kernel

/-- An indirect target that is aligned, that is not, and the deepest call. -/
def jumping (a : Word) (depth : BitVec 8) : State :=
  { half with cur := { half.cur.gset 3 a with sp := { half.cur.sp with depth := depth } } }

theorem test_meets_O14_calls : (jumping 0xFFFFFFFFFFFC 254).issues [.g 3] (count ((jumping 0xFFFFFFFFFFFC 254).cur.exec k1)) = true ∧
    (jumping 0xFFFFFFFFFFFC 254).uniformIn k1 [.g 3] = true ∧ (jumping 0xFFFFFFFFFFFC 254).cur.hand = none ∧
    (jumping 0xFFFFFFFFFFFC 254).cur.sp.depth ≠ 255 ∧ (jumping 0xFFFFFFFFFFFC 255).cur.sp.depth = 255 ∧
    (jumping 0xFFFFFFFFFFFC 255).trappable = true ∧ (jumping 2 0).cur.exec k1 ≠ 0 ∧
    GoodTarget ((jumping 0xFFFFFFFFFFFC 254).cur.opd (.g 3) 0) ∧ BadTarget ((jumping 2 0).cur.opd (.g 3) 0) 0x04 := by
  refine ⟨?_, ?_, ?_, ?_, ?_, ?_, ?_, ⟨?_, ?_⟩, .inl ⟨?_, rfl⟩⟩ <;> decide +kernel

/-- Two links: the threads below 16 return to one address, the others to another. -/
def returning (a b : Word) : State := withCur fun g =>
  { g.vset 15 (BitVec.allOnes 32) (fun t => if t < 16 then a else b) with sp := { g.sp with depth := 1 } }

theorem test_meets_O15 : (returning 0 4).issues [] (count ((returning 0 4).cur.exec pred0)) = true ∧
    (returning 0 4).cur.spLive = true ∧ (returning 0 4).cur.hand = none ∧ (returning 0 4).cur.sp.depth ≠ 0 ∧
    (returning 0 4).cur.exec pred0 ≠ 0 ∧ (returning 0 4).cur.acting pred0 ≠ 0 ∧
    (∀ j, inMask ((returning 0 4).cur.acting pred0) j = true → GoodTarget ((returning 0 4).cur.vget 15 j)) ∧
    ((threads ((returning 0 4).cur.acting pred0)).map fun j => (returning 0 4).cur.vget 15 j).eraseDups.length ≤ 1 + 1 + 32 := by
  refine ⟨by decide +kernel, by decide +kernel, by decide +kernel, by decide +kernel, by decide +kernel, by decide +kernel,
    each_thread ?_, by decide +kernel⟩
  unfold GoodTarget; decide +kernel

/-- The lowest thread with a bad link is thread 16. -/
theorem test_meets_O15_bad : (returning 0 2).trappable = true ∧ inMask ((returning 0 2).cur.acting pred0) 16 = true ∧
    (∀ k, inMask ((returning 0 2).cur.acting pred0) k = true → k < 16 → GoodTarget ((returning 0 2).cur.vget 15 k)) ∧
    BadTarget ((returning 0 2).cur.vget 15 16) 0x04 ∧ (returning 0 2).cur.sp.depth ≠ 0 ∧
    (returning 0 2).cur.exec pred0 ≠ 0 := by
  refine ⟨by decide +kernel, by decide +kernel, each_thread ?_, .inl ⟨by decide +kernel, rfl⟩, by decide +kernel,
    by decide +kernel⟩
  unfold GoodTarget; decide +kernel

theorem test_meets_O15_exits : st0.issues [] (count (st0.cur.exec pred0)) = true ∧ st0.cur.spLive = true ∧
    st0.cur.live = true ∧ st0.cur.hand = none ∧ st0.cur.sp.depth = 0 ∧ st0.cur.acting pred0 = st0.cur.exec pred0 ∧
    st0.cur.sp.mask &&& ~~~(st0.cur.exec pred0) = 0 ∧ st0.cur.other = none ∧ st0.cur.spill = [] ∧ st0.cur.rejoin = [] ∧
    (∀ a, st0.team? st0.cur = some a → a.maps = []) ∧ st0.cur.cntL = 0 ∧ st0.cur.cntS = 0 ∧ st0.cur.cntT = 0 ∧
    st0.cur.fillFaults = [] ∧ st0.backOut st0.cur.id = false ∧ half.cur.sp.mask &&& ~~~(half.cur.exec k1) ≠ 0 ∧ half.cur.acting k1 = half.cur.exec k1 := by
  refine ⟨by decide +kernel, by decide +kernel, by decide +kernel, by decide +kernel, by decide +kernel, by decide +kernel,
    by decide +kernel, by decide +kernel, by decide +kernel, by decide +kernel, ?_, by decide +kernel, by decide +kernel,
    by decide +kernel, by decide +kernel, by decide +kernel, by decide +kernel, by decide +kernel⟩
  intro a h
  have : st0.team? st0.cur = some placedTeam := by decide +kernel
  rw [this] at h; cases h; rfl

/-- Threads 0 and 1 take the cases of `lanes`, the others the default. -/
def cases : List SwCase := [⟨0, 4⟩, ⟨1, 8⟩]
def selLanes (j : Nat) : Nat := min j 2

theorem test_meets_O16 : lanes.issues [.v 3] (count (lanes.cur.exec pred0)) = true ∧ lanes.cur.spLive = true ∧
    lanes.cur.sp.mask ≠ 0 ∧
    (∀ j, inMask lanes.cur.sp.mask j = true → selLanes j ≤ cases.length ∧
      (∀ c, cases[selLanes j]? = some c → c.value.toNat = (lanes.cur.opd (.v 3) j).toNat % 2 ^ 32) ∧
      ∀ i c, i < selLanes j → cases[i]? = some c → c.value.toNat ≠ (lanes.cur.opd (.v 3) j).toNat % 2 ^ 32) ∧
    lanes.cur.rejoin.length < 16 ∧ ((threads lanes.cur.sp.mask).map selLanes).eraseDups.length ≤ 1 + 1 + 32 := by
  have h : ∀ j : Fin 32, (lanes.cur.opd (.v 3) j).toNat % 2 ^ 32 = j := by decide +kernel
  refine ⟨by decide +kernel, by decide +kernel, by decide +kernel, each_thread ?_, by decide +kernel, by decide +kernel⟩
  intro j _
  rw [h j]
  refine ⟨Nat.min_le_right _ _, fun c hc => ?_, fun i c hi hc => ?_⟩
  · obtain ⟨j, hj⟩ := j
    match j with
    | 0 => cases hc; rfl
    | 1 => cases hc; rfl
    | j + 2 => simp [selLanes, cases] at hc
  · obtain ⟨j, hj⟩ := j
    match i, j with
    | 0, 0 => simp [selLanes] at hi
    | 0, j + 1 => cases hc; simp
    | 1, 0 => simp [selLanes] at hi
    | 1, 1 => simp [selLanes] at hi
    | 1, j + 2 => cases hc; simp
    | i + 2, j => simp [selLanes] at hi

theorem test_meets_O16_targets : ∀ j : Fin 32, GoodTarget (match cases[selLanes j]? with
    | some c => lanes.relative c.off.toInt | none => lanes.relative (12 : BitVec 32).toInt) := by
  unfold GoodTarget; decide +kernel

/-- A split of the threads of a mask in a region of token 1. -/
def inRegion (m : Mask) (l : List Rejoin) : State := withCur fun g =>
  { g with sp := { g.sp with mask := m, token := 1 }, rejoin := l }

/-- At token 0; with no entry; at a closed one; before the last arrival; at the last. -/
theorem test_meets_O17 : st0.issues (breg (.imm 0)) (count (st0.cur.exec pred0)) = true ∧ st0.cur.sp.token = 0 ∧
    (inRegion 0xFFFF []).cur.entry? 1 = none ∧ (inRegion 0xFFFF []).cur.exec pred0 ≠ 0 ∧
    (inRegion 0xFFFF []).uniformIn pred0 [] = true ∧ (inRegion 0xFFFF []).cur.spill.length ≤ 32 ∧
    (inRegion 0xFFFF [{ entry 1 0 with closed := true }]).cur.entry? 1 = some { entry 1 0 with closed := true } ∧
    (inRegion 0xFFFF [entry 1 0]).cur.entry? 1 = some (entry 1 0) ∧ (0 : Mask) ||| 0xFFFF ≠ (entry 1 0).origin ∧
    (inRegion 0xFFFF [entry 1 0xFFFF0000]).cur.entry? 1 = some (entry 1 0xFFFF0000) ∧
    (entry 1 0xFFFF0000).arrived ||| 0xFFFF = (entry 1 0xFFFF0000).origin ∧
    (entry 1 0xFFFF0000).pc = (inRegion 0xFFFF []).cur.sp.pc ∧
    (entry 1 0xFFFF0000).depth = (inRegion 0xFFFF []).cur.sp.depth := by decide +kernel

/-- At its time, and one nanosecond before it. -/
theorem test_meets_O17_expiry : ∃ g, (inRegion 1 [entry 1 0xFFFF0000]).group? st0.cur.id = some g ∧
    g.entry? (BitVec.ofNat 16 1) = some (entry 1 0xFFFF0000) ∧ (0 : Word).toNat ≤ st0.clock.time.toNat ∧
    (∀ r ∈ g.rejoin, r.merged = none) ∧ (∀ r ∈ g.rejoin, r.token = 1 → r = entry 1 0xFFFF0000) ∧
    st0.clock.time.toNat < (st0.clock.time + 1).toNat := by
  refine ⟨(inRegion 1 [entry 1 0xFFFF0000]).cur, by decide +kernel, by decide +kernel, by decide +kernel, ?_, ?_, by decide +kernel⟩
  · intro r h; simp [inRegion, withCur] at h; rw [h]; rfl
  · intro r h _; simpa [inRegion, withCur] using h

/-- A split that sleeps until a time. -/
def sleeper (t : Word) : State := withCur fun g => { g with sp := { g.sp with wait := .sleep t 8 } }

theorem test_meets_O18 : st0.issues [.g 3] (count (st0.cur.exec pred0)) = true ∧ st0.uniformIn pred0 [.g 3] = true ∧
    st0.cur.spLive = true ∧ (sleeper 0).group? st0.cur.id = some (sleeper 0).cur ∧
    (sleeper 0).cur.inSlot false = some (sleeper 0).cur.sp ∧ (sleeper 0).cur.sp.wait = .sleep 0 8 := by decide +kernel

theorem test_meets_O19 : addrs.issues (at32.d :: srcAB at32) (addrs.cost at32 (srcAB at32)) = true ∧
    addrs.cur.exec at32.pred ≠ 0 ∧ addrs.cur.cntL < 62 ∧
    (addrs.plans at32 4 false true (addrs.accessors at32 false)).2.1 = [] ∧
    addrs.issues (srcAB at32) (count (addrs.cur.exec at32.pred)) = true ∧
    (addrs.plans { at32 with d := .g 2, a := .g 3 } 4 false true (addrs.accessors at32 true)).2.1 = [] := by decide +kernel

/-- Nothing but its view stands between memory and a byte that a thread names. -/
theorem test_meets_O19_settled (a : Nat) (h : addrs.fenced a = false) : addrs.oneView addrs.cur.id.die addrs.cur.id.core 0 a :=
  oneView_of_empty (by decide +kernel) (by decide +kernel) h

/-- A misaligned address, and the first address of the reserved space: each thread faults. -/
theorem test_meets_O19_faults : addrs.trappable = true ∧ addrs.cur.live = true ∧
    addrs.cur.allNamed (at32.d :: srcAB at32) = true ∧ addrs.funds (count (addrs.cur.exec at32.pred)) = true ∧
    ((addrs.plans { at32 with b := .imm 1 } 4 false true (threads (addrs.cur.exec at32.pred))).2.1.map
      fun f => (f.thread, f.cause)).head? = some (0, 0x04) ∧
    (((addrs.plans { at32 with a := .g 3, b := .reg (.g 4) } 4 false true [0]).2.1).map
      fun f => (f.thread, f.cause)) = [] ∧
    ((((withCur fun g => g.gset 3 (BitVec.ofNat 64 (2 ^ 52))).plans { at32 with a := .g 3 } 4 false true [0]).2.1).map
      fun f => (f.thread, f.cause)) = [(0, 0x07)] := by decide +kernel

theorem test_meets_O20 : addrs.issues (srcABC at32) (max 1 (count (addrs.cur.exec at32.pred))) = true ∧
    addrs.cur.exec at32.pred ≠ 0 ∧ addrs.cur.cntS < 62 ∧ addrs.memWf = true ∧
    (addrs.plans at32 4 true false (threads (addrs.cur.exec at32.pred))).2.1 = [] ∧
    (∀ q ∈ (addrs.plans at32 4 true false (threads (addrs.cur.exec at32.pred))).1, q.map.space < 4) := by decide +kernel

/-- Offsets at the end of the program space: the last word. -/
def offsets : State := { stL with cur := stL.cur.vset 3 (BitVec.allOnes 32) fun t => BitVec.ofNat 64 (4096 - 4 - 4 * t) }

theorem test_meets_O21 : ∃ a, offsets.team? offsets.cur = some a ∧ offsets.cur.exec at32.pred ≠ 0 ∧
    offsets.issues (at32.d :: srcAB at32) (offsets.cost at32 (srcAB at32)) = true ∧
    offsets.issues (srcABC at32) (max 1 (count (offsets.cur.exec at32.pred))) = true ∧ offsets.cur.cntL < 62 ∧
    offsets.cur.cntS < 62 ∧ offsets.cur.fillFaults = [] ∧ a.ls.wf = true ∧
    (∀ j : Fin 32, let y := (offsets.cur.opd at32.a j + offsets.cur.boff at32.b j).toNat
      y % 4 = 0 ∧ a.allows offsets.cur y 4 = true ∧ offsets.cur.isDenied j = false ∧ a.unfilled y = false) := by
  refine ⟨(offsets.team? offsets.cur).get (by decide +kernel), by decide +kernel, by decide +kernel, by decide +kernel,
    by decide +kernel, by decide +kernel, by decide +kernel, by decide +kernel, by decide +kernel, by decide +kernel⟩

/-- A binding of 256 bytes from local 3,840 to 0x300000, not filled. -/
def bound : MapBind := { loc := 3840, glob := 0x300000, len := 256, noFill := false, filled := [], dirty := [] }
def mapped : State := { offsets with teams := [{ placedTeam with size := 5120, area := 5120, maps := [bound] }] }

theorem test_meets_O21_unfilled : ∃ a, mapped.team? mapped.cur = some a ∧
    (∀ j ∈ mapped.accessors at32 false, a.unfilled (mapped.cur.opd at32.a j + mapped.cur.boff at32.b j).toNat = true) := by
  refine ⟨(mapped.team? mapped.cur).get (by decide +kernel), by decide +kernel⟩

theorem test_meets_O22 : (window addrs).cur.exec at32.pred ≠ 0 ∧
    (window addrs).issues (at32.d :: srcAB at32) ((window addrs).cost at32 (srcAB at32)) = true ∧
    (window addrs).issues (srcABC at32) (max 1 (count ((window addrs).cur.exec at32.pred))) = true ∧
    (window addrs).memWf = true ∧ (window addrs).cur.cntL < 62 ∧ (window addrs).cur.cntS < 62 ∧
    ((window addrs).windowPlans at32 4 false ((window addrs).accessors at32 false)).2.1 = [] ∧
    ((window addrs).windowPlans at32 4 true (threads ((window addrs).cur.exec at32.pred))).2.1 = [] ∧
    ((window addrs).windowPlans at32 1 true (threads ((window addrs).cur.exec at32.pred))).2.1 = [] := by decide +kernel

/-- The page of an `ldfe`, and a request of thread 0 that its controller has seen in a cycle. -/
def feMap : Map := ⟨0, none, 0x200000, 0x200000, 0, 0, false, true⟩
def feWait (seen : Bool) : FeWait := ⟨0, 0x200000, 0x200000, feMap, 0, 4, false, 2, seen⟩
def feReq (core : Nat) (fills : Bool) : FeReq := ⟨0, core, 0, 0, [atomOf 0x200000], fills, feMap, 0x200000, []⟩

/-- A request that has waited at an empty atom, one cycle past 1 ms. -/
def waitingFe (seen : Bool) (fe : List FeReq) : State :=
  let s := window (withOp (opOf (.ldfe [feWait seen]) 0) addrs)
  { s with clock := { s.clock with cycle := 2700001 }, eng := { s.eng with fe := fe } }

theorem test_meets_O22_timeout : Tab.get? 7 (waitingFe true []).eng.ops = some (opOf (.ldfe [feWait true]) 0) ∧
    (opOf (.ldfe [feWait true]) 0).g = (waitingFe true []).cur.id ∧ (waitingFe true []).cur.live = true ∧
    (waitingFe true []).cur.hand = none ∧ (waitingFe true []).cur.hold = .none ∧ (waitingFe true []).cur.held = [] ∧
    (waitingFe true []).cur.slot = false ∧ (waitingFe true []).cur.spLive = true ∧
    (feWait true).arrived + 2700000 < (waitingFe true []).clock.cycle ∧ (feWait false).seen = false := by decide +kernel

/-- Two changes of one atom, of core 0 and of core 1, in one logic-die cycle; one with a check of core 0. -/
theorem test_meets_O22_order : (feReq 0 true).atoms = [atomOf 0x200000] ∧
    (waitingFe true []).inWindow (32 * atomOf 0x200000) = true ∧
    (waitingFe true [feReq 1 false, feReq 0 true]).eng.fe.Perm [feReq 0 true, feReq 1 false] ∧
    (∀ e ∈ (waitingFe true []).eng.ops, e.2.unseen = false) ∧ (0 * 65 + 0) * 64 + 0 < (0 * 65 + 1) * 64 + 0 := by
  refine ⟨by decide +kernel, by decide +kernel, List.Perm.swap _ _ _, by decide +kernel, by decide⟩

theorem test_meets_O22_check : (waitingFe false [feReq 1 true]).eng.fe = [feReq 1 true] ∧
    (waitingFe false [feReq 1 true]).eng.ops = [(7, opOf (.ldfe [feWait false]) 0)] ∧ (feWait false).seen = false ∧
    atomOf (feWait false).addr = atomOf 0x200000 ∧
    (waitingFe false [feReq 1 true]).poisoned feMap 0x200000 4 = false := by decide +kernel

/-- A fill of core 1 releases the check of core 0 that has found its atom empty. -/
theorem test_fe_order : (waitingFe false [feReq 1 true]).applyFe.isFull 0x200000 = true ∧
    ((Tab.get? 7 (waitingFe false [feReq 1 true]).applyFe.eng.ops).map fun o => (o.kind, o.writes)) =
      some (.ldfe [], [⟨0, 2, 0⟩]) := by decide +kernel

/-- A load whose data is due. -/
def landing : State := withOp { opOf .load 0 with writes := [⟨0, 2, 5⟩] } (withCur fun g => { g with cntL := 1 })

theorem test_meets_O23 : Tab.get? 7 landing.eng.ops = some { opOf .load 0 with writes := [⟨0, 2, 5⟩] } ∧
    landing.group? st0.cur.id = some landing.cur ∧ landing.cur.hold ≠ .exited ∧ landing.cur.hand = none ∧
    landing.cur.dbg.getLsbD 8 = false ∧ landing.requestsLeft 7 = false ∧ (opOf .load 0).due ≤ landing.clock.cycle ∧
    landing.clock.cycle < (landing.clock.cycle + 1) := by decide +kernel

/-- An access held at its partial point, by a fault of thread 3, or by a budget that ends before it. -/
def partly (k : OpKind) (cause : BitVec 8) : State :=
  withOp { opOf k 0 with faults := [⟨3, cause, 0x300000⟩], writes := [⟨2, 0, 5⟩] } (withCur fun g =>
    { g with cntL := 1, sp := { g.sp with wait := .op 7, charged := true } })

theorem test_meets_O19_partial : ∀ k ∈ [OpKind.load, OpKind.store], ∀ c ∈ [(0x06 : BitVec 8), 0x09],
    (Tab.get? 7 (partly k c).eng.ops).map (fun o => (o.kind, o.faults, o.tags, o.hand)) =
      some (k, [⟨3, c, 0x300000⟩], [], false) ∧
    (partly k c).requestsLeft 7 = false ∧ (opOf k 0).due ≤ (partly k c).clock.cycle ∧ (opOf k 0).g = (partly k c).cur.id ∧
    (opOf k 0).slot = (partly k c).cur.slot ∧ (partly k c).cur.live = true ∧ (partly k c).cur.hand = none ∧
    (partly k c).cur.hold = .none ∧ (partly k c).cur.held = [] ∧ (partly k c).cur.sp.wait = .op 7 ∧
    (partly k c).cur.other.toList ++ (partly k c).cur.spill = [] := by decide +kernel

/-- The last 256 bytes of the program space, and operands of `lsmap` that name them. -/
def mapping (a b c : Word) : State :=
  { stL with cur := ((stL.cur.gset 3 a).gset 4 b).gset 5 c }

theorem test_meets_O24 : ∃ t, (mapping 3840 0x300000 256).team? (mapping 3840 0x300000 256).cur = some t ∧
    (mapping 3840 0x300000 256).cur.exec ordG.pred ≠ 0 ∧
    (mapping 3840 0x300000 256).issues (srcABC ordG) 1 = true ∧
    (mapping 3840 0x300000 256).uniformIn ordG.pred (srcABC ordG) = true ∧ 3840 + 256 ≤ t.size ∧
    3840 % t.area + 256 ≤ (mapping 3840 0x300000 256).cur.lsize ∧ t.maps = [] ∧
    (mapping 3840 0x300000 256).cur.opd ordG.c 0 = 256 ∧
    (mapping 3841 0 256).trappable = true ∧ (mapping 3841 0 256).cur.allNamed (srcABC ordG) = true ∧
    ((mapping 3841 0 256).cur.opd ordG.a 0).toNat % 256 ≠ 0 ∧ (mapping 3840 0 0).cur.opd ordG.c 0 = 0 := by
  refine ⟨((mapping 3840 0x300000 256).team? (mapping 3840 0x300000 256).cur).get (by decide +kernel), ?_⟩; decide +kernel

/-- A literal for B is zero-extended. -/
theorem test_lsmap_literal :
    ((match execLsmap { ordG with b := .lit 0x80000000 } (mapping 3840 0 256) with | .next t => some t | _ => none).bind fun t =>
      (t.team? t.cur).map fun (a : Team) => a.maps.map MapBind.glob) = some [0x80000000] := by decide +kernel

/-- That binding, named by A. -/
def unmapping : State := { mapped with cur := mapped.cur.gset 3 3840 }

theorem test_meets_O24_bound : ∃ t, unmapping.team? unmapping.cur = some t ∧
    t.maps.find? (fun m => m.loc == (unmapping.cur.opd ordG.a 0).toNat) = some bound ∧
    (unmapping.backMaps unmapping.cur [bound]).1 = none ∧ unmapping.issues [ordG.a] 1 = true ∧ unmapping.cur.cntC < 62 ∧
    unmapping.cur.cntS < 62 ∧ t.bindAt 3840 = some bound ∧ t.ls.wf = true ∧ unmapping.cur.live = true ∧ unmapping.cur.fillFaults = [] ∧
    unmapping.fillOut unmapping.cur.id = false ∧
    (∀ b ∈ blockAtoms 3840, t.unfilled b = true) ∧ bound.globalOf 3840 = 0x300000 ∧
    ((unmapping.translate (unmapping.cur.acc false) 0x300000 256 1).1.toOption.map fun mp => decide (mp.space < 4)) =
      some true := by
  refine ⟨(unmapping.team? unmapping.cur).get (by decide +kernel), ?_⟩; decide +kernel

/-- One atom of the block is poisoned: it alone fails. -/
theorem test_fill_poison :
    ((unmapping.markPoison (0x300020 / 32)).fillBlock unmapping.cur.id 3840).cur.fillFaults = [⟨3872, 0x0D, 0x300020⟩] ∧
    ((((unmapping.markPoison (0x300020 / 32)).fillBlock unmapping.cur.id 3840).team? unmapping.cur).map fun t =>
      t.maps.map fun m => m.filled) = some [[3840, 3904, 3936, 3968, 4000, 4032, 4064]] := by decide +kernel

/-- A fill from an address that no leaf maps fails. -/
theorem test_meets_O24_fault :
    (unmapping.translate (unmapping.cur.acc false) (BitVec.ofNat 64 (2 ^ 40)) 256 1).1.toOption = none := by
  decide +kernel

/-- The same range at a page of device 5. -/
def abroad : State := { unmapping with
  mem := unmapping.mem.putBytes (tableAt + 8) (leBytes 8 (0x3B + 5 * 2 ^ 42))
  teams := [{ placedTeam with size := 5120, area := 5120, maps := [{ bound with glob := 0x40000000 }] }] }

theorem test_meets_O24_remote : (abroad.team? abroad.cur).isSome = true ∧
    ((abroad.translate (abroad.cur.acc false) 0x40000000 256 1).1.toOption.map fun mp =>
      (decide (4 ≤ mp.space), abroad.inCore 0 0 mp 0x40000000 256, mp.dev)) = some (true, false, 5) ∧
    (abroad.fillBlock abroad.cur.id 3840).fabric.outbox.length = abroad.fabric.outbox.length + 4 := by decide +kernel
/-! ### Witnesses: synchronisation, queues, launches, the matrix unit and accords (O25-O37) -/

/-- With an outstanding store, and with none. -/
def storing : State := withOp { opOf .store 1 with path := 0 } (withCur fun g => { g with cntS := 1 })

theorem test_meets_O25 : st0.runsU ord [] = true ∧ storing.runsU ord [] = true ∧
    ((st0.core 0 0).cache.map fun e => e.1).Nodup ∧ st0.pathOpen st0.cur.id 0 = true ∧
    storing.pathOpen storing.cur.id 0 = false ∧ st0.eng.ops = [] ∧ st0.hasCmd st0.cur.id (fun _ => true) = false ∧
    st0.hasDraw st0.cur.id = false ∧ st0.unacknowledged st0.cur.id = false := by decide +kernel

theorem test_meets_O25_busy : storing.opsOn (fun o => o.path == 0) :=
  ⟨(7, { opOf .store 1 with path := 0 }), by decide +kernel, by decide +kernel, by decide +kernel⟩

/-- The last byte of a page and the first of the next; the length 0; an address that no page maps. -/
theorem test_meets_O25_view : (operands 0x200FFF 2 0).runsU ordG (srcAB ordG) = true ∧ st0.memWf = true ∧
    ((operands 0x200FFF 2 0).range (st0.cur.acc false) 2 0x200FFF 2).1.toOption.isSome = true ∧
    (operands 0x200FFF 0 0).b0 ordG = 0 ∧ (operands 0x200FFF 0 0).cur.hand = none ∧
    (st0.range (st0.cur.acc false) 2 (2 ^ 40) 1).1.toOption = none := by decide +kernel

theorem test_meets_O26 : st0.launch? st0.cur.launch = some placedLaunch ∧ placedLaunch.binds = [] ∧
    (operands 0x200000 0x300000 256).runsU ordG (srcABC ordG) = true ∧
    okMap ((operands 0x200000 0x300000 256).translate (st0.cur.acc false) 0x200000 8 8) (fun m => m.plain) = true ∧
    ((operands 0x200000 0x300000 256).range (st0.cur.acc false) 2 0x300000 256).1.toOption.isSome = true ∧
    (operands 0x300000 256 0).runsU ordG (srcAB ordG) = true ∧ (operands 4 0x300000 256).cur.hand = none ∧
    ((operands 4 0x300000 256).a0 ordG).toNat % 8 ≠ 0 ∧ (operands 0 0 0).c0 ordG = 0 := by decide +kernel

/-- A sync word that satisfies the acquire exactly, and one that is one below. -/
theorem test_meets_O27 : (operands 0x200000 1 0).runsU ordG (srcAB ordG) = true ∧
    (operands 0x200000 1 0).eng.waiters = [] ∧
    okMap ((operands 0x200000 1 0).translate (st0.cur.acc true) 0x200000 8 8) (plainAt 8 0x200000) = true ∧
    (poke 0x200000 8 1 (operands 0x200000 1 0)).homeNat 0x200000 8 = 1 ∧
    (operands 0x200000 1 0).homeNat 0x200000 8 = 0 ∧ (operands 0x200000 1 0).binds = [] ∧
    (operands 0x200000 1 0).syncOut = false ∧ ((operands 0x200000 1 0).releaseBound 0x200000 0).1 = none := by decide +kernel

theorem test_meets_O28 : (operands 0x200000 1 2).runs { ordG with et := .z32 } (srcABC ordG) = true ∧
    (operands 0x200000 1 2).cur.exec ordG.pred ≠ 0 ∧ (operands 0x200000 1 2).cur.cntL < 62 ∧
    (operands 0x200000 1 2).eng.waiters = [] ∧
    ((planAll (fun s t => s.checkAtomic (s.cur.opd ordG.a t) 4 false) (fun s t => s.cur.opd ordG.a t) [0]
      (operands 0x200000 1 2)).1.map fun q => (q.va, plainAt 4 0x200000 q.map)) = [(0x200000, true)] ∧
    (planAll (fun s t => s.checkAtomic (s.cur.opd ordG.a t) 4 false) (fun s t => s.cur.opd ordG.a t) [0]
      (operands 0x200000 1 2)).2.1 = [] := by decide +kernel

/-- Every thread at the last word of the program space. -/
def lastWord : State := { stL with cur := stL.cur.vset 3 (BitVec.allOnes 32) fun _ => 4092 }

theorem test_meets_O28_local : ∃ t, lastWord.team? lastWord.cur = some t ∧ t.ls.wf = true ∧
    lastWord.runs { ord with et := .z32 } (srcAB ord) = true ∧ lastWord.cur.exec ord.pred ≠ 0 ∧ lastWord.cur.cntL < 62 ∧
    lastWord.cur.fillFaults = [] ∧
    (∀ j ∈ lastWord.accessors ord false, lastWord.cur.opd ord.a j = 4092 ∧ lastWord.cur.isDenied j = false) ∧
    t.allows lastWord.cur 4092 4 = true ∧ t.unfilled 4092 = false := by
  refine ⟨(lastWord.team? lastWord.cur).get (by decide +kernel), ?_⟩; decide +kernel

/-- A barrier word of barrier 7 that counts one group, and one that counts two. -/
theorem test_meets_O29 : (operands 0x107 0 0).team? st0.cur = some placedTeam ∧
    (operands 0x107 0 0).runsU ordG [ordG.a] = true ∧ ((operands 0x107 0 0).a0 ordG).toNat = 7 + 1 * 256 ∧
    (((operands 0x107 0 0).groups ++ (operands 0x107 0 0).saved).filter fun g => placedTeam.has g).length = 1 ∧
    Tab.get? 7 (operands 0x107 0 0).cur.arrivals ≠ some (placedTeam.bar 7).phase ∧
    (operands 0x107 0 0).cur.sp.wait = .none ∧ (operands 0x207 0 0).cur.hand = none ∧
    ((operands 0x207 0 0).a0 ordG).toNat / 256 % 16 = 2 := by decide +kernel

/-- After its own arrival, in the barrier's phase. -/
theorem test_meets_O29_seen :
    Tab.get? 7 ({ (operands 0x107 0 0).cur with arrivals := [(7, (placedTeam.bar 7).phase)] } : Group).arrivals =
      some (placedTeam.bar 7).phase := by decide +kernel

/-- A counter at its threshold, and one above it; a revoked decrement. -/
theorem test_meets_O29_wait : storing.issues [] 1 = true ∧ storing.cur.sp.mask ≠ 0 ∧ storing.cur.cntS ≤ (1 : BitVec 6).toNat ∧
    ¬storing.cur.cntS ≤ (0 : BitVec 6).toNat ∧ storing.cur.revoked = 0 ∧
    (withCur fun g => { g with revoked := 1 }).cur.revoked ≠ 0 ∧ storing.cur.hand = none := by decide +kernel

/-- A queue of two entries at 0x200000 with its ring at 0x300000: empty, or full. -/
def queue (tail : Nat) (s : State) : State :=
  poke 0x200000 64 (1 + 0x300000 * 2 ^ 64 + tail * 2 ^ 192) { s with cur := { s.cur with q := [(0, 0x200001)] } }

theorem test_meets_O30 :
    okMap ((queue 2 st0).translate (st0.cur.acc true) 0x200000 64 64) (fun m => plainAt 64 0x200000 m &&
      (let w := leNat ((queue 2 st0).mapBytes m 0x200000 64)
       (2 ^ field w 0 5 ≤ (field w 192 64 + 2 ^ 64 - field w 128 64) % 2 ^ 64)) &&
      (let w := leNat ((queue 0 st0).mapBytes m 0x200000 64)
       (field w 192 64 + 2 ^ 64 - field w 128 64) % 2 ^ 64 == 0) &&
      !(QDesc.of (leNat ((queue 0 st0).mapBytes m 0x200000 64))).bad) = true ∧
    okMap ((queue 1 st0).translate (st0.cur.acc true) 0x300008 8 8) (plainAt 8 0x300008) = true := by decide +kernel

/-- A bad handle; a push of the one executing thread; a pop. -/
theorem test_meets_O30_instructions : st0.cur.exec ord.pred ≠ 0 ∧ st0.trappable = true ∧ st0.funds 32 = true ∧
    ¬((Tab.getD st0.cur.q 0 0).toNat % 64 = 1) ∧ st0.cur.allNamed [ord.a] = true ∧ st0.cur.allNamed [ord.d] = true ∧
    (queue 0 st0).issues [ord.a] 32 = true ∧ (queue 0 st0).issues [ord.d] 32 = true ∧
    (Tab.getD (queue 0 st0).cur.q 0 0).toNat % 64 = 1 ∧
    (∀ j ∈ threads (st0.cur.exec ord.pred), (queue 0 st0).cur.opd ord.a j ≠ BitVec.allOnes 64) ∧
    (queue 0 st0).eng.queueWaits = [] ∧
    okMap ((queue 2 st0).translate (st0.cur.acc true) 0x200000 64 64) (fun m =>
      (State.pushes (st0.cur.acc true) m 0x200000 [5, 6] (queue 0 st0)).isSome &&
      (State.pops (st0.cur.acc true) m 0x200000 2 (queue 2 st0)).isSome &&
      (match ((queue 2 st0).queuePush (st0.cur.acc true) m 0x200000 5).1 with | .wait => true | _ => false) &&
      (match ((queue 0 st0).queuePop (st0.cur.acc true) m 0x200000).1 with | .wait => true | _ => false)) = true := by
  decide +kernel

/-- A launch of two stages: the group runs stage k, and stage 1 holds n records of 16 bytes of a capacity of 64. -/
def staged (k n depth : Nat) (strict : Bool) : State :=
  let r : QRec := ⟨List.replicate 16 0, 0, 0⟩
  { stL with
    launches := [(0, { placedLaunch with
      p := { placedPacket with strict := strict }
      stages := [(0, stageZero placedPacket 2),
        (1, { stageZero placedPacket 0 with cap := 64, depth := 4, queue := List.replicate n r })] })]
    cur := { stL.cur with stage := k, depths := List.replicate 32 depth } }

def emits (n : BitVec 8) : Ord := { ordG with imm := n }

/-- Exactly room for 32 records; no room; a stage that is no output; the last depth. -/
theorem test_meets_O31 : (staged 0 32 0 false).issues [.g 2, .g 3] 32 = true ∧
    (staged 0 32 0 false).cur.exec (emits 1).pred ≠ 0 ∧ (staged 0 32 0 false).trappable = true ∧
    (staged 0 32 0 false).funds 32 = true ∧ (stageZero placedPacket 2).outMask.testBit 1 = true ∧
    (stageZero placedPacket 2).outMask.testBit 2 = false ∧
    (staged 0 32 0 false).badRecord 0 16 (threads (BitVec.allOnes 32)) = none ∧ 32 + 32 ≤ 64 ∧
    (∀ j ∈ threads (BitVec.allOnes 32), (staged 0 32 0 false).holes (0 + j * 16) 16 [] = []) ∧
    (staged 1 33 3 false).cur.stage = (1 : BitVec 8).toNat % 16 ∧
    ((threads (BitVec.allOnes 32)).any fun j => (staged 1 32 3 false).cur.depths.getD j 0 == 4) = false ∧
    ((threads (BitVec.allOnes 32)).any fun j => (staged 1 32 4 false).cur.depths.getD j 0 == 4) = true ∧
    ((staged 1 32 4 true).launch? 0).any (fun l => l.p.strict) = true ∧
    ((staged 1 32 4 false).launch? 0).any (fun l => !l.p.strict) = true := by decide +kernel

/-- The records lie in a block that is not filled. -/
theorem test_meets_O31_fill :
    ({ staged 0 32 0 false with teams := mapped.teams } : State).badRecord 3840 16 (threads 0xFFFF) = none ∧
    ({ staged 0 32 0 false with teams := mapped.teams } : State).recordHole 3840 16 (threads 0xFFFF) = some (0, 3840, none) := by
  decide +kernel

theorem test_meets_O32 : st0.issues [.g 2, .g 3] 1 = true ∧ st0.cur.exec ordG.pred ≠ 0 ∧
    st0.cur.launch ≠ st0.nextSeq := by decide +kernel

/-- A quota of one block: free, taken, and none. -/
def quota (q free : Nat) (b : Bool) : State :=
  { st0 with cur := { st0.cur with blk1 := b }, teams := [{ placedTeam with xq := q, xqFree := free }] }

theorem test_meets_O33 : (∀ b, (quota 1 1 b).runsU { ord with imm := 1 } [] = true) ∧ (quota 0 0 false).cur.hand = none ∧
    ((quota 0 0 false).team? st0.cur).map (fun t => t.xq) = some 0 ∧
    ((quota 1 1 false).team? st0.cur).map (fun t => (t.xq, t.xqFree)) = some (1, 1) ∧
    ((quota 1 0 true).team? st0.cur).map (fun t => (t.xq, t.xqFree)) = some (1, 0) ∧ (quota 1 0 true).cur.blk1 = true ∧
    (quota 1 1 false).cur.blk1 = false := by decide +kernel

/-- A gang of one, with a tile and 2,048 bytes for B; and a gang of two whose other member is at its latch or is not. -/
def gang (two : Bool) (latch : List LatchMember) : State :=
  { stL with
    cur := { stL.cur with acct := 1, gang := if two then [(0, 0), (1, 0)] else [(0, 0)] }
    rest := if two then [{ stL.cur with id := ⟨0, 0, 1, 0⟩, acct := 1, gangPos := 1, gang := [(0, 0), (1, 0)] }] else []
    eng := { stL.eng with latch := latch } }

def mmaS8 : Ord := { ord with d := .v 0, a := .v 0, b := .reg (.g 4), et := .s8, imm := 1 }

theorem test_pair_s8 : ∃ c, ET.ofCode c = some .s8 ∧ c < 16 := ⟨1, by decide +kernel, by decide⟩

def mateOf (words : List Nat) : LatchMember :=
  { g := ⟨0, 0, 1, 0⟩, slot := false, words := words
    op := ⟨.s8, .s8, (gang true []).cur.mode mmaS8, (gang true []).cur.ftz, false, 0⟩
    tile := 0, a := 0, c := 0, threads := BitVec.allOnes 32, low := 0, len := 8, iw0 := 0
    omask := BitVec.allOnes 32 }

theorem test_meets_O34 : (gang false []).cur.namesTile 0 = true ∧ (gang false []).cur.sp.mask ≠ 0 ∧
    pairOf false (resolveFmt mmaS8.et.code 0) (resolveFmt (mmaS8.imm.toNat % 16) 0) = some (.s8, .s8) ∧
    pairOf false (resolveFmt mmaS8.et.code 0) (resolveFmt 9 0) = none ∧ (gang false []).trappable = true ∧
    (gang false []).cur.allNamed (breg mmaS8.b) = true ∧ (gang false []).issues (breg mmaS8.b) 1 = true ∧
    (gang false []).uniformIn mmaS8.pred (breg mmaS8.b) = true ∧
    ((List.range (aRegs .s8)).all fun n => n < 96 && (gang false []).cur.holdsV n) = true ∧
    ((gang false []).group? (gang false []).cur.leadId).map (fun l => decide (operandBytes .s8 false ≤ l.lsize)) = some true ∧
    (gang false []).gangWhole (gang false []).cur = true ∧ (gang true []).gangWhole (gang true []).cur = true ∧
    (gang true []).tileBusy st0.cur.id 0 = false ∧ (gang true []).cur.cntT < 62 ∧
    (gang true []).cur.id ∈ (gang true []).cur.gangIds ∧ (gang true []).cur.gangIds.Nodup := by decide +kernel

/-- A team with no mapped range has no block to fill. -/
theorem test_meets_O34_filled : ∀ a, (gang false []).team? (gang false []).cur = some a → ∀ y, a.unfilled y = false := by
  intro a h
  have : (gang false []).team? (gang false []).cur = some { placedTeam with size := 5120, area := 5120 } := by decide +kernel
  rw [this] at h; cases h
  intro y; simp [Team.unfilled, Team.bindAt, placedTeam]

/-- The other member is not there; is there with the same words; is there with others. -/
theorem test_meets_O34_latch : (⟨0, 0, 1, 0⟩ : Gid) ∈ (gang true []).cur.gangIds ∧ (⟨0, 0, 1, 0⟩ : Gid) ≠ st0.cur.id ∧
    (gang true []).eng.latch = [] ∧
    (∀ m ∈ (gang true [mateOf (ordKey 0x60 mmaS8)]).eng.latch, m.g ≠ st0.cur.id ∧ m.words = ordKey 0x60 mmaS8) ∧
    ordKey 0x60 mmaS8 ≠ [] ∧ (mateOf []).words = [] := by decide +kernel

/-- A slot that ends now. -/
def slotEnds : State :=
  let s := gang false []
  let m : LatchMember := { mateOf [] with g := st0.cur.id }
  { s with
    cur := { s.cur with sp := { s.cur.sp with wait := .matrixSlot }, cntT := 1 }
    eng := { s.eng with slots := [⟨m, st0.cur.id, 0⟩] } }

theorem test_meets_O34_slot : ∃ sl, slotEnds.eng.slots.find? (fun x => x.m.g == st0.cur.id) = some sl ∧
    sl.until_ ≤ slotEnds.clock.cycle ∧ slotEnds.group? st0.cur.id = some slotEnds.cur ∧
    slotEnds.cur.hold ≠ .exited ∧ slotEnds.cur.dbg.getLsbD 8 = false ∧ slotEnds.group? sl.lead = some slotEnds.cur ∧
    (slotEnds.team? slotEnds.cur).isSome = true ∧ sl.m.op.scaled = false ∧
    slotEnds.cur.inSlot sl.m.slot = some slotEnds.cur.sp ∧ slotEnds.cur.sp.wait = .matrixSlot := by
  refine ⟨⟨{ mateOf [] with g := st0.cur.id }, st0.cur.id, 0⟩, ?_⟩; decide +kernel

/-- Rows of 128 bytes from 0x200000. -/
def rowsAt : State := withCur fun g => { (g.gset 3 0x200000).gset 4 128 with acct := 4 }

theorem test_meets_O35 : rowsAt.cur.exec ordG.pred ≠ 0 ∧ rowsAt.issues [] 1 = true ∧ rowsAt.cur.namesTile 3 = true ∧
    rowsAt.tileBusy st0.cur.id 3 = false ∧ rowsAt.runsU ordG (srcAB ordG) = true ∧ rowsAt.cur.cntT < 62 ∧
    rowsAt.memWf = true ∧
    (planAll (fun s t => s.checkRow ordG false t) (rowAddr ordG) (threads (BitVec.allOnes 32)) rowsAt).2.1 = [] ∧
    (planAll (fun s t => s.checkRow ordG true t) (rowAddr ordG) (threads (BitVec.allOnes 32)) rowsAt).2.1 = [] ∧
    (planAll (fun s t => s.checkRow ordG true t) (rowAddr ordG) (threads (BitVec.allOnes 32)) rowsAt).1.all
      (fun q => q.map.space < 4) = true ∧
    rowsAt.issues [ord.d, ord.a] 32 = true ∧ (∀ j ∈ threads (BitVec.allOnes 32), rowsAt.cur.isDenied j = false) := by
  decide +kernel

theorem test_meets_O36 : st0.cur.exec pred0 ≠ 0 ∧ st0.issues [] 1 = true ∧ st0.cur.hand = none ∧ st0.cur.other = none ∧
    st0.cur.spill = [] ∧ GoodTarget (st0.relative ((-0x40000 : BitVec 21)).toInt) ∧ st0.trappable = true ∧
    st0.funds 1 = true ∧ BadTarget (st0.relative ((-0x40001 : BitVec 21)).toInt) 0x07 ∧
    crowded.cur.other.isSome = true := by
  refine ⟨?_, ?_, ?_, ?_, ?_, ⟨?_, ?_⟩, ?_, ?_, .inr ⟨?_, ?_, rfl⟩, ?_⟩ <;> decide +kernel

def accordOn (n : Nat) (a b c : Word) : State :=
  let s := accord n stL
  { s with cur := ((s.cur.gset 3 a).gset 4 b).gset 5 c }

/-- The last tile-load destination in the program space. -/
theorem test_meets_O37 : (accordOn 0 0 0 3072).runsU ordG (srcABC ordG) = true ∧ ((accordOn 0 0 0 3072).c0 ordG).toNat = 3072 ∧
    3072 % 32 = 0 ∧ 3072 + 1024 ≤ (accordOn 0 0 0 3072).cur.lsb + (accordOn 0 0 0 3072).cur.lsize ∧
    (accordOn 0 0 0 3072).cur.cntT < 62 ∧ ((accordOn 0 0 0 3072).a0 ordG).toNat < 2 ^ 17 := by decide +kernel

/-- The arrival of a tile load of a handle that is valid, and of one that is not. -/
theorem test_meets_O37_tile : ((accord 0 st0).tile ⟨0, 0, []⟩ 0 0 .f32 false).toOption.isSome = true ∧
    ((accord 0 st0).tile ⟨0, 0, []⟩ 1 0 .f32 false).toOption.isSome = false := by decide +kernel

def arriving (k : OpKind) : State := withOp (opOf k 3) (withCur fun g => { g with cntT := 1 })

theorem test_meets_O37_ends : Tab.get? 7 (arriving (.accord 0 0 0 9 false 1)).eng.ops = some (opOf (.accord 0 0 0 9 false 1) 3) ∧
    (opOf (.accord 0 0 0 9 false 1) 3).due ≤ st0.clock.cycle ∧
    (arriving (.accord 0 0 0 9 false 1)).cur.hold = .none ∧ (arriving (.accord 0 0 0 9 false 1)).cur.held = [] ∧
    (arriving (.local_ 0 [1, 2] 0 [])).requestsLeft 7 = false ∧ st0.cur.hold ≠ .exited ∧ st0.cur.live = true ∧ st0.cur.dbg.getLsbD 8 = false ∧
    (st0.team? st0.cur).isSome = true := by decide +kernel

/-- Handles with no note, with one, and with eight. -/
theorem test_meets_O37_handles : (accordOn 0 4096 0 0).runsU ordG [ordG.a] = true ∧
    4096 ≤ ((accordOn 0 4096 0 0).a0 ordG).toNat ∧ (accordOn 0 1 0 0).handle? 0 1 = none ∧
    ((accordOn 1 0 0x400000 0).handle? 0 0).map (fun h => (h.1.ncount, h.2)) = some (1, 0x500000) ∧
    ((accordOn 8 0 0x400000 0).handle? 0 0).map (fun h => h.1.ncount) = some 8 ∧
    (accordOn 1 0 0x400000 0).runsU ordG (srcAB ordG) = true ∧ (accordOn 1 0 0x400000 0).cur.allNamed [.g 2, .g 3] = true ∧
    okMap ((accordOn 1 0 0x400000 0).unitMap 0 0x400000 64 false, st0) (fun m => m.ac && m.space < 4 &&
      !(accordOn 1 0 0x400000 0).poisoned m 0x400000 64 &&
      (noteOf (leNat ((accordOn 1 0 0x400000 0).mapBytes m 0x400000 64))).isSome) = true ∧
    okMap ((accordOn 1 0 0x400000 0).unitMap 0 0x800000 8 true, st0) (plainAt 8 0x800000) = true ∧
    ((accordOn 1 0 0x400000 0).releaseBound 0x800000 3).1 = none ∧ (accordOn 1 0 0x400000 0).eng.ops = [] ∧
    (accordOn 1 0 0x400000 0).eng.waiters = [] := by decide +kernel

/-! ### Witnesses: engines (O38) -/

/-- A copy of one byte within local store, from 0 to 1, with its record at 0x200000 and its completion record at 0xA00000. -/
def copyShape : Nat := 2 ^ 7 + 2 ^ 8 + 2 ^ 20 + 2 ^ 40 + 0xA00000 * 2 ^ 64 + 1 * 2 ^ 192

/-- X and Y in `g6` and `g7`. -/
def cmdOrd : Ord := { ordG with b := .reg (.g 6) }

def issuing (a c : Word) (n : Nat) : State :=
  let s := poke 0x200000 64 copyShape stL
  { s with cur := { (s.cur.gset 3 a).gset 5 c with cntC := n } }

theorem test_meets_O38_issue : (issuing 0x200000 0x900000 61).runsU cmdOrd (srcABC cmdOrd) = true ∧
    ((issuing 0x200000 0x900000 61).a0 cmdOrd).toNat % 64 = 0 ∧ ((issuing 0x200000 0x900000 61).c0 cmdOrd).toNat % 8 = 0 ∧
    (issuing 0x200000 0x900000 61).cur.cntC < 62 ∧ ¬(issuing 0x200000 0x900000 62).cur.cntC < 62 ∧
    ((issuing 0x200001 0x900000 0).a0 cmdOrd).toNat % 64 ≠ 0 ∧ (issuing 0x200001 0x900000 0).cur.hand = none := by decide +kernel

/-- The shape record and the completion record are read, the pages are pinned, and the record is well formed. -/
def pinned : Bool :=
  let s := issuing 0x200000 0x900000 61
  let r := s.checkGlobal 0x200000 64 false true
  match r.1 with
  | .error _ => false
  | .ok m =>
    m.space < 4 &&
    let shape := leNat (r.2.coreBytes 0 0 m 0x200000 64)
    let r2 := (r.2.touch 0 0 m 0x200000 64 0).checkGlobal (BitVec.ofNat 64 (field shape 64 64)) 64 false true
    shape == copyShape &&
    match r2.1 with
    | .error _ => false
    | .ok m2 =>
      m2.space < 4 &&
      let s2 := r2.2.touch 0 0 m2 (field shape 64 64) 64 0
      let c := s2.queuedCmd cmdOrd shape
      match s2.fresh.2.needs c with
      | .error _ => false
      | .ok ns =>
        let p := s2.fresh.2.pinAll (s2.cur.acc false) ns []
        match p.1 with
        | .error _ => false
        | .ok pins => p.2.check c == some 1 && pins.length ≤ pinMax &&
            resumes (leNat (r2.2.coreBytes 0 0 m2 (field shape 64 64) 64)) c.cls 1 == false

theorem test_meets_O38_pins : pinned = true := by decide +kernel

theorem test_meets_O38_revoke : (withCmd (cmdOf 0 copyShape) stL).cmd? 7 = some (cmdOf 0 copyShape) ∧
    (cmdOf 0 copyShape).cls ≠ 4 ∧ (cmdOf 0 copyShape).phase = .queued ∧
    ({ cmdOf 0 copyShape with phase := .finished } : Cmd).phase = .finished := by decide +kernel

/-- A finished command, due. -/
def finished : Cmd := { cmdOf 0 copyShape with phase := .finished, status := 0 }

theorem test_meets_O38_completion : (withCmd finished stL).cmd? 7 = some finished ∧ finished.status < 8 ∧ finished.cls < 5 ∧
    finished.due ≤ stL.clock.cycle ∧ finished.compl % 64 = 0 ∧ stL.eng.waiters = [] ∧
    okMap ((withCmd finished stL).viaMap finished.via finished.compl 64 true, stL) (plainAt 64 finished.compl) = true ∧
    okMap (((withCmd finished stL).cmdPut finished finished.compl (finished.record stL.clock.time)).viaMap finished.via 0x900000 8 true, stL)
      (plainAt 8 0x900000) = true ∧ finished.compl + 64 ≤ 0x900000 + 2 ^ 24 ∧ finished.compl ≠ 0x900000 := by decide +kernel

/-- Nothing but its view stands between memory and a byte that a command writes. -/
theorem test_meets_O38_home (c : Cmd) (a : Nat) : (withCmd c stL).oneHome 0 a :=
  oneHome_of_empty rfl (fenced_of_noStacks rfl)

/-- The copy of a byte: before its engine has asked for it, and after. -/
def copyCmd (asked : Bool) : Cmd := { cmdOf 0 copyShape with asked := asked }

theorem test_meets_O38_copy : ∃ a, (withCmd (copyCmd true) stL).cmdTeam (copyCmd true) = some a ∧ a.ls.wf = true ∧
    (∀ b, (withCmd (copyCmd b) stL).cmd? 7 = some (copyCmd b) ∧ (withCmd (copyCmd b) stL).ready (copyCmd b) 0 = true ∧
      (withCmd (copyCmd b) stL).copyWaits (copyCmd b) = false) ∧
    (withCmd (copyCmd false) stL).copyBlock (copyCmd false) 0 = none ∧ (copyCmd true).done = 0 ∧
    (withCmd (copyCmd true) stL).expects 7 = false ∧ (copyCmd true).shape.testBit 7 = true ∧
    (copyCmd true).shape.testBit 8 = true ∧ (copyCmd true).rowBytes = 1 ∧ (copyCmd true).srcRow 0 = 0 ∧
    (copyCmd true).dstRow 0 = 1 := by
  refine ⟨((withCmd (copyCmd true) stL).cmdTeam (copyCmd true)).get (by decide +kernel), ?_⟩; decide +kernel

/-- Local store takes what a command delivers there. -/
theorem test_meets_O38_takes (bs : List Byte) (l : Nat → List (Map × Nat × Nat)) :
    (withCmd (copyCmd true) stL).Takes (copyCmd true) true [((copyCmd true).dstRow 0, bs)] l := .inl rfl

/-- One lookup record at 0x200000: the sum of row 1 of a table of 2 rows of one `f32`, to local store at 0. -/
def lookup : Nat := 2 + 9 * 2 ^ 4 + 9 * 2 ^ 8 + 1 * 2 ^ 12 + 1 * 2 ^ 24 + 2 * 2 ^ 40 + 0x300000 * 2 ^ 64 + 0x400000 * 2 ^ 128
def gatherCmd : Cmd := cmdOf 1 (1 + 1 * 2 ^ 16 + 0xA00000 * 2 ^ 64 + 0x200000 * 2 ^ 128)
def gathering (row : Nat) : State := withCmd { gatherCmd with started := true, asked := true } (poke 0x200000 32 lookup (poke 0x400000 4 row (poke 0x300020 4 0x3F800000 stL)))

/-- Before the engine has begun, and when it has read the record. -/
def asking (c : Cmd) : Cmd := { c with started := true, asked := true }

theorem test_meets_O38_gather : (gathering 1).cmd? 7 = some (asking gatherCmd) ∧
    (gathering 1).ready (asking gatherCmd) 1 = true ∧ gatherCmd.started = false ∧ gatherCmd.done = 0 ∧
    (gathering 1).badLocal gatherCmd = false ∧ gatherCmd.total = 1 ∧
    ((gathering 1).recBytes (asking gatherCmd) 0).map markedNat = some lookup ∧
    (lookupOf lookup).map (fun r => (r.dls, (gathering 1).pool (asking gatherCmd) r)) =
      some (true, .ok ((leBytes 4 0x3F800000).map fun b => (b, false))) ∧
    (lookupOf lookup).map (fun r => (gathering 2).pool (asking gatherCmd) r) = some (.stop 4) ∧
    ((gathering 1).cmdTeam gatherCmd).map (fun a => a.ls.wf) = some true := by decide +kernel

/-- A destination behind the allocation, in a command that has not begun. -/
def stray : State := withCmd gatherCmd (poke 0x200000 32 (lookup + 2 ^ 192 * 0x40000) (poke 0x400000 4 0 stL))

theorem test_meets_O38_stray : stray.cmd? 7 = some gatherCmd ∧ stray.ready gatherCmd 1 = true ∧ gatherCmd.started = false ∧
    stray.badLocal gatherCmd = true := by decide +kernel

/-- The last row, and one row past it. -/
theorem test_meets_O38_pool : ∃ r, lookupOf lookup = some r ∧ r.count = 1 ∧ r.nrows = 2 ∧
    ((gathering 1).engRead gatherCmd.via r.idx 4).map markedNat = some 1 ∧ ((gathering 2).engRead gatherCmd.via r.idx 4).map markedNat = some 2 ∧
    ((gathering 1).engRead gatherCmd.via (add64 r.tbase (1 * r.stride)) 4).map (fun l => l.all fun b => !b.2) = some true := by
  refine ⟨(lookupOf lookup).get (by decide +kernel), ?_⟩; decide +kernel

/-- A product of one `bf16` vector by a region of 32 by 32 `e4m3` at 0x700000, to local store at 0. -/
def mvecCmd : Cmd :=
  cmdOf 2 (2 + 12 * 2 ^ 17 + 11 * 2 ^ 21 + 9 * 2 ^ 25 + 2 ^ 32 + 0xA00000 * 2 ^ 64 + 0x200000 * 2 ^ 192 + 0x300000 * 2 ^ 320)
def vector0 : List (Nat × Bool) := List.replicate 32 (0, false)
def mvecAt : Cmd := { asking mvecCmd with vbuf := some [vector0] }
def multiplying : State := withCmd mvecAt (accord 0 stL)

theorem test_meets_O38_mvec : multiplying.cmd? 7 = some mvecAt ∧ multiplying.ready mvecAt 2 = true ∧ mvecAt.done = 0 ∧
    multiplying.checkMvec mvecAt = some 1 ∧ mvecAt.afmt = some .bf16 ∧ mvecAt.bfmt = some .e4m3 ∧
    mvecAt.ofmt = some .f32 ∧ mvecAt.acc = false ∧ mvecAt.dls2 = true ∧ mvecAt.vbuf = some [vector0] ∧ mvecAt.asked = true := by
  decide +kernel

theorem test_meets_O38_mvecRegion :
    (multiplying.mvec? mvecAt).map (fun m => [m.a, m.b, m.o]) = some [.bf16, .e4m3, .f32] ∧
    (multiplying.mvec? mvecAt).map (fun m => [m.g.rows, m.g.rowsE, m.g.cols, logicalCols .e4m3 m.g]) = some [1, 32, 1, 32] ∧
    ((multiplying.mvec? mvecAt).bind fun m => multiplying.vectorsOf mvecAt m) = some [vector0] ∧
    (multiplying.cmdTeam mvecAt).map (fun a => a.ls.wf) = some true := by decide +kernel

theorem test_meets_O38_mvecRows : ((multiplying.mvec? mvecAt).bind fun m => multiplying.squareRows mvecAt m 0).map
    (fun r => (r.1.length, r.1.all fun l => l.all fun x => !x.2)) = some (32, true) := by decide +kernel

/-- Each result has its own four bytes. -/
theorem test_meets_O38_mvecApart : ∀ r r' i i' : Nat, r < 32 → r' < 32 → i < 4 → i' < 4 →
    mvecCmd.yAddr 32 4 0 r + i = mvecCmd.yAddr 32 4 0 r' + i' → r = r' ∧ i = i' := by
  intro r r' i i' _ _ _ _ h
  have e : ∀ n : Fin 32, mvecCmd.yAddr 32 4 0 n = 4 * n := by decide +kernel
  have h1 := e ⟨r, by assumption⟩
  have h2 := e ⟨r', by assumption⟩
  simp only at h1 h2
  omega

/-- A fold of the foundation at 0x700000 into a region of the same shape at 0x710000, as `e4m3`. -/
def foldCmd (l : Option AccList) : Cmd :=
  { cmdOf 3 (3 + 0 * 2 ^ 4 + 1 * 2 ^ 16 + 12 * 2 ^ 28 + 0xA00000 * 2 ^ 64) with list := l }
def folding : State :=
  let s := poke 0x600010 16 (0x710000 / 1024 + 2 ^ 38 + 2 ^ 62 + 2 ^ 86 + 12 * 2 ^ 112 + 2 ^ 118) (accord 0 stL)
  withCmd (asking (foldCmd ((s.handle? 0 0).map fun h => h.1.list))) s
def foldOf : Cmd := (folding.cmd? 7).getD (foldCmd none)

theorem test_meets_O38_fold : folding.cmd? 7 = some foldOf ∧ folding.ready foldOf 3 = true ∧ foldOf.done = 0 ∧
    (folding.checkFold foldOf).isSome = true ∧ foldOf.dfmt = some .e4m3 ∧ foldOf.list.isSome = true ∧
    (folding.handle? 0 foldOf.handle).map (fun h => (h.1.fip, h.2)) = some (false, 0x500000) ∧ foldOf.superseded = false ∧ foldOf.started = true ∧ foldOf.asked = true ∧
    (folding.region? 0 (foldOf.f 16 12) .e4m3).map (fun g => (g.rowsE, g.colsE, g.rows * g.cols)) = some (32, 32, 1) ∧
    foldOf.total = 1 := by decide +kernel

theorem test_meets_O38_foldCells : (match foldOf.list, folding.region? 0 0 .e4m3 with
    | some l, some f =>
      let s1 := folding.setFip 0 foldOf.handle true
      (List.range 32).all fun i => (List.range 32).all fun j =>
        match s1.elemT foldOf.via l f i j Trail.none with | .ok v => !v.2.poison | .error _ => false
    | _, _ => false) = true := by decide +kernel

/-- Each element of the destination has its own byte, above the record. -/
theorem test_meets_O38_foldApart : (match folding.region? 0 (foldOf.f 16 12) .e4m3 with
    | some g => (List.range 32).all fun i => (List.range 32).all fun j => g.physAt i j 0 == 0x710000 + 32 * i + j
    | none => false) = true := by decide +kernel

/-- The swap, due. -/
def swapCmd : Cmd := { foldOf with phase := .swapping }
def swapping : State := withCmd swapCmd folding

theorem test_meets_O38_swap : swapping.cmd? 7 = some swapCmd ∧ swapCmd.cls = 3 ∧ swapCmd.phase = .swapping ∧
    swapCmd.due ≤ swapping.clock.cycle ∧ swapCmd.superseded = false ∧ swapCmd.poisoned = false ∧
    swapCmd.dfmt = some .e4m3 ∧ swapping.handleAt 0 swapCmd.handle = some 0x500000 ∧ swapping.eng.waiters = [] ∧
    (match swapCmd.list with
     | some l =>
       let s1 := swapping.putHome 0x500000 (leBytes 128 (swapRecord (swapping.homeNat 0x500000 128) (swapCmd.f 16 12) .e4m3
         l.notes.length))
       okMap ((s1.foldedAway swapCmd l.notes.length).viaMap swapCmd.via l.sync.toNat 8 true, s1) (plainAt 8 0x800000)
     | none => false) = true ∧ (Handle.of (swapping.homeNat 0x500000 128)).ncount ≤ 8 := by decide +kernel

/-- A collective of this module with module 5, before and after the other's part has arrived; 16 `f32` sums. -/
def collShape : Nat :=
  4 + 9 * 2 ^ 8 + 2 * 2 ^ 12 + 0xA00000 * 2 ^ 64 + 0x200000 * 2 ^ 192 + 0x300000 * 2 ^ 256 + 0x400000 * 2 ^ 320 + 16 * 2 ^ 384 +
    9 * 2 ^ 448
def collCmd (sent : Bool) : Cmd := { asking (cmdOf 4 collShape) with sent := sent }
def collPeer : CollPart :=
  { tag := 9, src := 5, turn := 0, bytes := (collCmd true).announce [0, 5] ++ List.replicate 66 0, whole := true
    flit := stL.flit opCollective 0 0 0 0 0 [] }
def collecting (sent : Bool) : State :=
  let s := withCmd (collCmd sent) (poke 0x200004 4 5 stL)
  { s with eng := { s.eng with coll := if sent then [collPeer] else [] }, fabric := { s.fabric with devid := 0 } }

theorem test_meets_O38_collective : (collecting false).cmd? 7 = some (collCmd false) ∧
    (collecting false).ready (collCmd false) 4 = true ∧ (collecting false).collBehind (collCmd false) = false ∧
    (collecting false).ranks (collCmd false) = some [0, 5] ∧
    ((collecting false).engRead (collCmd false).via (collCmd false).sbuf 64).map (fun l => l.all fun b => !b.2) = some true ∧
    (collCmd false).count * (collCmd false).collBytes = 64 ∧
    (collecting false).collParts (collCmd false) [0, 5] = none ∧ (collCmd false).sent = false ∧
    (collecting true).collParts (collCmd true) [0, 5] = some [collPeer] ∧ (collCmd true).sent = true ∧
    collPeer.bytes.length = ((collCmd true).announce [0, 5]).length + 64 + (markBits 4 (List.replicate 64 (0, false))).length ∧
    (collecting true).collEnd? (collCmd true) [0, 5] = none ∧
    collPeer.bytes.take ((collCmd true).announce [0, 5]).length = (collCmd true).announce [0, 5] ∧
    ((collCmd true).collResult 0 [List.replicate 64 (0, false), List.replicate 64 (0, false)]).length = 64 ∧
    (collCmd true).dbuf % 64 + 64 ≤ 64 ∧
    okMap ((collecting true).viaMap (collCmd true).via (collCmd true).dbuf 64 true, stL) (plainAt 64 (collCmd true).dbuf) = true := by
  decide +kernel

/-! ### Witnesses: rays, filtering and rasters (O39, O40) -/

/-- Scene 255 of a table at 0xB00000: its sync word at 0xC00000, generation 0 with a treelet table at 0xD00000; stage 0 sends
to the hit stage 1. -/
def scene (b : Word) (st : Nat) : State :=
  let s := poke (0xB00000 + 128 * 255) 128 (0xC00000 + 2 ^ 64 + 0xD00000 * 2 ^ 256 + 0xE00000 * 2 ^ 320 + 1 * 2 ^ (256 + 148)) st0
  let hits : Stage := { stageZero placedPacket 0 with cap := 64, recSize := 32, hit := true }
  { s with
    parts := [(0, { placedPart with scnbase := 0xB00000, rays := 32 })]
    launches := [(0, { placedLaunch with stages := [(0, stageZero placedPacket (2 ^ st)), (1, hits)] })]
    cur := s.cur.gset 4 b }

def rayOrd (st : BitVec 8) : Ord := { ord with d := .v 0, a := .v 3, b := .reg (.g 4), imm := st }

/-- The record and the sync word are read, and the partition's allowance is exactly 32 rays. -/
def sent : Bool :=
  let s := scene 255 1
  let va := (s.part 0).scnbase.toNat + 128 * 255
  let r := s.checkGlobal (BitVec.ofNat 64 va) 128 false true
  okMap r fun m => m.space < 4 &&
    (let n := leNat (r.2.coreBytes 0 0 m va 128)
     let u := r.2.touch 0 0 m va 128 0
     let q := u.checkGlobal (BitVec.ofNat 64 (field n 0 64)) 8 false true
     okMap q fun w => w.plain && w.isLocal && leNat (q.2.mapBytes w (field n 0 64) 8) % 2 ^ 20 == 0 && n.testBit 64 &&
       field (field n 256 192) 128 20 == 0 && q.2.raysFit s.cur 32 &&
       !(q.2.newRay .closest 3 31 255 0 1 0 (field n 256 192)).idle &&
       (let u3 := q.2.acquireBound (w.wordKey (field n 0 64)) 3
        (u3.treelet (u3.newRay .closest 3 31 255 0 1 0 (field n 256 192)) 0 0).toOption.isSome &&
        (match u3.tablePhys 0 (va + 52) with
          | none => false
          | some p => (List.range 4).all fun i => clearHome u3 0 (p + i))))

theorem test_meets_O39 : (scene 255 1).cur.exec (rayOrd 1).pred ≠ 0 ∧
    (scene 255 1).cur.namesCodes ((List.range 4).map fun i => (rayOrd 1).a.code + i) = true ∧
    (scene 255 1).uniformIn (rayOrd 1).pred (bRegs (rayOrd 1)) = true ∧ (scene 256 1).trappable = true ∧
    (scene 256 1).cur.allNamed (bRegs (rayOrd 1)) = true ∧ (scene 256 1).funds 32 = true ∧
    ((scene 256 1).b0 (rayOrd 1)).toNat = 256 ∧ (scene 255 2).hitStage? 1 = false ∧ (scene 255 1).hitStage? 1 = true ∧
    (scene 255 1).issues (bRegs (rayOrd 1)) 32 = true ∧ (scene 255 1).cur.sp.st = 0 := by decide +kernel

theorem test_meets_O39_sent : sent = true := by decide +kernel

/-- A ray of batch 4, at a place. -/
def rayAt (p : RayPlace) : Ray :=
  { (scene 255 1).newRay .closest 3 0 255 0 1 4 (0xD00000 + 0xE00000 * 2 ^ 64 + 1 * 2 ^ 148) with place := p }
def withRay (p : RayPlace) : State :=
  let s := scene 255 1
  { s with eng := { s.eng with rays := [(9, rayAt p)] }, nextId := 10 }

/-- A ray that arrived in the logic-die cycle that ends. -/
def inFlight : State :=
  let s := withRay (.flying 0 0 0)
  { s with clock := { s.clock with cycle := (rayAt (.flying 0 0 0)).due + 1 } }

theorem test_meets_O39_flying : (Tab.get? 9 inFlight.eng.rays).isSome = true ∧ inFlight.nextArrival = some 9 ∧
    inFlight.nextArrival ≠ some 8 := by decide +kernel

theorem test_meets_O39_places :
    ((withRay (.queued 0 0 false false)).eng.rays.map fun e => e.1).Nodup ∧
    ((withRay (.queued 0 0 false false)).chosenQueue 0).take 8 ≠ [] ∧
    (withRay (.held 0 3)).requestsLeft 9 = false ∧
    (withRay (.queued 0 0 false false)).heldRays 0 3 = [] ∧ (withRay (.held 0 3)).heldRays 0 3 ≠ [] ∧
    (∀ e ∈ (withRay (.held 0 3)).heldRays 0 3, e.2.due ≤ (withRay (.held 0 3)).clock.cycle) ∧
    (∀ e ∈ (withRay (.held 0 3)).eng.rays, e.1 < (withRay (.held 0 3)).nextId) ∧
    (withRay (.held 0 3)).eng.records = [] := by decide +kernel

/-- A test of the held ray ends with a status: its node format is not valid. -/
theorem test_meets_O39_test : ((withRay (.held 0 3)).testRay (rayAt (.held 0 3)) 0).toOption.isSome = false := by decide +kernel

/-- A final record of slot s of a batch of the threads of a mask. -/
def recOf (slot : Nat) (final : Bool) : HitRec :=
  { bid := 4, launch := 0, part := 0, scene := 255, gslot := 0, slot := slot, final := final, stage := 1
    bytes := List.replicate 32 0, due := 0, arrived := false, blocked := false }
def withRec (slot : Nat) (m : Mask) : State :=
  let s := scene 255 1
  { s with eng := { s.eng with records := [(9, recOf slot true)], batches := [⟨4, st0.cur.id, 0, m⟩] } }

theorem test_meets_O39_records : Tab.get? 9 (withRec 31 0x80000000).eng.records = some (recOf 31 true) ∧
    (recOf 31 true).due ≤ (withRec 31 0x80000000).clock.cycle ∧
    (withRec 31 0x80000000).eng.batches.filter (fun c => c.bid == 4) = [⟨4, st0.cur.id, 0, 0x80000000⟩] ∧
    ((withRec 31 0x80000000).eng.records.filter fun e => e.2.bid == 4) = [(9, recOf 31 true)] ∧
    lowest (0x80000000 : Mask) = 31 ∧ lowest (0xC0000000 : Mask) ≠ 31 ∧ inMask (0x80000000 : Mask) 31 = true ∧
    (((withRec 31 0x80000000).launch? 0).map fun l => (l.ended, (Tab.get? 1 l.stages).map fun t => (t.queue.length, t.cap))) =
      some (false, some (0, 64)) := by decide +kernel

/-- A texture of one level of 1 by 1 at 0x300000, nearest, and a grid of one level, at 0x200000. -/
def texDesc : Nat := 0x300000 * 2 ^ 192
def gridDesc : Nat := 0x300000 * 2 ^ 192 + 4 * 2 ^ 6 + 1 * 2 ^ 256
def filtering (desc : Nat) : State :=
  let s := poke 0x200000 64 desc st0
  { s with cur := s.cur.gset 4 0x200000 }
def filtOrd : Ord := { ord with a := .v 3, b := .reg (.g 4) }

theorem test_meets_O40_tex : (filtering texDesc).cur.exec filtOrd.pred ≠ 0 ∧ (filtering texDesc).cur.cntL < 62 ∧
    (filtering texDesc).issues (bRegs filtOrd) 32 = true ∧
    (filtering texDesc).cur.namesCodes ((List.range 3).map fun i => filtOrd.a.code + i) = true ∧
    (filtering texDesc).cur.namesFrom filtOrd.d.code 2 = true ∧
    (planAll (fun s t => s.checkTex filtOrd t) (fun s t => s.cur.bopd .zero filtOrd.et filtOrd.b t)
      ((filtering texDesc).accessors filtOrd false) (filtering texDesc)).2.1 = [] := by decide +kernel

theorem test_meets_O40_grid : (filtering gridDesc).issues (bRegs filtOrd) 32 = true ∧
    (filtering gridDesc).uniformIn filtOrd.pred (bRegs filtOrd) = true ∧
    okMap ((filtering gridDesc).checkGlobal 0x200000 64 false true) (fun m => m.space < 4 &&
      leNat ((filtering gridDesc).coreBytes 0 0 m 0x200000 64) == gridDesc) = true ∧
    (filtering gridDesc).cur.namesFrom filtOrd.d.code (Grid.of gridDesc).regs = true ∧ (Grid.of gridDesc).bad = false ∧
    (∀ j : Fin 32, (filtering gridDesc).cur.isDenied j = false) := by decide +kernel

/-- A request at the engine, with coordinates that are finite, and one with a NaN; and a table that no page maps. -/
def filterOp (h : Bool) (desc : Nat) : Op := opOf (.filter h [(31, [0, 0, 0], desc)] 2) 0
def askingOp (h : Bool) (desc : Nat) : State := withOp (filterOp h desc) (filtering desc)

theorem test_meets_O40_request : Tab.get? 7 (askingOp false texDesc).eng.ops = some (filterOp false texDesc) ∧
    (filterOp false texDesc).due ≤ (askingOp false texDesc).clock.cycle ∧
    ((askingOp false texDesc).launch? (filterOp false texDesc).launch).isSome = true ∧
    ((askingOp false texDesc).group? (filterOp false texDesc).g).isSome = true ∧ (filterOp false texDesc).faults = [] ∧
    (filterOp false texDesc).writes = [] ∧
    ((askingOp false texDesc).group? (filterOp false texDesc).g).map (fun g => g.dbg.getLsbD 8) = some false ∧
    ((askingOp false texDesc).texResult (filterOp false texDesc) 0 [0, 0, 0] texDesc 0).toOption.isSome = true ∧
    ((askingOp true gridDesc).gridResult (filterOp true gridDesc) 0 [0, 0] gridDesc 0).toOption.isSome = true ∧
    ((askingOp false (2 ^ 40 * 2 ^ 192)).texResult (filterOp false 0) 0 [0, 0, 0] (2 ^ 40 * 2 ^ 192) 0).toOption.isSome = false ∧
    (toFl .f32 (((0x7FC00000 : Word).toNat) % 2 ^ 32)).finite = false := by decide +kernel

theorem test_meets_O40_rast : (operands 0x200000 0 0).runsU ordG [ordG.a] = true ∧ (operands 0x200000 0 0).cur.cntC < 62 ∧
    ((operands 0x200000 0 0).a0 ordG).toNat % 64 = 0 ∧
    okMap ((operands 0x200000 0 0).checkGlobal 0x200000 64 false true) (fun m => m.space < 4) = true := by decide +kernel

/-- Geometry k: a region of `rows` by `cols` squares of elements of 2^l bytes at p. -/
def plane (k l rows cols p : Nat) (s : State) : State :=
  poke (0x600000 + 16 * k) 16
    (p / 1024 + rows * 2 ^ 38 + cols * 2 ^ 62 + cols * 2 ^ 86 + l * 2 ^ 110 + 20 * 2 ^ 112 + 2 ^ 118) s

def drawOf (rec_ : Nat) : Draw :=
  { die := 0, g := st0.cur.id, launch := 0, part := 0, rec_ := rec_, phase := .queued, status := 0, pixels := 0, redo := 0
    rejected := 0, due := 0 }

/-- Planes of 8 by 8 pixels, cleared, with one triangle at 0x200000. -/
def clearDraw : Draw := drawOf (2 ^ 4 + 1 * 2 ^ 336 + 0 * 2 ^ 348 + 1 * 2 ^ 360 + 0x200000 * 2 ^ 384 + 0xA00000 * 2 ^ 448)
def triangle : List Nat := [0, 0, 0x3F000000, 0x41000000, 0, 0x3F000000, 0, 0x41000000, 0x3F000000, 1, 0, 0]
def drawing (d : Draw) : State :=
  let s := plane 0 2 1 1 0x700000 (plane 1 2 1 1 0x710000 st0)
  let s := { s with mem := s.mem.putBytes 0x200000 (triangle.map fun w => leBytes 4 w).flatten }
  { s with parts := [(0, { placedPart with geobase := 0x600000 })], eng := { s.eng with draws := [d] } }

theorem test_meets_O40_draw : (drawing clearDraw).nextDraw 0 = some clearDraw ∧ clearDraw.due ≤ (drawing clearDraw).clock.cycle ∧
    ((drawing clearDraw).planes clearDraw).map (fun q => (q.id.esz, q.dep.esz, q.id.rowsE, q.id.colsE, q.dep.rowsE, q.dep.colsE)) =
      some (4, 4, 8, 8, 8, 8) ∧
    clearDraw.reprojects = false ∧ clearDraw.clears = true ∧ clearDraw.useMask = false ∧ clearDraw.ntri = 1 ∧
    clearDraw.cull ≠ 2 ∧ (drawing { clearDraw with rec_ := 8 }).planes { clearDraw with rec_ := 8 } = none := by decide +kernel

/-- The triangle, which lies outside the planes that the draw clears. -/
theorem test_meets_O40_triangle : (match (drawing clearDraw).planes clearDraw with
    | none => false
    | some q =>
      match ((drawing clearDraw).clearPlanes q).engRead clearDraw.via (add64 clearDraw.tris 0) 48 with
      | none => false
      | some bs =>
        bs.all (fun y => !y.2) &&
        match (triOf bs).vertex 0, (triOf bs).vertex 1, (triOf bs).vertex 2 with
        | some a, some b, some c => (triOf bs).id == 1 && 0 < area2 a b c && [a, b, c].all fun v => (toFl .f32 v.z).finite
        | _, _, _ => false) = true := by decide +kernel

/-- Nothing stands between the planes and memory, and the place of a draw's record. -/
theorem test_meets_O40_home (d : Draw) (p : Nat) : (drawing d).oneHome 0 p :=
  oneHome_of_empty rfl (fenced_of_noStacks rfl)

/-- Each element of the two planes has its own four bytes. -/
theorem test_meets_O40_apart : (match (drawing clearDraw).planes clearDraw with
    | none => false
    | some q => (List.range 8).all fun i => (List.range 8).all fun j =>
        q.id.physAt i j 0 == 0x700000 + 32 * i + 4 * j && q.dep.physAt i j 0 == 0x710000 + 32 * i + 4 * j) = true := by
  decide +kernel

/-- Reprojection of 32 by 32 pixels. -/
def moveDraw : Draw := drawOf (1 + 5 * 2 ^ 288 + 4 * 2 ^ 300 + 3 * 2 ^ 312 + 2 * 2 ^ 324 + 1 * 2 ^ 336 + 0xA00000 * 2 ^ 448)
def moving : State :=
  let s := plane 0 2 4 4 0x700000 (plane 1 2 4 4 0x710000 (plane 2 0 1 1 0x720000 (plane 3 2 4 4 0x730000
    (plane 4 2 4 4 0x740000 (plane 5 1 2 8 0x750000 st0)))))
  { s with parts := [(0, { placedPart with geobase := 0x600000 })], eng := { s.eng with draws := [moveDraw] } }

theorem test_meets_O40_moveHome (p : Nat) : moving.oneHome 0 p := oneHome_of_empty rfl (fenced_of_noStacks rfl)

theorem test_meets_O40_reproject : moving.nextDraw 0 = some moveDraw ∧ moveDraw.due ≤ moving.clock.cycle ∧
    moveDraw.reprojects = true ∧
    (moving.planes moveDraw).map (fun q => [q.id.esz, q.dep.esz, q.mask.esz, q.id.rowsE, q.dep.rowsE, q.mask.rowsE, q.id.colsE,
      q.dep.colsE, q.mask.colsE]) = some [4, 4, 1, 32, 32, 32, 32, 32, 32] := by decide +kernel

theorem test_meets_O40_moveApart : (match moving.planes moveDraw with
    | none => false
    | some q => (List.range 32).all fun i => (List.range 32).all fun j =>
        let o := (i / 8 * 4 + j / 8) * 256 + i % 8 * 32 + j % 8 * 4
        q.id.physAt i j 0 == 0x700000 + o && q.dep.physAt i j 0 == 0x710000 + o &&
          q.mask.physAt i j 0 == 0x720000 + 32 * i + j) = true := by decide +kernel

def doneDraw : Draw := { clearDraw with phase := .finished }

theorem test_meets_O40_completion : (drawing doneDraw).doneDraw 0 = some doneDraw ∧
    doneDraw.due ≤ (drawing doneDraw).clock.cycle ∧ doneDraw.compl % 32 = 0 ∧ doneDraw.status < 2 ^ 32 ∧
    (drawing doneDraw).eng.waiters = [] ∧ (drawing doneDraw).requestsLeft (drawKey 0) = false ∧
    okMap ((drawing doneDraw).unitMap 0 doneDraw.compl 32 true, st0) (plainAt 32 doneDraw.compl) = true ∧
    ((drawing doneDraw).group? doneDraw.g).isSome = true := by decide +kernel

/-! ### Witnesses: the system instructions (O41-O43) -/

/-- Selector n: its low byte in IMM, the rest in C. -/
def sel (x : Ord) (hi : Fin 96) (lo : BitVec 8) : Ord := { x with imm := lo, c := .v hi }

theorem test_meets_O41 : st0.runs (sel ord 0 0x10) [] = true ∧ st0.mayRead (selOf (sel ord 0 0x10)) = true ∧
    selOf (sel ord 0 0x10) = 0x010 ∧ selOf (sel ord 1 0x20) = 0x120 ∧ st0.trappable = true ∧ st0.cur.allNamed [ord.d] = true ∧
    st0.mayRead 0x034 = false ∧ selDebug 0x034 = false ∧ st0.mayWrite 0x034 = false ∧ selAlarm 0x034 = false ∧
    (operands 5 0 0).runsU (sel ordG 0 0x10) [ordG.a] = true ∧ (operands 5 0 0).mayWrite 0x010 = true ∧
    (operands 5 0 0).writeCause 0x010 ((operands 5 0 0).a0 (sel ordG 0 0x10)) = none ∧
    st0.cur.live = true ∧ st0.cur.spLive = true ∧ st0.funds 1 = true := by decide +kernel

/-- A partition that is granted debug. -/
def debugged : State := { operands 0x600 0 0 with parts := [(0, { placedPart with debug := true })] }

/-- In handler mode `wrsr` writes %lsz, not beyond what the group has; a window outside the stack is refused. -/
theorem test_meets_O41_causes : inHandler.mayWrite 0x031 = true ∧ inHandler.writeCause 0x031 0 = none ∧
    inHandler.writeCause 0x031 0x10000000000 = some 0x05 ∧ inHandler.mayWrite 0x120 = true ∧
    inHandler.writeCause 0x120 0x65 = some 0x07 ∧ inHandler.writeCause 0x120 0x40 = none ∧ inHandler.mayWrite 0x116 = true ∧
    debugged.mayWrite 0x041 = true ∧ debugged.writeCause 0x041 0x600 = some 0x07 ∧ debugged.trappable = true ∧
    debugged.uniformIn ⟨0, false⟩ [.g 3] = true ∧ debugged.cur.allNamed [.g 3] = true ∧ debugged.cur.exec ⟨0, false⟩ ≠ 0 ∧
    debugged.funds 1 = true ∧ debugged.mayRead 0x042 = true ∧ debugged.cur.holdsDbg = true := by decide +kernel

/-- A handler with A and B in `g29` and `g30`. -/
def sysOrd : Ord := { ord with d := .g 28, a := .g 29, b := .reg (.g 30) }
def handlerWith (a b : Word) : State := { inHandler with cur := (inHandler.cur.gset 29 a).gset 30 b }

/-- A page pool at 0x200000 with a stack of frames at 0x201000; the page 2^30 lies in an empty table at 0x40000. -/
def pooled (top max frame e0 : Nat) : State :=
  let s := poke 0x200000 64 (top + max * 2 ^ 32 + 0x201000 * 2 ^ 64) (handlerWith (2 ^ 30) 1)
  let s := poke 0x201000 8 frame s
  let s := poke 0x40000 8 e0 (poke 0x30000 8 0x40001 (poke (tableAt + 8) 8 0x30001 s))
  { s with parts := [(0, { placedPart with poolbase := 0x200000 })] }

def noFrame : State := pooled 0 4 0x1000000 0x200
def oneFrame : State := pooled 1 4 0x1000000 0x200

theorem test_meets_O42 : oneFrame.cur.hand.isSome = true ∧ oneFrame.runsU sysOrd (srcAB sysOrd) = true ∧
    oneFrame.cur.allNamed (sysOrd.d :: srcAB sysOrd) = true ∧ (oneFrame.a0 sysOrd).toNat = 2 ^ 30 ∧
    oneFrame.poolDesc 0 = some (1 + 4 * 2 ^ 32 + 0x201000 * 2 ^ 64) ∧ oneFrame.frameAt 0 0x201000 = some 0x1000000 ∧
    oneFrame.level0At 0 (2 ^ 30) 3 rootAt = some 0x40000 ∧ oneFrame.homeNat 0x40000 8 = 0x200 ∧ oneFrame.memWf = true ∧
    (∀ i, i < 64 → oneFrame.fenced (0x1000000 + 1024 * i) = false) ∧ st0.cur.allNamed (sysOrd.d :: srcAB sysOrd) = true ∧
    st0.trappable = true := by decide +kernel

theorem test_meets_O42_home (p : Nat) : oneFrame.oneHome 0 p := oneHome_of_empty rfl (fenced_of_noStacks rfl)

theorem test_meets_O42_pool : okMap (oneFrame.unitMap 0 0x200000 4 true, st0) (plainAt 4 0x200000) = true ∧
    (∀ i, i < 128 → ¬(0x1000000 ≤ 0x40000 + i)) ∧ (0x40000 + 128 ≤ 2 ^ 48) := by decide +kernel

theorem test_meets_O42_statuses : (pooled 5 4 0x1000000 0x200).poolDesc 0 = some (5 + 4 * 2 ^ 32 + 0x201000 * 2 ^ 64) ∧
    (pooled 1 4 1 0x200).frameAt 0 0x201000 = none ∧ noFrame.poolDesc 0 = some (4 * 2 ^ 32 + 0x201000 * 2 ^ 64) ∧
    oneFrame.level0At 0 (2 ^ 31) 3 rootAt = none ∧ bitAt ((pooled 1 4 0x1000000 0x201).homeNat 0x40000 8) 0 = true ∧
    bitAt ((pooled 1 4 0x1000000 0).homeNat 0x40000 8) 9 = false ∧
    ({ oneFrame with parts := [(0, { placedPart with poolbase := 0x8000000000 })] } : State).poolDesc 0 = none := by decide +kernel

theorem test_meets_O42_invalidate : (handlerWith 0x200000 0x1000).runsU { sysOrd with moda := 3 } (srcAB sysOrd) = true ∧
    ((handlerWith 0x200000 0x1000).a0 sysOrd).toNat < 2 ^ 52 ∧ (handlerWith 0x200000 0x1000).fenceOpen st0.cur.id (fenceCode 3) = true ∧
    (withCmd (cmdOf 0 0) st0).eng.cmds.map (fun e => (e.1, e.2.cls)) = [(7, 0)] ∧
    (handlerWith 0x200000 0x1000).cur.sp.wait = .none ∧
    (∀ n, (handlerWith 0x200000 0x1000).usesDropped n 3 0x200000 0x201000 = false) := by
  refine ⟨by decide +kernel, by decide +kernel, by decide +kernel, by decide +kernel, by decide +kernel, fun n => rfl⟩

/-- A load that has used a translation of the range is outstanding. -/
theorem test_meets_O42_used :
    ({ withOp { opOf .load 0 with vas := [(0, 0x200010)] } (handlerWith 0x200000 0x1000) with nextId := 8 } :
      State).usesDropped 8 3 0x200000 0x201000 = true ∧
    (withOp (opOf .load 0) (handlerWith 0x200000 0x1000)).eng.cmds = [] := by decide +kernel

theorem test_meets_O42_walk : st0.walk 0 (0x100000 : Word).toNat = .leaf ⟨2, codeLeaf, 0, 2 ^ 30⟩ ∧
    tlbFind 0 0x100000 (st0.core 0 0).tlb = none ∧ st0.dieFind 0 0 0x100000 = none ∧
    (st0.localise ⟨2, codeLeaf, 0, 2 ^ 30⟩).base ≤ 0x100000 ∧
    0x100000 < (st0.localise ⟨2, codeLeaf, 0, 2 ^ 30⟩).base + (st0.localise ⟨2, codeLeaf, 0, 2 ^ 30⟩).size := by decide +kernel

/-- The group asleep on request 3 for the page 2^30, whose entry is empty or waits for a page. -/
def paging : PriGroup := { index := 3, g := st0.cur.id, pages := [2 ^ 30], fn := 1, sent := true }
def asleep : State :=
  let s := poke 0x40000 8 0 (poke 0x30000 8 0x40001 (poke (tableAt + 8) 8 0x30001 st0))
  { s with cur := { s.cur with hold := .pages 3 }, host := { s.host with pri := [paging] } }

theorem test_meets_O42_answer : asleep.host.pri = [paging] ∧ paging.sent = true ∧ paging.g = asleep.cur.id ∧
    asleep.cur.live = true ∧ asleep.cur.hand = none ∧ asleep.cur.held = [] ∧ asleep.cur.hold = .pages 3 ∧
    asleep.walk 0 (2 ^ 30) = .absent 0 true true 0x40000 ∧
    (∀ p ∈ st0.host.pri, ¬(p.index = 3 ∧ p.sent = true)) ∧ asleep.sec.state ≠ .locked := by decide +kernel

theorem test_meets_O42_answerHome (p : Nat) : asleep.oneHome 0 p := oneHome_of_empty rfl (fenced_of_noStacks rfl)

/-- A trace ring of 4 KiB at 0x204000, described at 0x203000, with room for n blocks, and tracing on. -/
def ringed (used : Nat) : State :=
  let s := poke 0x203000 32 (1 + 12 * 2 ^ 2 + 0x204000 * 2 ^ 64 + used * 2 ^ 128) st0
  { s with
    parts := [(0, { placedPart with trcdesc := 0x203000 })]
    cur := { s.cur with trc := { Trace.empty with on := true, block := [0x15, 0, 1], packets := 1 } }
    clock := { s.clock with cycle := 4096 } }

def markOrd : Ord := { ordG with imm := 9 }

theorem test_meets_O43 : st0.runs markOrd [] = true ∧ st0.cur.live = true ∧ st0.cur.trc.on = false ∧
    (ringed 0).runs markOrd [] = true ∧ (ringed 0).cur.trc.on = true ∧
    (ringed 0).ring 0 = (some ⟨0, 0, 0x204000, 12, 0x203000⟩, []) ∧ (ringed 0).cur.trc.lost = false ∧
    (ringed 0).cur.trc.block.length + (0x15#8 :: (varint 10 4096 ++ [9])).length ≤ 60 ∧ (ringed 0).cur.trc.block ≠ [] ∧
    ((ringed 0).core 0 0).traceQ = [] ∧ (ringed 0).cur.trc.first + 4096 ≤ (ringed 0).clock.cycle ∧ st0.cur.trc.block = [] := by
  decide +kernel

/-- A closed block in the core's queue. -/
def blockOf : TraceBlock :=
  { g := st0.cur.id, part := 0, bytes := List.replicate 64 1, packets := 5, start := 0, written := false }
def queued (used : Nat) : State := (ringed used).setCore 0 0 { (ringed used).core 0 0 with traceQ := [blockOf] }

theorem test_meets_O43_block : nextBlock ((queued 0).core 0 0).traceQ = some blockOf ∧
    (queued 4032).ring 0 = (some ⟨0, 4032, 0x204000, 12, 0x203000⟩, []) ∧ (queued 0).eng.waiters = [] ∧
    blockOf.bytes.length = 64 ∧ (⟨0, 4032, 0x204000, 12, 0x203000⟩ : Ring).room = true ∧
    (queued 4096).ring 0 = (some ⟨0, 4096, 0x204000, 12, 0x203000⟩, []) ∧
    (⟨0, 4096, 0x204000, 12, 0x203000⟩ : Ring).room = false ∧
    okMap ((queued 4032).unitMap 0 (0x204000 + 4032) 64 true, st0) (plainAt 64 (0x204000 + 4032)) = true ∧
    ((queued 4096).group? blockOf.g).isSome = true := by decide +kernel

theorem test_meets_O43_home (n p : Nat) : (queued n).oneHome 0 p := oneHome_of_empty rfl (fenced_of_noStacks rfl)

/-! ### Witnesses: the fabric (O44) -/

/-- Device 5 and all its partitions may access partition 0 of this module. -/
def peered : State := { st0 with parts := [(0, { placedPart with peers := [⟨5, 0, true⟩] })] }

/-- A flit of device 5 to this one, about an address. -/
def flitOf (op : BitVec 6) (p : BitVec 48) (payload : List Byte) : Flit :=
  { last := true, scope := 4, len := 1, paddr := p, tag := 9, part := 0, op := op, src := 5, dst := st0.fabric.devid
    payload := payload }

/-- An atomic operation on eight bytes at 0x300000, with operand 5. -/
def atomFlit (code : Byte) : Flit := flitOf 0x04 0x300000 (leBytes 8 (code.toNat + 8 * 256) ++ leBytes 8 5 ++ leBytes 8 0 ++ [0])

/-- An access to device 5 that waits under tag 9 for an operation. -/
def remoteOf (k : RemoteKind) : Remote :=
  { kind := k, g := st0.cur.id, op := 7, thread := 31, va := 0x300000, addr := 0x300000, dest := 5, issued := 0, iw0 := 0
    omask := BitVec.allOnes 32, write := false, acq := none }
def outstanding (k : RemoteKind) (cycle : Nat) : State :=
  let s := withOp { opOf .store 0 with tags := [9] } st0
  { s with fabric := { s.fabric with waiting := [(9, remoteOf k)] }, clock := { s.clock with cycle := cycle } }

theorem test_meets_O44_home (p : Nat) : peered.oneHome 0 p ∧ (poke 0x300000 8 5 peered).oneHome 0 p :=
  ⟨oneHome_of_empty rfl (fenced_of_noStacks rfl), oneHome_of_empty rfl (fenced_of_noStacks rfl)⟩

theorem test_meets_O44 : peered.eng.waiters = [] ∧ peered.noRoute = false ∧ (outstanding .store 0).noRoute = false ∧ (flitOf 0x00 0x300000 [8, 0]).dst = peered.fabric.devid ∧
    peered.window (flitOf 0x00 0x300000 [8, 0]) 8 = true ∧ peered.badHome 0x300000 8 = false ∧
    peered.window (flitOf 0x00 0x1000000000 [8, 0]) 8 = false ∧
    ({ peered with poison := [atomOf 0x300000] } : State).badHome 0x300000 8 = true ∧
    ({ peered with poison := [atomOf 0x300000] } : State).window (flitOf 0x00 0x300000 [8, 0]) 8 = true ∧
    atomReq (atomFlit 0) = ⟨0, 8, 5, 0⟩ ∧ (0 : Nat) = atomCode .add ∧ peered.window (atomFlit 0) 8 = true ∧
    acqOf 19 = .eq ∧ (atomReq (atomFlit 19)).code = 19 ∧ (atomReq (atomFlit 21)).code = 21 ∧ acqOf 21 = .take ∧
    (poke 0x300000 8 5 peered).homeNat 0x300000 8 = 5 ∧ peered.homeNat 0x300000 8 ≠ 5 ∧
    ¬5 ≤ peered.homeNat 0x300000 8 := by decide +kernel

theorem test_meets_O44_answers : (flitOf 0x01 0 (leBytes 8 0xFFFF)).tag.toNat = 9 ∧
    Tab.get? 9 (outstanding .store 0).fabric.waiting = some (remoteOf .store) ∧ (remoteOf .store).dest = 5 ∧
    Tab.get? 7 (outstanding .store 0).eng.ops = some { opOf .store 0 with tags := [9] } ∧
    (remoteOf (.value 3 2 true none)).kind = .value 3 2 true none ∧ (flitOf 0x06 0 [0x07]).payload.length ≠ 8 ∧
    (outstanding .store 269999).clock.cycle < (remoteOf .store).issued + 270000 ∧
    (remoteOf .store).issued + 270000 ≤ (outstanding .store 270000).clock.cycle := by decide +kernel

theorem test_meets_O44_rest : (∀ p ∈ st0.eng.coll, ¬(p.tag = 1 ∧ p.src = 5 ∧ p.whole = false)) ∧
    (flitOf 0x08 0 [1, 0, 0, 0, 9]).op = 0x08 ∧ (flitOf 0x07 0 []).op ∉ [0x00#6, 0x01, 0x02, 0x03, 0x04, 0x05, 0x06, 0x08, 0x0C] ∧
    st0.clock.timeSet = false ∧ ({ st0 with clock := { st0.clock with timeSet := true } } : State).clock.timeSet = true ∧
    (27000000000 ≤ ({ st0 with clock := { st0.clock with cycle := 27000000000 } } : State).clock.cycle) := by decide +kernel

/-! ### Witnesses: stacks and the controller (O45, O46) -/

/-- A cycle; and a channel of stack 0. -/
def at_ (cycle : Nat) (s : State) : State := { s with clock := { s.clock with cycle := cycle } }
def channel (ch : Nat) (c : PChan) (s : State) : State := { s with stks := [(0, { Stack.empty with pcs := [(ch, c)] })] }

/-- Two requests, of no partition's slot and of partition 0, which owns slot 1 of channel 63. -/
def idleReq : MemReq := { op := none, launch := none, part := 1, guaranteed := false, atoms := [0, 32], sectors := 2, cost := 2, write := false, siblings := 1 }
def ownReq : MemReq := { idleReq with part := 0, guaranteed := true }
def twoReqs : State :=
  let s := channel 63 { PChan.empty with queue := [idleReq, ownReq] } (at_ 27 st0)
  { s with parts := [(0, { placedPart with slots := [(0, 63, 2)] })] }

theorem test_meets_O45_requests : (twoReqs.chan 0 63).queue = [idleReq, ownReq] ∧ twoReqs.slotNow = 1 ∧
    twoReqs.slotOwner 0 63 twoReqs.slotNow = some 0 ∧ (twoReqs.chan 0 63).power = .active ∧
    twoReqs.paying 0 63 0 = false ∧ twoReqs.surplus 0 63 ownReq = false ∧
    (twoReqs.chan 0 63).busy ≤ twoReqs.clock.cycle ∧ twoReqs.ctl.remapping = none ∧ (at_ (27 * 51) st0).slotNow = 51 ∧
    (at_ (27 * 51 - 1) st0).slotNow = 50 := by decide +kernel

/-- A stack whose DRAM is hot, and a channel whose slice holds a partial sum. -/
def warmStack (s : State) : State :=
  { s with ctl := { s.ctl with sample := { s.ctl.sample with dram := List.replicate 12 86 } } }
def summing (s : State) : State := channel 3 { PChan.empty with accs := [⟨7, 0, 0, 0, false⟩] } s

theorem test_meets_O45_power : 60 ≤ (at_ 1620 st0).slotNow ∧ (at_ 1619 st0).slotNow < 60 ∧
    (st0.chan 0 63).power ≠ .selfrefresh ∧ (st0.chan 0 63).frame ≠ 2 * (at_ 1620 st0).frameNow + 2 ∧
    85 < (warmStack (at_ 1512 st0)).dramTemp 0 ∧ (at_ 1512 st0).slotNow = 56 ∧ ((st0.chan 0 3).accs ≠ [] → False) ∧
    (summing (at_ 109 st0)).powerdownDue 0 3 = true ∧ ((summing (at_ 109 st0)).chan 0 3).accs ≠ [] ∧
    ((summing (at_ 109 st0)).chan 0 3).saving = none ∧
    (channel 3 PChan.empty (at_ 109 st0)).powerdownDue 0 3 = true ∧
    (channel 3 PChan.empty (at_ 108 st0)).powerdownDue 0 3 = false ∧
    (channel 3 { PChan.empty with power := .powerdown } (at_ 270001 st0)).selfrefreshDue 0 3 = true ∧
    (channel 3 { PChan.empty with power := .powerdown } (at_ 270000 st0)).selfrefreshDue 0 3 = false ∧
    ((channel 3 { PChan.empty with power := .powerdown, queue := [ownReq] } st0).chan 0 3).queue ≠ [] := by decide +kernel

/-- A row of stack 0, with n of its bank's spares used and a remap waiting. -/
def someRow : RowId := ⟨0, 1, 2, 3⟩
def spares (n : Nat) : State :=
  { st0 with
    ctl := { st0.ctl with remapQueue := [someRow] }
    stks := [(0, { Stack.empty with
      remap := (List.range n).map fun k => ⟨{ someRow with row := 100 + k }, k, false, false, false, true⟩ })] }

theorem test_meets_O45_repairs : (unitOf 0).isSome = true ∧ (unitOf (2 ^ 44)).isSome = true ∧ (12 * 2 ^ 36 ≤ 2 ^ 44) ∧
    (unitOf (12 * 2 ^ 36 - 1)).isSome = true ∧ (12 * 2 ^ 36 - 1) % 2 ^ 36 / 32 ≠ 0 ∧
    (spares 31).ctl.remapQueue = [someRow] ∧ (spares 31).ctl.remapping = none ∧ (spares 31).ctl.lastRemap = none ∧
    (∀ k, k < 31 → ∃ e ∈ ((spares 31).stack 0).remap, e.row.pc = 1 ∧ e.row.bank = 2 ∧ e.spare = k) ∧
    (¬∃ e ∈ ((spares 31).stack 0).remap, e.row.pc = 1 ∧ e.row.bank = 2 ∧ e.spare = 31) ∧
    (∀ k, k < 32 → ∃ e ∈ ((spares 32).stack 0).remap, e.row.pc = 1 ∧ e.row.bank = 2 ∧ e.spare = k) ∧
    ({ (spares 1) with ctl := { st0.ctl with remapping := some ⟨someRow, 0⟩ } } : State).ctl.remapping = some ⟨someRow, 0⟩ := by
  decide +kernel

def bankIn (b : BankState) : State := st0.setBank 0 63 15 ⟨b, [32]⟩

theorem test_meets_O45_banks : ((bankIn .fenced).bank 0 63 15).state = .fenced ∧
    ((bankIn .scrubbing).bank 0 63 15) = ⟨.scrubbing, [32]⟩ ∧ (st0.bank 0 63 15).state ≠ .fenced := by decide +kernel

/-- A group state whose names are distinct. -/
theorem test_meets_O46_named : st0.WellNamed := by
  have h : st0.rest = [] := by decide +kernel
  have hg : st0.cur.gang = [] := by decide +kernel
  have hl : st0.groups = [st0.cur] := by decide +kernel
  refine ⟨?_, ?_, ?_⟩
  · rw [hl]; simp
  · simp [h]
  · simp [hl, hg]

def policies (p : Policy) (x : SecState) : State :=
  { st0 with sec := { st0.sec with state := x, policy := (List.range 5).map fun k => (k, p) } }

theorem test_meets_O46_alarms : (policies .report .booted).policyOf 0 = .report ∧ (policies .halt .attested).policyOf 2 = .halt ∧
    (policies .halt .attested).sec.state = .attested ∧ (policies .erase .booted).policyOf 4 = .erase ∧
    (policies .erase .booted).sec.state ≠ .locked := by decide +kernel

/-- Samples: of a temperature and an input. -/
def sampled (c mv : Nat) : Sample := { junction := [40, 40, 40, c], dram := [], power := 3400, inputMv := mv, railBad := false, clockBad := false }
/-- A die that has been hot for nine samples. -/
def hotter : State := { st0 with ctl := { st0.ctl with hot := [(3, 9)] } }

theorem test_meets_O46_samples : alarmsOf (sampled 110 41999) = [1, 3] ∧ alarmsOf (sampled 109 42000) = [] ∧
    (∀ j ∈ alarmsOf (sampled 110 41999), (policies .report .booted).policyOf j = .report) ∧
    10 ≤ Tab.getD (hotter.ctl.count (sampled 100 48000)).hot 3 0 ∧
    (∀ d, d < 4 → ¬10 ≤ Tab.getD (hotter.ctl.count (sampled 99 42000)).hot d 0) ∧
    (42000 ≤ (sampled 99 43999).inputMv ∧ (sampled 99 43999).inputMv < 44000) ∧
    alarmsOf (sampled 99 60000) = [] ∧ alarmsOf (sampled 99 60001) = [1] ∧ hotter.ctl.supplyAge = 0 ∧
    (hotter.ctl.count (sampled 95 48000)).powers = [3400] ∧ (∃ j ∈ (sampled 95 48000).junction, 95 ≤ j) ∧ ¬(∃ j ∈ (sampled 94 48000).junction, 95 ≤ j) := by decide +kernel

/-- A core whose substitution runs and has drained, with n spares used. -/
def substituting (n : Nat) : State :=
  let s := { st0 with cur := { st0.cur with live := false } }
  { s with ctl := { s.ctl with subst := [(3, [⟨47, false, true⟩])], sparesUsed := [(3, n)] } }

theorem test_meets_O46_cores : Tab.getD st0.ctl.subst 3 [] = [] ∧ (⟨3, 47⟩ : CoreId) ∉ st0.ctl.retired ∧
    Tab.getD (substituting 3).ctl.subst 3 [] = [⟨47, false, true⟩] ∧ (substituting 3).onCore 3 47 = [] ∧
    Tab.getD (substituting 3).ctl.sparesUsed 3 0 = 3 ∧ 4 ≤ Tab.getD (substituting 4).ctl.sparesUsed 3 0 ∧
    (∀ x, (Tab.getD (substituting 3).ctl.subst 3 []).head? = some x → x.running = true) := by
  refine ⟨by decide +kernel, by decide +kernel, by decide +kernel, by decide +kernel, by decide +kernel, by decide +kernel, ?_⟩
  have h : (Tab.getD (substituting 3).ctl.subst 3 []).head? = some ⟨47, false, true⟩ := by decide +kernel
  intro x hx
  rw [h] at hx
  cases hx
  rfl

def lanesDown (m : Nat) : State := { st0 with fabric := { st0.fabric with failedLanes := [(35, m)] } }

theorem test_meets_O46_links : Tab.getD (lanesDown 1).fabric.failedLanes 35 0 = 1 ∧ (1 : Nat).testBit 3 = false ∧
    popCount 4 1 = 1 ∧ popCount 4 0 ≠ 1 ∧ (8 : Nat).testBit 3 = true := by decide +kernel

/-- Partition 0 in a state of R23, with no group. -/
def drying (d : Dry) (cycle : Nat) : State :=
  let s := at_ cycle { st0 with cur := { st0.cur with live := false } }
  { s with parts := [(0, { placedPart with dry := d })] }

theorem test_meets_O46_drydown : ((drying .quiescing 540000).part 0).dry = .quiescing ∧ (drying .quiescing 0).quiet 0 = true ∧
    (∀ e ∈ (drying .quiescing 0).eng.cmds, e.2.cls ≠ 4) ∧ ({ drying .quiescing 540000 with cur := st0.cur } : State).groups.any (fun g => g.part == 0) = true ∧
    ((drying .quiescing 540000).part 0).since + 540000 ≤ (drying .quiescing 540000).clock.cycle ∧
    (drying .quiescing 539999).clock.cycle < ((drying .quiescing 539999).part 0).since + 540000 ∧
    ((drying .dry 0).part 0).dry = .dry ∧ ((drying .restoring 0).part 0).dry = .restoring ∧
    ({ drying .quiescing 0 with cur := st0.cur } : State).quiet 0 = false := by decide +kernel

/-! ### Witnesses: the mailbox (O47-O49) -/

/-- The mailbox with its first operand bytes, in a module that was attested and whose arbiters are open. -/
def boxed (bs : List Byte) : State :=
  { st0 with
    host := { st0.host with box := { st0.host.box with mopnd := bs } }
    sec := { st0.sec with state := .attested, attestedOnce := true }
    clock := { st0.clock with open_ := true } }

def mcmd : Mcmd := ⟨1, 0, none⟩

/-- Bytes that zeros follow, up to a length. -/
theorem padded (bs : List Byte) {k n : Nat} (hn : n < k) : ((bs ++ List.replicate k 0).take k).getD n 0 = bs.getD n 0 := by
  simp only [List.getD_eq_getElem?_getD, List.getElem?_take, hn, if_true]
  by_cases hb : n < bs.length
  · rw [List.getElem?_append_left hb]
  · rw [List.getElem?_append_right (by omega), List.getElem?_eq_none (l := bs) (Nat.le_of_not_lt hb),
      List.getElem?_replicate]
    split <;> rfl

/-- An operand byte is a byte of the list, or zero. -/
theorem boxed_byte (s : State) {bs : List Byte} (h : s.host.box.mopnd = bs) (n : Nat) (hn : n < 1984) :
    opByte (s.operands mcmd) n = (bs.getD n 0).toNat := by
  subst h
  exact congrArg BitVec.toNat (padded s.host.box.mopnd hn)

/-- Only the bytes of the list are named. -/
theorem boxed_named (s : State) (bs : List Byte) (h : s.host.box.mopnd = bs) (f : Nat → Prop)
    (hf : ∀ n, n < bs.length → bs.getD n 0 = 0 ∨ f n) : s.Named0 mcmd f := by
  intro n hn hnf
  rw [boxed_byte s h n hn]
  by_cases hb : n < bs.length
  · obtain h0 | h0 := hf n hb
    · rw [h0]; rfl
    · exact absurd h0 hnf
  · rw [List.getD_eq_getElem?_getD, List.getElem?_eq_none (l := bs) (Nat.le_of_not_lt hb)]; rfl

theorem test_meets_O47 : (boxed []).host.box.running = none ∧ mcmd.reserved = 0 ∧ (⟨1, 1, none⟩ : Mcmd).reserved ≠ 0 ∧
    (boxed []).sec.bootFailed = false ∧ (boxed []).sec.state ≠ .locked ∧ st0.sec.attestedOnce = false ∧
    (boxed []).sec.attestedOnce = true ∧ st0.clock.open_ = false ∧ (policies .erase .locked).sec.state = .locked ∧
    ({ st0 with sec := { st0.sec with bootFailed := true } } : State).sec.bootFailed = true ∧
    (0 : BitVec 16).toNat = 0 ∧ 18 < (19 : BitVec 16).toNat ∧ st0.host.box.running = none := by decide +kernel

/-- A command that runs, of the host or of a session. -/
def running (b : Bool) : State :=
  { st0 with
    host := { st0.host with box := { st0.host.box with running := some ⟨1, 0, [], b⟩ } }
    sec := { st0.sec with sessions := [5] } }

theorem test_meets_O47_running : (running false).host.box.running = some ⟨1, 0, [], false⟩ ∧
    (running true).host.box.running = some ⟨1, 0, [], true⟩ ∧ (running true).sec.sessions = 5 :: [] ∧
    (∀ k ∈ st0.sec.sessions, Config.gcmVerifies k [] = false) := by
  refine ⟨by decide +kernel, by decide +kernel, by decide +kernel, ?_⟩
  have h : st0.sec.sessions = [] := by decide +kernel
  simp [h]

/-- The module takes a partition command, and a command of each other class. -/
theorem test_meets_O48_accepts (bs : List Byte) : (boxed bs).Accepts mcmd .partition ∧ (boxed bs).Accepts mcmd .other ∧
    (boxed bs).Accepts mcmd .attest := by
  have h : (boxed bs).sec.state = .attested ∧ (boxed bs).sec.bootFailed = false ∧ (boxed bs).host.box.running = none ∧
      (boxed bs).sec.attestedOnce = true ∧ (boxed bs).clock.open_ = true := ⟨rfl, rfl, rfl, rfl, rfl⟩
  simp [State.Accepts, h, mcmd]

/-- PCREATE of partition 47, and PDESTROY, PQUERY of partition 0. -/
theorem test_meets_O48_create : (boxed [47]).Named0 mcmd (fun n => n = 0) ∧ opByte ((boxed [47]).operands mcmd) 0 = 47 ∧
    Tab.get? 47 (boxed [47]).parts = none ∧ (boxed [0]).Named0 mcmd (fun n => n = 0) ∧
    (Tab.get? 0 (boxed [0]).parts).isSome = true ∧ opByte ((boxed [48]).operands mcmd) 0 = 48 ∧
    ¬(boxed [0, 1]).Named0 mcmd (fun n => n = 0) := by
  refine ⟨boxed_named _ [47] rfl _ (by simp), ?_, by decide +kernel, boxed_named _ [0] rfl _ (by simp), by decide +kernel, ?_, ?_⟩
  · simpa using boxed_byte (boxed [47]) (bs := [47]) rfl 0 (by decide)
  · simpa using boxed_byte (boxed [48]) (bs := [48]) rfl 0 (by decide)
  · intro h
    have h1 := h 1 (by decide) (by decide)
    rw [boxed_byte (boxed [0, 1]) (bs := [0, 1]) rfl 1 (by decide)] at h1
    simp at h1

/-- A command of partition 0 with one item. -/
def itemBytes (kind item : Nat) : List Byte := [0, BitVec.ofNat 8 kind, 1, 0, 0, 0, 0, 0] ++ leBytes 8 item

def withPart (p : Part) (s : State) : State := { s with parts := [(0, p)] }
/-- Partition 0 with a way of its die, and with function 511. -/
def granted (bs : List Byte) : State := withPart { placedPart with ways := [(0, 0)], vfs := [511] } (boxed bs)
/-- The items of a command with one item. -/
theorem one_item (s : State) (kinds : List Nat) (kind item : Nat) (h : s.host.box.mopnd = itemBytes kind item)
    (hk : kind = opByte (s.operands mcmd) 1 ∧ kind ∈ kinds ∧ opNat (s.operands mcmd) 2 2 = 1 ∧
      opNat (s.operands mcmd) 8 8 = item ∧ itemOk kind item = true) : s.Items mcmd kinds kind [item] := by
  obtain ⟨h1, h2, h3, h4, h5⟩ := hk
  refine ⟨h1, h2, by rw [h3], by rw [h3]; omega, by rw [h3]; simp [h4], by simpa using h5,
    boxed_named s _ h _ fun n hn => ?_⟩
  rw [h3]
  have : (itemBytes kind item).length = 16 := by
    have e : ∀ n v, (leBytes n v).length = n := by
      intro n; induction n with
      | zero => intro v; rfl
      | succ n ih => intro v; simp [leBytes, ih]
    simp [itemBytes, e]
  rw [this] at hn
  by_cases h4 : n < 4
  · exact .inr (.inl h4)
  · by_cases h8 : 8 ≤ n
    · exact .inr (.inr ⟨h8, by omega⟩)
    · have : n = 4 ∨ n = 5 ∨ n = 6 ∨ n = 7 := by omega
      rcases this with rfl | rfl | rfl | rfl <;> exact .inl rfl

/-- A core to grant, a function to revoke, a function that another partition holds, a core in use, and one not held. -/
theorem test_meets_O48_items :
    (granted (itemBytes 6 510)).Items mcmd [0, 1, 2, 3, 4, 5, 6, 7] 6 [510] ∧
    (granted (itemBytes 6 511)).Items mcmd [0, 1, 2, 3, 4, 5, 6, 7] 6 [511] ∧
    (granted (itemBytes 0 0)).Items mcmd [0, 1, 2, 3, 4, 5, 6, 7] 0 [0] ∧
    (granted (itemBytes 0 0)).Items mcmd [0, 1, 2, 4] 0 [0] ∧
    (granted (itemBytes 2 0x7E0)).Items mcmd [0, 1, 2, 3, 4, 5, 6, 7] 2 [0x7E0] := by
  refine ⟨one_item _ _ _ _ rfl ?_, one_item _ _ _ _ rfl ?_, one_item _ _ _ _ rfl ?_, one_item _ _ _ _ rfl ?_,
    one_item _ _ _ _ rfl ?_⟩ <;> decide +kernel

theorem test_meets_O48_limits :
    (granted []).limitsOk 0 ([510].foldl (Part.give 6) ((granted []).part 0)) = true ∧
    (boxed []).limitsOk 0 ([510].foldl (Part.give 6) ((boxed []).part 0)) = false ∧
    ((granted []).part 0).hasAll 6 511 = true ∧ ((granted []).part 0).hasAll 6 510 = false ∧
    (granted []).inUse 0 6 511 = false ∧
    (granted []).limitsOk 0 ([511].foldl (Part.take 6) ((granted []).part 0)) = true ∧
    ((granted []).part 0).hasAll 1 0 = true ∧ (granted []).limitsOk 0 ([0].foldl (Part.take 1) ((granted []).part 0)) = false ∧
    ({ granted [] with launches := (budget 5).launches } : State).inUse 0 0 0 = true ∧
    ((granted []).part 0).hasAll 0 0 = true ∧ ((granted []).part 0).dry = .running := by decide +kernel

/-- Another partition holds the item. -/
theorem test_meets_O48_others : ∃ e ∈ ({ granted [] with
    parts := [(0, placedPart), (1, { placedPart with vfs := [510] })] } : State).parts, e.1 ≠ 0 ∧
      ∃ x ∈ [510], e.2.has 6 x = true := by decide +kernel

theorem test_meets_O48_bases : (boxed ([0, 0, 0, 0, 0, 0, 0, 0] ++ leBytes 8 0x104)).Named0 mcmd
      (fun n => n = 0 ∨ (8 ≤ n ∧ n < 72)) ∧
    opNat ((boxed ([0, 0, 0, 0, 0, 0, 0, 0] ++ leBytes 8 0x104)).operands mcmd) 8 8 = 0x104 ∧
    opNat ((boxed ([0, 0, 0, 0, 0, 0, 0, 0] ++ leBytes 8 0x102)).operands mcmd) 8 8 % 4 ≠ 0 := by
  refine ⟨boxed_named _ ([0, 0, 0, 0, 0, 0, 0, 0] ++ leBytes 8 0x104) rfl _ fun n hn => ?_, by decide +kernel, by decide +kernel⟩
  by_cases h8 : 8 ≤ n
  · exact .inr (.inr ⟨h8, by simp [leBytes] at hn; omega⟩)
  · have : n = 0 ∨ n = 1 ∨ n = 2 ∨ n = 3 ∨ n = 4 ∨ n = 5 ∨ n = 6 ∨ n = 7 := by omega
    rcases this with rfl | rfl | rfl | rfl | rfl | rfl | rfl | rfl <;> exact .inl rfl

/-- The record of context 16383 of partition 0 and function 511: no period, or FDL 1,000 and FBGT 64 in 10,000,000 ns. -/
def ctxRec (period : Nat) : Nat := 1 + 4 * 2 ^ 2 + 511 * 2 ^ 12 + 64 * 2 ^ 352 + 1000000 * 2 ^ 384 + period * 2 ^ 416
def ctxBytes (period : Nat) : List Byte := leBytes 64 16383 ++ leBytes 256 (ctxRec period)

theorem test_meets_O48_context : opNat ((granted (ctxBytes 0)).operands mcmd) 0 2 = 16383 ∧
    opNat ((granted (ctxBytes 0)).operands mcmd) 64 256 = ctxRec 0 ∧ (Ctx.written none (ctxRec 0)).valid = true ∧
    (Ctx.written none (ctxRec 0)).period = 0 ∧ (Ctx.written none (ctxRec 10000000)).period ≠ 0 ∧
    (Ctx.written none (ctxRec 10000000)).fdl ≠ 0 ∧ field (ctxRec 10000000) 2 4 = 4 ∧
    (Tab.get? (field (ctxRec 0) 6 6) (granted []).parts).isSome = true ∧
    field (ctxRec 0) 12 9 ∈ ((granted []).part (field (ctxRec 0) 6 6)).vfs ∧
    field (ctxRec 0) 512 64 % 64 = 0 ∧ field (ctxRec 0) 448 64 % 4096 = 0 ∧
    ¬4096 ≤ ((granted []).host.ctxs.filter fun (e : Nat × Ctx) => e.1 != 16383 && e.2.valid && e.2.vf == 511).length ∧
    (let x := Ctx.written none (ctxRec 10000000)
     (⟨0, 0⟩ : CoreId) ∈ ((granted []).part x.part).cores ∧ ∀ k, k < 64 → (((granted []).laneUse (0, 0, k)).plus
       (({ x with place := some ⟨0, 0⟩ } : Ctx).share (0, 0, k))).le (9, 10) = true) := by decide +kernel

theorem test_meets_O48_named : (granted (ctxBytes 0)).Named0 mcmd (fun n => n < 2 ∨ (64 ≤ n ∧ n < 320)) := by
  refine boxed_named _ (ctxBytes 0) rfl _ ?_
  have h : ∀ n, n < 64 → n < 2 ∨ (ctxBytes 0).getD n 0 = 0 := by decide +kernel
  have hl : (ctxBytes 0).length = 320 := by decide +kernel
  intro n hn
  rw [hl] at hn
  by_cases h6 : n < 64
  · obtain a | a := h n h6
    · exact .inr (.inl a)
    · exact .inl a
  · exact .inr (.inr ⟨by omega, hn⟩)

/-! The random nonces, the signatures and the checks of an image are free values: for each, some case of O49 holds. -/

theorem test_meets_O49_policy : opByte ((boxed [1, 2]).operands mcmd) 0 = 1 ∧ opByte ((boxed [1, 2]).operands mcmd) 1 = 2 ∧
    (boxed [1, 2]).Named0 mcmd (fun n => n < 2) ∧ opByte ((boxed [5, 0]).operands mcmd) 0 = 5 ∧
    opByte ((boxed [4, 3]).operands mcmd) 1 = 3 ∧ (boxed [0, 1]).Named0 mcmd (fun n => n < 2) := by
  refine ⟨?_, ?_, boxed_named _ [1, 2] rfl _ (by simp; omega), ?_, ?_, boxed_named _ [0, 1] rfl _ (by simp; omega)⟩ <;>
    decide +kernel

theorem test_meets_O49_resume : (boxed []).Named0 mcmd (fun _ => False) ∧ (boxed []).sec.state ≠ .halted ∧
    (policies .halt .halted).sec.state = .halted ∧ (policies .halt .halted).sec.active = [] ∧
    (policies .halt .halted).Accepts mcmd .other ∧ (policies .halt .locked).Accepts mcmd .reset ∧
    (policies .halt .locked).Named0 mcmd (fun _ => False) := by
  have h : st0.host.box.mopnd = [] := by decide +kernel
  have hb : st0.sec.bootFailed = false := by decide +kernel
  have hr : st0.host.box.running = none := by decide +kernel
  refine ⟨boxed_named _ [] rfl _ (by simp), by decide +kernel, rfl, by decide +kernel, ?_, ?_, boxed_named _ [] h _ (by simp)⟩ <;>
    exact ⟨hr, rfl, by simp [policies, hb], by simp [policies], by simp⟩

theorem test_meets_O49_debug : (boxed [0]).Named0 mcmd (fun n => n = 0) ∧ (boxed [0]).sec.nonce = none ∧
    (boxed [0]).Named0 mcmd (fun n => n = 0 ∨ (32 ≤ n ∧ n < 96)) ∧ (boxed [0]).Named0 mcmd (fun n => n < 32) ∧
    (boxed [0]).Named0 mcmd (fun n => n = 0 ∨ (8 ≤ n ∧ n < 24)) ∧ opNat ((boxed [1]).operands mcmd) 16 8 = 0 ∧
    ((boxed [1]).sec.fw 1).staged = false := by
  refine ⟨boxed_named _ [0] rfl _ (by simp), by decide +kernel, boxed_named _ [0] rfl _ (by simp), boxed_named _ [0] rfl _ (by simp),
    boxed_named _ [0] rfl _ (by simp), by decide +kernel, by decide +kernel⟩

/-- REPAIR of a core, of a row and of a lane. -/
def repairBytes (kind item : Nat) : List Byte := [BitVec.ofNat 8 kind, 0, 0, 0, 0, 0, 0, 0] ++ leBytes 8 item

theorem test_meets_O49_repair : opNat ((boxed (repairBytes 0 0x2F03)).operands mcmd) 8 8 = 0x2F03 ∧ itemOk 0 0x2F03 = true ∧
    coreOf 0x2F03 = ⟨3, 47⟩ ∧ itemOk 0 0x3003 = false ∧ (boxed []).ctl.subst = [] ∧ field (11 : Nat) 0 4 < 12 ∧
    (∃ n, n < 32 ∧ ¬∃ e ∈ ((boxed []).stack 11).remap, e.spare = n) ∧ Tab.getD (boxed []).fabric.failedLanes 35 0 = 0 ∧
    Tab.getD (lanesDown 1).fabric.failedLanes 35 0 ≠ 0 ∧ field (35 + 3 * 2 ^ 6) 0 6 = 35 ∧ 35 + 3 * 2 ^ 6 < 2 ^ 8 ∧
    opByte ((boxed (repairBytes 2 0)).operands mcmd) 0 = 2 := by decide +kernel

theorem test_meets_O49_repairNamed : (boxed (repairBytes 1 0x3FFFFFFB)).Named0 mcmd (fun n => n = 0 ∨ (8 ≤ n ∧ n < 16)) := by
  refine boxed_named _ (repairBytes 1 0x3FFFFFFB) rfl _ fun n hn => ?_
  by_cases h8 : 8 ≤ n
  · exact .inr (.inr ⟨h8, by simp [repairBytes, leBytes] at hn; omega⟩)
  · have : n = 0 ∨ n = 1 ∨ n = 2 ∨ n = 3 ∨ n = 4 ∨ n = 5 ∨ n = 6 ∨ n = 7 := by omega
    rcases this with rfl | rfl | rfl | rfl | rfl | rfl | rfl | rfl
    · exact .inr (.inl rfl)
    all_goals exact .inl rfl

/-! ### Witnesses: launches (O51-O53) -/

/-- The map of a plain 1 GiB leaf at physical 0. -/
def gib : Map := ⟨0, none, 0, 0, 0, 0, false, true⟩

/-- The tables of the placed state, of which nothing is written. -/
structure Tables (w : State) : Prop where
  parts : w.parts = st0.parts
  units : (w.stack 0).hbmCache = []
  root : w.homeNat rootAt 8 = tableAt + 1
  leaf : w.homeNat tableAt 8 = codeLeaf

theorem low_unit {p : Nat} (h : p < 2 ^ 30) : unitOf p = some ⟨0, false, 0⟩ := by
  have h1 : p / 2 ^ 36 = 0 := by omega
  have h2 : p % 2 ^ 36 / 2 ^ 30 = 0 := by omega
  have h3 : p < 12 * 2 ^ 36 := by omega
  simp only [unitOf, h1, h2, h3, if_true]

theorem low_reach {w : State} (h : Tables w) {p : Nat} (hp : p < 2 ^ 30) : w.reachable p = true ∧ w.owns 0 p = true := by
  have hr : reservedAddr p = false := by
    simp only [reservedAddr, Bool.and_eq_false_iff, decide_eq_false_iff_not]; omega
  refine ⟨?_, ?_⟩
  · simp only [State.reachable, low_unit hp, hr, h.units]; decide
  · have : (w.part 0).units = [(0, false, 0)] := by rw [State.part, h.parts]; decide +kernel
    simp only [State.owns, low_unit hp, this]; decide

theorem low_map {w : State} (h : Tables w) {va k : Nat} (hv : va + k ≤ 2 ^ 30) (hk : 0 < k) :
    w.unitMap 0 va k true = .ok gib := by
  have hroot : (w.part 0).ptroot.toNat = rootAt := by rw [State.part, h.parts]; decide +kernel
  have i3 : va / levelSize 3 % 8192 = 0 := by simp only [levelSize]; omega
  have b2 : va / levelSize 2 = 0 := by simp only [levelSize]; omega
  have hw : w.walk 0 va = .leaf ⟨2, codeLeaf, 0, levelSize 2⟩ := by
    have r1 := low_reach h (p := rootAt) (by decide)
    have r2 := low_reach h (p := tableAt) (by decide)
    have e1 : field (tableAt + 1) 12 36 * 2 ^ 12 = tableAt := by decide +kernel
    have l2 : w.walkAt 0 va 2 tableAt = .leaf ⟨2, codeLeaf, 0, levelSize 2⟩ := by
      rw [State.walkAt.eq_def]
      simp only [Nat.reduceAdd, show (2 = 3) = False from by simp, if_false, b2]
      simp [r2.1, r2.2, h.leaf, show bitAt codeLeaf 0 = true from by decide +kernel,
        show bitAt codeLeaf 5 = true from by decide +kernel, show leafOk 2 codeLeaf = true from by decide +kernel]
    rw [State.walk, hroot]
    have l3 : w.walkAt 0 va 3 rootAt = w.walkAt 0 va 2 (field (tableAt + 1) 12 36 * 2 ^ 12) := by
      rw [State.walkAt.eq_def]
      simp only [Nat.reduceAdd, if_true, i3, Nat.mul_zero, Nat.add_zero, r1, h.root]
      simp [show bitAt (tableAt + 1) 0 = true from by decide +kernel, show bitAt (tableAt + 1) 5 = false from by decide +kernel,
        show tableOk (tableAt + 1) = true from by decide +kernel]
    rw [l3, e1, l2]
  have hl : w.localise ⟨2, codeLeaf, 0, levelSize 2⟩ = ⟨2, codeLeaf, 0, levelSize 2⟩ := by
    have : bitAt codeLeaf 4 = false := by decide +kernel
    simp [State.localise, this]
  have hp : ∀ i, i < k → gib.phys (va + i) = va + i := by
    intro i hi
    simp only [Map.phys, gib]
    omega
  have hx : ctxSpace va = false := by simp only [ctxSpace, Bool.and_eq_false_iff, decide_eq_false_iff_not]; omega
  have h52 : ¬2 ^ 52 ≤ va := by omega
  have ha : ((List.range k).map fun i => gib.phys (va + i)).all (fun p => w.reachable p && w.owns 0 p && w.owns 0 p) = true := by
    rw [List.all_eq_true]
    intro p hp'
    obtain ⟨i, hi, rfl⟩ := List.mem_map.1 hp'
    rw [List.mem_range] at hi
    have := low_reach h (p := va + i) (by omega)
    rw [hp i hi, this.1, this.2]
    rfl
  rw [State.unitMap, State.walkHere, hw, State.unitLeaf, if_neg h52]
  simp only [hl]
  rw [State.mapOf]
  simp only [show bitAt codeLeaf 1 = true from by decide +kernel, show bitAt codeLeaf 2 = true from by decide +kernel,
    show bitAt codeLeaf 3 = true from by decide +kernel, show bitAt codeLeaf 4 = false from by decide +kernel,
    show bitAt codeLeaf 9 = true from by decide +kernel, show bitAt codeLeaf 6 = false from by decide +kernel,
    show bitAt codeLeaf 7 = false from by decide +kernel, show field codeLeaf 56 2 = 0 from by decide +kernel,
    show field codeLeaf 58 6 = 0 from by decide +kernel,
    show leafFrame ⟨2, codeLeaf, 0, levelSize 2⟩ = 0 from by decide +kernel, show inTier 0 = false from by decide]
  simp only [gib, List.all_map, List.all_eq_true, List.mem_range, Function.comp_apply, Bool.and_eq_true] at ha
  simp [gib, hx]
  rw [if_pos fun i hi => ⟨(ha i hi).1.1, (ha i hi).2⟩]
  simp

/-- What is written above the tables leaves them. -/
theorem above_tables {s u : State} {w : Nat → Prop} (ht : Tables s) (ho : ∀ p, s.oneHome 0 p) (h : s.TablesAs u w)
    (hw : ∀ q, w q → 0x200000 ≤ q) : Tables u := by
  obtain ⟨he, -, hs, -, hb⟩ := h
  have hbytes : ∀ p n, p + n ≤ 0x200000 → u.homeNat p n = s.homeNat p n := by
    intro p n hp
    refine congrArg leNat (List.map_congr_left fun i hi => ?_)
    rw [List.mem_range] at hi
    exact hb 0 (p + i) (by decide) (by omega) (fun hq => by have := hw _ hq; omega) (ho _)
  exact ⟨by rw [he]; exact ht.parts, by rw [hs 0]; exact ht.units, by rw [hbytes _ _ (by decide)]; exact ht.root,
    by rw [hbytes _ _ (by decide)]; exact ht.leaf⟩

/-- A launch of context 3 before the arbiter. -/
def deciding (p : Packet) (c : Ctx) : State :=
  { st0 with
    presented := [1], launches := [(1, newLaunch 1 0 0 (.ring 3) p)]
    clock := { st0.clock with open_ := true }, host := { st0.host with ctxs := [(3, c)] } }

/-- A context without a frame; one whose frame of 10 ms has 64,000 issue cycles on core 0. -/
def unframed : Ctx := Ctx.written none (ctxRec 0)
def frameCtx : Ctx := { unframed with period := 10000000, fdl := 5000000, fbgt := 64000, place := some ⟨0, 0⟩ }
/-- A guaranteed packet of a deadline of dl ns. -/
def hard (dl : Nat) : Packet := { placedPacket with cls := 0, dl := dl, bgt := 1000 }

theorem test_meets_O51 : st0.presented = [] ∧ (deciding placedPacket unframed).presented = 1 :: [] ∧
    (deciding placedPacket unframed).arbitrating = true ∧ (deciding placedPacket unframed).descOut 1 = false ∧
    (deciding placedPacket unframed).descNeeds (newLaunch 1 0 0 (.ring 3) placedPacket) = [] ∧
    (deciding placedPacket unframed).launch? 2 = none ∧
    (deciding placedPacket unframed).launch? 1 = some (newLaunch 1 0 0 (.ring 3) placedPacket) ∧
    Tab.get? 3 (deciding placedPacket unframed).host.ctxs = some unframed ∧ placedPacket.entry.toNat % 4 = 0 ∧
    placedPacket.entry ≠ 0 ∧ placedPacket.token.toNat % 32 = 0 ∧ placedPacket.cls = 1 ∧ placedPacket.gsz = 0 ∧
    placedPacket.acct = 0 ∧ placedPacket.xq ≤ 8 ∧ placedPacket.reserved = 0 ∧ placedPacket.lsu ≤ 2048 ∧ placedPacket.pipe = 0 ∧
    placedPacket.dieMask = 0 ∧ (⟨0, 0⟩ : CoreId) ∈ ((deciding placedPacket unframed).part 0).cores ∧
    ((deciding placedPacket unframed).part 0).dry = .running ∧ ((drying .quiescing 0).part 0).dry ≠ .running ∧
    (packetOf 0).entry = 0 := by decide +kernel

theorem test_meets_O51_hard : (hard 1000000).cls = 0 ∧ (hard 1000000).dl ≠ 0 ∧
    ((deciding (hard 1000000) unframed).findPlace (newLaunch 1 0 0 (.ring 3) (hard 1000000))).isSome = true ∧
    (deciding (hard 1) unframed).findPlace (newLaunch 1 0 0 (.ring 3) (hard 1)) = none ∧ unframed.period = 0 ∧
    frameCtx.valid = true ∧ frameCtx.period ≠ 0 ∧ frameCtx.place = some ⟨0, 0⟩ ∧
    (let l := { newLaunch 1 0 0 (.ring 3) (hard 1000000) with framed := true, place := assign [⟨0, 0⟩] (hard 1000000) }
     (frameCtx.draw l 0 0).isSome = true ∧ ({ frameCtx with fbgt := 999 } : Ctx).draw l 0 0 = none) ∧
    (hard 1000000).waits < (hard 1000000).dl ∧ (⟨0, 0⟩ : CoreId) ∈ (deciding (hard 1000000) frameCtx).coresFor 0 (hard 1000000) ∧
    (deciding (hard 1000000) frameCtx).channelOk 0 (hard 1000000) = true ∧
    (deciding (hard 1000000) frameCtx).descNeeds (newLaunch 1 0 0 (.ring 3) (hard 1000000)) = [] ∧
    (let l := { newLaunch 1 0 0 (.ring 3) (hard 1000000) with framed := true, place := assign [⟨0, 0⟩] (hard 1000000) }
     l.lanes.all ((deciding (hard 1000000) frameCtx).laneOk l)) = true := by decide +kernel

/-- A pipeline descriptor on a remote page: the arbiter asks for it. -/
theorem test_meets_O51_remote : let p := { placedPacket with pipe := 0x40000000 }
    abroad.descNeeds (newLaunch 1 0 0 (.ring 3) p) ≠ [] := by decide +kernel

/-- A launch of the group itself: its status goes to `g5`. -/
theorem test_meets_O51_group : Tab.get? 7 (withOp (opOf (.status 1 101) 4) st0).eng.ops = some (opOf (.status 1 101) 4) ∧
    (opOf (.status 1 101) 4).kind = .status 1 101 ∧ (opOf (.status 1 101) 4).faults = [] ∧
    (withOp (opOf (.status 1 101) 4) st0).group? st0.cur.id = some st0.cur ∧ st0.cur.hold ≠ .exited ∧ st0.cur.hand = none := by
  decide +kernel

/-- Launch 1 in a state, with no group. -/
def alone (l : Launch) : State :=
  { st0 with
    cur := { st0.cur with live := false }, launches := [(1, l)]
    clock := { st0.clock with open_ := true, time := 100 } }
def launched (p : Packet) (x : LState) : Launch := { newLaunch 1 0 0 (.ring 3) p with state := x, nextGix := 1 }

theorem test_meets_O52 : (alone (launched placedPacket .held)).launch? 1 = some (launched placedPacket .held) ∧
    (launched placedPacket .held).p.start.toNat ≤ (alone (launched placedPacket .held)).clock.time.toNat ∧
    ((alone (launched placedPacket .held)).part 0).dry = .running ∧ (alone (launched placedPacket .held)).arbitrating = true ∧
    ({ launched (hard 5) .active with deadline := some 99 } : Launch).reserves = true ∧
    ({ launched (hard 5) .active with deadline := some 99 } : Launch).deadlinePassed = false ∧
    (99 : Word).toNat < (alone (launched (hard 5) .active)).clock.time.toNat ∧
    ¬(100 : Word).toNat < (alone (launched (hard 5) .active)).clock.time.toNat ∧
    (∀ g ∈ (alone (launched placedPacket .active)).rest, g.live = true) ∧
    ¬(launched placedPacket .active).nextGix < (launched placedPacket .active).p.groups ∧
    (alone (launched placedPacket .active)).groups ++ (alone (launched placedPacket .active)).saved = [] ∧
    (alone (launched placedPacket .active)).eng.cmds = [] ∧ (alone (launched placedPacket .active)).eng.draws = [] ∧
    (alone (launched placedPacket .active)).eng.rays = [] ∧ (alone (launched placedPacket .active)).eng.records = [] ∧
    (alone (launched placedPacket .active)).eng.waiters = [] ∧ (launched placedPacket .active).place = [] ∧
    (∃ e ∈ (withCmd { cmdOf 0 0 with launch := 1 } (alone (launched placedPacket .active))).eng.cmds, e.2.launch = 1) := by
  decide +kernel

/-- Its token at 0x400000: no page table stands there. -/
def tokened : State := alone (launched { placedPacket with token := 0x400000 } .draining)

theorem test_meets_O52_token : (∀ i j, i < 32 → j < 32 → gib.phys (0x400000 + i) = gib.phys (0x400000 + j) → i = j) ∧
    tokened.mem.wf = true ∧ (∀ p, tokened.oneHome 0 p) ∧
    ∀ u : State, tokened.TablesAs u (fun b => ∃ i, i < 32 ∧ b = gib.phys (0x400000 + i)) →
      u.unitMap 0 (0x400000 + 8) 24 true = .ok gib ∧ u.unitMap 0 0x400000 8 true = .ok gib := by
  have ho : ∀ p, tokened.oneHome 0 p := fun p => oneHome_of_empty rfl (fenced_of_noStacks rfl)
  have phys : ∀ i, i < 32 → gib.phys (0x400000 + i) = 0x400000 + i := by decide +kernel
  refine ⟨fun i j hi hj h => by rw [phys i hi, phys j hj] at h; omega, by decide +kernel, ho, fun u hu => ?_⟩
  have t : Tables tokened := ⟨rfl, by decide +kernel, by decide +kernel, by decide +kernel⟩
  have w := above_tables t ho hu (fun q ⟨i, hi, hq⟩ => by rw [hq, phys i hi]; omega)
  exact ⟨low_map w (by decide) (by decide), low_map w (by decide) (by decide)⟩

/-- A launch that has a group, or a gang of two, to start. -/
def toStart (gsz : Nat) : Launch :=
  { launched { placedPacket with gx := 2, gsz := gsz, acct := 1 } .active with nextGix := 0 }

theorem test_meets_O53_groups : (alone (toStart 0)).launch? 1 = some (toStart 0) ∧
    (toStart 0).nextGix < (toStart 0).p.groups ∧ (alone (toStart 0)).arbitrating = true ∧
    ((alone (toStart 0)).part 0).dry = .running ∧ (alone (toStart 0)).gridTurn (toStart 0) = true ∧
    ((alone (toStart 0)).nextLanes (toStart 0)).isSome = true ∧ (toStart 0).p.cls ≠ 0 ∧
    (drying .running 0).nextLanes { toStart 0 with part := 1 } = none := by decide +kernel

theorem test_meets_O53_gang : 2 ≤ (toStart 2).p.gsz ∧ (toStart 2).p.cls ≠ 0 ∧
    ((alone (toStart 2)).nextLanes (toStart 2)).isSome = true := by decide +kernel

/-- A stage of two records of a pipeline whose other stage is stage 0, which has started its groups. -/
def stageOne (n : Nat) (pred : Word) : Stage :=
  { stageZero placedPacket 0 with
    cap := 64, recSize := 16, flush := 50, pred := pred
    queue := (List.range n).map fun k => ⟨List.replicate 16 (BitVec.ofNat 8 k), 0, 50⟩ }
def piped (st : Stage) : Launch := { toStart 0 with stages := [(0, stageZero placedPacket 2), (1, st)] }

theorem test_meets_O53_stage : (alone (piped (stageOne 2 0))).launch? 1 = some (piped (stageOne 2 0)) ∧
    Tab.get? 1 (piped (stageOne 2 0)).stages = some (stageOne 2 0) ∧
    (∀ e ∈ (piped (stageOne 2 0)).stages, Tab.get? e.1 (piped (stageOne 2 0)).stages = some e.2) ∧
    (stageOne 2 0).flush ≠ 0 ∧ (stageOne 2 0).queue ≠ [] ∧
    (50 : Word).toNat + (stageOne 2 0).flush ≤ (alone (piped (stageOne 2 0))).clock.time.toNat ∧
    (stageOne 2 0).join = 0 ∧ (stageOne 2 0).outMask = 0 ∧ (stageOne 2 0).cap ≤ 2 * (stageOne 32 0).queue.length ∧
    ¬(stageOne 2 0).cap ≤ 2 * (stageOne 31 0).queue.length ∧ (stageOne 2 0).eligible = false ∧
    (alone (piped (stageOne 2 0))).predOf 0 (stageOne 2 0) = true ∧
    (alone (piped (stageOne 2 0x8000000000))).predOf 0 (stageOne 2 0x8000000000) = false ∧
    (alone (piped (stageOne 2 0))).formedNow 0 = false ∧
    ((alone (piped (stageOne 2 0))).stageLane (piped (stageOne 2 0)) (stageOne 2 0)).isSome = true ∧
    (alone (piped (stageOne 2 0))).teams.all (fun x => x.ls.wf) = true ∧
    (∀ r ∈ (stageOne 2 0).queue, r.bytes.length = (stageOne 2 0).recSize) := by decide +kernel

/-! ### Witnesses: the host, pre-emption and the machine as a whole (O50, O54, O56, O58, O60) -/

/-- Context 3 of function 511, entry 0 of its function's doorbells, with a ring of 16 entries. -/
def belled (head tail : BitVec 32) (fault : Bool) : State :=
  let c : Ctx := { unframed with rsize := 4, head := head, tail := tail, fault := fault }
  { boxed [] with host := { st0.host with ctxs := [(3, c)] } }

theorem test_meets_O50_doorbells : (policies .halt .locked).sec.state = .locked ∧ (belled 0 0 false).sec.state ≠ .locked ∧
    (belled 0 0 false).sec.state ≠ .halted ∧ ((belled 0 0 false).ctxsOf 511).length = 1 ∧
    ((belled 0 0 false).ctxsOf 511)[0 / 8]? = some (3, { unframed with rsize := 4 }) ∧
    Tab.get? 3 (belled 0 0 false).host.ctxs = some { unframed with rsize := 4 } ∧
    ((belled 0 0 false).part 0).dry = .running ∧ ((belled 5 0 true).ctxsOf 511)[(0x4 : Nat) / 8]?.isSome = true ∧
    (0x4 : Nat) % 8 ≠ 0 ∧ (2 ^ 4 < (17 + 2 ^ 32 - (0 : BitVec 32).toNat) % 2 ^ 32) ∧
    (16 + 2 ^ 32 - (0 : BitVec 32).toNat) % 2 ^ 32 ≤ 2 ^ 4 ∧
    ((4 : Word).toNat + 2 ^ 32 - (0xFFFFFFF4 : BitVec 32).toNat) % 2 ^ 32 ≤ 2 ^ 4 := by decide +kernel

theorem test_meets_O50_ring : (belled 0xFFFFFFFF 0 false).host.pendingRing = [] ∧
    Tab.get? 4 (belled 0xFFFFFFFF 0 false).host.ctxs = none ∧
    (Tab.get? 3 (belled 0xFFFFFFFF 0 false).host.ctxs).map (fun x => (x.valid, x.fault, decide (x.head ≠ x.tail))) =
      some (true, false, true) := by decide +kernel

/-- The group stopped since cycle 0, and saved. -/
def stopped (cycle : Nat) : State := at_ cycle { st0 with cur := { st0.cur with stop := some 0 } }
/-- A gang of one. -/
def ganged : State := withCur fun g => { g with gang := [(0, 0)] }
def savedAs (f : Group → Group) : State :=
  let s := { st0 with cur := { st0.cur with live := false }, saved := [f st0.cur] }
  { s with clock := { s.clock with open_ := true } }

theorem test_meets_O54_stop : st0.group? st0.cur.id = some st0.cur ∧ st0.group? ⟨3, 47, 63, 7⟩ = none ∧
    st0.cur.hold ≠ .exited ∧ st0.cur.stop = none ∧ st0.cur.gang = [] ∧ st0.relOut st0.cur.id = false ∧
    (stopped 10799).clock.cycle < 0 + 10800 ∧ ¬(stopped 10800).clock.cycle < 0 + 10800 ∧
    (stopped 0).cur.stop.isSome = true ∧ (stopped 0).drained (stopped 0).cur = true ∧
    (withOp (opOf .load 0) (stopped 0)).drained (stopped 0).cur = false ∧ ganged.cur.id ∈ ganged.cur.gangIds ∧
    ganged.rest = [] ∧ ganged.group? ganged.cur.id = some ganged.cur := by decide +kernel

/-- A matrix block to restart. -/
def block : MatBlock := { label := 0x100000, mask := 0xFFFF, fmt := 0, token := 3, depth := 0, live := [] }

theorem test_meets_O54_resume : st0.saved? st0.cur.id = none ∧ (savedAs id).saved? st0.cur.id = some st0.cur ∧
    (savedAs id).mayResume st0.cur = true ∧ ({ savedAs id with cur := st0.cur } : State).mayResume st0.cur = true ∧
    ({ savedAs id with clock := st0.clock } : State).mayResume st0.cur = false ∧ st0.cur.gang = [] ∧ st0.cur.live = true ∧
    (∀ h ∈ (savedAs id).groups, h.id ≠ st0.cur.id) ∧ st0.cur.hold = .none ∧ st0.cur.hand = none ∧ st0.cur.held = [] ∧
    st0.cur.abandoned = [] ∧ st0.cur.block = none ∧ st0.cur.rejoin = [] ∧ (savedAs id).team? st0.cur = some placedTeam := by decide +kernel

/-- A deferred trap of thread 31, and a rejoin entry that has not expired. -/
def late : HeldTrap :=
  { faults := [⟨31, 0x0D, 0x300000⟩], kind := 0x08, omask := BitVec.allOnes 32, iw0 := 0, slot := false, counter := 0, deferred := true, issued := 0 }
def deferring (g : Group) : Group := { g with abandoned := [late], rejoin := [{ entry 1 0 with expiry := some 1 }] }

theorem test_meets_O54_deferred : (savedAs deferring).saved? st0.cur.id = some (deferring st0.cur) ∧
    (savedAs deferring).mayResume (deferring st0.cur) = true ∧ (deferring st0.cur).inSlot late.slot = some st0.cur.sp ∧
    (∀ f ∈ late.faults, f.cause = 0x0D ∧ f.thread < 32) ∧
    (∀ e ∈ (deferring st0.cur).rejoin, e.expired (savedAs deferring).clock.time = false) ∧
    (deferring st0.cur).block = none := by decide +kernel

theorem test_meets_O54_cache : (∀ e ∈ (st0.core 0 0).cache, Tab.get? e.1 (st0.core 0 0).cache = some e.2) ∧
    (0x100000 : Nat) < 2 ^ 48 := by decide +kernel

/-- `add v2, v2, 1` and zeros stand at the PC. -/
def fetching : State := State.reset.placed [5, 4, 0x82, 0x80, 0, 0x28, 0, 0x40]

theorem test_meets_O56 : fetching.settleWaiters = fetching ∧ fetching.inputs = [] ∧ fetching.nextEvent = none ∧
    fetching.sec.state ≠ .locked ∧ (fetching.nextIssue.map fun c => (c.g, c.slot)) = some (fetching.cur.id, false) ∧
    (match ((fetching.view fetching.cur.id false).fetchWords maxWords []).1 with
     | .ok ws => (decodeWords ws).toOption.isSome && ws.take 2 == [0x80820405, 0x40002800]
     | .error _ => false) = true ∧
    fetching.breaks = false ∧ fetching.cur.trc.on = false ∧ fetching.cur.sp.st = 0 ∧ fetching.cur.allDenied = false := by
  decide +kernel

theorem test_meets_O56_quiet : ({ fetching with inputs := [.laneSparing 0 0] } : State).inputs = .laneSparing 0 0 :: [] ∧
    State.reset.nextEvent = none ∧ State.reset.nextIssue = none ∧ State.reset.traceEvent = none ∧
    (drying .quiescing 1).nextEvent.isSome = true := by decide +kernel

/-- Instructions at the limits of their fields, which are well formed. -/
theorem test_meets_O58 : (Instr.br ⟨-1048576, .v 0, ⟨7, true⟩⟩).wf = true ∧
    (Instr.rejoin { ord with form := .w32, d := .v 0, a := .v 0, b := .imm 127, c := .v 0, et := .z8 }).wf = true ∧
    (encode (.br ⟨-1048576, .v 0, ⟨7, true⟩⟩)).isSome = true := by decide +kernel

theorem test_meets_O60 : fetching.memWf = true ∧ (match step fetching with | .next t => t.memWf | _ => false) = true := by
  decide +kernel

/-! ### Decoding (R285-R301)

Each pair holds an instruction and the words that the encoding tables give it, in the 64-bit form under `?!k5`, with D, A, B and
C registers 5, 6, 7 and 8 where they are used, predicate 3, tile 2, and the largest values of IMM8, MODA and MODB. -/

/-- The fields of such an instruction. -/
def wide (d a b c : Opd) (et : ET) (imm : BitVec 8) (moda : BitVec 3) (modb : BitVec 2) : Ord :=
  ⟨.w64, d, a, .reg b, c, ⟨5, true⟩, et, imm, moda, modb⟩

/-- The words decode to the instruction, and encode it. -/
def agree (l : List (List Nat × Instr)) : Bool := l.all fun e => decodeWords e.1 == .ok e.2 && encode e.2 == some e.1

/-- Integer instructions (opcodes 0x00-0x17). -/
theorem test_decode_integer : agree [
  ([0x00000001, 0x00000680], .nop (wide (.v 0) (.v 0) (.v 0) (.v 0) .z8 0x00 0 0)),
  ([0x03860A05, 0x40001E80], .add (wide (.v 5) (.v 6) (.v 7) (.v 0) .s16 0x00 0 1)),
  ([0x4386CA09, 0x40001E80], .sub (wide (.g 5) (.v 6) (.v 7) (.v 0) .s16 0x00 0 1)),
  ([0x03860A0D, 0x00001E80], .mul .lo (wide (.v 5) (.v 6) (.v 7) (.v 0) .s16 0x00 0 0)),
  ([0x03860A0D, 0x00009E80], .mul .hi (wide (.v 5) (.v 6) (.v 7) (.v 0) .s16 0x00 0 0)),
  ([0x03860A11, 0x00001E88], .mad .lo (wide (.v 5) (.v 6) (.v 7) (.v 8) .s16 0x00 0 0)),
  ([0x03860A11, 0x00009E88], .mad .hi (wide (.v 5) (.v 6) (.v 7) (.v 8) .s16 0x00 0 0)),
  ([0x03860A15, 0x00001E80], .div .quotient (wide (.v 5) (.v 6) (.v 7) (.v 0) .s16 0x00 0 0)),
  ([0x03860A15, 0x00009E80], .div .remainder (wide (.v 5) (.v 6) (.v 7) (.v 0) .s16 0x00 0 0)),
  ([0x03860A19, 0x00001E80], .min (wide (.v 5) (.v 6) (.v 7) (.v 0) .s16 0x00 0 0)),
  ([0x03860A1D, 0x00001E80], .max (wide (.v 5) (.v 6) (.v 7) (.v 0) .s16 0x00 0 0)),
  ([0x00060A21, 0x40001E80], .iabs .abs (wide (.v 5) (.v 6) (.v 0) (.v 0) .s16 0x00 0 1)),
  ([0x00060A21, 0x40009E80], .iabs .neg (wide (.v 5) (.v 6) (.v 0) (.v 0) .s16 0x00 0 1)),
  ([0x03860A25, 0x40001E80], .shl (wide (.v 5) (.v 6) (.v 7) (.v 0) .s16 0x00 0 1)),
  ([0x03860A29, 0x00001E80], .shr (wide (.v 5) (.v 6) (.v 7) (.v 0) .s16 0x00 0 0)),
  ([0x03860A2D, 0x00001E80], .sar (wide (.v 5) (.v 6) (.v 7) (.v 0) .s16 0x00 0 0)),
  ([0x03860A31, 0x00001E80], .rot .left (wide (.v 5) (.v 6) (.v 7) (.v 0) .s16 0x00 0 0)),
  ([0x03860A31, 0x00009E80], .rot .right (wide (.v 5) (.v 6) (.v 7) (.v 0) .s16 0x00 0 0)),
  ([0x03860635, 0x00001E80], .cmp .eq (wide (.v 3) (.v 6) (.v 7) (.v 0) .s16 0x00 0 0)),
  ([0x03860635, 0x00009E80], .cmp .ne (wide (.v 3) (.v 6) (.v 7) (.v 0) .s16 0x00 0 0)),
  ([0x03860635, 0x00011E80], .cmp .lt (wide (.v 3) (.v 6) (.v 7) (.v 0) .s16 0x00 0 0)),
  ([0x03860635, 0x00019E80], .cmp .le (wide (.v 3) (.v 6) (.v 7) (.v 0) .s16 0x00 0 0)),
  ([0x03860635, 0x00021E80], .cmp .gt (wide (.v 3) (.v 6) (.v 7) (.v 0) .s16 0x00 0 0)),
  ([0x03860635, 0x00029E80], .cmp .ge (wide (.v 3) (.v 6) (.v 7) (.v 0) .s16 0x00 0 0)),
  ([0x03860A39, 0x00386E80], .sel (wide (.v 5) (.v 6) (.v 7) (.v 0) .e5m2 0x07 0 0)),
  ([0x03860A3D, 0x40001E88], .addmin .addmin (wide (.v 5) (.v 6) (.v 7) (.v 8) .s16 0x00 0 1)),
  ([0x03860A3D, 0x40009E88], .addmin .addmax (wide (.v 5) (.v 6) (.v 7) (.v 8) .s16 0x00 0 1)),
  ([0x03860A41, 0x00001E88], .bfe (wide (.v 5) (.v 6) (.v 7) (.v 8) .s16 0x00 0 0)),
  ([0x03860A45, 0x00001E88], .bfi (wide (.v 5) (.v 6) (.v 7) (.v 8) .s16 0x00 0 0)),
  ([0x00060A49, 0x00001E80], .bits .clz (wide (.v 5) (.v 6) (.v 0) (.v 0) .s16 0x00 0 0)),
  ([0x00060A49, 0x00009E80], .bits .popc (wide (.v 5) (.v 6) (.v 0) (.v 0) .s16 0x00 0 0)),
  ([0x00060A49, 0x00011E80], .bits .brev (wide (.v 5) (.v 6) (.v 0) (.v 0) .s16 0x00 0 0)),
  ([0x00060A49, 0x00019E80], .bits .ffs (wide (.v 5) (.v 6) (.v 0) (.v 0) .s16 0x00 0 0)),
  ([0x03860A4D, 0x07381E88], .bmux (wide (.v 5) (.v 6) (.v 7) (.v 8) .s16 0xE7 0 0)),
  ([0x03860A51, 0x00001E80], .and (wide (.v 5) (.v 6) (.v 7) (.v 0) .s16 0x00 0 0)),
  ([0x03860A55, 0x00001E80], .or (wide (.v 5) (.v 6) (.v 7) (.v 0) .s16 0x00 0 0)),
  ([0x03860A59, 0x00001E80], .xor (wide (.v 5) (.v 6) (.v 7) (.v 0) .s16 0x00 0 0)),
  ([0x03860A5D, 0x00001E88], .sad .sad (wide (.v 5) (.v 6) (.v 7) (.v 8) .s16 0x00 0 0)),
  ([0x03860A5D, 0x00009E80], .sad .avg (wide (.v 5) (.v 6) (.v 7) (.v 0) .s16 0x00 0 0))] = true := by decide +kernel

/-- Float instructions (opcodes 0x18-0x27). -/
theorem test_decode_float : agree [
  ([0x03860A61, 0x60005E80], .fadd (wide (.v 5) (.v 6) (.v 7) (.v 0) .bf16 0x00 4 1)),
  ([0x03860A65, 0x60005E80], .fsub (wide (.v 5) (.v 6) (.v 7) (.v 0) .bf16 0x00 4 1)),
  ([0x03860A69, 0x60005E80], .fmul (wide (.v 5) (.v 6) (.v 7) (.v 0) .bf16 0x00 4 1)),
  ([0x03860A6D, 0x60005E88], .ffma (wide (.v 5) (.v 6) (.v 7) (.v 8) .bf16 0x00 4 1)),
  ([0x03860A71, 0x00005E80], .fmin (wide (.v 5) (.v 6) (.v 7) (.v 0) .bf16 0x00 0 0)),
  ([0x03860A75, 0x00005E80], .fmax (wide (.v 5) (.v 6) (.v 7) (.v 0) .bf16 0x00 0 0)),
  ([0x03860679, 0x00005E80], .fcmp .eq (wide (.v 3) (.v 6) (.v 7) (.v 0) .bf16 0x00 0 0)),
  ([0x03860679, 0x0000DE80], .fcmp .ne (wide (.v 3) (.v 6) (.v 7) (.v 0) .bf16 0x00 0 0)),
  ([0x03860679, 0x00015E80], .fcmp .lt (wide (.v 3) (.v 6) (.v 7) (.v 0) .bf16 0x00 0 0)),
  ([0x03860679, 0x0001DE80], .fcmp .le (wide (.v 3) (.v 6) (.v 7) (.v 0) .bf16 0x00 0 0)),
  ([0x03860679, 0x00025E80], .fcmp .gt (wide (.v 3) (.v 6) (.v 7) (.v 0) .bf16 0x00 0 0)),
  ([0x03860679, 0x0002DE80], .fcmp .ge (wide (.v 3) (.v 6) (.v 7) (.v 0) .bf16 0x00 0 0)),
  ([0x03860679, 0x00035E80], .fcmp .un (wide (.v 3) (.v 6) (.v 7) (.v 0) .bf16 0x00 0 0)),
  ([0x03860679, 0x0003DE80], .fcmp .ord (wide (.v 3) (.v 6) (.v 7) (.v 0) .bf16 0x00 0 0)),
  ([0x00060A7D, 0x00005E80], .fsgn .abs (wide (.v 5) (.v 6) (.v 0) (.v 0) .bf16 0x00 0 0)),
  ([0x00060A7D, 0x0000DE80], .fsgn .neg (wide (.v 5) (.v 6) (.v 0) (.v 0) .bf16 0x00 0 0)),
  ([0x03860A7D, 0x00015E80], .fsgn .copysign (wide (.v 5) (.v 6) (.v 7) (.v 0) .bf16 0x00 0 0)),
  ([0x00060A81, 0x20005E80], .frcp (wide (.v 5) (.v 6) (.v 0) (.v 0) .bf16 0x00 4 0)),
  ([0x00060A85, 0x20005E80], .frsq (wide (.v 5) (.v 6) (.v 0) (.v 0) .bf16 0x00 4 0)),
  ([0x00060A89, 0x20005E80], .fsqrt (wide (.v 5) (.v 6) (.v 0) (.v 0) .bf16 0x00 4 0)),
  ([0x03860A8D, 0x20005E80], .fdiv (wide (.v 5) (.v 6) (.v 7) (.v 0) .bf16 0x00 4 0)),
  ([0x00060A91, 0x00005E80], .fsf .exp2 (wide (.v 5) (.v 6) (.v 0) (.v 0) .bf16 0x00 0 0)),
  ([0x00060A91, 0x0000DE80], .fsf .log2 (wide (.v 5) (.v 6) (.v 0) (.v 0) .bf16 0x00 0 0)),
  ([0x00060A91, 0x00015E80], .fsf .sin (wide (.v 5) (.v 6) (.v 0) (.v 0) .bf16 0x00 0 0)),
  ([0x00060A91, 0x0001DE80], .fsf .cos (wide (.v 5) (.v 6) (.v 0) (.v 0) .bf16 0x00 0 0)),
  ([0x00060A91, 0x00025E80], .fsf .tanh (wide (.v 5) (.v 6) (.v 0) (.v 0) .bf16 0x00 0 0)),
  ([0x00060A91, 0x0002DE80], .fsf .sigmoid (wide (.v 5) (.v 6) (.v 0) (.v 0) .bf16 0x00 0 0)),
  ([0x00060A95, 0x00005E80], .fclass (wide (.v 5) (.v 6) (.v 0) (.v 0) .bf16 0x00 0 0)),
  ([0x00060A99, 0x00005E80], .frnd .rne (wide (.v 5) (.v 6) (.v 0) (.v 0) .bf16 0x00 0 0)),
  ([0x00060A99, 0x0000DE80], .frnd .rtz (wide (.v 5) (.v 6) (.v 0) (.v 0) .bf16 0x00 0 0)),
  ([0x00060A99, 0x00015E80], .frnd .rdn (wide (.v 5) (.v 6) (.v 0) (.v 0) .bf16 0x00 0 0)),
  ([0x00060A99, 0x0001DE80], .frnd .rup (wide (.v 5) (.v 6) (.v 0) (.v 0) .bf16 0x00 0 0)),
  ([0x03860A9D, 0x20007688], .fdot (wide (.v 5) (.v 6) (.v 7) (.v 8) .e2m1 0x00 4 0))] = true := by decide +kernel

/-- Conversions and moves (opcodes 0x28-0x2F). -/
theorem test_decode_move : agree [
  ([0x00060AA1, 0x20706E80], .cvt (wide (.v 5) (.v 6) (.v 0) (.v 0) .e5m2 0x0E 4 0)),
  ([0x03860AA5, 0x00005E80], .pack .lo (wide (.v 5) (.v 6) (.v 7) (.v 0) .bf16 0x00 0 0)),
  ([0x03860AA5, 0x0000DE80], .pack .hi (wide (.v 5) (.v 6) (.v 7) (.v 0) .bf16 0x00 0 0)),
  ([0x00060AA9, 0x00005E80], .unpack .lo (wide (.v 5) (.v 6) (.v 0) (.v 0) .bf16 0x00 0 0)),
  ([0x00060AA9, 0x0000DE80], .unpack .hi (wide (.v 5) (.v 6) (.v 0) (.v 0) .bf16 0x00 0 0)),
  ([0x03860AAD, 0x00000680], .perm (wide (.v 5) (.v 6) (.v 7) (.v 0) .z8 0x00 0 0)),
  ([0x03860AB1, 0x00386E80], .ins (wide (.v 5) (.v 6) (.v 7) (.v 0) .e5m2 0x07 0 0)),
  ([0x00060AB5, 0x00386E80], .ext (wide (.v 5) (.v 6) (.v 0) (.v 0) .e5m2 0x07 0 0)),
  ([0x03860AB9, 0x00007680], .bscale .decode (wide (.v 5) (.v 6) (.v 7) (.v 0) .e2m1 0x00 0 0)),
  ([0x03860AB9, 0x2000F680], .bscale .encode (wide (.v 5) (.v 6) (.v 7) (.v 0) .e2m1 0x00 4 0)),
  ([0x00060ABD, 0x00006E80], .mov .mov (wide (.v 5) (.v 6) (.v 0) (.v 0) .e5m2 0x00 0 0)),
  ([0x03800ABD, 0x0000EE80], .mov .movi (wide (.v 5) (.v 0) (.v 7) (.v 0) .e5m2 0x00 0 0)),
  ([0x00660ABD, 0x02F96E80], .mov .rdi (wide (.v 5) (.g 6) (.v 0) (.v 0) .e5m2 0x5F 0 0)),
  ([0x03E600BD, 0x02F9EE80], .mov .wri (wide (.v 0) (.g 6) (.v 7) (.v 0) .e5m2 0x5F 0 0))] = true := by decide +kernel

/-- Cross-thread and control instructions (opcodes 0x30-0x3F). -/
theorem test_decode_control : agree [
  ([0x00060AC1, 0x00006E80], .xprev (wide (.v 5) (.v 6) (.v 0) (.v 0) .e5m2 0x00 0 0)),
  ([0x00060AC5, 0x00006E80], .xnext (wide (.v 5) (.v 6) (.v 0) (.v 0) .e5m2 0x00 0 0)),
  ([0x03860AC9, 0x00386E80], .xsel (wide (.v 5) (.v 6) (.v 7) (.v 0) .e5m2 0x07 0 0)),
  ([0x03860ACD, 0x00386E80], .xbcast (wide (.v 5) (.v 6) (.v 7) (.v 0) .e5m2 0x07 0 0)),
  ([0x00060AD1, 0x04001E80], .xscan .add (wide (.v 5) (.v 6) (.v 0) (.v 0) .s16 0x80 0 0)),
  ([0x00060AD1, 0x04009E80], .xscan .min (wide (.v 5) (.v 6) (.v 0) (.v 0) .s16 0x80 0 0)),
  ([0x00060AD1, 0x04011E80], .xscan .max (wide (.v 5) (.v 6) (.v 0) (.v 0) .s16 0x80 0 0)),
  ([0x00060AD1, 0x04019E80], .xscan .and (wide (.v 5) (.v 6) (.v 0) (.v 0) .s16 0x80 0 0)),
  ([0x00060AD1, 0x04021E80], .xscan .or (wide (.v 5) (.v 6) (.v 0) (.v 0) .s16 0x80 0 0)),
  ([0x00060AD1, 0x04029E80], .xscan .xor (wide (.v 5) (.v 6) (.v 0) (.v 0) .s16 0x80 0 0)),
  ([0x4006CAD5, 0x00001E80], .xred .add (wide (.g 5) (.v 6) (.v 0) (.v 0) .s16 0x00 0 0)),
  ([0x4006CAD5, 0x00009E80], .xred .min (wide (.g 5) (.v 6) (.v 0) (.v 0) .s16 0x00 0 0)),
  ([0x4006CAD5, 0x00011E80], .xred .max (wide (.g 5) (.v 6) (.v 0) (.v 0) .s16 0x00 0 0)),
  ([0x4006CAD5, 0x00019E80], .xred .and (wide (.g 5) (.v 6) (.v 0) (.v 0) .s16 0x00 0 0)),
  ([0x4006CAD5, 0x00021E80], .xred .or (wide (.g 5) (.v 6) (.v 0) (.v 0) .s16 0x00 0 0)),
  ([0x4006CAD5, 0x00029E80], .xred .xor (wide (.g 5) (.v 6) (.v 0) (.v 0) .s16 0x00 0 0)),
  ([0x000606D9, 0x00000680], .xvote .any (wide (.v 3) (.v 6) (.v 0) (.v 0) .z8 0x00 0 0)),
  ([0x000606D9, 0x00008680], .xvote .all (wide (.v 3) (.v 6) (.v 0) (.v 0) .z8 0x00 0 0)),
  ([0x4006CAD9, 0x00010680], .xvote .ballot (wide (.g 5) (.v 6) (.v 0) (.v 0) .z8 0x00 0 0)),
  ([0x00060ADD, 0x00006E80], .xmatch (wide (.v 5) (.v 6) (.v 0) (.v 0) .e5m2 0x00 0 0)),
  ([0x000000ED, 0x00000680], .ret (wide (.v 0) (.v 0) (.v 0) (.v 0) .z8 0x00 0 0)),
  ([0x038000F5, 0x00000680], .rejoin (wide (.v 0) (.v 0) (.v 7) (.v 0) .z8 0x00 0 0)),
  ([0x000000F9, 0x00000680], .exit (wide (.v 0) (.v 0) (.v 0) (.v 0) .z8 0x00 0 0)),
  ([0x000000FD, 0x00000680], .yield .yield (wide (.v 0) (.v 0) (.v 0) (.v 0) .z8 0x00 0 0)),
  ([0x000600FD, 0x00008680], .yield .sleepUntil (wide (.v 0) (.v 6) (.v 0) (.v 0) .z8 0x00 0 0))] = true := by decide +kernel

/-- Memory, synchronisation and queue instructions (opcodes 0x40-0x5D). -/
theorem test_decode_memory : agree [
  ([0x03860B01, 0xC0001E80], .ld (wide (.v 5) (.v 6) (.v 7) (.v 0) .s16 0x00 0 3)),
  ([0x03860105, 0xC0001E88], .st (wide (.v 0) (.v 6) (.v 7) (.v 8) .s16 0x00 0 3)),
  ([0x03860B09, 0x00001E80], .ldls (wide (.v 5) (.v 6) (.v 7) (.v 0) .s16 0x00 0 0)),
  ([0x0386010D, 0x00001E88], .stls (wide (.v 0) (.v 6) (.v 7) (.v 8) .s16 0x00 0 0)),
  ([0x03860B11, 0x00001E80], .ldfe (wide (.v 5) (.v 6) (.v 7) (.v 0) .s16 0x00 0 0)),
  ([0x03860115, 0x00001E88], .stfe (wide (.v 0) (.v 6) (.v 7) (.v 8) .s16 0x00 0 0)),
  ([0x03860119, 0x00000680], .clrfe (wide (.v 0) (.v 6) (.v 7) (.v 0) .z8 0x00 0 0)),
  ([0x0386011D, 0xC0000680], .pref (wide (.v 0) (.v 6) (.v 7) (.v 0) .z8 0x00 0 3)),
  ([0x73E60121, 0x000806E8], .lsmap (wide (.v 0) (.g 6) (.g 7) (.g 8) .z8 0x01 0 0)),
  ([0x40660125, 0x00000680], .lsunmap (wide (.v 0) (.g 6) (.v 0) (.v 0) .z8 0x00 0 0)),
  ([0x40660129, 0x00000680], .lswb (wide (.v 0) (.g 6) (.v 0) (.v 0) .z8 0x00 0 0)),
  ([0x4066012D, 0x00000680], .lsinv (wide (.v 0) (.g 6) (.v 0) (.v 0) .z8 0x00 0 0)),
  ([0x40000131, 0x20000680], .fenceScope (wide (.v 0) (.v 0) (.v 0) (.v 0) .z8 0x00 4 0)),
  ([0x40000131, 0x03288680], .fencePath (wide (.v 0) (.v 0) (.v 0) (.v 0) .z8 0x65 0 0)),
  ([0x73E60131, 0x20010680], .fenceView (wide (.v 0) (.g 6) (.g 7) (.v 0) .z8 0x00 4 0)),
  ([0x73E60135, 0x000006E8], .bind (wide (.v 0) (.g 6) (.g 7) (.g 8) .z8 0x00 0 0)),
  ([0x73E60135, 0x00008680], .unbind (wide (.v 0) (.g 6) (.g 7) (.v 0) .z8 0x00 0 0)),
  ([0x73E60139, 0x20000680], .acq .eq (wide (.v 0) (.g 6) (.g 7) (.v 0) .z8 0x00 4 0)),
  ([0x73E60139, 0x20008680], .acq .ge (wide (.v 0) (.g 6) (.g 7) (.v 0) .z8 0x00 4 0)),
  ([0x73E60139, 0x20010680], .acq .take (wide (.v 0) (.g 6) (.g 7) (.v 0) .z8 0x00 4 0)),
  ([0x73E6013D, 0x20000680], .rel .store (wide (.v 0) (.g 6) (.g 7) (.v 0) .z8 0x00 4 0)),
  ([0x73E6013D, 0x20008680], .rel .add (wide (.v 0) (.g 6) (.g 7) (.v 0) .z8 0x00 4 0)),
  ([0x73E6013D, 0x20010680], .rel .give (wide (.v 0) (.g 6) (.g 7) (.v 0) .z8 0x00 4 0)),
  ([0x03860B41, 0x20083E80], .atom .add (wide (.v 5) (.v 6) (.v 7) (.v 0) .s64 0x01 4 0)),
  ([0x03860B41, 0x2008BE80], .atom .smin (wide (.v 5) (.v 6) (.v 7) (.v 0) .s64 0x01 4 0)),
  ([0x03860B41, 0x20093E80], .atom .smax (wide (.v 5) (.v 6) (.v 7) (.v 0) .s64 0x01 4 0)),
  ([0x03860B41, 0x2009BE80], .atom .zmin (wide (.v 5) (.v 6) (.v 7) (.v 0) .s64 0x01 4 0)),
  ([0x03860B41, 0x200A3E80], .atom .zmax (wide (.v 5) (.v 6) (.v 7) (.v 0) .s64 0x01 4 0)),
  ([0x03860B41, 0x200ABE80], .atom .and (wide (.v 5) (.v 6) (.v 7) (.v 0) .s64 0x01 4 0)),
  ([0x03860B41, 0x200B3E80], .atom .or (wide (.v 5) (.v 6) (.v 7) (.v 0) .s64 0x01 4 0)),
  ([0x03860B41, 0x200BBE80], .atom .xor (wide (.v 5) (.v 6) (.v 7) (.v 0) .s64 0x01 4 0)),
  ([0x03860B41, 0x200C3E80], .atom .xchg (wide (.v 5) (.v 6) (.v 7) (.v 0) .s64 0x01 4 0)),
  ([0x03860B41, 0x200CBE80], .atom .inc (wide (.v 5) (.v 6) (.v 7) (.v 0) .s64 0x01 4 0)),
  ([0x03860B41, 0x200D3E80], .atom .dec (wide (.v 5) (.v 6) (.v 7) (.v 0) .s64 0x01 4 0)),
  ([0x03860B45, 0x20083E88], .cas (wide (.v 5) (.v 6) (.v 7) (.v 8) .s64 0x01 4 0)),
  ([0x03860B49, 0x00000680], .fatom .addF32 (wide (.v 5) (.v 6) (.v 7) (.v 0) .z8 0x00 0 0)),
  ([0x03860B49, 0x00008680], .fatom .minF32 (wide (.v 5) (.v 6) (.v 7) (.v 0) .z8 0x00 0 0)),
  ([0x03860B49, 0x00010680], .fatom .maxF32 (wide (.v 5) (.v 6) (.v 7) (.v 0) .z8 0x00 0 0)),
  ([0x03860B49, 0x00018680], .fatom .addBf16 (wide (.v 5) (.v 6) (.v 7) (.v 0) .z8 0x00 0 0)),
  ([0x03860B4D, 0x00003E80], .atomls .add (wide (.v 5) (.v 6) (.v 7) (.v 0) .s64 0x00 0 0)),
  ([0x03860B4D, 0x0000BE80], .atomls .smin (wide (.v 5) (.v 6) (.v 7) (.v 0) .s64 0x00 0 0)),
  ([0x03860B4D, 0x00013E80], .atomls .smax (wide (.v 5) (.v 6) (.v 7) (.v 0) .s64 0x00 0 0)),
  ([0x03860B4D, 0x0001BE80], .atomls .zmin (wide (.v 5) (.v 6) (.v 7) (.v 0) .s64 0x00 0 0)),
  ([0x03860B4D, 0x00023E80], .atomls .zmax (wide (.v 5) (.v 6) (.v 7) (.v 0) .s64 0x00 0 0)),
  ([0x03860B4D, 0x0002BE80], .atomls .and (wide (.v 5) (.v 6) (.v 7) (.v 0) .s64 0x00 0 0)),
  ([0x03860B4D, 0x00033E80], .atomls .or (wide (.v 5) (.v 6) (.v 7) (.v 0) .s64 0x00 0 0)),
  ([0x03860B4D, 0x0003BE80], .atomls .xor (wide (.v 5) (.v 6) (.v 7) (.v 0) .s64 0x00 0 0)),
  ([0x03860B4D, 0x00043E80], .atomls .xchg (wide (.v 5) (.v 6) (.v 7) (.v 0) .s64 0x00 0 0)),
  ([0x03860B4D, 0x0004BE80], .atomls .inc (wide (.v 5) (.v 6) (.v 7) (.v 0) .s64 0x00 0 0)),
  ([0x03860B4D, 0x00053E80], .atomls .dec (wide (.v 5) (.v 6) (.v 7) (.v 0) .s64 0x00 0 0)),
  ([0x40660151, 0x00000680], .cbar .arriveWait (wide (.v 0) (.g 6) (.v 0) (.v 0) .z8 0x00 0 0)),
  ([0x40660151, 0x00008680], .cbar .arrive (wide (.v 0) (.g 6) (.v 0) (.v 0) .z8 0x00 0 0)),
  ([0x40660151, 0x00010680], .cbar .wait (wide (.v 0) (.g 6) (.v 0) (.v 0) .z8 0x00 0 0)),
  ([0x00060161, 0x00780680], .qpush (wide (.v 0) (.v 6) (.v 0) (.v 0) .z8 0x0F 0 0)),
  ([0x00000B65, 0x00780680], .qpop .blocking (wide (.v 5) (.v 0) (.v 0) (.v 0) .z8 0x0F 0 0)),
  ([0x00000B65, 0x00788680], .qpop .try_ (wide (.v 5) (.v 0) (.v 0) (.v 0) .z8 0x0F 0 0)),
  ([0x4006CB69, 0x00780680], .emit (wide (.g 5) (.v 6) (.v 0) (.v 0) .z8 0x0F 0 0)),
  ([0x4006CB69, 0x00788680], .emitRec (wide (.g 5) (.v 6) (.v 0) (.v 0) .z8 0x0F 0 0)),
  ([0x4066CB6D, 0x00000680], .launch (wide (.g 5) (.g 6) (.v 0) (.v 0) .z8 0x00 0 0)),
  ([0x40000171, 0x00080680], .racq (wide (.v 0) (.v 0) (.v 0) (.v 0) .z8 0x01 0 0)),
  ([0x40000175, 0x00080680], .rrel (wide (.v 0) (.v 0) (.v 0) (.v 0) .z8 0x01 0 0))] = true := by decide +kernel

/-- Matrix, engine and system instructions (opcodes 0x60-0x77). -/
theorem test_decode_system : agree [
  ([0x43860581, 0x20707680], .mma (wide (.v 2) (.v 6) (.v 7) (.v 0) .e2m1 0x0E 4 0)),
  ([0x43860585, 0x20707688], .mmas (wide (.v 2) (.v 6) (.v 7) (.v 8) .e2m1 0x0E 4 0)),
  ([0x40000589, 0x00000680], .mzero (wide (.v 2) (.v 0) (.v 0) (.v 0) .z8 0x00 0 0)),
  ([0x73E6058D, 0xC0000680], .mld (wide (.v 2) (.g 6) (.g 7) (.v 0) .z8 0x00 0 3)),
  ([0x73E60591, 0xC0000680], .mst (wide (.v 2) (.g 6) (.g 7) (.v 0) .z8 0x00 0 3)),
  ([0x00060B99, 0x20185E80], .mrd (wide (.v 5) (.v 6) (.v 0) (.v 0) .bf16 0x03 4 0)),
  ([0x73E601A1, 0x200006E8], .ecmd (wide (.v 0) (.g 6) (.g 7) (.g 8) .z8 0x00 4 0)),
  ([0x038601A5, 0x00780680], .rsend .closest (wide (.v 0) (.v 6) (.v 7) (.v 0) .z8 0x0F 0 0)),
  ([0x038601A5, 0x00788680], .rsend .any (wide (.v 0) (.v 6) (.v 7) (.v 0) .z8 0x0F 0 0)),
  ([0x03860BA9, 0x00000680], .tex (wide (.v 5) (.v 6) (.v 7) (.v 0) .z8 0x00 0 0)),
  ([0x03860BAD, 0x00000680], .hgrid (wide (.v 5) (.v 6) (.v 7) (.v 0) .z8 0x00 0 0)),
  ([0x73E601B1, 0x00006EE8], .accld (wide (.v 0) (.g 6) (.g 7) (.g 8) .e5m2 0x00 0 0)),
  ([0x73E601B5, 0x00000680], .accAttach (wide (.v 0) (.g 6) (.g 7) (.v 0) .z8 0x00 0 0)),
  ([0x406601B5, 0x00388680], .accDetach (wide (.v 0) (.g 6) (.v 0) (.v 0) .z8 0x07 0 0)),
  ([0x4066CBB5, 0x00010680], .accVersion (wide (.g 5) (.g 6) (.v 0) (.v 0) .z8 0x00 0 0)),
  ([0x406601B9, 0x00000680], .rast (wide (.v 0) (.g 6) (.v 0) (.v 0) .z8 0x00 0 0)),
  ([0x00000BC1, 0x01580681], .rdsr (wide (.v 5) (.v 0) (.v 0) (.v 1) .z8 0x2B 0 0)),
  ([0x406601C5, 0x01580681], .wrsr (wide (.v 0) (.g 6) (.v 0) (.v 1) .z8 0x2B 0 0)),
  ([0x400001C9, 0x07F80680], .trap (wide (.v 0) (.v 0) (.v 0) (.v 0) .z8 0xFF 0 0)),
  ([0x400001CD, 0x00000680], .eret (wide (.v 0) (.v 0) (.v 0) (.v 0) .z8 0x00 0 0)),
  ([0x400001D1, 0x00000680], .brk (wide (.v 0) (.v 0) (.v 0) (.v 0) .z8 0x00 0 0)),
  ([0x73E6CBD5, 0x00000680], .pfmap (wide (.g 5) (.g 6) (.g 7) (.v 0) .z8 0x00 0 0)),
  ([0x73E601D9, 0x20000680], .tlbinv (wide (.v 0) (.g 6) (.g 7) (.v 0) .z8 0x00 4 0)),
  ([0x400001DD, 0x00000680], .traceOn (wide (.v 0) (.v 0) (.v 0) (.v 0) .z8 0x00 0 0)),
  ([0x400001DD, 0x00008680], .traceOff (wide (.v 0) (.v 0) (.v 0) (.v 0) .z8 0x00 0 0)),
  ([0x400001DD, 0x07F90680], .traceMark (wide (.v 0) (.v 0) (.v 0) (.v 0) .z8 0xFF 0 0))] = true := by decide +kernel

/-- The worked encodings of spec/15, the table of R263 and the forms of R295-R297. Of the first, spec/15 prints 0xFFFF_EF80 for
its second word, whose KP would be 7; the sum that it gives below the table, with KP 3, is 0xFFFF_ED80. -/
theorem test_decode_forms : agree [
  ([0x000000E1, 0xFFFFED80], .br ⟨-3, .v 0, ⟨3, true⟩⟩), ([0x40000155, 0x00FFFFC0], .wait 0 63 63 63),
  ([0x40000155, 0x0040307E], .wait 62 1 3 16), ([0x000008BE, 0x0000C000, 0x3FC00000],
    .mov .movi ⟨.w96, .v 4, .v 0, .lit 0x3FC00000, .v 0, ⟨0, false⟩, .f64, 0, 0, 0⟩),
  ([0x00000000], .nop ⟨.w32, .v 0, .v 0, .reg (.v 0), .v 0, ⟨0, false⟩, .z8, 0, 0, 0⟩),
  ([0x000000E5, 0x80000000], .jmp .direct ⟨0x100000, .v 0, ⟨0, false⟩⟩), ([0x006702E5, 0], .jmp .indirect ⟨0, .g 7, ⟨0, false⟩⟩),
  ([0x000000E9, 0x7FFFF800], .call .direct ⟨0xFFFFF, .v 0, ⟨0, false⟩⟩), ([0x006702E9, 0], .call .indirect ⟨0, .g 7, ⟨0, false⟩⟩),
  ([0x40000195, 0x00001000], .mrstSet ⟨2, .v 0, ⟨0, false⟩⟩), ([0x40000395, 0], .mrstEnd ⟨0, .v 0, ⟨0, false⟩⟩),
  ([0x000200F1, 0x00102800, 0, 7, 1, 9, 11], .switch (.v 2) .s32 [⟨0, 7⟩, ⟨1, 9⟩] 11)] = true := by decide +kernel

/-- Each step of R301, with the words of spec/15 where it gives some: LEN 3; OPC 0x56; a 32-bit `br`; a second word of all ones;
FN 2 of `mul`; ET 15; MODB 2 of `add`; K in a 96-bit form; a `v` register for `xred`; U without a `g` register. -/
theorem test_decode_refuses : [[0xFFFFFFFF], [0x00000158], [0x000000E0], [0x01010605, 0xFFFFFFFF], [0x0101060D, 0x00012800],
    [0x01010605, 0x00007800], [0x01010605, 0x80002800], [0x80810606, 0x00002800, 5], [0x400108D4], [0x41010604],
    [0x01010605]].map (fun ws => (decodeWords ws).toOption.isSome || decodeWords ws != .error (match ws with
      | [0xFFFFFFFF] => .badLength | [0x158] => .reservedOpcode | [0xE0] => .lengthNotAllowed | [_, 0xFFFFFFFF] => .secondWordOnes
      | [0x0101060D, _] => .subFunction | [_, 0x7800] => .elementType | [_, 0x80002800] => .modifier | [_, _, _] => .unusedField
      | [0x400108D4] => .operandClass | [0x41010604] => .uBit | _ => .short)) = List.replicate 11 false := by decide +kernel

/-! ### Ill-formed terms (R285-R301)

One term for each check of WellFormed: D, A, B and C against the row, the defaults of the 32-bit form, a literal outside the
96-bit form and none within it, ET, MODA, MODB, IMM8, an OFFSET or A that a branch form has not, and the cases of `switch`. -/

theorem test_illFormed_operands : [Instr.nop { ord with et := .z8 }, .xred .add { ord with b := .reg (.v 0), c := .v 0 },
    .ld { ord with d := .g 2, c := .v 4, et := .z32 }, .cmp .eq { ord with d := .v 8, c := .v 0 },
    .mzero { ord with d := .v 4, a := .v 0, b := .reg (.v 0), c := .v 0, et := .z8 },
    .mma { ord with d := .v 3, a := .g 1, c := .v 0, et := .z8 }, .mov .rdi { ord with b := .reg (.v 0), c := .v 0 },
    .launch { ord with d := .g 0, a := .g 24, b := .reg (.v 0), c := .v 0, et := .z8 },
    .rdsr { ord with a := .v 0, b := .reg (.v 0), c := .v 16, et := .z8, imm := 0x10 },
    .ecmd { ord with d := .v 0, b := .reg (.v 1), et := .z8 }, .ret { ord with d := .v 0, a := .v 0, b := .imm 1, c := .v 0, et := .z8 }].all
    (fun i => !i.wf) = true := by decide +kernel

theorem test_illFormed_fields : [Instr.add { ord with form := .w32, c := .v 0, modb := 1 },
    .add { ord with form := .w32, c := .v 0, et := .s16 }, .add { ord with form := .w32, c := .v 0, pred := k1 },
    .mul .hi { ord with form := .w32, c := .v 0 }, .add { ord with form := .w64, c := .v 0, b := .lit 1 },
    .add { ord with form := .w96, c := .v 0 }, .add { ord with c := .v 0, et := .f32 }, .fadd { ord with c := .v 0, et := .f32, moda := 5 },
    .add { ord with c := .v 0, modb := 2 }, .add { ord with c := .v 0, imm := 1 }, .sel { ord with c := .v 0, imm := 8 },
    .ext { ord with b := .reg (.v 0), c := .v 0, et := .z32, imm := 2 }].all (fun i => !i.wf) = true := by decide +kernel

theorem test_illFormed_forms : [Instr.br ⟨1, .v 1, ⟨0, false⟩⟩, .jmp .indirect ⟨1, .g 7, ⟨0, false⟩⟩,
    .mrstEnd ⟨1, .v 0, ⟨0, false⟩⟩, .switch (.v 2) .z64 [⟨0, 7⟩] 1, .switch (.v 2) .s32 [] 1,
    .switch (.v 2) .s32 (List.replicate 9 ⟨0, 7⟩) 1].all (fun i => !i.wf) = true := by decide +kernel

/-! ### Values (one step each)

The values come from the worked examples of spec/14, spec/16, spec/17 and spec/21. -/

/-- The group with A, B and C in v3, v4 and v5 of every thread, and v2 zero. -/
def abc (a b c : Word) : State := withCur fun g =>
  ((g.vset 3 (BitVec.allOnes 32) fun _ => a).vset 4 (BitVec.allOnes 32) fun _ => b).vset 5 (BitVec.allOnes 32) fun _ => c

/-- Thread t's register after an instruction. -/
def after (i : Instr) (s : State) (r : Opd) (t : Nat) : Option Word :=
  match exec i s with | .next u => some (u.cur.opd r t) | _ => none

/-- v2 of thread 31 after an instruction of element type e on A, B and C. -/
def value (i : Ord → Instr) (e : ET) (a b c : Word) : Option Word := after (i { ord with et := e }) (abc a b c) (.v 2) 31

theorem test_div_edges : value (.div .quotient) .s64 0x8000000000000000 (BitVec.allOnes 64) 0 = some 0x8000000000000000 ∧
    value (.div .remainder) .s64 (0 - 7) 2 0 = some (0 - 1) ∧ value (.div .remainder) .s64 7 0 0 = some 7 := by decide +kernel

theorem test_div_setsDz : (match exec (.div .remainder { ord with et := .s64 }) (abc 7 0 0),
      exec (.div .quotient { ord with et := .s32 }) (abc 0x8000000080000000 (BitVec.allOnes 64) 0) with
    | .next t, .next u => t.cur.sp.fmt.getLsbD 13 && !u.cur.sp.fmt.getLsbD 13
    | _, _ => false) = true := by decide +kernel

theorem test_saturation : value (fun x => .add { x with modb := 1 }) .z8 0xC8 0x64 0 = some 0xFF ∧
    value .add .z8 0xC8 0x64 0 = some 0x2C ∧ value (fun x => .sub { x with modb := 1 }) .z8 5 9 0 = some 0 ∧
    value .sub .z8 5 9 0 = some 0xFC := by decide +kernel

theorem test_shifts : value .shl .s32 1 40 0 = some 0 ∧ value .sar .s32 0xFFFFFFF8 40 0 = some 0xFFFFFFFF ∧
    value .shr .s32 0xFFFFFFF8 4 0 = some 0x0FFFFFFF ∧ value (.rot .right) .z8 0x01 1 0 = some 0x80 := by decide +kernel

theorem test_bitFields : value .bfe .s32 0xF0 4 8 = some 15 ∧ value .bfe .s8 0xF0 4 8 = some 0xFF ∧
    value (.bits .ffs) .s32 0 0 0 = some 0xFFFFFFFFFFFFFFFF ∧ value (.sad .avg) .s32 0xFFFFFFFD 0 0 = some 0xFFFFFFFF := by
  decide +kernel

/-- Where a bit of C is 0, F0 = A and B (0x8); where it is 1, F1 = A or B (0xE). -/
theorem test_bmux : value (fun x => .bmux { x with imm := 0xE8 }) .z64 0xC 0xA 0x3 = some 0xA := by decide +kernel

/-- The sum of spec/14 and spec/16: RNE, and RUP. -/
theorem test_fdot : value .fdot .bf16 0x398039803F80 0x398039803F80 0 = some 0x3F800000 ∧
    value (fun x => .fdot { x with moda := 4 }) .bf16 0x398039803F80 0x398039803F80 0 = some 0x3F800002 := by decide +kernel

/-- Narrowing from `f32` as the table of spec/14 has it: 460.0, 470.0, 470.0 under RTZ, 5.0 and 2^-10, in sub-element 0. -/
theorem test_cvt_narrow : ([(.e4m3, 0x43E60000, 0), (.e4m3, 0x43EB0000, 0), (.e4m3, 0x43EB0000, 2), (.e2m1, 0x40A00000, 0),
    (.e5m2, 0x3A800000, 0)].map fun (e, a, r) => (value (fun x => .cvt { x with imm := 9, moda := r }) e a 0 0).map
      fun w => w.toNat % 2 ^ e.width) = [some 0x7E, some 0x7F, some 0x7E, some 0x6, some 0x14] := by decide +kernel

theorem test_float : value .fadd .f32 0x3F800000 0x33800000 0 = some 0x3F800000 ∧
    value (.frnd .rne) .f32 0x40200000 0 0 = some 0x40000000 ∧ value (.frnd .rne) .f32 0x40600000 0 0 = some 0x40800000 ∧
    value (.frnd .rtz) .f32 0xBE99999A 0 0 = some 0x80000000 := by decide +kernel

theorem test_reciprocals : value .frcp .f64 0x8000000000000000 0 0 = some 0xFFF0000000000000 ∧
    value .frsq .f64 0x4010000000000000 0 0 = some 0x3FE0000000000000 ∧ value .fsqrt .f64 0xBFF0000000000000 0 0 = some 0x7FF8000000000000 ∧
    value .fdiv .f64 0x3FF0000000000000 0x8000000000000000 0 = some 0xFFF0000000000000 := by decide +kernel

/-- Literals as R291: 1.5 into `f64`, 6.0 into `e2m1`, -2 into `s16`. -/
theorem test_literals : value (fun x => .mov .movi { x with form := .w96, b := .lit 0x3FC00000 }) .f64 0 0 0 = some 0x3FF8000000000000 ∧
    value (fun x => .mov .movi { x with form := .w96, b := .lit 7 }) .e2m1 0 0 0 = some 0x7777777777777777 ∧
    value (fun x => .mov .movi { x with form := .w96, b := .lit 0xFFFFFFFE }) .s16 0 0 0 = some 0xFFFEFFFEFFFEFFFE ∧
    value (fun x => .mov .movi { x with b := .imm 0x64 }) .s32 0 0 0 = some 0x6400000064 := by decide +kernel

/-- The split of spec/17: threads 0 to 7, of which k1 holds for 1, 2, 4 and 6; sub-element 1 of A is 1. -/
def eight : State := withCur fun g =>
  let g := g.vset 3 (BitVec.allOnes 32) fun t =>
    if t = 1 then 0x100000005 else if t = 2 then 0x1FFFFFFFD else if t = 4 then 0x10000000A else if t = 6 then 0x100000007 else 0x100000064
  let g := g.kset 1 (BitVec.allOnes 32) fun t => t == 1 || t == 2 || t == 4 || t == 6
  { g with sp := { g.sp with mask := 0xFF } }

theorem test_scan : [1, 2, 4, 6].map (after (.xscan .add { ord with pred := k1 }) eight (.v 2)) =
      [some 0x100000005, some 0x200000002, some 0x30000000C, some 0x400000013] ∧
    [0, 1, 2, 4, 6].map (after (.xscan .add { ord with pred := k1, imm := 0x80 }) eight (.v 2)) =
      [some 0, some 0, some 0x100000005, some 0x200000002, some 0x30000000C] := by decide +kernel

theorem test_reduce : after (.xred .add { ord with d := .g 4, pred := k1 }) eight (.g 4) 0 = some 0x400000013 ∧
    after (.xvote .ballot { ord with d := .g 6, pred := k1 }) eight (.g 6) 0 = some 0x56 := by decide +kernel

theorem test_neighbours : [1, 2, 4, 6].map (after (.xprev { ord with d := .v 3, pred := k1 }) eight (.v 3)) =
      [some 0x100000005, some 0x100000005, some 0x1FFFFFFFD, some 0x10000000A] ∧
    [1, 6].map (after (.xnext { ord with pred := k1 }) eight (.v 2)) = [some 0x1FFFFFFFD, some 0] := by decide +kernel

/-- `?k1 br` by four of eight threads (R177, R345): a rejoin entry of all eight, and the four at the target. -/
theorem test_branch : (match exec (.br ⟨6, .v 0, k1⟩) eight with
    | .next t => (t.cur.rejoin.map fun e => e.origin) == [0xFF] && (t.cur.other.map fun p => (p.mask, p.pc)) == some (0x56, 0x100018) &&
        t.cur.sp.mask == 0xA9 && t.cur.sp.pc == 0x100008
    | _ => false) = true := by decide +kernel

/-- `trap.u 5` and `brk.u` (R417). -/
theorem test_traps : (match exec (.trap { ord with imm := 5 }) st0, exec (.brk ord) st0 with
    | .next t, .next u => t.cur.tcause == 0x10 && u.cur.tcause == 0x0E && t.cur.hand.isSome && u.cur.hand.isSome
    | _, _ => false) = true := by decide +kernel

/-- A store of two bytes, little-endian (R211): thread 1's byte 4, as its core reads it. -/
theorem test_store : (match exec (.st { ord with b := .imm 0, c := .v 4, et := .z16 }) (withCur fun g =>
      (g.vset 3 (BitVec.allOnes 32) fun t => BitVec.ofNat 64 (0x200000 + 4 * t)).vset 4 (BitVec.allOnes 32) fun _ => 0xABCD1234) with
    | .next t => t.coreBytes 0 0 gib 0x200004 4 == [0x34, 0x12, 0, 0] && t.coreBytes 0 0 gib 0x20007C 2 == [0x34, 0x12]
    | _ => false) = true := by decide +kernel

/-- The instruction that R261 encodes as 0x8082_0405 0x4000_2800, fetched and run: `add.sat v2, v2, 1`. -/
theorem test_step : (match step fetching with
    | .next t => t.cur.opd (.v 2) 0 == 0x100000001 && t.cur.opd (.v 2) 31 == 0x100000001 && t.cur.sp.pc == 0x100008
    | _ => false) = true := by decide +kernel

end Sys2Proof.Tests
end

section
/-!
SUPPORT. What stopping groups leaves alone: the controller's registers, the security state and the partitions; and device memory
where no engine command is open (R91, R139, R199).
-/

namespace Sys2Proof.Machine

open Sys2Proof

/-! ### The controller, the security state and the partitions -/

/-- `t` has the controller's registers, the security state and the partitions of `s`. -/
structure SameControl (s t : State) : Prop where
  ctl : t.ctl = s.ctl
  sec : t.sec = s.sec
  parts : t.parts = s.parts

theorem SameControl.refl (s : State) : SameControl s s := ⟨rfl, rfl, rfl⟩

theorem SameControl.trans {s t u : State} (h1 : SameControl s t) (h2 : SameControl t u) : SameControl s u :=
  ⟨h2.ctl.trans h1.ctl, h2.sec.trans h1.sec, h2.parts.trans h1.parts⟩

theorem SameControl.foldl {α : Type} {f : State → α → State} (hf : ∀ s a, SameControl s (f s a)) (l : List α) (s : State) :
    SameControl s (l.foldl f s) := by
  induction l generalizing s with
  | nil => exact .refl s
  | cons a l ih => exact (hf s a).trans (ih _)

/-- An optional operation that does nothing where it fails. -/
theorem SameControl.getD {s : State} {o : Option State} (h : ∀ t, o = some t → SameControl s t) : SameControl s (o.getD s) := by
  cases o with
  | none => exact .refl s
  | some t => exact h t rfl

/-! ### Requests, the caches and memory -/

theorem State.dram_sameControl (s : State) (p : Nat) (b : Byte) : SameControl s (s.dram p b) := by
  unfold State.dram
  split
  · dsimp only; split <;> exact ⟨rfl, rfl, rfl⟩
  · exact ⟨rfl, rfl, rfl⟩

theorem State.sendReqs_sameControl (s : State) (a : Asker) (w : Bool) (l : List Sector) : SameControl s (s.sendReqs a w l) := by
  refine .foldl (fun s e => ?_) _ s
  exact ⟨rfl, rfl, rfl⟩

theorem State.sendReqs_twice_sameControl (s : State) (a : Asker) (v w : Bool) (l k : List Sector) :
    SameControl s ((s.sendReqs a v l).sendReqs a w k) :=
  (s.sendReqs_sameControl a v l).trans (State.sendReqs_sameControl _ a w k)

theorem State.throughTier_sameControl (s : State) (a : Asker) (w : Bool) (p : Nat) : SameControl s (s.throughTier a w p).1 := by
  have h : ∀ n k, SameControl s (s.setStack n k) := fun _ _ => ⟨rfl, rfl, rfl⟩
  unfold State.throughTier
  dsimp only
  split
  · split
    · exact (h _ _).trans (State.sendReqs_twice_sameControl _ _ _ _ _ _)
    · exact h _ _
  · refine SameControl.trans ?_ (State.sendReqs_twice_sameControl _ _ _ _ _ _)
    split
    · exact (h _ _).trans (State.sendReqs_twice_sameControl _ _ _ _ _ _)
    · exact h _ _

theorem State.ask_sameControl (s : State) (a : Asker) (w : Bool) (l : List Sector) : SameControl s (s.ask a w l) := by
  have h : ∀ (far : List Sector) (acc : State × List Sector), SameControl acc.1 (far.foldl (fun acc x =>
      ((acc.1.throughTier a w x.key).1, acc.2 ++ [Sector.plain (acc.1.throughTier a w x.key).2,
        Sector.plain ((acc.1.throughTier a w x.key).2 + 32)])) acc).1 := by
    intro far
    induction far with
    | nil => exact fun acc => .refl acc.1
    | cons x far ih =>
      intro acc
      rw [List.foldl_cons]
      exact (acc.1.throughTier_sameControl a w x.key).trans (ih (_, _))
  exact (h _ (s, [])).trans (State.sendReqs_sameControl _ _ _ _)

theorem State.askBack_sameControl (s : State) (l : List Nat) : SameControl s (s.askBack l) := by
  unfold State.askBack
  split
  · exact .refl s
  · exact s.ask_sameControl _ _ _

theorem State.leaveHome_sameControl (s : State) (l : CLine) : SameControl s (s.leaveHome l) :=
  have hf : SameControl s { s with home := s.home.filter fun e => !l.keys.contains e.1 } := ⟨rfl, rfl, rfl⟩
  hf.trans ((SameControl.foldl (fun s (e : Nat × Byte) => s.dram_sameControl e.1 e.2) _ _).trans (State.askBack_sameControl _ _))

theorem State.useHome_sameControl (s : State) (l : CLine) : SameControl s (s.useHome l) := by
  unfold State.useHome
  dsimp only
  split
  · exact ⟨rfl, rfl, rfl⟩
  · refine SameControl.trans ?_ (State.leaveHome_sameControl _ _)
    exact ⟨rfl, rfl, rfl⟩

theorem State.putHome_sameControl (s : State) (p : Nat) (bs : List Byte) : SameControl s (s.putHome p bs) :=
  (SameControl.foldl (f := fun (s : State) (e : Byte × Nat) => s.setHome 0 (p + e.2) e.1) (fun _ _ => ⟨rfl, rfl, rfl⟩) _ _).trans
    (.foldl State.useHome_sameControl _ _)

/-- The lines of a write at the home stand in the die buffer. -/
theorem State.useLines_home_sameControl (s : State) (m : Map) (va n : Nat) : SameControl s (s.useLines 0 0 m va n 1) := by
  simp only [State.useLines]
  split
  · exact .refl s
  · exact .foldl State.useHome_sameControl _ _

theorem State.mapWrite_sameControl (s : State) (m : Map) (va : Nat) (bs : List Byte) : SameControl s (s.mapWrite m va bs) := by
  refine SameControl.trans (.foldl (fun s e => ?_) _ _) (State.useLines_home_sameControl _ _ _ _)
  split <;> exact ⟨rfl, rfl, rfl⟩

theorem State.clearPoison_sameControl (s : State) (l : List Nat) : SameControl s (s.clearPoison l) := by
  unfold State.clearPoison
  split <;> exact ⟨rfl, rfl, rfl⟩

theorem State.fillDie_sameControl (s : State) (u : Via) (va : Nat) : SameControl s (s.fillDie u va) := by
  unfold State.fillDie
  split
  · exact .refl s
  · split <;> exact ⟨rfl, rfl, rfl⟩

theorem State.updGroup_sameControl (s : State) (i : Gid) (f : Group → Group) : SameControl s (s.updGroup i f) := by
  unfold State.updGroup
  split <;> exact ⟨rfl, rfl, rfl⟩

/-! ### Writes of engine commands -/

theorem State.updCmd_sameControl (s : State) (id : Nat) (f : Cmd → Cmd) : SameControl s (s.updCmd id f) := ⟨rfl, rfl, rfl⟩

theorem State.endCmd_sameControl (s : State) (id status done : Nat) : SameControl s (s.endCmd id status done) := ⟨rfl, rfl, rfl⟩

theorem State.noteRuns_sameControl (s : State) (c : Cmd) (l : List (Nat × Nat)) : SameControl s (s.noteRuns c l) :=
  s.updGroup_sameControl _ _

/-- Marks of the atoms that satisfy a test. -/
theorem State.marks_sameControl {α : Type} (s : State) (l : List α) (bad : α → Bool) (atom : α → Nat) :
    SameControl s (l.foldl (fun (s : State) e => if bad e then s.markPoison (atom e) else s) s) := by
  refine .foldl (fun s e => ?_) l s
  split <;> exact ⟨rfl, rfl, rfl⟩

theorem State.queueFe_sameControl (s : State) (r : FeReq) : SameControl s (s.queueFe r) := ⟨rfl, rfl, rfl⟩

theorem State.engPiece_sameControl (s : State) (c : Cmd) (result : Bool) (m : Map) (va : Nat) (bs : List Marked) :
    SameControl s (s.engPiece c result m va bs) := by
  unfold State.engPiece
  extract_lets s1 s2 s3 s4 s5 full
  have h1 : SameControl s s1 := s.mapWrite_sameControl m va _
  have h2 : SameControl s s2 := h1.trans (s1.noteRuns_sameControl c _)
  have h3 : SameControl s s3 := h2.trans (s2.clearPoison_sameControl _)
  have h4 : SameControl s s4 := h3.trans (s3.marks_sameControl bs.zipIdx (fun e => e.1.2) _)
  have h5 : SameControl s s5 := h4.trans (s4.ask_sameControl _ _ _)
  split
  · exact h1
  · split
    · split
      · exact h5
      · exact h5.trans (s5.queueFe_sameControl _)
    · exact h4

theorem State.markRemote_sameControl (s : State) (launch part dev : Nat) : SameControl s (s.markRemote launch part dev) := by
  unfold State.markRemote
  split <;> exact ⟨rfl, rfl, rfl⟩

theorem State.outstanding_sameControl (s : State) (f : Flit) (r : Remote) : SameControl s (s.outstanding f r) := by
  unfold State.outstanding State.send
  dsimp only
  split <;> exact ⟨rfl, rfl, rfl⟩

theorem State.engRequest_sameControl (s : State) (c : Cmd) (m : Map) (va : Nat) (op : BitVec 6) (payload : List Byte)
    (kind : RemoteKind) : SameControl s (s.engRequest c m va op payload kind) :=
  (s.markRemote_sameControl _ _ _).trans (State.outstanding_sameControl _ _ _)

/-- The flits of a run that lies in another module. -/
theorem State.remoteRun_sameControl (c : Cmd) (m : Map) (kind : RemoteKind) (l : List Nat) (r : State × Nat × List Marked) :
    SameControl r.1 (l.foldl (fun (r : State × Nat × List Marked) _ =>
      if min r.2.2.length (64 - r.2.1 % 64) = 0 then r
      else (r.1.engRequest c m r.2.1 opWrite (writePayload r.2.1 (r.2.2.take (min r.2.2.length (64 - r.2.1 % 64)))) kind,
        r.2.1 + min r.2.2.length (64 - r.2.1 % 64), r.2.2.drop (min r.2.2.length (64 - r.2.1 % 64)))) r).1 := by
  induction l generalizing r with
  | nil => exact .refl r.1
  | cons a l ih =>
    refine SameControl.trans ?_ (ih _)
    dsimp only
    split
    · exact .refl r.1
    · exact r.1.engRequest_sameControl _ _ _ _ _ _

theorem State.writePieces_sameControl (s : State) (c : Cmd) (kind : RemoteKind) (l : List (Map × Nat × Nat)) (bs : List Marked) :
    SameControl s (s.writePieces c kind l bs) := by
  unfold State.writePieces
  suffices h : ∀ e : State × List Marked, SameControl e.1 (l.foldl _ e).1 from h (s, bs)
  intro e
  induction l generalizing e with
  | nil => exact .refl e.1
  | cons x l ih =>
    refine SameControl.trans ?_ (ih _)
    refine (e.1.fillDie_sameControl c.via x.2.1).trans ?_
    dsimp only
    split
    · exact State.engPiece_sameControl _ _ _ _ _ _
    · exact State.remoteRun_sameControl c x.1 kind _ (_, _, _)

theorem State.engWrite_sameControl {s t : State} {c : Cmd} {kind : RemoteKind} {va : Nat} {bs : List Marked}
    (h : s.engWrite c kind va bs = some t) : SameControl s t := by
  obtain ⟨l, -, rfl⟩ := Option.map_eq_some_iff.1 h
  exact s.writePieces_sameControl c kind l bs

theorem State.deliver_sameControl {s t : State} {c : Cmd} {dls : Bool} {dest : Nat} {bs : List Marked}
    (h : s.deliver c dls dest bs = some t) : SameControl s t := by
  unfold State.deliver at h
  split at h
  · cases h; exact ⟨rfl, rfl, rfl⟩
  · exact State.engWrite_sameControl h

/-! ### Commands at an element boundary -/

theorem State.nextElem_sameControl (s : State) (id : Nat) (bad : Bool) : SameControl s (s.nextElem id bad) := by
  unfold State.nextElem
  split
  · exact .refl s
  · dsimp only; split <;> exact ⟨rfl, rfl, rfl⟩

theorem State.updAccs_sameControl (s : State) (k : Nat × Nat) (f : List AccEntry → List AccEntry) : SameControl s (s.updAccs k f) :=
  ⟨rfl, rfl, rfl⟩

theorem State.dropAccs_sameControl (s : State) (c : Cmd) (g : Geo) (e : Nat) : SameControl s (s.dropAccs c g e) := ⟨rfl, rfl, rfl⟩

theorem State.putResults_sameControl {s t : State} {c : Cmd} {mv : Mvec} {e : Nat} {ys : List AccEntry}
    (h : s.putResults c mv e ys = some t) : SameControl s t := by
  unfold State.putResults at h
  dsimp only at h
  suffices hf : ∀ (l : List Nat) (o : Option State) (g : Nat → State → Option State),
      (∀ v u w, g v u = some w → SameControl u w) → (∀ u, o = some u → SameControl s u) →
      ∀ u, l.foldl (fun (a : Option State) v => a.bind (g v)) o = some u → SameControl s u from
    hf _ _ _ (fun _ _ _ h => State.deliver_sameControl h) (fun u hu => by cases hu; exact .refl s) t h
  intro l
  induction l with
  | nil => exact fun _ _ _ ho => ho
  | cons v l ih =>
    refine fun o g hg ho => ih _ g hg fun u hu => ?_
    obtain ⟨w, hw, hu⟩ := Option.bind_eq_some_iff.1 hu
    exact (ho w hw).trans (hg v w u hu)

theorem State.endSquare_sameControl (s : State) (c : Cmd) (mv : Mvec) : SameControl s (s.endSquare c mv) := by
  unfold State.endSquare
  dsimp only
  split
  · exact (s.dropAccs_sameControl _ _ _).trans (State.endCmd_sameControl _ _ _ _)
  · split
    · exact ((s.dropAccs_sameControl _ _ _).trans (State.updAccs_sameControl _ _ _)).trans (State.nextElem_sameControl _ _ _)
    · split
      · exact (s.dropAccs_sameControl _ _ _).trans (State.endCmd_sameControl _ _ _ _)
      · next h =>
        exact ((s.dropAccs_sameControl _ _ _).trans (State.putResults_sameControl h)).trans (State.nextElem_sameControl _ _ _)

theorem State.stopMvec_sameControl (s : State) (c : Cmd) : SameControl s (s.stopMvec c) := by
  unfold State.stopMvec
  split
  · exact .refl s
  · next mv _ =>
    dsimp only
    have hs : SameControl s (if c.asked then s.endSquare c mv else s) := by
      split
      · exact s.endSquare_sameControl c mv
      · exact .refl s
    split
    · exact hs
    · split
      · exact hs
      · refine (hs.trans (.foldl (fun u v => ?_) _ _)).trans
          ((State.dropAccs_sameControl _ _ _ _).trans (State.updCmd_sameControl _ _ _))
        split
        · exact .refl u
        · exact .getD fun t h => State.engWrite_sameControl h

theorem State.setFip_sameControl (s : State) (part idx : Nat) (b : Bool) : SameControl s (s.setFip part idx b) := by
  unfold State.setFip
  split
  · exact .refl s
  · exact s.putHome_sameControl _ _

theorem State.endFold_sameControl (s : State) (c : Cmd) (status done : Nat) : SameControl s (s.endFold c status done) := by
  refine SameControl.trans ?_ (State.endCmd_sameControl _ _ _ _)
  split
  · exact s.setFip_sameControl _ _ _
  · exact .refl s

theorem State.putSquare_sameControl (s : State) (c : Cmd) (d : ET) (g : Geo) (sq : Nat) (cells : List (Nat × Nat × Bool)) :
    SameControl s (s.putSquare c d g sq cells) :=
  (SameControl.foldl (fun (s : State) (e : Nat × Nat × Bool) => s.putHome_sameControl e.1 _) cells s).trans
    ((State.clearPoison_sameControl _ _).trans
      ((State.marks_sameControl _ cells (fun e => e.2.2) (fun e => atomOf e.1)).trans
        ((State.noteRuns_sameControl _ _ _).trans (State.ask_sameControl _ _ _ _))))

theorem State.foldStep_sameControl (s : State) (c : Cmd) (l : AccList) (f g : Geo) (d : ET) :
    SameControl s (s.foldStep c l f g d) := by
  unfold State.foldStep
  split
  · exact s.endFold_sameControl _ _ _
  · split
    · exact (s.updCmd_sameControl _ _).trans (State.ask_sameControl _ _ _ _)
    · exact (s.putSquare_sameControl _ _ _ _ _).trans (State.updCmd_sameControl _ _ _)

theorem State.runFold_sameControl (s : State) (id : Nat) : SameControl s (s.runFold id) := by
  unfold State.runFold
  split
  · exact .refl s
  · split
    · exact .refl s
    · split
      · split
        · split
          · exact s.endCmd_sameControl _ _ _
          · split
            · exact s.endFold_sameControl _ _ _
            · split
              · exact (s.setFip_sameControl _ _ _).trans (State.updCmd_sameControl _ _ _)
              · exact s.foldStep_sameControl _ _ _ _ _
        · exact s.endFold_sameControl _ _ _
      · exact s.endFold_sameControl _ _ _

theorem State.toBoundary_sameControl (s : State) (c : Cmd) : SameControl s (s.toBoundary c) := by
  unfold State.toBoundary
  split
  · exact s.stopMvec_sameControl c
  · split
    · exact s.runFold_sameControl _
    · exact s.updCmd_sameControl _ _

theorem State.dropWaiting_sameControl (s : State) (id : Nat) : SameControl s (s.dropWaiting id) := ⟨rfl, rfl, rfl⟩

theorem State.stopCmd_sameControl (s : State) (id : Nat) : SameControl s (s.stopCmd id) := by
  unfold State.stopCmd
  split
  · exact .refl s
  · split
    · exact .refl s
    · exact ((s.dropWaiting_sameControl id).trans (State.toBoundary_sameControl _ _)).trans (State.updCmd_sameControl _ _ _)

/-! ### Stopping groups -/

/-- What stopping groups does at most: the controller, the security state and the partitions stay, and device memory stays
where no engine command is open (a command that stops completes its element, R91). -/
structure Stops (s t : State) : Prop extends SameControl s t where
  idle : s.eng.cmds = [] → t.eng.cmds = [] ∧ t.mem = s.mem

theorem Stops.refl (s : State) : Stops s s := ⟨.refl s, fun h => ⟨h, rfl⟩⟩

theorem Stops.trans {s t u : State} (h1 : Stops s t) (h2 : Stops t u) : Stops s u := by
  refine ⟨h1.toSameControl.trans h2.toSameControl, fun hs => ?_⟩
  obtain ⟨ht, hm1⟩ := h1.idle hs
  obtain ⟨hu, hm2⟩ := h2.idle ht
  exact ⟨hu, hm2.trans hm1⟩

theorem Stops.foldl {α : Type} {f : State → α → State} (hf : ∀ s a, Stops s (f s a)) (l : List α) (s : State) :
    Stops s (l.foldl f s) := by
  induction l generalizing s with
  | nil => exact .refl s
  | cons a l ih => exact (hf s a).trans (ih _)

theorem Stops.mem {s t : State} (h : Stops s t) (hs : s.eng.cmds = []) : t.mem = s.mem := (h.idle hs).2

/-- A change of the engines that leaves the open commands. -/
theorem Stops.eng {s : State} {e : Engines} (h : e.cmds = s.eng.cmds) : Stops s { s with eng := e } :=
  ⟨⟨rfl, rfl, rfl⟩, fun hs => ⟨h.trans hs, rfl⟩⟩

theorem State.updGroup_stops (s : State) (i : Gid) (f : Group → Group) : Stops s (s.updGroup i f) := by
  unfold State.updGroup
  split <;> exact ⟨⟨rfl, rfl, rfl⟩, fun h => ⟨h, rfl⟩⟩

theorem State.dropLdfe_stops (s : State) (g : Gid) : Stops s (s.dropLdfe g) := by
  refine .foldl (fun s id => ?_) _ s
  have h : Stops s { s with eng := { s.eng with ops := Tab.erase id s.eng.ops } } := .eng rfl
  exact h.trans (State.updGroup_stops _ _ _)

theorem State.dropLatch_stops (s : State) (g : Gid) : Stops s (s.dropLatch g) := by
  unfold State.dropLatch
  split
  · have h : Stops s { s with eng := { s.eng with latch := s.eng.latch.filter fun m => m.g != g } } := .eng rfl
    exact h.trans (State.updGroup_stops _ _ _)
  · exact .refl s

theorem State.stopCmds_stops (s : State) (g : Gid) : Stops s (s.stopCmds g) := by
  refine ⟨.foldl (fun s id => s.stopCmd_sameControl id) _ s, fun h => ?_⟩
  simp only [State.stopCmds, h, List.filter_nil, List.map_nil, List.foldl_nil, and_self]

theorem State.focus_stops (s : State) (i : Gid) : Stops s (s.focus i) := by
  unfold State.focus
  split
  · exact .refl s
  · split <;> exact ⟨⟨rfl, rfl, rfl⟩, fun h => ⟨h, rfl⟩⟩

theorem State.closeBlock_stops (s : State) : Stops s s.closeBlock := by
  unfold State.closeBlock
  dsimp only
  split
  · exact .refl s
  · split <;> exact ⟨⟨rfl, rfl, rfl⟩, fun h => ⟨h, rfl⟩⟩

theorem State.stopGroup_stops (s : State) (g : Gid) : Stops s (s.stopGroup g) := by
  have hc : Stops s (((s.dropLdfe g).dropLatch g).stopCmds g) :=
    (s.dropLdfe_stops g).trans ((State.dropLatch_stops _ g).trans (State.stopCmds_stops _ g))
  unfold State.stopGroup
  extract_lets s1 e s2 keep s3 s4
  have h2 : Stops s1 s2 := .eng rfl
  have h3 : Stops s s3 := (hc.trans h2).trans (s2.updGroup_stops g _)
  split
  · exact h3.trans ((s3.focus_stops g).trans s4.closeBlock_stops)
  · exact h3

theorem State.preempt_stops (s : State) (i : Gid) : Stops s (s.preempt i) := by
  unfold State.preempt
  split
  · exact .refl s
  · split
    · exact .refl s
    · refine .foldl (fun s j => ?_) _ s
      split
      · split
        · exact .refl s
        · exact s.stopGroup_stops j
      · exact .refl s

theorem State.void_stops (s : State) (seq : Nat) : Stops s (s.void seq) := by
  unfold State.void
  split
  · exact .refl s
  · split
    · exact ⟨⟨rfl, rfl, rfl⟩, fun h => ⟨h, rfl⟩⟩
    · exact .refl s

theorem State.preemptAll_stops (s : State) : Stops s s.preemptAll := .foldl (fun s i => s.preempt_stops i) _ s

theorem State.voidOn_stops (s : State) (on : Nat → Nat → Bool) : Stops s (s.voidOn on) :=
  .foldl (fun s (e : Nat × Launch) => s.void_stops e.1) _ s

theorem State.startDrain_stops (s : State) (die core : Nat) : Stops s (s.startDrain die core) :=
  (s.voidOn_stops _).trans (.foldl (fun s i => s.preempt_stops i) _ _)

end Sys2Proof.Machine
end

section
/-!
SUPPORT. How a mailbox command runs (R121, R122): one rule for a command that is answered without effect, one for a command with an
effect, and the test of the operand bytes.
-/

namespace Sys2Proof.Machine

open Sys2Proof

theorem State.operands_length (s : State) (m : Mcmd) : (s.operands m).length = 1984 := by
  rw [State.operands, List.length_take, List.length_append, List.length_replicate]
  exact min_eq_left (Nat.le_add_left _ _)

/-- The test of the unnamed operand bytes is the predicate of R122. -/
theorem State.onlyNamed_iff {s : State} {m : Mcmd} {f : Nat → Bool} {P : Nat → Prop} (h : ∀ n, f n = true ↔ P n) :
    onlyNamed (s.operands m) f = true ↔ s.Named0 m P := by
  have hb : ∀ b : Byte, b == 0 ↔ b.toNat = 0 := fun b => by rw [beq_iff_eq, ← BitVec.toNat_inj]; rfl
  simp only [onlyNamed, State.Named0, List.all_eq_true, Prod.forall, List.mk_mem_zipIdx_iff_getElem?, Bool.or_eq_true, h, hb,
    opByte, List.getD_eq_getElem?_getD]
  constructor
  · intro ha n hn hp
    have hl : n < (s.operands m).length := by rw [s.operands_length m]; exact hn
    rw [List.getElem?_eq_getElem hl]
    exact (ha _ n (List.getElem?_eq_getElem hl)).resolve_left hp
  · intro ha b n hn
    have hl : n < 1984 := by
      rw [← s.operands_length m]
      exact (List.getElem?_eq_some_iff.1 hn).1
    refine or_iff_not_imp_left.2 fun hp => ?_
    simpa [hn] using ha n hl hp

theorem State.not_onlyNamed {s : State} {m : Mcmd} {f : Nat → Bool} {P : Nat → Prop} (h : ∀ n, f n = true ↔ P n)
    (hn : ¬s.Named0 m P) : ¬onlyNamed (s.operands m) f = true := mt (State.onlyNamed_iff h).1 hn

theorem State.onlyNamed_eq_false {s : State} {m : Mcmd} {f : Nat → Bool} {P : Nat → Prop} (h : ∀ n, f n = true ↔ P n)
    (hn : ¬s.Named0 m P) : onlyNamed (s.operands m) f = false := Bool.eq_false_iff.2 (State.not_onlyNamed h hn)

section
variable {s : State} {m : Mcmd} {f : Nat → Bool} {P : Nat → Prop} {a : Bool}

/-- A refusal by an operand or by an unnamed byte. -/
theorem State.malformed_of (h : ∀ n, f n = true ↔ P n) (hm : a = true ∨ ¬s.Named0 m P) :
    (a || !onlyNamed (s.operands m) f) = true := by
  obtain ha | hn := hm
  · rw [ha, Bool.true_or]
  · rw [State.onlyNamed_eq_false h hn, Bool.not_false, Bool.or_true]

theorem State.not_malformed (h : ∀ n, f n = true ↔ P n) (ha : a = false) (hn : s.Named0 m P) :
    ¬(a || !onlyNamed (s.operands m) f) = true := by
  rw [ha, (State.onlyNamed_iff h).2 hn]
  exact Bool.false_ne_true

end

theorem State.refusal_of_accepts {s : State} {m : Mcmd} {c : CmdClass} (h : s.Accepts m c) : s.refusal m c = none := by
  obtain ⟨-, hm, hb, hl, hp⟩ := h
  have h1 : (s.sec.bootFailed && c != .attest) = false := by
    cases hf : s.sec.bootFailed with
    | false => rfl
    | true => simp [hb hf]
  have h2 : (s.sec.state == .locked && c != .attest && c != .reset) = false := by
    by_cases hs : s.sec.state = .locked
    · obtain rfl | rfl := hl hs <;> simp
    · simp [hs]
  have h3 : (c == .partition && !s.sec.attestedOnce) = false ∧ (c == .partition && !s.clock.open_) = false := by
    by_cases hc : c = .partition
    · simp [hp hc]
    · simp [hc]
  simp [State.refusal, hm, h1, h2, h3]

/-- An accepted command runs on its operands. -/
theorem State.command_of_accepts {s : State} {m : Mcmd} {c : CmdClass} (h : s.Accepts m c) (run : List Byte → State → Reply) :
    s.command m c run = (run (s.operands m) s).2.2.startReply m (run (s.operands m) s).1 (run (s.operands m) s).2.1 := by
  simp [State.command, h.1, State.refusal_of_accepts h]

section
variable {i : Instr} {s t : State} {m : Mcmd} {c : CmdClass} {run : List Byte → State → Reply} {code : Nat} {result : List Byte}

/-- A command that answers a code and leaves the state. -/
theorem turned_of_run (hx : exec i s = .next (s.command m c run)) (ha : s.Accepts m c)
    (hr : run (s.operands m) s = (code, [], s)) : Turned i s m code := by
  rw [Turned, hx, State.command_of_accepts ha, hr]; rfl

/-- A command that answers a code and a result, with an effect. -/
theorem replies_of_run {P : State → Prop} (hx : exec i s = .next (s.command m c run)) (ha : s.Accepts m c)
    (hr : run (s.operands m) s = (code, result, t)) (hp : P (t.startReply m code result)) : Replies i s m code result P := by
  exact ⟨_, hx.trans (by rw [State.command_of_accepts ha, hr]), rfl, hp⟩

end

section
variable {s : State} {m : Mcmd} {f : Nat → Bool} {P : Nat → Prop} {run : Nat → Reply}

/-- A command on a partition that exists. -/
theorem State.onPart_of (h : ∀ n, (n = 0 || f n) = true ↔ P n)
    (he : (Tab.get? (opByte (s.operands m) 0) s.parts).isSome = true) (hn : s.Named0 m P) :
    s.onPart (s.operands m) f run = run (opByte (s.operands m) 0) :=
  if_pos (Bool.and_eq_true_iff.2 ⟨he, (State.onlyNamed_iff h).2 hn⟩)

/-- A command on a partition that does not exist, or with an unnamed byte set. -/
theorem State.onPart_not (h : ∀ n, (n = 0 || f n) = true ↔ P n)
    (hn : ¬(Tab.get? (opByte (s.operands m) 0) s.parts).isSome = true ∨ ¬s.Named0 m P) :
    s.onPart (s.operands m) f run = (2, [], s) := by
  refine if_neg fun hc => ?_
  obtain ⟨he, ho⟩ := Bool.and_eq_true_iff.1 hc
  exact hn.elim (· he) (· ((State.onlyNamed_iff h).1 ho))

end

end Sys2Proof.Machine
end

section
/-!
SUPPORT. What the security commands and the alarms change: voided launches and held doorbells, alarms under each policy, and the
end of a debug grant (R124, R129, R138, R139).
-/

namespace Sys2Proof.Machine

open Sys2Proof

/-! ### Tables -/

theorem Tab.mem_of_get? {α : Type} {k : Nat} {x : α} {l : Tab α} (h : Tab.get? k l = some x) : (k, x) ∈ l := by
  induction l with
  | nil => cases h
  | cons e l ih =>
    obtain ⟨i, y⟩ := e
    rw [Tab.get?] at h
    split at h
    · next hk => cases h; subst hk; exact List.mem_cons_self
    · exact List.mem_cons_of_mem _ (ih h)

/-- A table whose every entry changes as its key and value say. -/
theorem Tab.get?_map {α β : Type} (f : Nat → α → β) (k : Nat) (l : Tab α) :
    Tab.get? k (l.map fun e => (e.1, f e.1 e.2)) = (Tab.get? k l).map (f k) := by
  induction l with
  | nil => rfl
  | cons e l ih =>
    obtain ⟨i, y⟩ := e
    simp only [List.map_cons, Tab.get?]
    split
    · next h => subst h; rfl
    · exact ih

/-! ### Voided launches and held doorbells -/

/-- `t` is `s` but for the launches and the host side. -/
structure AtHost (s t : State) : Prop where
  eq : t = { s with launches := t.launches, host := t.host }

theorem AtHost.refl (s : State) : AtHost s s := ⟨rfl⟩

theorem AtHost.trans {s t u : State} (h1 : AtHost s t) (h2 : AtHost t u) : AtHost s u := by
  constructor
  conv_lhs => rw [h2.eq]
  conv_lhs => rw [h1.eq]

theorem AtHost.foldl {α : Type} {f : State → α → State} (hf : ∀ s a, AtHost s (f s a)) (l : List α) (s : State) :
    AtHost s (l.foldl f s) := by
  induction l generalizing s with
  | nil => exact .refl s
  | cons a l ih => exact (hf s a).trans (ih _)

/-- What voiding can do: nothing, or the mark and its report (R154). -/
theorem State.void_cases (s : State) (q : Nat) :
    s.void q = s ∨ s.void q = (s.updLaunch q fun l => { l with voided := true }).report (.voided q) := by
  unfold State.void
  split
  · exact .inl rfl
  · split
    · exact .inr rfl
    · exact .inl rfl

theorem State.void_atHost (s : State) (q : Nat) : AtHost s (s.void q) := by
  obtain h | h := s.void_cases q <;> rw [h] <;> exact ⟨rfl⟩

theorem State.launch?_voidMark (s : State) (j q : Nat) :
    ((s.updLaunch j fun l => { l with voided := true }).report (.voided j)).launch? q =
      if q = j then (s.launch? q).map (fun l => { l with voided := true }) else s.launch? q :=
  Tab.get?_update j q (fun l : Launch => { l with voided := true }) s.launches

/-- Voiding keeps every property of a launch that the mark does not undo. -/
theorem State.void_launch {s : State} {q : Nat} {P : Launch → Prop} (hP : ∀ l, P l → P { l with voided := true }) (j : Nat)
    (h : ∃ y, s.launch? q = some y ∧ P y) : ∃ y, (s.void j).launch? q = some y ∧ P y := by
  obtain ⟨y, hy, hp⟩ := h
  obtain hv | hv := s.void_cases j <;> rw [hv]
  · exact ⟨y, hy, hp⟩
  · rw [s.launch?_voidMark, hy]
    split
    · exact ⟨_, rfl, hP y hp⟩
    · exact ⟨y, rfl, hp⟩

/-- A guaranteed launch is voided. -/
theorem State.void_self {s : State} {q : Nat} (h : ∃ y, s.launch? q = some y ∧ y.p.cls = 0) :
    ∃ z, (s.void q).launch? q = some z ∧ z.voided = true := by
  obtain ⟨y, hy, hc⟩ := h
  cases hv : y.voided with
  | true => exact State.void_launch (fun _ _ => rfl) q ⟨y, hy, hv⟩
  | false =>
    have he : s.void q = (s.updLaunch q fun l => { l with voided := true }).report (.voided q) := by
      simp [State.void, hy, hc, hv]
    rw [he, s.launch?_voidMark, if_pos rfl, hy]
    exact ⟨_, rfl, rfl⟩

theorem State.voids_keep_voided {q : Nat} (l : List Nat) {s : State} (h : ∃ z, s.launch? q = some z ∧ z.voided = true) :
    ∃ z, (l.foldl (fun s q => s.void q) s).launch? q = some z ∧ z.voided = true := by
  induction l generalizing s with
  | nil => exact h
  | cons j l ih => exact ih (State.void_launch (fun _ _ => rfl) j h)

theorem State.voids_voided {l : List Nat} {s : State} {q : Nat} (hq : q ∈ l) (h : ∃ y, s.launch? q = some y ∧ y.p.cls = 0) :
    ∃ z, (l.foldl (fun s q => s.void q) s).launch? q = some z ∧ z.voided = true := by
  induction l generalizing s with
  | nil => cases hq
  | cons j l ih =>
    obtain rfl | hq := List.mem_cons.1 hq
    · exact State.voids_keep_voided l (State.void_self h)
    · exact ih hq (State.void_launch (fun _ h => h) j h)

/-- A doorbell changes the host side alone. -/
theorem State.doorbell_eq (s : State) (vf offset : Nat) (value : Word) :
    s.doorbell vf offset value = { s with host := (s.doorbell vf offset value).host } := by
  have ht : ∀ c x t, s.newTail c x t = { s with host := (s.newTail c x t).host } := by
    intro c x t
    unfold State.newTail
    split
    · rfl
    · split <;> rfl
  unfold State.doorbell
  split
  · rfl
  · split
    · rfl
    · split
      · rfl
      · split
        · rfl
        · split
          · rfl
          · exact ht _ _ _

theorem State.doorbell_launches (s : State) (vf offset : Nat) (value : Word) :
    (s.doorbell vf offset value).launches = s.launches := by
  rw [s.doorbell_eq]

theorem State.releaseDoorbells_atHost (s : State) : AtHost s s.releaseDoorbells :=
  AtHost.trans (t := { s with host := { s.host with heldDoorbells := [] } }) ⟨rfl⟩
    (.foldl (fun u (d : Nat × Nat × Word) => ⟨by rw [u.doorbell_eq]⟩) _ _)

theorem State.releaseDoorbells_launches (s : State) : s.releaseDoorbells.launches = s.launches := by
  suffices h : ∀ (l : List (Nat × Nat × Word)) (u : State),
      (l.foldl (fun u d => u.doorbell d.1 d.2.1 d.2.2) u).launches = u.launches from h _ _
  intro l
  induction l with
  | nil => exact fun _ => rfl
  | cons d l ih => exact fun u => (ih (u.doorbell d.1 d.2.1 d.2.2)).trans (u.doorbell_launches _ _ _)

/-! ### Alarms (R138, R139) -/

theorem State.alarms_report {s : State} {k : Nat} (h : s.policyOf k = .report) :
    s.alarms [k] = (({ s with sec := s.sec.dropUpdate } : State).logPf (.alarm k)).msix 512 0 := by
  have hp : ({ s with sec := s.sec.dropUpdate } : State).policyOf k = .report := h
  simp [State.alarms, hp, strongest]

theorem State.alarms_halt {s : State} {k : Nat} (h : s.policyOf k = .halt) :
    s.alarms [k] = ({ s with sec := s.sec.dropUpdate } : State).halt := by
  have hp : ({ s with sec := s.sec.dropUpdate } : State).policyOf k = .halt := h
  simp [State.alarms, hp, strongest]

theorem State.alarms_erase {s : State} {k : Nat} (h : s.policyOf k = .erase) :
    s.alarms [k] = ({ s with sec := s.sec.dropUpdate } : State).eraseAll := by
  have hp : ({ s with sec := s.sec.dropUpdate } : State).policyOf k = .erase := h
  simp [State.alarms, hp, strongest]

theorem State.halt_state (s : State) (h : s.sec.state = .booted ∨ s.sec.state = .attested) : s.halt.sec.state = .halted ∧
    Stops { s with sec := { s.sec with state := .halted } } s.halt := by
  have hs : Stops { s with sec := { s.sec with state := .halted } } s.halt := by
    obtain h | h := h <;> simp only [State.halt, h] <;>
      exact (State.preemptAll_stops _).trans (.foldl (fun u (e : Nat × Launch) => u.void_stops e.1) _ _)
  exact ⟨congrArg Sec.state hs.sec, hs⟩

/-- Halting leaves the partitions and, of the security state, all but the state of the module. -/
theorem State.halt_stops (s : State) : Stops { s with sec := { s.sec with state := s.halt.sec.state } } s.halt := by
  by_cases h : s.sec.state = .booted ∨ s.sec.state = .attested
  · obtain ⟨he, hs⟩ := s.halt_state h
    rw [he]; exact hs
  · have he : s.halt = s := by
      cases hc : s.sec.state with
      | booted => exact absurd (.inl hc) h
      | attested => exact absurd (.inr hc) h
      | halted => simp only [State.halt, hc]
      | locked => simp only [State.halt, hc]
    rw [he]; exact .refl s

/-- Erasing locks the module, and no partition has a key. -/
theorem State.eraseAll_spec {s : State} (h : s.sec.state ≠ .locked) :
    s.eraseAll.sec = { s.sec with state := .locked, sessions := [] } ∧ (∀ e ∈ s.eraseAll.parts, e.2.key = none) ∧
    (∀ p, (s.eraseAll.part p).debug = (s.part p).debug) ∧ s.eraseAll.mem = s.mem := by
  have he : s.eraseAll = { s with
      parts := s.parts.map fun (e : Nat × Part) => (e.1, { e.2 with key := none, dry := .erased })
      ctl := { s.ctl with subst := [], remapQueue := [], remapping := none }
      sec := { s.sec with state := .locked, sessions := [] } } := by
    cases hc : s.sec.state with
    | locked => exact absurd hc h
    | booted | attested | halted => simp only [State.eraseAll, hc]
  rw [he]
  refine ⟨rfl, fun e hm => ?_, fun p => ?_, rfl⟩
  · obtain ⟨e, -, rfl⟩ := List.mem_map.1 hm; rfl
  · have hp := Tab.get?_map (fun _ (q : Part) => { q with key := none, dry := .erased }) p s.parts
    refine congrArg (fun o : Option Part => (o.getD Part.empty).debug) hp |>.trans ?_
    cases h : Tab.get? p s.parts <;> simp [State.part, Tab.getD, h]

/-! ### Debug grants (R124) -/

theorem State.endDebug_debug (s : State) (p : Nat) : ((s.endDebug p).part p).debug = false := by
  have h : (s.endDebug p).part p = { s.part p with debug := false } := (s.part_setPart p p _).trans (if_pos rfl)
  rw [h]

/-- Single step ends for every resident group of the partition. -/
theorem State.endDebug_step (s : State) (p : Nat) : ∀ g ∈ (s.endDebug p).groups, g.part = p → g.dbg.getLsbD 8 = false := by
  have h : ∀ g : Group, (if g.part == p then { g with dbg := g.dbg &&& ~~~(0x100 : Word) } else g).part = p →
      (if g.part == p then { g with dbg := g.dbg &&& ~~~(0x100 : Word) } else g).dbg.getLsbD 8 = false := by
    intro g
    split
    · intro _; simp
    · next hp => exact fun he => absurd (beq_iff_eq.2 he) hp
  intro g hg
  have hm : g ∈ (s.endDebug p).cur :: (s.endDebug p).rest := by
    rw [State.groups] at hg
    split at hg
    · exact hg
    · exact List.mem_cons_of_mem _ hg
  obtain rfl | hm := List.mem_cons.1 hm
  · exact h s.cur
  · obtain ⟨x, -, rfl⟩ := List.mem_map.1 hm
    exact h x

/-- A core whose comparators are disabled: EN is clear in each (R204). -/
def Core.noBreaks (x : Core) : Core := { x with bpc := x.bpc.map fun b => (b.1, b.2 &&& ~~~((1 : Word) <<< 63)) }

theorem Core.noBreaks_bpc (x : Core) (k : Nat) : (Tab.getD x.noBreaks.bpc k 0).getLsbD 63 = false := by
  have h : Tab.get? k x.noBreaks.bpc = (Tab.get? k x.bpc).map fun w => w &&& ~~~((1 : Word) <<< 63) :=
    Tab.get?_map (fun _ w => w &&& ~~~((1 : Word) <<< 63)) k x.bpc
  rw [Tab.getD, h]
  cases Tab.get? k x.bpc <;> simp

/-- The comparators of the partition's cores are disabled. -/
theorem State.endDebug_core (s : State) (p : Nat) {c : CoreId} (hc : c ∈ (s.part p).cores) :
    (s.endDebug p).core c.die c.core = (s.core c.die c.core).noBreaks := by
  have hk : ((s.part p).cores.map fun c => coreKey c.die c.core).contains (coreKey c.die c.core) = true :=
    List.contains_iff_mem.2 (List.mem_map_of_mem hc)
  have he : (s.endDebug p).cores = s.cores.map fun e => (e.1,
      if ((s.part p).cores.map fun c => coreKey c.die c.core).contains e.1 then e.2.noBreaks else e.2) := by
    refine List.map_congr_left fun e _ => ?_
    dsimp only
    split <;> rfl
  have hg := Tab.get?_map (fun n (x : Core) => if ((s.part p).cores.map fun c => coreKey c.die c.core).contains n then
    x.noBreaks else x) (coreKey c.die c.core) s.cores
  rw [State.core, he, Tab.getD, hg, State.core, Tab.getD]
  cases Tab.get? (coreKey c.die c.core) s.cores with
  | none => rfl
  | some x => simp only [Option.map_some, Option.getD_some, hk, if_true]

end Sys2Proof.Machine
end

section
/-!
SUPPORT. What ATTEST, the firmware commands and the repairs change (R21, R22, R55, R134-R136).
-/

namespace Sys2Proof.Machine

open Sys2Proof

/-! ### The report of ATTEST (R135) -/

theorem leNat_lt (l : List Byte) : leNat l < 256 ^ l.length := by
  induction l with
  | nil => exact Nat.one_pos
  | cons b l ih =>
    have hb := b.isLt
    rw [leNat, List.length_cons, Nat.pow_succ]
    omega

theorem opNat_lt (l : List Byte) (i n : Nat) : opNat l i n < 256 ^ n :=
  (leNat_lt _).trans_le (Nat.pow_le_pow_right (by decide) (List.length_take_le _ _))

/-- A word is below its power of two, at a width that is never evaluated. -/
theorem toNat_lt_pow {w : Nat} (x : BitVec w) : x.toNat < 2 ^ w := x.isLt

theorem testBit_eq_field (r i : Nat) : r.testBit i = decide (field r i 1 = 1) := by
  rw [Nat.testBit_eq_decide_div_mod_eq, field, Nat.pow_one]

/-- Bytes that hold a number read it back. -/
theorem leNat_leBytes_of_lt {n w x : Nat} (hw : w = 8 * n) (h : x < 2 ^ w) : leNat (leBytes n x) = x := by
  have hp : 256 ^ n = 2 ^ w := by rw [hw, Nat.pow_mul]
  rw [leNat_leBytes, hp]
  exact Nat.mod_eq_of_lt h

/-- The report holds its fields. -/
theorem report_fields (nonce devid runB state svn serial ctl dev parts : Nat) (h1 : nonce < 2 ^ 256) (h2 : devid < 2 ^ 22)
    (h3 : runB < 2) (h4 : state < 4) (h5 : svn < 2 ^ 8) (h6 : serial < 2 ^ 128) (h7 : ctl < 2 ^ 512) (h8 : dev < 2 ^ 512)
    (h9 : parts < 2 ^ 512) :
    let r := nonce + devid * 2 ^ 320 + runB * 2 ^ 349 + state * 2 ^ 350 + svn * 2 ^ 352 + serial * 2 ^ 384 + ctl * 2 ^ 512
      + dev * 2 ^ 1024 + parts * 2 ^ 1536
    r < 2 ^ 2048 ∧ field r 0 256 = nonce ∧ field r 256 64 = 0 ∧ field r 320 22 = devid ∧ field r 342 7 = 0 ∧
    field r 349 1 = runB ∧ field r 350 2 = state ∧ field r 352 8 = svn ∧ field r 360 24 = 0 ∧ field r 384 128 = serial ∧
    field r 512 512 = ctl ∧ field r 1024 512 = dev := by
  unfold field
  repeat' apply And.intro
  all_goals omega

/-- The bytes of a report, as the record of R135. -/
theorem State.report256_fields (s : State) {nonce : Nat} (h : nonce < 2 ^ 256) :
    let r := leNat (s.report256 nonce)
    field r 0 256 = nonce ∧ field r 256 64 = 0 ∧ field r 320 22 = s.fabric.devid.toNat ∧ field r 342 7 = 0 ∧
    r.testBit 349 = s.sec.ctlFw.runB ∧ field r 352 8 = min s.sec.ctlFw.running.svn s.sec.devFw.running.svn % 256 ∧
    field r 360 24 = 0 ∧ field r 350 2 = s.sec.state.code ∧ field r 384 128 = Config.serial.toNat ∧
    field r 512 512 = (Config.sha512 s.sec.ctlFw.running.bytes).toNat ∧
    field r 1024 512 = (Config.sha512 s.sec.devFw.running.bytes).toNat := by
  intro r
  have hs : s.sec.state.code < 4 := by cases s.sec.state <;> decide
  have hb : (if s.sec.ctlFw.runB then 2 ^ 349 else 0) = (if s.sec.ctlFw.runB then 1 else 0) * 2 ^ 349 := by
    split
    · exact (Nat.one_mul _).symm
    · exact (Nat.zero_mul _).symm
  obtain ⟨hr, h0, h256, h320, h342, h349, h350, h352, h360, h384, h512, h1024⟩ := report_fields nonce s.fabric.devid.toNat
    (if s.sec.ctlFw.runB then 1 else 0) s.sec.state.code (min s.sec.ctlFw.running.svn s.sec.devFw.running.svn % 2 ^ 8)
    Config.serial.toNat (Config.sha512 s.sec.ctlFw.running.bytes).toNat (Config.sha512 s.sec.devFw.running.bytes).toNat
    (Config.partitionDigest ((s.parts.map fun (e : Nat × Part) => e.1 :: e.2.numbers).flatten)).toNat h
    (toNat_lt_pow _) (by split <;> decide) hs (Nat.mod_lt _ (by decide)) (toNat_lt_pow _) (toNat_lt_pow _) (toNat_lt_pow _)
    (toNat_lt_pow _)
  rw [← hb] at hr h0 h256 h320 h342 h349 h350 h352 h360 h384 h512 h1024
  have he : r = _ := leNat_leBytes_of_lt (n := 256) (w := 2048) rfl hr
  rw [← he] at h0 h256 h320 h342 h349 h350 h352 h360 h384 h512 h1024
  have ht : r.testBit 349 = s.sec.ctlFw.runB := by
    rw [testBit_eq_field, h349]
    cases s.sec.ctlFw.runB <;> rfl
  exact ⟨h0, h256, h320, h342, ht, h352, h360, h350, h384, h512, h1024⟩

theorem State.report256_length (s : State) (nonce : Nat) : (s.report256 nonce).length = 256 := leBytes_length 256 _

theorem State.reportSig_length (s : State) (body : List Byte) : (s.reportSig body).length = 64 := by
  unfold State.reportSig
  split
  · rw [flatten_length 8]
    · simp
    · intro x hx
      obtain ⟨i, -, rfl⟩ := List.mem_map.1 hx
      exact leBytes_length 8 _
  · exact leBytes_length 64 _

/-- Outside LOCKED the report is signed with the identity key. -/
theorem State.reportSig_signed (s : State) (body : List Byte) (h : s.sec.state ≠ .locked) :
    leNat (s.reportSig body) = (Config.identitySign (Config.sha512 body)).toNat := by
  rw [State.reportSig, if_neg (by simpa using h)]
  exact leNat_leBytes_of_lt (w := 512) rfl (toNat_lt_pow _)

/-! ### Firmware (R136) -/

theorem Sec.fw_setFw (c : Sec) (p : Nat) (f : Firmware) : (c.setFw p f).fw p = f := by
  unfold Sec.setFw Sec.fw
  split <;> rfl

theorem Sec.fw_setFw_other (c : Sec) {p : Nat} (h : p ≤ 1) (f : Firmware) : (c.setFw p f).fw (1 - p) = c.fw (1 - p) := by
  obtain rfl | rfl : p = 0 ∨ p = 1 := by omega
  · rfl
  · rfl

/-- A staged image goes into the slot that does not run. -/
theorem Firmware.stage_spec (f : Firmware) (i : Image) (ok : Bool) : (f.stage i ok).a = (if f.runB = true then some i else f.a) ∧
    (f.stage i ok).b = (if f.runB = true then f.b else some i) ∧ (f.stage i ok).runB = f.runB ∧ (f.stage i ok).staged = ok := by
  unfold Firmware.stage
  cases f.runB <;> simp

/-! ### Repairs (R21, R22, R55) -/

/-- A REPAIR command of the right kind, with no unnamed byte set, runs on its target. -/
theorem State.repair_of {s : State} {m : Mcmd} {kind x : Nat} {run : Nat → Reply}
    (hn : s.Named0 m fun n => n = 0 ∨ (8 ≤ n ∧ n < 16)) (hx : opNat (s.operands m) 8 8 = x)
    (hk : opByte (s.operands m) 0 = kind) : s.repair (s.operands m) kind run = run x := by
  have hb := State.not_malformed (f := fun i => i = 0 || (8 ≤ i && i < 16)) (P := fun n => n = 0 ∨ (8 ≤ n ∧ n < 16))
    (by simp) (bne_eq_false_iff_eq.2 hk) hn
  rw [State.repair, if_neg hb, hx]

/-- A core that is being substituted already: the request is ignored. -/
theorem State.substitute_again {s : State} {die core : Nat} {poisoned : Bool}
    (h : (Tab.getD s.ctl.subst die []).any (fun y => y.core == core) = true) : s.substitute die core poisoned = s := by
  simp [State.substitute, h]

/-- The first substitution of a die runs: it is marked so, and its core drains. -/
theorem State.startSubst_first {s : State} {die : Nat} {x : Subst} {l : List Subst} (h : Tab.getD s.ctl.subst die [] = x :: l) :
    Tab.getD (s.startSubst die).ctl.subst die [] = { x with running := true } :: l ∧
    (s.eng.cmds = [] → (s.startSubst die).mem = s.mem) := by
  simp only [State.startSubst, h]
  split
  · next hr => rw [h, ← hr]; exact ⟨rfl, fun _ => rfl⟩
  · have hs := State.startDrain_stops
      { s with ctl := { s.ctl with subst := Tab.set die ({ x with running := true } :: l) s.ctl.subst } } die x.core
    rw [hs.ctl]
    exact ⟨(Tab.getD_set _ _ _ _ _).trans (if_pos rfl), hs.mem⟩

/-- A new request joins the die's queue behind a substitution that runs, or starts at once. -/
theorem State.substitute_new {s : State} {die core : Nat} {poisoned : Bool} (hd : die < 4) (hc : core < 48)
    (hn : (Tab.getD s.ctl.subst die []).any (fun y => y.core == core) = false) (hr : (⟨die, core⟩ : CoreId) ∉ s.ctl.retired)
    (hh : ∀ y, (Tab.getD s.ctl.subst die []).head? = some y → y.running = true) :
    Tab.getD (s.substitute die core poisoned).ctl.subst die [] =
      Tab.getD s.ctl.subst die [] ++ [⟨core, poisoned, (Tab.getD s.ctl.subst die []).isEmpty⟩] ∧
    (s.eng.cmds = [] → (s.substitute die core poisoned).mem = s.mem) := by
  let u : State := { s with ctl := { s.ctl with
      subst := Tab.set die (Tab.getD s.ctl.subst die [] ++ [⟨core, poisoned, false⟩]) s.ctl.subst } }
  have he : s.substitute die core poisoned = u.startSubst die := by simp [State.substitute, hn, hr, hd, hc, u]
  have hq : Tab.getD u.ctl.subst die [] = Tab.getD s.ctl.subst die [] ++ [⟨core, poisoned, false⟩] :=
    (Tab.getD_set _ _ _ _ _).trans (if_pos rfl)
  rw [he]
  cases hl : Tab.getD s.ctl.subst die [] with
  | nil => rw [hl] at hq; exact State.startSubst_first hq
  | cons x l =>
    rw [hl] at hq hh
    obtain ⟨hf, hm⟩ := State.startSubst_first hq
    have hx : { x with running := true } = x := by rw [← hh x rfl]
    exact ⟨hf.trans (by rw [hx]; rfl), hm⟩

/-- The row that the operand of REPAIR_ROW names (R55, R122). -/
def repairedRow (x : Nat) : RowId := ⟨field x 0 4, field x 4 6, field x 10 4, field x 14 16⟩

/-- A bank has no spare row exactly where each of its 32 is in use. -/
theorem State.spareRow_isNone (s : State) (r : RowId) : (s.spareRow r).isNone = true ↔
    ∀ n, n < 32 → ∃ e ∈ (s.stack r.stack).remap, e.row.pc = r.pc ∧ e.row.bank = r.bank ∧ e.spare = n := by
  simp [State.spareRow, State.bankRemaps, List.find?_eq_none, and_assoc]

theorem State.queueRemap_mem (s : State) (r : RowId) : r ∈ (s.queueRemap r).ctl.remapQueue := by
  unfold State.queueRemap
  split
  · next h => exact List.contains_iff_mem.1 h
  · exact List.mem_append_right _ List.mem_cons_self

theorem State.queueRemap_eq (s : State) (r : RowId) : s.queueRemap r = { s with ctl := (s.queueRemap r).ctl } := by
  unfold State.queueRemap
  split <;> rfl

/-- The first failed lane of a port is spared, and the port stays in service (R24). -/
theorem State.failLane_first {s : State} {port lane : Nat} (hp : port < 36) (hl : lane < 4)
    (h : Tab.getD s.fabric.failedLanes port 0 = 0) : s.failLane port lane =
      { s with fabric := { s.fabric with failedLanes := Tab.set port (2 ^ lane) s.fabric.failedLanes } } := by
  have hn : 2 ≠ popCount 4 (2 ^ lane) := by interval_cases lane <;> decide
  simp [State.failLane, h, hp, hl, hn]

end Sys2Proof.Machine
end

section
/-!
O49. The security and repair commands, one theorem per clause of the statement: each is the rule of its command over the laws of the
mailbox, the alarms and the repairs.
-/

namespace Sys2Proof.Machine

open Sys2Proof

/-! ### APOLICY (R138) -/

/-- The policy of a code of R122. -/
def Policy.ofCode (c : Nat) : Policy := if c = 0 then .report else if c = 1 then .halt else .erase

theorem policyCode_eq (c : Nat) : policyCode c = if c ≤ 2 then some (Policy.ofCode c) else none := by
  match c with
  | 0 | 1 | 2 => rfl
  | c + 3 => simp [policyCode]

/-- Voltage and clock may be given HALT or ERASE, debug misuse any policy (R138). -/
theorem policyAllowed_iff {p c : Nat} (hp : p ≤ 4) (hc : c ≤ 2) :
    policyAllowed p (Policy.ofCode c) = true ↔ ((p = 1 ∨ p = 2) ∧ (c = 1 ∨ c = 2)) ∨ p = 4 := by
  interval_cases p <;> interval_cases c <;> decide

section
variable {s : State} {m : Mcmd}

theorem apolicy_malformed (ha : s.Accepts m .other) (h : 2 < opByte (s.operands m) 1 ∨ 4 < opByte (s.operands m) 0 ∨
    ¬s.Named0 m fun n => n < 2) : Turned (.apolicy m) s m 2 := by
  refine turned_of_run rfl ha ?_
  rw [policyCode_eq]
  by_cases hc : opByte (s.operands m) 1 ≤ 2
  · have hb := State.malformed_of (s := s) (m := m) (f := fun i => i < 2) (P := fun n => n < 2)
      (a := 4 < opByte (s.operands m) 0) (by simp) (by simpa [Nat.not_lt.2 hc] using h)
    simp only [hc, if_true, hb]
  · simp only [hc, if_false]

/-- What APOLICY answers to well-formed operands. -/
theorem apolicy_run (hc : opByte (s.operands m) 1 ≤ 2) (hp : opByte (s.operands m) 0 ≤ 4) (hn : s.Named0 m fun n => n < 2) :
    ∃ run, exec (.apolicy m) s = .next (s.command m .other run) ∧ run (s.operands m) s =
      if policyAllowed (opByte (s.operands m) 0) (Policy.ofCode (opByte (s.operands m) 1)) = true then
        (0, [], { s with sec := { s.sec with
          policy := Tab.set (opByte (s.operands m) 0) (Policy.ofCode (opByte (s.operands m) 1)) s.sec.policy } })
      else (5, [], s) := by
  have hb := State.not_malformed (s := s) (m := m) (f := fun i => i < 2) (P := fun n => n < 2)
    (a := 4 < opByte (s.operands m) 0) (by simp) (by simpa using hp) hn
  refine ⟨_, rfl, ?_⟩
  rw [policyCode_eq]
  simp only [hc, if_true, if_neg hb]
  cases policyAllowed (opByte (s.operands m) 0) (Policy.ofCode (opByte (s.operands m) 1)) <;> rfl

/-! ### RESUME, RESET and DBGNONCE (R124, R139) -/

theorem resume_refused (h : s.sec.state ≠ .halted ∨ s.sec.active ≠ []) : s.resume = (4, [], s) := by
  refine if_pos ?_
  obtain h | h := h <;> simp [h]

/-- RESUME of a halted module with no alarm condition: ATTESTED, and every guaranteed launch is voided. -/
theorem resume_halted (hh : s.sec.state = .halted) (ha : s.sec.active = []) : ∃ t, s.resume = (0, [], t) ∧
    t.sec.state = .attested ∧ t.mem = s.mem ∧ t.parts = s.parts ∧ t.cur = s.cur ∧
    ∀ q y, s.launch? q = some y → y.reserves = true → ∃ z, t.launch? q = some z ∧ z.voided = true := by
  let s1 : State := { s with sec := { s.sec with state := .attested } }
  let seqs := (s.launches.filter fun (e : Nat × Launch) => e.2.reserves).map fun e => e.1
  let s2 := seqs.foldl (fun s q => s.void q) s1
  have hat : AtHost s1 s2.releaseDoorbells := (AtHost.foldl (fun s q => s.void_atHost q) seqs s1).trans s2.releaseDoorbells_atHost
  refine ⟨s2.releaseDoorbells, if_neg (by simp [hh, ha]), by rw [hat.eq], by rw [hat.eq], by rw [hat.eq], by rw [hat.eq],
    fun q y hy hr => ?_⟩
  have hq : q ∈ seqs := List.mem_map.2 ⟨(q, y), List.mem_filter.2 ⟨Tab.mem_of_get? hy, hr⟩, rfl⟩
  have hc : y.p.cls = 0 := by
    simp only [Launch.reserves, Bool.and_eq_true, decide_eq_true_eq] at hr
    exact hr.1
  have hv : ∃ z, s2.launch? q = some z ∧ z.voided = true := State.voids_voided hq ⟨y, hy, hc⟩
  rwa [State.launch?, ← s2.releaseDoorbells_launches] at hv

/-- RESUME, RESET and DBGNONCE name no operand byte. -/
theorem onlyNamed_none (hn : s.Named0 m fun _ => False) : onlyNamed (s.operands m) (fun _ => false) = true :=
  (State.onlyNamed_iff (by simp)).2 hn

/-- After a boot of the module no partition exists, nothing is resident, saved or launched, and memory is as before (R139). -/
theorem bootChain_fields (s : State) : s.bootChain.sec.state = .booted ∧ s.bootChain.parts = [] ∧ s.bootChain.groups = [] ∧
    s.bootChain.saved = [] ∧ s.bootChain.launches = [] ∧ s.bootChain.sec.sessions = [] ∧ s.bootChain.mem = s.mem := by
  unfold State.bootChain
  dsimp only
  split <;> exact ⟨rfl, rfl, rfl, rfl, rfl, rfl, rfl⟩

/-! ### Debug grants (R124) -/

/-- The credential that DBGGRANT takes: it verifies with the nonce that stands. -/
def State.Credential (s : State) (p : Nat) (credential : List Byte) : Prop :=
  ∃ n, s.sec.nonce = some n ∧ Config.debugVerifies (credentialMessage p n) credential = true

theorem debugGrant_good {p : Nat} {x : List Byte} (h : s.Credential p x) : ∃ t, s.debugGrant p x = (0, [], t) ∧
    (t.part p).debug = true ∧ t.sec.nonce = none ∧ t.mem = s.mem ∧ t.cur = s.cur := by
  obtain ⟨n, hn, hv⟩ := h
  let u : State := { s with sec := { s.sec with nonce := none } }
  have he : s.debugGrant p x = (0, [], u.setPart p { u.part p with debug := true }) := by
    simp [State.debugGrant, hn, hv, u]
  exact ⟨_, he, by rw [State.part_setPart, if_pos rfl], rfl, rfl, rfl⟩

theorem debugGrant_bad {p : Nat} {x : List Byte} (h : ¬s.Credential p x) :
    s.debugGrant p x = (5, [], ({ s with sec := { s.sec with nonce := none } } : State).alarms [4]) := by
  cases hn : s.sec.nonce with
  | none => simp [State.debugGrant, hn]
  | some n =>
    have hv : Config.debugVerifies (credentialMessage p n) x = false := Bool.eq_false_iff.2 fun hv => h ⟨n, hn, hv⟩
    simp [State.debugGrant, hn, hv]

/-- What the debug-misuse alarm does under each policy (R124, R138, R139). -/
structure Misused (s t : State) (p : Nat) : Prop where
  debug : (t.part p).debug = (s.part p).debug
  nonce : t.sec.nonce = s.sec.nonce
  idle : s.policyOf 4 = .halt → s.eng.cmds = [] → t.mem = s.mem
  mem : s.policyOf 4 ≠ .halt → t.mem = s.mem
  ctl : t.sec.ctlFw.staged = false
  dev : t.sec.devFw.staged = false
  report : s.policyOf 4 = .report → .alarm 4 ∈ t.host.log ∧ t.sec.state = s.sec.state ∧ t.cur = s.cur
  halt : s.policyOf 4 = .halt → (s.sec.state = .booted ∨ s.sec.state = .attested) → t.sec.state = .halted
  erase : s.policyOf 4 = .erase → t.sec.state = .locked ∧ ∀ e ∈ t.parts, e.2.key = none

theorem alarms_misused (p : Nat) (hl : s.sec.state ≠ .locked) : Misused s (s.alarms [4]) p := by
  let u : State := { s with sec := s.sec.dropUpdate }
  have other : ∀ {a b : Policy} {Q : Prop}, s.policyOf 4 = a → a ≠ b → s.policyOf 4 = b → Q := fun ha hn hb =>
    absurd (ha.symm.trans hb) hn
  cases hk : s.policyOf 4 with
  | report =>
    rw [State.alarms_report hk]
    exact {
      debug := rfl, nonce := rfl, ctl := rfl, dev := rfl
      idle := other hk (by decide)
      mem := fun _ => rfl
      report := fun _ => ⟨List.mem_append_right _ List.mem_cons_self, rfl, rfl⟩
      halt := other hk (by decide)
      erase := other hk (by decide) }
  | halt =>
    rw [State.alarms_halt hk]
    have hs := u.halt_stops
    exact {
      debug := congrArg (fun l => (Tab.getD l p Part.empty).debug) hs.parts
      nonce := (congrArg Sec.nonce hs.sec :)
      ctl := congrArg (fun c => c.ctlFw.staged) hs.sec
      dev := congrArg (fun c => c.devFw.staged) hs.sec
      idle := fun _ => hs.mem
      mem := fun h => absurd hk h
      report := other hk (by decide)
      halt := fun _ h => (u.halt_state h).1
      erase := other hk (by decide) }
  | erase =>
    rw [State.alarms_erase hk]
    obtain ⟨hsec, hkey, hdebug, hmem⟩ := State.eraseAll_spec (s := u) hl
    exact {
      debug := hdebug p
      nonce := (congrArg Sec.nonce hsec :)
      ctl := congrArg (fun c => c.ctlFw.staged) hsec
      dev := congrArg (fun c => c.devFw.staged) hsec
      idle := other hk (by decide)
      mem := fun _ => hmem
      report := other hk (by decide)
      halt := other hk (by decide)
      erase := fun _ => ⟨congrArg Sec.state hsec, hkey⟩ }

/-! ### FWSTAGE and FWSWITCH (R134, R136) -/

/-- The image that the operands of FWSTAGE name, as it lies in host memory. -/
def State.imageAt (s : State) (l : List Byte) : Image :=
  ⟨s.host.mem.bytes (opNat l 8 8) (opNat l 16 8), Config.imageSvn (s.host.mem.bytes (opNat l 8 8) (opNat l 16 8))⟩

theorem fwstage_malformed (ha : s.Accepts m .other) (h : 1 < opByte (s.operands m) 0 ∨ 2 ^ 26 < opNat (s.operands m) 16 8 ∨
    ¬s.Named0 m fun n => n = 0 ∨ (8 ≤ n ∧ n < 24)) : Turned (.fwstage m) s m 2 := by
  refine turned_of_run rfl ha (if_pos (State.malformed_of (P := fun n => n = 0 ∨ (8 ≤ n ∧ n < 24)) (by simp) ?_))
  simpa only [Bool.or_eq_true, decide_eq_true_eq, or_assoc] using h

/-- FWSTAGE stages the image and answers whether it passes the check of R134. -/
theorem fwstage_stages (ha : s.Accepts m .other) (hp : opByte (s.operands m) 0 ≤ 1) (hl : opNat (s.operands m) 16 8 ≤ 2 ^ 26)
    (hn : s.Named0 m fun n => n = 0 ∨ (8 ≤ n ∧ n < 24)) : exec (.fwstage m) s = .next (State.startReply
      { s with sec := s.sec.setFw (opByte (s.operands m) 0) ((s.sec.fw (opByte (s.operands m) 0)).stage
        (s.imageAt (s.operands m)) ((s.imageAt (s.operands m)).good s.sec.fusedSvn)) } m
      (if (s.imageAt (s.operands m)).good s.sec.fusedSvn then 0 else 4) []) := by
  have hb := State.not_malformed (s := s) (m := m) (f := fun i => i = 0 || (8 ≤ i && i < 24))
    (P := fun n => n = 0 ∨ (8 ≤ n ∧ n < 24)) (a := 1 < opByte (s.operands m) 0 || 2 ^ 26 < opNat (s.operands m) 16 8)
    (by simp) (by simp only [Nat.not_lt.2 hp, Nat.not_lt.2 hl, decide_false, Bool.or_false]) hn
  refine congrArg Host.Outcome.next ((State.command_of_accepts ha _).trans ?_)
  simp only [if_neg hb]
  rfl

theorem fwswitch_malformed (ha : s.Accepts m .other) (h : 1 < opByte (s.operands m) 0 ∨ ¬s.Named0 m fun n => n = 0) :
    Turned (.fwswitch m) s m 2 := by
  refine turned_of_run rfl ha (if_pos (State.malformed_of (P := fun n => n = 0) (by simp) ?_))
  simpa only [decide_eq_true_eq] using h

section
variable {P : State → Prop} (ha : s.Accepts m .other) (hp : opByte (s.operands m) 0 ≤ 1) (hn : s.Named0 m fun n => n = 0)
include ha hp hn

theorem fwswitch_unstaged (hf : (s.sec.fw (opByte (s.operands m) 0)).staged = false) : Turned (.fwswitch m) s m 4 :=
  turned_of_run rfl ha ((if_neg (State.not_malformed (P := fun n => n = 0) (by simp) (by simpa using hp) hn)).trans
    (if_pos (by simpa using hf)))

theorem fwswitch_staged (hf : (s.sec.fw (opByte (s.operands m) 0)).staged = true)
    (h : P (State.startReply { s with sec := s.sec.setFw (opByte (s.operands m) 0) { s.sec.fw (opByte (s.operands m) 0) with
      runB := !(s.sec.fw (opByte (s.operands m) 0)).runB, staged := false } } m 0 [])) : Replies (.fwswitch m) s m 0 [] P :=
  replies_of_run rfl ha ((if_neg (State.not_malformed (P := fun n => n = 0) (by simp) (by simpa using hp) hn)).trans
    (if_neg (by simpa using hf))) h

end

/-! ### REPAIR (R21, R22, R55) -/

section
variable {x : Nat} {P : State → Prop} (ha : s.Accepts m .other) (hn : s.Named0 m fun n => n = 0 ∨ (8 ≤ n ∧ n < 16))
  (hx : opNat (s.operands m) 8 8 = x)
include ha hn hx

theorem repairCore_malformed (hk : opByte (s.operands m) 0 = 0) (h : itemOk 0 x = false) : Turned (.repairCore m) s m 2 :=
  turned_of_run rfl ha ((State.repair_of hn hx hk).trans (if_pos (by rw [h, Bool.not_false])))

/-- A substitution that is queued already is answered 0 and changes nothing. -/
theorem repairCore_again (hk : opByte (s.operands m) 0 = 0) (h : itemOk 0 x = true)
    (hg : (Tab.getD s.ctl.subst (coreOf x).die []).any (fun y => y.core == (coreOf x).core) = true)
    (hp : P (s.startReply m 0 [])) : Replies (.repairCore m) s m 0 [] P := by
  refine replies_of_run rfl ha ((State.repair_of hn hx hk).trans ((if_neg (by simp [h])).trans ?_)) hp
  simp only [hg, Bool.true_or, if_true, State.substitute_again hg]

/-- A new substitution is queued; its answer says whether a spare is left. -/
theorem repairCore_new (hk : opByte (s.operands m) 0 = 0) (h : itemOk 0 x = true)
    (hg : (Tab.getD s.ctl.subst (coreOf x).die []).any (fun y => y.core == (coreOf x).core) = false)
    (hp : P ((s.substitute (coreOf x).die (coreOf x).core false).startReply m
      (if 0 < s.sparesLeft (coreOf x).die then 0 else 4) [])) :
    Replies (.repairCore m) s m (if 0 < s.sparesLeft (coreOf x).die then 0 else 4) [] P := by
  refine replies_of_run rfl ha ((State.repair_of hn hx hk).trans ((if_neg (by simp [h])).trans ?_)) hp
  simp only [hg, Bool.false_or, decide_eq_true_eq]

theorem repairRow_malformed (hk : opByte (s.operands m) 0 = 1) (h : 12 ≤ (repairedRow x).stack ∨ 2 ^ 30 ≤ x) :
    Turned (.repairRow m) s m 2 :=
  turned_of_run rfl ha ((State.repair_of hn hx hk).trans (if_pos (by
    rw [Bool.or_eq_true, decide_eq_true_eq, decide_eq_true_eq]; exact h)))

theorem repairRow_full (hk : opByte (s.operands m) 0 = 1) (hs : (repairedRow x).stack < 12) (hl : x < 2 ^ 30)
    (h : (s.spareRow (repairedRow x)).isNone = true) : Turned (.repairRow m) s m 4 :=
  have hb : ¬(12 ≤ (repairedRow x).stack || 2 ^ 30 ≤ x) = true := by
    simp only [Bool.or_eq_true, decide_eq_true_eq]; omega
  turned_of_run rfl ha ((State.repair_of hn hx hk).trans ((if_neg hb).trans (if_pos h)))

theorem repairRow_queued (hk : opByte (s.operands m) 0 = 1) (hs : (repairedRow x).stack < 12) (hl : x < 2 ^ 30)
    (h : ¬(s.spareRow (repairedRow x)).isNone = true) (hp : P ((s.queueRemap (repairedRow x)).startReply m 0 [])) :
    Replies (.repairRow m) s m 0 [] P :=
  have hb : ¬(12 ≤ (repairedRow x).stack || 2 ^ 30 ≤ x) = true := by
    simp only [Bool.or_eq_true, decide_eq_true_eq]; omega
  replies_of_run rfl ha ((State.repair_of hn hx hk).trans ((if_neg hb).trans (if_neg h))) hp

theorem repairLane_malformed (hk : opByte (s.operands m) 0 = 2) (h : 36 ≤ field x 0 6 ∨ 2 ^ 8 ≤ x) :
    Turned (.repairLane m) s m 2 :=
  turned_of_run rfl ha ((State.repair_of hn hx hk).trans (if_pos (by
    rw [Bool.or_eq_true, decide_eq_true_eq, decide_eq_true_eq]; exact h)))

/-- A port that has lost a lane has none to spare. -/
theorem repairLane_spent (hk : opByte (s.operands m) 0 = 2) (hp : field x 0 6 < 36) (hl : x < 2 ^ 8)
    (h : Tab.getD s.fabric.failedLanes (field x 0 6) 0 ≠ 0) : Turned (.repairLane m) s m 4 :=
  have hb : ¬(36 ≤ field x 0 6 || 2 ^ 8 ≤ x) = true := by
    simp only [Bool.or_eq_true, decide_eq_true_eq]; omega
  turned_of_run rfl ha ((State.repair_of hn hx hk).trans ((if_neg hb).trans (if_pos (bne_iff_ne.2 h))))

theorem repairLane_spared (hk : opByte (s.operands m) 0 = 2) (hb : field x 0 6 < 36) (hl : x < 2 ^ 8)
    (h : Tab.getD s.fabric.failedLanes (field x 0 6) 0 = 0)
    (hp : P (State.startReply { s with fabric := { s.fabric with
      failedLanes := Tab.set (field x 0 6) (2 ^ field x 6 2) s.fabric.failedLanes } } m 0 [])) :
    Replies (.repairLane m) s m 0 [] P := by
  have hm : ¬(36 ≤ field x 0 6 || 2 ^ 8 ≤ x) = true := by
    simp only [Bool.or_eq_true, decide_eq_true_eq]; omega
  have hl : field x 6 2 < 4 := Nat.mod_lt _ (by decide)
  exact replies_of_run rfl ha ((State.repair_of hn hx hk).trans ((if_neg hm).trans ((if_neg (by simpa using h)).trans
    (congrArg (fun t => ((0, [], t) : Reply)) (State.failLane_first hb hl h))))) hp

end

end

/-! ### The statement -/

/-- Settles O49: each command runs on its operands by the rule of the mailbox (R121), and what it changes is the law of its effect:
the alarms leave the partitions' debug grants (R138), RESUME voids the guaranteed launches (R139), the report is the record of R135,
and a repair joins the queue of its die or its stack (R21, R55). -/
theorem securityCommands : Obligations.SecurityCommands := by
  intro s m l p calm
  refine ⟨fun ha => ?_, fun ha => ?_, fun ha => ?_, fun ha => ?_, fun ha => ?_, fun ha => ?_, fun ha hn => ?_⟩
  · intro code named policy allowed
    refine ⟨apolicy_malformed ha, fun hc hp hn hk => ?_, fun hc hp hn hk => ?_⟩
    · obtain ⟨run, hx, hr⟩ := apolicy_run hc hp hn
      exact turned_of_run hx ha (hr.trans (if_neg fun h => hk ((policyAllowed_iff hp hc).1 h)))
    · obtain ⟨run, hx, hr⟩ := apolicy_run hc hp hn
      exact replies_of_run hx ha (hr.trans (if_pos ((policyAllowed_iff hp hc).2 hk)))
        ⟨⟨rfl, rfl, rfl, rfl⟩, fun k => Tab.getD_set p k policy .report s.sec.policy⟩
  · intro named
    refine ⟨fun hn => ⟨?_, ?_⟩, fun hn h => ?_, fun hn hh hk => ?_, fun hn => ?_⟩
    · exact turned_of_run rfl ha (if_neg (State.not_onlyNamed (by simp) hn))
    · exact turned_of_run rfl ha (if_pos (by rw [State.onlyNamed_eq_false (by simp) hn, Bool.not_false]))
    · exact turned_of_run rfl ha ((if_pos (onlyNamed_none hn)).trans (resume_refused h))
    · obtain ⟨t, ht, hp⟩ := resume_halted hh hk
      exact replies_of_run rfl ha ((if_pos (onlyNamed_none hn)).trans ht) hp
    · exact replies_of_run rfl ha (if_neg (by rw [onlyNamed_none hn]; exact Bool.false_ne_true)) ⟨⟨rfl, rfl, rfl, rfl⟩, rfl⟩
  · intro named
    refine ⟨fun hn => ?_, fun hn hl => ?_, fun hn hl => ?_⟩
    · exact turned_of_run rfl ha (if_neg (State.not_onlyNamed (by simp) hn))
    · exact turned_of_run rfl ha ((if_pos (onlyNamed_none hn)).trans (if_neg (by simpa using hl)))
    · exact replies_of_run rfl ha ((if_pos (onlyNamed_none hn)).trans (if_pos (by simpa using hl))) (bootChain_fields s)
  · intro here named signed good
    refine ⟨fun h => ?_, fun hh hn => ?_, fun h => ?_, fun hh hn hg => ?_, fun hh hn hg => ?_⟩
    · exact turned_of_run rfl ha (State.onPart_not (by simp) h)
    · exact replies_of_run rfl ha (State.onPart_of (by simp) hh hn)
        ⟨s.endDebug_debug p, rfl, s.endDebug_step p, fun c hc k => (congrArg (fun x => (Tab.getD x.bpc k 0).getLsbD 63)
          (s.endDebug_core p hc)).trans (Core.noBreaks_bpc _ k)⟩
    · exact turned_of_run rfl ha (State.onPart_not (by simp) h)
    · obtain ⟨t, ht, hp⟩ := debugGrant_good hg
      exact replies_of_run rfl ha ((State.onPart_of (by simp) hh hn).trans ht) hp
    · let u : State := { s with sec := { s.sec with nonce := none } }
      have hl : u.sec.state ≠ .locked := fun h => by
        obtain ⟨-, -, -, hl, -⟩ := ha
        simpa using hl h
      obtain ⟨hdebug, hnonce, hidle, hmem, hctl, hdev, hrep, hhalt, herase⟩ := alarms_misused (s := u) p hl
      exact replies_of_run rfl ha ((State.onPart_of (by simp) hh hn).trans (debugGrant_bad hg))
        ⟨hdebug, hnonce, hidle, hmem, hctl, hdev, hrep, hhalt, herase⟩
  · intro named c d
    refine ⟨fun hn => ?_, fun hn => ?_⟩
    · exact turned_of_run rfl ha (if_neg (State.not_onlyNamed (by simp) hn))
    · have hb := s.report256_length (opNat l 0 32)
      have hs := s.reportSig_length (s.report256 (opNat l 0 32))
      refine ⟨s.report256 (opNat l 0 32) ++ s.reportSig (s.report256 (opNat l 0 32)), ?_, ?_, fun hl => ?_, ?_⟩
      · rw [List.length_append, hb, hs]
      · rw [List.take_left' hb]
        exact s.report256_fields (opNat_lt l 0 32)
      · rw [List.drop_left' hb, List.take_left' hb]
        exact s.reportSig_signed _ hl
      · refine replies_of_run rfl ha (if_pos ((State.onlyNamed_iff (by simp)).2 hn)) ⟨⟨rfl, rfl, rfl, rfl⟩, rfl, ?_⟩
        exact if_congr (by simp) rfl rfl
  · intro n bytes named ok f
    refine ⟨fun h => ?_, fun hp hl hn => ?_, fun h => ?_, fun hp hn => ⟨fun hf => ?_, fun hf => ?_⟩⟩
    · exact fwstage_malformed ha h
    · have hok : (s.imageAt l).good s.sec.fusedSvn = true ↔ ok := by
        rw [Image.good, Bool.and_eq_true, decide_eq_true_eq]; rfl
      obtain ⟨hsa, hsb, hsr, hss⟩ := Firmware.stage_spec f (s.imageAt l) ((s.imageAt l).good s.sec.fusedSvn)
      refine ⟨_, _, fwstage_stages ha hp hl hn, ⟨rfl, rfl, rfl, rfl⟩, fun h => if_pos (hok.2 h),
        fun h => if_neg (mt hok.1 h), rfl, Sec.fw_setFw_other _ hp _, ?_⟩
      change ((s.sec.setFw p _).fw p).a = _ ∧ ((s.sec.setFw p _).fw p).b = _ ∧ ((s.sec.setFw p _).fw p).runB = _ ∧
        (((s.sec.setFw p _).fw p).staged = true ↔ _)
      rw [Sec.fw_setFw]
      exact ⟨hsa, hsb, hsr, by rw [hss]; exact hok⟩
    · exact fwswitch_malformed ha h
    · exact fwswitch_unstaged ha hp hn hf
    · exact fwswitch_staged ha hp hn hf ⟨⟨rfl, rfl, rfl, rfl⟩, Sec.fw_setFw_other _ hp _, Sec.fw_setFw _ _ _⟩
  · intro x c subst again left r port
    have hg : subst.any (fun y => y.core == c.core) = true ↔ again := by simp [again]
    refine ⟨fun hk hx => ?_, fun hk hx h => ?_, fun hk hx h hr hh => ?_, fun hk h => ?_,
      fun hk hs hx => ⟨fun h => ?_, fun h => ?_⟩, fun hk h => ?_, fun hk hp hx => ⟨fun h => ?_, fun h => ?_⟩⟩
    · exact repairCore_malformed ha hn rfl hk hx
    · exact repairCore_again ha hn rfl hk hx (hg.2 h) ⟨rfl, rfl, rfl, rfl⟩
    · have hd : c.die < 4 := Nat.mod_lt _ (by decide)
      have hc : c.core < 48 := by
        simp only [itemOk, Bool.and_eq_true, decide_eq_true_eq] at hx
        exact hx.1
      have hf := Bool.eq_false_iff.2 (mt hg.1 h)
      exact repairCore_new ha hn rfl hk hx hf (State.substitute_new hd hc hf hr hh)
    · exact repairRow_malformed ha hn rfl hk h
    · exact repairRow_full ha hn rfl hk hs hx ((s.spareRow_isNone r).2 h)
    · obtain ⟨n, hlt, hfree⟩ := h
      refine repairRow_queued ha hn rfl hk hs hx (fun hf => hfree ((s.spareRow_isNone r).1 hf n hlt))
        ⟨?_, s.queueRemap_mem r⟩
      rw [s.queueRemap_eq]
      exact ⟨rfl, rfl, rfl, rfl⟩
    · exact repairLane_malformed ha hn rfl hk h
    · exact repairLane_spent ha hn rfl hk hp hx h
    · exact repairLane_spared ha hn rfl hk hp hx h ⟨⟨rfl, rfl, rfl, rfl⟩, (Tab.getD_set _ _ _ _ _).trans (if_pos rfl)⟩

end Sys2Proof.Machine
end

section
/-!
The state after reset (R35, R121, R138, R139).
-/

namespace Sys2Proof.Machine

open Sys2Proof

/-- Settles O55: each part is a field of the record of the state after reset. -/
theorem resetState : Obligations.ResetState :=
  ⟨rfl, rfl, rfl, rfl, rfl, rfl, rfl, rfl, rfl, rfl, rfl, rfl, rfl, rfl, rfl, rfl, rfl, rfl⟩

/-- Settles O59: the memories of the state after reset list no byte. -/
theorem resetInv : Obligations.ResetInv :=
  (State.memWf_iff _).2 ⟨Mem.wf_nil, Mem.wf_nil, fun _ h => absurd h List.not_mem_nil⟩

end Sys2Proof.Machine
end

section
/-!
A copy to another module (R405, R29): its last row is not its end, which waits for the acknowledge of the write.
-/

namespace Sys2Proof.Machine

open Sys2Proof

/-- A page of module 5, present and writable (R28, R214). -/
def farPage : TlbEntry := ⟨0, 0x200000, 2 ^ 21, 1, BitVec.ofNat 64 (0x33 + 5 * 2 ^ 42)⟩

/-- A copy of one byte from local store to the first byte of that page (R405). -/
def farCopy : Cmd :=
  { id := 0, cls := 0, g := ⟨0, 0, 0, 0⟩, launch := 0, part := 0, die := 0
    shape := 2 ^ 7 + 2 ^ 20 + 2 ^ 40 + 0x200000 * 2 ^ 192, x := 0, y := 0, counter := 0, pins := [farPage], fmt := 0
    done := 0, total := 1, status := 0, poisoned := false, version := 0, list := none, phase := .queued, hdr := none
    superseded := false, dls := false, sent := false, started := true, asked := true, vbuf := none, gone := 0, due := 0 }

/-- The state after reset with that command before its engine, and the team whose local store it reads. -/
def copying : State :=
  { State.reset with
    teams := [{ placedTeam with size := 5120, area := 5120 }], eng := { State.reset.eng with cmds := [(0, farCopy)] } }

/-- The command is well formed, and its engine goes on with its row: nothing of it is outstanding. -/
theorem copying_ready : copying.checkCopy farCopy = some farCopy.total ∧ copying.ready farCopy 0 = true ∧
    copying.copyWaits farCopy = false ∧ copying.expects 0 = false := by decide +kernel

/-- The map of the page of module 5. -/
def farMap : Map := ⟨9, none, 0x200000, 0, 5, 0, false, true⟩

theorem copying_range : copying.engRange farCopy.via true (farCopy.dstRow 0) 1 = some [(farMap, 0x200000, 1)] := by
  decide +kernel

/-- The destination takes the row: the page may be written, by way of a flit. -/
theorem copying_takes (b : Byte) : copying.Takes farCopy false [(farCopy.dstRow 0, [b])] fun _ => [(farMap, 0x200000, 1)] := by
  refine .inr fun k r hr => ?_
  obtain rfl := List.mem_singleton.1 (List.mem_of_getElem? hr)
  exact ⟨copying_range, fun h => absurd h (Nat.lt_irrefl 1)⟩

/-- The row has left as a flit whose acknowledge is outstanding, and the command is not finished. -/
theorem copying_swapping : (copying.runCopy 0).expects 0 = true ∧
    ((copying.runCopy 0).cmd? 0).map (fun k => k.phase) = some .swapping := by decide +kernel

/-- Refutes O38: the statement has a copy finished with its last row wherever its destination takes the row; but a destination in
another module takes it by a flit, and the copy is finished only when that write is acknowledged (`copying`: one row, from local
store to module 5). -/
theorem not_engines : ¬ Obligations.Engines := by
  unfold Obligations.Engines
  rintro ⟨-, hcopy, -⟩
  obtain ⟨-, hready, hwaits, hexpects⟩ := copying_ready
  obtain ⟨-, hrow⟩ := hcopy copying 0 farCopy [0] false (fun _ => [(farMap, 0x200000, 1)]) rfl rfl hready hwaits
  obtain ⟨t, ht, ⟨k, hk, -, -, -, -, -, -, -, hend⟩, -⟩ := hrow rfl hexpects ⟨rfl, rfl⟩ (copying_takes 0)
  have hrun : copying.runCopy 0 = t := by injection ht
  have hphase : k.phase = .finished := hend.1
  have hswap := copying_swapping.2
  rw [hrun, hk, Option.map_some, hphase] at hswap
  exact absurd hswap (by decide)

end Sys2Proof.Machine
end

section
/-!
A write of another module (R28, R225) over a memory that is not in canonical form.
-/

namespace Sys2Proof.Machine

open Sys2Proof

/-- Where the die buffer is empty and every bank is open, nothing but its view stands between a byte and memory. -/
theorem State.oneHome_of_empty {s : State} {space p : Nat} (hh : s.home = []) (hk : s.stks = []) : s.oneHome space p := by
  refine ⟨?_, fun x _ _ => ?_, fun c hc => ?_⟩
  · simp [State.fenced, State.stack, hk, Tab.getD, Tab.get?, Stack.empty]
  · rw [hh]; rfl
  · rw [hh] at hc; exact nomatch hc

/-- A memory that lists the byte at 0x300000 twice, of a partition that grants module 5 access and owns no way of a die buffer. -/
def twiceListed : State :=
  { State.reset with
    mem := [(0x300000, 5), (0x300000, 7)], parts := [(0, { placedPart with peers := [⟨5, 0, true⟩] })] }

/-- Module 5 writes a zero there; behind it stand no mark, and its partition. -/
def zeroWrite : Flit :=
  { last := true, scope := 4, len := 1, paddr := 0x300000, tag := 9, part := 0, op := 0x02, src := 5, dst := 0
    payload := [0, 0, 0] }

theorem twiceListed_window : twiceListed.noRoute = false ∧ twiceListed.window zeroWrite 1 = true := by decide +kernel

/-- The line leaves the die buffer at once, the zero removes the first entry of its byte, and the second one shows. -/
theorem twiceListed_write : (twiceListed.serveWrite zeroWrite).homeBytes 0x300000 1 = [7] := by decide +kernel

/-- Refutes O44: the clause on writes has the bytes of a served write read back in every state, also in one whose memory is not in
canonical form (`twiceListed`). The hypothesis that memory is in canonical form (O59, O60), on which `BytesBut` rests, is missing
from the clause. -/
theorem not_fabricTraffic : ¬ Obligations.FabricTraffic := by
  unfold Obligations.FabricTraffic
  rintro ⟨hserved, -⟩
  obtain ⟨hroute, hwindow⟩ := twiceListed_window
  obtain ⟨-, hwrite, -⟩ := hserved twiceListed zeroWrite rfl hroute
  obtain ⟨-, hwrite⟩ := hwrite ⟨rfl, rfl⟩
  obtain ⟨t, ht, -, hbytes, -⟩ := hwrite hwindow ⟨by decide, fun _ _ => State.oneHome_of_empty rfl rfl⟩
  have hrun : twiceListed.serveWrite zeroWrite = t := by injection ht
  have h7 : t.homeBytes 0x300000 1 = [7] := hrun ▸ twiceListed_write
  exact absurd (h7.symm.trans hbytes) (by decide)

end Sys2Proof.Machine
end

section
/-!
Every step keeps the canonical form of the memories (O60). Keeps (Laws/Memory) composes along a definition: over a record update
of other fields, a branch, a fold, and the operations that a definition calls. One lemma for each operation that can change the
state; those of an instruction are in exec_keeps.
-/

namespace Sys2Proof.Machine

open Sys2Proof

theorem Keeps.after {s t u : State} (h2 : Keeps t u) (h1 : Keeps s t) : Keeps s u := h1.trans h2
theorem Keeps.of_snd {α : Type} {s u : State} {p : α × State} {a : α} (e : p = (a, u)) (h : Keeps s p.2) : Keeps s u := by
  subst e; exact h
def OutKeeps (s : State) (o : Out) : Prop := ∀ t, o = .next t → Keeps s t
theorem OutKeeps.next {s t : State} (h : Keeps s t) : OutKeeps s (.next t) := by
  intro u hu; cases hu; exact h
theorem OutKeeps.refused {s : State} (f : Refusal) : OutKeeps s (.refused f) := by
  intro u hu; cases hu
theorem OutKeeps.after {s t : State} {o : Out} (h : OutKeeps t o) (hs : Keeps s t) : OutKeeps s o := fun u hu => hs.trans (h u hu)
theorem Keeps.ite {s t u : State} {c : Prop} [Decidable c] (ht : Keeps s t) (hu : Keeps s u) : Keeps s (if c then t else u) := by
  split
  · exact ht
  · exact hu
theorem OutKeeps.ite {s : State} {o p : Out} {c : Prop} [Decidable c] (ho : OutKeeps s o) (hp : OutKeeps s p) :
    OutKeeps s (if c then o else p) := by
  split
  · exact ho
  · exact hp
/-- A change of the teams that keeps their local stores in the form. -/
theorem Keeps.mapTeams (s : State) {f : Team → Team} (hf : ∀ t : Team, t.ls.wf = true → (f t).ls.wf = true) :
    Keeps s { s with teams := s.teams.map f } := by
  intro h
  rw [State.memWf_iff] at *
  obtain ⟨hmem, hhost, hteams⟩ := h
  refine ⟨hmem, hhost, fun t ht => ?_⟩
  obtain ⟨u, hu, rfl⟩ := List.mem_map.1 ht
  exact hf u (hteams u hu)
theorem OutKeeps.fault {s : State} (f : Fault) : OutKeeps s (.fault f) := by
  intro u hu; cases hu

theorem Keeps.getD {s t : State} {o : Option State} (h : ∀ u, o = some u → Keeps s u) (ht : Keeps s t) : Keeps s (o.getD t) := by
  cases o with
  | none => exact ht
  | some u => exact h u rfl
theorem Keeps.foldl_fst {α β : Type} {f : State × β → α → State × β} (hf : ∀ p a, Keeps p.1 (f p a).1) (l : List α)
    (p : State × β) :
    Keeps p.1 (l.foldl f p).1 := by
  induction l generalizing p with
  | nil => exact .refl _
  | cons a l ih => exact (hf p a).trans (ih _)
theorem Keeps.foldl_snd {α β : Type} {f : β × State → α → β × State} (hf : ∀ p a, Keeps p.2 (f p a).2) (l : List α)
    (p : β × State) :
    Keeps p.2 (l.foldl f p).2 := by
  induction l generalizing p with
  | nil => exact .refl _
  | cons a l ih => exact (hf p a).trans (ih _)
theorem Keeps.update {s : State} {clock ctl fabric stks poison home homeLines dieTlb cores cur rest saved launches presented nextSeq
    parts sec eng nextId inputs turn free} : Keeps s
      { clock := clock, ctl := ctl, fabric := fabric, stks := stks, mem := s.mem, poison := poison, home := home
        homeLines := homeLines, dieTlb := dieTlb, cores := cores, cur := cur, rest := rest, saved := saved, teams := s.teams
        launches := launches, presented := presented, nextSeq := nextSeq, parts := parts, host := s.host, sec := sec, eng := eng
        nextId := nextId, inputs := inputs, turn := turn, free := free } := .same rfl rfl rfl
theorem Keeps.updateHost {s : State} {clock ctl fabric stks poison home homeLines dieTlb cores cur rest saved launches presented
    nextSeq parts host sec eng nextId inputs turn free} (h : host.mem = s.host.mem) : Keeps s
      { clock := clock, ctl := ctl, fabric := fabric, stks := stks, mem := s.mem, poison := poison, home := home
        homeLines := homeLines, dieTlb := dieTlb, cores := cores, cur := cur, rest := rest, saved := saved, teams := s.teams
        launches := launches, presented := presented, nextSeq := nextSeq, parts := parts, host := host, sec := sec, eng := eng
        nextId := nextId, inputs := inputs, turn := turn, free := free } := .same rfl h rfl

end Sys2Proof.Machine
end

section
/-!
The canonical form of the memories (O60): translation, the caches, traces, traps and the frames of an instruction (R182-R217).
-/

namespace Sys2Proof.Machine

open Sys2Proof

theorem State.fresh_keeps (s : State) : Keeps s s.fresh.2 := .refl _

theorem State.cacheDie_keeps (s : State) (die part : Nat) (l : Leaf) : Keeps s (s.cacheDie die part l) := .update

theorem State.findLeaf_keeps (s : State) (die core part va : Nat) : Keeps s (s.findLeaf die core part va).2 := by
  unfold State.findLeaf
  split
  · exact .refl _
  · split
    · exact .refl _
    · split <;> exact .refl _

theorem State.translate_keeps (s : State) (a : Acc) (va : Word) (size align : Nat) :
    Keeps s (s.translate a va size align).2 := by
  unfold State.translate
  split
  · exact .refl _
  · split
    · exact .refl _
    · split <;> exact .of_snd ‹_› (State.findLeaf_keeps _ _ _ _ _)

theorem State.fillDie_keeps (s : State) (u : Via) (va : Nat) : Keeps s (s.fillDie u va) := by
  unfold State.fillDie
  split
  · exact .refl _
  · split
    · exact .after .update (State.cacheDie_keeps _ _ _ _)
    · exact .refl _

theorem State.coreUpdate_keeps (s : State) (die core space p : Nat) (b : Byte) : Keeps s (s.coreUpdate die core space p b) :=
  State.setCore_keeps _ _ _ _

theorem State.dropBytes_keeps (s : State) (die core : Nat) (f : Nat × CByte → Bool) : Keeps s (s.dropBytes die core f) :=
  State.setCore_keeps _ _ _ _

theorem State.dropClean_keeps (s : State) (die core : Nat) (f : Nat → Nat → Bool) : Keeps s (s.dropClean die core f) :=
  State.dropBytes_keeps _ _ _ _

theorem State.dropAll_keeps (s : State) (die core : Nat) (f : Nat → Nat → Bool) : Keeps s (s.dropAll die core f) :=
  State.dropBytes_keeps _ _ _ _

theorem State.range_keeps (s : State) (a : Acc) (fuel va len : Nat) : Keeps s (s.range a fuel va len).2 := by
  induction fuel generalizing s va len with
  | zero => exact .refl s
  | succ fuel ih =>
    unfold State.range
    split
    · exact .refl _
    · dsimp only
      split
      · dsimp only
        exact .of_snd ‹_› (State.translate_keeps _ _ _ _ _)
      · split
        · dsimp only
          exact .of_snd ‹_› (.after (ih _ _ _) (.of_snd ‹_› (State.translate_keeps _ _ _ _ _)))
        · dsimp only
          exact .of_snd ‹_› (.after (ih _ _ _) (.of_snd ‹_› (State.translate_keeps _ _ _ _ _)))

theorem State.renameOne_keeps (s : State) (i j : Gid) : Keeps s (s.renameOne i j) := State.rename_keeps _ _

theorem State.seeRptr_keeps (s : State) : Keeps s s.seeRptr := .update

theorem State.logRing_keeps (s : State) (part : Nat) (g : Gid) (l : List RingFault) : Keeps s (s.logRing part g l) :=
  .after (.foldl (fun _ _ => State.logError_keeps _ _ _) _ _) (State.setPart_keeps _ _ _)

theorem State.closeBlock_keeps (s : State) : Keeps s s.closeBlock :=
  .ite (.refl _) (.ite (.after .update (State.setCore_keeps _ _ _ _)) .update)

theorem State.countPacket_keeps (s : State) (p : Packet_) : Keeps s (s.countPacket p) := .update

theorem State.losePacket_keeps (s : State) : Keeps s s.losePacket := .update

theorem State.putPacket_keeps (s : State) (issued : Nat) (p : Packet_) : Keeps s (s.putPacket issued p) := by
  unfold State.putPacket
  dsimp only
  split
  · split
    · exact .after (State.losePacket_keeps _) (.after (State.countPacket_keeps _ _) (State.closeBlock_keeps _))
    · exact .after .update (.after (State.countPacket_keeps _ _) (State.closeBlock_keeps _))
  · exact .ite (.after (State.losePacket_keeps _) (State.countPacket_keeps _ _)) (.after .update (State.countPacket_keeps _ _))

theorem State.emitAt_keeps (s : State) (issued : Nat) (p : Packet_) : Keeps s (s.emitAt issued p) := by
  unfold State.emitAt
  split
  · exact .refl _
  · split
    · exact .after (State.countPacket_keeps _ _) (State.logRing_keeps _ _ _ _)
    · dsimp only
      split
      · exact State.putPacket_keeps _ _ _
      · split
        · exact .after (State.countPacket_keeps _ _) (State.losePacket_keeps _)
        · split
          · exact .after (State.putPacket_keeps _ _ _) .update
          · exact .after (State.putPacket_keeps _ _ _) (.after (State.putPacket_keeps _ _ _) .update)

theorem State.emitPacket_keeps (s : State) (p : Packet_) : Keeps s (s.emitPacket p) := State.emitAt_keeps _ _ _

theorem State.wantSync_keeps (s : State) : Keeps s s.wantSync := .update

theorem State.doubleTrapOf_keeps (s : State) (g : Group) : Keeps s (s.doubleTrapOf g) :=
  .after (State.endLaunch_keeps _ _) (State.logError_keeps _ _ _)

theorem State.stall_keeps (s : State) (w : Wait) : Keeps s (s.stall w) := .update

theorem State.sendPages_keeps (s : State) : Keeps s s.sendPages := by
  unfold State.sendPages
  refine .after (.foldl (fun _ _ => ?_) _ _) (.updateHost rfl)
  split
  · exact State.void_keeps _ _
  · exact .refl _

theorem State.requestPages_keeps (s : State) (fmask : Mask) (pages : List Nat) : Keeps s (s.requestPages fmask pages) :=
  .ite .update (.ite (.refl _) (.after (State.sendPages_keeps _) (.updateHost rfl)))

theorem State.lateTrap_keeps (s : State) (slot : Bool) (fs : List Faulter) (kind : BitVec 8) (omask : Mask) (iw0 : BitVec 32)
    (counter issued : Nat) :
    Keeps s (s.lateTrap slot fs kind omask iw0 counter issued) :=
  .after (State.takeHeld_keeps _) .update

theorem State.leave_keeps (s : State) (ls : Mem) (h : Handler) : Keeps s (s.leave ls h) := by
  unfold State.leave
  dsimp only
  split
  · exact .after (State.requestPages_keeps _ _ _) (.after (State.wantSync_keeps _) .update)
  · exact .after (State.takeHeld_keeps _) (.after (State.wantSync_keeps _) .update)

theorem State.returnFrom_keeps (s : State) (p : Pred) (h : Handler) : Keeps s (s.returnFrom p h) := by
  unfold State.returnFrom
  split
  · exact State.refuse_keeps _ _ _
  · split
    · exact State.refuse_keeps _ _ _
    · exact .after (State.leave_keeps _ _ _) (.after (State.occupy_keeps _ _) (.ite (.refl _) (State.charge_keeps _ _)))

theorem State.setDZ_keeps (s : State) (b : Bool) : Keeps s (s.setDZ b) := .ite .update (.refl _)

theorem State.checked_keeps (s : State) (p : Pred) (l : List Opd) {run : State → State} (h : ∀ u, Keeps u (run u)) :
    Keeps s (s.checked p l run) :=
  .ite (h _) (State.refuse_keeps _ _ _)

theorem State.calc_keeps (s : State) (x : Ord) (srcs : List Opd) (f : Group → Nat → Calc) : Keeps s (s.calc x srcs f) := by
  unfold State.calc
  refine State.named_keeps _ _ _ ?_
  split
  · exact State.perThread_keeps _ _ _ (fun _ => .after (State.setDZ_keeps _ _) .update)
  · exact State.checked_keeps _ _ _ (fun _ => State.uniform_keeps _ _ _ _ (.after (State.setDZ_keeps _ _) .update))

theorem State.setPred_keeps (s : State) (x : Ord) (srcs : List Opd) (f : Group → Nat → Bool) : Keeps s (s.setPred x srcs f) :=
  State.named_keeps _ _ _ (State.perThread_keeps _ _ _ (fun _ => .update))

end Sys2Proof.Machine
end

section
/-!
The canonical form of the memories (O60): requests to other modules, mapped ranges, rejoining, and the frame of a memory
instruction (R28, R174-R180, R221-R223, R355).
-/

namespace Sys2Proof.Machine

open Sys2Proof

theorem State.send_keeps (s : State) (f : Flit) : Keeps s (s.send f) := .ite (.refl _) .update

theorem State.markRemote_keeps (s : State) (launch part dev : Nat) : Keeps s (s.markRemote launch part dev) :=
  .ite (.refl _) (State.updLaunch_keeps _ _ _)

theorem State.outstanding_keeps (s : State) (f : Flit) (r : Remote) : Keeps s (s.outstanding f r) :=
  .after .update (State.send_keeps _ _)

theorem State.request_keeps (s : State) (m : Map) (va : Nat) (op : BitVec 6) (scope : BitVec 3) (payload : List Byte)
    (kind : RemoteKind) (opId thread : Nat) (omask : Mask) (acq : Option (Nat × Nat)) :
    Keeps s (s.request m va op scope payload kind opId thread omask acq).2 :=
  .after (State.outstanding_keeps _ _ _) (State.markRemote_keeps _ _ _ _)

theorem State.remoteStore_keeps (s : State) (m : Map) (va : Nat) (bs : List Byte) (policy opId thread : Nat) :
    Keeps s (s.remoteStore m va bs policy opId thread).2 := by
  unfold State.remoteStore
  refine .after (State.request_keeps _ _ _ _ _ _ _ _ _ _ _) ?_
  split
  · exact .after (.foldl (fun _ _ => State.useCore_keeps _ _ _ _) _ _) (State.setCore_keeps _ _ _ _)
  · exact State.setCore_keeps _ _ _ _

theorem State.failFill_keeps (s : State) (i : Gid) (f : FillFault) : Keeps s (s.failFill i f) := State.updGroup_keeps _ _ _

theorem State.fillAtom_keeps (i : Gid) (g : Group) (m : MapBind) (mp : Map) (s : State) (b : Nat) :
    Keeps s (State.fillAtom i g m mp s b) :=
  .after (State.updTeam_keeps _ _ fun _ h => Mem.wf_putBytes _ _ h) (State.touch_keeps _ _ _ _ _ _ _)

theorem State.askFill_keeps (s : State) (mp : Map) (va : Nat) : Keeps s (s.askFill mp va) :=
  .foldl (fun _ _ => State.request_keeps _ _ _ _ _ _ _ _ _ _ _) _ _

theorem State.backBytes_keeps (s : State) (g : Group) (m : MapBind) (l : List Nat) : Keeps s (s.backBytes g m l).2 := by
  induction l generalizing s with
  | nil => exact .refl s
  | cons b l ih =>
    unfold State.backBytes
    dsimp only
    split
    · exact .of_snd ‹_› (State.translate_keeps _ _ _ _ _)
    · refine .after (ih _) (.after (State.updTeam_keeps _ _ fun _ h => h) ?_)
      split
      · exact .after (State.storeBytes_keeps _ _ _ _ _ _ _) (.of_snd ‹_› (State.translate_keeps _ _ _ _ _))
      · exact .after (State.remoteStore_keeps _ _ _ _ _ _ _) (.of_snd ‹_› (State.translate_keeps _ _ _ _ _))

theorem State.backMaps_keeps (s : State) (g : Group) (l : List MapBind) : Keeps s (s.backMaps g l).2 := by
  induction l generalizing s with
  | nil => exact .refl s
  | cons m l ih =>
    unfold State.backMaps
    split
    · exact .of_snd ‹_› (State.backBytes_keeps _ _ _ _)
    · exact .after (ih _) (.of_snd ‹_› (State.backBytes_keeps _ _ _ _))

theorem State.backFirst_keeps (s : State) (l : List MapBind) : Keeps s (s.backFirst l).2 := by
  unfold State.backFirst
  dsimp only
  split
  · exact State.backMaps_keeps _ _ _
  · refine .after .update (.foldl (fun u e => ?_) _ _)
    exact u.updTeam_keeps u.cur fun _ h => h

theorem State.fillThrough_keeps (s : State) (i : Gid) (g : Group) (m : MapBind) (mp : Map) (block : Nat) (todo : List Nat) :
    Keeps s (s.fillThrough i g m mp block todo) := by
  unfold State.fillThrough
  refine .after (.foldl (fun _ _ => ?_) _ _) (State.updGroup_keeps _ _ _)
  split
  · exact State.failFill_keeps _ _ _
  · exact .ite (State.fillAtom_keeps _ _ _ _ _ _) (.refl _)

theorem State.fillBlock_keeps (s : State) (i : Gid) (block : Nat) : Keeps s (s.fillBlock i block) := by
  unfold State.fillBlock
  dsimp only
  split
  · exact .refl _
  · split
    · exact State.updGroup_keeps _ _ _
    · split
      · exact State.updGroup_keeps _ _ _
      · split
        · exact State.updGroup_keeps _ _ _
        · split
          · refine .after (State.updGroup_keeps _ _ _) (.after (.foldl (fun _ _ => State.failFill_keeps _ _ _) _ _) ?_)
            exact .of_snd ‹_› (State.translate_keeps _ _ _ _ _)
          · split
            · refine .after (State.updGroup_keeps _ _ _) (.after (State.fillThrough_keeps _ _ _ _ _ _ _) (.of_snd ‹_› ?_))
              exact State.translate_keeps _ _ _ _ _
            · refine .after (State.askFill_keeps _ _ _) (.after (State.focus_keeps _ _) (.of_snd ‹_› ?_))
              exact State.translate_keeps _ _ _ _ _

theorem State.barrierExit_keeps (s : State) : Keeps s s.barrierExit := by
  unfold State.barrierExit
  split
  · exact .refl _
  · exact State.updTeam_keeps _ _ fun _ h => h

theorem State.endGroup_keeps (s : State) (i : Gid) : Keeps s (s.endGroup i) := by
  unfold State.endGroup
  split
  · exact .refl _
  · dsimp only
    split
    · refine .after (State.partWith_keeps _ _) (.after .update (.after (State.updLaunch_keeps _ _ _) ?_))
      exact State.updTeam_keeps _ _ fun _ h => h
    · split
      · split
        · refine .after (.filterTeams _ _) (.after (State.partWith_keeps _ _) (.after .update ?_))
          exact .after (State.updLaunch_keeps _ _ _) (State.updTeam_keeps _ _ fun _ h => h)
        · refine .after (State.partWith_keeps _ _) (.after .update (.after (State.updLaunch_keeps _ _ _) ?_))
          exact State.updTeam_keeps _ _ fun _ h => h
      · split
        · refine .after (.filterTeams _ _) (.after (State.partWith_keeps _ _) (.after .update ?_))
          exact .after (State.updLaunch_keeps _ _ _) (State.updTeam_keeps _ _ fun _ h => h)
        · refine .after (State.partWith_keeps _ _) (.after .update (.after (State.updLaunch_keeps _ _ _) ?_))
          exact State.updTeam_keeps _ _ fun _ h => h

theorem State.endIfDone_keeps (s : State) (i : Gid) : Keeps s (s.endIfDone i) := by
  unfold State.endIfDone
  split
  · exact .refl _
  · exact .ite (State.endGroup_keeps _ _) (.refl _)

theorem State.lastExit_keeps (s : State) : Keeps s s.lastExit := by
  unfold State.lastExit
  refine .after (State.endIfDone_keeps _ _) (.after (State.barrierExit_keeps _) ?_)
  exact .ite (.after (State.closeBlock_keeps _) .update) .update

theorem State.settleExit_keeps (s : State) (len cycle : Nat) : Keeps s (s.settleExit len cycle).1 := by
  unfold State.settleExit
  dsimp only
  split
  · split
    · exact .refl _
    · dsimp only
      exact .after (State.lastExit_keeps _) .update
  · split
    · exact .refl _
    · dsimp only
      exact .after (State.lastExit_keeps _) .update

theorem State.arrive_keeps (s : State) (len cycle timeout : Nat) : Keeps s (s.arrive len cycle timeout).1 := by
  unfold State.arrive
  dsimp only
  split
  · exact .refl _
  · split
    · dsimp only
      exact .after (State.emitPacket_keeps _ _) .update
    · split
      · dsimp only
        exact .after (State.emitPacket_keeps _ _) .update
      · exact .refl _

theorem State.expire_keeps (s : State) (e : Rejoin) : Keeps s (s.expire e) := .after (State.emitPacket_keeps _ _) .update

theorem State.expireAll_keeps (s : State) : Keeps s s.expireAll := .foldl (fun _ _ => State.expire_keeps _ _) _ _

theorem execRejoinExpiry_keeps (i : Gid) (entry : Nat) (s : State) : OutKeeps s (execRejoinExpiry i entry s) := by
  unfold execRejoinExpiry
  refine .next ?_
  split
  · exact .refl _
  · split
    · exact .refl _
    · exact .ite (.after (State.expire_keeps _ _) (State.focus_keeps _ _)) (.refl _)

theorem State.checkPlace_keeps (s : State) (va : Word) (size : Nat) (write poison : Bool) (ok : Map → Bool) :
    Keeps s (s.checkPlace va size write poison ok).2 := by
  unfold State.checkPlace
  split
  · exact .of_snd ‹_› (State.translate_keeps _ _ _ _ _)
  · split
    · exact .of_snd ‹_› (State.translate_keeps _ _ _ _ _)
    · split
      · exact .of_snd ‹_› (State.translate_keeps _ _ _ _ _)
      · split <;> exact .of_snd ‹_› (State.translate_keeps _ _ _ _ _)

theorem State.checkGlobal_keeps (s : State) (va : Word) (size : Nat) (write poison : Bool) :
    Keeps s (s.checkGlobal va size write poison).2 :=
  State.checkPlace_keeps _ _ _ _ _ _

theorem planAll_keeps {chk : State → Nat → Except (BitVec 8 × Word) Map × State} (h : ∀ u t, Keeps u (chk u t).2)
    (va : State → Nat → Word) (l : List Nat) (s : State) : Keeps s (planAll chk va l s).2.2 := by
  induction l generalizing s with
  | nil => exact .refl s
  | cons t l ih =>
    unfold planAll
    split
    · exact ih _
    · split <;> exact .after (ih _) (.of_snd ‹_› (h _ _))

theorem State.stepEnd_keeps (s : State) (i : Gid) (slot : Bool) (e : Mask) : Keeps s (s.stepEnd i slot e) := by
  unfold State.stepEnd
  split
  · exact .refl _
  · exact .ite (.after (State.afterIssue_keeps _ _) (.after .update (State.focus_keeps _ _))) (.refl _)

theorem State.releaseAt_keeps (s : State) (id : Nat) (op : Op) : Keeps s (s.releaseAt id op) :=
  .ite (.after (State.stepEnd_keeps _ _ _ _) (State.updGroup_keeps _ _ _)) (State.updGroup_keeps _ _ _)

theorem State.finishOp_keeps (s : State) (id : Nat) : Keeps s (s.finishOp id) := by
  unfold State.finishOp
  split
  · exact .refl _
  · dsimp only
    split
    · refine .after (State.endIfDone_keeps _ _) (.after (State.releaseAt_keeps _ _ _) (.after (State.updGroup_keeps _ _ _) ?_))
      exact .after (State.landKind_keeps _ _ _ _ _) .update
    · split
      · split
        · exact .after (State.doubleTrapOf_keeps _ _) (.after (State.landKind_keeps _ _ _ _ _) .update)
        · exact .after (State.landKind_keeps _ _ _ _ _) .update
      · split
        · exact .after (State.updGroup_keeps _ _ _) (.after (State.landKind_keeps _ _ _ _ _) .update)
        · refine .after (State.lateTrap_keeps _ _ _ _ _ _ _ _) (.after .update (.after (State.focus_keeps _ _) ?_))
          exact .after (State.landKind_keeps _ _ _ _ _) .update

theorem State.addOp_keeps (s : State) (id : Nat) (op : Op) (misses : List Sector) : Keeps s (s.addOp id op misses) :=
  .after (State.ask_keeps _ _ _ _) .update

theorem State.hold_keeps (s : State) (id : Nat) : Keeps s (s.hold id) := .update

theorem State.memory_keeps (s : State) (p : Pred) (sh : Shape) (va : State → Nat → Word)
    {chk : State → Nat → Except (BitVec 8 × Word) Map × State} {perform : State → Nat → List Plan → Draft × State}
    (hchk : ∀ u t, Keeps u (chk u t).2) (hperf : ∀ u id l, Keeps u (perform u id l).2) :
    Keeps s (s.memory p sh va chk perform) := by
  unfold State.memory
  dsimp only
  have hplan := planAll_keeps hchk va (sh.accessing (s.covered sh (s.cur.exec p))) s
  generalize planAll chk va (sh.accessing (s.covered sh (s.cur.exec p))) s = r at hplan ⊢
  have hdone := (hplan.trans .update).trans (hperf { r.2.2 with cur := r.2.2.cur.undenied }.fresh.2
    { r.2.2 with cur := r.2.2.cur.undenied }.fresh.1 r.1)
  generalize perform _ _ r.1 = d at hdone ⊢
  have hpaid : ∀ u : State, Keeps s u → ∀ n, Keeps s ((if u.cur.sp.charged then u else u.charge n).occupy n) := fun u hu n =>
    .after (State.occupy_keeps _ _) (.ite hu (.after (State.charge_keeps _ _) hu))
  have hop : ∀ c (id : Nat) (op : Op), Keeps s (if c = true then d.2.addOp id op d.1.misses else d.2) := fun _ _ _ =>
    .ite (.after (State.addOp_keeps _ _ _ _) hdone) hdone
  refine .ite (State.retire_keeps _ _ _ _) (.ite (State.stall_keeps _ _) (.ite (State.exhausted_keeps _ _ _) (.ite ?_ ?_)))
  · exact .ite (.after (State.hold_keeps _ _) (hpaid _ (hop _ _ _) _)) (.after (State.retire_keeps _ _ _ _) (hop _ _ _))
  · refine .after (State.hold_keeps _ _) (.after (State.addOp_keeps _ _ _ _) (hpaid _ ?_ _))
    exact .ite hdone (.after (State.overrun_keeps _) hdone)

theorem State.landOp_keeps (s : State) (id : Nat) : Keeps s (s.landOp id) := by
  unfold State.landOp
  split
  · exact .refl _
  · split <;> exact .ite (State.finishOp_keeps _ _) (.refl _)

theorem execStorePerformed_keeps (op : Nat) (s : State) : OutKeeps s (execStorePerformed op s) := by
  unfold execStorePerformed
  refine .next ?_
  split
  · exact .refl _
  · exact .ite (State.finishOp_keeps _ _) (.refl _)

end Sys2Proof.Machine
end

section
/-!
The canonical form of the memories (O60): loads, stores, full/empty atoms, fences, bindings, atomics and barriers (spec/18).
-/

namespace Sys2Proof.Machine

open Sys2Proof

theorem State.atIndirect_keeps (s : State) (x : Ord) {run : Nat → State → State} (h : ∀ i, Keeps s (run i s)) :
    Keeps s (s.atIndirect x run) := by
  unfold State.atIndirect
  split
  · exact h _
  · exact .ite (State.retire_keeps _ _ _ _) (State.refuse_keeps _ _ _)

theorem execMov_keeps (fn : MovFn) (x : Ord) (s : State) : OutKeeps s (execMov fn x s) := by
  unfold execMov
  split
  · exact .next (State.calc_keeps _ _ _ _)
  · exact .next (State.calc_keeps _ _ _ _)
  · refine .next (State.named_keeps _ _ _ (State.atIndirect_keeps _ _ ?_))
    intro _
    split
    · exact State.perThread_keeps _ _ _ (fun _ => .update)
    · exact .ite (State.uniform_keeps _ _ _ _ .update) (State.refuse_keeps _ _ _)
  · exact .next (State.named_keeps _ _ _ (State.atIndirect_keeps _ _ (fun _ => State.perThread_keeps _ _ _ (fun _ => .update))))

theorem execXred_keeps (fn : ScanOp) (x : Ord) (s : State) : OutKeeps s (execXred fn x s) := by
  unfold execXred
  refine .next (State.named_keeps _ _ _ (State.perThread_keeps _ _ _ ?_))
  intro _
  split
  · exact .update
  · exact .refl _

theorem State.checkedIf_keeps (s : State) (u : Bool) (p : Pred) (l : List Opd) {run : State → State}
    (h : ∀ u, Keeps u (run u)) : Keeps s (s.checkedIf u p l run) :=
  .ite (State.checked_keeps _ _ _ (fun _ => h _)) (h _)

theorem performAll_keeps {one : State → Plan → Draft × State} (h : ∀ u q, Keeps u (one u q).2) (s : State) (d : Draft)
    (l : List Plan) : Keeps s (performAll one s d l).2 := by
  induction l generalizing s d with
  | nil => exact .refl s
  | cons q l ih => exact .after (ih _ _) (h _ _)

theorem State.loadOne_keeps (x : Ord) (policy : Nat) (s0 : State) (id : Nat) (s : State) (q : Plan) :
    Keeps s (State.loadOne x policy s0 id s q).2 := by
  unfold State.loadOne
  dsimp only
  split
  · dsimp only
    exact State.touch_keeps _ _ _ _ _ _ _
  · dsimp only
    exact State.request_keeps _ _ _ _ _ _ _ _ _ _ _

theorem execLd_keeps (x : Ord) (s : State) : OutKeeps s (execLd x s) := by
  unfold execLd
  refine .next ?_
  refine .after (State.named_keeps _ _ _
    (State.checkedIf_keeps _ _ _ _ (fun _ => State.memory_keeps _ _ _ _ (fun _ _ => State.checkGlobal_keeps _ _ _ _ _)
      (fun _ _ _ => performAll_keeps (fun _ _ => State.loadOne_keeps _ _ _ _ _ _) _ _ _)))) ?_
  exact .refl _

theorem State.storeOne_keeps (policy : Nat) (bytes : State → Nat → List Byte) (id : Nat) (s : State) (q : Plan) :
    Keeps s (State.storeOne policy bytes id s q).2 := by
  unfold State.storeOne
  split
  · exact State.storeBytes_keeps _ _ _ _ _ _ _
  · exact State.remoteStore_keeps _ _ _ _ _ _ _

theorem execSt_keeps (x : Ord) (s : State) : OutKeeps s (execSt x s) := by
  unfold execSt
  refine .next (State.named_keeps _ _ _ (State.memory_keeps _ _ _ _ ?_ ?_))
  · exact fun _ _ => State.checkGlobal_keeps _ _ _ _ _
  · exact fun _ _ _ => .after (State.clearPoison_keeps _ _) (performAll_keeps (fun _ _ => State.storeOne_keeps _ _ _ _ _) _ _ _)

theorem State.checkLocal_keeps (s : State) (va : Word) (size : Nat) (whole : List Nat) :
    Keeps s (s.checkLocal va size whole).2 := by
  unfold State.checkLocal
  split
  · exact .refl _
  · split
    · exact .refl _
    · split
      · exact .refl _
      · split <;> exact .refl _

theorem State.dropFillFaults_keeps (s : State) : Keeps s s.dropFillFaults := .update

theorem State.localAccess_keeps (s : State) (p : Pred) (sh : Shape) (va : State → Nat → Word) (size : Nat) (whole : List Nat)
    {perform : State → List Plan → Draft × State} (h : ∀ u l, Keeps u (perform u l).2) :
    Keeps s (s.localAccess p sh va size whole perform) := by
  unfold State.localAccess
  split
  · exact State.stall_keeps _ _
  · refine State.memory_keeps _ _ _ _ ?_ ?_
    · exact fun _ _ => State.checkLocal_keeps _ _ _ _
    · exact fun _ _ _ => .after (h _ _) (State.dropFillFaults_keeps _)

theorem State.lsStore_keeps (s : State) (off : Nat) (bs : List Byte) : Keeps s (s.lsStore off bs) :=
  State.updTeam_keeps _ _ fun _ h => Team.store_wf _ _ h

theorem execLdls_keeps (x : Ord) (s : State) : OutKeeps s (execLdls x s) := by
  unfold execLdls
  refine .next ?_
  refine .after (State.named_keeps _ _ _
    (State.checkedIf_keeps _ _ _ _ (fun _ => State.localAccess_keeps _ _ _ _ _ _ (fun _ _ => .refl _)))) ?_
  exact .refl _

theorem execStls_keeps (x : Ord) (s : State) : OutKeeps s (execStls x s) := by
  refine .next (State.named_keeps _ _ _ (State.localAccess_keeps _ _ _ _ _ _ fun u l => ?_))
  refine .after (State.updTeam_keeps _ _ fun t ht => by rw [Team.markBlocks_ls]; exact ht) ?_
  exact .foldl (fun u q => u.lsStore_keeps _ _) _ _

theorem State.filledFor_keeps (s : State) (off n : Nat) (whole : List Nat) {fault : State → BitVec 8 → Nat → State}
    {run : State → State} (hf : ∀ u c a, Keeps u (fault u c a)) (h : ∀ u, Keeps u (run u)) :
    Keeps s (s.filledFor off n whole fault run) := by
  unfold State.filledFor
  split
  · exact h _
  · split
    · exact .after (hf _ _ _) (State.dropFillFaults_keeps _)
    · exact State.stall_keeps _ _

theorem State.setEmpty_keeps (s : State) (p : Nat) : Keeps s (s.setEmpty p) := State.setStack_keeps _ _ _

theorem State.setFull_keeps (s : State) (p : Nat) : Keeps s (s.setFull p) :=
  .after .update (.ite (.refl _) (State.setStack_keeps _ _ _))

theorem State.queueFe_keeps (s : State) (r : FeReq) : Keeps s (s.queueFe r) := .after .update (State.fresh_keeps _)

theorem State.applyChange_keeps (s : State) (l : List FeReq) (r : FeReq) : Keeps s (s.applyChange l r) := by
  unfold State.applyChange
  refine .after (.foldl (fun _ _ => ?_) _ _) ?_
  · exact .ite (State.setFull_keeps _ _) (State.setEmpty_keeps _ _)
  · exact .ite (State.mapWrite_keeps _ _ _ _) (.refl _)

theorem State.applyCheck_keeps (s : State) (op thread addr : Nat) : Keeps s (s.applyCheck op thread addr) := .update

theorem State.applyFe_keeps (s : State) : Keeps s s.applyFe := by
  unfold State.applyFe
  refine .after .update (.foldl (fun _ _ => ?_) _ _)
  split
  · exact State.applyChange_keeps _ _ _
  · exact State.applyCheck_keeps _ _ _ _

theorem State.checkWindow_keeps (s : State) (va : Word) (size : Nat) (write : Bool) :
    Keeps s (s.checkWindow va size write).2 :=
  State.checkPlace_keeps _ _ _ _ _ _

theorem State.ldfeOne_keeps (x : Ord) (s : State) (q : Plan) : Keeps s (State.ldfeOne x s q).2 := .refl _

theorem ldfeAll_keeps (x : Ord) (s : State) (l : List Plan) : Keeps s (ldfeAll x s l).2 := by
  unfold ldfeAll
  refine .foldl_snd (fun p q => ?_) l (_, s)
  exact p.2.ldfeOne_keeps x q

theorem execLdfe_keeps (x : Ord) (s : State) : OutKeeps s (execLdfe x s) := by
  unfold execLdfe
  refine .next ?_
  refine .after (State.named_keeps _ _ _
    (State.checkedIf_keeps _ _ _ _ (fun _ => State.memory_keeps _ _ _ _ (fun _ _ => State.checkWindow_keeps _ _ _ _)
      (fun _ _ _ => ldfeAll_keeps _ _ _)))) ?_
  exact .refl _

theorem State.stfeOne_keeps (x : Ord) (s : State) (q : Plan) : Keeps s (State.stfeOne x s q) :=
  .after (State.queueFe_keeps _ _) (.after (State.clearPoison_keeps _ _) (State.storeBytes_keeps _ _ _ _ _ _ _))

theorem execStfe_keeps (x : Ord) (s : State) : OutKeeps s (execStfe x s) := by
  unfold execStfe
  refine .next (State.named_keeps _ _ _ (State.memory_keeps _ _ _ _ ?_ ?_))
  · exact fun _ _ => State.checkWindow_keeps _ _ _ _
  · exact fun _ _ _ => .foldl (fun _ _ => State.stfeOne_keeps _ _ _) _ _

theorem State.clrfeOne_keeps (s : State) (q : Plan) : Keeps s (s.clrfeOne q) := State.queueFe_keeps _ _

theorem execClrfe_keeps (x : Ord) (s : State) : OutKeeps s (execClrfe x s) := by
  unfold execClrfe
  refine .next (State.named_keeps _ _ _ (State.memory_keeps _ _ _ _ ?_ ?_))
  · exact fun _ _ => State.checkWindow_keeps _ _ _ _
  · exact fun _ _ _ => .foldl (fun _ _ => State.clrfeOne_keeps _ _) _ _

theorem execLdfeTimeout_keeps (op : Nat) (s : State) : OutKeeps s (execLdfeTimeout op s) := by
  unfold execLdfeTimeout
  refine .next ?_
  split
  · exact .refl _
  · split
    · exact .ite (.refl _) (.ite (.after (State.finishOp_keeps _ _) .update) .update)
    · exact .refl _

theorem State.prefOne_keeps (x : Ord) (s : State) (t : Nat) : Keeps s (State.prefOne x s t) := by
  unfold State.prefOne
  dsimp only
  split
  · exact .of_snd ‹_› (State.translate_keeps _ _ _ _ _)
  · split
    · split
      · split
        · exact .of_snd ‹_› (State.translate_keeps _ _ _ _ _)
        · exact .after (State.request_keeps _ _ _ _ _ _ _ _ _ _ _) (.of_snd ‹_› (State.translate_keeps _ _ _ _ _))
      · exact .of_snd ‹_› (State.translate_keeps _ _ _ _ _)
    · split
      · exact .of_snd ‹_› (State.translate_keeps _ _ _ _ _)
      · split
        · exact .after (State.fillHome_keeps _ _) (.of_snd ‹_› (State.translate_keeps _ _ _ _ _))
        · exact .after (State.touch_keeps _ _ _ _ _ _ _) (.of_snd ‹_› (State.translate_keeps _ _ _ _ _))

theorem execPref_keeps (x : Ord) (s : State) : OutKeeps s (execPref x s) := by
  unfold execPref
  refine .next ?_
  exact State.named_keeps _ _ _ (State.perThread_keeps _ _ _ (fun _ => .foldl (fun _ _ => State.prefOne_keeps _ _ _) _ _))

theorem State.uniformly_keeps (s : State) (x : Ord) (srcs : List Opd) {run : State → State} (h : ∀ u, Keeps u (run u)) :
    Keeps s (s.uniformly x srcs run) := by
  unfold State.uniformly
  refine State.named_keeps _ _ _ ?_
  exact State.checked_keeps _ _ _ (fun _ => .ite (State.retire_keeps _ _ _ _) (.ite (State.exhausted_keeps _ _ _) (h _)))

theorem State.done_keeps (s : State) (x : Ord) (srcs : List Opd) : Keeps s (s.done x srcs) := State.retire_keeps _ _ _ _

theorem State.awaitWide_keeps (s : State) (w : Wait) : Keeps s (s.awaitWide w) := State.await_keeps _ _ _

theorem State.doneWide_keeps (s : State) (x : Ord) (srcs : List Opd) : Keeps s (s.doneWide x srcs) := by
  unfold State.doneWide
  refine .after (State.afterIssue_keeps _ _) (.after .update ?_)
  exact .ite (.refl _) (.after (State.occupy_keeps _ _) (State.charge_keeps _ _))

theorem execLsmap_keeps (x : Ord) (s : State) : OutKeeps s (execLsmap x s) := by
  unfold execLsmap
  refine .next (State.uniformly_keeps _ _ _ ?_)
  intro _
  dsimp only
  split
  · exact State.refuse_keeps _ _ _
  · split
    · exact State.refuse_keeps _ _ _
    · exact .after (State.done_keeps _ _ _) (State.updTeam_keeps _ _ fun _ h => h)

theorem State.uniformFault_keeps (s : State) (x : Ord) (c : BitVec 8) (va : Nat) (kind : BitVec 8) :
    Keeps s (s.uniformFault x c va kind) :=
  .after (State.trap_keeps _ _) (.after (State.occupy_keeps _ _) (.ite (.refl _) (State.charge_keeps _ _)))

theorem execLsunmap_keeps (x : Ord) (s : State) : OutKeeps s (execLsunmap x s) := by
  unfold execLsunmap
  refine .next (State.uniformly_keeps _ _ _ ?_)
  intro _
  split
  · exact State.doneWide_keeps _ _ _
  · split
    · exact .after (State.uniformFault_keeps _ _ _ _ _) (.of_snd ‹_› (State.backFirst_keeps _ _))
    · split
      · exact .after (State.awaitWide_keeps _ _) (.of_snd ‹_› (State.backFirst_keeps _ _))
      · refine .after (State.doneWide_keeps _ _ _) (.after (State.updTeam_keeps _ _ fun _ h => h) ?_)
        exact .of_snd ‹_› (State.backFirst_keeps _ _)

theorem State.pending_keeps (s : State) (x : Ord) (counter path delay : Nat) : Keeps s (s.pending x counter path delay) :=
  .after (State.addOp_keeps _ _ _ _) (State.fresh_keeps _)

theorem execLswb_keeps (x : Ord) (s : State) : OutKeeps s (execLswb x s) := by
  unfold execLswb
  refine .next (State.uniformly_keeps _ _ _ ?_)
  intro _
  split
  · exact State.done_keeps _ _ _
  · split
    · exact State.stall_keeps _ _
    · split
      · exact .after (State.uniformFault_keeps _ _ _ _ _) (.of_snd ‹_› (State.backFirst_keeps _ _))
      · split
        · exact .after (State.stall_keeps _ _) (.of_snd ‹_› (State.backFirst_keeps _ _))
        · refine .after (State.done_keeps _ _ _) (.after (State.pending_keeps _ _ _ _ _) (.of_snd ‹_› ?_))
          exact State.backFirst_keeps _ _

theorem execLsinv_keeps (x : Ord) (s : State) : OutKeeps s (execLsinv x s) := by
  unfold execLsinv
  refine .next (State.uniformly_keeps _ _ _ ?_)
  intro _
  split
  · exact State.done_keeps _ _ _
  · split
    · exact State.stall_keeps _ _
    · split
      · exact State.stall_keeps _ _
      · exact .after (State.done_keeps _ _ _) (.after (State.pending_keeps _ _ _ _ _) (State.updTeam_keeps _ _ fun _ h => h))

theorem State.answer_keeps (s : State) (f : Flit) (op : BitVec 6) (payload : List Byte) : Keeps s (s.answer f op payload) :=
  State.send_keeps _ _

theorem State.satisfy_keeps (s : State) (w : Waiter) : Keeps s (s.satisfy w) := by
  unfold State.satisfy
  split
  · exact State.answer_keeps _ _ _ _
  · exact .update

theorem settleOnce_keeps (s0 : State) (l : List Waiter) (taken : List Nat) (s : State) : Keeps s (settleOnce s0 l taken s) := by
  induction l generalizing taken s with
  | nil => exact .refl s
  | cons w l ih =>
    unfold settleOnce
    dsimp only
    split
    · exact .after (ih _ _) .update
    · exact .after (ih _ _) (.after (State.satisfy_keeps _ _) (.ite (State.putHome_keeps _ _ _) (.refl _)))

theorem State.settleWaiters_keeps (s : State) : Keeps s s.settleWaiters :=
  .ite (.refl _) (.foldl (fun _ _ => (.after (settleOnce_keeps _ _ _ _) .update)) _ _)

theorem State.coreBack_keeps (s : State) (f : Nat → Nat → Bool) : Keeps s (s.coreBack f) := State.writeBack_keeps _ _ _ _

theorem State.coreDrop_keeps (s : State) (f : Nat → Nat → Bool) : Keeps s (s.coreDrop f) := State.dropClean_keeps _ _ _ _

theorem State.releaseBound_keeps (s : State) (word scope : Nat) : Keeps s (s.releaseBound word scope).2 := by
  unfold State.releaseBound
  split
  · exact .of_snd ‹_› (State.backFirst_keeps _ _)
  · split
    · exact .of_snd ‹_› (State.backFirst_keeps _ _)
    · exact .after (State.coreBack_keeps _ _) (.of_snd ‹_› (State.backFirst_keeps _ _))

theorem State.releaseUnbound_keeps (s : State) : Keeps s s.releaseUnbound := State.coreBack_keeps _ _

theorem State.acquireAt_keeps (s : State) (die core launch word scope : Nat) :
    Keeps s (s.acquireAt die core launch word scope) :=
  .ite (.refl _) (.after (State.dropClean_keeps _ _ _ _) (.ite (State.fenceBytes_keeps _ _ _ _) (.refl _)))

theorem State.acquireBound_keeps (s : State) (word scope : Nat) : Keeps s (s.acquireBound word scope) :=
  State.acquireAt_keeps _ _ _ _ _ _

theorem execFenceScope_keeps (x : Ord) (s : State) : OutKeeps s (execFenceScope x s) := by
  unfold execFenceScope
  refine .next (State.uniformly_keeps _ _ _ ?_)
  intro _
  dsimp only
  split
  · exact State.awaitWide_keeps _ _
  · exact .after (State.doneWide_keeps _ _ _) (.ite (.refl _) (.after (State.coreDrop_keeps _ _) (State.coreBack_keeps _ _)))

theorem State.dropLines_keeps (s : State) (l : List (Nat × Nat × Nat)) : Keeps s (s.dropLines l) :=
  .after (State.dropAll_keeps _ _ _ _) (State.coreBack_keeps _ _)

theorem execFencePath_keeps (x : Ord) (s : State) : OutKeeps s (execFencePath x s) := by
  unfold execFencePath
  refine .next (State.uniformly_keeps _ _ _ ?_)
  intro _
  dsimp only
  split
  · exact State.awaitWide_keeps _ _
  · refine .after (State.doneWide_keeps _ _ _) ?_
    split
    · refine .after .update (.after (State.coreDrop_keeps _ _) (.after (State.dropLines_keeps _ _) ?_))
      exact .ite (State.coreBack_keeps _ _) (.refl _)
    · exact .ite (State.coreBack_keeps _ _) (.refl _)

theorem execFenceView_keeps (x : Ord) (s : State) : OutKeeps s (execFenceView x s) := by
  unfold execFenceView
  refine .next (State.uniformly_keeps _ _ _ ?_)
  intro _
  dsimp only
  split
  · exact State.refuse_keeps _ _ _
  · split
    · exact .after (State.uniformFault_keeps _ _ _ _ _) (.of_snd ‹_› (State.range_keeps _ _ _ _ _))
    · refine .after (State.doneWide_keeps _ _ _) (.after (State.coreDrop_keeps _ _) ?_)
      exact .after (State.fenceBytes_keeps _ _ _ _) (.of_snd ‹_› (State.range_keeps _ _ _ _ _))

theorem execBind_keeps (x : Ord) (s : State) : OutKeeps s (execBind x s) := by
  unfold execBind
  refine .next (State.uniformly_keeps _ _ _ ?_)
  intro _
  dsimp only
  split
  · exact State.refuse_keeps _ _ _
  · split
    · exact .after (State.uniformFault_keeps _ _ _ _ _) (.of_snd ‹_› (State.translate_keeps _ _ _ _ _))
    · split
      · exact .after (State.uniformFault_keeps _ _ _ _ _) (.of_snd ‹_› (State.translate_keeps _ _ _ _ _))
      · split
        · refine .after (State.uniformFault_keeps _ _ _ _ _) (.of_snd ‹_› (.after (State.range_keeps _ _ _ _ _) ?_))
          exact .of_snd ‹_› (State.translate_keeps _ _ _ _ _)
        · split
          · refine .after (State.refuse_keeps _ _ _) (.of_snd ‹_› (.after (State.range_keeps _ _ _ _ _) (.of_snd ‹_› ?_)))
            exact State.translate_keeps _ _ _ _ _
          · split
            · refine .after (State.refuse_keeps _ _ _) (.of_snd ‹_› (.after (State.range_keeps _ _ _ _ _) (.of_snd ‹_› ?_)))
              exact State.translate_keeps _ _ _ _ _
            · refine .after (State.doneWide_keeps _ _ _) (.after (State.updLaunch_keeps _ _ _) (.of_snd ‹_› ?_))
              exact .after (State.range_keeps _ _ _ _ _) (.of_snd ‹_› (State.translate_keeps _ _ _ _ _))

theorem execUnbind_keeps (x : Ord) (s : State) : OutKeeps s (execUnbind x s) := by
  unfold execUnbind
  refine .next (State.uniformly_keeps _ _ _ ?_)
  intro _
  dsimp only
  split
  · exact State.refuse_keeps _ _ _
  · split
    · exact .after (State.uniformFault_keeps _ _ _ _ _) (.of_snd ‹_› (State.range_keeps _ _ _ _ _))
    · split
      · exact .after (State.refuse_keeps _ _ _) (.of_snd ‹_› (State.range_keeps _ _ _ _ _))
      · refine .after (State.doneWide_keeps _ _ _) (.after (State.updLaunch_keeps _ _ _) (.of_snd ‹_› ?_))
        exact State.range_keeps _ _ _ _ _

theorem State.syncWord_keeps (s : State) (a : Word) (write : Bool) : Keeps s (s.syncWord a write).2 := by
  unfold State.syncWord
  split
  · exact .of_snd ‹_› (State.translate_keeps _ _ _ _ _)
  · split <;> exact .of_snd ‹_› (State.translate_keeps _ _ _ _ _)

theorem State.dropWaiter_keeps (s : State) : Keeps s s.dropWaiter := .update

theorem State.sendSync_keeps (s : State) (x : Ord) (m : Map) (a : Word) (code : Nat) (b : Word) (scope : Nat) (acquire : Bool) :
    Keeps s (s.sendSync x m a code b scope acquire) :=
  .ite (State.awaitWide_keeps _ _) (.after (State.awaitWide_keeps _ _) (State.request_keeps _ _ _ _ _ _ _ _ _ _ _))

theorem State.acquired_keeps (s : State) (x : Ord) (fn : AcqFn) (word : Nat) : Keeps s (s.acquired x fn word) := by
  unfold State.acquired
  refine .after (State.doneWide_keeps _ _ _) ?_
  split
  · exact .after (State.coreDrop_keeps _ _) (.after (State.acquireBound_keeps _ _ _) (State.dropWaiter_keeps _))
  · exact .after (State.acquireBound_keeps _ _ _) (State.dropWaiter_keeps _)

theorem execAcq_keeps (fn : AcqFn) (x : Ord) (s : State) : OutKeeps s (execAcq fn x s) := by
  unfold execAcq
  refine .next (State.uniformly_keeps _ _ _ ?_)
  intro _
  dsimp only
  split
  · refine .after (State.uniformFault_keeps _ _ _ _ _) (.after (State.dropWaiter_keeps _) (.of_snd ‹_› ?_))
    exact State.syncWord_keeps _ _ _
  · split
    · split
      · exact .after (State.acquired_keeps _ _ _ _) (.of_snd ‹_› (State.syncWord_keeps _ _ _))
      · exact .after (State.awaitWide_keeps _ _) (.of_snd ‹_› (State.syncWord_keeps _ _ _))
    · split
      · split
        · split
          · refine .after (State.acquired_keeps _ _ _ _) (.after (State.settleWaiters_keeps _) (.after .update ?_))
            exact .of_snd ‹_› (State.syncWord_keeps _ _ _)
          · refine .after (State.awaitWide_keeps _ _) (.after (State.settleWaiters_keeps _) (.after .update (.of_snd ‹_› ?_)))
            exact State.syncWord_keeps _ _ _
        · refine .after (State.awaitWide_keeps _ _) (.after (State.settleWaiters_keeps _) (.after .update (.of_snd ‹_› ?_)))
          exact State.syncWord_keeps _ _ _
      · exact .after (State.sendSync_keeps _ _ _ _ _ _ _ _) (.of_snd ‹_› (State.syncWord_keeps _ _ _))

theorem execRel_keeps (fn : RelFn) (x : Ord) (s : State) : OutKeeps s (execRel fn x s) := by
  unfold execRel
  refine .next (State.uniformly_keeps _ _ _ ?_)
  intro _
  dsimp only
  split
  · exact .after (State.uniformFault_keeps _ _ _ _ _) (.of_snd ‹_› (State.syncWord_keeps _ _ _))
  · split
    · exact .after (State.doneWide_keeps _ _ _) (.after (State.dropWaiter_keeps _) (.of_snd ‹_› (State.syncWord_keeps _ _ _)))
    · split
      · exact .after (State.awaitWide_keeps _ _) (.of_snd ‹_› (State.syncWord_keeps _ _ _))
      · split
        · refine .after (State.uniformFault_keeps _ _ _ _ _) (.of_snd ‹_› (.after (State.releaseBound_keeps _ _ _) ?_))
          exact .of_snd ‹_› (State.syncWord_keeps _ _ _)
        · split
          · split
            · split
              · refine .after (State.awaitWide_keeps _ _) (.after (State.coreBack_keeps _ _) (.of_snd ‹_› ?_))
                exact .after (State.releaseBound_keeps _ _ _) (.of_snd ‹_› (State.syncWord_keeps _ _ _))
              · split
                · refine .after (State.doneWide_keeps _ _ _) (.after (State.settleWaiters_keeps _) ?_)
                  refine .after (.foldl (fun _ _ => State.coreUpdate_keeps _ _ _ _ _ _) _ _) ?_
                  refine .after (State.mapWrite_keeps _ _ _ _) (.after (State.coreBack_keeps _ _) (.of_snd ‹_› ?_))
                  exact .after (State.releaseBound_keeps _ _ _) (.of_snd ‹_› (State.syncWord_keeps _ _ _))
                · refine .after (State.sendSync_keeps _ _ _ _ _ _ _ _) (.after (State.coreBack_keeps _ _) (.of_snd ‹_› ?_))
                  exact .after (State.releaseBound_keeps _ _ _) (.of_snd ‹_› (State.syncWord_keeps _ _ _))
            · split
              · refine .after (State.awaitWide_keeps _ _) (.after (State.coreBack_keeps _ _) (.of_snd ‹_› ?_))
                exact .after (State.releaseBound_keeps _ _ _) (.of_snd ‹_› (State.syncWord_keeps _ _ _))
              · split
                · refine .after (State.doneWide_keeps _ _ _) (.after (State.settleWaiters_keeps _) ?_)
                  refine .after (.foldl (fun _ _ => State.coreUpdate_keeps _ _ _ _ _ _) _ _) ?_
                  refine .after (State.mapWrite_keeps _ _ _ _) (.after (State.coreBack_keeps _ _) (.of_snd ‹_› ?_))
                  exact .after (State.releaseBound_keeps _ _ _) (.of_snd ‹_› (State.syncWord_keeps _ _ _))
                · refine .after (State.sendSync_keeps _ _ _ _ _ _ _ _) (.after (State.coreBack_keeps _ _) (.of_snd ‹_› ?_))
                  exact .after (State.releaseBound_keeps _ _ _) (.of_snd ‹_› (State.syncWord_keeps _ _ _))
          · split
            · split
              · refine .after (State.awaitWide_keeps _ _) (.of_snd ‹_› (.after (State.releaseBound_keeps _ _ _) ?_))
                exact .of_snd ‹_› (State.syncWord_keeps _ _ _)
              · split
                · refine .after (State.doneWide_keeps _ _ _) (.after (State.settleWaiters_keeps _) ?_)
                  refine .after (.foldl (fun _ _ => State.coreUpdate_keeps _ _ _ _ _ _) _ _) ?_
                  refine .after (State.mapWrite_keeps _ _ _ _) (.of_snd ‹_› (.after (State.releaseBound_keeps _ _ _) ?_))
                  exact .of_snd ‹_› (State.syncWord_keeps _ _ _)
                · refine .after (State.sendSync_keeps _ _ _ _ _ _ _ _) (.of_snd ‹_› ?_)
                  exact .after (State.releaseBound_keeps _ _ _) (.of_snd ‹_› (State.syncWord_keeps _ _ _))
            · split
              · refine .after (State.awaitWide_keeps _ _) (.of_snd ‹_› (.after (State.releaseBound_keeps _ _ _) ?_))
                exact .of_snd ‹_› (State.syncWord_keeps _ _ _)
              · split
                · refine .after (State.doneWide_keeps _ _ _) (.after (State.settleWaiters_keeps _) ?_)
                  refine .after (.foldl (fun _ _ => State.coreUpdate_keeps _ _ _ _ _ _) _ _) ?_
                  refine .after (State.mapWrite_keeps _ _ _ _) (.of_snd ‹_› (.after (State.releaseBound_keeps _ _ _) ?_))
                  exact .of_snd ‹_› (State.syncWord_keeps _ _ _)
                · refine .after (State.sendSync_keeps _ _ _ _ _ _ _ _) (.of_snd ‹_› ?_)
                  exact .after (State.releaseBound_keeps _ _ _) (.of_snd ‹_› (State.syncWord_keeps _ _ _))

theorem State.homeAtomic_keeps (s : State) (m : Map) (va n : Nat) (f : Nat → Option Nat) :
    Keeps s (s.homeAtomic m va n f).2 := by
  unfold State.homeAtomic
  dsimp only
  split
  · dsimp only
    exact State.coreBack_keeps _ _
  · dsimp only
    refine .after (State.settleWaiters_keeps _) (.after (.foldl (fun _ _ => State.coreUpdate_keeps _ _ _ _ _ _) _ _) ?_)
    exact .after (State.mapWrite_keeps _ _ _ _) (State.coreBack_keeps _ _)

theorem State.atomOne_keeps (x : Ord) (k : Rmw) (b c : State → Nat → Word) (f : Nat → Nat → Nat → Option Nat) (id : Nat)
    (s : State) (q : Plan) :
    Keeps s (State.atomOne x k b c f id s q).2 := by
  unfold State.atomOne
  split
  · exact .ite (.after (State.acquireBound_keeps _ _ _) (State.homeAtomic_keeps _ _ _ _ _)) (State.homeAtomic_keeps _ _ _ _ _)
  · exact .after (State.request_keeps _ _ _ _ _ _ _ _ _ _ _) (State.coreDrop_keeps _ _)

theorem State.checkAtomic_keeps (s : State) (va : Word) (size : Nat) (sync : Bool) :
    Keeps s (s.checkAtomic va size sync).2 := by
  unfold State.checkAtomic
  split
  · exact .of_snd ‹_› (State.checkGlobal_keeps _ _ _ _ _)
  · split <;> exact .of_snd ‹_› (State.checkGlobal_keeps _ _ _ _ _)

theorem State.releaseWords_keeps (scope : Nat) (l : List Nat) (s : State) : Keeps s (State.releaseWords scope l s).2 := by
  induction l generalizing s with
  | nil => exact .refl s
  | cons w l ih =>
    unfold State.releaseWords
    split
    · exact .of_snd ‹_› (State.releaseBound_keeps _ _ _)
    · exact .after (ih _) (.of_snd ‹_› (State.releaseBound_keeps _ _ _))

theorem State.atomic_keeps (s : State) (x : Ord) (srcs : List Opd) (k : Rmw) (b c : State → Nat → Word)
    (f : Nat → Nat → Nat → Option Nat) :
    Keeps s (s.atomic x srcs k b c f) := by
  unfold State.atomic
  refine State.named_keeps _ _ _ (State.checkedIf_keeps _ _ _ _ ?_)
  intro _
  dsimp only
  split
  · exact State.memory_keeps _ _ _ _ (fun _ _ => State.checkAtomic_keeps _ _ _ _)
      (fun _ _ _ => performAll_keeps (fun _ _ => State.atomOne_keeps _ _ _ _ _ _ _ _) _ _ _)
  · split
    · exact .after (State.uniformFault_keeps _ _ _ _ _) (.of_snd ‹_› (State.releaseWords_keeps _ _ _))
    · split
      · split
        · exact .after (State.stall_keeps _ _) (.of_snd ‹_› (State.releaseWords_keeps _ _ _))
        · refine .after (State.memory_keeps _ _ _ _ (fun _ _ => State.checkAtomic_keeps _ _ _ _)
            (fun _ _ _ => performAll_keeps (fun _ _ => State.atomOne_keeps _ _ _ _ _ _ _ _) _ _ _)) ?_
          exact .of_snd ‹_› (State.releaseWords_keeps _ _ _)
      · split
        · exact .after (State.stall_keeps _ _) (.of_snd ‹_› (State.releaseWords_keeps _ _ _))
        · refine .after (State.memory_keeps _ _ _ _ (fun _ _ => State.checkAtomic_keeps _ _ _ _)
            (fun _ _ _ => performAll_keeps (fun _ _ => State.atomOne_keeps _ _ _ _ _ _ _ _) _ _ _)) ?_
          exact .of_snd ‹_› (State.releaseWords_keeps _ _ _)

theorem State.atomlsOne_keeps (fn : AtomFn) (x : Ord) (s : State) (q : Plan) : Keeps s (State.atomlsOne fn x s q).2 :=
  State.lsStore_keeps _ _ _

theorem execAtomls_keeps (fn : AtomFn) (x : Ord) (s : State) : OutKeeps s (execAtomls fn x s) := by
  unfold execAtomls
  refine .next ?_
  refine .after (State.named_keeps _ _ _
    (State.checkedIf_keeps _ _ _ _ (fun _ => State.localAccess_keeps _ _ _ _ _ _
      (fun _ _ => performAll_keeps (fun _ _ => State.atomlsOne_keeps _ _ _ _) _ _ _)))) ?_
  exact .refl _

theorem State.arriveAt_keeps (s : State) (t : Team) (b n : Nat) : Keeps s (s.arriveAt t b n) :=
  .ite (.refl _) (.after .update (State.updTeam_keeps _ _ fun _ h => h))

theorem State.barWait_keeps (s : State) (x : Ord) (b : Nat) : Keeps s (s.barWait x b) := by
  unfold State.barWait
  split
  · exact State.doneWide_keeps _ _ _
  · exact .ite (State.doneWide_keeps _ _ _) (State.awaitWide_keeps _ _)

theorem execCbar_keeps (fn : CbarFn) (x : Ord) (s : State) : OutKeeps s (execCbar fn x s) := by
  unfold execCbar
  refine .next (State.uniformly_keeps _ _ _ ?_)
  intro _
  dsimp only
  split
  · exact State.refuse_keeps _ _ _
  · split
    · exact State.refuse_keeps _ _ _
    · split
      · exact .ite (State.doneWide_keeps _ _ _) (State.awaitWide_keeps _ _)
      · exact .after (State.barWait_keeps _ _ _) (State.arriveAt_keeps _ _ _ _)
      · exact .after (State.doneWide_keeps _ _ _) (State.arriveAt_keeps _ _ _ _)
      · exact State.barWait_keeps _ _ _

theorem execWait_keeps (l sc c t : BitVec 6) (s : State) : OutKeeps s (execWait l sc c t s) := by
  unfold execWait
  refine .next ?_
  dsimp only
  split
  · exact State.exhausted_keeps _ _ _
  · exact .ite (State.await_keeps _ _ _) (.ite (.after (State.refuse_keeps _ _ _) .update) (State.retire_keeps _ _ _ _))

end Sys2Proof.Machine
end

section
/-!
The canonical form of the memories (O60): queues, the arbiter, control flow, tiles and accords (spec/08, spec/17, spec/20).
-/

namespace Sys2Proof.Machine

open Sys2Proof

theorem State.queuePush_keeps (s : State) (a : Acc) (desc : Map) (va : Nat) (x : Word) :
    Keeps s (s.queuePush a desc va x).2 := by
  unfold State.queuePush
  dsimp only
  split
  · exact .refl _
  · split
    · dsimp only
      exact .of_snd ‹_› (State.translate_keeps _ _ _ _ _)
    · dsimp only
      refine .after (State.mapWrite_keeps _ _ _ _) (.after (State.mapWrite_keeps _ _ _ _) (.of_snd ‹_› ?_))
      exact State.translate_keeps _ _ _ _ _

theorem State.queuePop_keeps (s : State) (a : Acc) (desc : Map) (va : Nat) : Keeps s (s.queuePop a desc va).2 := by
  unfold State.queuePop
  extract_lets d
  split
  · exact .refl _
  · split
    · exact .of_snd ‹_› (State.translate_keeps _ _ _ _ _)
    · exact .after (State.mapWrite_keeps _ _ _ _) (.of_snd ‹_› (State.translate_keeps _ _ _ _ _))

theorem State.queueJoin_keeps (s : State) (key : Nat) (push : Bool) (g : Gid) : Keeps s (s.queueJoin key push g) :=
  .ite (.refl _) .update

theorem State.queueLeave_keeps (s : State) (key : Nat) (push : Bool) (g : Gid) : Keeps s (s.queueLeave key push g) := .update

theorem State.resumeAt_keeps (s : State) (t : Nat) (omask : Mask) : Keeps s (s.resumeAt t omask) := .update

theorem State.pauseAt_keeps (s : State) (k t : Nat) (omask : Mask) (w : Wait) : Keeps s (s.pauseAt k t omask w) := by
  unfold State.pauseAt
  refine .after (State.stall_keeps _ _) (.after (State.resumeAt_keeps _ _ _) ?_)
  exact .ite (.refl _) (.after (State.occupy_keeps _ _) (State.charge_keeps _ _))

theorem State.queueDone_keeps (s : State) (x : Ord) (cost : Nat) (e ok omask : Mask) :
    Keeps s (s.queueDone x cost e ok omask) :=
  .ite (State.retire_keeps _ _ _ _) (.after (State.exhausted_keeps _ _ _) (State.charge_keeps _ _))

theorem queueRun_keeps {one : State → Nat → QueueRes × State} (h : ∀ u t, Keeps u (one u t).2) (l : List Nat) (s : State) :
    Keeps s (queueRun one l s).2 := by
  induction l generalizing s with
  | nil => exact .refl s
  | cons t l ih =>
    unfold queueRun
    split
    · exact .after (ih _) (.of_snd ‹_› (h _ _))
    · exact .of_snd ‹_› (h _ _)
    · exact .of_snd ‹_› (h _ _)

theorem State.queueAct_keeps (s : State) (x : Ord) (push uniform : Bool) (h : Word) {one : Map → State → Nat → QueueRes × State}
    {onWait : Map → State → Nat → Option State} (hone : ∀ m u t, Keeps u (one m u t).2)
    (hwait : ∀ m u t v, onWait m u t = some v → Keeps u v) : Keeps s (s.queueAct x push uniform h one onWait) := by
  unfold State.queueAct
  dsimp only
  split
  · refine .after (State.trap_keeps _ _) (.after (State.occupy_keeps _ _) (.after (State.charge_keeps _ _) (.of_snd ‹_› ?_)))
    exact State.translate_keeps _ _ _ _ _
  · split
    · exact .after (State.refuse_keeps _ _ _) (.of_snd ‹_› (State.translate_keeps _ _ _ _ _))
    · split
      · refine .after (State.pauseAt_keeps _ _ _ _ _) (.after (State.queueJoin_keeps _ _ _ _) (.of_snd ‹_› ?_))
        exact State.translate_keeps _ _ _ _ _
      · split
        · refine .after (State.queueDone_keeps _ _ _ _ _ _) (.after (State.queueLeave_keeps _ _ _ _) (.of_snd ‹_› ?_))
          exact .after (queueRun_keeps (fun _ _ => hone _ _ _) _ _) (.of_snd ‹_› (State.translate_keeps _ _ _ _ _))
        · refine .after (State.trap_keeps _ _) (.after (State.occupy_keeps _ _) (.after (State.charge_keeps _ _) ?_))
          refine .after (State.queueLeave_keeps _ _ _ _) (.of_snd ‹_› (.after (queueRun_keeps (fun _ _ => hone _ _ _) _ _) ?_))
          exact .of_snd ‹_› (State.translate_keeps _ _ _ _ _)
        · split
          · refine .after (State.queueDone_keeps _ _ _ _ _ _) (.after (State.queueLeave_keeps _ _ _ _) ?_)
            refine .after (hwait _ _ _ _ ‹_›) (.of_snd ‹_› (.after (queueRun_keeps (fun _ _ => hone _ _ _) _ _) ?_))
            exact .of_snd ‹_› (State.translate_keeps _ _ _ _ _)
          · split
            · refine .after (State.pauseAt_keeps _ _ _ _ _) (.after (State.queueJoin_keeps _ _ _ _) (.of_snd ‹_› ?_))
              exact .after (queueRun_keeps (fun _ _ => hone _ _ _) _ _) (.of_snd ‹_› (State.translate_keeps _ _ _ _ _))
            · refine .after (State.pauseAt_keeps _ _ _ _ _) (.of_snd ‹_› ?_)
              exact .after (queueRun_keeps (fun _ _ => hone _ _ _) _ _) (.of_snd ‹_› (State.translate_keeps _ _ _ _ _))

theorem State.queueRemote_keeps (s : State) (m : Map) (va code : Nat) (x : Word) (t : Nat) (om : Mask) :
    Keeps s (s.queueRemote m va code x t om).2 := by
  unfold State.queueRemote
  split
  · exact .refl _
  · split
    · exact .refl _
    · exact State.request_keeps _ _ _ _ _ _ _ _ _ _ _

theorem execQpush_keeps (x : Ord) (s : State) : OutKeeps s (execQpush x s) := by
  unfold execQpush
  refine .next (State.named_keeps _ _ _ ?_)
  dsimp only
  split
  · exact State.retire_keeps _ _ _ _
  · split
    · exact State.exhausted_keeps _ _ _
    · split
      · exact State.refuse_keeps _ _ _
      · split
        · exact .after (State.trap_keeps _ _) (.after (State.occupy_keeps _ _) (State.charge_keeps _ _))
        · split
          · exact .after (State.stall_keeps _ _) (State.releaseUnbound_keeps _)
          · refine .after (State.queueAct_keeps _ _ _ _ _ ?_ (fun _ _ _ _ h1 => nomatch h1)) (State.releaseUnbound_keeps _)
            intro _ _ _
            split
            · exact State.queuePush_keeps _ _ _ _ _
            · exact State.queueRemote_keeps _ _ _ _ _ _ _

theorem State.writeD_keeps (s : State) (x : Ord) (t : Nat) (v : Word) : Keeps s (s.writeD x t v) := by
  unfold State.writeD
  split <;> exact .update

theorem execQpop_keeps (fn : QpopFn) (x : Ord) (s : State) : OutKeeps s (execQpop fn x s) := by
  refine .next (State.named_keeps _ _ _ ?_)
  dsimp only
  split
  · exact State.retire_keeps _ _ _ _
  · split
    · exact State.exhausted_keeps _ _ _
    · split
      · exact State.refuse_keeps _ _ _
      · refine State.queueAct_keeps _ _ _ _ _ (fun m u t => ?_) fun m u t v hv => ?_
        · split
          · refine .after (State.writeD_keeps _ _ _ _) (.after (State.coreDrop_keeps _ _) (.of_snd ‹_› ?_))
            split
            · exact State.queuePop_keeps _ _ _ _
            · exact State.queueRemote_keeps _ _ _ _ _ _ _
          · split
            · exact State.queuePop_keeps _ _ _ _
            · exact State.queueRemote_keeps _ _ _ _ _ _ _
        · split at hv
          · cases hv
          · split at hv
            · cases hv
            · cases hv; exact .foldl (fun u i => u.writeD_keeps _ _ _) _ _

theorem State.pushRecord_keeps (s : State) (seq st : Nat) (r : QRec) : Keeps s (s.pushRecord seq st r) :=
  State.updLaunch_keeps _ _ _

theorem State.emitChecks_keeps (s : State) (x : Ord) (own : Bool) {run : State → Stage → Nat → State}
    (h : ∀ u st off, Keeps u (run u st off)) : Keeps s (s.emitChecks x own run) := by
  unfold State.emitChecks
  refine State.named_keeps _ _ _ ?_
  dsimp only
  split
  · exact State.retire_keeps _ _ _ _
  · split
    · exact State.exhausted_keeps _ _ _
    · split
      · split
        · split
          · exact State.refuse_keeps _ _ _
          · split
            · exact .after (State.trap_keeps _ _) (.after (State.occupy_keeps _ _) (State.charge_keeps _ _))
            · exact h _ _ _
        · split
          · exact State.refuse_keeps _ _ _
          · split
            · exact .after (State.trap_keeps _ _) (.after (State.occupy_keeps _ _) (State.charge_keeps _ _))
            · exact h _ _ _
      · exact State.refuse_keeps _ _ _

theorem State.sendRecords_keeps (seq st off rs n : Nat) (l : List Nat) (s : State) :
    Keeps s (State.sendRecords seq st off rs n l s).2 := by
  induction n generalizing l s with
  | zero => cases l <;> exact .refl s
  | succ n ih =>
    cases l with
    | nil => exact .refl s
    | cons t l => exact .after (ih _ _) (s.pushRecord_keeps _ _ _)

theorem State.recordFault_keeps (s : State) (x : Ord) (cost : Nat) (ts : List Nat) (f : FillFault) :
    Keeps s (s.recordFault x cost ts f) := by
  unfold State.recordFault
  refine .after (State.trap_keeps _ _) (.after (State.occupy_keeps _ _) (.after (State.charge_keeps _ _) ?_))
  exact State.dropFillFaults_keeps _

theorem execEmit_keeps (x : Ord) (s : State) : OutKeeps s (execEmit x s) := by
  unfold execEmit
  refine .next (State.emitChecks_keeps _ _ _ ?_)
  intro _ _ _
  dsimp only
  split
  · split
    · refine .after (State.queueDone_keeps _ _ _ _ _ _) ?_
      split
      · refine .after (State.writeD_keeps _ _ _ _) (.of_snd ‹_› (.after (State.sendRecords_keeps _ _ _ _ _ _ _) ?_))
        exact State.releaseUnbound_keeps _
      · exact .of_snd ‹_› (.after (State.sendRecords_keeps _ _ _ _ _ _ _) (State.releaseUnbound_keeps _))
    · refine .after (State.pauseAt_keeps _ _ _ _ _) (.of_snd ‹_› (.after (State.sendRecords_keeps _ _ _ _ _ _ _) ?_))
      exact State.releaseUnbound_keeps _
  · exact State.stall_keeps _ _
  · split
    · refine .after (State.recordFault_keeps _ _ _ _ _) (.of_snd ‹_› (.after (State.sendRecords_keeps _ _ _ _ _ _ _) ?_))
      exact State.releaseUnbound_keeps _
    · refine .after (State.pauseAt_keeps _ _ _ _ _) (.of_snd ‹_› (.after (State.sendRecords_keeps _ _ _ _ _ _ _) ?_))
      exact State.releaseUnbound_keeps _

theorem execEmitRec_keeps (x : Ord) (s : State) : OutKeeps s (execEmitRec x s) := by
  unfold execEmitRec
  refine .next (State.emitChecks_keeps _ _ _ ?_)
  intro _ _ _
  dsimp only
  split
  · split
    · split
      · exact State.refuse_keeps _ _ _
      · exact .after (State.retire_keeps _ _ _ _) (.after (State.writeD_keeps _ _ _ _) (State.updLaunch_keeps _ _ _))
    · exact State.refuse_keeps _ _ _
  · split
    · exact .after (State.retire_keeps _ _ _ _) (State.writeD_keeps _ _ _ _)
    · split
      · exact State.stall_keeps _ _
      · exact State.recordFault_keeps _ _ _ _ _
      · refine .after (State.retire_keeps _ _ _ _) (.after (State.writeD_keeps _ _ _ _) ?_)
        exact .after (.foldl (fun _ _ => State.pushRecord_keeps _ _ _ _) _ _) (State.releaseUnbound_keeps _)

theorem State.present_keeps (s : State) (part die : Nat) (from_ : Submitter) (p : Packet) :
    Keeps s (s.present part die from_ p).2 :=
  .refl _

theorem execLaunch_keeps (x : Ord) (s : State) : OutKeeps s (execLaunch x s) := by
  unfold execLaunch
  refine .next (State.uniformly_keeps _ _ _ ?_)
  intro _
  refine State.named_keeps _ _ _ (.after (State.hold_keeps _ _) (.after (State.occupy_keeps _ _) ?_))
  split
  · refine .after (State.addOp_keeps _ _ _ _) (.after (State.fresh_keeps _) (.after (State.present_keeps _ _ _ _ _) ?_))
    exact State.releaseUnbound_keeps _
  · refine .after (State.charge_keeps _ _) (.after (State.addOp_keeps _ _ _ _) (.after (State.fresh_keeps _) ?_))
    exact .after (State.present_keeps _ _ _ _ _) (State.releaseUnbound_keeps _)

theorem execRacq_keeps (x : Ord) (s : State) : OutKeeps s (execRacq x s) := by
  unfold execRacq
  refine .next (State.uniformly_keeps _ _ _ ?_)
  intro _
  dsimp only
  split
  · exact State.refuse_keeps _ _ _
  · split
    · exact State.refuse_keeps _ _ _
    · split
      · exact State.done_keeps _ _ _
      · split
        · exact State.await_keeps _ _ _
        · exact .after (State.done_keeps _ _ _) (.after .update (State.updTeam_keeps _ _ fun _ h => h))

theorem execRrel_keeps (x : Ord) (s : State) : OutKeeps s (execRrel x s) := by
  unfold execRrel
  refine .next (State.uniformly_keeps _ _ _ ?_)
  exact fun _ => .ite (State.done_keeps _ _ _)
    (.after (State.done_keeps _ _ _) (.after .update (State.updTeam_keeps _ _ fun _ h => h)))

theorem State.unitRequest_keeps (s : State) (part die : Nat) (m : Map) (va : Nat) (op : BitVec 6) (payload : List Byte)
    (kind : RemoteKind) :
    Keeps s (s.unitRequest part die m va op payload kind) :=
  State.outstanding_keeps _ _ _

theorem State.unitWrite_keeps (s : State) (part va : Nat) (bs : List Byte) : Keeps s (s.unitWrite part va bs) := by
  unfold State.unitWrite
  split
  · exact .refl _
  · exact .ite (State.unitRequest_keeps _ _ _ _ _ _ _ _) (.after (State.clearPoison_keeps _ _) (State.mapWrite_keeps _ _ _ _))

theorem State.askDesc_keeps (s : State) (l : Launch) : Keeps s (s.askDesc l) :=
  .foldl (fun _ _ => State.unitRequest_keeps _ _ _ _ _ _ _ _) _ _

theorem State.msix_keeps (s : State) (fn vector : Nat) : Keeps s (s.msix fn vector) := .updateHost rfl

theorem State.statusTo_keeps (s : State) (seq code : Nat) : Keeps s (s.statusTo seq code) := by
  unfold State.statusTo
  split
  · exact .refl _
  · split
    · split
      · exact .refl _
      · exact .after (State.finishOp_keeps _ _) .update
    · split
      · exact .refl _
      · exact .after (State.msix_keeps _ _ _) (.after (.updateHost rfl) (State.hostWrite_keeps _ _ _))

theorem State.admission_keeps {s t : State} {l k : Launch} (h : s.admission l = some (k, t)) : Keeps s t := by
  unfold State.admission at h
  dsimp only at h
  split at h
  · split at h
    · cases h; exact .updateHost rfl
    · obtain ⟨pl, -, hp⟩ := Option.map_eq_some_iff.1 h
      cases hp; exact .refl s
  · obtain ⟨pl, -, hp⟩ := Option.map_eq_some_iff.1 h
    cases hp; exact .refl s

theorem State.decide_keeps (s : State) (l : Launch) : Keeps s (s.decide l).2 := by
  unfold State.decide
  dsimp only
  split
  · exact .update
  · split
    · exact .update
    · split
      · exact .update
      · split
        · split
          · exact .update
          · next h => exact .after .update (State.admission_keeps h)
        · exact .update

theorem execLaunchAdmission_keeps (s : State) : OutKeeps s (execLaunchAdmission s) := by
  unfold execLaunchAdmission
  refine .next ?_
  split
  · exact .refl _
  · split
    · exact .refl _
    · split
      · exact .update
      · exact .ite (State.askDesc_keeps _ _) (.after (State.statusTo_keeps _ _ _) (.after (State.decide_keeps _ _) .update))

theorem execLaunchStart_keeps (seq : Nat) (s : State) : OutKeeps s (execLaunchStart seq s) := by
  unfold execLaunchStart
  refine .next ?_
  split
  · exact .refl _
  · exact .ite (State.updLaunch_keeps _ _ _) (.refl _)

theorem State.takeArea_keeps (s : State) (l : Launch) (k : Nat × Nat × Nat) : Keeps s (s.takeArea l k).2 := by
  unfold State.takeArea
  split
  · intro h
    rw [State.memWf_iff] at *
    obtain ⟨hmem, hhost, hteams⟩ := h
    refine ⟨hmem, hhost, fun t ht => ?_⟩
    rcases List.mem_append.1 ht with ht | ht
    · exact hteams t ht
    · rw [List.mem_singleton.1 ht]; exact Mem.wf_nil
  · exact .mapTeams s fun t ht => by split <;> exact ht

theorem State.acquireUnbound_keeps (s : State) (die core : Nat) : Keeps s (s.acquireUnbound die core) :=
  State.dropClean_keeps _ _ _ _

theorem State.enter_keeps (s : State) (g : Group) : Keeps s (s.enter g) := .update

theorem State.place_keeps (s : State) (l : Launch) (ks : List (Nat × Nat × Nat)) : Keeps s (s.place l ks) := by
  unfold State.place
  refine .after (State.updLaunch_keeps _ _ _) ?_
  refine .after (.foldl (fun _ _ => ?_) _ _) ?_
  · refine .after (State.acquireUnbound_keeps _ _ _) ?_
    refine .after (State.enter_keeps _ _) ?_
    refine .after (State.takeArea_keeps _ _ _) ?_
    exact .refl _
  · exact .refl _

theorem State.popRecords_keeps (s : State) (seq k n : Nat) : Keeps s (s.popRecords seq k n) := State.updLaunch_keeps _ _ _

theorem State.setEligible_keeps (s : State) (seq k : Nat) (b : Bool) (join : Nat) : Keeps s (s.setEligible seq k b join) :=
  State.updLaunch_keeps _ _ _

theorem State.becomeEligible_keeps (s : State) (l : Launch) (k : Nat) (st : Stage) : Keeps s (s.becomeEligible l k st) :=
  .ite (State.setEligible_keeps _ _ _ _ _) (.after (State.updLaunch_keeps _ _ _) (State.popRecords_keeps _ _ _ _))

/-- The records of a stage, laid out one behind another. -/
theorem Mem.wf_putRecords {m : Mem} (a n : Nat) (l : List (QRec × Nat)) (hm : m.wf = true) :
    (l.foldl (fun m e => m.putBytes (a + e.2 * n) e.1.bytes) m).wf = true := by
  induction l generalizing m with
  | nil => exact hm
  | cons e l ih => exact ih (Mem.wf_putBytes _ _ hm)

theorem State.formGroup_keeps (s : State) (l : Launch) (k : Nat) (st : Stage) (lane : Nat × Nat × Nat) :
    Keeps s (s.formGroup l k st lane) := by
  unfold State.formGroup
  refine .after (State.updLaunch_keeps _ _ _)
    (.after (State.acquireUnbound_keeps _ _ _) (.after (State.popRecords_keeps _ _ _ _) ?_))
  refine .after (State.updTeam_keeps _ _ fun t h => Mem.wf_putRecords _ _ _ h) ?_
  exact .after .update (.after (State.enter_keeps _ _) (s.takeArea_keeps l lane))

theorem State.formStage_keeps (s : State) (seq k : Nat) : Keeps s (s.formStage seq k) := by
  unfold State.formStage
  split
  · split
    · exact .refl _
    · split
      · exact State.setEligible_keeps _ _ _ _ _
      · split
        · exact State.becomeEligible_keeps _ _ _ _
        · split
          · exact .refl _
          · split
            · exact State.formGroup_keeps _ _ _ _ _
            · exact .refl _
  · exact .refl _

theorem execFlushTimeout_keeps (seq stage : Nat) (s : State) : OutKeeps s (execFlushTimeout seq stage s) := by
  unfold execFlushTimeout
  refine .next ?_
  split
  · exact .ite (State.becomeEligible_keeps _ _ _ _) (.refl _)
  · exact .refl _

theorem execGroupDispatch_keeps (seq : Nat) (s : State) : OutKeeps s (execGroupDispatch seq s) := by
  unfold execGroupDispatch
  refine .next ?_
  split
  · exact .refl _
  · split
    · split
      · exact State.place_keeps _ _ _
      · exact .refl _
    · exact .refl _

theorem execLaunchEnd_keeps (seq : Nat) (s : State) : OutKeeps s (execLaunchEnd seq s) := by
  unfold execLaunchEnd
  refine .next ?_
  split
  · exact .refl _
  · split
    · exact State.endLaunch_keeps _ _
    · exact State.endLaunch_keeps _ _
    · exact State.endLaunch_keeps _ _
    · exact .refl _

theorem State.releaseLaunch_keeps (s : State) (l : Launch) : Keeps s (s.releaseLaunch l) :=
  .foldl (fun _ _ => State.writeBack_keeps _ _ _ _) _ _

theorem State.complete_keeps (s : State) (l : Launch) (status : Nat) : Keeps s (s.complete l status) := by
  unfold State.complete
  refine .after (State.updLaunch_keeps _ _ _) (.after (State.settleWaiters_keeps _) (.after (State.unitWrite_keeps _ _ _ _) ?_))
  exact .after (State.unitWrite_keeps _ _ _ _) (State.releaseLaunch_keeps _ _)

theorem State.passDeadline_keeps (s : State) (seq : Nat) : Keeps s (s.passDeadline seq) := by
  unfold State.passDeadline
  split
  · exact .refl _
  · split
    · exact .refl _
    · exact .ite (.refl _) (.after (State.updLaunch_keeps _ _ _) (.ite (State.void_keeps _ _) (.refl _)))

theorem execLaunchCompletion_keeps (seq : Nat) (s : State) : OutKeeps s (execLaunchCompletion seq s) := by
  unfold execLaunchCompletion
  refine .next ?_
  split
  · exact .refl _
  · split
    · split
      · exact .refl _
      · split
        · exact .ite (.refl _) (State.updLaunch_keeps _ _ _)
        · dsimp only
          split
          · exact .after (State.complete_keeps _ _ _) (State.passDeadline_keeps _ _)
          · exact State.passDeadline_keeps _ _
    · split
      · exact .refl _
      · split
        · exact .ite (.refl _) (State.updLaunch_keeps _ _ _)
        · dsimp only
          split
          · exact .after (State.complete_keeps _ _ _) (State.passDeadline_keeps _ _)
          · exact State.passDeadline_keeps _ _
    · split
      · exact .refl _
      · split
        · exact .ite (.refl _) (State.updLaunch_keeps _ _ _)
        · dsimp only
          split
          · exact .after (State.complete_keeps _ _ _) (State.passDeadline_keeps _ _)
          · exact State.passDeadline_keeps _ _
    · exact .refl _

theorem State.act_keeps (s : State) (p : Pred) {each : State → Mask → State} {fin : State → State × Bool}
    (heach : ∀ u e, Keeps u (each u e)) (hfin : ∀ u, Keeps u (fin u).1) : Keeps s (s.act p each fin) := by
  unfold State.act
  dsimp only
  split
  · split
    · exact .ite (.after (State.afterIssue_keeps _ _) (.after (hfin _) (heach _ _))) (.after (hfin _) (heach _ _))
    · split
      · refine .after (State.afterIssue_keeps _ _) (.after (hfin _) (.after (State.occupy_keeps _ _) ?_))
        exact .after (State.charge_keeps _ _) (heach _ _)
      · exact .after (hfin _) (.after (State.occupy_keeps _ _) (.after (State.charge_keeps _ _) (heach _ _)))
  · exact .after (State.exhausted_keeps _ _ _) (.after (State.occupy_keeps _ _) (.after (State.charge_keeps _ _) (heach _ _)))

theorem execBr_keeps (x : Branch) (s : State) : OutKeeps s (execBr x s) := by
  unfold execBr
  refine .next ?_
  dsimp only
  split
  · exact .after (State.retire_keeps _ _ _ _) (State.emitPacket_keeps _ _)
  · split
    · exact State.refuse_keeps _ _ _
    · split
      · refine State.act_keeps _ _ (fun _ _ => .refl _) ?_
        intro _
        exact .after .update (State.emitPacket_keeps _ _)
      · split
        · exact State.refuse_keeps _ _ _
        · refine State.act_keeps _ _ (fun _ _ => .refl _) ?_
          intro _
          exact .after .update (State.emitPacket_keeps _ _)

theorem State.jump_keeps (s : State) (x : Branch) (indirect call : Bool) (t : Word) : Keeps s (s.jump x indirect call t) := by
  unfold State.jump
  dsimp only
  split
  · exact State.refuse_keeps _ _ _
  · split
    · exact State.refuse_keeps _ _ _
    · split
      · refine State.act_keeps _ _ (fun _ _ => .ite .update (.refl _)) ?_
        intro _
        exact .after .update (.ite (.refl _) (State.emitPacket_keeps _ _))
      · split
        · exact State.refuse_keeps _ _ _
        · refine State.act_keeps _ _ (fun _ _ => .ite .update (.refl _)) ?_
          intro _
          exact .after .update (State.emitPacket_keeps _ _)

theorem State.jumpForm_keeps (s : State) (fn : JmpFn) (x : Branch) (call : Bool) : Keeps s (s.jumpForm fn x call) := by
  unfold State.jumpForm
  split
  · exact .ite (.after (State.retire_keeps _ _ _ _) (State.emitPacket_keeps _ _)) (State.jump_keeps _ _ _ _ _)
  · refine State.named_keeps _ _ _ ?_
    exact State.checked_keeps _ _ _ (fun _ => .ite (State.retire_keeps _ _ _ _) (State.jump_keeps _ _ _ _ _))

theorem State.exitThreads_keeps (s : State) (p : Pred) (len : Nat) : Keeps s (s.exitThreads p len) := by
  unfold State.exitThreads
  dsimp only
  split
  · split
    · refine .after (State.stall_keeps _ _) (.of_snd ‹_› ?_)
      split
      · exact State.backFirst_keeps _ _
      · exact .refl _
    · refine .after (State.act_keeps _ _ (fun _ _ => .update) (fun _ => State.settleExit_keeps _ _ _)) ?_
      refine .of_snd ‹_› ?_
      split
      · exact State.backFirst_keeps _ _
      · exact .refl _
  · refine .after (State.trap_keeps _ _) (.after .update (.after (State.occupy_keeps _ _) (.after (State.charge_keeps _ _) ?_)))
    refine .of_snd ‹_› ?_
    split
    · exact State.backFirst_keeps _ _
    · exact .refl _

theorem execRet_keeps (x : Ord) (s : State) : OutKeeps s (execRet x s) := by
  unfold execRet
  refine .next ?_
  dsimp only
  split
  · exact State.refuse_keeps _ _ _
  · split
    · exact State.retire_keeps _ _ _ _
    · split
      · exact State.exitThreads_keeps _ _ _
      · split
        · exact State.refuse_keeps _ _ _
        · split
          · split
            · exact State.refuse_keeps _ _ _
            · refine State.act_keeps _ _ (fun _ _ => .refl _) ?_
              intro _
              split
              · dsimp only
                exact .ite (.foldl (fun _ _ => State.emitPacket_keeps _ _) _ _) (.refl _)
              · dsimp only
                exact .after .update (.ite (.foldl (fun _ _ => State.emitPacket_keeps _ _) _ _) (.refl _))
          · split
            · exact State.refuse_keeps _ _ _
            · refine State.act_keeps _ _ (fun _ _ => .refl _) ?_
              intro _
              exact .after .update (.ite (.foldl (fun _ _ => State.emitPacket_keeps _ _) _ _) (.refl _))

theorem execSwitch_keeps (a : Opd) (_et : ET) (cases : List SwCase) (dflt : BitVec 32) (s : State) :
    OutKeeps s (execSwitch a _et cases dflt s) := by
  unfold execSwitch
  refine .next (State.named_keeps _ _ _ ?_)
  dsimp only
  split
  · exact State.refuse_keeps _ _ _
  · split
    · refine State.act_keeps _ _ (fun _ _ => .refl _) ?_
      intro _
      exact .after .update (State.emitPacket_keeps _ _)
    · split
      · exact State.refuse_keeps _ _ _
      · refine State.act_keeps _ _ (fun _ _ => .refl _) ?_
        intro _
        split
        · dsimp only
          exact .foldl (fun _ _ => State.emitPacket_keeps _ _) _ _
        · dsimp only
          exact .after .update (.foldl (fun _ _ => State.emitPacket_keeps _ _) _ _)

theorem execRejoin_keeps (x : Ord) (s : State) : OutKeeps s (execRejoin x s) := by
  unfold execRejoin
  refine .next (State.named_keeps _ _ _ (State.checked_keeps _ _ _ ?_))
  exact fun _ => .ite (State.retire_keeps _ _ _ _) (State.act_keeps _ _ (fun _ _ => .refl _) (fun _ => State.arrive_keeps _ _ _ _))

theorem execYield_keeps (fn : YieldFn) (x : Ord) (s : State) : OutKeeps s (execYield fn x s) := by
  unfold execYield
  refine .next (State.named_keeps _ _ _ (State.checked_keeps _ _ _ ?_))
  exact fun _ => .ite (State.retire_keeps _ _ _ _) (State.act_keeps _ _ (fun _ _ => .refl _) (fun _ => .refl _))

theorem State.failMember_keeps (s : State) (m : LatchMember) : Keeps s (s.failMember m) := State.updGroup_keeps _ _ _

theorem State.gangExit_keeps (s : State) (g : Group) : Keeps s (s.gangExit g) :=
  .after (.foldl (fun _ _ => State.failMember_keeps _ _) _ _) .update

theorem State.closeLatch_keeps (s : State) (g : Group) : Keeps s (s.closeLatch g) := by
  unfold State.closeLatch
  dsimp only
  split
  · exact .update
  · split
    · exact .after (.foldl (fun _ _ => State.updGroup_keeps _ _ _) _ _) .update
    · exact .after (.foldl (fun _ _ => State.failMember_keeps _ _) _ _) .update

theorem State.namedTile_keeps (s : State) (p : Pred) (a : Nat) (vs : List Nat) {run : State → State} (h : ∀ u, Keeps u (run u)) :
    Keeps s (s.namedTile p a vs run) :=
  .ite (h _) (State.refuse_keeps _ _ _)

theorem State.fillTrap_keeps (s : State) (x : Ord) (cause : BitVec 8) (va : Nat) : Keeps s (s.fillTrap x cause va) :=
  State.trap_keeps _ _

theorem State.product_keeps (s : State) (opc : Nat) (x : Ord) (scaled : Bool) : Keeps s (s.product opc x scaled) := by
  unfold State.product
  dsimp only
  refine State.namedTile_keeps _ _ _ _ ?_
  intro _
  refine State.named_keeps _ _ _ ?_
  split
  · exact State.refuse_keeps _ _ _
  · refine State.checked_keeps _ _ _ ?_
    intro _
    split
    · exact State.refuse_keeps _ _ _
    · split
      · split
        · exact State.refuse_keeps _ _ _
        · split
          · exact State.refuse_keeps _ _ _
          · split
            · exact State.stall_keeps _ _
            · split
              · exact State.stall_keeps _ _
              · split
                · split
                  · exact State.exhausted_keeps _ _ _
                  · split
                    · refine State.filledFor_keeps _ _ _ _ (fun _ _ _ => State.fillTrap_keeps _ _ _ _) ?_
                      intro _
                      split
                      · exact .after (State.closeLatch_keeps _ _) (.after .update (State.await_keeps _ _ _))
                      · exact .after .update (State.await_keeps _ _ _)
                    · dsimp only
                      split
                      · exact .after (State.closeLatch_keeps _ _) (.after .update (State.await_keeps _ _ _))
                      · exact .after .update (State.await_keeps _ _ _)
                · split
                  · exact State.exhausted_keeps _ _ _
                  · split
                    · refine State.filledFor_keeps _ _ _ _ (fun _ _ _ => State.fillTrap_keeps _ _ _ _) ?_
                      intro _
                      split
                      · exact .after (State.closeLatch_keeps _ _) (.after .update (State.await_keeps _ _ _))
                      · exact .after .update (State.await_keeps _ _ _)
                    · dsimp only
                      split
                      · exact .after (State.closeLatch_keeps _ _) (.after .update (State.await_keeps _ _ _))
                      · exact .after .update (State.await_keeps _ _ _)
      · split
        · exact State.refuse_keeps _ _ _
        · split
          · exact State.refuse_keeps _ _ _
          · split
            · exact State.stall_keeps _ _
            · split
              · exact State.stall_keeps _ _
              · split
                · split
                  · exact State.exhausted_keeps _ _ _
                  · split
                    · refine State.filledFor_keeps _ _ _ _ (fun _ _ _ => State.fillTrap_keeps _ _ _ _) ?_
                      intro _
                      split
                      · exact .after (State.closeLatch_keeps _ _) (.after .update (State.await_keeps _ _ _))
                      · exact .after .update (State.await_keeps _ _ _)
                    · dsimp only
                      split
                      · exact .after (State.closeLatch_keeps _ _) (.after .update (State.await_keeps _ _ _))
                      · exact .after .update (State.await_keeps _ _ _)
                · split
                  · exact State.exhausted_keeps _ _ _
                  · split
                    · refine State.filledFor_keeps _ _ _ _ (fun _ _ _ => State.fillTrap_keeps _ _ _ _) ?_
                      intro _
                      split
                      · exact .after (State.closeLatch_keeps _ _) (.after .update (State.await_keeps _ _ _))
                      · exact .after .update (State.await_keeps _ _ _)
                    · dsimp only
                      split
                      · exact .after (State.closeLatch_keeps _ _) (.after .update (State.await_keeps _ _ _))
                      · exact .after .update (State.await_keeps _ _ _)

theorem execMmaSlotEnd_keeps (i : Gid) (s : State) : OutKeeps s (execMmaSlotEnd i s) := by
  unfold execMmaSlotEnd
  refine .next ?_
  split
  · exact .refl _
  · split
    · exact .refl _
    · refine .after (State.endIfDone_keeps _ _) (.after (State.stepEnd_keeps _ _ _ _) (.after (State.updGroup_keeps _ _ _) ?_))
      exact .update

theorem State.onTile_keeps (s : State) (x : Ord) (a : Nat) (srcs : List Opd) {run : State → State} (h : ∀ u, Keeps u (run u)) :
    Keeps s (s.onTile x a srcs run) := by
  unfold State.onTile
  refine State.namedTile_keeps _ _ _ _ ?_
  intro _
  refine State.named_keeps _ _ _ ?_
  exact State.checked_keeps _ _ _ (fun _ => .ite (State.retire_keeps _ _ _ _) (.ite (State.stall_keeps _ _) (h _)))

theorem State.checkRow_keeps (s : State) (x : Ord) (write : Bool) (i : Nat) : Keeps s (s.checkRow x write i).2 := by
  unfold State.checkRow
  dsimp only
  split
  · exact .refl _
  · exact State.checkGlobal_keeps _ _ _ _ _

theorem State.mldOne_keeps (x : Ord) (s0 : State) (id : Nat) (s : State) (q : Plan) : Keeps s (State.mldOne x s0 id s q).2 := by
  unfold State.mldOne
  dsimp only
  split
  · dsimp only
    exact State.touch_keeps _ _ _ _ _ _ _
  · dsimp only
    exact .after (State.request_keeps _ _ _ _ _ _ _ _ _ _ _) (State.request_keeps _ _ _ _ _ _ _ _ _ _ _)

theorem execMld_keeps (x : Ord) (s : State) : OutKeeps s (execMld x s) := by
  unfold execMld
  refine .next ?_
  refine .after (State.onTile_keeps _ _ _ _
    (fun _ => State.memory_keeps _ _ _ _ (fun _ _ => State.checkRow_keeps _ _ _ _)
      (fun _ _ _ => performAll_keeps (fun _ _ => State.mldOne_keeps _ _ _ _ _) _ _ _))) ?_
  exact .refl _

theorem State.mstOne_keeps (x : Ord) (id : Nat) (s : State) (q : Plan) : Keeps s (State.mstOne x id s q).2 := by
  unfold State.mstOne
  split
  · exact State.storeOne_keeps _ _ _ _ _
  · exact .after (State.storeOne_keeps _ _ _ _ _) (State.storeOne_keeps _ _ _ _ _)

theorem execMst_keeps (x : Ord) (s : State) : OutKeeps s (execMst x s) := by
  unfold execMst
  refine .next (State.onTile_keeps _ _ _ _ ?_)
  intro _
  refine State.memory_keeps _ _ _ _ ?_ ?_
  · exact fun _ _ => State.checkRow_keeps _ _ _ _
  · exact fun _ _ _ => .after (State.clearPoison_keeps _ _) (performAll_keeps (fun _ _ => State.mstOne_keeps _ _ _ _) _ _ _)

theorem execMrd_keeps (x : Ord) (s : State) : OutKeeps s (execMrd x s) := by
  unfold execMrd
  refine .next (State.namedTile_keeps _ _ _ _ ?_)
  intro _
  refine State.named_keeps _ _ _ ?_
  exact .ite (State.stall_keeps _ _) (State.memory_keeps _ _ _ _ (fun _ _ => .refl _) (fun _ _ _ => .refl _))

theorem State.branchUniform_keeps (s : State) (x : Branch) {run : State → State} (h : ∀ u, Keeps u (run u)) :
    Keeps s (s.branchUniform x run) :=
  .ite (State.retire_keeps _ _ _ _) (.ite (State.exhausted_keeps _ _ _) (h _))

theorem execMrstSet_keeps (x : Branch) (s : State) : OutKeeps s (execMrstSet x s) := by
  unfold execMrstSet
  refine .next (State.branchUniform_keeps _ _ ?_)
  intro _
  dsimp only
  split
  · exact State.refuse_keeps _ _ _
  · split
    · exact State.refuse_keeps _ _ _
    · exact .after (State.retire_keeps _ _ _ _) .update

theorem execAccld_keeps (x : Ord) (s : State) : OutKeeps s (execAccld x s) := by
  unfold execAccld
  refine .next (State.uniformly_keeps _ _ _ ?_)
  intro _
  dsimp only
  split
  · exact State.refuse_keeps _ _ _
  · split
    · exact State.uniformFault_keeps _ _ _ _ _
    · split
      · exact State.uniformFault_keeps _ _ _ _ _
      · split
        · exact State.stall_keeps _ _
        · refine State.filledFor_keeps _ _ _ _ (fun _ _ _ => State.uniformFault_keeps _ _ _ _ _) ?_
          intro _
          refine .after (State.hold_keeps _ _) (.after (State.addOp_keeps _ _ _ _) (.after (State.occupy_keeps _ _) ?_))
          exact .after (State.charge_keeps _ _) (State.fresh_keeps _)

theorem State.failTile_keeps (s : State) (id : Nat) (op : Op) (e : AccErr) : Keeps s (s.failTile id op e) := by
  unfold State.failTile
  dsimp only
  split
  · split
    · exact .after (State.doubleTrapOf_keeps _ _) (.after (State.focus_keeps _ _) .update)
    · exact .after (State.focus_keeps _ _) .update
  · exact .after (State.takeHeld_keeps _) (.after .update (.after (State.focus_keeps _ _) .update))

theorem State.tileArrives_keeps (s : State) (id : Nat) : Keeps s (s.tileArrives id) := by
  unfold State.tileArrives
  split
  · exact .refl _
  · split
    · split
      · exact .refl _
      · split
        · exact .refl _
        · split
          · exact State.failTile_keeps _ _ _ _
          · refine .after (State.releaseAt_keeps _ _ _) (.after (State.ask_keeps _ _ _ _) (.after .update ?_))
            exact State.focus_keeps _ _
    · exact .refl _

theorem State.onHandle_keeps (s : State) (x : Ord) {run : State → Handle → Nat → State} (h : ∀ u k p, Keeps u (run u k p)) :
    Keeps s (s.onHandle x run) := by
  unfold State.onHandle
  dsimp only
  split
  · exact State.refuse_keeps _ _ _
  · split
    · exact State.refuse_keeps _ _ _
    · exact h _ _ _

theorem State.accPages_keeps (s : State) (x : Ord) (note : Word) (l : AccList) {run : State → Map → Map → State}
    (h : ∀ u m w, Keeps u (run u m w)) : Keeps s (s.accPages x note l run) := by
  unfold State.accPages
  dsimp only
  split
  · exact .ite (State.uniformFault_keeps _ _ _ _ _) (.ite (State.uniformFault_keeps _ _ _ _ _) (h _ _ _))
  · split
    · exact State.uniformFault_keeps _ _ _ _ _
    · split <;> exact State.uniformFault_keeps _ _ _ _ _
  · exact State.uniformFault_keeps _ _ _ _ _
  · split
    · exact State.uniformFault_keeps _ _ _ _ _
    · split <;> exact State.uniformFault_keeps _ _ _ _ _

theorem State.storeVersion_keeps (s : State) (w : Map) (l : AccList) (version : BitVec 32) :
    Keeps s (s.storeVersion w l version) := by
  unfold State.storeVersion
  refine .after (State.settleWaiters_keeps _) (.after (.foldl (fun _ _ => State.coreUpdate_keeps _ _ _ _ _ _) _ _) ?_)
  exact State.mapWrite_keeps _ _ _ _

theorem State.changeList_keeps (s : State) (x : Ord) (srcs : List Opd) (w : Map) (h : Handle) (p : Nat) (notes : List Word)
    {fin : State → State} (hfin : ∀ u, Keeps u (fin u)) : Keeps s (s.changeList x srcs w h p notes fin) := by
  unfold State.changeList
  dsimp only
  split
  · exact .after (State.uniformFault_keeps _ _ _ _ _) (.of_snd ‹_› (State.releaseBound_keeps _ _ _))
  · split
    · exact .after (State.awaitWide_keeps _ _) (.of_snd ‹_› (State.releaseBound_keeps _ _ _))
    · split
      · refine .after (State.doneWide_keeps _ _ _) (.after (hfin _) (.after (State.storeVersion_keeps _ _ _ _) ?_))
        exact .after (State.putHome_keeps _ _ _) (.of_snd ‹_› (State.releaseBound_keeps _ _ _))
      · refine .after (State.awaitWide_keeps _ _) (.after (State.request_keeps _ _ _ _ _ _ _ _ _ _ _) (.after (hfin _) ?_))
        exact .after (State.putHome_keeps _ _ _) (.of_snd ‹_› (State.releaseBound_keeps _ _ _))

theorem State.changing_keeps (s : State) (x : Ord) (srcs : List Opd) {run : State → State} (h : ∀ u, Keeps u (run u)) :
    Keeps s (s.changing x srcs run) := by
  unfold State.changing
  refine State.uniformly_keeps _ _ _ ?_
  intro _
  split
  · exact .after (State.doneWide_keeps _ _ _) (State.dropWaiter_keeps _)
  · exact .ite (State.awaitWide_keeps _ _) (h _)

theorem execAccAttach_keeps (x : Ord) (s : State) : OutKeeps s (execAccAttach x s) := by
  unfold execAccAttach
  refine .next (State.changing_keeps _ _ _ ?_)
  intro _
  refine State.onHandle_keeps _ _ ?_
  intro _ _ _
  split
  · exact State.refuse_keeps _ _ _
  · split
    · exact State.refuse_keeps _ _ _
    · refine State.accPages_keeps _ _ _ _ ?_
      intro _ _ _
      split
      · exact State.uniformFault_keeps _ _ _ _ _
      · exact .ite (State.refuse_keeps _ _ _) (State.changeList_keeps _ _ _ _ _ _ _ (fun _ => .refl _))

theorem State.supersede_keeps (s : State) (part handle k : Nat) : Keeps s (s.supersede part handle k) := .update

theorem State.pendDetach_keeps (s : State) (x : Ord) (after : List Nat) : Keeps s (s.pendDetach x after) :=
  .after (State.addOp_keeps _ _ _ _) (State.fresh_keeps _)

theorem execAccDetach_keeps (x : Ord) (s : State) : OutKeeps s (execAccDetach x s) := by
  unfold execAccDetach
  refine .next (State.changing_keeps _ _ _ ?_)
  intro _
  refine State.onHandle_keeps _ _ ?_
  intro _ _ _
  split
  · exact State.refuse_keeps _ _ _
  · refine State.accPages_keeps _ _ _ _ ?_
    intro _ _ _
    split
    · exact State.stall_keeps _ _
    · refine State.changeList_keeps _ _ _ _ _ _ _ ?_
      exact fun _ => .after (State.pendDetach_keeps _ _ _) (State.supersede_keeps _ _ _ _)

theorem execAccVersion_keeps (x : Ord) (s : State) : OutKeeps s (execAccVersion x s) := by
  unfold execAccVersion
  refine .next (State.named_keeps _ _ _ (State.uniformly_keeps _ _ _ ?_))
  exact fun _ => State.onHandle_keeps _ _ (fun _ _ _ => .after (State.doneWide_keeps _ _ _) .update)

end Sys2Proof.Machine
end

section
/-!
The canonical form of the memories (O60): engine commands, bank slices and the fabric (spec/02, spec/05, spec/21).
-/

namespace Sys2Proof.Machine

open Sys2Proof

theorem State.updCmdTeam_keeps (s : State) (c : Cmd) {f : Team → Team} (hf : ∀ t : Team, t.ls.wf = true → (f t).ls.wf = true) :
    Keeps s (s.updCmdTeam c f) :=
  .mapTeams s fun t ht => by
    split
    · exact hf t ht
    · exact ht

theorem State.readThrough_keeps (s : State) (a : Asker) (u : Via) (l : List (Map × Nat × Nat)) :
    Keeps s (s.readThrough a u l) := by
  unfold State.readThrough
  refine .after (.foldl (fun _ _ => ?_) _ _) ?_
  · exact .ite (State.fillHome_keeps _ _) (.refl _)
  · exact .after (State.ask_keeps _ _ _ _) (.foldl (fun _ _ => State.fillDie_keeps _ _ _) _ _)

theorem State.cmdReads_keeps (s : State) (c : Cmd) (l : List (Map × Nat × Nat)) : Keeps s (s.cmdReads c l) :=
  .ite (State.ask_keeps _ _ _ _) (State.readThrough_keeps _ _ _ _)

theorem State.askRanges_keeps (s : State) (c : Cmd) (l : List (Nat × Nat)) : Keeps s (s.askRanges c l) :=
  State.cmdReads_keeps _ _ _

theorem State.noteRuns_keeps (s : State) (c : Cmd) (l : List (Nat × Nat)) : Keeps s (s.noteRuns c l) :=
  State.updGroup_keeps _ _ _

theorem State.engPiece_keeps (s : State) (c : Cmd) (result : Bool) (m : Map) (va : Nat) (bs : List Marked) :
    Keeps s (s.engPiece c result m va bs) := by
  unfold State.engPiece
  dsimp only
  split
  · exact State.mapWrite_keeps _ _ _ _
  · split
    · split
      · refine .after (State.ask_keeps _ _ _ _) (.after (.foldl (fun _ _ => ?_) _ _) ?_)
        · exact .ite (State.markPoison_keeps _ _) (.refl _)
        · exact .after (State.clearPoison_keeps _ _) (.after (State.noteRuns_keeps _ _ _) (State.mapWrite_keeps _ _ _ _))
      · refine .after (State.queueFe_keeps _ _) (.after (State.ask_keeps _ _ _ _) (.after (.foldl (fun _ _ => ?_) _ _) ?_))
        · exact .ite (State.markPoison_keeps _ _) (.refl _)
        · exact .after (State.clearPoison_keeps _ _) (.after (State.noteRuns_keeps _ _ _) (State.mapWrite_keeps _ _ _ _))
    · refine .after (.foldl (fun _ _ => ?_) _ _) ?_
      · exact .ite (State.markPoison_keeps _ _) (.refl _)
      · exact .after (State.clearPoison_keeps _ _) (.after (State.noteRuns_keeps _ _ _) (State.mapWrite_keeps _ _ _ _))

theorem State.engRequest_keeps (s : State) (c : Cmd) (m : Map) (va : Nat) (op : BitVec 6) (payload : List Byte)
    (kind : RemoteKind) :
    Keeps s (s.engRequest c m va op payload kind) :=
  .after (State.outstanding_keeps _ _ _) (State.markRemote_keeps _ _ _ _)

theorem State.remoteRun_keeps (c : Cmd) (m : Map) (kind : RemoteKind) (l : List Nat) (r : State × Nat × List Marked) :
    Keeps r.1 (l.foldl (fun (r : State × Nat × List Marked) _ =>
      if min r.2.2.length (64 - r.2.1 % 64) = 0 then r
      else (r.1.engRequest c m r.2.1 opWrite (writePayload r.2.1 (r.2.2.take (min r.2.2.length (64 - r.2.1 % 64)))) kind,
        r.2.1 + min r.2.2.length (64 - r.2.1 % 64), r.2.2.drop (min r.2.2.length (64 - r.2.1 % 64)))) r).1 :=
  .foldl_fst (fun p _ => by
    split
    · exact .refl _
    · exact State.engRequest_keeps _ _ _ _ _ _ _) l r

theorem State.writePieces_keeps (s : State) (c : Cmd) (kind : RemoteKind) (l : List (Map × Nat × Nat)) (bs : List Marked) :
    Keeps s (s.writePieces c kind l bs) := by
  refine .foldl_fst (fun p x => ?_) l (s, bs)
  refine .trans (p.1.fillDie_keeps c.via x.2.1) ?_
  split
  · exact State.engPiece_keeps _ _ _ _ _ _
  · exact State.remoteRun_keeps c x.1 kind _ (_, _, _)

theorem State.pinRange_keeps (s : State) (a : Acc) (n : Need) (fuel va : Nat) (acc : List TlbEntry) :
    Keeps s (s.pinRange a n fuel va acc).2 := by
  induction fuel generalizing s a va acc with
  | zero => exact .refl s
  | succ fuel ih =>
    unfold State.pinRange
    split
    · exact .refl _
    · dsimp only
      split
      · dsimp only
        exact .of_snd ‹_› (State.translate_keeps _ _ _ _ _)
      · split
        · dsimp only
          exact .of_snd ‹_› (State.translate_keeps _ _ _ _ _)
        · split
          · split
            · dsimp only
              exact .of_snd ‹_› (.after (State.findLeaf_keeps _ _ _ _ _) (.of_snd ‹_› (State.translate_keeps _ _ _ _ _)))
            · refine .after (ih _ _ _ _) (.of_snd ‹_› (.after (State.findLeaf_keeps _ _ _ _ _) (.of_snd ‹_› ?_)))
              exact State.translate_keeps _ _ _ _ _
          · dsimp only
            exact .of_snd ‹_› (.after (State.findLeaf_keeps _ _ _ _ _) (.of_snd ‹_› (State.translate_keeps _ _ _ _ _)))

theorem State.pinAll_keeps (s : State) (a : Acc) (l : List Need) (acc : List TlbEntry) : Keeps s (s.pinAll a l acc).2 := by
  induction l generalizing s acc with
  | nil => exact .refl s
  | cons n l ih =>
    unfold State.pinAll
    split
    · exact .of_snd ‹_› (State.pinRange_keeps _ _ _ _ _ _)
    · exact .after (ih _ _) (.of_snd ‹_› (State.pinRange_keeps _ _ _ _ _ _))

theorem State.updCmd_keeps (s : State) (id : Nat) (f : Cmd → Cmd) : Keeps s (s.updCmd id f) := .update

theorem State.endCmd_keeps (s : State) (id status done : Nat) : Keeps s (s.endCmd id status done) := State.updCmd_keeps _ _ _

theorem State.engWrite_keeps {s t : State} {c : Cmd} {kind : RemoteKind} {va : Nat} {bs : List Marked}
    (h : s.engWrite c kind va bs = some t) : Keeps s t := by
  obtain ⟨l, -, rfl⟩ := Option.map_eq_some_iff.1 h
  exact s.writePieces_keeps c kind l bs

theorem State.deliver_keeps {s t : State} {c : Cmd} {dls : Bool} {dest : Nat} {bs : List Marked}
    (h : s.deliver c dls dest bs = some t) : Keeps s t := by
  unfold State.deliver at h
  split at h
  · cases h
    exact State.updCmdTeam_keeps _ _ fun t ht => by rw [Team.markBlocks_ls]; exact Team.store_wf _ _ ht
  · exact State.engWrite_keeps h

theorem State.cmdPut_keeps (s : State) (c : Cmd) (va : Nat) (bs : List Byte) : Keeps s (s.cmdPut c va bs) :=
  .getD (fun _ h => State.engWrite_keeps h) (.refl s)

theorem State.cmdCount_keeps (s : State) (c : Cmd) : Keeps s (s.cmdCount c) := by
  unfold State.cmdCount
  split
  · exact .refl _
  · exact .ite (State.engRequest_keeps _ _ _ _ _ _ _) (.after (State.settleWaiters_keeps _) (State.mapWrite_keeps _ _ _ _))

theorem State.completeCmd_keeps (s : State) (cmd : Nat) : Keeps s (s.completeCmd cmd) := by
  unfold State.completeCmd
  split
  · exact .refl _
  · split
    · exact .refl _
    · refine .after .update (.after (State.updGroup_keeps _ _ _) (.after (State.cmdCount_keeps _ _) ?_))
      exact State.cmdPut_keeps _ _ _ _

theorem State.dropWaiting_keeps (s : State) (id : Nat) : Keeps s (s.dropWaiting id) := .update

theorem State.breakCopy_keeps (s : State) (c : Cmd) (status : Nat) : Keeps s (s.breakCopy c status) :=
  .after (State.endCmd_keeps _ _ _ _) (State.dropWaiting_keeps _ _)

theorem State.copyAsk_keeps (s : State) (c : Cmd) (m : Map) (dst fuel va n : Nat) : Keeps s (s.copyAsk c m dst fuel va n) := by
  induction fuel generalizing s dst va n with
  | zero => exact .refl s
  | succ fuel ih =>
    unfold State.copyAsk
    exact .ite (.refl _) (.after (ih _ _ _ _) (State.engRequest_keeps _ _ _ _ _ _ _))

theorem State.settleCopy_keeps (s : State) (id : Nat) : Keeps s (s.settleCopy id) := by
  unfold State.settleCopy
  split
  · exact .refl _
  · exact .ite (State.endCmd_keeps _ _ _ _) (.refl _)

theorem State.cmdFill_keeps (s : State) (c : Cmd) (b : Nat) : Keeps s (s.cmdFill c b) := by
  unfold State.cmdFill
  split
  · exact .refl _
  · dsimp only
    split
    · refine .after (State.endCmd_keeps _ _ _ _) (.after (State.dropWaiting_keeps _ _) (.after (State.updGroup_keeps _ _ _) ?_))
      exact State.fillBlock_keeps _ _ _
    · exact State.fillBlock_keeps _ _ _

theorem State.copyAsks_keeps {s t : State} {c : Cmd} {r : Nat} (h : s.copyAsks c r = some t) : Keeps s t := by
  unfold State.copyAsks at h
  dsimp only at h
  split at h
  · cases h; exact State.updCmd_keeps _ _ _
  · obtain ⟨l, -, rfl⟩ := Option.map_eq_some_iff.1 h
    exact .after (.foldl (fun _ _ => State.copyAsk_keeps _ _ _ _ _ _ _) _ _)
      (.after (State.cmdReads_keeps _ _ _) (State.updCmd_keeps _ _ _))

/-- A run of operations each of which may fail keeps the form where each one does. -/
theorem Keeps.foldl_bind {α β : Type} {s : State} {st : β → State} {g : α → β → Option β}
    (hg : ∀ a b b', g a b = some b' → Keeps (st b) (st b')) (l : List α) (o : Option β) (ho : ∀ b, o = some b → Keeps s (st b)) :
    ∀ b, l.foldl (fun o a => o.bind (g a)) o = some b → Keeps s (st b) := by
  induction l generalizing o with
  | nil => exact ho
  | cons a l ih =>
    refine ih _ fun b' hb' => ?_
    obtain ⟨b, hb, hb'⟩ := Option.bind_eq_some_iff.1 hb'
    exact (ho b hb).trans (hg a b b' hb')

theorem State.copyRow_keeps {s t : State} {c : Cmd} {r : Nat} {bad : Bool} (h : s.copyRow c r = some (t, bad)) : Keeps s t := by
  unfold State.copyRow at h
  dsimp only at h
  split at h
  · obtain ⟨u, hu, he⟩ := Option.map_eq_some_iff.1 h
    cases he; exact State.deliver_keeps hu
  · obtain ⟨l, -, hl⟩ := Option.bind_eq_some_iff.1 h
    refine Keeps.foldl_bind (st := Prod.fst) (fun e a b hb => ?_) _ _ (fun b hb => ?_) _ hl
    · obtain ⟨u, hu, rfl⟩ := Option.map_eq_some_iff.1 hb
      exact State.deliver_keeps hu
    · cases hb; exact .refl s

theorem State.runCopy_keeps (s : State) (id : Nat) : Keeps s (s.runCopy id) := by
  unfold State.runCopy
  split
  · exact .refl _
  · split
    · exact .refl _
    · split
      · split
        · exact State.cmdFill_keeps _ _ _
        · exact .getD (fun _ h => State.copyAsks_keeps h) (State.breakCopy_keeps _ _ _)
      · split
        · exact State.breakCopy_keeps _ _ _
        · exact .after (State.settleCopy_keeps _ _) (.after (State.updCmd_keeps _ _ _) (State.copyRow_keeps ‹_›))

theorem State.askRecord_keeps (s : State) (c : Cmd) (n : Nat) (r : Lookup) : Keeps s (s.askRecord c n r) :=
  .after (State.askRanges_keeps _ _ _) (State.updCmd_keeps _ _ _)

theorem State.nextElem_keeps (s : State) (id : Nat) (bad : Bool) : Keeps s (s.nextElem id bad) := by
  unfold State.nextElem
  split
  · exact .refl _
  · exact .ite (.after (State.endCmd_keeps _ _ _ _) (State.updCmd_keeps _ _ _)) (State.updCmd_keeps _ _ _)

theorem State.runGather_keeps (s : State) (id : Nat) : Keeps s (s.runGather id) := by
  unfold State.runGather
  split
  · exact .refl _
  · dsimp only
    split
    · exact .refl _
    · split
      · exact .ite (State.endCmd_keeps _ _ _ _) (State.updCmd_keeps _ _ _)
      · split
        · split
          · split
            · exact State.cmdFill_keeps _ _ _
            · exact State.askRecord_keeps _ _ _ _
          · split
            · exact State.endCmd_keeps _ _ _ _
            · split
              · exact State.endCmd_keeps _ _ _ _
              · exact .after (State.nextElem_keeps _ _ _) (State.deliver_keeps ‹_›)
        · exact State.endCmd_keeps _ _ _ _

theorem State.updAccs_keeps (s : State) (k : Nat × Nat) (f : List AccEntry → List AccEntry) : Keeps s (s.updAccs k f) :=
  State.setStack_keeps _ _ _

theorem State.dropAccs_keeps (s : State) (c : Cmd) (g : Geo) (e : Nat) : Keeps s (s.dropAccs c g e) := State.updAccs_keeps _ _ _

theorem State.putResults_keeps {s t : State} {c : Cmd} {mv : Mvec} {e : Nat} {ys : List AccEntry}
    (h : s.putResults c mv e ys = some t) : Keeps s t :=
  Keeps.foldl_bind (st := id) (fun _ _ _ h => State.deliver_keeps h) _ _ (fun b hb => by cases hb; exact .refl s) t h

theorem State.endSquare_keeps (s : State) (c : Cmd) (mv : Mvec) : Keeps s (s.endSquare c mv) := by
  unfold State.endSquare
  dsimp only
  split
  · exact .after (State.endCmd_keeps _ _ _ _) (State.dropAccs_keeps _ _ _ _)
  · split
    · exact .after (State.nextElem_keeps _ _ _) (.after (State.updAccs_keeps _ _ _) (State.dropAccs_keeps _ _ _ _))
    · split
      · exact .after (State.endCmd_keeps _ _ _ _) (State.dropAccs_keeps _ _ _ _)
      · exact .after (State.nextElem_keeps _ _ _) (.after (State.putResults_keeps ‹_›) (State.dropAccs_keeps _ _ _ _))

theorem State.askSquare_keeps (s : State) (c : Cmd) (mv : Mvec) (l : List Sector) : Keeps s (s.askSquare c mv l) := by
  unfold State.askSquare
  dsimp only
  split
  · exact .after (State.askRanges_keeps _ _ _) (.after (State.ask_keeps _ _ _ _) (State.updCmd_keeps _ _ _))
  · exact .after (State.ask_keeps _ _ _ _) (State.updCmd_keeps _ _ _)

theorem State.runMvec_keeps (s : State) (id : Nat) : Keeps s (s.runMvec id) := by
  unfold State.runMvec
  split
  · exact .refl _
  · split
    · exact .refl _
    · split
      · exact State.endCmd_keeps _ _ _ _
      · split
        · split
          · exact State.endCmd_keeps _ _ _ _
          · exact .after (State.askRanges_keeps _ _ _) (State.updCmd_keeps _ _ _)
        · split
          · exact State.endSquare_keeps _ _ _
          · split
            · exact State.cmdFill_keeps _ _ _
            · exact .after (State.endCmd_keeps _ _ _ _) (State.dropAccs_keeps _ _ _ _)
            · exact State.askSquare_keeps _ _ _ _

theorem State.stopMvec_keeps (s : State) (c : Cmd) : Keeps s (s.stopMvec c) := by
  unfold State.stopMvec
  split
  · exact .refl _
  · dsimp only
    split
    · exact .ite (State.endSquare_keeps _ _ _) (.refl _)
    · split
      · exact .ite (State.endSquare_keeps _ _ _) (.refl _)
      · refine .after (State.updCmd_keeps _ _ _) (.after (State.dropAccs_keeps _ _ _ _) ?_)
        refine .after (.foldl (fun _ _ => ?_) _ _) (.ite (State.endSquare_keeps _ _ _) (.refl _))
        split
        · exact .refl _
        · exact .getD (fun _ h => State.engWrite_keeps h) (.refl _)

theorem State.setFip_keeps (s : State) (part idx : Nat) (b : Bool) : Keeps s (s.setFip part idx b) := by
  unfold State.setFip
  split
  · exact .refl _
  · exact State.putHome_keeps _ _ _

theorem State.endFold_keeps (s : State) (c : Cmd) (status done : Nat) : Keeps s (s.endFold c status done) :=
  .after (State.endCmd_keeps _ _ _ _) (.ite (State.setFip_keeps _ _ _ _) (.refl _))

theorem State.putSquare_keeps (s : State) (c : Cmd) (d : ET) (g : Geo) (sq : Nat) (cells : List (Nat × Nat × Bool)) :
    Keeps s (s.putSquare c d g sq cells) := by
  unfold State.putSquare
  refine .after (State.ask_keeps _ _ _ _) (.after (State.noteRuns_keeps _ _ _) (.after (.foldl (fun _ _ => ?_) _ _) ?_))
  · exact .ite (State.markPoison_keeps _ _) (.refl _)
  · exact .after (State.clearPoison_keeps _ _) (.foldl (fun _ _ => State.putHome_keeps _ _ _) _ _)

theorem State.foldStep_keeps (s : State) (c : Cmd) (l : AccList) (f g : Geo) (d : ET) : Keeps s (s.foldStep c l f g d) := by
  unfold State.foldStep
  split
  · exact State.endFold_keeps _ _ _ _
  · split
    · exact .after (State.ask_keeps _ _ _ _) (State.updCmd_keeps _ _ _)
    · exact .after (State.updCmd_keeps _ _ _) (State.putSquare_keeps _ _ _ _ _ _)

theorem State.runFold_keeps (s : State) (id : Nat) : Keeps s (s.runFold id) := by
  unfold State.runFold
  split
  · exact .refl _
  · split
    · exact .refl _
    · split
      · split
        · split
          · exact State.endCmd_keeps _ _ _ _
          · split
            · exact State.endFold_keeps _ _ _ _
            · exact .ite (.after (State.updCmd_keeps _ _ _) (State.setFip_keeps _ _ _ _)) (State.foldStep_keeps _ _ _ _ _ _)
        · exact State.endFold_keeps _ _ _ _
      · exact State.endFold_keeps _ _ _ _

theorem State.foldedAway_keeps (s : State) (c : Cmd) (n : Nat) : Keeps s (s.foldedAway c n) := .update

theorem State.swapFold_keeps (s : State) (id : Nat) : Keeps s (s.swapFold id) := by
  unfold State.swapFold
  split
  · exact .refl _
  · split
    · exact .refl _
    · split
      · exact State.endFold_keeps _ _ _ _
      · split
        · refine .after (State.endCmd_keeps _ _ _ _) ?_
          split
          · split
            · refine .after (State.engRequest_keeps _ _ _ _ _ _ _) (.after (State.foldedAway_keeps _ _ _) ?_)
              exact State.putHome_keeps _ _ _
            · refine .after (State.settleWaiters_keeps _) (.after (State.mapWrite_keeps _ _ _ _) ?_)
              exact .after (State.foldedAway_keeps _ _ _) (State.putHome_keeps _ _ _)
          · exact .after (State.foldedAway_keeps _ _ _) (State.putHome_keeps _ _ _)
        · exact State.endFold_keeps _ _ _ _

theorem State.sendColl_keeps (s : State) (c : Cmd) (peer : Nat) (bytes : List Byte) : Keeps s (s.sendColl c peer bytes) :=
  .foldl (fun _ _ => State.send_keeps _ _) _ _

theorem State.closeColl_keeps (s : State) (c : Cmd) (l : List Nat) : Keeps s (s.closeColl c l) :=
  .after .update (State.dropWaiting_keeps _ _)

theorem State.breakColl_keeps (s : State) (c : Cmd) (status : Nat) (hdr : Option Flit) (tell : Bool) :
    Keeps s (s.breakColl c status hdr tell) := by
  unfold State.breakColl
  split
  · exact .after (State.endCmd_keeps _ _ _ _) (State.dropWaiting_keeps _ _)
  · refine .after (State.endCmd_keeps _ _ _ _) (.after (State.updCmd_keeps _ _ _) (.after (State.closeColl_keeps _ _ _) ?_))
    exact .ite (.refl _) (.foldl (fun _ _ => (.ite (.refl _) (State.send_keeps _ _))) _ _)

theorem State.sendParts_keeps (s : State) (c : Cmd) (l : List Nat) (own : List Marked) : Keeps s (s.sendParts c l own) := by
  unfold State.sendParts
  refine .after (State.updCmd_keeps _ _ _) ?_
  refine .after (.foldl (fun _ _ => ?_) _ _) ?_
  · refine .after .update ?_
    refine .after (State.sendColl_keeps _ _ _ _) ?_
    exact .refl _
  · exact .refl _

theorem State.reduceParts_keeps (s : State) (c : Cmd) (l : List Nat) (own : List Marked) (ps : List CollPart) :
    Keeps s (s.reduceParts c l own ps) := by
  unfold State.reduceParts
  dsimp only
  split
  · exact State.breakColl_keeps _ _ _ _ _
  · split
    · exact State.breakColl_keeps _ _ _ _ _
    · exact .after (State.endCmd_keeps _ _ _ _) (.after (State.closeColl_keeps _ _ _) (State.engWrite_keeps ‹_›))

theorem State.runColl_keeps (s : State) (id : Nat) : Keeps s (s.runColl id) := by
  unfold State.runColl
  split
  · exact .refl _
  · split
    · exact .refl _
    · dsimp only
      split
      · split
        · exact State.breakColl_keeps _ _ _ _ _
        · split
          · exact .after (State.askRanges_keeps _ _ _) (State.updCmd_keeps _ _ _)
          · split
            · exact State.sendParts_keeps _ _ _ _
            · split
              · exact .refl _
              · exact State.reduceParts_keeps _ _ _ _ _
      · exact State.breakColl_keeps _ _ _ _ _

theorem State.toBoundary_keeps (s : State) (c : Cmd) : Keeps s (s.toBoundary c) :=
  .ite (State.stopMvec_keeps _ _) (.ite (State.runFold_keeps _ _) (State.updCmd_keeps _ _ _))

theorem State.revoke_keeps (s : State) (id : Nat) : Keeps s (s.revoke id) := by
  unfold State.revoke
  split
  · exact .refl _
  · dsimp only
    split
    · split
      · exact .after (State.breakCopy_keeps _ _ _) (State.updLaunch_keeps _ _ _)
      · split
        · exact .after (State.breakColl_keeps _ _ _ _ _) (State.updLaunch_keeps _ _ _)
        · split
          · split
            · exact .after (State.endFold_keeps _ _ _ _) (.after (State.updLaunch_keeps _ _ _) (State.toBoundary_keeps _ _))
            · exact State.toBoundary_keeps _ _
          · exact State.toBoundary_keeps _ _
    · split
      · exact .after (State.breakCopy_keeps _ _ _) (State.updLaunch_keeps _ _ _)
      · split
        · exact .after (State.breakColl_keeps _ _ _ _ _) (State.updLaunch_keeps _ _ _)
        · split
          · split
            · exact .after (State.endFold_keeps _ _ _ _) (.after (State.updLaunch_keeps _ _ _) (State.toBoundary_keeps _ _))
            · exact State.toBoundary_keeps _ _
          · exact State.toBoundary_keeps _ _
    · exact .ite (.after (State.breakCopy_keeps _ _ _) (State.updLaunch_keeps _ _ _)) (.refl _)
    · exact .refl _

theorem State.revokeRange_keeps (s : State) (part lo hi : Nat) : Keeps s (s.revokeRange part lo hi) :=
  .foldl (fun _ _ => State.revoke_keeps _ _) _ _

theorem State.stopCmd_keeps (s : State) (id : Nat) : Keeps s (s.stopCmd id) := by
  unfold State.stopCmd
  split
  · exact .refl _
  · exact .ite (.refl _) (.after (State.updCmd_keeps _ _ _) (.after (State.toBoundary_keeps _ _) (State.dropWaiting_keeps _ _)))

theorem State.uniformRead_keeps (s : State) (x : Ord) (va n : Nat) {run : State → Nat → State} (cause : BitVec 8 → BitVec 8)
    (h : ∀ u w, Keeps u (run u w)) : Keeps s (s.uniformRead x va n run cause) := by
  unfold State.uniformRead
  dsimp only
  split
  · exact .after (State.uniformFault_keeps _ _ _ _ _) (.of_snd ‹_› (State.checkGlobal_keeps _ _ _ _ _))
  · split
    · exact .after (h _ _) (.after (State.touch_keeps _ _ _ _ _ _ _) (.of_snd ‹_› (State.checkGlobal_keeps _ _ _ _ _)))
    · split
      · exact .after (State.uniformFault_keeps _ _ _ _ _) (.after .update (.of_snd ‹_› (State.checkGlobal_keeps _ _ _ _ _)))
      · split
        · exact .after (State.stall_keeps _ _) (.of_snd ‹_› (State.checkGlobal_keeps _ _ _ _ _))
        · refine .after (State.stall_keeps _ _) (.after (State.request_keeps _ _ _ _ _ _ _ _ _ _ _) (.of_snd ‹_› ?_))
          exact State.checkGlobal_keeps _ _ _ _ _

theorem execEcmd_keeps (x : Ord) (s : State) : OutKeeps s (execEcmd x s) := by
  unfold execEcmd
  refine .next (State.uniformly_keeps _ _ _ ?_)
  intro _
  dsimp only
  split
  · exact State.uniformFault_keeps _ _ _ _ _
  · split
    · exact State.uniformFault_keeps _ _ _ _ _
    · split
      · exact State.stall_keeps _ _
      · refine State.uniformRead_keeps _ _ _ _ _ ?_
        intro _ _
        split
        · exact State.uniformFault_keeps _ _ _ _ _
        · refine State.uniformRead_keeps _ _ _ _ _ ?_
          intro _ _
          split
          · exact State.uniformFault_keeps _ _ _ _ _
          · split
            · exact State.uniformFault_keeps _ _ _ _ _
            · split
              · refine .after (State.uniformFault_keeps _ _ _ _ _) (.of_snd ‹_› (.after (State.pinAll_keeps _ _ _ _) ?_))
                exact State.fresh_keeps _
              · refine .after (State.doneWide_keeps _ _ _) (.after .update (.of_snd ‹_› ?_))
                exact .after (State.pinAll_keeps _ _ _ _) (State.fresh_keeps _)

theorem State.nak_keeps (s : State) (f : Flit) (cause : BitVec 8) : Keeps s (s.nak f cause) := State.answer_keeps _ _ _ _

theorem State.homeRead_keeps (s : State) (f : Flit) (n : Nat) : Keeps s (s.homeRead f n) :=
  .after (State.fillHome_keeps _ _) (State.ask_keeps _ _ _ _)

theorem State.serveRead_keeps (s : State) (f : Flit) : Keeps s (s.serveRead f) := by
  unfold State.serveRead
  dsimp only
  split
  · exact .refl _
  · split
    · exact State.nak_keeps _ _ _
    · exact .ite (State.nak_keeps _ _ _) (.after (State.answer_keeps _ _ _ _) (State.homeRead_keeps _ _ _))

theorem State.serveWrite_keeps (s : State) (f : Flit) : Keeps s (s.serveWrite f) := by
  unfold State.serveWrite
  dsimp only
  split
  · exact .refl _
  · split
    · exact State.nak_keeps _ _ _
    · refine .after (State.answer_keeps _ _ _ _) (.after (State.settleWaiters_keeps _) (.after (.foldl (fun _ _ => ?_) _ _) ?_))
      · exact .ite (State.markPoison_keeps _ _) (.refl _)
      · exact .after (State.clearPoison_keeps _ _) (State.putHome_keeps _ _ _)

theorem State.serveAtom_keeps (s : State) (f : Flit) (r : AtomReq) : Keeps s (s.serveAtom f r) := by
  unfold State.serveAtom
  refine .after (State.answer_keeps _ _ _ _) ?_
  split
  · exact State.homeRead_keeps _ _ _
  · exact .after (State.settleWaiters_keeps _) (.after (State.putHome_keeps _ _ _) (State.homeRead_keeps _ _ _))

theorem State.serveAcquire_keeps (s : State) (f : Flit) (r : AtomReq) : Keeps s (s.serveAcquire f r) :=
  .after (State.settleWaiters_keeps _) .update

theorem State.serveQueue_keeps (s : State) (f : Flit) (r : AtomReq) : Keeps s (s.serveQueue f r) := by
  unfold State.serveQueue
  dsimp only
  split
  · exact State.nak_keeps _ _ _
  · split
    · split
      · exact State.answer_keeps _ _ _ _
      · split
        · exact State.nak_keeps _ _ _
        · split
          · exact State.nak_keeps _ _ _
          · exact .after (State.answer_keeps _ _ _ _) (.after (State.putHome_keeps _ _ _) (State.mapWrite_keeps _ _ _ _))
    · split
      · exact State.answer_keeps _ _ _ _
      · split
        · exact State.nak_keeps _ _ _
        · exact .ite (State.nak_keeps _ _ _) (.after (State.answer_keeps _ _ _ _) (State.putHome_keeps _ _ _))

theorem State.serveRequest_keeps (s : State) (f : Flit) : Keeps s (s.serveRequest f) := by
  unfold State.serveRequest
  dsimp only
  split
  · exact .refl _
  · split
    · exact .ite (State.nak_keeps _ _ _) (.ite (State.nak_keeps _ _ _) (State.serveQueue_keeps _ _ _))
    · split
      · exact State.nak_keeps _ _ _
      · exact .ite (State.nak_keeps _ _ _) (.ite (State.serveAcquire_keeps _ _ _) (State.serveAtom_keeps _ _ _))

theorem State.dropTag_keeps (s : State) (tag : Nat) : Keeps s (s.dropTag tag) := .update

theorem State.answered_keeps (s : State) (tag : Nat) (r : Remote) (f : Op → Op) : Keeps s (s.answered tag r f) := .update

theorem State.keepRemote_keeps (s : State) (r : Remote) (keep : Bool) (bs : List Byte) : Keeps s (s.keepRemote r keep bs) :=
  .after (.foldl (fun _ _ => State.useCore_keeps _ _ _ _) _ _) (State.setCore_keeps _ _ _ _)

theorem State.syncAnswer_keeps (s : State) (r : Remote) (slot : Bool) (bs : List Byte) : Keeps s (s.syncAnswer r slot bs) :=
  .update

theorem State.copyArrived_keeps (s : State) (id : Nat) (r : Remote) (dest : Word) (bs : List Byte) :
    Keeps s (s.copyArrived id r dest bs) := by
  unfold State.copyArrived
  split
  · exact .refl _
  · dsimp only
    split
    · exact .after (State.settleCopy_keeps _ _) (.after (State.updCmd_keeps _ _ _) (State.deliver_keeps ‹_›))
    · exact State.breakCopy_keeps _ _ _

theorem State.atomLanded_keeps (s : State) (r : Remote) (n : Nat) : Keeps s (s.atomLanded r n) := by
  unfold State.atomLanded
  dsimp only
  split
  · exact .after (State.acquireAt_keeps _ _ _ _ _ _) (.ite (State.dropClean_keeps _ _ _ _) (.refl _))
  · exact .ite (State.dropClean_keeps _ _ _ _) (.refl _)

theorem State.dataArrived_keeps (s : State) (f : Flit) : Keeps s (s.dataArrived f) := by
  unfold State.dataArrived
  split
  · exact .refl _
  · split
    · refine .after (State.answered_keeps _ _ _ _) (.after (State.dropTag_keeps _ _) (.after (State.atomLanded_keeps _ _ _) ?_))
      split
      · exact State.keepRemote_keeps _ _ _ _
      · exact .refl _
    · refine .after (State.answered_keeps _ _ _ _) (.after (State.dropTag_keeps _ _) ?_)
      split
      · exact State.keepRemote_keeps _ _ _ _
      · exact .refl _
    · exact .after (State.syncAnswer_keeps _ _ _ _) (State.dropTag_keeps _ _)
    · exact .after (State.copyArrived_keeps _ _ _ _ _) (State.dropTag_keeps _ _)
    · exact .after (State.updLaunch_keeps _ _ _) (State.dropTag_keeps _ _)
    · exact .after (State.answered_keeps _ _ _ _) (State.dropTag_keeps _ _)
    · exact .after (State.settleCopy_keeps _ _) (State.dropTag_keeps _ _)
    · exact .refl _

theorem State.acknowledged_keeps (s : State) (f : Flit) : Keeps s (s.acknowledged f) := by
  unfold State.acknowledged
  split
  · exact .refl _
  · split
    · exact .after (State.answered_keeps _ _ _ _) (State.dropTag_keeps _ _)
    · exact .after (State.settleCopy_keeps _ _) (State.dropTag_keeps _ _)
    · exact .after (State.syncAnswer_keeps _ _ _ _) (State.dropTag_keeps _ _)
    · exact .refl _

theorem State.syncFails_keeps (s : State) (r : Remote) (slot : Bool) (kind cause : BitVec 8) :
    Keeps s (s.syncFails r slot kind cause) := by
  unfold State.syncFails
  dsimp only
  split
  · exact State.updGroup_keeps _ _ _
  · split
    · exact State.doubleTrapOf_keeps _ _
    · split
      · exact .after (State.takeHeld_keeps _) (.after (State.focus_keeps _ _) (State.updGroup_keeps _ _ _))
      · exact State.updGroup_keeps _ _ _

theorem State.accessFails_keeps (s : State) (tag : Nat) (r : Remote) (cause : BitVec 8) :
    Keeps s (s.accessFails tag r cause) := by
  unfold State.accessFails
  dsimp only
  split
  · exact .after (State.syncFails_keeps _ _ _ _ _) (State.dropTag_keeps _ _)
  · split
    · exact .after (State.breakCopy_keeps _ _ _) (State.dropTag_keeps _ _)
    · exact State.dropTag_keeps _ _
  · exact .after (State.updLaunch_keeps _ _ _) (State.dropTag_keeps _ _)
  · split
    · exact .after (State.breakCopy_keeps _ _ _) (State.dropTag_keeps _ _)
    · exact State.dropTag_keeps _ _
  · split
    · exact .after (State.breakColl_keeps _ _ _ _ _) (State.dropTag_keeps _ _)
    · exact State.dropTag_keeps _ _
  · split
    · exact State.dropTag_keeps _ _
    · split
      · exact .after (State.updGroup_keeps _ _ _) (State.dropTag_keeps _ _)
      · exact .after (State.answered_keeps _ _ _ _) (State.dropTag_keeps _ _)

theorem State.collEnded_keeps (s : State) (f : Flit) : Keeps s (s.collEnded f) := .ite (.refl _) .update

theorem State.refused_keeps (s : State) (f : Flit) : Keeps s (s.refused f) := by
  unfold State.refused
  split
  · exact State.collEnded_keeps _ _
  · split
    · exact .refl _
    · exact State.accessFails_keeps _ _ _ _

theorem State.unreachable_keeps (s : State) (tag : Nat) : Keeps s (s.unreachable tag) := by
  unfold State.unreachable
  split
  · exact .refl _
  · split
    · exact State.accessFails_keeps _ _ _ _
    · exact .refl _
    · exact .ite (.after (State.report_keeps _ _) (.after (State.answered_keeps _ _ _ _) (State.dropTag_keeps _ _))) (.refl _)
    · exact .ite (State.accessFails_keeps _ _ _ _) (.refl _)

theorem State.collArrived_keeps (s : State) (f : Flit) : Keeps s (s.collArrived f) := .update

end Sys2Proof.Machine
end

section
/-!
The canonical form of the memories (O60): rays, filters, pre-emption, security, rings and repair (spec/06, spec/07, spec/10).
-/

namespace Sys2Proof.Machine

open Sys2Proof

theorem State.sendRecord_keeps (s : State) (r : Ray) (final : Bool) (bytes : List Byte) (due : Nat) :
    Keeps s (s.sendRecord r final bytes due) :=
  .after .update (State.fresh_keeps _)

theorem State.finishRay_keeps (s : State) (id : Nat) (r : Ray) (status due : Nat) : Keeps s (s.finishRay id r status due) :=
  .after (State.sendRecord_keeps _ _ _ _ _) .update

theorem State.countRays_keeps (s : State) (part scene gslot : Nat) (f : Nat → Nat) :
    Keeps s (s.countRays part scene gslot f) := by
  unfold State.countRays
  split
  · exact .refl _
  · exact State.putHome_keeps _ _ _

theorem State.retireRay_keeps (s : State) (h : HitRec) : Keeps s (s.retireRay h) :=
  .after .update (.after (State.setPart_keeps _ _ _) (State.countRays_keeps _ _ _ _ _))

theorem State.releaseBatch_keeps (bid fuel : Nat) (s : State) : Keeps s (State.releaseBatch bid fuel s) := by
  induction fuel generalizing s with
  | zero => exact .refl s
  | succ fuel ih =>
    unfold State.releaseBatch
    split
    · exact .refl _
    · split
      · exact .refl _
      · dsimp only
        split
        · exact .refl _
        · split
          · exact .after (ih _) (.ite (.after (State.retireRay_keeps _ _) .update) .update)
          · split
            · exact .update
            · refine .after (ih _) ?_
              split
              · exact .after (State.retireRay_keeps _ _) (.after .update (State.pushRecord_keeps _ _ _ _))
              · exact .after .update (State.pushRecord_keeps _ _ _ _)

theorem State.recordArrives_keeps (s : State) (id : Nat) : Keeps s (s.recordArrives id) := by
  unfold State.recordArrives
  split
  · exact .refl _
  · exact .ite (.refl _) (.after (State.releaseBatch_keeps _ _ _) .update)

theorem State.setRay_keeps (s : State) (id : Nat) (r : Ray) : Keeps s (s.setRay id r) := .update

theorem State.sendRay_keeps (s : State) (id : Nat) (r : Ray) (t : Treelet) (treelet rank due : Nat) :
    Keeps s (s.sendRay id r t treelet rank due) :=
  .after (State.setRay_keeps _ _ _) (State.fresh_keeps _)

theorem State.rayArrives_keeps (s : State) (id : Nat) : Keeps s (s.rayArrives id) := by
  unfold State.rayArrives
  split
  · exact .refl _
  · split
    · exact .ite (.refl _) (.after (State.setRay_keeps _ _ _) (State.fresh_keeps _))
    · exact .refl _

theorem State.moveIn_keeps (s : State) (stack queue : Nat) : Keeps s (s.moveIn stack queue) := .update

theorem State.startMoves_keeps (s : State) (stack key n : Nat) : Keeps s (s.startMoves stack key n) := by
  unfold State.startMoves
  refine .foldl (fun _ _ => ?_) _ _
  split
  · exact State.setRay_keeps _ _ _
  · exact .refl _

theorem State.take_keeps (s : State) (stack engine : Nat) : Keeps s (s.take stack engine) := by
  unfold State.take
  split
  · exact .refl _
  · dsimp only
    split
    · exact .refl _
    · exact .after (State.startMoves_keeps _ _ _ _) (.foldl (fun _ _ => State.setRay_keeps _ _ _) _ _)

theorem State.fetchNode_keeps (s : State) (id : Nat) (r : Ray) (die : Nat) : Keeps s (s.fetchNode id r die) :=
  State.readThrough_keeps _ _ _ _

theorem State.passOne_keeps (s : State) (stack engine : Nat) (e : Nat × Ray) (at_ : Nat) :
    Keeps s (s.passOne stack engine e at_).2 := by
  unfold State.passOne
  dsimp only
  split
  · dsimp only
    exact .after (State.finishRay_keeps _ _ _ _ _) (State.fetchNode_keeps _ _ _ _)
  · split
    · dsimp only
      refine .after (State.setRay_keeps _ _ _) ?_
      split
      · split
        · exact State.fetchNode_keeps _ _ _ _
        · exact .after .update (State.fetchNode_keeps _ _ _ _)
      · refine .after (State.sendRecord_keeps _ _ _ _ _) ?_
        split
        · exact State.fetchNode_keeps _ _ _ _
        · exact .after .update (State.fetchNode_keeps _ _ _ _)
    · dsimp only
      refine .after (State.setRay_keeps _ _ _) ?_
      split
      · split
        · exact State.fetchNode_keeps _ _ _ _
        · exact .after .update (State.fetchNode_keeps _ _ _ _)
      · refine .after (State.sendRecord_keeps _ _ _ _ _) ?_
        split
        · exact State.fetchNode_keeps _ _ _ _
        · exact .after .update (State.fetchNode_keeps _ _ _ _)
    · dsimp only
      refine .after (State.finishRay_keeps _ _ _ _ _) ?_
      split
      · split
        · exact State.fetchNode_keeps _ _ _ _
        · exact .after .update (State.fetchNode_keeps _ _ _ _)
      · refine .after (State.sendRecord_keeps _ _ _ _ _) ?_
        split
        · exact State.fetchNode_keeps _ _ _ _
        · exact .after .update (State.fetchNode_keeps _ _ _ _)

theorem State.passAll_keeps (stack engine start k : Nat) (l : List (Nat × Ray)) (s : State) :
    Keeps s (State.passAll stack engine start k l s).2 := by
  induction l generalizing k s with
  | nil => exact .refl s
  | cons e l ih => exact .after (ih _ _) (s.passOne_keeps _ _ _ _)

theorem State.forward_keeps (s : State) (stack engine : Nat) (e : Nat × Ray × Nat) : Keeps s (s.forward stack engine e) := by
  unfold State.forward
  split
  · exact State.finishRay_keeps _ _ _ _ _
  · exact State.sendRay_keeps _ _ _ _ _ _ _

theorem State.pass_keeps (s : State) (stack engine : Nat) : Keeps s (s.pass stack engine) := by
  unfold State.pass
  dsimp only
  split
  · exact .refl _
  · refine .after (.foldl (fun _ _ => State.setRay_keeps _ _ _) _ _) ?_
    exact .after (.foldl (fun _ _ => State.forward_keeps _ _ _ _) _ _) (State.passAll_keeps _ _ _ _ _ _)

theorem State.sceneSync_keeps (s : State) (x : Ord) (va : Nat) {run : State → Nat → State} (h : ∀ u w, Keeps u (run u w)) :
    Keeps s (s.sceneSync x va run) := by
  unfold State.sceneSync
  split
  · refine .after (State.uniformFault_keeps _ _ _ _ _) (.after (State.dropWaiter_keeps _) (.of_snd ‹_› ?_))
    exact State.checkGlobal_keeps _ _ _ _ _
  · split
    · exact .after (State.uniformFault_keeps _ _ _ _ _) (.of_snd ‹_› (State.checkGlobal_keeps _ _ _ _ _))
    · split
      · exact .after (h _ _) (.after (State.acquireBound_keeps _ _ _) (.of_snd ‹_› (State.checkGlobal_keeps _ _ _ _ _)))
      · split
        · refine .after (h _ _) (.after (State.acquireBound_keeps _ _ _) (.after (State.dropWaiter_keeps _) (.of_snd ‹_› ?_)))
          exact State.checkGlobal_keeps _ _ _ _ _
        · split
          · exact .after (State.stall_keeps _ _) (.of_snd ‹_› (State.checkGlobal_keeps _ _ _ _ _))
          · refine .after (State.stall_keeps _ _) (.after (State.request_keeps _ _ _ _ _ _ _ _ _ _ _) (.of_snd ‹_› ?_))
            exact State.checkGlobal_keeps _ _ _ _ _

theorem State.launchRay_keeps (s : State) (r : Ray) (base : Nat) : Keeps s (s.launchRay r base) := by
  unfold State.launchRay
  dsimp only
  split
  · exact .after (State.finishRay_keeps _ _ _ _ _) (State.fresh_keeps _)
  · split
    · exact .after (State.finishRay_keeps _ _ _ _ _) (State.fresh_keeps _)
    · exact .after (State.sendRay_keeps _ _ _ _ _ _ _) (State.fresh_keeps _)

theorem State.sendRays_keeps (s : State) (mode : RayMode) (x : Ord) (scene stage gen slot : Nat) :
    Keeps s (s.sendRays mode x scene stage gen slot) := by
  unfold State.sendRays
  dsimp only
  split
  · exact State.stall_keeps _ _
  · refine .after (State.queueDone_keeps _ _ _ _ _ _) (.after .update (.after (State.setPart_keeps _ _ _) ?_))
    refine .after (State.countRays_keeps _ _ _ _ _) (.after (.foldl (fun _ _ => State.launchRay_keeps _ _ _) _ _) ?_)
    exact State.fresh_keeps _

theorem execRsend_keeps (fn : RayMode) (x : Ord) (s : State) : OutKeeps s (execRsend fn x s) := by
  unfold execRsend
  refine .next ?_
  split
  · exact State.refuse_keeps _ _ _
  · refine State.named_keeps _ _ _ (State.checked_keeps _ _ _ ?_)
    intro _
    dsimp only
    split
    · exact State.retire_keeps _ _ _ _
    · split
      · exact State.exhausted_keeps _ _ _
      · split
        · exact State.refuse_keeps _ _ _
        · split
          · exact State.refuse_keeps _ _ _
          · refine State.uniformRead_keeps _ _ _ _ _ ?_
            intro _ _
            refine State.sceneSync_keeps _ _ _ ?_
            exact fun _ _ => .ite (State.refuse_keeps _ _ _) (State.sendRays_keeps _ _ _ _ _ _ _)

theorem State.filterRequest_keeps (s : State) (id : Nat) : Keeps s (s.filterRequest id) := by
  unfold State.filterRequest
  split
  · exact .refl _
  · split
    · split
      · exact .refl _
      · dsimp only
        split
        · refine .after (State.releaseAt_keeps _ _ _) (.after .update (.after (State.readThrough_keeps _ _ _ _) ?_))
          exact .ite (State.logError_keeps _ _ _) (.refl _)
        · exact .after .update (.after (State.readThrough_keeps _ _ _ _) (.ite (State.logError_keeps _ _ _) (.refl _)))
    · exact .refl _

theorem State.checkTex_keeps (s : State) (x : Ord) (t : Nat) : Keeps s (s.checkTex x t).2 := by
  unfold State.checkTex
  dsimp only
  split
  · dsimp only
    exact .of_snd ‹_› (State.checkGlobal_keeps _ _ _ _ _)
  · split
    · dsimp only
      exact .of_snd ‹_› (State.checkGlobal_keeps _ _ _ _ _)
    · split
      · dsimp only
        exact .of_snd ‹_› (State.checkGlobal_keeps _ _ _ _ _)
      · dsimp only
        exact .of_snd ‹_› (State.checkGlobal_keeps _ _ _ _ _)

theorem State.readDescs_keeps (s : State) (l : List (Map × Nat × Nat)) : Keeps s (s.readDescs l) :=
  State.readThrough_keeps _ _ _ _

theorem execTex_keeps (x : Ord) (s : State) : OutKeeps s (execTex x s) := by
  unfold execTex
  refine .next ?_
  split
  · exact State.refuse_keeps _ _ _
  · refine State.named_keeps _ _ _ (State.checkedIf_keeps _ _ _ _ ?_)
    exact fun _ => State.memory_keeps _ _ _ _ (fun _ _ => State.checkTex_keeps _ _ _) (fun _ _ _ => State.readDescs_keeps _ _)

theorem State.filterDesc_keeps (s : State) (x : Ord) (va : Nat) {run : State → Nat → State} (h : ∀ u w, Keeps u (run u w)) :
    Keeps s (s.filterDesc x va run) := by
  unfold State.filterDesc
  split
  · exact .after (State.uniformFault_keeps _ _ _ _ _) (.of_snd ‹_› (State.checkGlobal_keeps _ _ _ _ _))
  · split
    · exact .after (State.uniformFault_keeps _ _ _ _ _) (.of_snd ‹_› (State.checkGlobal_keeps _ _ _ _ _))
    · exact .after (h _ _) (.after (State.readDescs_keeps _ _) (.of_snd ‹_› (State.checkGlobal_keeps _ _ _ _ _)))

theorem execHgrid_keeps (x : Ord) (s : State) : OutKeeps s (execHgrid x s) := by
  unfold execHgrid
  refine .next ?_
  split
  · exact State.refuse_keeps _ _ _
  · refine State.named_keeps _ _ _ (State.checked_keeps _ _ _ ?_)
    intro _
    dsimp only
    split
    · exact State.retire_keeps _ _ _ _
    · split
      · exact State.exhausted_keeps _ _ _
      · split
        · exact State.stall_keeps _ _
        · refine State.filterDesc_keeps _ _ _ ?_
          intro _ _
          split
          · exact State.refuse_keeps _ _ _
          · refine State.memory_keeps _ _ _ _ ?_ (fun _ _ _ => .refl _)
            intro _ _
            split <;> exact .refl _

theorem State.dropLdfe_keeps (s : State) (g : Gid) : Keeps s (s.dropLdfe g) :=
  .foldl (fun _ _ => (.after (State.updGroup_keeps _ _ _) .update)) _ _

theorem State.dropLatch_keeps (s : State) (g : Gid) : Keeps s (s.dropLatch g) :=
  .ite (.after (State.updGroup_keeps _ _ _) .update) (.refl _)

theorem State.stopCmds_keeps (s : State) (g : Gid) : Keeps s (s.stopCmds g) := .foldl (fun _ _ => State.stopCmd_keeps _ _) _ _

theorem State.stopGroup_keeps (s : State) (g : Gid) : Keeps s (s.stopGroup g) := by
  unfold State.stopGroup
  dsimp only
  split
  · split
    · refine .after (State.closeBlock_keeps _) (.after (State.focus_keeps _ _) (.after (State.updGroup_keeps _ _ _) ?_))
      exact .after .update (.after (State.stopCmds_keeps _ _) (.after (State.dropLatch_keeps _ _) (State.dropLdfe_keeps _ _)))
    · refine .after (State.updGroup_keeps _ _ _) (.after .update (.after (State.stopCmds_keeps _ _) ?_))
      exact .after (State.dropLatch_keeps _ _) (State.dropLdfe_keeps _ _)
  · split
    · refine .after (State.closeBlock_keeps _) (.after (State.focus_keeps _ _) (.after (State.updGroup_keeps _ _ _) ?_))
      exact .after .update (.after (State.stopCmds_keeps _ _) (.after (State.dropLatch_keeps _ _) (State.dropLdfe_keeps _ _)))
    · refine .after (State.updGroup_keeps _ _ _) (.after .update (.after (State.stopCmds_keeps _ _) ?_))
      exact .after (State.dropLatch_keeps _ _) (State.dropLdfe_keeps _ _)

theorem State.preempt_keeps (s : State) (i : Gid) : Keeps s (s.preempt i) := by
  unfold State.preempt
  split
  · exact .refl _
  · split
    · exact .refl _
    · refine .foldl (fun _ _ => ?_) _ _
      split
      · exact .ite (.refl _) (State.stopGroup_keeps _ _)
      · exact .refl _

theorem State.abandonOps_keeps (s : State) (i : Gid) : Keeps s (s.abandonOps i) :=
  .foldl (fun _ _ => (.after (State.updGroup_keeps _ _ _) .update)) _ _

theorem State.abandon_keeps (s : State) (i : Gid) : Keeps s (s.abandon i) := by
  unfold State.abandon
  split
  · exact .refl _
  · split
    · exact .refl _
    · exact .ite (.refl _) (State.abandonOps_keeps _ _)

theorem State.saveOne_keeps (s : State) (i : Gid) : Keeps s (s.saveOne i) := by
  unfold State.saveOne
  split
  · exact .refl _
  · exact .after (State.renameOne_keeps _ _ _) (.after .update (State.fresh_keeps _))

theorem State.forceSave_keeps (s : State) (i : Gid) : Keeps s (s.forceSave i) := by
  unfold State.forceSave
  split
  · exact .refl _
  · split
    · exact State.endGroup_keeps _ _
    · refine .after (State.saveOne_keeps _ _) (.after (State.updGroup_keeps _ _ _) (.after .update ?_))
      exact .after (State.abandonOps_keeps _ _) (.ite (.refl _) (State.stopGroup_keeps _ _))

theorem execGroupSave_keeps (g : Gid) (s : State) : OutKeeps s (execGroupSave g s) := by
  unfold execGroupSave
  refine .next ?_
  split
  · exact .refl _
  · dsimp only
    split
    · refine .foldl (fun _ _ => ?_) _ _
      split
      · exact .ite (State.saveOne_keeps _ _) (.refl _)
      · exact .refl _
    · exact .refl _

theorem State.takeAbandoned_keeps (s : State) : Keeps s s.takeAbandoned :=
  .ite (.refl _) (.after (State.takeHeld_keeps _) .update)

theorem State.resumeOne_keeps (s : State) (g : Group) (gang : List (Nat × Nat)) (slot : Nat) :
    Keeps s (s.resumeOne g gang slot) := by
  unfold State.resumeOne
  refine .after (State.takeHeld_keeps _) (.after (State.takeAbandoned_keeps _) (.after (State.wantSync_keeps _) ?_))
  refine .after (State.expireAll_keeps _) (.after .update (.after (State.updTeam_keeps _ _ fun _ h => Mem.wf_clear _ _ h) ?_))
  exact .after (State.focus_keeps _ _) (.after (State.renameOne_keeps _ _ _) .update)

theorem execGroupResume_keeps (g : Gid) (s : State) : OutKeeps s (execGroupResume g s) := by
  unfold execGroupResume
  refine .next ?_
  split
  · exact .refl _
  · exact .ite (.refl _) (.foldl (fun _ _ => State.resumeOne_keeps _ _ _ _) _ _)

theorem State.logPf_keeps (s : State) (e : PfLog) : Keeps s (s.logPf e) := .updateHost rfl

theorem State.preemptAll_keeps (s : State) : Keeps s s.preemptAll := .foldl (fun _ _ => State.preempt_keeps _ _) _ _

theorem State.halt_keeps (s : State) : Keeps s s.halt := by
  unfold State.halt
  split
  · exact .after (.foldl (fun _ _ => State.void_keeps _ _) _ _) (.after (State.preemptAll_keeps _) .update)
  · exact .after (.foldl (fun _ _ => State.void_keeps _ _) _ _) (.after (State.preemptAll_keeps _) .update)
  · exact .refl _

theorem State.eraseAll_keeps (s : State) : Keeps s s.eraseAll := by
  unfold State.eraseAll
  split
  · exact .refl _
  · exact .update

theorem State.alarms_keeps (s : State) (srcs : List Nat) : Keeps s (s.alarms srcs) := by
  unfold State.alarms
  split
  · exact .refl _
  · dsimp only
    split
    · exact .after (State.msix_keeps _ _ _) (.after (.foldl (fun _ _ => State.logPf_keeps _ _) _ _) .update)
    · exact .after (State.halt_keeps _) .update
    · exact .after (State.eraseAll_keeps _) .update

theorem State.voidOn_keeps (s : State) (on : Nat → Nat → Bool) : Keeps s (s.voidOn on) :=
  .foldl (fun _ _ => State.void_keeps _ _) _ _

theorem State.halveClock_keeps (s : State) (ds : List Nat) : Keeps s (s.halveClock ds) :=
  .after (State.voidOn_keeps _ _) .update

theorem State.supplyWarn_keeps (s : State) : Keeps s s.supplyWarn := .ite (.after (State.report_keeps _ _) .update) .update

theorem State.sampled_keeps (s : State) (x : Sample) : Keeps s (s.sampled x) := by
  unfold State.sampled
  dsimp only
  split
  · exact .after (State.alarms_keeps _ _) (.ite .update .update)
  · split
    · exact .ite (.after (State.halveClock_keeps _ _) .update) (.after (State.supplyWarn_keeps _) .update)
    · exact .ite (.after (State.halveClock_keeps _ _) .update) (.ite (.after (State.report_keeps _ _) .update) .update)

theorem State.updCtx_keeps (s : State) (c : Nat) (f : Ctx → Ctx) : Keeps s (s.updCtx c f) := .updateHost rfl

theorem State.newTail_keeps (s : State) (c : Nat) (x : Ctx) (tail : BitVec 32) : Keeps s (s.newTail c x tail) :=
  .ite (.refl _) (.ite (.after (State.msix_keeps _ _ _) (State.updCtx_keeps _ _ _)) (State.updCtx_keeps _ _ _))

theorem State.doorbell_keeps (s : State) (vf offset : Nat) (value : Word) : Keeps s (s.doorbell vf offset value) := by
  unfold State.doorbell
  split
  · exact .refl _
  · split
    · exact State.logPf_keeps _ _
    · exact .ite (State.logPf_keeps _ _) (.ite (.updateHost rfl) (.ite (State.logPf_keeps _ _) (State.newTail_keeps _ _ _ _)))

theorem State.releaseDoorbells_keeps (s : State) : Keeps s s.releaseDoorbells :=
  .after (.foldl (fun _ _ => State.doorbell_keeps _ _ _ _) _ _) (.updateHost rfl)

theorem State.ringEntry_keeps (s : State) (c : Nat) : Keeps s (s.ringEntry c) := by
  unfold State.ringEntry
  split
  · exact .refl _
  · exact .ite (.refl _) (.after (.updateHost rfl) (State.present_keeps _ _ _ _ _))

theorem State.clearCtxs_keeps (s : State) (f : Ctx → Bool) : Keeps s (s.clearCtxs f) := .updateHost rfl

theorem State.dropTlb_keeps (s : State) (die core : Nat → Bool) (f : TlbEntry → Bool) : Keeps s (s.dropTlb die core f) :=
  .update

theorem State.makePresent_keeps (s : State) (part va : Nat) : Keeps s (s.makePresent part va) := by
  unfold State.makePresent
  split
  · exact State.putHome_keeps _ _ _
  · exact .refl _

theorem State.wakePages_keeps (s : State) (i : Gid) : Keeps s (s.wakePages i) := by
  unfold State.wakePages
  split
  · exact .refl _
  · dsimp only
    split
    · exact .after (State.takeHeld_keeps _) (.after (State.focus_keeps _ _) (State.updGroup_keeps _ _ _))
    · exact State.updGroup_keeps _ _ _

theorem State.answerPri_keeps (s : State) (p : PriGroup) (ok : Bool) : Keeps s (s.answerPri p ok) := by
  unfold State.answerPri
  split
  · exact .refl _
  · exact .ite (.foldl (fun _ _ => State.makePresent_keeps _ _ _) _ _) (State.updGroup_keeps _ _ _)

theorem State.priResponse_keeps (s : State) (index : Nat) (r : PriResp) : Keeps s (s.priResponse index r) := by
  unfold State.priResponse
  split
  · exact .refl _
  · refine .after (State.sendPages_keeps _) (.after (.foldl (fun _ _ => State.wakePages_keeps _ _) _ _) ?_)
    exact .after (.foldl (fun _ _ => State.answerPri_keeps _ _ _) _ _) (.after (State.answerPri_keeps _ _ _) (.updateHost rfl))

theorem State.startDrain_keeps (s : State) (die core : Nat) : Keeps s (s.startDrain die core) :=
  .after (.foldl (fun _ _ => State.preempt_keeps _ _) _ _) (State.voidOn_keeps _ _)

theorem State.startSubst_keeps (s : State) (die : Nat) : Keeps s (s.startSubst die) := by
  unfold State.startSubst
  split
  · exact .refl _
  · exact .ite (.refl _) (.after (State.startDrain_keeps _ _ _) .update)

theorem State.substitute_keeps (s : State) (die core : Nat) (poisoned : Bool) : Keeps s (s.substitute die core poisoned) :=
  .ite (.refl _) (.after (State.startSubst_keeps _ _) .update)

theorem State.endSaved_keeps (s : State) (i : Gid) : Keeps s (s.endSaved i) := by
  unfold State.endSaved
  split
  · exact .refl _
  · dsimp only
    split
    · refine .after .update (.after (State.updLaunch_keeps _ _ _) (.after (State.updTeam_keeps _ _ fun _ h => h) ?_))
      exact State.logError_keeps _ _ _
    · split
      · refine .after (.filterTeams _ _) (.after (State.updLaunch_keeps _ _ _) ?_)
        exact .after (State.updTeam_keeps _ _ fun _ h => h) (State.logError_keeps _ _ _)
      · refine .after .update (.after (State.updLaunch_keeps _ _ _) (.after (State.updTeam_keeps _ _ fun _ h => h) ?_))
        exact State.logError_keeps _ _ _

theorem State.dropPoisoned_keeps (s : State) (die core : Nat) : Keeps s (s.dropPoisoned die core) :=
  .foldl (fun _ _ => (.ite (.after (State.endSaved_keeps _ _) .update) .update)) _ _

theorem State.moveTeam_keeps (s : State) (t : Team) (k : Nat × Nat × Nat) : Keeps s (s.moveTeam t k) :=
  .after (State.rename_keeps _ _) (.after (.mapTeams _ fun t ht => by split <;> exact ht) (State.dropClean_keeps _ _ _ _))

theorem State.moveTeams_keeps (s : State) (l : Launch) (old : CoreId) : Keeps s (s.moveTeams l old) := by
  unfold State.moveTeams
  dsimp only
  split
  · exact .foldl (fun _ _ => State.moveTeam_keeps _ _ _) _ _
  · split
    · exact .refl _
    · refine .foldl (fun _ _ => ?_) _ _
      split
      · exact State.moveTeam_keeps _ _ _
      · exact .refl _

theorem State.retest_keeps (s : State) (old : CoreId) (l : Launch) : Keeps s (s.retest old l) := by
  unfold State.retest
  split
  · exact .after (State.moveTeams_keeps _ _ _) (State.updLaunch_keeps _ _ _)
  · exact .ite (.refl _) (.after (State.endLaunch_keeps _ _) (State.updLaunch_keeps _ _ _))

theorem State.moveStranded_keeps (s : State) : Keeps s s.moveStranded :=
  .foldl (fun _ _ => .foldl (fun _ _ => State.moveTeams_keeps _ _ _) _ _) _ _

theorem State.retireCore_keeps (s : State) (c : CoreId) : Keeps s (s.retire_ c) :=
  .after (.foldl (fun _ _ => State.retest_keeps _ _ _) _ _) (.after (State.report_keeps _ _) .update)

theorem State.drainDone_keeps (s : State) (die : Nat) : Keeps s (s.drainDone die) := by
  unfold State.drainDone
  split
  · exact .refl _
  · split
    · exact .refl _
    · refine .after (State.startSubst_keeps _ _) ?_
      split
      · split
        · refine .after .update (.after (State.setCore_keeps _ _ _ _) (.after .update ?_))
          exact .after (State.dropPoisoned_keeps _ _ _) (State.writeBack_keeps _ _ _ _)
        · refine .after (State.retireCore_keeps _ _) (.after .update (.after (State.dropPoisoned_keeps _ _ _) ?_))
          exact State.writeBack_keeps _ _ _ _
      · split
        · exact .after .update (.after (State.setCore_keeps _ _ _ _) (.after .update (State.writeBack_keeps _ _ _ _)))
        · exact .after (State.retireCore_keeps _ _) (.after .update (State.writeBack_keeps _ _ _ _))

theorem State.queueRemap_keeps (s : State) (r : RowId) : Keeps s (s.queueRemap r) := .ite (.refl _) .update

theorem State.remapRow_keeps (s : State) : Keeps s s.remapRow := by
  unfold State.remapRow
  split
  · exact .refl _
  · split
    · exact .refl _
    · dsimp only
      split
      · exact .after (State.report_keeps _ _) .update
      · exact .after .update (.after (State.setStack_keeps _ _ _) .update)

theorem execRemapCopyDone_keeps (s : State) : OutKeeps s (execRemapCopyDone s) := by
  unfold execRemapCopyDone
  refine .next ?_
  split
  · exact .refl _
  · exact .after .update (State.setStack_keeps _ _ _)

theorem State.failLane_keeps (s : State) (port lane : Nat) : Keeps s (s.failLane port lane) :=
  .ite (.refl _) (.ite (.after (State.report_keeps _ _) .update) .update)

theorem State.drydown_keeps (s : State) (p : Nat) : Keeps s (s.drydown p) :=
  .ite (.refl _) (.after (.foldl (fun _ _ => State.preempt_keeps _ _) _ _) (State.setPart_keeps _ _ _))

theorem State.enterDry_keeps (s : State) (p : Nat) : Keeps s (s.enterDry p) := by
  unfold State.enterDry
  refine .after (State.setPart_keeps _ _ _) ?_
  refine .after (.foldl (fun _ _ => ?_) _ _) ?_
  · refine .after (State.updCmd_keeps _ _ _) ?_
    refine .after (State.revoke_keeps _ _) ?_
    exact .refl _
  · exact .refl _

theorem execQuiesceTimeout_keeps (p : Nat) (s : State) : OutKeeps s (execQuiesceTimeout p s) := by
  unfold execQuiesceTimeout
  refine .next ?_
  split
  · exact .refl _
  · refine .after (State.enterDry_keeps _ _) (.after (.foldl (fun _ _ => State.forceSave_keeps _ _) _ _) ?_)
    exact .foldl (fun _ _ => State.void_keeps _ _) _ _

theorem State.reopenBanks_keeps (s : State) (stack : Nat) : Keeps s (s.reopenBanks stack) :=
  .after (State.setStack_keeps _ _ _) (.foldl (fun _ _ => State.markPoison_keeps _ _) _ _)

theorem State.failPart_keeps (s : State) (p : Nat) : Keeps s (s.failPart p) :=
  .after (State.report_keeps _ _) (State.setPart_keeps _ _ _)

end Sys2Proof.Machine
end

section
/-!
The canonical form of the memories (O60): the mailbox, draws and the memory stacks (spec/03, spec/06, spec/07).
-/

namespace Sys2Proof.Machine

open Sys2Proof

theorem State.startReply_keeps (s : State) (m : Mcmd) (code : Nat) (result : List Byte) :
    Keeps s (s.startReply m code result) :=
  .updateHost rfl

theorem State.command_keeps (s : State) (m : Mcmd) (c : CmdClass) {run : List Byte → State → Reply}
    (h : ∀ l, Keeps s (run l s).2.2) : Keeps s (s.command m c run) := by
  unfold State.command
  split
  · exact State.logPf_keeps _ _
  · split
    · exact State.startReply_keeps _ _ _ _
    · exact h _

theorem State.sealResult_keeps (s : State) (r : Running) : Keeps s (s.sealResult r) := by
  unfold State.sealResult
  split
  · exact .refl _
  · exact .updateHost rfl

theorem execMailboxComplete_keeps (s : State) : OutKeeps s (execMailboxComplete s) := by
  unfold execMailboxComplete
  refine .next ?_
  split
  · exact .refl _
  · exact .ite (.after (State.sealResult_keeps _ _) (.updateHost rfl)) (.after (State.msix_keeps _ _ _) (.updateHost rfl))

theorem State.onPart_keeps (s : State) (l : List Byte) (f : Nat → Bool) {run : Nat → Reply} (h : ∀ p, Keeps s (run p).2.2) :
    Keeps s (s.onPart l f run).2.2 := by
  unfold State.onPart
  split
  · exact h _
  · exact .refl _

theorem State.zeroUnit_keeps (s : State) (u : Nat × Bool × Nat) : Keeps s (s.zeroUnit u) := .clear _ _ _

theorem execPcreate_keeps (m : Mcmd) (s : State) : OutKeeps s (execPcreate m s) := by
  unfold execPcreate
  refine .next (State.command_keeps _ _ _ ?_)
  intro _
  split <;> exact .refl _

theorem State.endDebug_keeps (s : State) (p : Nat) : Keeps s (s.endDebug p) :=
  .after (State.mapGroups_keeps _ _) (.after .update (State.setPart_keeps _ _ _))

theorem State.settleCmd_keeps (s : State) (id : Nat) : Keeps s (s.settleCmd id) := by
  unfold State.settleCmd
  refine .after (State.completeCmd_keeps _ _) (.after (State.updCmd_keeps _ _ _) (.after (State.swapFold_keeps _ _) ?_))
  exact .after (State.updCmd_keeps _ _ _) (State.revoke_keeps _ _)

theorem State.settleRays_keeps (s : State) (p : Nat) : Keeps s (s.settleRays p) :=
  .after .update (.foldl (fun _ _ => State.countRays_keeps _ _ _ _ _) _ _)

theorem State.destroyPart_keeps (s : State) (p : Nat) : Keeps s (s.destroyPart p) := by
  unfold State.destroyPart
  refine .after .update (.after (.foldl (fun _ _ => State.zeroUnit_keeps _ _) _ _) ?_)
  refine .after (State.clearCtxs_keeps _ _) (.after .update (.after (.foldl (fun _ _ => ?_) _ _) ?_))
  · split
    · exact State.complete_keeps _ _ _
    · exact .refl _
  · refine .after (State.settleRays_keeps _ _) (.after (.foldl (fun _ _ => State.settleCmd_keeps _ _) _ _) ?_)
    exact .after (.foldl (fun _ _ => State.endLaunch_keeps _ _) _ _) (State.endDebug_keeps _ _)

theorem execPdestroy_keeps (m : Mcmd) (s : State) : OutKeeps s (execPdestroy m s) :=
  .next (State.command_keeps _ _ _ (fun _ => State.onPart_keeps _ _ _ (fun _ => State.destroyPart_keeps _ _)))

theorem State.grant_keeps (s : State) (p kind : Nat) (xs : List Nat) : Keeps s (s.grant p kind xs).2.2 := by
  unfold State.grant
  dsimp only
  split
  · exact .refl _
  · dsimp only
    exact .after .update (.after (State.setPart_keeps _ _ _) (.foldl (fun _ _ => State.zeroUnit_keeps _ _) _ _))

theorem execPgrant_keeps (m : Mcmd) (s : State) : OutKeeps s (execPgrant m s) := by
  unfold execPgrant
  refine .next (State.command_keeps _ _ _ ?_)
  intro _
  split
  · exact .refl _
  · split
    · exact State.grant_keeps _ _ _ _
    · exact .refl _

theorem State.coreRevoked_keeps (s : State) (c : CoreId) : Keeps s (s.coreRevoked c) := by
  unfold State.coreRevoked
  refine .after (.foldl (fun _ _ => State.retest_keeps _ _ _) _ _) ?_
  refine .after (State.setCore_keeps _ _ _ _) (.after (State.writeBack_keeps _ _ _ _) ?_)
  exact .foldl (fun _ _ => State.forceSave_keeps _ _) _ _

theorem State.revokeItems_keeps (s : State) (p kind : Nat) (xs : List Nat) : Keeps s (s.revokeItems p kind xs).2.2 := by
  unfold State.revokeItems
  dsimp only
  split
  · exact .refl _
  · split
    · exact .refl _
    · split
      · exact .refl _
      · split
        · exact .refl _
        · dsimp only
          split
          · exact .after (.foldl (fun _ _ => State.coreRevoked_keeps _ _) _ _) (.after .update (State.setPart_keeps _ _ _))
          · exact .after .update (State.setPart_keeps _ _ _)

theorem execPrevoke_keeps (m : Mcmd) (s : State) : OutKeeps s (execPrevoke m s) := by
  unfold execPrevoke
  refine .next (State.command_keeps _ _ _ ?_)
  intro _
  split
  · exact .refl _
  · split
    · exact State.revokeItems_keeps _ _ _ _
    · exact .refl _

theorem execPbases_keeps (m : Mcmd) (s : State) : OutKeeps s (execPbases m s) := by
  unfold execPbases
  refine .next (State.command_keeps _ _ _ ?_)
  intro _
  refine State.onPart_keeps _ _ _ ?_
  intro _
  dsimp only
  split <;> exact .refl _

theorem execDrydn_keeps (m : Mcmd) (s : State) : OutKeeps s (execDrydn m s) := by
  unfold execDrydn
  refine .next (State.command_keeps _ _ _ ?_)
  intro _
  split
  · exact .refl _
  · dsimp only
    split
    · exact .refl _
    · split
      · exact .refl _
      · split
        · exact .refl _
        · dsimp only
          exact State.drydown_keeps _ _

theorem execPquery_keeps (m : Mcmd) (s : State) : OutKeeps s (execPquery m s) :=
  .next (State.command_keeps _ _ _ (fun _ => State.onPart_keeps _ _ _ (fun _ => .refl _)))

theorem State.writeCtx_keeps (s : State) (c n : Nat) : Keeps s (s.writeCtx c n).2.2 := by
  unfold State.writeCtx
  dsimp only
  split
  · exact .refl _
  · split
    · exact .refl _
    · split
      · split <;> exact .refl _
      · exact .refl _

theorem execCtxwr_keeps (m : Mcmd) (s : State) : OutKeeps s (execCtxwr m s) := by
  unfold execCtxwr
  refine .next (State.command_keeps _ _ _ ?_)
  intro _
  split
  · exact .refl _
  · exact State.writeCtx_keeps _ _ _

theorem State.repair_keeps (s : State) (l : List Byte) (kind : Nat) {run : Nat → Reply} (h : ∀ p, Keeps s (run p).2.2) :
    Keeps s (s.repair l kind run).2.2 := by
  unfold State.repair
  split
  · exact .refl _
  · exact h _

theorem execRepairCore_keeps (m : Mcmd) (s : State) : OutKeeps s (execRepairCore m s) := by
  unfold execRepairCore
  refine .next (State.command_keeps _ _ _ ?_)
  intro _
  refine State.repair_keeps _ _ _ ?_
  intro _
  split
  · exact .refl _
  · exact State.substitute_keeps _ _ _ _

theorem execRepairRow_keeps (m : Mcmd) (s : State) : OutKeeps s (execRepairRow m s) := by
  unfold execRepairRow
  refine .next (State.command_keeps _ _ _ ?_)
  intro _
  refine State.repair_keeps _ _ _ ?_
  intro _
  dsimp only
  split
  · exact .refl _
  · split
    · exact .refl _
    · dsimp only
      exact State.queueRemap_keeps _ _

theorem execRepairLane_keeps (m : Mcmd) (s : State) : OutKeeps s (execRepairLane m s) := by
  unfold execRepairLane
  refine .next (State.command_keeps _ _ _ ?_)
  intro _
  refine State.repair_keeps _ _ _ ?_
  intro _
  split
  · exact .refl _
  · split
    · exact .refl _
    · exact State.failLane_keeps _ _ _

theorem execApolicy_keeps (m : Mcmd) (s : State) : OutKeeps s (execApolicy m s) := by
  unfold execApolicy
  refine .next (State.command_keeps _ _ _ ?_)
  intro _
  split
  · exact .refl _
  · split
    · exact .refl _
    · split <;> exact .refl _

theorem State.resume_keeps (s : State) : Keeps s s.resume.2.2 := by
  unfold State.resume
  split
  · exact .refl _
  · exact .after (State.releaseDoorbells_keeps _) (.after (.foldl (fun _ _ => State.void_keeps _ _) _ _) .update)

theorem execResume_keeps (m : Mcmd) (s : State) : OutKeeps s (execResume m s) := by
  unfold execResume
  refine .next (State.command_keeps _ _ _ ?_)
  intro _
  split
  · exact State.resume_keeps _
  · exact .refl _

theorem execDbgrevoke_keeps (m : Mcmd) (s : State) : OutKeeps s (execDbgrevoke m s) :=
  .next (State.command_keeps _ _ _ (fun _ => State.onPart_keeps _ _ _ (fun _ => .refl _)))

theorem execDbgnonce_keeps (m : Mcmd) (s : State) : OutKeeps s (execDbgnonce m s) := by
  unfold execDbgnonce
  refine .next (State.command_keeps _ _ _ ?_)
  intro _
  split <;> exact .refl _

theorem State.debugGrant_keeps (s : State) (p : Nat) (credential : List Byte) : Keeps s (s.debugGrant p credential).2.2 := by
  unfold State.debugGrant
  dsimp only
  split
  · split
    · exact .refl _
    · dsimp only
      exact .after (State.alarms_keeps _ _) .update
  · split
    · exact .refl _
    · dsimp only
      exact .after (State.alarms_keeps _ _) .update

theorem execDbggrant_keeps (m : Mcmd) (s : State) : OutKeeps s (execDbggrant m s) :=
  .next (State.command_keeps _ _ _ (fun _ => State.onPart_keeps _ _ _ (fun _ => State.debugGrant_keeps _ _ _)))

theorem State.attest_keeps (s : State) (nonce : Nat) : Keeps s (s.attest nonce).2.2 := .refl _

theorem execAttest_keeps (m : Mcmd) (s : State) : OutKeeps s (execAttest m s) := by
  unfold execAttest
  refine .next (State.command_keeps _ _ _ ?_)
  intro _
  split
  · exact State.attest_keeps _ _
  · exact .refl _

theorem execFwstage_keeps (m : Mcmd) (s : State) : OutKeeps s (execFwstage m s) := by
  unfold execFwstage
  refine .next (State.command_keeps _ _ _ ?_)
  intro _
  dsimp only
  split <;> exact .refl _

theorem execFwswitch_keeps (m : Mcmd) (s : State) : OutKeeps s (execFwswitch m s) := by
  unfold execFwswitch
  refine .next (State.command_keeps _ _ _ ?_)
  intro _
  dsimp only
  split
  · exact .refl _
  · split <;> exact .refl _

/-- The boot chain starts from reset, keeps device and host memory, and frees the local stores (entry 33). -/
theorem State.bootChain_keeps (s : State) : Keeps s s.bootChain := by
  have h : ∀ t : State, t.mem = s.mem → t.host.mem = s.host.mem → t.teams = [] → Keeps s t := fun t h1 h2 h3 hs => by
    rw [State.memWf_iff] at *
    obtain ⟨hmem, hhost, -⟩ := hs
    exact ⟨h1 ▸ hmem, h2 ▸ hhost, fun u hu => by rw [h3] at hu; exact absurd hu List.not_mem_nil⟩
  unfold State.bootChain
  dsimp only
  split
  · exact h _ rfl rfl rfl
  · exact .after (State.report_keeps _ _) (h _ rfl rfl rfl)

theorem State.resetCmd_keeps (s : State) : Keeps s s.resetCmd.2.2 := by
  unfold State.resetCmd
  split
  · exact State.bootChain_keeps _
  · exact .refl _

theorem execReset_keeps (m : Mcmd) (s : State) : OutKeeps s (execReset m s) := by
  unfold execReset
  refine .next (State.command_keeps _ _ _ ?_)
  intro _
  split
  · exact State.resetCmd_keeps _
  · exact .refl _

theorem State.setModes_keeps (s : State) (b : BootIn) : Keeps s (s.setModes b) := .update

theorem execUnknownOpcode_keeps (opcode : BitVec 16) (m : Mcmd) (s : State) : OutKeeps s (execUnknownOpcode opcode m s) :=
  .next (.ite (.refl _) (State.command_keeps _ _ _ (fun _ => .refl _)))

theorem execRepair_keeps (m : Mcmd) (s : State) : OutKeeps s (execRepair m s) := by
  unfold execRepair
  split
  · exact execRepairRow_keeps _ _
  · exact execRepairLane_keeps _ _
  · exact execRepairCore_keeps _ _

theorem commandOf_keeps (opcode : BitVec 16) (m : Mcmd) (s : State) : OutKeeps s (commandOf opcode m s) := by
  unfold commandOf
  split
  · exact execPcreate_keeps _ _
  · exact execPdestroy_keeps _ _
  · exact execPgrant_keeps _ _
  · exact execPrevoke_keeps _ _
  · exact execPbases_keeps _ _
  · exact execCtxwr_keeps _ _
  · exact execDrydn_keeps _ _
  · exact execPquery_keeps _ _
  · exact execRepair_keeps _ _
  · exact execApolicy_keeps _ _
  · exact execResume_keeps _ _
  · exact execReset_keeps _ _
  · exact execAttest_keeps _ _
  · exact execFwstage_keeps _ _
  · exact execFwswitch_keeps _ _
  · exact execDbgnonce_keeps _ _
  · exact execDbggrant_keeps _ _
  · exact execDbgrevoke_keeps _ _
  · exact execUnknownOpcode_keeps _ _ _

theorem sessionCommand_keeps (bytes : List Byte) (s : State) : OutKeeps s (sessionCommand bytes s) := commandOf_keeps _ _ _

theorem State.useSession_keeps (s : State) (k : BitVec 256) : Keeps s (s.useSession k) := .update

theorem execManagementSession_keeps (m : SessionMsg) (s : State) : OutKeeps s (execManagementSession m s) := by
  unfold execManagementSession
  split
  · exact .ite (.next (.refl _)) (.next (.updateHost rfl))
  · split
    · exact .next (.refl _)
    · exact .after (sessionCommand_keeps _ _) (State.useSession_keeps _ _)
  · exact .next .update

theorem mailboxWrite_keeps (offset width : Nat) (value : Word) (s : State) : OutKeeps s (mailboxWrite offset width value s) :=
  .ite (.next (State.logPf_keeps _ _)) (.ite (commandOf_keeps _ _ _) (.ite (.next (.updateHost rfl)) (.next (.refl _))))

theorem State.readPlanes_keeps (s : State) (d : Draw) (l : List (Nat × Nat)) : Keeps s (s.readPlanes d l) :=
  .ite (.refl _) (.after (State.fillHome_keeps _ _) (State.ask_keeps _ _ _ _))

theorem State.noteDraw_keeps (s : State) (d : Draw) (g : Geo) : Keeps s (s.noteDraw d g) := State.updGroup_keeps _ _ _

theorem State.planeBytes_keeps (s : State) (p : Nat) (bs : List Byte) : Keeps s (s.planeBytes p bs) :=
  .after .update (State.putHome_keeps _ _ _)

theorem State.planePut_keeps (s : State) (g : Geo) (i j v : Nat) (bad : Bool) : Keeps s (s.planePut g i j v bad) :=
  .ite (.after (State.markPoison_keeps _ _) (State.planeBytes_keeps _ _ _)) (State.planeBytes_keeps _ _ _)

theorem State.planeClean_keeps (s : State) (g : Geo) : Keeps s (s.planeClean g) := State.clearPoison_keeps _ _

theorem State.clearPlanes_keeps (s : State) (q : Planes) : Keeps s (s.clearPlanes q) := by
  unfold State.clearPlanes
  refine .after (.foldl (fun _ _ => ?_) _ _) ?_
  · exact .after (State.planePut_keeps _ _ _ _ _ _) (State.planePut_keeps _ _ _ _ _ _)
  · exact .after (State.planeClean_keeps _ _) (State.planeClean_keeps _ _)

theorem State.fragment_keeps (s : State) (d : Draw) (q : Planes) (t : Tri) (a b c : Vertex) (r : Drawn) (e : Nat × Nat) :
    Keeps s (s.fragment d q t a b c r e).1 := by
  unfold State.fragment
  dsimp only
  split
  · exact .refl _
  · split
    · split
      · dsimp only
        exact State.readPlanes_keeps _ _ _
      · split
        · dsimp only
          refine .after (State.planePut_keeps _ _ _ _ _ _) (.after (State.planePut_keeps _ _ _ _ _ _) ?_)
          exact .after (State.readPlanes_keeps _ _ _) (State.readPlanes_keeps _ _ _)
        · dsimp only
          exact .after (State.readPlanes_keeps _ _ _) (State.readPlanes_keeps _ _ _)
    · split
      · exact .refl _
      · split
        · dsimp only
          refine .after (State.planePut_keeps _ _ _ _ _ _) (.after (State.planePut_keeps _ _ _ _ _ _) ?_)
          exact State.readPlanes_keeps _ _ _
        · dsimp only
          exact State.readPlanes_keeps _ _ _

theorem State.drawTri_keeps (s : State) (d : Draw) (q : Planes) (t : Tri) (r : Drawn) : Keeps s (s.drawTri d q t r).1 := by
  unfold State.drawTri
  dsimp only
  split
  · split
    · exact .refl _
    · split
      · exact .refl _
      · dsimp only
        refine .after .update ?_
        refine .after (.foldl_fst (fun _ _ => State.fragment_keeps _ _ _ _ _ _ _ _ _) _ _) ?_
        exact .refl _
  · exact .refl _

theorem State.drawTris_keeps (s : State) (d : Draw) (q : Planes) (r : Drawn) (l : List Nat) : Keeps s (s.drawTris d q r l).1 := by
  induction l generalizing s r with
  | nil => exact .refl s
  | cons k l ih =>
    unfold State.drawTris
    split
    · exact .refl _
    · exact .after (ih _ _) (.after (State.drawTri_keeps _ _ _ _ _) (State.readThrough_keeps _ _ _ _))

theorem State.reprojectAll_keeps (s : State) (d : Draw) (q : Planes) : Keeps s (s.reprojectAll d q).1 := by
  unfold State.reprojectAll
  dsimp only
  refine .after (.foldl_fst (fun _ _ => ?_) _ _) ?_
  · split
    · dsimp only
      refine .after (State.planePut_keeps _ _ _ _ _ _) (.after (State.planePut_keeps _ _ _ _ _ _) ?_)
      exact .after (State.planePut_keeps _ _ _ _ _ _) (State.readPlanes_keeps _ _ _)
    · dsimp only
      refine .after (State.planePut_keeps _ _ _ _ _ _) (.after (State.planePut_keeps _ _ _ _ _ _) ?_)
      exact .after (State.planePut_keeps _ _ _ _ _ _) (State.readPlanes_keeps _ _ _)
  · dsimp only
    exact .after (State.planeClean_keeps _ _) (.after (State.planeClean_keeps _ _) (State.planeClean_keeps _ _))

theorem State.endDraw_keeps (s : State) (die status pixels redo rejected cost : Nat) :
    Keeps s (s.endDraw die status pixels redo rejected cost) :=
  .update

theorem State.rasterDraw_keeps (s : State) (die : Nat) : Keeps s (s.rasterDraw die) := by
  unfold State.rasterDraw
  split
  · exact .refl _
  · split
    · exact .refl _
    · split
      · exact State.endDraw_keeps _ _ _ _ _ _ _
      · refine .after (State.endDraw_keeps _ _ _ _ _ _ _) (.after (State.drawTris_keeps _ _ _ _ _) ?_)
        refine .after (State.noteDraw_keeps _ _ _) (.after (State.noteDraw_keeps _ _ _) ?_)
        exact .ite (State.clearPlanes_keeps _ _) (.refl _)

theorem State.reprojectDraw_keeps (s : State) (die : Nat) : Keeps s (s.reprojectDraw die) := by
  unfold State.reprojectDraw
  split
  · exact .refl _
  · split
    · exact .refl _
    · split
      · exact State.endDraw_keeps _ _ _ _ _ _ _
      · refine .after (State.endDraw_keeps _ _ _ _ _ _ _) (.after (State.reprojectAll_keeps _ _ _) ?_)
        exact .after (State.noteDraw_keeps _ _ _) (.after (State.noteDraw_keeps _ _ _) (State.noteDraw_keeps _ _ _))

theorem State.drawCompletion_keeps (s : State) (die : Nat) : Keeps s (s.drawCompletion die) := by
  unfold State.drawCompletion
  split
  · exact .refl _
  · split
    · exact .refl _
    · refine .after .update (.after (State.updGroup_keeps _ _ _) ?_)
      exact .ite (.after (State.settleWaiters_keeps _) (State.unitWrite_keeps _ _ _ _)) (.refl _)

theorem execRast_keeps (x : Ord) (s : State) : OutKeeps s (execRast x s) := by
  unfold execRast
  refine .next (State.uniformly_keeps _ _ _ ?_)
  intro _
  split
  · exact State.stall_keeps _ _
  · dsimp only
    split
    · exact State.uniformFault_keeps _ _ _ _ _
    · exact State.uniformRead_keeps _ _ _ _ _ (fun _ _ => .after (State.done_keeps _ _ _) .update)

theorem State.setChan_keeps (s : State) (stack ch : Nat) (c : PChan) : Keeps s (s.setChan stack ch c) :=
  State.setStack_keeps _ _ _

theorem State.fence_keeps (s : State) (stack pc bank : Nat) : Keeps s (s.fence stack pc bank) :=
  .ite (.refl _) (.after (State.report_keeps _ _) (State.setStack_keeps _ _ _))

theorem State.activate_keeps (s : State) (r : RowId) : Keeps s (s.activate r) := by
  unfold State.activate
  dsimp only
  split
  · exact .refl _
  · split
    · exact .after (State.fence_keeps _ _ _ _) (.after (State.setStack_keeps _ _ _) .update)
    · exact .after (State.setStack_keeps _ _ _) .update

theorem State.countAtoms_keeps (s : State) (stack ch : Nat) (r : MemReq) : Keeps s (s.countAtoms stack ch r) := by
  unfold State.countAtoms
  split
  · exact .refl _
  · exact State.updLaunch_keeps _ _ _

theorem State.serve_keeps (s : State) (stack ch : Nat) : Keeps s (s.serve stack ch) := by
  unfold State.serve
  dsimp only
  split
  · exact .refl _
  · split
    · exact .refl _
    · split
      · exact .refl _
      · refine .after (State.setChan_keeps _ _ _ _) (.after (State.countAtoms_keeps _ _ _ _) ?_)
        exact .foldl (fun _ _ => State.activate_keeps _ _) _ _

theorem State.enterPower_keeps (s : State) (stack ch : Nat) (next : Power) : Keeps s (s.enterPower stack ch next) :=
  State.setChan_keeps _ _ _ _

theorem State.wake_keeps (s : State) (stack ch : Nat) (from_ : Power) (n : Nat) : Keeps s (s.wake stack ch from_ n) :=
  .ite (.refl _) (State.setChan_keeps _ _ _ _)

theorem State.countCorrected_keeps (s : State) (r : RowId) : Keeps s (s.countCorrected r) :=
  .ite (.after (State.queueRemap_keeps _ _) (State.setStack_keeps _ _ _)) (State.setStack_keeps _ _ _)

theorem execScrub_keeps (addr : Nat) (found : ScrubRead) (s : State) : OutKeeps s (execScrub addr found s) := by
  unfold execScrub
  refine .next ?_
  split
  · exact .refl _
  · dsimp only
    split
    · exact .ite (State.setStack_keeps _ _ _) (.refl _)
    · split
      · exact .after (State.countCorrected_keeps _ _) (.ite (State.setStack_keeps _ _ _) (.refl _))
      · exact .ite (State.setStack_keeps _ _ _) (.refl _)
    · exact .after (State.markPoison_keeps _ _) (.ite (State.setStack_keeps _ _ _) (.refl _))

theorem State.setBank_keeps (s : State) (stack pc bank : Nat) (b : Bank) : Keeps s (s.setBank stack pc bank b) :=
  State.setStack_keeps _ _ _

theorem execRemapReloadComplete_keeps (stack pc bank : Nat) (correct : Bool) (s : State) :
    OutKeeps s (execRemapReloadComplete stack pc bank correct s) := by
  unfold execRemapReloadComplete
  refine .next ?_
  dsimp only
  split
  · exact .refl _
  · split
    · exact .after (State.setStack_keeps _ _ _) (State.setBank_keeps _ _ _ _ _)
    · exact .after (State.report_keeps _ _) (.after (State.setBank_keeps _ _ _ _ _) (State.setStack_keeps _ _ _))

end Sys2Proof.Machine
end

section
/-!
The canonical form of the memories (O60): special registers, traces, the instructions together, and the step.
-/

namespace Sys2Proof.Machine

open Sys2Proof

theorem State.barred_keeps (s : State) (p : Pred) (alarm : Bool) : Keeps s (s.barred p alarm) :=
  .ite (.after (State.alarms_keeps _ _) (State.refuse_keeps _ _ _)) (State.refuse_keeps _ _ _)

theorem execRdsr_keeps (x : Ord) (s : State) : OutKeeps s (execRdsr x s) := by
  unfold execRdsr
  refine .next (State.named_keeps _ _ _ ?_)
  dsimp only
  split
  · exact State.barred_keeps _ _ _
  · split
    · exact State.refuse_keeps _ _ _
    · split
      · exact State.perThread_keeps _ _ _ (fun _ => .update)
      · exact State.uniform_keeps _ _ _ _ .update

theorem State.updPart_keeps (s : State) (f : Part → Part) : Keeps s (s.updPart f) := State.setPart_keeps _ _ _

theorem State.setWindow_keeps (s : State) (n : Nat) (w : Nat × Nat) : Keeps s (s.setWindow n w) :=
  .ite (.refl _) (State.setStack_keeps _ _ _)

theorem State.setDbgVal_keeps (s : State) (v : Word) : Keeps s (s.setDbgVal v) := by
  unfold State.setDbgVal
  dsimp only
  split
  · exact .ite .update .update
  · exact .ite (.ite (.refl _) (State.updTeam_keeps _ _ fun _ h => Mem.wf_putBytes _ _ h)) .update

theorem State.makeLive_keeps (s : State) (i : Nat) : Keeps s (s.makeLive i) := by
  unfold State.makeLive
  dsimp only
  split
  · exact .refl _
  · split
    · exact .update
    · exact .update
    · exact .after (State.updTeam_keeps _ _ fun _ h => Mem.wf_putBytes _ _ h) .update

theorem State.setDbg_keeps (s : State) (v : Word) : Keeps s (s.setDbg v) :=
  .ite (.after (State.makeLive_keeps _ _) .update) .update

theorem State.writeSpecial_keeps (s : State) (n : Nat) (v : Word) : Keeps s (s.writeSpecial n v) := by
  unfold State.writeSpecial
  split
  · exact .update
  · exact .update
  · exact .update
  · exact .ite (State.updPart_keeps _ _) (.refl _)
  · exact State.setDbg_keeps _ _
  · exact State.setDbgVal_keeps _ _
  · split
    · exact .update
    · split
      · exact State.setCore_keeps _ _ _ _
      · split
        · exact State.updPart_keeps _ _
        · split
          · exact State.setWindow_keeps _ _ _
          · exact .refl _

theorem execWrsr_keeps (x : Ord) (s : State) : OutKeeps s (execWrsr x s) := by
  unfold execWrsr
  refine .next (State.named_keeps _ _ _ ?_)
  dsimp only
  split
  · exact State.barred_keeps _ _ _
  · refine State.uniformly_keeps _ _ _ ?_
    intro _
    split
    · exact State.refuse_keeps _ _ _
    · split
      · exact .after (State.writeSpecial_keeps _ _ _) (State.done_keeps _ _ _)
      · exact .after (State.done_keeps _ _ _) (State.writeSpecial_keeps _ _ _)

theorem State.eventWrite_keeps (s : State) (n : Nat) (v : Word) : Keeps s (s.eventWrite n v) := by
  unfold State.eventWrite
  split
  · exact .refl _
  · split
    · exact State.barred_keeps _ _ _
    · split
      · exact State.refuse_keeps _ _ _
      · exact State.writeSpecial_keeps _ _ _

theorem State.setAllocation_keeps (s : State) (fn n : Nat) : Keeps s (s.setAllocation fn n) :=
  .after (State.sendPages_keeps _) (.updateHost rfl)

theorem execRegisterWrite_keeps (r : RegTarget) (value : Word) (s : State) : OutKeeps s (execRegisterWrite r value s) := by
  unfold execRegisterWrite
  split
  · exact mailboxWrite_keeps _ _ _ _
  · exact .next (.ite (State.eventWrite_keeps _ _ _) (.refl _))
  · exact .next (State.setAllocation_keeps _ _ _)

theorem execTrap_keeps (x : Ord) (s : State) : OutKeeps s (execTrap x s) := by
  unfold execTrap
  refine .next (State.uniformly_keeps _ _ _ ?_)
  exact fun _ => .after (State.trap_keeps _ _) (.after .update (.after (State.occupy_keeps _ _) (State.charge_keeps _ _)))

theorem execEret_keeps (x : Ord) (s : State) : OutKeeps s (execEret x s) := by
  unfold execEret
  refine .next ?_
  split
  · exact State.refuse_keeps _ _ _
  · exact State.uniformly_keeps _ _ _ (fun _ => State.returnFrom_keeps _ _ _)

theorem State.zeroFrame_keeps (s : State) (f : Nat) : Keeps s (s.zeroFrame f) :=
  .ite (.after (.foldl (fun _ _ => State.dram_keeps _ _ _) _ _) .update) (.clear _ _ _)

theorem State.mapPage_keeps (s : State) (part table va frame b : Nat) : Keeps s (s.mapPage part table va frame b) :=
  State.putHome_keeps _ _ _

theorem State.pfmap_keeps (s : State) (a b : Nat) : Keeps s (s.pfmap a b).2 := by
  unfold State.pfmap
  dsimp only
  split
  · exact .refl _
  · split
    · exact .refl _
    · split
      · exact .refl _
      · split
        · exact .refl _
        · split
          · exact .refl _
          · split
            · exact .refl _
            · split
              · exact .refl _
              · dsimp only
                refine .after (State.mapPage_keeps _ _ _ _ _ _) (.after (State.zeroFrame_keeps _ _) ?_)
                exact State.unitWrite_keeps _ _ _ _

theorem execPfmap_keeps (x : Ord) (s : State) : OutKeeps s (execPfmap x s) := by
  unfold execPfmap
  refine .next (State.named_keeps _ _ _ ?_)
  split
  · exact State.refuse_keeps _ _ _
  · refine State.uniformly_keeps _ _ _ ?_
    exact fun _ => .after (State.done_keeps _ _ _) (.after (State.writeD_keeps _ _ _ _) (State.pfmap_keeps _ _ _))

theorem State.invalidate_keeps (s : State) (scope lo hi : Nat) : Keeps s (s.invalidate scope lo hi) :=
  .after (State.revokeRange_keeps _ _ _ _) (State.dropTlb_keeps _ _ _ _)

theorem execTlbinv_keeps (x : Ord) (s : State) : OutKeeps s (execTlbinv x s) := by
  unfold execTlbinv
  refine .next (State.named_keeps _ _ _ ?_)
  split
  · exact State.refuse_keeps _ _ _
  · refine State.uniformly_keeps _ _ _ ?_
    intro _
    dsimp only
    split
    · split <;> exact .ite (State.awaitWide_keeps _ _) (State.doneWide_keeps _ _ _)
    · split
      · exact State.refuse_keeps _ _ _
      · split
        · exact State.awaitWide_keeps _ _
        · split
          · split
            · split
              · exact .after (State.awaitWide_keeps _ _) (State.invalidate_keeps _ _ _ _)
              · exact .after (State.doneWide_keeps _ _ _) (State.invalidate_keeps _ _ _ _)
            · split
              · exact .after (State.awaitWide_keeps _ _) (State.invalidate_keeps _ _ _ _)
              · exact .after (State.doneWide_keeps _ _ _) (State.invalidate_keeps _ _ _ _)
          · split
            · split
              · refine .after (State.awaitWide_keeps _ _) (.after (State.invalidate_keeps _ _ _ _) ?_)
                exact .after (State.coreDrop_keeps _ _) (State.coreBack_keeps _ _)
              · refine .after (State.doneWide_keeps _ _ _) (.after (State.invalidate_keeps _ _ _ _) ?_)
                exact .after (State.coreDrop_keeps _ _) (State.coreBack_keeps _ _)
            · split
              · refine .after (State.awaitWide_keeps _ _) (.after (State.invalidate_keeps _ _ _ _) ?_)
                exact .after (State.coreDrop_keeps _ _) (State.coreBack_keeps _ _)
              · refine .after (State.doneWide_keeps _ _ _) (.after (State.invalidate_keeps _ _ _ _) ?_)
                exact .after (State.coreDrop_keeps _ _) (State.coreBack_keeps _ _)

theorem execTraceOff_keeps (x : Ord) (s : State) : OutKeeps s (execTraceOff x s) := by
  unfold execTraceOff
  refine .next (State.uniformly_keeps _ _ _ ?_)
  exact fun _ => .after (State.done_keeps _ _ _) (.after .update (State.closeBlock_keeps _))

theorem State.traceTimeout_keeps (s : State) (i : Gid) : Keeps s (s.traceTimeout i) := by
  unfold State.traceTimeout
  split
  · exact .refl _
  · exact .ite (.refl _) (.after (State.closeBlock_keeps _) (State.focus_keeps _ _))

theorem State.settleBlock_keeps (s : State) (die core : Nat) (b : TraceBlock) (written : Bool) :
    Keeps s (s.settleBlock die core b written) :=
  State.setCore_keeps _ _ _ _

theorem State.writeBlock_keeps (s : State) (die core : Nat) : Keeps s (s.writeBlock die core) := by
  unfold State.writeBlock
  split
  · exact .refl _
  · split
    · exact .after (State.settleBlock_keeps _ _ _ _ _) (State.logRing_keeps _ _ _ _)
    · dsimp only
      split
      · exact .after (State.updGroup_keeps _ _ _) (State.settleBlock_keeps _ _ _ _ _)
      · split
        · exact .after (State.logError_keeps _ _ _) (.after (State.updGroup_keeps _ _ _) (State.settleBlock_keeps _ _ _ _ _))
        · split
          · exact .after (State.logError_keeps _ _ _) (.after (State.updGroup_keeps _ _ _) (State.settleBlock_keeps _ _ _ _ _))
          · refine .after (State.settleBlock_keeps _ _ _ _ _) (.after (State.settleWaiters_keeps _) ?_)
            exact .after (State.putHome_keeps _ _ _) (State.mapWrite_keeps _ _ _ _)

theorem State.evict_keeps (s : State) (die core line : Nat) : Keeps s (s.evict die core line) :=
  .after (State.dropAll_keeps _ _ _ _) (State.writeBack_keeps _ _ _ _)

theorem exec_keeps (i : Instr) (s : State) : OutKeeps s (exec i s) := by
  cases i with
  | samplePeriod => exact .next (State.sampled_keeps _ _)
  | tamperAlarm => exact .next (State.alarms_keeps _ _)
  | clockAlarm => exact .next (.after (State.alarms_keeps _ _) .update)
  | spareCoreSubstitution => exact .next (State.substitute_keeps _ _ _ _)
  | substitutionDrainDone => exact .next (State.drainDone_keeps _ _)
  | rowRemap => exact .next (State.remapRow_keeps _)
  | remapCopyDone => exact execRemapCopyDone_keeps _
  | laneSparing => exact .next (State.failLane_keeps _ _ _)
  | quiesceComplete => exact .next (.ite (State.enterDry_keeps _ _) (.refl _))
  | quiesceTimeout => exact execQuiesceTimeout_keeps _ _
  | repairComplete => exact .next (.ite (.refl _)
    (.after (.foldl (fun _ _ => State.reopenBanks_keeps _ _) _ _) (State.setPart_keeps _ _ _)))
  | repairFailed => exact .next (.ite (State.failPart_keeps _ _) (.refl _))
  | verificationPassed => exact .next (.ite (.after (State.releaseDoorbells_keeps _) (State.setPart_keeps _ _ _)) (.refl _))
  | verificationFailed => exact .next (.ite (State.failPart_keeps _ _) (.refl _))
  | readRequest => exact .next (State.serveRead_keeps _ _)
  | readResponse => exact .next (.ite (State.dataArrived_keeps _ _) (.refl _))
  | write => exact .next (State.serveWrite_keeps _ _)
  | writeAcknowledge => exact .next (.ite (State.acknowledged_keeps _ _) (.refl _))
  | atomicRequest => exact .next (State.serveRequest_keeps _ _)
  | atomicResponse => exact .next (.ite (State.dataArrived_keeps _ _) (.refl _))
  | negativeAcknowledge => exact .next (.ite (State.refused_keeps _ _) (.refl _))
  | collectiveData => exact .next (.ite (State.collArrived_keeps _ _) (.refl _))
  | timeMessage => exact .next .update
  | malformedFlit => exact .next (.ite (.refl _) .update)
  | remoteAccessTimeout => exact .next (State.unreachable_keeps _ _)
  | firstLockTimeout => exact .next (.ite (.refl _) (.after (State.report_keeps _ _) .update))
  | timeLockLoss => exact .next (.after (State.report_keeps _ _) .update)
  | memoryRequest => exact .next (State.serve_keeps _ _ _)
  | loadDataLand => exact .next (State.landOp_keeps _ _)
  | refreshWindow => exact .next (.ite (State.setChan_keeps _ _ _ _) (.refl _))
  | powerdownEntry => exact .next (.ite (State.enterPower_keeps _ _ _ _) (.refl _))
  | selfrefreshEntry => exact .next (.ite (State.enterPower_keeps _ _ _ _) (.refl _))
  | powerdownExit => exact .next (State.wake_keeps _ _ _ _ _)
  | selfrefreshExit => exact .next (State.wake_keeps _ _ _ _ _)
  | scrub => exact execScrub_keeps _ _ _
  | remapReloadComplete => exact execRemapReloadComplete_keeps _ _ _ _ _
  | bankScrubComplete => exact .next (.ite (.refl _)
    (.after (State.setBank_keeps _ _ _ _ _) (.foldl (fun _ _ => State.markPoison_keeps _ _) _ _)))
  | ldfeTimeout => exact execLdfeTimeout_keeps _ _
  | accordTileLoad => exact .next (State.tileArrives_keeps _ _)
  | fold => exact .next (State.runFold_keeps _ _)
  | foldSwap => exact .next (State.swapFold_keeps _ _)
  | copyCommand => exact .next (State.runCopy_keeps _ _)
  | gatherPool => exact .next (State.runGather_keeps _ _)
  | matrixVector => exact .next (State.runMvec_keeps _ _)
  | collective => exact .next (State.runColl_keeps _ _)
  | commandCompletion => exact .next (State.completeCmd_keeps _ _)
  | commandRevoke => exact .next (State.revoke_keeps _ _)
  | rayArrival => exact .next (State.rayArrives_keeps _ _)
  | engineTake => exact .next (State.take_keeps _ _ _)
  | traversalPass => exact .next (State.pass_keeps _ _ _)
  | spillMoveIn => exact .next (State.moveIn_keeps _ _ _)
  | recordArrival => exact .next (State.recordArrives_keeps _ _)
  | filterRequest => exact .next (State.filterRequest_keeps _ _)
  | rasterDraw => exact .next (State.rasterDraw_keeps _ _)
  | reproject => exact .next (State.reprojectDraw_keeps _ _)
  | drawCompletion => exact .next (State.drawCompletion_keeps _ _)
  | pcreate => exact execPcreate_keeps _ _
  | pdestroy => exact .next (State.command_keeps _ _ _ (fun _ => State.onPart_keeps _ _ _ (fun _ => State.destroyPart_keeps _ _)))
  | pgrant => exact execPgrant_keeps _ _
  | prevoke => exact execPrevoke_keeps _ _
  | pbases => exact execPbases_keeps _ _
  | ctxwr => exact execCtxwr_keeps _ _
  | drydn => exact execDrydn_keeps _ _
  | pquery => exact .next (State.command_keeps _ _ _ (fun _ => State.onPart_keeps _ _ _ (fun _ => .refl _)))
  | repairCore => exact execRepairCore_keeps _ _
  | repairRow => exact execRepairRow_keeps _ _
  | repairLane => exact execRepairLane_keeps _ _
  | apolicy => exact execApolicy_keeps _ _
  | resume => exact execResume_keeps _ _
  | reset => exact execReset_keeps _ _
  | attest => exact execAttest_keeps _ _
  | fwstage => exact execFwstage_keeps _ _
  | fwswitch => exact execFwswitch_keeps _ _
  | dbgnonce => exact execDbgnonce_keeps _ _
  | dbggrant => exact .next (State.command_keeps _ _ _ (fun _ => State.onPart_keeps _ _ _ (fun _ => State.debugGrant_keeps _ _ _)))
  | dbgrevoke => exact .next (State.command_keeps _ _ _ (fun _ => State.onPart_keeps _ _ _ (fun _ => .refl _)))
  | unknownOpcode => exact .next (.ite (.refl _) (State.command_keeps _ _ _ (fun _ => .refl _)))
  | mailboxComplete => exact execMailboxComplete_keeps _
  | managementSession => exact execManagementSession_keeps _ _
  | doorbellWrite => exact .next (State.doorbell_keeps _ _ _ _)
  | ringEntry => exact .next (State.ringEntry_keeps _ _)
  | functionLevelReset => exact .next (.after (State.clearCtxs_keeps _ _) (.updateHost rfl))
  | pfHotReset => exact .next (.updateHost rfl)
  | atsInvalidation => exact .next (.after (.foldl (fun _ _ => State.revoke_keeps _ _) _ _) (State.dropTlb_keeps _ _ _ _))
  | pageRequestResponse => exact .next (.ite (.refl _) (State.priResponse_keeps _ _ _))
  | boot => exact .next (.after (State.bootChain_keeps _) (.after .update (State.setModes_keeps _ _)))
  | launchAdmission => exact execLaunchAdmission_keeps _
  | launchStart => exact execLaunchStart_keeps _ _
  | groupDispatch => exact execGroupDispatch_keeps _ _
  | deadlinePass => exact .next (State.passDeadline_keeps _ _)
  | stageGroupFormation => exact .next (State.formStage_keeps _ _ _)
  | flushTimeout => exact execFlushTimeout_keeps _ _ _
  | launchEnd => exact execLaunchEnd_keeps _ _
  | launchCompletion => exact execLaunchCompletion_keeps _ _
  | groupPreempt => exact .next (State.preempt_keeps _ _)
  | preemptLoadAbandon => exact .next (State.abandon_keeps _ _)
  | groupSave => exact execGroupSave_keeps _ _
  | groupResume => exact execGroupResume_keeps _ _
  | rejoinExpiry => exact execRejoinExpiry_keeps _ _ _
  | sleepWake => exact .next (State.updGroup_keeps _ _ _)
  | mmaSlotEnd => exact execMmaSlotEnd_keeps _ _
  | traceBlockTimeout => exact .next (State.traceTimeout_keeps _ _)
  | traceBlockWrite => exact .next (State.writeBlock_keeps _ _ _)
  | pageWalk => exact .next (State.findLeaf_keeps _ _ _ _ _)
  | mapFill => exact .next (State.fillBlock_keeps _ _ _)
  | coreCacheEviction => exact .next (State.evict_keeps _ _ _ _)
  | dbgWrite => exact .next (State.eventWrite_keeps _ _ _)
  | dbgvalWrite => exact .next (State.eventWrite_keeps _ _ _)
  | lszWrite => exact .next (State.eventWrite_keeps _ _ _)
  | rwinWrite => exact .next (State.eventWrite_keeps _ _ _)
  | tvecWrite => exact .next (State.eventWrite_keeps _ _ _)
  | tableBaseWrite => exact .next (State.eventWrite_keeps _ _ _)
  | registerWrite => exact execRegisterWrite_keeps _ _ _
  | nop => exact .next (State.perThread_keeps _ _ _ (fun _ => .refl _))
  | add => exact .next (State.calc_keeps _ _ _ _)
  | sub => exact .next (State.calc_keeps _ _ _ _)
  | mul => exact .next (State.calc_keeps _ _ _ _)
  | mad => exact .next (State.calc_keeps _ _ _ _)
  | div => exact .next (State.calc_keeps _ _ _ _)
  | min => exact .next (State.calc_keeps _ _ _ _)
  | max => exact .next (State.calc_keeps _ _ _ _)
  | iabs => exact .next (State.calc_keeps _ _ _ _)
  | shl => exact .next (State.calc_keeps _ _ _ _)
  | shr => exact .next (State.calc_keeps _ _ _ _)
  | sar => exact .next (State.calc_keeps _ _ _ _)
  | rot => exact .next (State.calc_keeps _ _ _ _)
  | cmp => exact .next (State.setPred_keeps _ _ _ _)
  | sel => exact .next (State.calc_keeps _ _ _ _)
  | addmin => exact .next (State.calc_keeps _ _ _ _)
  | bfe => exact .next (State.calc_keeps _ _ _ _)
  | bfi => exact .next (State.calc_keeps _ _ _ _)
  | bits => exact .next (State.calc_keeps _ _ _ _)
  | bmux => exact .next (State.calc_keeps _ _ _ _)
  | and => exact .next (State.calc_keeps _ _ _ _)
  | or => exact .next (State.calc_keeps _ _ _ _)
  | xor => exact .next (State.calc_keeps _ _ _ _)
  | sad => exact .next (State.calc_keeps _ _ _ _)
  | fadd => exact .next (State.calc_keeps _ _ _ _)
  | fsub => exact .next (State.calc_keeps _ _ _ _)
  | fmul => exact .next (State.calc_keeps _ _ _ _)
  | ffma => exact .next (State.calc_keeps _ _ _ _)
  | fmin => exact .next (State.calc_keeps _ _ _ _)
  | fmax => exact .next (State.calc_keeps _ _ _ _)
  | fcmp => exact .next (State.setPred_keeps _ _ _ _)
  | fsgn => exact .next (State.calc_keeps _ _ _ _)
  | frcp => exact .next (State.calc_keeps _ _ _ _)
  | frsq => exact .next (State.calc_keeps _ _ _ _)
  | fsqrt => exact .next (State.calc_keeps _ _ _ _)
  | fdiv => exact .next (State.calc_keeps _ _ _ _)
  | fsf => exact .next (State.calc_keeps _ _ _ _)
  | fclass => exact .next (State.calc_keeps _ _ _ _)
  | frnd => exact .next (State.calc_keeps _ _ _ _)
  | fdot => exact .next (State.calc_keeps _ _ _ _)
  | cvt => exact .next (State.calc_keeps _ _ _ _)
  | pack => exact .next (State.calc_keeps _ _ _ _)
  | unpack => exact .next (State.calc_keeps _ _ _ _)
  | perm => exact .next (State.calc_keeps _ _ _ _)
  | ins => exact .next (State.calc_keeps _ _ _ _)
  | ext => exact .next (State.calc_keeps _ _ _ _)
  | bscale => exact .next (State.calc_keeps _ _ _ _)
  | mov => exact execMov_keeps _ _ _
  | xprev => exact .next (State.calc_keeps _ _ _ _)
  | xnext => exact .next (State.calc_keeps _ _ _ _)
  | xsel => exact .next (State.calc_keeps _ _ _ _)
  | xbcast => exact .next (State.named_keeps _ _ _ (State.checked_keeps _ _ _ (fun _ => State.calc_keeps _ _ _ _)))
  | xscan => exact .next (State.calc_keeps _ _ _ _)
  | xred => exact execXred_keeps _ _ _
  | xvote => exact .next (State.named_keeps _ _ _ (State.perThread_keeps _ _ _ (fun _ => .ite .update (.refl _))))
  | xmatch => exact .next (State.calc_keeps _ _ _ _)
  | br => exact execBr_keeps _ _
  | jmp => exact .next (State.jumpForm_keeps _ _ _ _)
  | call => exact .next (.ite (State.refuse_keeps _ _ _) (State.jumpForm_keeps _ _ _ _))
  | ret => exact execRet_keeps _ _
  | switch a et cases dflt => exact execSwitch_keeps a et cases dflt s
  | rejoin => exact execRejoin_keeps _ _
  | exit => exact .next (.ite (State.retire_keeps _ _ _ _) (.ite (State.refuse_keeps _ _ _) (State.exitThreads_keeps _ _ _)))
  | yield => exact execYield_keeps _ _ _
  | ld => exact execLd_keeps _ _
  | st => exact execSt_keeps _ _
  | ldls => exact execLdls_keeps _ _
  | stls => exact execStls_keeps _ _
  | ldfe => exact execLdfe_keeps _ _
  | stfe => exact execStfe_keeps _ _
  | clrfe => exact execClrfe_keeps _ _
  | pref => exact execPref_keeps _ _
  | lsmap => exact execLsmap_keeps _ _
  | lsunmap => exact execLsunmap_keeps _ _
  | lswb => exact execLswb_keeps _ _
  | lsinv => exact execLsinv_keeps _ _
  | fenceScope => exact execFenceScope_keeps _ _
  | fencePath => exact execFencePath_keeps _ _
  | fenceView => exact execFenceView_keeps _ _
  | bind => exact execBind_keeps _ _
  | unbind => exact execUnbind_keeps _ _
  | acq => exact execAcq_keeps _ _ _
  | rel => exact execRel_keeps _ _ _
  | atom => exact .next (State.atomic_keeps _ _ _ _ _ _ _)
  | cas => exact .next (State.atomic_keeps _ _ _ _ _ _ _)
  | fatom => exact .next (State.atomic_keeps _ _ _ _ _ _ _)
  | atomls => exact execAtomls_keeps _ _ _
  | cbar => exact execCbar_keeps _ _ _
  | wait => exact execWait_keeps _ _ _ _ _
  | qpush => exact execQpush_keeps _ _
  | qpop => exact execQpop_keeps _ _ _
  | emit => exact execEmit_keeps _ _
  | emitRec => exact execEmitRec_keeps _ _
  | launch => exact execLaunch_keeps _ _
  | racq => exact execRacq_keeps _ _
  | rrel => exact execRrel_keeps _ _
  | mma => exact .next (State.product_keeps _ _ _ _)
  | mmas => exact .next (State.product_keeps _ _ _ _)
  | mzero => exact .next (State.onTile_keeps _ _ _ _ (fun _ => State.uniform_keeps _ _ _ _ .update))
  | mld => exact execMld_keeps _ _
  | mst => exact execMst_keeps _ _
  | mrstSet => exact execMrstSet_keeps _ _
  | mrstEnd => exact .next (State.branchUniform_keeps _ _ (fun _ => .after (State.retire_keeps _ _ _ _) .update))
  | mrd => exact execMrd_keeps _ _
  | ecmd => exact execEcmd_keeps _ _
  | rsend => exact execRsend_keeps _ _ _
  | tex => exact execTex_keeps _ _
  | hgrid => exact execHgrid_keeps _ _
  | accld => exact execAccld_keeps _ _
  | accAttach => exact execAccAttach_keeps _ _
  | accDetach => exact execAccDetach_keeps _ _
  | accVersion => exact execAccVersion_keeps _ _
  | rast => exact execRast_keeps _ _
  | rdsr => exact execRdsr_keeps _ _
  | wrsr => exact execWrsr_keeps _ _
  | trap => exact execTrap_keeps _ _
  | eret => exact execEret_keeps _ _
  | brk => exact .next (State.uniformly_keeps _ _ _ (fun _ => State.refuse_keeps _ _ _))
  | pfmap => exact execPfmap_keeps _ _
  | tlbinv => exact execTlbinv_keeps _ _
  | traceOn => exact .next (State.uniformly_keeps _ _ _
    (fun _ => .after (State.done_keeps _ _ _) (.after (State.wantSync_keeps _) .update)))
  | traceOff => exact execTraceOff_keeps _ _
  | traceMark => exact .next (State.uniformly_keeps _ _ _ (fun _ => .after (State.done_keeps _ _ _) (State.emitPacket_keeps _ _)))
  | illegalInstruction => exact .next (.ite (State.refuse_keeps _ _ _) (.refl _))
  | storePerformed => exact execStorePerformed_keeps _ _
  | dieLinkOutOfService => exact .next (.ite (.refl _) .update)

theorem State.fetchWords_keeps (s : State) (fuel : Nat) (ws : List Nat) : Keeps s (s.fetchWords fuel ws).2 := by
  induction fuel generalizing s ws with
  | zero => exact .refl s
  | succ fuel ih =>
    unfold State.fetchWords
    split
    · exact .refl _
    · dsimp only
      split
      · dsimp only
        exact .of_snd ‹_› (State.translate_keeps _ _ _ _ _)
      · split
        · dsimp only
          exact .of_snd ‹_› (State.translate_keeps _ _ _ _ _)
        · exact .after (ih _ _) (.after (State.touch_keeps _ _ _ _ _ _ _) (.of_snd ‹_› (State.translate_keeps _ _ _ _ _)))

theorem State.noteWrites_keeps (s : State) (i : Instr) (t : State) : Keeps t (s.noteWrites i t) :=
  .ite (.refl _) (State.updGroup_keeps _ _ _)

theorem State.noted_keeps (s u : State) (i : Instr) {o : Out} (h : OutKeeps u o) : OutKeeps u (s.noted i o) := by
  cases o with
  | next t => exact .next ((h t rfl).trans (s.noteWrites_keeps i t))
  | fault r => exact .fault r
  | refused r => exact .refused r

theorem State.view_keeps (s : State) (i : Gid) (slot : Bool) : Keeps s (s.view i slot) := .after .update (State.focus_keeps _ _)

theorem State.turnAway_keeps (s : State) (tr : Trap) : Keeps s (s.turnAway tr) :=
  .after (State.trap_keeps _ _) (.after (State.occupy_keeps _ _) (.ite (.refl _) (State.charge_keeps _ _)))

theorem State.fetchFault_keeps (s : State) (c : BitVec 8) (va : Nat) : Keeps s (s.fetchFault c va) := State.turnAway_keeps _ _

theorem State.breakAt_keeps (s : State) (p : Pred) : Keeps s (s.breakAt p) := State.turnAway_keeps _ _

theorem State.traceIssue_keeps (s : State) : Keeps s s.traceIssue := by
  unfold State.traceIssue
  dsimp only
  split
  · exact .refl _
  · refine .after .update ?_
    split
    · split
      · exact .after (State.emitPacket_keeps _ _) (.after .update (State.emitPacket_keeps _ _))
      · exact .after .update (State.emitPacket_keeps _ _)
    · exact .ite (State.emitPacket_keeps _ _) (.refl _)

theorem State.traced_keeps (s : State) {run : State → Out} (h : ∀ u, OutKeeps u (run u)) : OutKeeps s (s.traced run) := by
  unfold State.traced
  split
  · exact h s
  · split
    · split
      · next ht _ => exact .next (h s _ ht)
      · exact .after (h _) (State.traceIssue_keeps _)
    · exact h s

theorem State.denyAll_keeps (s : State) : Keeps s s.denyAll := by
  unfold State.denyAll
  split
  · exact .refl _
  · exact .after (State.turnAway_keeps _ _) .update

theorem State.skip_keeps (s : State) (i : Instr) : Keeps s (s.skip i) := .update

theorem State.issueWords_keeps (s : State) (ws : List Nat) : OutKeeps s (s.issueWords ws) := by
  unfold State.issueWords
  dsimp only
  split
  · exact .after (State.traced_keeps _ fun _ => .next (State.breakAt_keeps _ _)) .update
  · split
    · exact .after (State.traced_keeps _ fun _ => exec_keeps _ _) .update
    · split
      · exact .next (.after (State.skip_keeps _ _) .update)
      · split
        · exact .next (.after (State.denyAll_keeps _) .update)
        · exact State.noted_keeps _ _ _ (.after (State.traced_keeps _ fun _ => exec_keeps _ _) .update)

theorem State.raiseNow_keeps (s : State) (c : BitVec 8) (t : Nat) (iw0 : BitVec 32) (omask : Mask) :
    Keeps s (s.raiseNow c t iw0 omask) :=
  .after (State.turnAway_keeps _ _) .update

theorem State.issueCur_keeps (s : State) : OutKeeps s s.issueCur := by
  unfold State.issueCur
  split
  · exact .next (State.raiseNow_keeps _ _ _ _ _)
  · split
    · exact .next (State.takeAbandoned_keeps _)
    · split
      · exact .next (.after (State.fetchFault_keeps _ _ _) (.after .update (.of_snd ‹_› (State.fetchWords_keeps _ _ _))))
      · exact .after (State.issueWords_keeps _ _) (.of_snd ‹_› (State.fetchWords_keeps _ _ _))

theorem State.noteBest_keeps (s : State) (c : Cand) (busy : Nat) : Keeps s (s.noteBest c busy) :=
  .ite (.refl _) (State.setCore_keeps _ _ _ _)

theorem State.noteExit_keeps (s : State) (g : Group) : Keeps s (s.noteExit g) :=
  .ite (.refl _) (.ite (.refl _) (State.gangExit_keeps _ _))

theorem State.afterLane_keeps (s : State) (g : Group) (c : Cand) : Keeps s (s.afterLane g c) := by
  unfold State.afterLane
  dsimp only
  split
  · refine .after .update (.after (State.noteBest_keeps _ _ _) ?_)
    exact .ite (.after (State.updGroup_keeps _ _ _) (State.noteExit_keeps _ _)) (State.noteExit_keeps _ _)
  · split <;> exact .ite (.after .update (State.noteExit_keeps _ _)) (.after .update (State.noteExit_keeps _ _))

theorem State.issue_keeps (s : State) (c : Cand) : OutKeeps s (s.issue c) := by
  unfold State.issue
  dsimp only
  split
  · next h => exact .next (.after (State.afterLane_keeps _ _ _) (.trans (State.view_keeps _ _ _) (State.issueCur_keeps _ _ h)))
  · exact .after (State.issueCur_keeps _) (State.view_keeps _ _ _)

theorem State.age_keeps (s t : State) (g : Group) (slot : Bool) : Keeps t (s.age t g slot) :=
  .ite (.refl _) (State.updGroup_keeps _ _ _)

theorem State.ages_keeps (s : State) : Keeps s s.ages :=
  .foldl (fun u g => .after (s.age_keeps _ g true) (s.age_keeps u g false)) _ s

theorem State.tick_keeps (s : State) : Keeps s s.tick :=
  .after .update (.after (State.seeRptr_keeps _) (.after (State.ages_keeps _) (.ite (State.applyFe_keeps _) (.refl _))))

theorem step_keeps (s : State) : OutKeeps s (step s) := by
  unfold step
  refine .after ?_ s.settleWaiters_keeps
  dsimp only
  split
  · split
    · exact .after (exec_keeps _ _) .update
    · exact .next .update
  · split
    · exact exec_keeps _ _
    · split
      · exact .fault _
      · split
        · exact exec_keeps _ _
        · exact State.issue_keeps _ _
        · split
          · exact .after (exec_keeps _ _) .update
          · exact exec_keeps _ _
          · exact .next (.after (State.tick_keeps _) (State.moveStranded_keeps _))

end Sys2Proof.Machine
end

section
/-!
The canonical form of the memories is kept by every step.
-/

namespace Sys2Proof.Machine

open Sys2Proof

/-- Settles O60: a step settles the waiters and then is an event, the issue of a lane or the tick of the clock, each of which
changes device memory, host memory and the local stores by writes and clears alone. -/
theorem stepKeepsInv : Obligations.StepKeepsInv := by
  unfold Obligations.StepKeepsInv
  intro s t hs ht
  exact step_keeps s t ht hs

end Sys2Proof.Machine
end

section
/-!
SUPPORT. The memory stacks at work (spec/03). A state is related to a later one that changes nothing a channel keeps
(`SameChannels`); the lookups of the remap table and the count of a launch's atoms are such changes, so what a channel keeps
after it has served a request is what `serve` writes last.
-/

namespace Sys2Proof.Machine

open Sys2Proof

/-! ### Reading back a channel and a bank -/

@[simp] theorem State.chan_setChan (s : State) (k ch : Nat) (c : PChan) : (s.setChan k ch c).chan k ch = c := by
  simp [State.chan, State.setChan]
@[simp] theorem State.setChan_mem (s : State) (k ch : Nat) (c : PChan) : (s.setChan k ch c).mem = s.mem := rfl
@[simp] theorem State.setChan_home (s : State) (k ch : Nat) (c : PChan) : (s.setChan k ch c).home = s.home := rfl
@[simp] theorem State.setChan_cur (s : State) (k ch : Nat) (c : PChan) : (s.setChan k ch c).cur = s.cur := rfl
@[simp] theorem State.bank_setBank (s : State) (k pc b : Nat) (x : Bank) : (s.setBank k pc b x).bank k pc b = x := by
  simp [State.bank, State.setBank]
@[simp] theorem State.setBank_mem (s : State) (k pc b : Nat) (x : Bank) : (s.setBank k pc b x).mem = s.mem := rfl

/-! ### The scheduler (R45, R46) -/

/-- The request that a search takes is the first that passes, and the others stay in their order. -/
theorem takeFirst_some {f : MemReq → Bool} {q rest : List MemReq} {r : MemReq} (h : takeFirst f q = some (r, rest)) :
    f r = true ∧ r ∈ q ∧ rest = q.erase r := by
  induction q generalizing rest with
  | nil => simp [takeFirst] at h
  | cons x q ih =>
    by_cases hx : f x = true
    · simp only [takeFirst, hx, if_true, Option.some.injEq, Prod.mk.injEq] at h
      obtain ⟨rfl, rfl⟩ := h
      simp [hx]
    · simp only [takeFirst, hx, Bool.false_eq_true, if_false, Option.map_eq_some_iff, Prod.mk.injEq] at h
      obtain ⟨⟨y, l⟩, hy, rfl, rfl⟩ := h
      obtain ⟨hf, hm, hl⟩ := ih hy
      have hne : x ≠ y := fun e => hx (e ▸ hf)
      refine ⟨hf, List.mem_cons_of_mem _ hm, ?_⟩
      rw [List.erase_cons_tail (by simpa using hne), ← hl]

/-- A search finds nothing just where no request passes. -/
theorem takeFirst_none (f : MemReq → Bool) (q : List MemReq) : takeFirst f q = none ↔ ∀ r ∈ q, f r = false := by
  induction q with
  | nil => simp [takeFirst]
  | cons x q ih => cases hx : f x <;> simp [takeFirst, hx, ih]

/-- A request that the owner of a reserved slot is owed in it (R46, R148). -/
def State.Owed (s : State) (k ch : Nat) (r : MemReq) : Prop :=
  s.slotNow < 51 ∧ r.guaranteed = true ∧ s.slotOwner k ch s.slotNow = some r.part ∧ s.paying k ch r.part = false ∧
    s.surplus k ch r = false

/-- What a slot lets be served: past the reserved ones best-effort requests only (R46). -/
def State.Slotted (s : State) (r : MemReq) : Prop := if 51 ≤ s.slotNow then r.guaranteed = false else True

/-- The request picked is queued, its slot lets it be served, and it is owed where any is. -/
theorem State.pick_some {s : State} {k ch : Nat} {q rest : List MemReq} {r : MemReq} (h : s.pick k ch q = some (r, rest)) :
    r ∈ q ∧ rest = q.erase r ∧ s.Slotted r ∧ ((∃ x ∈ q, s.Owed k ch x) → s.Owed k ch r) := by
  unfold State.pick at h
  by_cases hn : 51 ≤ s.slotNow
  · rw [if_pos hn] at h
    obtain ⟨hf, hm, he⟩ := takeFirst_some h
    refine ⟨hm, he, by simpa [State.Slotted, hn] using hf, ?_⟩
    rintro ⟨x, -, hx, -⟩
    omega
  · rw [if_neg hn] at h
    have hs : ∀ x, s.Slotted x := fun x => by simp [State.Slotted, hn]
    have any : takeFirst (fun _ => true) q = some (r, rest) → (¬∃ x ∈ q, s.Owed k ch x) →
        r ∈ q ∧ rest = q.erase r ∧ s.Slotted r ∧ ((∃ x ∈ q, s.Owed k ch x) → s.Owed k ch r) := fun h none =>
      have ⟨_, hm, he⟩ := takeFirst_some h
      ⟨hm, he, hs r, fun hx => absurd hx none⟩
    split at h
    · next ho =>
      refine any h ?_
      rintro ⟨x, -, -, -, hx, -⟩
      simp [ho] at hx
    · next p ho =>
      split at h
      · next hp =>
        refine any h ?_
        rintro ⟨x, -, -, -, hx, hpay, -⟩
        obtain rfl : p = x.part := by simpa [ho] using hx
        simp [hp] at hpay
      · next hp =>
        split at h
        · next e hf =>
          obtain rfl : e = (r, rest) := by simpa using h
          obtain ⟨hf, hm, he⟩ := takeFirst_some hf
          obtain ⟨⟨hg, rfl⟩, hs'⟩ : (r.guaranteed = true ∧ r.part = p) ∧ s.surplus k ch r = false := by simpa using hf
          exact ⟨hm, he, hs r, fun _ => ⟨by omega, hg, ho, by simpa using hp, hs'⟩⟩
        · next hf =>
          refine any h ?_
          rintro ⟨x, hx, -, hg, hpart, -, hsur⟩
          obtain rfl : p = x.part := by simpa [ho] using hpart
          have := (takeFirst_none _ q).1 hf x hx
          simp [hg, hsur] at this

/-- Nothing is picked just where the slot lets no request of the queue be served. -/
theorem State.pick_none {s : State} {k ch : Nat} {q : List MemReq} :
    s.pick k ch q = none ↔ ∀ r ∈ q, ¬s.Slotted r := by
  unfold State.pick
  by_cases hn : 51 ≤ s.slotNow
  · simp [hn, State.Slotted, takeFirst_none]
  · have hs : ∀ x, s.Slotted x := fun x => by simp [State.Slotted, hn]
    have any : takeFirst (fun _ => true) q = none ↔ ∀ r ∈ q, ¬s.Slotted r := by simp [takeFirst_none, hs]
    rw [if_neg hn]
    split
    · exact any
    · split
      · exact any
      · split
        · next e hf =>
          obtain ⟨-, hm, -⟩ := takeFirst_some (r := e.1) (rest := e.2) hf
          exact ⟨fun h => by simp at h, fun h => absurd (hs e.1) (h e.1 hm)⟩
        · exact any

/-! ### Changes that no channel sees -/

/-- What an activate and the count of a launch's atoms leave as it was. -/
structure SameChannels (s t : State) : Prop where
  chan : ∀ k ch, t.chan k ch = s.chan k ch
  clock : t.clock = s.clock
  mem : t.mem = s.mem
  home : t.home = s.home
  cur : t.cur = s.cur

theorem SameChannels.refl (s : State) : SameChannels s s := ⟨fun _ _ => rfl, rfl, rfl, rfl, rfl⟩

theorem SameChannels.trans {s t u : State} (h : SameChannels s t) (h' : SameChannels t u) : SameChannels s u :=
  ⟨fun k ch => (h'.chan k ch).trans (h.chan k ch), h'.clock.trans h.clock, h'.mem.trans h.mem, h'.home.trans h.home,
    h'.cur.trans h.cur⟩

/-- A stack rewritten with the channels it had. -/
theorem State.setStack_sameChannels (s : State) (n : Nat) (k : Stack) (h : k.pcs = (s.stack n).pcs) :
    SameChannels s (s.setStack n k) := by
  refine ⟨fun m ch => ?_, rfl, rfl, rfl, rfl⟩
  simp only [State.chan, State.stack_setStack]
  split
  · next e => rw [e, h]
  · rfl

theorem State.fence_sameChannels (s : State) (k pc b : Nat) : SameChannels s (s.fence k pc b) := by
  unfold State.fence
  dsimp only
  split
  · exact .refl s
  · have := fun x => s.setStack_sameChannels k { s.stack k with banks := x } rfl
    exact (this _).trans ⟨fun _ _ => rfl, rfl, rfl, rfl, rfl⟩

theorem State.activate_sameChannels (s : State) (r : RowId) : SameChannels s (s.activate r) := by
  unfold State.activate
  dsimp only
  split
  · exact .refl s
  · have looked : ∀ k : Stack, k.pcs = (s.stack r.stack).pcs →
        SameChannels s ({ s with free := s.free + 1 }.setStack r.stack k) := fun k hk =>
      .trans (t := { s with free := s.free + 1 }) ⟨fun _ _ => rfl, rfl, rfl, rfl, rfl⟩
        (State.setStack_sameChannels _ _ _ hk)
    split
    · refine .trans ?_ (State.fence_sameChannels _ _ _ _)
      exact looked _ rfl
    · exact looked _ rfl

theorem State.activates_sameChannels (l : List RowId) (s : State) :
    SameChannels s (l.foldl (fun s x => s.activate x) s) := by
  induction l generalizing s with
  | nil => exact .refl s
  | cons r l ih => exact (s.activate_sameChannels r).trans (ih _)

theorem State.countAtoms_sameChannels (s : State) (k ch : Nat) (r : MemReq) : SameChannels s (s.countAtoms k ch r) := by
  unfold State.countAtoms
  split
  · exact .refl s
  · exact ⟨fun _ _ => rfl, rfl, rfl, rfl, rfl⟩

/-! ### MEMORY_REQUEST (R45) -/

theorem State.serve_of_asleep {s : State} {k ch : Nat} (h : (s.chan k ch).power ≠ .active ∨ s.clock.cycle < (s.chan k ch).busy) :
    s.serve k ch = s := by
  have : ((s.chan k ch).power != .active || s.clock.cycle < (s.chan k ch).busy) = true := by simpa using h
  simp [State.serve, this]

theorem State.serve_of_pick_none {s : State} {k ch : Nat} (h : s.pick k ch (s.chan k ch).queue = none) : s.serve k ch = s := by
  simp [State.serve, h]

theorem State.copying_of_remapping_none {s : State} (h : s.ctl.remapping = none) (p : Nat) : s.copying p = false := by
  simp [State.copying, h]

/-- Served whole: the request leaves the queue and the channel is busy for its cost. -/
theorem State.serve_of_pick_some {s : State} {k ch : Nat} {r : MemReq} {rest : List MemReq}
    (awake : ¬((s.chan k ch).power ≠ .active ∨ s.clock.cycle < (s.chan k ch).busy)) (free : s.ctl.remapping = none)
    (h : s.pick k ch (s.chan k ch).queue = some (r, rest)) :
    (s.serve k ch).cur = s.cur ∧ (s.serve k ch).mem = s.mem ∧ (s.serve k ch).home = s.home ∧
      ((s.serve k ch).chan k ch).queue = rest ∧ ((s.serve k ch).chan k ch).power = .active ∧
      ((s.serve k ch).chan k ch).busy = s.clock.cycle + logicToCore r.cost := by
  have ha : ((s.chan k ch).power != .active || s.clock.cycle < (s.chan k ch).busy) = false := by simpa using awake
  have hc : r.atoms.any s.copying = false := by simp [State.copying_of_remapping_none free]
  have hp : (s.chan k ch).power = .active := by simpa using (not_or.1 awake).1
  obtain ⟨chan, clock, mem, home, cur⟩ := (State.activates_sameChannels
    ((r.atoms.filter fun p => p < 12 * 2 ^ 36).map rowOf).eraseDups s).trans (State.countAtoms_sameChannels _ k ch r)
  simp only [State.serve, ha, h, hc, Bool.false_eq_true, if_false, State.setChan_cur, State.setChan_mem, State.setChan_home,
    State.chan_setChan]
  exact ⟨cur, mem, home, trivial, by rw [chan, hp], by rw [clock]⟩

/-! ### Refresh and power states (R48-R51) -/

theorem State.refreshDue_iff (s : State) (k ch : Nat) :
    s.refreshDue k ch = true ↔ ∃ n, s.refreshNow k = some n ∧ ch < 64 ∧ (s.chan k ch).power ≠ .selfrefresh ∧
      (s.chan k ch).frame ≠ n := by
  cases h : s.refreshNow k <;> simp [State.refreshDue, h, and_assoc]

theorem exec_refreshWindow_of_not_due {s : State} {k ch : Nat} (h : s.refreshDue k ch = false) :
    exec (.refreshWindow k ch) s = .next s := by
  show execRefreshWindow k ch s = _
  simp [execRefreshWindow, h]

theorem exec_refreshWindow_of_due {s : State} {k ch n : Nat} (h : s.refreshDue k ch = true) (hn : s.refreshNow k = some n) :
    exec (.refreshWindow k ch) s = .next (s.setChan k ch { s.chan k ch with
      refreshBank := ((s.chan k ch).refreshBank + 1) % 16, frame := n }) := by
  show execRefreshWindow k ch s = _
  simp [execRefreshWindow, h, hn]

/-- An idle channel's queue is empty and its timer is past. -/
theorem State.idleFor_iff (s : State) (c : PChan) (n : Nat) :
    s.idleFor c n = true ↔ c.queue = [] ∧ c.idle + logicToCore n < s.clock.cycle := by
  simp [State.idleFor]

theorem State.enterPower_live {s : State} {k ch : Nat} {p : Power}
    (h : (s.chan k ch).accs ≠ [] ∧ (s.chan k ch).saving = none) :
    s.enterPower k ch p = s.setChan k ch { s.chan k ch with saving := some (s.clock.cycle + 432) } := by
  obtain ⟨ha, hs⟩ := h
  simp [State.enterPower, State.sliceLive, ha, hs, logicToCore]

theorem State.enterPower_still {s : State} {k ch : Nat} {p : Power}
    (h : ¬((s.chan k ch).accs ≠ [] ∧ (s.chan k ch).saving = none)) :
    s.enterPower k ch p = s.setChan k ch { s.chan k ch with
      power := p, accs := [], checkpoint := (s.chan k ch).checkpoint ++ (s.chan k ch).accs, saving := none } := by
  have : (s.sliceLive k ch && (s.chan k ch).saving.isNone) = false := by
    cases hs : (s.chan k ch).saving <;> simp_all [State.sliceLive]
  simp [State.enterPower, this]

theorem State.enterPower_frame (s : State) (k ch : Nat) (p : Power) :
    (s.enterPower k ch p).mem = s.mem ∧ (s.enterPower k ch p).cur = s.cur ∧
      ((s.enterPower k ch p).chan k ch).queue = (s.chan k ch).queue := by
  by_cases h : (s.chan k ch).accs ≠ [] ∧ (s.chan k ch).saving = none
  · simp [State.enterPower_live h]
  · simp [State.enterPower_still h]

theorem State.powerdownDue_idle {s : State} {k ch : Nat} (h : s.powerdownDue k ch = true) :
    (s.chan k ch).power = .active ∧ (s.chan k ch).queue = [] ∧ (s.chan k ch).idle + 108 < s.clock.cycle := by
  simp only [State.powerdownDue, Bool.and_eq_true, beq_iff_eq, State.idleFor_iff] at h
  obtain ⟨⟨⟨-, hp⟩, hq, hi⟩, -⟩ := h
  exact ⟨hp, hq, by simpa [logicToCore] using hi⟩

theorem State.selfrefreshDue_idle {s : State} {k ch : Nat} (h : s.selfrefreshDue k ch = true) :
    (s.chan k ch).power = .powerdown ∧ (s.chan k ch).idle + 270000 < s.clock.cycle := by
  simp only [State.selfrefreshDue, Bool.and_eq_true, beq_iff_eq, State.idleFor_iff] at h
  obtain ⟨⟨⟨⟨⟨-, hp⟩, -, hi⟩, -⟩, -⟩, -⟩ := h
  exact ⟨hp, by simpa [logicToCore] using hi⟩

theorem exec_powerdownEntry (s : State) (k ch : Nat) :
    exec (.powerdownEntry k ch) s = .next (if s.powerdownDue k ch then s.enterPower k ch .powerdown else s) := rfl

theorem exec_selfrefreshEntry (s : State) (k ch : Nat) :
    exec (.selfrefreshEntry k ch) s = .next (if s.selfrefreshDue k ch then s.enterPower k ch .selfrefresh else s) := rfl

theorem State.wake_of_queued {s : State} {k ch n : Nat} {p : Power} (hq : (s.chan k ch).queue ≠ [])
    (hp : (s.chan k ch).power = p) :
    s.wake k ch p n = s.setChan k ch { s.chan k ch with
      power := .active, accs := (s.chan k ch).checkpoint ++ (s.chan k ch).accs, checkpoint := []
      busy := s.clock.cycle + logicToCore n } := by
  simp [State.wake, hq, hp]

theorem State.wake_of_not {s : State} {k ch n : Nat} {p : Power}
    (h : (s.chan k ch).queue = [] ∨ (s.chan k ch).power ≠ p) : s.wake k ch p n = s := by
  have : ((s.chan k ch).power != p || (s.chan k ch).queue.isEmpty) = true := by simpa using h.symm
  simp [State.wake, this]

theorem exec_powerdownExit (s : State) (k ch : Nat) : exec (.powerdownExit k ch) s = .next (s.wake k ch .powerdown 16) := rfl

theorem exec_selfrefreshExit (s : State) (k ch : Nat) :
    exec (.selfrefreshExit k ch) s = .next (s.wake k ch .selfrefresh 640) := rfl

/-! ### Poison and scrub (R52, R53) -/

theorem mem_foldl_insert (l m : List Nat) (b : Nat) :
    b ∈ l.foldl (fun m x => if m.contains x then m else x :: m) m ↔ b ∈ m ∨ b ∈ l := by
  induction l generalizing m with
  | nil => simp
  | cons x l ih =>
    rw [List.foldl_cons, ih]
    by_cases hx : x ∈ m
    · simp only [List.contains_eq_mem, hx, decide_true, if_true, List.mem_cons]
      exact ⟨fun h => h.imp_right .inr, fun h => h.elim .inl fun h => h.elim (fun e => .inl (e ▸ hx)) .inr⟩
    · simp only [List.contains_eq_mem, hx, decide_false, Bool.false_eq_true, if_false, List.mem_cons]
      tauto

theorem State.mem_markPoison (s : State) (a b : Nat) :
    b ∈ (s.markPoison a).poison ↔ b ∈ s.poison ∨ b ∈ protectedAtoms (32 * a) := mem_foldl_insert _ _ _

@[simp] theorem State.markPoison_mem (s : State) (a : Nat) : (s.markPoison a).mem = s.mem := rfl
@[simp] theorem State.markPoison_cur (s : State) (a : Nat) : (s.markPoison a).cur = s.cur := rfl

theorem inTier_iff (p : Nat) : inTier p = true ↔ 2 ^ 44 ≤ p ∧ p < 2 ^ 44 + 12 * 2 ^ 38 := by simp [inTier]

/-- What the error code of an atom protects: the atom, and in the tier the unit of two. -/
theorem mem_protectedAtoms_atomOf (a b : Nat) :
    b ∈ protectedAtoms (32 * atomOf a) ↔ b = a / 32 ∨ (inTier a = true ∧ b / 2 = a / 64) := by
  have ht : inTier (32 * atomOf a) = inTier a := by
    rw [Bool.eq_iff_iff, inTier_iff, inTier_iff, atomOf]; omega
  simp only [protectedAtoms, ht]
  cases inTier a
  · simp [atomOf]
  · simp only [atomOf, if_true, List.mem_cons, List.not_mem_nil, or_false, true_and]; omega

theorem mem_protectedAtoms_self (a : Nat) : a ∈ protectedAtoms (32 * a) := by
  unfold protectedAtoms
  split
  · simp only [List.mem_cons, List.not_mem_nil, or_false]; omega
  · simp

/-- The stack as a scrub of an address finds it: a pass begins at a stack's first atom (R53). -/
def State.scrubbed (s : State) (a : Nat) : State :=
  if a < 12 * 2 ^ 36 && a % 2 ^ 36 / 32 = 0 then s.setStack (stackOf a) { s.stack (stackOf a) with corrected := [] } else s

theorem exec_scrub {s : State} {a : Nat} (h : (unitOf a).isSome = true) (found : ScrubRead) :
    exec (.scrub a found) s = .next (match found with
      | .clean => s.scrubbed a
      | .corrected => if a < 12 * 2 ^ 36 then (s.scrubbed a).countCorrected (rowOf a) else s.scrubbed a
      | .uncorrectable => (s.scrubbed a).markPoison (atomOf a)) := by
  show execScrub a found s = _
  have hu : (unitOf a).isNone = false := by simpa using h
  cases found <;> simp [execScrub, hu, State.scrubbed]

theorem State.scrubbed_frame (s : State) (a : Nat) :
    (s.scrubbed a).poison = s.poison ∧ (s.scrubbed a).cur = s.cur ∧ (s.scrubbed a).mem = s.mem ∧
      (s.scrubbed a).ctl = s.ctl := by
  unfold State.scrubbed
  split <;> simp

/-- The count of a row's corrected errors that a scrub of it finds. -/
theorem State.scrubbed_corrected {s : State} {a : Nat} (h : a < 12 * 2 ^ 36) :
    Tab.getD ((s.scrubbed a).stack (rowOf a).stack).corrected (rowKey (rowOf a)) 0 =
      if a % 2 ^ 36 / 32 = 0 then 0 else Tab.getD (s.stack (rowOf a).stack).corrected (rowKey (rowOf a)) 0 := by
  have hr : (rowOf a).stack = stackOf a := rfl
  by_cases hf : a % 2 ^ 36 / 32 = 0
  · simp only [State.scrubbed, h, hf, decide_true, Bool.and_self, if_true, hr, State.stack_setStack]
    rfl
  · simp only [State.scrubbed, h, hf, decide_true, decide_false, Bool.and_false, Bool.false_eq_true, if_false]

theorem State.queueRemap_queue (s : State) (r : RowId) :
    (s.queueRemap r).ctl.remapQueue = if r ∈ s.ctl.remapQueue then s.ctl.remapQueue else s.ctl.remapQueue ++ [r] := by
  by_cases h : r ∈ s.ctl.remapQueue <;> simp [State.queueRemap, h]

/-- A row's corrected error counts, and the sixteenth queues the row, once. -/
theorem State.countCorrected_spec (s : State) (r : RowId) :
    let t := s.countCorrected r
    let n := Tab.getD (s.stack r.stack).corrected (rowKey r) 0
    t.poison = s.poison ∧ t.cur = s.cur ∧ t.mem = s.mem ∧ Tab.get? (rowKey r) (t.stack r.stack).corrected = some (n + 1) ∧
      t.ctl.remapQueue = if n + 1 = 16 ∧ r ∉ s.ctl.remapQueue then s.ctl.remapQueue ++ [r] else s.ctl.remapQueue := by
  intro t n
  let counted := s.setStack r.stack { s.stack r.stack with
    corrected := Tab.set (rowKey r) (n + 1) (s.stack r.stack).corrected }
  have row : Tab.get? (rowKey r) (counted.stack r.stack).corrected = some (n + 1) := by simp [counted]
  by_cases hn : n + 1 = 16
  · have ht : t = counted.queueRemap r := if_pos hn
    have frame := counted.queueRemap_eq r
    refine ⟨by rw [ht, frame]; rfl, by rw [ht, frame]; rfl, by rw [ht, frame]; rfl, by rw [ht, frame]; exact row, ?_⟩
    rw [ht, State.queueRemap_queue]
    by_cases hr : r ∈ s.ctl.remapQueue <;> simp [counted, hn, hr]
  · have ht : t = counted := if_neg hn
    exact ⟨by rw [ht]; rfl, by rw [ht]; rfl, by rw [ht]; rfl, by rw [ht]; exact row, by rw [ht]; simp [counted, hn]⟩

/-! ### Row remap (R54, R55) -/

/-- A spare row of a bank is in use where an entry of the bank names it. -/
theorem State.bankRemaps_any (s : State) (r : RowId) (n : Nat) :
    ((s.bankRemaps r).any fun e => e.spare == n) = true ↔
      ∃ e ∈ (s.stack r.stack).remap, e.row.pc = r.pc ∧ e.row.bank = r.bank ∧ e.spare = n := by
  simp [State.bankRemaps, and_assoc]

theorem State.spareRow_some {s : State} {r : RowId} {n : Nat} (hn : n < 32)
    (free : ¬∃ e ∈ (s.stack r.stack).remap, e.row.pc = r.pc ∧ e.row.bank = r.bank ∧ e.spare = n)
    (below : ∀ k, k < n → ∃ e ∈ (s.stack r.stack).remap, e.row.pc = r.pc ∧ e.row.bank = r.bank ∧ e.spare = k) :
    s.spareRow r = some n := by
  have hf : ((s.bankRemaps r).any fun e => e.spare == n) = false := by
    rw [← Bool.not_eq_true, s.bankRemaps_any]; exact free
  rw [State.spareRow, List.find?_range_eq_some]
  refine ⟨by simp [hf], List.mem_range.2 hn, fun k hk => ?_⟩
  simp [(s.bankRemaps_any r k).2 (below k hk)]

/-- The controller may not start a remap: one runs, or the last began less than 10 ms ago. -/
theorem State.remapOpen_iff {s : State} {r : RowId} {q : List RowId} (h : s.ctl.remapQueue = r :: q) :
    s.remapOpen = true ↔ ¬(s.ctl.remapping.isSome = true ∨
      ∃ x, s.ctl.lastRemap = some x ∧ s.clock.time.toNat < x.toNat + 10000000) := by
  have open_ : s.remapOpen = true ↔ s.ctl.remapping = none ∧
      ∀ x, s.ctl.lastRemap = some x → x.toNat + 10000000 ≤ s.clock.time.toNat := by
    cases hl : s.ctl.lastRemap with
    | none => simp [State.remapOpen, h, hl]
    | some x =>
      simp only [State.remapOpen, h, hl, Bool.and_eq_true, Option.isNone_iff_eq_none, decide_eq_true_eq]
      simp [remapGap]
  rw [open_]
  simp

theorem exec_rowRemap_of_early {s : State} {r : RowId} {q : List RowId} (h : s.ctl.remapQueue = r :: q)
    (early : s.remapOpen = false) : exec .rowRemap s = .next s := by
  show Host.Outcome.next s.remapRow = _
  simp [State.remapRow, h, early]

theorem exec_rowRemap_of_noSpare {s : State} {r : RowId} {q : List RowId} (h : s.ctl.remapQueue = r :: q)
    (open_ : s.remapOpen = true) (none_ : s.spareRow r = none) :
    exec .rowRemap s = .next ({ s with ctl := { s.ctl with remapQueue := q } }.report (.noSpareRow r)) := by
  show Host.Outcome.next s.remapRow = _
  have : { s with ctl := { s.ctl with remapQueue := q } }.spareRow r = none := none_
  simp [State.remapRow, h, open_, this]

theorem exec_rowRemap_of_spare {s : State} {r : RowId} {q : List RowId} {n : Nat} (h : s.ctl.remapQueue = r :: q)
    (open_ : s.remapOpen = true) (spare : s.spareRow r = some n) :
    ∃ t, exec .rowRemap s = .next t ∧ t.ctl.remapQueue = q ∧ t.ctl.remapping = some ⟨r, n⟩ ∧
      t.ctl.lastRemap = some s.clock.time ∧ t.mem = s.mem ∧
      (t.stack r.stack).remap = (s.stack r.stack).remap ++ [⟨r, n, false, false, false, false⟩] := by
  refine ⟨s.remapRow, rfl, ?_⟩
  have : { s with ctl := { s.ctl with remapQueue := q } }.spareRow r = some n := spare
  simp only [State.remapRow, h, open_, this, Bool.not_true, Bool.false_eq_true, if_false]
  refine ⟨rfl, trivial, rfl, rfl, ?_⟩
  simp [State.stack]

theorem exec_remapCopyDone_of_none {s : State} (h : s.ctl.remapping = none) : exec .remapCopyDone s = .next s := by
  show execRemapCopyDone s = _
  simp [execRemapCopyDone, h]

theorem exec_remapCopyDone_of_some {s : State} {m : Remap} (h : s.ctl.remapping = some m) :
    ∃ t, exec .remapCopyDone s = .next t ∧ t.ctl.remapping = none ∧ t.mem = s.mem ∧ t.cur = s.cur ∧
      (t.stack m.row.stack).remap = (s.stack m.row.stack).remap.map fun e =>
        if e.row == m.row then { e with live := e.spare == m.spare } else e := by
  show ∃ t, execRemapCopyDone s = _ ∧ _
  simp only [execRemapCopyDone, h]
  refine ⟨_, rfl, rfl, rfl, rfl, ?_⟩
  simp [State.stack]

/-! ### Fenced banks (R56) -/

theorem exec_remapReloadComplete_of_not {s : State} {k pc b : Nat} (h : (s.bank k pc b).state ≠ .fenced) (ok : Bool) :
    exec (.remapReloadComplete k pc b ok) s = .next s := by
  show execRemapReloadComplete k pc b ok s = _
  simp [execRemapReloadComplete, h]

theorem exec_remapReloadComplete_correct {s : State} {k pc b : Nat} (h : (s.bank k pc b).state = .fenced) :
    ∃ t, exec (.remapReloadComplete k pc b true) s = .next t ∧ t.mem = s.mem ∧
      t.bank k pc b = { s.bank k pc b with state := .scrubbing } ∧
      (t.stack k).remap = (s.stack k).remap.map fun e =>
        if e.row.pc == pc && e.row.bank == b then { e with badA := false, badB := false } else e := by
  show ∃ t, execRemapReloadComplete k pc b true s = _ ∧ _
  simp only [execRemapReloadComplete, h, bne_self_eq_false, Bool.false_eq_true, if_false, if_true]
  refine ⟨_, rfl, rfl, ?_, ?_⟩ <;> simp [State.bank, State.setBank]

theorem exec_remapReloadComplete_failed {s : State} {k pc b : Nat} (h : (s.bank k pc b).state = .fenced) :
    ∃ t, exec (.remapReloadComplete k pc b false) s = .next t ∧ t.mem = s.mem ∧
      t.bank k pc b = { s.bank k pc b with state := .failed } ∧ .bankFailed k pc b ∈ t.host.reports := by
  show ∃ t, execRemapReloadComplete k pc b false s = _ ∧ _
  simp only [execRemapReloadComplete, h, bne_self_eq_false, Bool.false_eq_true, if_false]
  refine ⟨_, rfl, rfl, ?_, by simp⟩
  simp [State.bank, State.setBank, State.stack]

/-- Marking the atoms of a fence log poison keeps the poison there was, and changes no byte. -/
theorem State.markLog_spec (l : List Nat) (s : State) :
    let t := l.foldl (fun s a => s.markPoison a) s
    t.mem = s.mem ∧ t.cur = s.cur ∧ (∀ a ∈ l, a ∈ t.poison) ∧ ∀ a ∈ s.poison, a ∈ t.poison := by
  induction l generalizing s with
  | nil => simp
  | cons x l ih =>
    obtain ⟨hm, hc, hl, hp⟩ := ih (s.markPoison x)
    have keep : ∀ a ∈ s.poison, a ∈ (s.markPoison x).poison := fun a ha => (s.mem_markPoison x a).2 (.inl ha)
    have here : x ∈ (s.markPoison x).poison := (s.mem_markPoison x x).2 (.inr (mem_protectedAtoms_self x))
    refine ⟨hm, hc, fun a ha => ?_, fun a ha => hp a (keep a ha)⟩
    obtain rfl | ha := List.mem_cons.1 ha
    · exact hp _ here
    · exact hl a ha

theorem exec_bankScrubComplete_of_not {s : State} {k pc b : Nat} (h : (s.bank k pc b).state ≠ .scrubbing) :
    exec (.bankScrubComplete k pc b) s = .next s := by
  show execBankScrubComplete k pc b s = _
  simp [execBankScrubComplete, h]

theorem exec_bankScrubComplete {s : State} {k pc b : Nat} (h : (s.bank k pc b).state = .scrubbing) :
    exec (.bankScrubComplete k pc b) s =
      .next (((s.bank k pc b).log.foldl (fun s a => s.markPoison a) s).setBank k pc b ⟨.open_, []⟩) := by
  show execBankScrubComplete k pc b s = _
  simp [execBankScrubComplete, h]

/-! ### O45 -/

theorem channels_serve (s : State) (k ch : Nat) :
    let c := s.chan k ch
    let asleep := c.power ≠ .active ∨ s.clock.cycle < c.busy
    (asleep → exec (.memoryRequest k ch) s = .next s) ∧
    ((∀ r ∈ c.queue, ¬s.Slotted r) → exec (.memoryRequest k ch) s = .next s) ∧
    (¬asleep → s.ctl.remapping = none → (∃ r ∈ c.queue, s.Slotted r) → ∃ t r, exec (.memoryRequest k ch) s = .next t ∧
      t.cur = s.cur ∧ t.mem = s.mem ∧ t.home = s.home ∧ r ∈ c.queue ∧ s.Slotted r ∧
      ((∃ q ∈ c.queue, s.Owed k ch q) → s.Owed k ch r) ∧ (t.chan k ch).queue = c.queue.erase r ∧
      (t.chan k ch).power = .active ∧ (t.chan k ch).busy = s.clock.cycle + (r.cost * 27 + 15) / 16) := by
  intro c asleep
  refine ⟨fun h => congrArg Host.Outcome.next (State.serve_of_asleep h),
    fun h => congrArg Host.Outcome.next (State.serve_of_pick_none (State.pick_none.2 h)), fun awake free hr => ?_⟩
  obtain ⟨x, hx, hs⟩ := hr
  match hp : s.pick k ch c.queue with
  | none => exact absurd hs (State.pick_none.1 hp x hx)
  | some (r, rest) =>
    obtain ⟨hm, he, hslot, howed⟩ := State.pick_some hp
    obtain ⟨cur, mem, home, queue, power, busy⟩ := State.serve_of_pick_some awake free hp
    exact ⟨s.serve k ch, r, rfl, cur, mem, home, hm, hslot, howed, queue.trans he, power, busy⟩

theorem State.refreshNow_eq (s : State) (k : Nat) :
    (if 60 ≤ s.slotNow then some (2 * s.frameNow + 2)
      else if 56 ≤ s.slotNow ∧ 85 < s.dramTemp k then some (2 * s.frameNow + 1) else none) = s.refreshNow k := by
  simp [State.refreshNow]

/-- Settles O45. The scheduler's clause is `State.pick_some` with `SameChannels`; the others are the events' equations. -/
theorem stackEvents : Obligations.StackEvents := by
  unfold Obligations.StackEvents
  refine ⟨channels_serve, fun s k ch => ?windows, fun s a hu => ?scrub, fun s r q hq => ?remap, fun s => ?copied,
    fun s k pc b _ _ => ?bank⟩
  case windows =>
    rw [s.refreshNow_eq k]
    intro c window due live
    refine ⟨fun h => ?_, fun n hn => ?_, fun h => ?_, State.powerdownDue_idle, fun h => ?_, fun h => ?_, fun h => ?_,
      fun hq => ⟨fun hp => ?_, fun hp => ?_⟩, fun h => ?_, fun h => ?_⟩
    · refine exec_refreshWindow_of_not_due ?_
      rw [← Bool.not_eq_true, s.refreshDue_iff]
      exact fun ⟨n, hn⟩ => h n hn
    · exact ⟨_, exec_refreshWindow_of_due ((s.refreshDue_iff k ch).2 ⟨n, hn⟩) hn.1, rfl, rfl, s.chan_setChan k ch _⟩
    · obtain ⟨mem, cur, -⟩ := s.enterPower_frame k ch .powerdown
      refine ⟨_, by rw [exec_powerdownEntry, h, if_pos rfl], mem, cur, fun hl => ?_, fun hl => ?_⟩
      · rw [State.enterPower_live hl, State.chan_setChan]
      · rw [State.enterPower_still hl, State.chan_setChan]
    · rw [exec_powerdownEntry, h]; rfl
    · obtain ⟨mem, cur, queue⟩ := s.enterPower_frame k ch .selfrefresh
      obtain ⟨hp, hi⟩ := State.selfrefreshDue_idle h
      refine ⟨_, by rw [exec_selfrefreshEntry, h, if_pos rfl], mem, cur, fun hl => ?_, queue, hp, hi⟩
      rw [State.enterPower_still hl, State.chan_setChan]
    · rw [exec_selfrefreshEntry, h]; rfl
    · exact ⟨_, (exec_powerdownExit s k ch).trans (congrArg _ (State.wake_of_queued hq hp)), rfl, rfl, s.chan_setChan k ch _⟩
    · exact ⟨_, (exec_selfrefreshExit s k ch).trans (congrArg _ (State.wake_of_queued hq hp)), rfl, rfl, s.chan_setChan k ch _⟩
    · rw [exec_powerdownExit, State.wake_of_not h]
    · rw [exec_selfrefreshExit, State.wake_of_not h]
  case scrub =>
    intro r fresh n
    obtain ⟨hp, hc, hm, hctl⟩ := s.scrubbed_frame a
    refine ⟨⟨_, exec_scrub hu _, hc, hm, fun b => ?_⟩, ⟨_, exec_scrub hu _, hp, hc, hm⟩, fun ha => ?_, fun ha => ?_⟩
    · rw [State.mem_markPoison, hp, mem_protectedAtoms_atomOf]
    · obtain ⟨hp', hc', hm', hn, hq⟩ := (s.scrubbed a).countCorrected_spec (rowOf a)
      rw [State.scrubbed_corrected ha] at hn hq
      rw [hctl] at hq
      exact ⟨_, (exec_scrub hu _).trans (congrArg Host.Outcome.next (if_pos ha)), hp'.trans hp, hc'.trans hc, hm'.trans hm,
        hn, hq⟩
    · have ha' : ¬a < 12 * 2 ^ 36 := Nat.not_lt.2 ha
      simp only [exec_scrub hu, State.scrubbed, ha', decide_false, Bool.false_and, Bool.false_eq_true, if_false]
  case remap =>
    intro used early
    have open_ : ¬early → s.remapOpen = true := (State.remapOpen_iff hq).2
    refine ⟨fun h => exec_rowRemap_of_early hq ?_, fun h all => ?_, fun n h hn free below => ?_⟩
    · rw [← Bool.not_eq_true, State.remapOpen_iff hq]
      exact not_not.2 h
    · have hr : s.ctl.remapping = none := by simpa using (not_or.1 h).1
      exact ⟨_, exec_rowRemap_of_noSpare hq (open_ h) (Option.isNone_iff_eq_none.1 ((s.spareRow_isNone r).2 all)), rfl, hr, by simp, rfl, rfl⟩
    · exact exec_rowRemap_of_spare hq (open_ h) (State.spareRow_some hn free below)
  case copied =>
    refine ⟨exec_remapCopyDone_of_none, fun m hm => ?_⟩
    obtain ⟨t, ht, hr, mem, cur, hremap⟩ := exec_remapCopyDone_of_some hm
    refine ⟨t, ht, hr, mem, cur, fun e he hrow => ?_⟩
    rw [hremap, List.mem_map] at he
    obtain ⟨x, -, rfl⟩ := he
    split at hrow
    · next hx => simp [hx]
    · next hx => simp [hrow] at hx
  case bank =>
    intro bank
    refine ⟨exec_remapReloadComplete_of_not, fun h => ⟨?_, exec_remapReloadComplete_failed h⟩,
      exec_bankScrubComplete_of_not, fun h => ?_⟩
    · obtain ⟨t, ht, mem, hb, hremap⟩ := exec_remapReloadComplete_correct h
      refine ⟨t, ht, mem, hb, fun e he hpc hbank => ?_⟩
      rw [hremap, List.mem_map] at he
      obtain ⟨x, -, rfl⟩ := he
      split at hpc
      · next hx => simp [hx]
      · next hx => simp_all
    · obtain ⟨mem, cur, hlog, hkeep⟩ := State.markLog_spec bank.log s
      exact ⟨_, exec_bankScrubComplete h, by simp, mem, cur, hlog, hkeep⟩

end Sys2Proof.Machine
end

section
/-!
SUPPORT. What the caches and the requests to DRAM change of the state (spec/03, spec/11): requests fill queues and move lines of
the tier cache; lines that move between the caches and memory change those two and nothing else. The result windows and the
state of every bank stay as they are.
-/

namespace Sys2Proof.Machine

open Sys2Proof

/-! ### Windows and banks -/

/-- Two stacks have the same result window, the same full atoms, and banks in the same state. -/
structure Stack.Alike (k l : Stack) : Prop where
  base : l.winBase = k.winBase
  size : l.winSize = k.winSize
  full : l.full = k.full
  bank : ∀ b, (Tab.getD l.banks b ⟨.open_, []⟩).state = (Tab.getD k.banks b ⟨.open_, []⟩).state

theorem Stack.Alike.refl (k : Stack) : k.Alike k := ⟨rfl, rfl, rfl, fun _ => rfl⟩

theorem Stack.Alike.trans {k l m : Stack} (h : k.Alike l) (h' : l.Alike m) : k.Alike m :=
  ⟨h'.base.trans h.base, h'.size.trans h.size, h'.full.trans h.full, fun b => (h'.bank b).trans (h.bank b)⟩

/-- Every stack has its window, its full atoms and the state of its banks. -/
def SameStacks (s t : State) : Prop := ∀ n, (s.stack n).Alike (t.stack n)

theorem SameStacks.refl (s : State) : SameStacks s s := fun _ => .refl _

theorem SameStacks.of_eq {s t : State} (h : t.stks = s.stks) : SameStacks s t := fun n => by
  rw [State.stack, State.stack, h]; exact .refl _

theorem SameStacks.trans {s t u : State} (h : SameStacks s t) (h' : SameStacks t u) : SameStacks s u :=
  fun n => (h n).trans (h' n)

theorem State.setStack_sameStacks {s : State} {n : Nat} {k : Stack} (h : (s.stack n).Alike k) :
    SameStacks s (s.setStack n k) := by
  intro m
  rw [State.stack_setStack]
  split
  · next e => subst e; exact h
  · exact .refl _

theorem SameStacks.fenced {s t : State} (h : SameStacks s t) (p : Nat) : t.fenced p = s.fenced p := by
  rw [State.fenced, State.fenced, (h (stackOf p)).bank]

theorem SameStacks.inWindow {s t : State} (h : SameStacks s t) (p : Nat) : t.inWindow p = s.inWindow p := by
  obtain ⟨base, size, -, -⟩ := h (stackOf p)
  simp only [State.inWindow, base, size]

/-! ### Requests (R44) -/

/-- Only queues of channels and lines of the tier cache change. -/
structure Asks (s t : State) : Prop where
  eq : t = { s with stks := t.stks }
  windows : SameStacks s t

theorem Asks.refl (s : State) : Asks s s := ⟨rfl, .refl s⟩

theorem Asks.trans {s t u : State} (h : Asks s t) (h' : Asks t u) : Asks s u := by
  refine ⟨?_, h.windows.trans h'.windows⟩
  conv_lhs => rw [h'.eq, h.eq]

theorem Asks.foldl {α : Type} {f : State → α → State} (hf : ∀ s a, Asks s (f s a)) (l : List α) (s : State) :
    Asks s (l.foldl f s) := by
  induction l generalizing s with
  | nil => exact .refl s
  | cons a l ih => exact (hf s a).trans (ih _)

theorem State.setStack_asks {s : State} {n : Nat} {k : Stack} (h : (s.stack n).Alike k) : Asks s (s.setStack n k) :=
  ⟨rfl, State.setStack_sameStacks h⟩

theorem State.putReq_asks (s : State) (c : Nat) (r : MemReq) : Asks s (s.putReq c r) :=
  State.setStack_asks ⟨rfl, rfl, rfl, fun _ => rfl⟩

theorem State.sendReqs_asks (s : State) (a : Asker) (w : Bool) (l : List Sector) : Asks s (s.sendReqs a w l) :=
  .foldl (fun s _ => s.putReq_asks _ _) _ s

theorem Stack.tierAccess_alike (k : Stack) (p : Nat) (w : Bool) : k.Alike (k.tierAccess p w).1 := by
  unfold Stack.tierAccess
  dsimp only
  split
  · exact ⟨rfl, rfl, rfl, fun _ => rfl⟩
  · split
    · exact ⟨rfl, rfl, rfl, fun _ => rfl⟩
    · split
      · exact ⟨rfl, rfl, rfl, fun _ => rfl⟩
      · exact .refl k

theorem State.throughTier_asks (s : State) (a : Asker) (w : Bool) (p : Nat) : Asks s (s.throughTier a w p).1 := by
  unfold State.throughTier
  dsimp only
  have two : ∀ (u : State) (b : Asker) (x y : List Sector), Asks u ((u.sendReqs b false x).sendReqs b true y) := fun u b x y =>
    (u.sendReqs_asks b false x).trans (State.sendReqs_asks _ _ _ _)
  have used := (State.setStack_asks (Stack.tierAccess_alike (s.stack (stackOf p)) p w))
  have filled : ∀ (c : Bool) x y, Asks s (if c then
      ((s.setStack (stackOf p) ((s.stack (stackOf p)).tierAccess p w).1).sendReqs a false x).sendReqs a true y
      else s.setStack (stackOf p) ((s.stack (stackOf p)).tierAccess p w).1) := fun c x y => by
    split
    · exact used.trans (two _ a x y)
    · exact used
  split
  · exact filled _ _ _
  · exact (filled _ _ _).trans (two _ _ _ _)

theorem State.ask_asks (s : State) (a : Asker) (w : Bool) (l : List Sector) : Asks s (s.ask a w l) := by
  unfold State.ask
  dsimp only
  refine .trans ?_ (State.sendReqs_asks _ _ _ _)
  generalize (joinSectors l).filter (fun x => (s.stack (stackOf x.key)).cachesTier x.key) = far
  suffices h : ∀ (far : List Sector) (acc : State × List Sector), Asks s acc.1 → Asks s (far.foldl (fun acc x =>
      ((acc.1.throughTier a w x.key).1, acc.2 ++ [Sector.plain (acc.1.throughTier a w x.key).2,
        Sector.plain ((acc.1.throughTier a w x.key).2 + 32)])) acc).1 from h far (s, []) (.refl s)
  intro far
  induction far with
  | nil => exact fun _ h => h
  | cons x far ih => exact fun acc h => ih _ (h.trans (acc.1.throughTier_asks a w x.key))

theorem State.askBack_asks (s : State) (l : List Nat) : Asks s (s.askBack l) := by
  unfold State.askBack
  split
  · exact .refl s
  · exact s.ask_asks _ _ _

/-! ### Lines (R224, R225) -/

/-- Only the caches, memory and the queues of the stacks change. -/
structure Moves (s t : State) : Prop where
  eq : t = { s with
    cores := t.cores, home := t.home, homeLines := t.homeLines, mem := t.mem, stks := t.stks, free := t.free }
  windows : SameStacks s t

theorem Moves.refl (s : State) : Moves s s := ⟨rfl, .refl s⟩

theorem Moves.trans {s t u : State} (h : Moves s t) (h' : Moves t u) : Moves s u := by
  refine ⟨?_, h.windows.trans h'.windows⟩
  conv_lhs => rw [h'.eq, h.eq]

theorem Moves.foldl {α : Type} {f : State → α → State} (hf : ∀ s a, Moves s (f s a)) (l : List α) (s : State) :
    Moves s (l.foldl f s) := by
  induction l generalizing s with
  | nil => exact .refl s
  | cons a l ih => exact (hf s a).trans (ih _)

/-- The later move first, where the earlier one has no name. -/
theorem Moves.after {s t u : State} (h' : Moves t u) (h : Moves s t) : Moves s u := h.trans h'

theorem Asks.moves {s t : State} (h : Asks s t) : Moves s t := by
  refine ⟨?_, h.windows⟩
  rw [h.eq]

theorem State.dram_moves (s : State) (p : Nat) (b : Byte) : Moves s (s.dram p b) := by
  unfold State.dram
  dsimp only
  split
  · split
    · exact .refl s
    · refine Asks.moves (State.setStack_asks ⟨rfl, rfl, rfl, fun i => ?_⟩)
      rw [Tab.getD_set]
      split
      · next e => rw [e]
      · rfl
  · exact ⟨rfl, .of_eq rfl⟩

theorem State.setHome_moves (s : State) (space p : Nat) (b : Byte) : Moves s (s.setHome space p b) := ⟨rfl, .of_eq rfl⟩

theorem State.setHomeBypass_moves (s : State) (space p : Nat) (b : Byte) : Moves s (s.setHomeBypass space p b) := by
  unfold State.setHomeBypass
  split
  · exact s.setHome_moves space p b
  · exact s.dram_moves p b

theorem State.leaveHome_moves (s : State) (l : CLine) : Moves s (s.leaveHome l) := by
  unfold State.leaveHome
  dsimp only
  refine (State.askBack_asks _ _).moves.after (.after (.foldl (fun s e => s.dram_moves _ _) _ _) ?_)
  exact ⟨rfl, .of_eq rfl⟩

theorem State.useHome_moves (s : State) (l : CLine) : Moves s (s.useHome l) := by
  unfold State.useHome
  dsimp only
  split
  · exact ⟨rfl, .of_eq rfl⟩
  · exact .after (State.leaveHome_moves _ _) ⟨rfl, .of_eq rfl⟩

theorem State.setCore_moves (s : State) (die core : Nat) (c : Core) : Moves s (s.setCore die core c) := ⟨rfl, .of_eq rfl⟩

end Sys2Proof.Machine
end

section
/-!
SUPPORT. What is stored past the caches (R226): `Quiet` says that outside a set of bytes memory and every cache hold what they
held.
-/

namespace Sys2Proof.Machine

open Sys2Proof

/-! ### Tables and folds -/

/-- A fold of writes: what is read of the result stands in the state before, where no write hits, or is the value of one that
hits. -/
theorem foldl_last {σ α β : Type} {f : σ → α → σ} {get : σ → β} {val : α → β} {inv : σ → Prop} {hit : α → Prop}
    (keep : ∀ s a, inv s → inv (f s a)) (miss : ∀ s a, inv s → ¬hit a → get (f s a) = get s)
    (hits : ∀ s a, inv s → hit a → get (f s a) = val a) (l : List α) {s : σ} (hs : inv s) :
    ((∀ a ∈ l, ¬hit a) ∧ get (l.foldl f s) = get s) ∨ ∃ a ∈ l, hit a ∧ get (l.foldl f s) = val a := by
  induction l generalizing s with
  | nil => exact .inl ⟨fun _ h => absurd h List.not_mem_nil, rfl⟩
  | cons a l ih =>
    rcases ih (keep s a hs) with ⟨none, same⟩ | ⟨b, hb, hit', e⟩
    · by_cases ha : hit a
      · exact .inr ⟨a, List.mem_cons_self, ha, same.trans (hits s a hs ha)⟩
      · refine .inl ⟨fun b hb => ?_, same.trans (miss s a hs ha)⟩
        rcases List.mem_cons.1 hb with rfl | hb
        · exact ha
        · exact none b hb
    · exact .inr ⟨b, List.mem_cons_of_mem _ hb, hit', e⟩

/-! ### Keys -/

theorem byteKey_inj {x y a p : Nat} (ha : a < 2 ^ 48) (hp : p < 2 ^ 48) (h : byteKey x a = byteKey y p) : x = y ∧ a = p := by
  unfold byteKey at h
  omega

theorem State.core_setCore_eq (s : State) (d c d' c' : Nat) (x : Core) :
    (s.setCore d c x).core d' c' = if coreKey d' c' = coreKey d c then x else s.core d' c' := by
  simp [State.core, State.setCore]

/-! ### What stays outside a set of bytes -/

/-- Outside a set of physical bytes, memory, the die buffers and the caches hold what they held; the caches of the other cores and
host memory are as before. -/
structure Quiet (die core : Nat) (P : Nat → Prop) (s t : State) : Prop where
  wf : s.mem.wf = true → t.mem.wf = true
  windows : SameStacks s t
  mem : s.mem.wf = true → ∀ a, ¬P a → t.mem.byte a = s.mem.byte a
  home : ∀ x a, a < 2 ^ 48 → ¬P a → Tab.get? (byteKey x a) t.home = Tab.get? (byteKey x a) s.home
  cache : ∀ d c x a, a < 2 ^ 48 → ¬P a →
    Tab.get? (byteKey x a) (t.core d c).cache = Tab.get? (byteKey x a) (s.core d c).cache
  others : ∀ d c, coreKey d c ≠ coreKey die core → (t.core d c).cache = (s.core d c).cache
  hostMem : t.host.mem = s.host.mem
  ctxs : t.host.ctxs = s.host.ctxs

section
variable {die core : Nat} {P : Nat → Prop}

theorem Quiet.trans {s t u : State} (h : Quiet die core P s t) (h' : Quiet die core P t u) : Quiet die core P s u where
  wf := fun hw => h'.wf (h.wf hw)
  windows := h.windows.trans h'.windows
  mem := fun hw a hp => (h'.mem (h.wf hw) a hp).trans (h.mem hw a hp)
  home := fun x a ha hp => (h'.home x a ha hp).trans (h.home x a ha hp)
  cache := fun d c x a ha hp => (h'.cache d c x a ha hp).trans (h.cache d c x a ha hp)
  others := fun d c hk => (h'.others d c hk).trans (h.others d c hk)
  hostMem := h'.hostMem.trans h.hostMem
  ctxs := h'.ctxs.trans h.ctxs

/-- The later change first, where the earlier one has no name. -/
theorem Quiet.after {s t u : State} (h' : Quiet die core P t u) (h : Quiet die core P s t) : Quiet die core P s u := h.trans h'

/-- What touches neither memory nor a cache. -/
theorem Quiet.same {s t : State} (mem : t.mem = s.mem) (home : t.home = s.home)
    (cache : ∀ d c, (t.core d c).cache = (s.core d c).cache) (windows : SameStacks s t) (hostMem : t.host.mem = s.host.mem)
    (ctxs : t.host.ctxs = s.host.ctxs) : Quiet die core P s t where
  wf := fun h => by rw [mem]; exact h
  windows := windows
  mem := fun _ _ _ => by rw [mem]
  home := fun _ _ _ _ => by rw [home]
  cache := fun d c _ _ _ _ => by rw [cache]
  others := fun d c _ => cache d c
  hostMem := hostMem
  ctxs := ctxs

theorem Quiet.refl (s : State) : Quiet die core P s s := .same rfl rfl (fun _ _ => rfl) (.refl s) rfl rfl

/-- The issuing core's bytes but a set are as before, in the words of the statements. -/
theorem Quiet.bytesBut {s t : State} (h : Quiet s.cur.id.die s.cur.id.core P s t) : s.BytesBut t P := by
  refine ⟨fun hw a b ha hp hb => ?_, fun hw x a _ ha hp _ _ => ?_, h.others, fun a _ => by rw [h.hostMem], h.ctxs⟩
  · simpa only [State.Holds, h.mem hw a hp, h.home _ a ha hp, h.cache _ _ _ a ha hp] using hb
  · simp only [State.ownByte, State.homeByte, h.cache _ _ x a ha hp, h.home x a ha hp, h.mem hw a hp]

end

/-! ### Bytes written to DRAM (R56) -/

@[simp] theorem State.dram_home (s : State) (p : Nat) (b : Byte) : (s.dram p b).home = s.home := by
  unfold State.dram
  split
  · dsimp only; split <;> rfl
  · rfl

@[simp] theorem State.dram_cores (s : State) (p : Nat) (b : Byte) : (s.dram p b).cores = s.cores := by
  unfold State.dram
  split
  · dsimp only; split <;> rfl
  · rfl

@[simp] theorem State.dram_host (s : State) (p : Nat) (b : Byte) : (s.dram p b).host = s.host := by
  unfold State.dram
  split
  · dsimp only; split <;> rfl
  · rfl

theorem State.dram_wf {s : State} (p : Nat) (b : Byte) (h : s.mem.wf = true) : (s.dram p b).mem.wf = true := by
  unfold State.dram
  split
  · dsimp only; split <;> exact h
  · exact Mem.wf_put p b h

/-- A byte written to DRAM stands there, but in a bank that takes no writes. -/
theorem State.dram_byte {s : State} (p a : Nat) (b : Byte) (h : s.mem.wf = true) :
    (s.dram p b).mem.byte a = if a = p ∧ s.fenced p = false then b else s.mem.byte a := by
  unfold State.dram
  by_cases hf : s.fenced p = true
  · simp only [hf, if_true, Bool.true_eq_false, and_false, if_false]
    split <;> rfl
  · simp only [hf, Bool.false_eq_true, if_false, and_true]
    exact Mem.byte_put p a b h

/-! ### The record of a core (R224) -/

/-- A core's record rewritten with the cache it had. -/
theorem State.setCore_cache (s : State) {d c : Nat} {x : Core} (h : x.cache = (s.core d c).cache) (d' c' : Nat) :
    ((s.setCore d c x).core d' c').cache = (s.core d' c').cache := by
  rw [State.core_setCore_eq]
  split
  · next e => rw [h, State.core, State.core, e]
  · rfl

end Sys2Proof.Machine
end

section
/-!
SUPPORT. How a memory instruction issues (R185, R355, R356): a translation changes TLBs only; where all checks pass, the accesses
are performed, the operation is outstanding, and the split has moved on or is held at it.
-/

namespace Sys2Proof.Machine

open Sys2Proof

/-! ### Translation (R218) -/

/-- Only the TLBs change, and the count of free choices. -/
structure Translates (s t : State) : Prop where
  eq : t = { s with cores := t.cores, dieTlb := t.dieTlb, free := t.free }
  cache : ∀ d c, (t.core d c).cache = (s.core d c).cache

theorem Translates.refl (s : State) : Translates s s := ⟨rfl, fun _ _ => rfl⟩

theorem Translates.trans {s t u : State} (h : Translates s t) (h' : Translates t u) : Translates s u := by
  refine ⟨?_, fun d c => (h'.cache d c).trans (h.cache d c)⟩
  conv_lhs => rw [h'.eq, h.eq]

theorem State.findLeaf_translates (s : State) (die core part va : Nat) : Translates s (s.findLeaf die core part va).2 := by
  unfold State.findLeaf
  split
  · exact .refl s
  · split
    · exact ⟨rfl, s.setCore_cache rfl⟩
    · split
      · exact ⟨rfl, s.setCore_cache rfl⟩
      · exact .refl s

theorem State.translate_translates (s : State) (a : Acc) (va : Word) (size align : Nat) :
    Translates s (s.translate a va size align).2 := by
  have leaf := s.findLeaf_translates a.die a.core a.part va.toNat
  unfold State.translate
  split
  · exact .refl s
  · split
    · exact .refl s
    · split <;> next e => rw [e] at leaf; exact leaf

theorem State.checkPlace_translates (s : State) (va : Word) (size : Nat) (write poison : Bool) (ok : Map → Bool) :
    Translates s (s.checkPlace va size write poison ok).2 := by
  have walk := s.translate_translates (s.cur.acc write) va size size
  unfold State.checkPlace
  split
  · next e => rw [e] at walk; exact walk
  · next e =>
    rw [e] at walk
    split
    · exact walk
    · split
      · exact walk
      · split <;> exact walk

theorem planAll_translates {chk : State → Nat → Except (BitVec 8 × Word) Map × State} {va : State → Nat → Word}
    (h : ∀ s i, Translates s (chk s i).2) (l : List Nat) (s : State) : Translates s (planAll chk va l s).2.2 := by
  induction l generalizing s with
  | nil => exact .refl s
  | cons i l ih =>
    unfold planAll
    dsimp only
    split
    · exact ih s
    · have hi := h s i
      split <;> next e => rw [e] at hi; exact hi.trans (ih _)

/-- The plans of checks that all pass are of the listed threads in order, each with what its check says of its map. -/
theorem planAll_plans {chk : State → Nat → Except (BitVec 8 × Word) Map × State} {va : State → Nat → Word}
    {ok : Map → Prop} (h : ∀ s i m u, chk s i = (.ok m, u) → ok m) {l : List Nat} {s u : State} {ps : List Plan}
    (hp : planAll chk va l s = (ps, [], u)) : ps.map Plan.thread = l ∧ ∀ q ∈ ps, ok q.map := by
  induction l generalizing s ps with
  | nil =>
    cases hp
    exact ⟨rfl, fun _ h => absurd h List.not_mem_nil⟩
  | cons i l ih =>
    unfold planAll at hp
    dsimp only at hp
    split at hp
    · cases hp
    · split at hp
      · next m v e =>
        generalize hr : planAll chk va l v = r at hp
        obtain ⟨qs, fs, w⟩ := r
        cases hp
        obtain ⟨threads_, maps⟩ := ih hr
        refine ⟨by rw [List.map_cons, threads_], fun q hq => ?_⟩
        rcases List.mem_cons.1 hq with rfl | hq
        · exact h _ _ _ _ e
        · exact maps q hq
      · cases hp

/-! ### What the memory system may change -/

/-- Outside the memory system and what is in flight in it nothing changes, but that the issuing group's failed page requests have
been met; and the launch counts its cycles as before. -/
structure Effect (s t : State) : Prop where
  eq : t = { s with
    cur := { s.cur with denied := t.cur.denied }, cores := t.cores, dieTlb := t.dieTlb, home := t.home, homeLines := t.homeLines
    mem := t.mem, poison := t.poison, stks := t.stks, host := t.host, fabric := t.fabric, eng := t.eng, nextId := t.nextId
    launches := t.launches, free := t.free, teams := t.teams }
  counts : t.counts = s.counts

theorem Effect.refl (s : State) : Effect s s := ⟨rfl, rfl⟩

theorem Effect.trans {s t u : State} (h : Effect s t) (h' : Effect t u) : Effect s u := by
  refine ⟨?_, h'.counts.trans h.counts⟩
  conv_lhs => rw [h'.eq, h.eq]

/-- The later change first, where the earlier one has no name. -/
theorem Effect.after {s t u : State} (h' : Effect t u) (h : Effect s t) : Effect s u := h.trans h'

/-- The issuing group's name, launch, executing threads and slot. -/
theorem Effect.issuer {s t : State} (h : Effect s t) : t.cur.id = s.cur.id ∧ t.cur.launch = s.cur.launch ∧
    (∀ p, t.cur.omask p = s.cur.omask p) ∧ t.cur.slot = s.cur.slot := by
  rw [h.eq]
  exact ⟨rfl, rfl, fun _ => rfl, rfl⟩

theorem Translates.effect {s t : State} (h : Translates s t) : Effect s t := by
  constructor
  · rw [h.eq]
  · rw [h.eq]; rfl

theorem Moves.effect {s t : State} (h : Moves s t) : Effect s t := by
  constructor
  · rw [h.eq]
  · rw [h.eq]; rfl

/-! ### The end of an issue -/

/-- The split of the issuing group has the value `sp` after n cycles. -/
def State.issuedAt (s : State) (n : Nat) (sp : Split) : State :=
  { s.occupy n with cur := { s.cur with bgt := BitVec.ofNat 64 (s.cur.bgt.toNat - n), sp := sp } }

/-- What retires goes on to the next instruction (R166). -/
theorem State.retire_eq {s : State} {n len : Nat} {e : Mask} (fresh : s.cur.sp.charged = false)
    (step : s.cur.dbg.getLsbD 8 = false ∨ s.cur.hand.isSome = true)
    (funds : s.cur.hand.isSome = true → s.counts = true → n < s.cur.bgt.toNat) :
    s.retire n len e = s.issuedAt n (s.cur.sp.after s.cur.sp.fmt len (s.clock.cycle + n)) := by
  unfold State.retire
  simp only [fresh, Bool.false_eq_true, if_false]
  rw [State.charge_eq funds]
  unfold State.afterIssue
  rw [if_neg]
  · rfl
  · change ¬((s.cur.live && s.cur.hand.isNone && s.cur.dbg.getLsbD 8 && s.cur.spLive) = true)
    rcases step with h | h
    · rw [h]; simp
    · obtain ⟨y, hy⟩ := Option.isSome_iff_exists.mp h
      simp [hy]

/-- What waits for its operation is held at it, charged once (R356). -/
theorem State.hold_eq {s : State} {n id : Nat} (fresh : s.cur.sp.charged = false)
    (funds : s.cur.hand.isSome = true → s.counts = true → n < s.cur.bgt.toNat) :
    ((if s.cur.sp.charged then s else s.charge n).occupy n).hold id =
      s.issuedAt n { s.cur.sp with wait := .op id, charged := true } := by
  simp only [fresh, Bool.false_eq_true, if_false]
  rw [State.charge_eq funds]
  rfl

/-- The frame of a memory instruction whose checks all pass (R356): it performs its accesses, keeps its operation, and retires or
is held. -/
theorem State.memory_of_checked {s u : State} {p : Pred} {sh : Shape} {va : State → Nat → Word}
    {chk : State → Nat → Except (BitVec 8 × Word) Map × State} {perform : State → Nat → List Plan → Draft × State} {l : List Plan}
    (he : s.cur.exec p ≠ 0) (hc : sh.counter < 4) (hn : s.cur.counter sh.counter < 62)
    (hcov : s.covered sh (s.cur.exec p) = s.cur.exec p)
    (hplan : planAll chk va (sh.accessing (s.cur.exec p)) s = (l, [], u)) :
    let d := perform { u with cur := u.cur.undenied, nextId := u.nextId + 1 } u.nextId l
    let n := sh.cost (s.cur.exec p)
    let w := d.2.addOp u.nextId { d.2.opOf p sh.len sh.counter sh.path sh.kind d.1 (n + d.1.delay) [] with
      vas := l.map fun q => (q.thread, q.va) } d.1.misses
    s.memory p sh va chk perform =
      if d.1.holds then ((if w.cur.sp.charged then w else w.charge n).occupy n).hold u.nextId
      else w.retire n sh.len (s.cur.exec p) := by
  intro d n w
  have hfull : ¬(62 ≤ s.cur.counter sh.counter) := Nat.not_le.2 hn
  have hrest : threads (s.cur.exec p &&& ~~~(s.cur.exec p)) = [] := by
    have : s.cur.exec p &&& ~~~(s.cur.exec p) = 0 := by simp
    rw [this]; rfl
  unfold State.memory
  simp only [he, if_false, hfull, decide_false, Bool.and_false, Bool.false_eq_true, hcov, hplan, hrest, List.map_nil,
    List.append_nil, List.isEmpty_nil, if_true, hc, decide_true, Bool.true_or]
  rfl

/-! ### The issued instruction -/

/-- Neither bytes, local stores nor full/empty changes in flight differ, but in what the issue itself leaves. -/
structure SameBytes (s t : State) : Prop where
  mem : t.mem = s.mem
  home : t.home = s.home
  host : t.host = s.host
  teams : t.teams = s.teams
  fe : t.eng.fe = s.eng.fe
  cache : ∀ d c, (t.core d c).cache = (s.core d c).cache
  windows : SameStacks s t

theorem SameBytes.quiet {die core : Nat} {P : Nat → Prop} {s t : State} (h : SameBytes s t) : Quiet die core P s t :=
  .same h.mem h.home h.cache h.windows (by rw [h.host]) (by rw [h.host])

theorem Group.addCount_eq (g : Group) (c : Nat) : g.addCount c =
    { g with cntL := (g.addCount c).cntL, cntS := (g.addCount c).cntS, cntC := (g.addCount c).cntC,
             cntT := (g.addCount c).cntT } := by
  unfold Group.addCount
  split <;> rfl

theorem Group.counter_addCount (g : Group) {c i : Nat} (hc : c < 4) (hi : i < 4) :
    (g.addCount c).counter i = g.counter i + if i = c then 1 else 0 := by
  have hc' : c = 0 ∨ c = 1 ∨ c = 2 ∨ c = 3 := by omega
  have hi' : i = 0 ∨ i = 1 ∨ i = 2 ∨ i = 3 := by omega
  rcases hc' with rfl | rfl | rfl | rfl <;> rcases hi' with rfl | rfl | rfl | rfl <;> rfl

/-- The operation of an instruction is kept, its counter is one higher, and its requests are queued. -/
theorem State.addOp_asks (s : State) (id : Nat) (op : Op) (misses : List Sector) : Asks
    { s with eng := { s.eng with ops := Tab.set id op s.eng.ops }, cur := s.cur.addCount op.counter } (s.addOp id op misses) :=
  State.ask_asks _ _ _ _

/-- A memory instruction has issued: what its frame and its operation show (R185, R355). -/
theorem State.issuedAt_outstanding {s w : State} {x : Ord} {n : Nat} {op : Op} {misses : List Sector} {held : Bool}
    (h : Effect s w) (hc : op.counter < 4)
    (own : op.g = s.cur.id ∧ op.launch = s.cur.launch ∧ op.counter = op.counter ∧ op.faults = [] ∧ op.len = lenOf x ∧
      op.omask = s.cur.omask x.pred ∧ op.slot = s.cur.slot) :
    let v := w.addOp s.nextId op misses
    let t := v.issuedAt n (if held then { v.cur.sp with wait := .op s.nextId, charged := true }
      else v.cur.sp.after v.cur.sp.fmt (lenOf x) (v.clock.cycle + n))
    s.OnlyMemory t ∧ s.Outstanding t x n op.counter op held ∧ SameBytes w t := by
  intro v t
  obtain ⟨hv, windows⟩ := w.addOp_asks s.nextId op misses
  change v = _ at hv
  change SameStacks _ v at windows
  clear_value v
  generalize v.stks = k at hv
  subst hv
  let v : State := { w with
    eng := { w.eng with ops := Tab.set s.nextId op w.eng.ops }, cur := w.cur.addCount op.counter, stks := k }
  have hcur : v.cur = { s.cur with denied := w.cur.denied, cntL := (s.cur.addCount op.counter).cntL
                                   cntS := (s.cur.addCount op.counter).cntS, cntC := (s.cur.addCount op.counter).cntC
                                   cntT := (s.cur.addCount op.counter).cntT } := by
    show w.cur.addCount op.counter = _
    rw [h.eq, Group.addCount_eq]
    unfold Group.addCount
    split <;> rfl
  have hclock : v.clock = s.clock := by
    show w.clock = _
    rw [h.eq]
  have htcur : t.cur = { v.cur with bgt := BitVec.ofNat 64 (v.cur.bgt.toNat - n), sp := t.cur.sp } := rfl
  refine ⟨⟨?_, ?_⟩, ⟨?_, own, fun i hi => ?_, ?_, ?_⟩, ⟨rfl, rfl, rfl, rfl, rfl, v.setCore_cache (by rfl),
    (SameStacks.of_eq rfl).trans (windows.trans (.of_eq rfl))⟩⟩
  · change ({ w with cur := t.cur, cores := t.cores, eng := t.eng, stks := t.stks } : State) = _
    conv_lhs => rw [h.eq]
    rfl
  · rw [Group.OnlyIssue, htcur, hcur]
  · show Tab.get? s.nextId (Tab.set s.nextId op w.eng.ops) = some op
    simp
  · have : t.cur.counter i = (s.cur.addCount op.counter).counter i := by
      rw [htcur, hcur]
      rcases (by omega : i = 0 ∨ i = 1 ∨ i = 2 ∨ i = 3) with rfl | rfl | rfl | rfl <;> rfl
    rw [this, Group.counter_addCount _ hc hi]
  · show (if held then { v.cur.sp with wait := .op s.nextId, charged := true }
      else v.cur.sp.after v.cur.sp.fmt (lenOf x) (v.clock.cycle + n)) = _
    rw [hclock, hcur]
  · rw [htcur, hcur]
    exact bgt_charge _ _

/-! ### A memory instruction whose checks pass -/

/-- The state in which a memory instruction performs its accesses: the failed page requests of its split have been met, and its
operation has its identifier. -/
def State.opening (s : State) : State := { s with cur := s.cur.undenied, nextId := s.nextId + 1 }

theorem State.opening_effect (s : State) : Effect s s.opening := ⟨rfl, rfl⟩

theorem State.opening_same (s : State) : SameBytes s s.opening :=
  ⟨rfl, rfl, rfl, rfl, rfl, fun _ _ => rfl, .of_eq rfl⟩

theorem Translates.same {s t : State} (h : Translates s t) : SameBytes s t := by
  refine ⟨?_, ?_, ?_, ?_, ?_, h.cache, .of_eq ?_⟩ <;> rw [h.eq]

theorem SameBytes.trans {s t u : State} (h : SameBytes s t) (h' : SameBytes t u) : SameBytes s u :=
  ⟨h'.mem.trans h.mem, h'.home.trans h.home, h'.host.trans h.host, h'.teams.trans h.teams, h'.fe.trans h.fe,
    fun d c => (h'.cache d c).trans (h.cache d c), h.windows.trans h'.windows⟩

/-- A memory instruction whose checks pass issues with what its accesses leave. -/
theorem State.memory_outstanding {s u w : State} {x : Ord} {sh : Shape} {va : State → Nat → Word}
    {chk : State → Nat → Except (BitVec 8 × Word) Map × State} {perform : State → Nat → List Plan → Draft × State} {l : List Plan}
    {d : Draft} {n : Nat} {ops : List Opd} (issues : s.issues ops n = true) (he : s.cur.exec x.pred ≠ 0) (hc : sh.counter < 4)
    (hn : s.cur.counter sh.counter < 62) (hcov : s.covered sh (s.cur.exec x.pred) = s.cur.exec x.pred)
    (hlen : sh.len = lenOf x) (hcost : sh.cost (s.cur.exec x.pred) = n) (hu : Translates s u)
    (hplan : planAll chk va (sh.accessing (s.cur.exec x.pred)) s = (l, [], u)) (hw : Effect s w)
    (hd : perform u.opening u.nextId l = (d, w)) :
    ∃ t op, s.memory x.pred sh va chk perform = t ∧ s.OnlyMemory t ∧ s.Outstanding t x n sh.counter op d.holds ∧
      SameBytes w t ∧ op.kind = d.kind ∧ op.writes = d.writes := by
  have hid : u.nextId = s.nextId := by rw [hu.eq]
  have hrun := State.memory_of_checked (p := x.pred) (perform := perform) he hc hn hcov hplan
  have hd' : perform { u with cur := u.cur.undenied, nextId := u.nextId + 1 } u.nextId l = (d, w) := hd
  rw [hd', hcost, hid] at hrun
  dsimp only at hrun
  generalize hop : ({ w.opOf x.pred sh.len sh.counter sh.path sh.kind d (n + d.delay) [] with
      vas := l.map fun q => (q.thread, q.va) } : Op) = op at hrun
  have hcounter : op.counter = sh.counter := by rw [← hop]; rfl
  have own : op.g = s.cur.id ∧ op.launch = s.cur.launch ∧ op.counter = op.counter ∧ op.faults = [] ∧ op.len = lenOf x ∧
      op.omask = s.cur.omask x.pred ∧ op.slot = s.cur.slot := by
    obtain ⟨id_, launch, omask, slot⟩ := hw.issuer
    rw [← hop]
    exact ⟨id_, launch, rfl, rfl, hlen, omask x.pred, slot⟩
  obtain ⟨only, out, same⟩ := State.issuedAt_outstanding (n := n) (misses := d.misses) (held := d.holds) hw
    (hcounter ▸ hc) own
  obtain ⟨hv, -⟩ := w.addOp_asks s.nextId op d.misses
  generalize w.addOp s.nextId op d.misses = v at *
  rw [hcounter] at out
  have fields : v.cur.sp = s.cur.sp ∧ v.cur.dbg = s.cur.dbg ∧ v.cur.hand = s.cur.hand ∧ v.cur.bgt = s.cur.bgt ∧ v.counts = s.counts := by
    have hcur : v.cur = w.cur.addCount op.counter := by rw [hv]
    have hcounts : v.counts = w.counts := by
      rw [State.counts, State.counts, hcur, Group.addCount_eq, hv]
      rfl
    refine ⟨?_, ?_, ?_, ?_, hcounts.trans hw.counts⟩ <;> (rw [hcur, Group.addCount_eq, hw.eq])
  obtain ⟨hsp, hdbg, hhand, hbgt, hcounts⟩ := fields
  have fresh : v.cur.sp.charged = false := by rw [hsp]; exact State.issues_fresh issues
  have step : v.cur.dbg.getLsbD 8 = false ∨ v.cur.hand.isSome = true := by
    rw [hdbg, hhand]; exact State.issues_step issues
  have funds : v.cur.hand.isSome = true → v.counts = true → n < v.cur.bgt.toNat := by
    rw [hhand, hcounts, hbgt]
    exact fun h1 h2 => lt_of_le_of_lt (le_max_right 1 n) (State.funds_hand (State.issues_funds issues) h1 h2)
  refine ⟨_, op, hrun, ?_⟩
  cases hh : d.holds
  · rw [hh] at only out same
    rw [if_neg (by simp), State.retire_eq fresh step funds, hlen]
    exact ⟨only, out, same, by rw [← hop]; rfl, by rw [← hop]; rfl⟩
  · rw [hh] at only out same
    rw [if_pos rfl, State.hold_eq fresh funds]
    exact ⟨only, out, same, by rw [← hop]; rfl, by rw [← hop]; rfl⟩

end Sys2Proof.Machine
end

section
/-!
SUPPORT. Full/empty atoms (R57-R60, R361): what `ldfe`, `stfe` and `clrfe` send, and the bytes that `stfe` writes.
-/

namespace Sys2Proof.Machine

open Sys2Proof

/-! ### Which threads issue -/

theorem State.covered_perThread {s : State} {sh : Shape} {ops : List Opd} {e : Mask} (hu : sh.uniform = false) (he : e ≠ 0)
    (h : s.issues ops (max 1 (count e)) = true) : s.covered sh e = e := by
  have hcount : max 1 (count e) = count e := max_eq_right (count_pos he)
  rw [hcount] at h
  simp [State.covered, State.issues_fresh h, hu, State.affordable_of (State.issues_funds h)]

theorem State.covered_uniform {s : State} {sh : Shape} {ops : List Opd} {n : Nat} {e : Mask} (hu : sh.uniform = true)
    (he : e ≠ 0) (hn : 0 < n) (h : s.issues ops n = true) : s.covered sh e = e := by
  rw [State.covered, State.issues_fresh h, if_neg (by simp), hu, if_pos rfl,
    if_neg (State.affordable_some (State.issues_funds h) hn he)]

theorem threads_take_one {e : Mask} (h : e ≠ 0) : (threads e).take 1 = [lowest e] := by
  unfold lowest
  cases hl : threads e with
  | nil => exact absurd (count_pos h) (by simp [count, hl])
  | cons t l => rfl

/-- The threads of a mask in ascending order. -/
theorem threads_sorted (e : Mask) : (threads e).Pairwise (· < ·) :=
  List.Pairwise.filter _ List.pairwise_lt_range

/-! ### The window check (R361) -/

theorem State.checkWindow_translates (s : State) (va : Word) (n : Nat) (write : Bool) :
    Translates s (s.checkWindow va n write).2 :=
  s.checkPlace_translates va n write false _

/-- What passes the check of a window lies in device memory. -/
theorem State.checkWindow_local {s u : State} {va : Word} {n : Nat} {write : Bool} {m : Map}
    (h : s.checkWindow va n write = (.ok m, u)) : m.space < 3 := by
  unfold State.checkWindow State.checkPlace at h
  split at h
  · cases h
  · next m' v _ =>
    split at h
    · cases h
    · next hw =>
      have hm : m' = m := by
        split at h
        · cases h
        · split at h <;> cases h
          rfl
      subst hm
      unfold State.windowOf at hw
      dsimp only at hw
      split at hw
      · next hl =>
        simp only [Map.isLocal, Bool.and_eq_true, decide_eq_true_eq] at hl
        exact hl.1
      · simp at hw

theorem State.windowPlans_translates {s u : State} {x : Ord} {n : Nat} {write : Bool} {ts : List Nat} {l : List Plan}
    {fs : List Faulter} (h : s.windowPlans x n write ts = (l, fs, u)) : Translates s u := by
  have := planAll_translates (va := addrOf x) (fun s t => s.checkWindow_translates (addrOf x s t) n write) ts s
  rw [State.windowPlans] at h
  rw [h] at this
  exact this

theorem State.windowPlans_plans {s u : State} {x : Ord} {n : Nat} {write : Bool} {ts : List Nat} {l : List Plan}
    (h : s.windowPlans x n write ts = (l, [], u)) : l.map Plan.thread = ts ∧ ∀ q ∈ l, q.map.space < 3 :=
  planAll_plans (va := addrOf x) (fun _ _ _ _ e => State.checkWindow_local e) h

/-! ### ldfe -/

/-- The request of one thread's `ldfe` (R59). -/
def State.feWait (s : State) (x : Ord) (q : Plan) : FeWait :=
  { thread := q.thread, addr := q.map.phys q.va.toNat, va := q.va, map := q.map
    arrived := s.clock.cycle + if homeDie (q.map.phys q.va.toNat) == s.cur.id.die then 480 else 600
    size := sizeOf x.et, sgn := x.et.isSigned, reg := x.d.code, seen := false }

/-- `ldfe` performs nothing yet: it keeps a request of each thread. -/
theorem ldfeAll_eq (x : Ord) (s : State) (l : List Plan) : ∃ d, ldfeAll x s l = (d, s) ∧ d.writes = [] ∧ d.tags = [] ∧
    d.kind = .ldfe (l.map (s.feWait x)) := by
  suffices h : ∀ (l : List Plan) (d : Draft) (ws : List FeWait), d.writes = [] → d.tags = [] → d.kind = .ldfe ws →
      ∃ d', l.foldl (fun d q => let r := d.2.ldfeOne x q; (d.1.join r.1, r.2)) (d, s) = (d', s) ∧ d'.writes = [] ∧
        d'.tags = [] ∧ d'.kind = .ldfe (ws ++ l.map (s.feWait x)) by
    exact h l _ [] rfl rfl rfl
  intro l
  induction l with
  | nil => exact fun d ws hw ht hk => ⟨d, rfl, hw, ht, by simpa using hk⟩
  | cons q l ih =>
    intro d ws hw ht hk
    obtain ⟨d', e, hw', ht', hk'⟩ := ih (d.join (s.ldfeOne x q).1) (ws ++ [s.feWait x q])
      (by simp [Draft.join, State.ldfeOne, hw]) (by simp [Draft.join, State.ldfeOne, ht])
      (by simp [Draft.join, State.ldfeOne, hk, joinKind, State.feWait])
    exact ⟨d', e, hw', ht', by simpa using hk'⟩

theorem ldfe_sends {s u : State} {x : Ord} {l : List Plan} (he : s.cur.exec x.pred ≠ 0)
    (issues : s.issues (x.d :: srcAB x) (s.cost x (srcAB x)) = true)
    (uniform : x.d.isG = true → s.uniformIn x.pred (srcAB x) = true) (room : s.cur.cntL < 62)
    (plans : s.windowPlans x (x.et.width / 8) false (s.accessors x x.d.isG) = (l, [], u)) :
    ∃ t op waits, exec (.ldfe x) s = .next t ∧ s.OnlyMemory t ∧ s.BytesBut t (fun _ => False) ∧ t.mem = s.mem ∧
      t.home = s.home ∧ t.teams = s.teams ∧ t.eng.fe = s.eng.fe ∧
      s.Outstanding t x (s.cost x (srcAB x)) 0 op true ∧ op.kind = .ldfe waits ∧ op.writes = [] ∧
      waits.map (fun w => (w.thread, w.addr, w.va, w.size, w.reg, w.seen)) =
        l.map fun q => (q.thread, q.map.phys q.va.toNat, q.va, x.et.width / 8, x.d.code, false) := by
  have hu := State.windowPlans_translates plans
  obtain ⟨d, hd, hwrites, htags, hkind⟩ := ldfeAll_eq x u.opening l
  have holds : d.holds = true := by simp [Draft.holds, htags, hkind]
  have hcost : (shapeOf x x.d.isG (srcAB x) 0 false).cost (s.cur.exec x.pred) = s.cost x (srcAB x) := by
    cases hg : x.d.isG <;> cases ha : anyV (srcAB x) <;>
      simp [Shape.cost, shapeOf, State.cost, Group.uniformCost, hg, ha]
  have hacc : (shapeOf x x.d.isG (srcAB x) 0 false).accessing (s.cur.exec x.pred) = s.accessors x x.d.isG := by
    cases hg : x.d.isG
    · simp [Shape.accessing, shapeOf, State.accessors]
    · simp [Shape.accessing, shapeOf, State.accessors, threads_take_one he]
  have hcov : s.covered (shapeOf x x.d.isG (srcAB x) 0 false) (s.cur.exec x.pred) = s.cur.exec x.pred := by
    cases hg : x.d.isG
    · refine State.covered_perThread (ops := x.d :: srcAB x) rfl he ?_
      simpa [State.cost, hg] using issues
    · refine State.covered_uniform rfl he ?_ issues
      unfold State.cost
      split <;> omega
  obtain ⟨t, op, ht, only, out, same, kind, writes⟩ := State.memory_outstanding (x := x)
    (sh := shapeOf x x.d.isG (srcAB x) 0 false) (va := addrOf x)
    (chk := fun s t => s.checkWindow (addrOf x s t) (sizeOf x.et) false) (perform := fun s _ l => ldfeAll x s l)
    issues he (show 0 < 4 by decide) room hcov rfl hcost hu (by rw [hacc]; exact plans)
    (hu.effect.trans u.opening_effect) hd
  have all := (hu.same.trans u.opening_same).trans same
  have run : exec (.ldfe x) s = .next t := by
    show Host.Outcome.next (s.named x.pred (x.d :: srcAB x) _) = _
    rw [State.named_of (State.issues_named issues), State.checkedIf]
    split
    · next hg => rw [State.checked_of (uniform hg), ht]
    · rw [ht]
  refine ⟨t, op, _, run, only, all.quiet.bytesBut, all.mem, all.home, all.teams, all.fe, holds ▸ out, kind.trans hkind,
    writes.trans hwrites, ?_⟩
  rw [List.map_map]
  rfl

/-! ### Changes that set out (R58) -/

/-- One change of the atom of each plan has set out from the issuing lane. -/
def State.Sent (s t : State) (fills : Bool) (l : List Plan) : Prop :=
  ∃ rs, t.eng.fe = s.eng.fe ++ rs ∧ rs.map (fun r => (r.atoms, r.fills, r.die, r.core, r.lane)) =
    l.map fun q => ([atomOf (q.map.phys q.va.toNat)], fills, s.cur.id.die, s.cur.id.core, s.cur.id.lane)

theorem State.Sent.cons {s t u : State} {fills : Bool} {q : Plan} {l : List Plan} (h : s.Sent t fills [q])
    (cur : t.cur.id = s.cur.id) (h' : t.Sent u fills l) : s.Sent u fills (q :: l) := by
  obtain ⟨rs, e, m⟩ := h
  obtain ⟨rs', e', m'⟩ := h'
  refine ⟨rs ++ rs', by rw [e', e, List.append_assoc], ?_⟩
  rw [List.map_append, m, m', cur]
  rfl

theorem State.Sent.nil (s : State) (fills : Bool) : s.Sent s fills [] := ⟨[], (List.append_nil _).symm, rfl⟩

/-- The changes of an instruction's accesses are those of the instruction: before them and after it nothing sets out. -/
theorem State.Sent.issued {s v w t : State} {fills : Bool} {l : List Plan} (h : v.Sent w fills l) (hv : SameBytes s v)
    (hcur : v.cur.id = s.cur.id) (ht : SameBytes w t) : s.Sent t fills l := by
  obtain ⟨rs, e, m⟩ := h
  exact ⟨rs, by rw [ht.fe, e, hv.fe], by rw [m, hcur]⟩

theorem State.queueFe_fe (s : State) (r : FeReq) : (s.queueFe r).eng.fe = s.eng.fe ++ [{ r with order := s.nextId }] := rfl

theorem State.queueFe_effect (s : State) (r : FeReq) : Effect s (s.queueFe r) := ⟨rfl, rfl⟩

theorem State.queueFe_quiet {die core : Nat} {P : Nat → Prop} (s : State) (r : FeReq) : Quiet die core P s (s.queueFe r) :=
  .same rfl rfl (fun _ _ => rfl) (.of_eq rfl) rfl rfl

/-! ### clrfe -/

/-- What `clrfe` leaves: every byte and every local store; its changes have set out. -/
theorem clrfes_spec {die core : Nat} {P : Nat → Prop} (l : List Plan) (s : State) :
    let t := l.foldl State.clrfeOne s
    s.Sent t false l ∧ Effect s t ∧ Quiet die core P s t ∧ t.mem = s.mem ∧ t.home = s.home ∧ t.teams = s.teams := by
  induction l generalizing s with
  | nil => exact ⟨.nil s false, .refl s, .refl s, rfl, rfl, rfl⟩
  | cons q l ih =>
    obtain ⟨sent, effect, quiet, mem, home, teams⟩ := ih (s.clrfeOne q)
    have one : s.Sent (s.clrfeOne q) false [q] := ⟨_, rfl, rfl⟩
    exact ⟨one.cons rfl sent, effect.after (s.queueFe_effect _), quiet.after (s.queueFe_quiet _), mem, home, teams⟩

theorem clrfe_sends {s u : State} {x : Ord} {l : List Plan} (he : s.cur.exec x.pred ≠ 0)
    (issues : s.issues (srcAB x) (max 1 (count (s.cur.exec x.pred))) = true) (room : s.cur.cntS < 62)
    (plans : s.windowPlans x 1 true (threads (s.cur.exec x.pred)) = (l, [], u)) :
    ∃ t op, exec (.clrfe x) s = .next t ∧ s.OnlyMemory t ∧ s.BytesBut t (fun _ => False) ∧ t.mem = s.mem ∧
      t.home = s.home ∧ t.teams = s.teams ∧ s.Outstanding t x (max 1 (count (s.cur.exec x.pred))) 1 op false ∧
      s.Sent t false l := by
  have hu := State.windowPlans_translates plans
  have before := hu.same.trans u.opening_same
  obtain ⟨sent, effect, quiet, mem, home, teams⟩ :=
    clrfes_spec (die := s.cur.id.die) (core := s.cur.id.core) (P := fun _ => False) l u.opening
  obtain ⟨t, op, ht, only, out, same, -, -⟩ := State.memory_outstanding (x := x)
    (sh := shapeOf x false [] 1 true) (va := addrOf x) (chk := fun s t => s.checkWindow (addrOf x s t) 1 true)
    (perform := fun s _ l => ({ Draft.none with kind := .store, delay := 199, misses := sectorsOf 1 l },
        l.foldl State.clrfeOne s))
    issues he (show 1 < 4 by decide) room (State.covered_perThread rfl he issues) rfl rfl hu plans
    ((hu.effect.trans u.opening_effect).trans effect) rfl
  have run : exec (.clrfe x) s = .next t := by
    show Host.Outcome.next (s.named x.pred (srcAB x) _) = _
    rw [State.named_of (State.issues_named issues), ht]
  have hcur : u.opening.cur.id = s.cur.id := by
    show u.cur.id = _
    rw [hu.eq]
  exact ⟨t, op, run, only, ((before.quiet.trans quiet).trans same.quiet).bytesBut, same.mem.trans (mem.trans before.mem),
    same.home.trans (home.trans before.home), same.teams.trans (teams.trans before.teams), out, sent.issued before hcur same⟩

/-! ### The bytes of a store past the caches (R226, R238) -/

section
variable {die core : Nat} {P : Nat → Prop}

/-- What the core sees of a byte of a view (R224). -/
def State.seen (s : State) (die core space p : Nat) : Byte :=
  match Tab.get? (byteKey space p) (s.core die core).cache with
  | some c => c.val
  | none => s.homeByte space p

theorem State.coreByte_eq_seen {s : State} {m : Map} (h : m.space < 3) (va : Nat) :
    s.coreByte die core m va = s.seen die core m.space (m.phys va) := by
  unfold State.coreByte State.seen
  exact if_neg (by omega)

theorem SameBytes.seen {s t : State} (h : SameBytes s t) (space p : Nat) :
    t.seen die core space p = s.seen die core space p := by
  simp only [State.seen, State.homeByte, h.mem, h.home, h.cache]

theorem State.setHomeBypass_wf {s : State} (space p : Nat) (b : Byte) (h : s.mem.wf = true) :
    (s.setHomeBypass space p b).mem.wf = true := by
  unfold State.setHomeBypass
  split
  · exact h
  · exact State.dram_wf p b h

@[simp] theorem State.setHomeBypass_cores (s : State) (space p : Nat) (b : Byte) :
    (s.setHomeBypass space p b).cores = s.cores := by
  unfold State.setHomeBypass
  split
  · rfl
  · exact s.dram_cores p b

@[simp] theorem State.setHomeBypass_host (s : State) (space p : Nat) (b : Byte) :
    (s.setHomeBypass space p b).host = s.host := by
  unfold State.setHomeBypass
  split
  · rfl
  · exact s.dram_host p b

/-- A write past the die buffer changes no other byte. -/
theorem State.setHomeBypass_home {s : State} {space p : Nat} (b : Byte) (hp : p < 2 ^ 48) {x a : Nat} (ha : a < 2 ^ 48)
    (h : a ≠ p) : Tab.get? (byteKey x a) (s.setHomeBypass space p b).home = Tab.get? (byteKey x a) s.home := by
  unfold State.setHomeBypass
  split
  · rw [State.setHome_home, Tab.get?_set, if_neg fun e => h (byteKey_inj ha hp e).2]
  · rw [State.dram_home]

theorem State.setHomeBypass_mem {s : State} {space p a : Nat} (b : Byte) (hw : s.mem.wf = true) (h : a ≠ p) :
    (s.setHomeBypass space p b).mem.byte a = s.mem.byte a := by
  unfold State.setHomeBypass
  split
  · rfl
  · rw [State.dram_byte _ _ _ hw, if_neg fun e => h e.1]

/-- A byte written past the die buffer stands at its home, but in a bank that takes no writes. -/
theorem State.setHomeBypass_homeByte {s : State} {space p : Nat} (b : Byte) (hw : s.mem.wf = true) (hf : s.fenced p = false) :
    (s.setHomeBypass space p b).homeByte space p = b := by
  unfold State.setHomeBypass
  split
  · simp [State.homeByte]
  · next h => simp only [State.homeByte, State.dram_home, h, State.dram_byte _ _ _ hw, hf, and_self, if_true]

theorem State.coreUpdate_cache (s : State) (space p : Nat) (b : Byte) (d c k : Nat) :
    Tab.get? k ((s.coreUpdate die core space p b).core d c).cache =
      if coreKey d c = coreKey die core ∧ k = byteKey space p then (Tab.get? k (s.core d c).cache).map fun _ => ⟨b, false⟩
      else Tab.get? k (s.core d c).cache := by
  show Tab.get? k ((s.setCore die core _).core d c).cache = _
  rw [State.core_setCore_eq]
  by_cases h : coreKey d c = coreKey die core
  · have : s.core d c = s.core die core := by rw [State.core, h]; rfl
    rw [if_pos h, Tab.get?_update, this]
    by_cases hk : k = byteKey space p <;> simp [h, hk]
  · simp [h]

theorem State.storeByte_bypass {s : State} {m : Map} (h : m.space < 3) (va : Nat) (b : Byte) :
    s.storeByte die core m va b 2 =
      (s.setHomeBypass m.space (m.phys va) b).coreUpdate die core m.space (m.phys va) b := by
  unfold State.storeByte
  dsimp only
  rw [if_neg (by omega), if_neg (by decide), if_neg (by decide)]

theorem Map.phys_lt (m : Map) (va : Nat) : m.phys va < 2 ^ 48 := Nat.mod_lt _ (by decide)

theorem State.storeByte_moves {s : State} {m : Map} (h : m.space < 3) (va : Nat) (b : Byte) :
    Moves s (s.storeByte die core m va b 2) := by
  rw [State.storeByte_bypass h]
  exact (State.setCore_moves _ _ _ _).after (s.setHomeBypass_moves _ _ b)

theorem State.storeByte_quiet {s : State} {m : Map} (h : m.space < 3) (va : Nat) (b : Byte) (hp : P (m.phys va)) :
    Quiet die core P s (s.storeByte die core m va b 2) := by
  have ne : ∀ {a}, ¬P a → a ≠ m.phys va := fun ha e => ha (e ▸ hp)
  have windows := (State.storeByte_moves (die := die) (core := core) h va b (s := s)).windows
  rw [State.storeByte_bypass h] at *
  have core_ : ∀ d c, (s.setHomeBypass m.space (m.phys va) b).core d c = s.core d c := fun d c => by
    rw [State.core, State.setHomeBypass_cores]; rfl
  have host : ((s.setHomeBypass m.space (m.phys va) b).coreUpdate die core m.space (m.phys va) b).host = s.host :=
    s.setHomeBypass_host _ _ b
  refine ⟨State.setHomeBypass_wf _ _ b, windows, fun hw a ha => State.setHomeBypass_mem b hw (ne ha),
    fun x a ha hpa => State.setHomeBypass_home b (m.phys_lt va) ha (ne hpa), fun d c x a ha hpa => ?_, fun d c hk => ?_,
    by rw [host], by rw [host]⟩
  · rw [State.coreUpdate_cache, if_neg fun e => ne hpa (byteKey_inj ha (m.phys_lt va) e.2).2, core_]
  · rw [State.coreUpdate, State.core_setCore_eq, if_neg hk, core_]

/-- The core sees the byte that it has stored. -/
theorem State.storeByte_seen {s : State} {m : Map} (h : m.space < 3) (va : Nat) (b : Byte) (hw : s.mem.wf = true)
    (hf : s.fenced (m.phys va) = false) : (s.storeByte die core m va b 2).seen die core m.space (m.phys va) = b := by
  rw [State.storeByte_bypass h, State.seen, State.coreUpdate_cache, if_pos ⟨rfl, rfl⟩]
  cases Tab.get? (byteKey m.space (m.phys va)) ((s.setHomeBypass m.space (m.phys va) b).core die core).cache with
  | some c => rfl
  | none => exact State.setHomeBypass_homeByte b hw hf

/-- A store leaves what the core sees of every other byte. -/
theorem State.storeByte_seen_other {s : State} {m : Map} (h : m.space < 3) (va : Nat) (b : Byte) (hw : s.mem.wf = true)
    {x a : Nat} (ha : a < 2 ^ 48) (hne : a ≠ m.phys va) :
    (s.storeByte die core m va b 2).seen die core x a = s.seen die core x a := by
  have hk : ¬byteKey x a = byteKey m.space (m.phys va) := fun e => hne (byteKey_inj ha (m.phys_lt va) e).2
  have core_ : (s.setHomeBypass m.space (m.phys va) b).core die core = s.core die core := by
    rw [State.core, State.setHomeBypass_cores]; rfl
  have homeByte : (s.setHomeBypass m.space (m.phys va) b).homeByte x a = s.homeByte x a := by
    simp only [State.homeByte, State.setHomeBypass_home b (m.phys_lt va) ha hne, State.setHomeBypass_mem b hw hne]
  rw [State.storeByte_bypass h, State.seen, State.coreUpdate_cache, if_neg fun e => hk e.2, core_]
  cases hc : Tab.get? (byteKey x a) (s.core die core).cache with
  | some c => simp only [State.seen, hc]
  | none => simp only [State.seen, hc]; exact homeByte

theorem State.storeByte_wf {s : State} {m : Map} (h : m.space < 3) (va : Nat) (b : Byte) (hw : s.mem.wf = true) :
    (s.storeByte die core m va b 2).mem.wf = true := by
  rw [State.storeByte_bypass h]
  exact State.setHomeBypass_wf _ _ b hw

/-- Bytes stored past the caches bring no line anywhere (R226). -/
theorem State.storeBytes_bypass (s : State) (m : Map) (va : Nat) (bs : List Byte) : s.storeBytes die core m va bs 2 =
    bs.zipIdx.foldl (fun s e => s.storeByte die core m (va + e.2) e.1 2) s := by
  unfold State.storeBytes State.useLines
  split
  · rfl
  · rfl

theorem State.storeBytes_moves {s : State} {m : Map} (h : m.space < 3) (va : Nat) (bs : List Byte) :
    Moves s (s.storeBytes die core m va bs 2) := by
  rw [State.storeBytes_bypass]
  exact .foldl (fun s e => State.storeByte_moves h _ _) _ s

theorem State.storeBytes_quiet {s : State} {m : Map} (h : m.space < 3) {va : Nat} {bs : List Byte}
    (hp : ∀ i, i < bs.length → P (m.phys (va + i))) : Quiet die core P s (s.storeBytes die core m va bs 2) := by
  rw [State.storeBytes_bypass]
  suffices h : ∀ (l : List (Byte × Nat)) (s : State), (∀ e ∈ l, e.2 < bs.length) →
      Quiet die core P s (l.foldl (fun s e => s.storeByte die core m (va + e.2) e.1 2) s) from
    h _ s fun e he => by simpa using (List.mem_zipIdx he).2.1
  intro l
  induction l with
  | nil => exact fun s _ => .refl s
  | cons e l ih =>
    exact fun s hl => (State.storeByte_quiet h _ _ (hp _ (hl e List.mem_cons_self))).trans
      (ih _ fun e he => hl e (List.mem_cons_of_mem _ he))

/-- A store leaves what the core sees of the bytes that it does not name. -/
theorem State.storeBytes_seen_other {s : State} {m : Map} (h : m.space < 3) {va : Nat} {bs : List Byte} (hw : s.mem.wf = true)
    {x p : Nat} (hp : p < 2 ^ 48) (hne : ∀ i, i < bs.length → m.phys (va + i) ≠ p) :
    (s.storeBytes die core m va bs 2).seen die core x p = s.seen die core x p := by
  rw [State.storeBytes_bypass]
  suffices h : ∀ (l : List (Byte × Nat)) (s : State), s.mem.wf = true → (∀ e ∈ l, e.2 < bs.length) →
      (l.foldl (fun s e => s.storeByte die core m (va + e.2) e.1 2) s).seen die core x p = s.seen die core x p from
    h _ s hw fun e he => by simpa using (List.mem_zipIdx he).2.1
  intro l
  induction l with
  | nil => exact fun _ _ _ => rfl
  | cons e l ih =>
    exact fun s hw hl => (ih _ (State.storeByte_wf h _ _ hw) fun e he => hl e (List.mem_cons_of_mem _ he)).trans
      (State.storeByte_seen_other h _ _ hw hp (hne _ (hl e List.mem_cons_self)).symm)

/-- The core sees the bytes that it has stored. -/
theorem State.storeBytes_seen {s : State} {m : Map} (h : m.space < 3) {va : Nat} {bs : List Byte} (hw : s.mem.wf = true)
    {i : Nat} (hi : i < bs.length) (hf : s.fenced (m.phys (va + i)) = false)
    (alone : ∀ k, k < bs.length → k ≠ i → m.phys (va + k) ≠ m.phys (va + i)) :
    (s.storeBytes die core m va bs 2).seen die core m.space (m.phys (va + i)) = bs[i] := by
  rw [State.storeBytes_bypass]
  rcases foldl_last (get := fun s : State => s.seen die core m.space (m.phys (va + i))) (val := Prod.fst)
    (inv := fun s => s.mem.wf = true ∧ s.fenced (m.phys (va + i)) = false)
    (hit := fun e : Byte × Nat => m.phys (va + e.2) = m.phys (va + i))
    (fun s e inv => ⟨State.storeByte_wf h _ _ inv.1, ((State.storeByte_moves h _ _).windows.fenced _).trans inv.2⟩)
    (fun s e inv hne => State.storeByte_seen_other h _ _ inv.1 (m.phys_lt _) (Ne.symm hne))
    (fun s e inv he => by
      have := State.storeByte_seen (die := die) (core := core) h (va + e.2) e.1 inv.1 (by rw [he]; exact inv.2)
      rwa [he] at this) bs.zipIdx ⟨hw, hf⟩ with ⟨none, -⟩ | ⟨e, he, hit, seen⟩
  · exact absurd rfl (none (bs[i], i) (by simp [List.mem_zipIdx_iff_getElem?, hi]))
  · have hlt : e.2 < bs.length := by simpa using (List.mem_zipIdx he).2.1
    obtain ⟨b, k⟩ := e
    obtain rfl : k = i := by
      by_contra hne
      exact alone k hlt hne hit
    have : bs[k]? = some b := by simpa [List.mem_zipIdx_iff_getElem?] using he
    rw [seen, ← Option.some_inj, ← this]
    exact List.getElem?_eq_getElem hi

end

/-! ### stfe -/

section
variable {die core : Nat} {P : Nat → Prop} {x : Ord}

theorem State.clearPoison_same (s : State) (l : List Nat) : SameBytes s (s.clearPoison l) := by
  unfold State.clearPoison
  split <;> exact ⟨rfl, rfl, rfl, rfl, rfl, fun _ _ => rfl, .of_eq rfl⟩

theorem State.clearPoison_effect (s : State) (l : List Nat) : Effect s (s.clearPoison l) := by
  unfold State.clearPoison
  split
  · exact .refl s
  · exact ⟨rfl, rfl⟩

/-- The bytes that a thread's `stfe` stores. -/
def State.stored (s : State) (x : Ord) (q : Plan) : State :=
  s.storeBytes s.cur.id.die s.cur.id.core q.map q.va.toNat (bytesOf x s q.thread) 2

theorem State.bytesOf_length (s : State) (x : Ord) (t : Nat) : (bytesOf x s t).length = sizeOf x.et := leBytes_length _ _

/-- After its bytes, a thread's `stfe` clears the poison of the atoms that it covers, and its change sets out. -/
theorem State.stfeOne_eq (s : State) (x : Ord) (q : Plan) : ∃ r, s.stfeOne x q =
    ((s.stored x q).clearPoison (written (sizeOf x.et) [q])).queueFe r ∧ r.atoms = [atomOf (q.map.phys q.va.toNat)] ∧
      r.fills = true ∧ r.die = s.cur.id.die ∧ r.core = s.cur.id.core ∧ r.lane = s.cur.id.lane :=
  ⟨_, rfl, rfl, rfl, rfl, rfl, rfl⟩

theorem State.stfeOne_seen (s : State) (x : Ord) (q : Plan) (space p : Nat) :
    (s.stfeOne x q).seen die core space p = (s.stored x q).seen die core space p :=
  ((s.stored x q).clearPoison_same (written (sizeOf x.et) [q])).seen space p

theorem State.stfeOne_spec {s : State} {q : Plan} (h : q.map.space < 3)
    (hp : ∀ i, i < sizeOf x.et → P (q.map.phys (q.va.toNat + i))) (hd : die = s.cur.id.die) (hc : core = s.cur.id.core) :
    s.Sent (s.stfeOne x q) true [q] ∧ Effect s (s.stfeOne x q) ∧ Quiet die core P s (s.stfeOne x q) ∧
      (s.stfeOne x q).teams = s.teams ∧ (s.stfeOne x q).cur = s.cur := by
  subst hd hc
  have moves : Moves s (s.stored x q) := State.storeBytes_moves h _ _
  have poison := (s.stored x q).clearPoison_same (written (sizeOf x.et) [q])
  have effect := (s.stored x q).clearPoison_effect (written (sizeOf x.et) [q])
  have quiet : Quiet s.cur.id.die s.cur.id.core P s (s.stored x q) :=
    State.storeBytes_quiet h fun i hi => hp i (by rwa [s.bytesOf_length] at hi)
  have hcur : ((s.stored x q).clearPoison (written (sizeOf x.et) [q])).cur = s.cur := by
    unfold State.clearPoison
    split
    · rw [moves.eq]
    · rw [moves.eq]
  obtain ⟨r, e, atoms, fills, hdie, hcore, hlane⟩ := s.stfeOne_eq x q
  rw [e]
  refine ⟨⟨[{ r with order := ((s.stored x q).clearPoison (written (sizeOf x.et) [q])).nextId }], ?_, ?_⟩, ?_, ?_, ?_, hcur⟩
  · have eng : (s.stored x q).eng = s.eng := by rw [moves.eq]
    rw [State.queueFe_fe, poison.fe, eng]
  · simp [atoms, fills, hdie, hcore, hlane]
  · exact .after (State.queueFe_effect _ r) (moves.effect.trans effect)
  · exact .after (State.queueFe_quiet _ r) (quiet.trans poison.quiet)
  · show ((s.stored x q).clearPoison _).teams = _
    rw [poison.teams, moves.eq]

/-- What the threads of an `stfe` leave. -/
theorem stfes_spec (l : List Plan) (s : State) (h : ∀ q ∈ l, q.map.space < 3) (hd : die = s.cur.id.die)
    (hc : core = s.cur.id.core) (hp : ∀ q ∈ l, ∀ i, i < sizeOf x.et → P (q.map.phys (q.va.toNat + i))) :
    let t := l.foldl (State.stfeOne x) s
    s.Sent t true l ∧ Effect s t ∧ Quiet die core P s t ∧ t.teams = s.teams ∧ t.cur = s.cur := by
  induction l generalizing s with
  | nil => exact ⟨.nil s true, .refl s, .refl s, rfl, rfl⟩
  | cons q l ih =>
    obtain ⟨sent, effect, quiet, teams, cur⟩ :=
      State.stfeOne_spec (x := x) (h q List.mem_cons_self) (hp q List.mem_cons_self) hd hc
    obtain ⟨sent', effect', quiet', teams', cur'⟩ := ih (s.stfeOne x q) (fun q hq => h q (List.mem_cons_of_mem _ hq))
      (by rw [cur]; exact hd) (by rw [cur]; exact hc) fun q hq => hp q (List.mem_cons_of_mem _ hq)
    exact ⟨sent.cons (by rw [cur]) sent', effect.trans effect', quiet.trans quiet', teams'.trans teams, cur'.trans cur⟩

/-- Threads that do not touch a byte leave what the core sees of it. -/
theorem stfes_seen_other (l : List Plan) (s : State) (h : ∀ q ∈ l, q.map.space < 3) (hd : die = s.cur.id.die)
    (hc : core = s.cur.id.core) (hw : s.mem.wf = true) {space p : Nat} (hp : p < 2 ^ 48) (hne : ¬touches (sizeOf x.et) l p) :
    (l.foldl (State.stfeOne x) s).seen die core space p = s.seen die core space p := by
  induction l generalizing s with
  | nil => rfl
  | cons q l ih =>
    obtain ⟨-, -, quiet, -, cur⟩ := State.stfeOne_spec (x := x) (P := fun _ => True) (h q List.mem_cons_self)
      (fun _ _ => trivial) hd hc
    rw [List.foldl_cons, ih (s.stfeOne x q) (fun q hq => h q (List.mem_cons_of_mem _ hq)) (by rw [cur]; exact hd)
      (by rw [cur]; exact hc) (quiet.wf hw) (fun ⟨r, hr, k⟩ => hne ⟨r, List.mem_cons_of_mem _ hr, k⟩), State.stfeOne_seen]
    subst hd hc
    exact State.storeBytes_seen_other (h q List.mem_cons_self) hw hp fun i hi e =>
      hne ⟨q, List.mem_cons_self, i, by rwa [s.bytesOf_length] at hi, e.symm⟩

theorem leBytes_getElem (n v i : Nat) (h : i < (leBytes n v).length) : (leBytes n v)[i] = BitVec.ofNat 8 (v / 2 ^ (8 * i)) := by
  induction n generalizing v i with
  | zero => simp [leBytes] at h
  | succ n ih =>
    cases i with
    | zero => simp [leBytes]
    | succ i =>
      simp only [leBytes, List.getElem_cons_succ, ih]
      rw [Nat.div_div_eq_div_mul, show (256 : Nat) = 2 ^ 8 from rfl, ← pow_add, show 8 + 8 * i = 8 * (i + 1) by ring]

/-- The last thread that writes a byte is the one whose byte the core sees (R238). -/
theorem stfes_seen {l : List Plan} {s : State} (h : ∀ q ∈ l, q.map.space < 3) (sorted : (l.map Plan.thread).Pairwise (· < ·))
    (hd : die = s.cur.id.die) (hc : core = s.cur.id.core) (hw : s.mem.wf = true) {q : Plan} (hq : q ∈ l) {i : Nat}
    (hi : i < sizeOf x.et) (hf : s.fenced (q.map.phys (q.va.toNat + i)) = false) (last : lastWriter (sizeOf x.et) l q i) :
    (l.foldl (State.stfeOne x) s).seen die core q.map.space (q.map.phys (q.va.toNat + i)) =
      BitVec.ofNat 8 ((s.cur.opd x.c q.thread).toNat / 2 ^ (8 * i)) := by
  obtain ⟨before, after, rfl⟩ := List.append_of_mem hq
  obtain ⟨-, -, quiet, -, cur⟩ := stfes_spec (x := x) (P := fun _ => True) before s
    (fun r hr => h r (List.mem_append_left _ hr)) hd hc fun _ _ _ _ => trivial
  obtain ⟨-, -, quiet', -, cur'⟩ := State.stfeOne_spec (x := x) (P := fun _ => True) (die := die) (core := core)
    (s := before.foldl (State.stfeOne x) s) (h q hq) (fun _ _ => trivial) (by rw [cur]; exact hd) (by rw [cur]; exact hc)
  obtain ⟨latest, alone⟩ := last
  rw [List.foldl_append, List.foldl_cons, stfes_seen_other after _ (fun r hr => h r (List.mem_append_right _ (List.mem_cons_of_mem _ hr)))
    (by rw [cur', cur]; exact hd) (by rw [cur', cur]; exact hc) (quiet'.wf (quiet.wf hw)) (q.map.phys_lt _), State.stfeOne_seen]
  · have hlen := State.bytesOf_length (before.foldl (State.stfeOne x) s) x q.thread
    have seen := State.storeBytes_seen (die := die) (core := core) (h q hq) (va := q.va.toNat)
      (bs := bytesOf x (before.foldl (State.stfeOne x) s) q.thread) (quiet.wf hw) (by rw [hlen]; exact hi)
      ((quiet.windows.fenced _).trans hf) (fun k hk => alone k (by rwa [hlen] at hk))
    have stored : (before.foldl (State.stfeOne x) s).stored x q = (before.foldl (State.stfeOne x) s).storeBytes die core q.map
        q.va.toNat (bytesOf x (before.foldl (State.stfeOne x) s) q.thread) 2 := by
      rw [State.stored, cur, hd, hc]
    rw [stored, seen, ← cur]
    exact leBytes_getElem _ _ _ _
  · rintro ⟨r, hr, k, hk, e⟩
    obtain ⟨-, hle⟩ := latest r (List.mem_append_right _ (List.mem_cons_of_mem _ hr)) ⟨r, List.mem_singleton_self r, k, hk, e⟩
    rw [List.map_append, List.map_cons, List.pairwise_append] at sorted
    obtain ⟨-, sorted, -⟩ := sorted
    have := List.rel_of_pairwise_cons sorted (List.mem_map_of_mem hr)
    omega

end

theorem stfe_sends {s u : State} {x : Ord} {l : List Plan} (he : s.cur.exec x.pred ≠ 0)
    (issues : s.issues (srcABC x) (max 1 (count (s.cur.exec x.pred))) = true) (room : s.cur.cntS < 62) (wf : s.memWf = true)
    (plans : s.windowPlans x (x.et.width / 8) true (threads (s.cur.exec x.pred)) = (l, [], u)) :
    ∃ t op, exec (.stfe x) s = .next t ∧ s.OnlyMemory t ∧ s.BytesBut t (touches (x.et.width / 8) l) ∧ t.teams = s.teams ∧
      s.Outstanding t x (max 1 (count (s.cur.exec x.pred))) 1 op false ∧ op.kind = .store ∧ s.Sent t true l ∧
      ∀ q ∈ l, ∀ i, i < x.et.width / 8 → s.plainByte q.map (q.va.toNat + i) → lastWriter (x.et.width / 8) l q i →
        t.coreByte s.cur.id.die s.cur.id.core q.map (q.va.toNat + i) =
          BitVec.ofNat 8 ((s.cur.opd x.c q.thread).toNat / 2 ^ (8 * i)) := by
  have hu := State.windowPlans_translates plans
  obtain ⟨order, maps⟩ := State.windowPlans_plans plans
  have before := hu.same.trans u.opening_same
  have hcur : u.opening.cur = s.cur.undenied := by
    show u.cur.undenied = _
    rw [hu.eq]
  have hid : u.opening.cur.id = s.cur.id := by rw [hcur]; rfl
  obtain ⟨sent, effect, quiet, teams, -⟩ := stfes_spec (x := x) (die := s.cur.id.die) (core := s.cur.id.core)
    (P := touches (x.et.width / 8) l) l u.opening maps (by rw [hid]) (by rw [hid]) fun q hq i hi => ⟨q, hq, i, hi, rfl⟩
  obtain ⟨t, op, ht, only, out, same, kind, -⟩ := State.memory_outstanding (x := x)
    (sh := shapeOf x false [] 1 true) (va := addrOf x) (chk := fun s t => s.checkWindow (addrOf x s t) (sizeOf x.et) true)
    (perform := fun s _ l => ({ Draft.none with kind := .store, delay := 199, misses := sectorsOf (sizeOf x.et) l },
        l.foldl (State.stfeOne x) s))
    issues he (show 1 < 4 by decide) room (State.covered_perThread rfl he issues) rfl rfl hu plans
    ((hu.effect.trans u.opening_effect).trans effect) rfl
  have run : exec (.stfe x) s = .next t := by
    show Host.Outcome.next (s.named x.pred (srcABC x) _) = _
    rw [State.named_of (State.issues_named issues), ht]
  refine ⟨t, op, run, only, ((before.quiet.trans quiet).trans same.quiet).bytesBut,
    same.teams.trans (teams.trans before.teams), out, kind, sent.issued before hid same, fun q hq i hi plain last => ?_⟩
  have open_ : s.fenced (q.map.phys (q.va.toNat + i)) = false := by
    rcases plain with hs | ⟨hf, -⟩
    · have := maps q hq
      omega
    · exact hf
  rw [State.coreByte_eq_seen (maps q hq), same.seen, stfes_seen (x := x) maps (by rw [order]; exact threads_sorted _)
    (by rw [hid]) (by rw [hid]) (by rw [before.mem]; exact ((s.memWf_iff).1 wf).1) hq hi
    ((before.windows.fenced _).trans open_) last, hcur]
  rfl

end Sys2Proof.Machine
end

section
/-!
SUPPORT. The controllers of the full/empty atoms (R58-R60): what one change does, what one check does, and the order in which a
logic-die cycle's arrivals are applied.
-/

namespace Sys2Proof.Machine

open Sys2Proof

/-! ### Writes at the home -/

/-- The lines of a write at the home take their place in the die buffer. -/
theorem State.useLines_home_moves (s : State) (m : Map) (va n : Nat) : Moves s (s.useLines 0 0 m va n 1) := by
  unfold State.useLines
  split
  · exact .refl s
  · exact .foldl State.useHome_moves _ _

theorem State.mapWrite_sameStacks (s : State) (m : Map) (va : Nat) (bs : List Byte) : SameStacks s (s.mapWrite m va bs) := by
  have bytes : ∀ (l : List (Byte × Nat)) (s : State), SameStacks s (l.foldl (fun s e =>
      if m.space = 3 then { s with host := { s.host with mem := s.host.mem.put (m.phys (va + e.2)) e.1 } }
      else s.setHome m.space (m.phys (va + e.2)) e.1) s) := by
    intro l
    induction l with
    | nil => exact .refl
    | cons e l ih =>
      intro s
      refine .trans ?_ (ih _)
      split <;> exact .of_eq rfl
  exact (bytes bs.zipIdx s).trans (State.useLines_home_moves _ _ _ _).windows

/-! ### Full and empty (R57, R58) -/

/-- Two addresses of one atom of HBM lie in one stack. -/
theorem stackOf_atom {p a : Nat} (hp : atomOf p = a) (ha : 32 * a < 12 * 2 ^ 36) : stackOf p = stackOf (32 * a) := by
  unfold atomOf at hp
  have h1 : p < 12 * 2 ^ 36 := by omega
  have h2 : p / 2 ^ 36 = 32 * a / 2 ^ 36 := by omega
  simp only [stackOf, unitOf, h1, ha, if_true, h2]

theorem State.inWindow_lt {s : State} {p : Nat} (h : s.inWindow p = true) : p < 12 * 2 ^ 36 := by
  unfold State.inWindow at h
  simp only [Bool.and_eq_true, decide_eq_true_eq] at h
  exact h.1.1

theorem State.isFull_atom {s : State} {p a : Nat} (hp : atomOf p = a) (ha : 32 * a < 12 * 2 ^ 36) :
    s.isFull p = s.isFull (32 * a) := by
  have : atomOf (32 * a) = a := by unfold atomOf; omega
  rw [State.isFull, State.isFull, stackOf_atom hp ha, hp, this]

/-- The stacks after the atom of an address has become full. -/
def State.filled (s : State) (p : Nat) : State :=
  let k := s.stack (stackOf p)
  if k.full.contains (atomOf p) then s else s.setStack (stackOf p) { k with full := atomOf p :: k.full }

theorem State.setFull_eq (s : State) (p : Nat) : s.setFull p =
    { s.filled p with eng := { (s.filled p).eng with ops := (s.filled p).eng.ops.map fun (e : Nat × Op) =>
      (e.1, e.2.release (s.filled p) fun w => w.seen && atomOf w.addr == atomOf p) } } := rfl

theorem State.filled_eng (s : State) (p : Nat) : (s.filled p).eng = s.eng := by
  unfold State.filled
  dsimp only
  split <;> rfl

theorem State.isFull_setFull (s : State) (p : Nat) : (s.setFull p).isFull p = true := by
  show (s.filled p).isFull p = true
  unfold State.filled State.isFull
  dsimp only
  split
  · assumption
  · simp

theorem State.isFull_setEmpty (s : State) (p : Nat) : (s.setEmpty p).isFull p = false := by
  simp [State.setEmpty, State.isFull]

/-! ### What a release reads -/

/-- What stands behind a read at a home is the same. -/
structure SameReads (s t : State) : Prop where
  mem : t.mem = s.mem
  home : t.home = s.home
  host : t.host = s.host
  poison : t.poison = s.poison
  fenced : ∀ p, t.fenced p = s.fenced p

theorem SameReads.refl (s : State) : SameReads s s := ⟨rfl, rfl, rfl, rfl, fun _ => rfl⟩

theorem SameReads.poisoned {s t : State} (h : SameReads s t) (m : Map) (va n : Nat) : t.poisoned m va n = s.poisoned m va n := by
  simp only [State.poisoned, State.badByte, h.poison, h.home, h.fenced]

theorem SameReads.mapBytes {s t : State} (h : SameReads s t) (m : Map) (va n : Nat) : t.mapBytes m va n = s.mapBytes m va n := by
  simp only [State.mapBytes, State.farByte, State.ctxByte, State.homeByte, h.mem, h.home, h.host]

/-- The full atoms of a stack are none of what a read meets. -/
theorem State.setFullList_reads (s : State) (n : Nat) (l : List Nat) :
    SameReads s (s.setStack n { s.stack n with full := l }) := by
  refine ⟨rfl, rfl, rfl, rfl, fun p => ?_⟩
  simp only [State.fenced, State.stack_setStack]
  split
  · next h => rw [h]
  · rfl

theorem State.setEmpty_reads (s : State) (p : Nat) : SameReads s (s.setEmpty p) := s.setFullList_reads _ _

theorem State.filled_reads (s : State) (p : Nat) : SameReads s (s.filled p) := by
  unfold State.filled
  dsimp only
  split
  · exact .refl s
  · exact s.setFullList_reads _ _

theorem State.setFull_reads (s : State) (p : Nat) : SameReads s (s.setFull p) := by
  obtain ⟨mem, home, host, poison, fenced⟩ := s.filled_reads p
  exact ⟨mem, home, host, poison, fenced⟩

/-- What an `ldfe` request reads when it is answered. -/
def FeWait.reads (w : FeWait) (s : State) : Landing :=
  ⟨w.thread, w.reg, extendBytes w.size w.sgn (s.mapBytes w.map w.va.toNat w.size)⟩

theorem Op.release_miss {o : Op} {ws : List FeWait} {hit : FeWait → Bool} (s : State) (hk : o.kind = .ldfe ws)
    (h : ∀ w ∈ ws, hit w = false) : o.release s hit = o := by
  have none : ws.filter hit = [] := List.filter_eq_nil_iff.2 fun w hw => by simp [h w hw]
  have all : (ws.filter fun w => !hit w) = ws := List.filter_eq_self.2 fun w hw => by simp [h w hw]
  unfold Op.release
  rw [hk]
  simp only [none, all, List.filter_nil, List.map_nil, List.append_nil, List.isEmpty_nil, if_true]
  rw [← hk]

theorem Op.release_hit {o : Op} {w : FeWait} {hit : FeWait → Bool} {s : State} (hk : o.kind = .ldfe [w]) (h : hit w = true)
    (hp : s.poisoned w.map w.va.toNat w.size = false) :
    (o.release s hit).kind = .ldfe [] ∧ (o.release s hit).writes = o.writes ++ [w.reads s] := by
  unfold Op.release
  rw [hk]
  simp [h, hp, FeWait.reads]

/-! ### One change -/

theorem FeReq.clashes_self (r : FeReq) : r.clashes r = false := by simp [FeReq.clashes]

/-- What a change does to its one atom, where that lies in the window. -/
theorem State.applyChange_one {s : State} {r : FeReq} {a : Nat} (l : List FeReq) (ha : r.atoms = [a])
    (hw : s.inWindow (32 * a) = true) : ∃ u, SameStacks s u ∧ (l.any r.clashes = false → u = s) ∧
      s.applyChange l r = if r.fills then u.setFull (32 * a) else u.setEmpty (32 * a) := by
  refine ⟨if l.any r.clashes then s.mapWrite r.map r.va r.bytes else s, ?_, fun h => by rw [h]; rfl, ?_⟩
  · split
    · exact s.mapWrite_sameStacks _ _ _
    · exact .refl s
  · have same : SameStacks s (if l.any r.clashes then s.mapWrite r.map r.va r.bytes else s) := by
      split
      · exact s.mapWrite_sameStacks _ _ _
      · exact .refl s
    unfold State.applyChange
    dsimp only
    rw [ha, List.map_cons, List.map_nil, List.filter_cons, (same.inWindow _).trans hw, if_pos rfl]
    rfl

/-- A change leaves its atom as it says, in its window. -/
theorem State.applyChange_isFull {s : State} {r : FeReq} {a : Nat} (l : List FeReq) (ha : r.atoms = [a])
    (hw : s.inWindow (32 * a) = true) :
    (s.applyChange l r).isFull (32 * a) = r.fills ∧ (s.applyChange l r).inWindow (32 * a) = true := by
  obtain ⟨u, same, -, e⟩ := State.applyChange_one l ha hw
  have hu : u.inWindow (32 * a) = true := (same.inWindow _).trans hw
  have window : ∀ l, State.inWindow (u.setStack (stackOf (32 * a)) { u.stack (stackOf (32 * a)) with full := l }) (32 * a) = true :=
    fun l => by simpa [State.inWindow] using hu
  rw [e]
  cases hf : r.fills
  · exact ⟨u.isFull_setEmpty _, window _⟩
  · refine ⟨u.isFull_setFull _, ?_⟩
    show (u.filled (32 * a)).inWindow (32 * a) = true
    unfold State.filled
    dsimp only
    split
    · exact hu
    · exact window _

/-- A change that clashes with no other only sets the bit of its atom. -/
theorem State.applyChange_alone {s : State} {r : FeReq} {a : Nat} (ha : r.atoms = [a]) (hw : s.inWindow (32 * a) = true) :
    s.applyChange [r] r = if r.fills then s.setFull (32 * a) else s.setEmpty (32 * a) := by
  obtain ⟨u, -, alone, e⟩ := State.applyChange_one [r] ha hw
  rw [e, alone (by simp [FeReq.clashes_self])]

/-! ### The order of arrival (R60) -/

theorem FeArrival.before_iff (a b : FeArrival) :
    a.before b = true ↔ a.key.1 < b.key.1 ∨ (a.key.1 = b.key.1 ∧ a.key.2 ≤ b.key.2) := by
  simp [FeArrival.before]

/-- Where no `ldfe` has a check in flight only changes arrive. -/
theorem State.arrivals_of_seen {s : State} (h : ∀ e ∈ s.eng.ops, e.2.unseen = false) :
    s.arrivals = (s.eng.fe.map FeArrival.change).foldl (fun l a => insertArrival a l) [] := by
  unfold State.arrivals
  dsimp only
  rw [List.flatten_eq_nil_iff.2, List.append_nil]
  intro l hl
  obtain ⟨e, he, rfl⟩ := List.mem_map.1 hl
  have hu := h e he
  unfold Op.unseen at hu
  split
  · next ws hk =>
    rw [hk] at hu
    have : (ws.filter fun w => !w.seen) = [] := List.filter_eq_nil_iff.2 fun w hw => by
      have := List.any_eq_false.1 hu w hw
      simpa using this
    rw [this, List.map_nil]
  · rfl

/-- Two changes arrive in the order of their senders. -/
theorem State.arrivals_pair {s : State} {r q : FeReq} (hs : ∀ e ∈ s.eng.ops, e.2.unseen = false)
    (hp : s.eng.fe.Perm [r, q]) (h : (r.die * 65 + r.core) * 64 + r.lane < (q.die * 65 + q.core) * 64 + q.lane) :
    s.arrivals = [.change r, .change q] := by
  have rq : (FeArrival.change r).before (.change q) = true := (FeArrival.before_iff _ _).2 (.inl h)
  have qr : (FeArrival.change q).before (.change r) = false := by
    rw [← Bool.not_eq_true, FeArrival.before_iff]
    simp only [FeArrival.key]
    omega
  rw [State.arrivals_of_seen hs]
  rcases List.perm_pair.1 hp with e | e <;> rw [e] <;> simp [insertArrival, rq, qr]

/-- A change and a check in flight arrive in the order of their senders. -/
theorem State.arrivals_mixed {s : State} {r : FeReq} {id : Nat} {o : Op} {w : FeWait} (hf : s.eng.fe = [r])
    (ho : s.eng.ops = [(id, o)]) (hk : o.kind = .ldfe [w]) (hw : w.seen = false) :
    s.arrivals = if (FeArrival.change r).before (.check id w.thread w.addr o.g) then
      [.change r, .check id w.thread w.addr o.g] else [.check id w.thread w.addr o.g, .change r] := by
  unfold State.arrivals
  simp only [hf, ho, hk, List.map_cons, List.map_nil, List.filter_cons, hw, Bool.not_false, if_true, List.filter_nil,
    List.flatten_cons, List.flatten_nil, List.append_nil, List.cons_append, List.nil_append, List.foldl_cons, List.foldl_nil,
    insertArrival]

/-- Two changes of one atom: it stands as the later one says, and nothing is in flight. -/
theorem State.applyFe_pair {s : State} {r q : FeReq} {a : Nat} (hr : r.atoms = [a]) (hq : q.atoms = [a])
    (hw : s.inWindow (32 * a) = true) (hs : ∀ e ∈ s.eng.ops, e.2.unseen = false) (hp : s.eng.fe.Perm [r, q])
    (h : (r.die * 65 + r.core) * 64 + r.lane < (q.die * 65 + q.core) * 64 + q.lane) :
    s.applyFe.isFull (32 * a) = q.fills ∧ s.applyFe.eng.fe = [] := by
  refine ⟨?_, rfl⟩
  unfold State.applyFe
  rw [State.arrivals_pair hs hp h]
  exact (State.applyChange_isFull _ hq (State.applyChange_isFull _ hr hw).2).1

/-! ### A change and a check -/

/-- The state in which one request of one `ldfe` is in flight to an atom. -/
structure State.Checking (s : State) (id : Nat) (o : Op) (w : FeWait) (a : Nat) : Prop where
  ops : s.eng.ops = [(id, o)]
  kind : o.kind = .ldfe [w]
  fresh : w.seen = false
  atom : atomOf w.addr = a
  sound : s.poisoned w.map w.va.toNat w.size = false
  window : 32 * a < 12 * 2 ^ 36

/-- The request has been answered with the bytes that stood there. -/
def State.Answered (s t : State) (id : Nat) (o : Op) (w : FeWait) : Prop :=
  ∃ p, Tab.get? id t.eng.ops = some p ∧ p.kind = .ldfe [] ∧ p.writes = o.writes ++ [w.reads s]

section
variable {s : State} {id : Nat} {o : Op} {w : FeWait} {a : Nat}

theorem FeWait.reads_same {s t : State} (h : SameReads s t) (w : FeWait) : w.reads t = w.reads s := by
  simp only [FeWait.reads, h.mapBytes]

theorem State.Checking.same {t : State} (h : s.Checking id o w a) (ops : t.eng.ops = s.eng.ops) (reads : SameReads s t) :
    t.Checking id o w a :=
  ⟨ops.trans h.ops, h.kind, h.fresh, h.atom, (reads.poisoned _ _ _).trans h.sound, h.window⟩

theorem Tab.get?_single {α : Type} (id : Nat) (x : α) : Tab.get? id [(id, x)] = some x := by simp [Tab.get?]

/-- A check that finds the atom full is answered. -/
theorem State.Checking.check_full (h : s.Checking id o w a) (hf : s.isFull w.addr = true) :
    s.Answered (s.applyCheck id w.thread w.addr) id o w := by
  have hit := Op.release_hit (hit := fun v => v.thread == w.thread && !v.seen) h.kind (by simp [h.fresh]) h.sound
  refine ⟨_, ?_, hit⟩
  unfold State.applyCheck
  simp [h.ops, hf, Tab.update, Tab.get?]

/-- A check that finds the atom empty makes the request wait. -/
theorem State.Checking.check_empty (h : s.Checking id o w a) (hf : s.isFull w.addr = false) :
    (s.applyCheck id w.thread w.addr).eng.ops = [(id, { o with kind := .ldfe [{ w with seen := true }] })] := by
  unfold State.applyCheck
  simp [h.ops, h.kind, hf, h.fresh, Tab.update]

/-- An atom that becomes full releases nobody who has not been checked. -/
theorem State.Checking.setFull (h : s.Checking id o w a) :
    (s.setFull (32 * a)).Checking id o w a ∧ (s.setFull (32 * a)).isFull w.addr = true := by
  have ops : (s.setFull (32 * a)).eng.ops = s.eng.ops := by
    rw [State.setFull_eq]
    simp only [State.filled_eng, h.ops, List.map_cons, List.map_nil]
    rw [Op.release_miss _ h.kind (by simp [h.fresh])]
  exact ⟨h.same ops (s.setFull_reads _), by rw [State.isFull_atom h.atom h.window, s.isFull_setFull]⟩

theorem State.Checking.setEmpty (h : s.Checking id o w a) :
    (s.setEmpty (32 * a)).Checking id o w a ∧ (s.setEmpty (32 * a)).isFull w.addr = false :=
  ⟨h.same rfl (s.setEmpty_reads _), by rw [State.isFull_atom h.atom h.window, s.isFull_setEmpty]⟩

/-- An atom that becomes full releases the request that waits for it. -/
theorem State.Checking.fill (h : s.Checking id o w a) {t : State} (reads : SameReads s t)
    (ops : t.eng.ops = [(id, { o with kind := .ldfe [{ w with seen := true }] })]) : s.Answered (t.setFull (32 * a)) id o w := by
  have full := reads.poisoned w.map w.va.toNat w.size
  have filled := t.filled_reads (32 * a)
  have hatom : atomOf (32 * a) = a := by unfold atomOf; omega
  obtain ⟨kind, writes⟩ := Op.release_hit (o := { o with kind := .ldfe [{ w with seen := true }] })
    (hit := fun w => w.seen && atomOf w.addr == atomOf (32 * a)) (s := t.filled (32 * a)) rfl (by simp [h.atom, hatom])
    ((filled.poisoned _ _ _).trans (full.trans h.sound))
  refine ⟨_, ?_, kind, writes.trans ?_⟩
  · rw [State.setFull_eq]
    simp only [State.filled_eng, ops, List.map_cons, List.map_nil]
    exact Tab.get?_single id _
  · rw [FeWait.reads_same filled, FeWait.reads_same reads]
    rfl

/-- A request that has been answered before keeps its answer when the atom becomes full. -/
theorem State.Answered.setFull {t : State} (h : s.Answered t id o w) (p : Nat) : s.Answered (t.setFull p) id o w := by
  obtain ⟨q, hq, kind, writes⟩ := h
  refine ⟨q, ?_, kind, writes⟩
  rw [State.setFull_eq, State.filled_eng]
  rw [Tab.get?_map fun _ o => Op.release (t.filled p) (fun w => w.seen && atomOf w.addr == atomOf p) o, hq]
  exact congrArg some (Op.release_miss _ kind (fun _ h => absurd h List.not_mem_nil))

theorem State.applyCheck_reads (s : State) (id thread addr : Nat) : SameReads s (s.applyCheck id thread addr) :=
  ⟨rfl, rfl, rfl, rfl, fun _ => rfl⟩

/-- The request of an `ldfe` and one change of its atom that arrive together (R60): it is answered where the atom is full when it is
checked, or is filled after that; and it waits where the atom has been emptied before. -/
theorem State.Checking.applyFe (h : s.Checking id o w a) {r : FeReq} (hr : r.atoms = [a]) (hw : s.inWindow (32 * a) = true)
    (hf : s.eng.fe = [r]) :
    let g := (o.g.die * 65 + o.g.core) * 64 + o.g.lane
    let place := (r.die * 65 + r.core) * 64 + r.lane
    (r.fills = true → s.Answered s.applyFe id o w) ∧
    (r.fills = false → s.isFull w.addr = true → g < place → s.Answered s.applyFe id o w) ∧
    (r.fills = false → place < g → ∃ p, Tab.get? id s.applyFe.eng.ops = some p ∧ p.kind = .ldfe [{ w with seen := true }] ∧
      p.writes = o.writes) := by
  intro g place
  have arrivals := State.arrivals_mixed hf h.ops h.kind h.fresh
  have change := State.applyChange_alone hr hw
  -- what the two arrivals do in either order
  have first : (FeArrival.change r).before (.check id w.thread w.addr o.g) = true → s.applyFe =
      { (s.applyChange [r] r).applyCheck id w.thread w.addr with
        eng := { ((s.applyChange [r] r).applyCheck id w.thread w.addr).eng with fe := [] } } := by
    intro hb
    unfold State.applyFe
    rw [arrivals, if_pos hb, hf]
    rfl
  have second : (FeArrival.change r).before (.check id w.thread w.addr o.g) = false → s.applyFe =
      { (s.applyCheck id w.thread w.addr).applyChange [r] r with
        eng := { ((s.applyCheck id w.thread w.addr).applyChange [r] r).eng with fe := [] } } := by
    intro hb
    unfold State.applyFe
    rw [arrivals, if_neg (by simp [hb]), hf]
    rfl
  have change' := State.applyChange_alone (s := s.applyCheck id w.thread w.addr) hr hw
  refine ⟨fun fills => ?_, fun empties full before => ?_, fun empties after => ?_⟩
  · cases hb : (FeArrival.change r).before (.check id w.thread w.addr o.g)
    · rw [second hb, change', if_pos fills]
      cases hfull : s.isFull w.addr
      · exact h.fill (s.applyCheck_reads _ _ _) (h.check_empty hfull)
      · exact (h.check_full hfull).setFull _
    · rw [first hb, change, if_pos fills]
      obtain ⟨p, hp, kind, writes⟩ := h.setFull.1.check_full h.setFull.2
      exact ⟨p, hp, kind, by rw [writes, FeWait.reads_same (s.setFull_reads _)]⟩
  · have hb : (FeArrival.change r).before (.check id w.thread w.addr o.g) = false := by
      rw [← Bool.not_eq_true, FeArrival.before_iff]
      simp only [FeArrival.key]
      omega
    rw [second hb, change', if_neg (by simp [empties])]
    exact h.check_full full
  · rw [first ((FeArrival.before_iff _ _).2 (.inl after)), change, if_neg (by simp [empties])]
    refine ⟨{ o with kind := .ldfe [{ w with seen := true }] }, ?_, rfl, rfl⟩
    show Tab.get? id ((s.setEmpty (32 * a)).applyCheck id w.thread w.addr).eng.ops = _
    rw [h.setEmpty.1.check_empty h.setEmpty.2]
    exact Tab.get?_single id _

end

end Sys2Proof.Machine
end

section
/-!
SUPPORT. The timeout of an `ldfe` (R59), and the statement on full/empty atoms.
-/

namespace Sys2Proof.Machine

open Sys2Proof

/-! ### The trap at the end of an operation (R187, R193) -/

/-- Landing writes registers and what `eret` restores, and nothing else of the group. -/
theorem Group.land_eq (g : Group) (hand : Bool) (ls : List Landing) : g.land hand ls =
    { g with v := (g.land hand ls).v, g := (g.land hand ls).g, shadow := (g.land hand ls).shadow } := by
  suffices h : ∀ (ls : List Landing) (h : Group), h = { g with v := h.v, g := h.g, shadow := h.shadow } →
      h.land hand ls = { g with v := (h.land hand ls).v, g := (h.land hand ls).g, shadow := (h.land hand ls).shadow } from
    h ls g rfl
  intro ls
  induction ls with
  | nil => exact fun _ h => h
  | cons l ls ih =>
    intro h hh
    refine ih (h.landOne hand l) ?_
    unfold Group.landOne
    split
    · split
      · dsimp only
        rw [hh]
      · rw [Group.vset, Group.vrow, hh]
    · unfold Group.gset
      split
      · exact hh
      · rw [hh]

theorem State.group?_cur {s : State} (h : s.cur.live = true) : s.group? s.cur.id = some s.cur := by
  simp [State.group?, h]

theorem State.focus_cur {s : State} (h : s.cur.live = true) : s.focus s.cur.id = s := by
  simp [State.focus, h]

theorem State.updGroup_cur {s : State} (h : s.cur.live = true) (f : Group → Group) :
    s.updGroup s.cur.id f = { s with cur := f s.cur } := by
  simp [State.updGroup, h]

/-- Outside a handler the writes of an operation land in the registers of its group. -/
theorem State.landAll_cur {s : State} (live : s.cur.live = true) (hand : s.cur.hand = none) (ls : List Landing) :
    ∃ ls', s.landAll s.cur.id false ls = { s with cur := s.cur.land false ls' } := by
  have saved : s.landSaved s.cur.id false ls = s := by
    simp [State.landSaved, State.group?_cur live, hand]
  unfold State.landAll
  rw [saved]
  exact ⟨_, State.updGroup_cur live _⟩

/-- What a trap taken outside a handler shows (R193). -/
theorem State.trap_shows {s : State} (h : s.cur.hand = none) (tr : Trap) :
    (s.trap tr).cur.hand.isSome = true ∧ (s.trap tr).cur.tcause = tr.cause ∧ (s.trap tr).cur.sp.mask = tr.handlers ∧
      (s.trap tr).cur.cntL = s.cur.cntL ∧ (s.trap tr).eng = s.eng ∧ (s.trap tr).mem = s.mem ∧ (s.trap tr).home = s.home := by
  have packet := (s.emitAt_traceOnly (tr.issued.getD s.clock.cycle) (.trap tr.cause)).eq
  unfold State.trap
  rw [if_neg (by simp [h])]
  dsimp only
  generalize s.emitAt (tr.issued.getD s.clock.cycle) (.trap tr.cause) = u at packet
  refine ⟨rfl, rfl, rfl, ?_, ?_, ?_, ?_⟩
  · show u.cur.cntL = _
    rw [packet]
  · show u.eng = _
    rw [packet]
  · show u.mem = _
    rw [packet]
  · show u.home = _
    rw [packet]

theorem causeOf_cons_cons (f x : Faulter) (fs : List Faulter) :
    causeOf (f :: x :: fs) = if x.thread < f.thread then causeOf (x :: fs) else causeOf (f :: fs) := by
  by_cases h : x.thread < f.thread <;> simp [causeOf, h]

/-- Faults of one cause give that cause. -/
theorem causeOf_const {c : BitVec 8} {f : Faulter} {fs : List Faulter} (h : ∀ x ∈ f :: fs, x.cause = c) :
    causeOf (f :: fs) = c := by
  induction fs generalizing f with
  | nil => exact h f List.mem_cons_self
  | cons x fs ih =>
    rw [causeOf_cons_cons]
    split
    · exact ih fun y hy => h y (List.mem_cons_of_mem _ hy)
    · refine ih fun y hy => h y ?_
      rcases List.mem_cons.mp hy with rfl | hy
      · exact List.mem_cons_self
      · exact List.mem_cons_of_mem _ (List.mem_cons_of_mem _ hy)

/-- The operation an `ldfe` becomes when all that is left of it is late (R59): each request faults with 0x13. -/
def Op.timedOut (o : Op) (ws : List FeWait) : Op :=
  { o with kind := .ldfe [], faults := ws.map fun w => ⟨w.thread, 0x13, w.va⟩ }

/-- An operation of the current group that ends with faults, outside a handler: its trap is taken. -/
theorem State.finishOp_traps {s : State} {id : Nat} {op : Op} (found : Tab.get? id s.eng.ops = some op)
    (kind : op.kind = .ldfe []) (faulty : op.faults.isEmpty = false) (hand : op.hand = false) (own : op.g = s.cur.id)
    (live : s.cur.live = true) (free : s.cur.hand = none) (hold : s.cur.hold = .none) (held : s.cur.held = [])
    (slot : s.cur.slot = op.slot) :
    ∃ g : Group, g.hand = none ∧ g.cntL = s.cur.cntL ∧ s.finishOp id =
      ({ s with eng := { s.eng with ops := Tab.erase id s.eng.ops }, cur := g.uncount op.counter }).trap
        ((g.uncount op.counter).heldTrap
          ⟨op.faults, op.kindByte, op.omask, op.iw0, op.slot, op.counter, false, op.issued⟩) := by
  obtain ⟨ls, hl⟩ := State.landAll_cur (s := { s with eng := { s.eng with ops := Tab.erase id s.eng.ops } })
    live free op.writes
  have same := s.cur.land_eq false ls
  have hid : (s.cur.land false ls).id = s.cur.id := by rw [same]
  have hlive : (s.cur.land false ls).live = true := by rw [same]; exact live
  have hfree : (s.cur.land false ls).hand = none := by rw [same]; exact free
  have hhold : (s.cur.land false ls).hold = .none := by rw [same]; exact hold
  have hheld : (s.cur.land false ls).held = [] := by rw [same]; exact held
  have hslot : (s.cur.land false ls).slot = op.slot := by rw [same]; exact slot
  refine ⟨{ (s.cur.land false ls).mapSplits (Split.unhold id) with held := [] }, hfree, by rw [same]; rfl, ?_⟩
  unfold State.finishOp
  rw [found]
  dsimp only
  rw [own, hand, kind]
  unfold State.landKind
  rw [hl]
  dsimp only
  rw [← hid, faulty, State.group?_cur (s := { s with eng := _, cur := s.cur.land false ls }) hlive,
    State.focus_cur (s := { s with eng := _, cur := s.cur.land false ls }) hlive]
  simp only [Bool.false_eq_true, if_false, Option.isNone_some]
  unfold State.lateTrap State.takeHeld
  simp [Group.mapSplits, hheld, hfree, hhold, Group.select, hslot]

/-- A held trap that is neither deferred nor of threads beyond the budget is the memory-class trap of its faults (R191). -/
theorem Group.heldTrap_whole (g : Group) {h : HeldTrap} (prompt : h.deferred = false)
    (other : (!h.faults.isEmpty && h.faults.all fun f => f.cause == 0x09) = false) :
    g.heldTrap h = { g.memoryTrap h.faults h.kind h.omask h.iw0 with issued := some h.issued } := by
  unfold Group.heldTrap
  rw [other, prompt]
  rfl

/-- Requests that have all waited 1 ms: the instruction traps with 0x13 for all of them (R59, R193). -/
theorem execLdfeTimeout_traps {s : State} {id : Nat} {op : Op} {w : FeWait} {ws : List FeWait}
    (found : Tab.get? id s.eng.ops = some op) (kind : op.kind = .ldfe (w :: ws)) (clean : op.faults = [])
    (counter : op.counter = 0) (hand : op.hand = false) (own : op.g = s.cur.id) (live : s.cur.live = true)
    (free : s.cur.hand = none) (hold : s.cur.hold = .none) (held : s.cur.held = []) (slot : s.cur.slot = op.slot)
    (late : ∀ v ∈ w :: ws, v.seen = true ∧ v.arrived + 2700000 < s.clock.cycle) :
    ∃ t, exec (.ldfeTimeout id) s = .next t ∧ t.cur.hand.isSome = true ∧
      t.cur.tcause = 0x13 ∧ t.cur.sp.mask = maskOf ((w :: ws).map fun v => v.thread) ∧ t.cur.cntL = s.cur.cntL - 1 ∧
      Tab.get? id t.eng.ops = none ∧ t.mem = s.mem ∧ t.home = s.home := by
  have every : ∀ v ∈ w :: ws, v.late s.clock.cycle = true := fun v hv => by
    simpa [FeWait.late] using late v hv
  have kept : (w :: ws).filter (fun v => v.late s.clock.cycle) = w :: ws := List.filter_eq_self.mpr every
  have gone : (w :: ws).filter (fun v => !v.late s.clock.cycle) = [] :=
    List.filter_eq_nil_iff.mpr fun v hv => by simp [every v hv]
  have run : execLdfeTimeout id s = .next
      (({ s with eng := { s.eng with ops := Tab.set id (op.timedOut (w :: ws)) s.eng.ops } } : State).finishOp id) := by
    unfold execLdfeTimeout
    rw [found]
    dsimp only
    rw [kind]
    dsimp only
    rw [kept, gone, clean]
    simp [Op.timedOut]
  obtain ⟨g, gfree, gcnt, hf⟩ := State.finishOp_traps (id := id) (op := op.timedOut (w :: ws))
    (s := { s with eng := { s.eng with ops := Tab.set id (op.timedOut (w :: ws)) s.eng.ops } })
    (by simp [Tab.get?_set]) rfl rfl hand own live free hold held slot
  have counted : g.uncount (op.timedOut (w :: ws)).counter = { g with cntL := g.cntL - 1 } := by
    show g.uncount op.counter = _
    rw [counter]
    rfl
  rw [counted] at hf
  have causes : causeOf (op.timedOut (w :: ws)).faults = 0x13 :=
    causeOf_const fun x hx => by
      rw [← List.map_cons (f := fun v : FeWait => (⟨v.thread, 0x13, v.va⟩ : Faulter))] at hx
      obtain ⟨v, -, rfl⟩ := List.mem_map.mp hx
      rfl
  obtain ⟨trapped, cause, mask, cnt, eng, mem, home⟩ := State.trap_shows
    (s := { s with
      eng := { s.eng with ops := Tab.erase id (Tab.set id (op.timedOut (w :: ws)) s.eng.ops) }
      cur := { g with cntL := g.cntL - 1 } }) gfree
    (({ g with cntL := g.cntL - 1 } : Group).heldTrap ⟨(op.timedOut (w :: ws)).faults, (op.timedOut (w :: ws)).kindByte,
      (op.timedOut (w :: ws)).omask, (op.timedOut (w :: ws)).iw0, (op.timedOut (w :: ws)).slot,
      (op.timedOut (w :: ws)).counter, false, (op.timedOut (w :: ws)).issued⟩)
  rw [Group.heldTrap_whole _ rfl rfl] at cause mask
  refine ⟨_, run, ?_⟩
  rw [hf]
  refine ⟨trapped, cause.trans causes, mask.trans ?_, cnt.trans ?_, ?_, mem, home⟩
  · simp [Group.memoryTrap, Op.timedOut, Function.comp_def]
  · show g.cntL - 1 = _
    rw [gcnt]
  · rw [eng]
    simp [Tab.get?_erase]

/-- A request that has not waited 1 ms at its controller goes on waiting (R59). -/
theorem execLdfeTimeout_waits {s : State} {id : Nat} {op : Op} {ws : List FeWait} (found : Tab.get? id s.eng.ops = some op)
    (kind : op.kind = .ldfe ws) (early : ∀ v ∈ ws, v.seen = false ∨ s.clock.cycle ≤ v.arrived + 2700000) :
    exec (.ldfeTimeout id) s = .next s := by
  have none : ws.filter (fun v => v.late s.clock.cycle) = [] := by
    refine List.filter_eq_nil_iff.mpr fun v hv => ?_
    rcases early v hv with h | h
    · simp [FeWait.late, h]
    · simp [FeWait.late, Nat.not_lt.mpr h]
  show execLdfeTimeout id s = _
  unfold execLdfeTimeout
  rw [found]
  dsimp only
  rw [kind]
  dsimp only
  rw [none]
  rfl

/-- Settles O22: the accesses of the three instructions go through the window's check to the controllers (`ldfe_sends`,
`stfe_sends`, `clrfe_sends`); what arrives in one cycle is applied in the order of its places (`State.applyFe`); and a request
that has waited its 1 ms ends its operation with a trap. -/
theorem fullEmptyAtoms : Obligations.FullEmptyAtoms := by
  unfold Obligations.FullEmptyAtoms
  refine ⟨fun s x l u he => ⟨ldfe_sends he, stfe_sends he, clrfe_sends he⟩, fun s r a hr hw => ⟨?_, ?_⟩, ?_⟩
  · exact fun q hq perm seen before => State.applyFe_pair hr hq hw seen perm before
  · intro id o w hf ops kind fresh atom sound
    exact State.Checking.applyFe ⟨ops, kind, fresh, atom, sound, State.inWindow_lt hw⟩ hr hw hf
  · intro s id op w ws found kind clean counter hand own live free hold held slot _
    exact ⟨execLdfeTimeout_traps found kind clean counter hand own live free hold held slot,
      execLdfeTimeout_waits found kind⟩

end Sys2Proof.Machine
end

section
/-!
The fill of a mapped range (R222, R225) over a memory that is not in canonical form.
-/

namespace Sys2Proof.Machine

open Sys2Proof

/-- A binding of 256 bytes of local store from 3,840 to 0x300000, not filled. -/
def unfilledBind : MapBind := ⟨3840, 0x300000, 256, false, [], []⟩

/-- The team that has made it. -/
def bindingTeam : Team := { placedTeam with size := 5120, area := 5120, maps := [unfilledBind] }

/-- The page of its range: 1 GiB of device memory from physical 0. -/
def bindPage : Map := ⟨0, none, 0, 0, 0, 0, false, true⟩

/-- The first byte of the block's second atom is a dirty 0 in the die buffer, of which the partition owns no way, and memory lists
it twice. -/
def shadowedByte : State :=
  let s := State.reset.placed []
  { s with
    cur := { s.cur with lsize := 4096 }
    teams := [bindingTeam]
    mem := (0x300020, 1) :: (0x300020, 2) :: s.mem
    home := [(byteKey 0 0x300020, ⟨0, true⟩)] }

/-- The state once the block's page is translated. -/
def shadowedByteWalked : State := (shadowedByte.translate (shadowedByte.cur.acc false) 0x300000 256 1).2

/-- The state once the block is filled. -/
def shadowedByteFilled : State := shadowedByte.fillBlock shadowedByte.cur.id 3840

theorem shadowedByte_translates :
    shadowedByte.translate (shadowedByte.cur.acc false) 0x300000 256 1 = (.ok bindPage, shadowedByteWalked) := by
  have page : (shadowedByte.translate (shadowedByte.cur.acc false) 0x300000 256 1).1.toOption = some bindPage := by decide +kernel
  unfold shadowedByteWalked
  revert page
  rcases shadowedByte.translate (shadowedByte.cur.acc false) 0x300000 256 1 with ⟨_ | m, u⟩
  · exact fun page => nomatch page
  · exact fun page => by rw [Option.some.inj page]

/-- The core sees the dirty 0, in an atom that is not poisoned and is to be filled. -/
theorem shadowedByte_sees : shadowedByteWalked.coreByte 0 0 bindPage 0x300020 = 0 ∧
    shadowedByteWalked.poisoned bindPage 0x300020 32 = false ∧ bindingTeam.unfilled 3872 = true ∧
    shadowedByte.team? shadowedByte.cur = some bindingTeam := by decide +kernel

/-- The first atom's line leaves the die buffer at once, the 0 removes the first entry of its byte, and the second entry is what the
second atom is filled with. -/
theorem shadowedByte_fills :
    (shadowedByteFilled.team? shadowedByteFilled.cur).map (fun b => b.ls.byte 3872) = some 2 := by decide +kernel

/-- No other view has a byte of the page, no copy in the die buffer is clean, and every bank is open. -/
theorem shadowedByte_oneView {a : Nat} (ha : a < 2 ^ 48) : shadowedByte.oneView 0 0 0 a := by
  refine ⟨?_, fun x _ hx => ⟨?_, rfl⟩, fun c hc hd => ?_⟩
  · have banks : shadowedByte.stks = [] := rfl
    simp [State.fenced, State.stack, banks, Tab.getD, Tab.get?, Stack.empty]
  · refine if_neg fun h => hx (byteKey_inj ha (by decide) h).1
  · have held : Tab.get? (byteKey 0 a) [(byteKey 0 0x300020, (⟨0, true⟩ : CByte))] = some c := hc
    unfold Tab.get? at held
    split at held
    · cases held; cases hd
    · cases held

/-- The core's cache is empty, so the second atom meets no old copy. -/
theorem shadowedByte_settled : shadowedByte.settled bindPage 0x300020 32 := fun _ _ =>
  ⟨.inr (shadowedByte_oneView (Map.phys_lt _ _)), .inr rfl⟩

/-- Refutes O24: the clause on the fill of a block has an atom's bytes be what the core saw before the fill in every state, also in
one whose memory is not in canonical form (`shadowedByte`): there the line of an atom filled before loses a byte as it leaves the die
buffer. The hypothesis that memory is in canonical form (O59, O60), on which `BytesBut` rests, is missing from the clause. -/
theorem not_mappedRanges : ¬ Obligations.MappedRanges := by
  unfold Obligations.MappedRanges
  rintro ⟨-, fill⟩
  obtain ⟨sees, sound, todo, team⟩ := shadowedByte_sees
  obtain ⟨filled, -, -⟩ := fill shadowedByte shadowedByteWalked 3840 bindingTeam unfilledBind rfl team rfl rfl rfl
    ⟨3872, by decide, todo⟩
  obtain ⟨t, b, run, own, -, atoms, -⟩ := filled bindPage shadowedByte_translates (by decide)
  obtain ⟨-, bytes⟩ := atoms 3872 ⟨by decide, todo⟩ sound
  have zero : b.ls.byte 3872 = 0 := (bytes shadowedByte_settled 0 (by decide)).trans sees
  have done : shadowedByteFilled = t := by injection run
  have two := shadowedByte_fills
  rw [done, own, Option.map_some, zero] at two
  exact absurd two (by decide)

end Sys2Proof.Machine
end

section
/-!
The detach of a note (R75, R400) over a memory that is not in canonical form.
-/

namespace Sys2Proof.Machine

open Sys2Proof

/-- Where the die buffer and a core's cache are empty and every bank is open, nothing but its view stands between a byte and memory. -/
theorem State.oneView_of_empty {s : State} {die core space p : Nat} (home : s.home = []) (stks : s.stks = [])
    (cache : (s.core die core).cache = []) : s.oneView die core space p := by
  obtain ⟨sound, others, clean⟩ := State.oneHome_of_empty (space := space) (p := p) home stks
  exact ⟨sound, fun x hx hn => ⟨others x hx hn, by rw [cache]; rfl⟩, clean⟩

/-- The first bytes of a record of a valid handle (R68): one note, at 0x400000, the version 7, and the sync word at 0x800000. -/
def oneNoteRecord : Nat := 1 + 2 ^ 4 + 7 * 2 ^ 32 + 0x800000 * 2 ^ 64 + 0x400000 * 2 ^ 256

/-- That record is handle 0 of a partition that owns no way of a die buffer, through a page that carries the accord-capable bit; and
in front of all that memory lists, it lists the low byte of the version again, as 255. -/
def twiceListedVersion : State :=
  let s := State.reset.placed []
  { s with
    mem := (0x500004, 255) :: (s.mem.putBytes tableAt (leBytes 8 0x26F)).putBytes 0x500000 (leBytes 128 oneNoteRecord)
    parts := [(0, { placedPart with accbase := 0x500000 })] }

/-- `acc.detach` of note 0 of the handle in `g3`, which holds 0. -/
def detachFirst : Ord := ⟨.w64, .v 0, .g 3, .reg (.v 0), .v 0, ⟨0, false⟩, .z8, 0, 0, 0⟩

/-- The handle as it is read: its version is 255. -/
def oneNoteHandle : Handle :=
  { v := true, ncount := 1, fip := false
    list := { fmt := 0, geo := 0, sync := 0x800000, sbase := 0, bbase := 0, version := 255, notes := [0x400000] } }

/-- The page of the note and of the sync word, as it is read and as it is written: 1 GiB of device memory from physical 0. -/
def accordPage : Map := ⟨0, none, 0, 0, 0, 0, true, true⟩

/-- The page maps each address to itself. -/
theorem accordPage_phys {va : Nat} (h : va < 2 ^ 48) : accordPage.phys va = va := by
  show (0 + (va - 0)) % 2 ^ 48 = va
  omega

/-- The state once what is bound to the sync word has been released. -/
def twiceListedReleased : State := (twiceListedVersion.releaseBound 0x800000 3).2

/-- The state once the note is detached. -/
def twiceListedDetached : State :=
  match execAccDetach detachFirst twiceListedVersion with
  | .next t => t
  | _ => twiceListedVersion

/-- The instruction issues, its A is 0, and handle 0 is valid. -/
theorem twiceListedVersion_runs : twiceListedVersion.runsU detachFirst [detachFirst.a] = true ∧
    (twiceListedVersion.a0 detachFirst).toNat = 0 ∧
    twiceListedVersion.handle? 0 0 = some (oneNoteHandle, 0x500000) := by decide +kernel

theorem twiceListedVersion_maps : twiceListedVersion.unitMap 0 0x400000 64 false = .ok accordPage ∧
    twiceListedVersion.unitMap 0 0x800000 8 true = .ok accordPage := by decide +kernel

theorem twiceListedVersion_releases : twiceListedVersion.releaseBound 0x800000 3 = (none, twiceListedReleased) :=
  Prod.ext (by decide +kernel) rfl

theorem twiceListedReleased_clear : twiceListedReleased.home = [] ∧ twiceListedReleased.stks = [] ∧
    (twiceListedReleased.core 0 0).cache = [] ∧ twiceListedReleased.cur.id = ⟨0, 0, 0, 0⟩ ∧
    twiceListedReleased.unacknowledged ⟨0, 0, 0, 0⟩ = false := by decide +kernel

/-- The record leaves the die buffer at once, the zero of its low version byte removes the first entry of that byte, and the second
entry shows: the version reads 263 where the detach has written 256. -/
theorem twiceListedDetached_version : field (twiceListedDetached.homeNat 0x500000 128) 32 32 = 263 ∧
    field (recordWith (twiceListedReleased.homeNat 0x500000 128)
      (oneNoteHandle.list.notes.eraseIdx (detachFirst.imm.toNat % 8)) (oneNoteHandle.list.version + 1) % 2 ^ 1024) 32 32 = 256 := by decide +kernel

/-- The release has brought nothing into the die buffer or the core's cache. -/
theorem twiceListedReleased_plain (a : Nat) : twiceListedReleased.oneView 0 0 0 a := by
  obtain ⟨home, stks, cache, -⟩ := twiceListedReleased_clear
  exact State.oneView_of_empty home stks cache

/-- Refutes O37: the clause on `acc.detach` has the record read back as it was written in every state, also in one whose memory is
not in canonical form (`twiceListedVersion`). The hypothesis that memory is in canonical form (O59, O60) is missing from the
clause. -/
theorem not_accordTiles : ¬ Obligations.AccordTiles := by
  unfold Obligations.AccordTiles
  rintro ⟨-, acc⟩
  obtain ⟨runs, zero, handle⟩ := twiceListedVersion_runs
  obtain ⟨note, word⟩ := twiceListedVersion_maps
  obtain ⟨-, -, -, own, acknowledged⟩ := twiceListedReleased_clear
  obtain ⟨-, valid⟩ := acc twiceListedVersion detachFirst oneNoteHandle 0x500000 rfl rfl
  obtain ⟨-, -, -, -, detach⟩ := valid (by rw [zero]; decide) (by rw [zero]; exact handle)
  have sync : oneNoteHandle.list.sync.toNat = 0x800000 := rfl
  obtain ⟨t, -, -, run, -, -, record, -⟩ := detach accordPage accordPage twiceListedReleased runs (by decide) note word rfl
    (by decide) rfl rfl (by decide) twiceListedVersion_releases (by rintro ⟨e, he, -⟩; exact absurd he List.not_mem_nil)
    acknowledged ⟨fun i _ => twiceListedReleased_plain _, fun j _ => .inr (by rw [own]; exact twiceListedReleased_plain _)⟩
    (fun i j hi hj => by rw [sync, accordPage_phys (by omega)]; omega)
    (fun i j hi hj => by rw [sync, accordPage_phys (by omega), accordPage_phys (by omega)]; omega) (by decide)
  have done : twiceListedDetached = t := by
    unfold twiceListedDetached
    rw [show execAccDetach detachFirst twiceListedVersion = .next t from run]
  obtain ⟨shown, written⟩ := twiceListedDetached_version
  rw [done, record, written] at shown
  exact absurd shown (by decide)

end Sys2Proof.Machine
end

section
/-!
The abandonment of a load that had known faulters (R187, R199): the trap that is held for them.
-/

namespace Sys2Proof.Machine

open Sys2Proof

/-- A load of threads 0 and 1, issued in cycle 0: thread 0 has faulted with 0x07, and thread 1 still waits for its value. -/
def halfFaultedLoad : Op :=
  { g := ⟨0, 0, 0, 0⟩, launch := 0, kind := .load, counter := 0, path := 0, due := 20000, writes := [⟨1, 2, 0⟩]
    faults := [⟨0, 0x07, 0x40000000⟩], tags := [], vas := [(1, 0x200000)], omask := 3, kindByte := 0, iw0 := 0
    slot := false, len := 8, hand := false, issued := 0 }

/-- Its group has been stopped since cycle 0, its split held at the load, and the 4 µs of the drain are over. -/
def drainOver : State :=
  let s := State.reset.placed []
  { s with
    clock := { s.clock with cycle := drainBound }
    cur := { s.cur with stop := some 0, cntL := 1, sp := { s.cur.sp with wait := .op 7, charged := true } }
    eng := { s.eng with ops := [(7, halfFaultedLoad)] } }

/-- The trap that the model holds for thread 0: it carries the cycle in which the load was issued. -/
def knownFaultTrap : HeldTrap :=
  { faults := [⟨0, 0x07, 0x40000000⟩], kind := 0, omask := 3, iw0 := 0, slot := false, counter := 4, deferred := false
    issued := 0 }

/-- The group has stopped 10,800 cycles ago. -/
theorem drainOver_late : drainOver.group? drainOver.cur.id = some drainOver.cur ∧ drainOver.cur.stop = some 0 ∧
    ¬drainOver.clock.cycle < 0 + 10800 := by decide +kernel

/-- The load is abandoned, and the trap of thread 0 is the only one held. -/
theorem drainOver_abandons :
    ((drainOver.abandon drainOver.cur.id).group? drainOver.cur.id).map (fun h => h.held) = some [knownFaultTrap] := by
  decide +kernel

/-- Refutes O54: the clause on the abandonment of loads names every field of a trap held for known faulters but the cycle of the
issue, so that it has every such trap be held, whatever its cycle. The model holds one, with the cycle in which the load was issued
(R208, R435): after `drainOver` the trap with cycle 0, and not the one with cycle 1. The condition `d.issued = e.2.issued` is missing
from the clause. -/
theorem not_preemption : ¬ Obligations.Preemption := by
  unfold Obligations.Preemption
  rintro ⟨-, resident, -⟩
  obtain ⟨found, stop, late⟩ := drainOver_late
  obtain ⟨-, -, -, ⟨-, abandons⟩, -⟩ := resident drainOver drainOver.cur.id drainOver.cur found
  obtain ⟨t, h, run, -, own, -, -, -, -, held⟩ := abandons fun early => late (early 0 stop)
  have done : drainOver.abandon drainOver.cur.id = t := by injection run
  have only : h.held = [knownFaultTrap] := by
    have := drainOver_abandons
    rw [done, own] at this
    exact Option.some.inj this
  have load : (7, halfFaultedLoad) ∈ drainOver.eng.ops := List.mem_singleton.mpr rfl
  have other : { knownFaultTrap with issued := 1 } ∈ h.held :=
    (held _).mpr (.inr ⟨_, load, ⟨rfl, rfl, nofun⟩, List.cons_ne_nil _ _, rfl, rfl, rfl, rfl, rfl, rfl, rfl⟩)
  rw [only] at other
  exact absurd other (by decide)

end Sys2Proof.Machine
end

section
/-!
A pass of a traversal engine (R104, R106) over a table of rays that is not in rising order.
-/

namespace Sys2Proof.Machine

open Sys2Proof

/-- A ray of queue 0 of stack 0 for which the predictor has proposed a leaf; its partition has no tables. -/
def proposedRay : Ray := { State.reset.newRay .closest 0 0 0 0 0 0 0 with place := .queued 0 0 false false, proposal := some 0 }

/-- The same ray, held by engine 0 of stack 0. -/
def heldRay : Ray := { proposedRay with place := .held 0 0 }

/-- The state after reset with two rays: the table lists the second, which the engine holds, under the smaller identifier. -/
def fallingRays : State :=
  { State.reset with eng := { State.reset.eng with rays := [(1, proposedRay), (0, heldRay)] }, nextId := 2 }

/-- The test drops the proposal, which names no leaf of the scene, and the ray stays with its engine. -/
def droppedProposal : Tested := ⟨{ heldRay with proposal := none }, none, none, none⟩

/-- The identifiers are distinct and below the next one, the engine holds the ray, and the pass is due. -/
theorem fallingRays_due : (fallingRays.eng.rays.map fun e => e.1).Nodup ∧
    (∀ e ∈ fallingRays.eng.rays, e.1 < fallingRays.nextId) ∧ fallingRays.heldRays 0 0 = [(0, heldRay)] ∧
    heldRay.due ≤ fallingRays.clock.cycle ∧ fallingRays.requestsLeft 0 = false := by decide +kernel

theorem fallingRays_test : fallingRays.testRay heldRay 0 = .ok droppedProposal ∧ droppedProposal.go.2 = .stay ∧
    droppedProposal.go.1.proposal = none := by decide +kernel

/-- The tested ray is set before the first entry, and the old entry of its identifier stays; the engine still holds it as well, and the
end of the pass writes it over the tested one. -/
theorem fallingRays_pass : (Tab.get? 0 (fallingRays.pass 0 0).eng.rays).map (fun r => r.proposal) = some (some 0) := by
  decide +kernel

/-- Refutes O39: the clause on a pass has each ray that stays be as its test left it wherever the identifiers of the rays are distinct.
In a table that is not in rising order (`fallingRays`) the old entry of the tested ray remains, and the ray keeps the proposal that its
test has dropped. The hypothesis that the table of rays is in rising order, as `Tab.set` keeps it, is missing from the clause. -/
theorem not_rayTraversal : ¬ Obligations.RayTraversal := by
  unfold Obligations.RayTraversal
  rintro ⟨-, -, -, pass, -⟩
  obtain ⟨distinct, below, held, due, served⟩ := fallingRays_due
  obtain ⟨test, stays, dropped⟩ := fallingRays_test
  obtain ⟨-, passes⟩ := pass fallingRays 0 0 distinct below nofun
  rw [held] at passes
  obtain ⟨t, run, -, -, -, -, each⟩ := passes (List.cons_ne_nil _ _) fun e he => by
    obtain rfl := List.mem_singleton.1 he
    exact ⟨due, served⟩
  obtain ⟨-, tested⟩ := each [] (0, heldRay) [] rfl
  obtain ⟨kept, -⟩ := tested droppedProposal test
  obtain ⟨q, own, asTested⟩ := kept stays
  have done : fallingRays.pass 0 0 = t := by injection run
  have cleared : q.proposal = none := by rw [asTested]; exact dropped
  have shown := fallingRays_pass
  rw [done, own, Option.map_some, cleared] at shown
  exact absurd shown (by decide)

end Sys2Proof.Machine
end

section
/-!
The completion of a draw (R118) over a memory that is not in canonical form.
-/

namespace Sys2Proof.Machine

open Sys2Proof

/-- A draw that has ended with status 0 and no pixel, and whose completion record is at 0x300000. -/
def finishedDraw : Draw :=
  { die := 0, g := ⟨0, 0, 0, 0⟩, launch := 0, part := 0, rec_ := 0x300000 * 2 ^ 448, phase := .finished, status := 0
    pixels := 0, redo := 0, rejected := 0, due := 0 }

/-- Its partition owns no way of a die buffer, and memory lists the first byte of the record twice. -/
def twiceListedRecord : State :=
  let s := State.reset.placed []
  { s with mem := (0x300000, 5) :: (0x300000, 7) :: s.mem, eng := { s.eng with draws := [finishedDraw] } }

/-- The page of the record maps each address to itself. -/
theorem bindPage_phys {va : Nat} (h : va < 2 ^ 48) : bindPage.phys va = va := by
  show (0 + (va - 0)) % 2 ^ 48 = va
  omega

/-- The completion is due, and its record stands on a page that may be written. -/
theorem twiceListedRecord_due : twiceListedRecord.doneDraw 0 = some finishedDraw ∧
    twiceListedRecord.requestsLeft (drawKey 0) = false ∧ finishedDraw.compl = 0x300000 ∧
    twiceListedRecord.unitMap 0 0x300000 32 true = .ok bindPage := by decide +kernel

/-- The record leaves the die buffer at once, its first zero removes the first entry of that byte, and the second one shows. -/
theorem twiceListedRecord_status :
    field (leNat ((twiceListedRecord.drawCompletion 0).mapBytes bindPage 0x300000 32)) 0 32 = 7 := by decide +kernel

/-- Refutes O40: the clause on the completion of a draw has its record be read back in every state, also in one whose memory is not in
canonical form (`twiceListedRecord`): there the status reads 7 where the draw has ended with 0. The hypothesis that memory is in
canonical form (O59, O60), on which `BytesBut` rests, is missing from the clause. -/
theorem not_filterAndRaster : ¬ Obligations.FilterAndRaster := by
  unfold Obligations.FilterAndRaster
  rintro ⟨-, -, -, completion⟩
  obtain ⟨ended, served, place, page⟩ := twiceListedRecord_due
  obtain ⟨-, completes⟩ := completion twiceListedRecord 0 finishedDraw bindPage ended
  rw [place] at completes
  obtain ⟨t, run, -, ⟨status, -⟩, -⟩ := completes (Nat.le_refl 0) served (by decide) page (by decide)
    (fun _ _ => State.oneHome_of_empty rfl rfl) rfl (by decide) fun i j hi hj => by
      rw [bindPage_phys (by omega), bindPage_phys (by omega)]
      omega
  have done : twiceListedRecord.drawCompletion 0 = t := by injection run
  have seven := twiceListedRecord_status
  rw [done, status] at seven
  exact absurd seven (by decide)

end Sys2Proof.Machine
end

section
/-!
The answer to a page request (R133) over a memory that is not in canonical form.
-/

namespace Sys2Proof.Machine

open Sys2Proof

/-- A request that has been sent, for the second GiB of the address space of the group that sleeps on it. -/
def sentRequest : PriGroup := { index := 3, g := ⟨0, 0, 0, 0⟩, pages := [2 ^ 30], fn := 1, sent := true }

/-- The leaf of that page is absent and host-backed. Memory lists its second byte twice, first with 0, and the partition owns no way
of a die buffer. -/
def twiceListedLeaf : State :=
  let s := State.reset.placed []
  { s with
    mem := (0x20008, 0x20) :: (0x20009, 0) :: (0x20009, 7) :: s.mem
    cur := { s.cur with hold := .pages 3 }
    host := { s.host with pri := [sentRequest] } }

/-- The group sleeps outside handler mode, and the walk of its page ends at the absent leaf, which reads 0x20. -/
theorem twiceListedLeaf_asleep : twiceListedLeaf.sec.state ≠ .locked ∧ sentRequest.g = twiceListedLeaf.cur.id ∧
    twiceListedLeaf.cur.live = true ∧ twiceListedLeaf.cur.hand = none ∧ twiceListedLeaf.cur.held = [] ∧
    twiceListedLeaf.walk twiceListedLeaf.cur.part (2 ^ 30) = .absent 2 true true 0x20008 ∧
    twiceListedLeaf.homeNat 0x20008 8 = 0x20 := by decide +kernel

/-- The leaf's line leaves the die buffer at once, the zero of its second byte removes that byte's first entry, and the second one
shows. -/
theorem twiceListedLeaf_answered : (twiceListedLeaf.priResponse 3 .success).homeNat 0x20008 8 = 0x721 := by decide +kernel

/-- Refutes O42: the clause on answers to page requests has the answer Success add 1 to the absent leaf in every state, also in one
whose memory is not in canonical form (`twiceListedLeaf`): there the leaf reads 0x721 where it held 0x20. The hypothesis that memory
is in canonical form (O59, O60), which the clause on `pfmap` has, is missing from the clause. -/
theorem not_pageMappings : ¬ Obligations.PageMappings := by
  unfold Obligations.PageMappings
  rintro ⟨-, -, -, -, -, answers⟩
  obtain ⟨unlocked, own, live, hand, held, absent, leaf⟩ := twiceListedLeaf_asleep
  obtain ⟨-, -, answered⟩ := answers twiceListedLeaf 3 .success
  obtain ⟨success, -⟩ := answered sentRequest (2 ^ 30) unlocked rfl rfl rfl own live hand held rfl ⟨3, rfl⟩
  obtain ⟨t, run, -, -, present, -⟩ := success rfl 2 true 0x20008 absent (by decide) fun _ _ => State.oneHome_of_empty rfl rfl
  have done : twiceListedLeaf.priResponse 3 .success = t := by injection run
  have shown := twiceListedLeaf_answered
  rw [done, present, leaf] at shown
  exact absurd shown (by decide)

end Sys2Proof.Machine
end

section
/-!
SUPPORT. The mailbox and its management port (R121, R122): every command is a command of its class, and what the mailbox answers before
one runs; the command that an opcode names; the keys of the management sessions.
-/

namespace Sys2Proof.Machine

open Sys2Proof

/-! ### Commands by their class (R121) -/

/-- The commands of the mailbox with their classes. -/
def commandClasses (m : Mcmd) (op : BitVec 16) : List (Instr × CmdClass) :=
  [(.pcreate m, .partition), (.pdestroy m, .partition), (.pgrant m, .partition), (.prevoke m, .partition),
    (.pbases m, .partition), (.ctxwr m, .partition), (.drydn m, .partition), (.pquery m, .partition), (.repairCore m, .other),
    (.repairRow m, .other), (.repairLane m, .other), (.apolicy m, .other), (.resume m, .other), (.reset m, .reset),
    (.attest m, .attest), (.fwstage m, .other), (.fwswitch m, .other), (.dbgnonce m, .other), (.dbggrant m, .other),
    (.dbgrevoke m, .other), (.unknownOpcode op m, .other)]

theorem not_listedOpcode {n : Nat} (h : n = 0 ∨ 18 < n) : ¬listedOpcode n = true := by
  simp only [listedOpcode, Bool.and_eq_true, decide_eq_true_eq]
  omega

theorem execUnknownOpcode_eq {op : BitVec 16} (h : op.toNat = 0 ∨ 18 < op.toNat) (m : Mcmd) (s : State) :
    exec (.unknownOpcode op m) s = .next (s.command m .other fun _ s => (6, [], s)) :=
  congrArg Host.Outcome.next (if_neg (not_listedOpcode h))

/-- Every command runs as one of its class. -/
theorem exec_commandClasses (s : State) {m : Mcmd} {op : BitVec 16} (hop : op.toNat = 0 ∨ 18 < op.toNat)
    {e : Instr × CmdClass} (he : e ∈ commandClasses m op) : ∃ run, exec e.1 s = .next (s.command m e.2 run) := by
  simp only [commandClasses, List.mem_cons, List.not_mem_nil, or_false] at he
  rcases he with rfl | rfl | rfl | rfl | rfl | rfl | rfl | rfl | rfl | rfl | rfl | rfl | rfl | rfl | rfl | rfl | rfl | rfl | rfl | rfl | rfl
  on_goal 21 => exact ⟨_, execUnknownOpcode_eq hop m s⟩
  all_goals exact ⟨_, rfl⟩

section
variable {s : State} {m : Mcmd} {c : CmdClass} {run : List Byte → State → Reply}

/-- A command while one runs is discarded and logged. -/
theorem State.command_busy (h : s.host.box.running.isSome = true) : s.command m c run = s.logPf .mailboxAccess := if_pos h

/-- A command that the state of the module refuses answers the code of the refusal. -/
theorem State.command_refused {code : Nat} (hb : s.host.box.running = none) (hr : s.refusal m c = some code) :
    s.command m c run = s.answering m code [] := by
  simp only [State.command, hb, hr, Option.isSome_none, Bool.false_eq_true, if_false]
  rfl

/-! ### The refusals (R121), in their order -/

theorem State.refusal_reserved (h : m.reserved ≠ 0) : s.refusal m c = some 2 := if_pos (bne_iff_ne.2 h)

theorem State.refusal_bootFailed (hm : m.reserved = 0) (hf : s.sec.bootFailed = true) (hc : c ≠ .attest) :
    s.refusal m c = some 4 := by
  simp [State.refusal, hm, hf, hc]

theorem State.refusal_locked (hm : m.reserved = 0) (hf : s.sec.bootFailed = false) (hl : s.sec.state = .locked)
    (ha : c ≠ .attest) (hr : c ≠ .reset) : s.refusal m c = some 5 := by
  simp [State.refusal, hm, hf, hl, ha, hr]

theorem State.refusal_unattested (hm : m.reserved = 0) (hf : s.sec.bootFailed = false) (hl : s.sec.state ≠ .locked)
    (ha : s.sec.attestedOnce = false) : s.refusal m .partition = some 5 := by
  simp [State.refusal, hm, hf, hl, ha]

theorem State.refusal_closed (hm : m.reserved = 0) (hf : s.sec.bootFailed = false) (hl : s.sec.state ≠ .locked)
    (ha : s.sec.attestedOnce = true) (ho : s.clock.open_ = false) : s.refusal m .partition = some 3 := by
  simp [State.refusal, hm, hf, hl, ha, ho]

end

/-! ### The command of an opcode (R122) -/

/-- The operand bytes of a session's command are its own, and zero behind them. -/
theorem State.opByte_session (s : State) (tag : BitVec 16) (reserved : BitVec 32) (l : List Byte) :
    opByte (s.operands ⟨tag, reserved, some l⟩) 0 = opByte l 0 := by
  cases l <;> rfl

section
variable {s : State} {m : Mcmd}

theorem execRepair_core (h : opByte (s.operands m) 0 = 0) : execRepair m s = exec (.repairCore m) s := by
  rw [execRepair, h]; rfl

theorem execRepair_row (h : opByte (s.operands m) 0 = 1) : execRepair m s = exec (.repairRow m) s := by
  rw [execRepair, h]; rfl

theorem execRepair_lane (h : opByte (s.operands m) 0 = 2) : execRepair m s = exec (.repairLane m) s := by
  rw [execRepair, h]; rfl

end

/-- The commands of R122 by their opcodes, with the byte 0 by which REPAIR is told apart. -/
def listedCommands (m : Mcmd) (byte : Nat) : List (Nat × Instr × Prop) :=
  [(1, .pcreate m, True), (2, .pdestroy m, True), (3, .pgrant m, True), (4, .prevoke m, True),
    (5, .pbases m, True), (6, .ctxwr m, True), (7, .drydn m, True), (8, .pquery m, True), (9, .repairCore m, byte = 0),
    (9, .repairRow m, byte = 1), (9, .repairLane m, byte = 2), (10, .apolicy m, True), (11, .resume m, True),
    (12, .reset m, True), (13, .attest m, True), (14, .fwstage m, True), (15, .fwswitch m, True), (16, .dbgnonce m, True),
    (17, .dbggrant m, True), (18, .dbgrevoke m, True)]

/-- The command word of an opcode runs the command that R122 lists for it. -/
theorem commandOf_listed (s : State) {m : Mcmd} {op : BitVec 16} {e : Nat × Instr × Prop}
    (he : e ∈ listedCommands m (opByte (s.operands m) 0)) (hop : op.toNat = e.1) (hb : e.2.2) :
    commandOf op m s = exec e.2.1 s := by
  unfold commandOf
  rw [hop]
  simp only [listedCommands, List.mem_cons, List.not_mem_nil, or_false] at he
  rcases he with rfl | rfl | rfl | rfl | rfl | rfl | rfl | rfl | rfl | rfl | rfl | rfl | rfl | rfl | rfl | rfl | rfl | rfl | rfl | rfl
  on_goal 11 => exact execRepair_lane hb
  on_goal 10 => exact execRepair_row hb
  on_goal 9 => exact execRepair_core hb
  all_goals rfl

/-! ### Sessions (R121) -/

theorem exec_sealed_none {s : State} {bytes : List Byte} (h : ∀ k ∈ s.sec.sessions, Config.gcmVerifies k bytes = false) :
    exec (.managementSession (.sealed bytes)) s = .next s := by
  have hf : s.sec.sessions.find? (fun k => Config.gcmVerifies k bytes) = none :=
    List.find?_eq_none.2 fun k hk => Bool.eq_false_iff.1 (h k hk)
  show execManagementSession (.sealed bytes) s = _
  simp only [execManagementSession, hf]

/-- A message runs its command under the first session key under which it authenticates. -/
theorem exec_sealed_first {s : State} {bytes : List Byte} {k : BitVec 256} {pre post : List (BitVec 256)}
    (hs : s.sec.sessions = pre ++ k :: post) (hpre : ∀ j ∈ pre, Config.gcmVerifies j bytes = false)
    (hk : Config.gcmVerifies k bytes = true) :
    exec (.managementSession (.sealed bytes)) s = sessionCommand (Config.gcmOpen k bytes) (s.useSession k) := by
  have hn : pre.find? (fun k => Config.gcmVerifies k bytes) = none :=
    List.find?_eq_none.2 fun j hj => Bool.eq_false_iff.1 (hpre j hj)
  have hf : s.sec.sessions.find? (fun k => Config.gcmVerifies k bytes) = some k := by
    rw [hs, List.find?_append, hn, Option.none_or, List.find?_cons, hk]
  show execManagementSession (.sealed bytes) s = _
  simp only [execManagementSession, hf]

end Sys2Proof.Machine
end

section
/-!
O47. The mailbox: refusals by the laws of its commands, completion, and the management port.
-/

namespace Sys2Proof.Machine

open Sys2Proof

/-- Each command is refused by the class that R121 gives it. -/
theorem command_turned {s : State} {m : Mcmd} {i : Instr} {c : CmdClass} {run : List Byte → State → Reply} {code : Nat}
    (hx : exec i s = .next (s.command m c run)) (hb : s.host.box.running = none) (hr : s.refusal m c = some code) :
    Turned i s m code :=
  hx.trans (congrArg Host.Outcome.next (State.command_refused hb hr))

theorem mailboxComplete_own {s : State} {r : Running} (hr : s.host.box.running = some r) (ho : r.session = false) :
    exec .mailboxComplete s = .next { s with host := { s.host with
      box := { s.host.box with running := none, mres := r.result, rlen := r.result.length, tag := r.tag, code := r.code }
      msix := s.host.msix ++ [(512, 0)] } } := by
  show execMailboxComplete s = _
  simp only [execMailboxComplete, hr, ho, Bool.false_eq_true, if_false]
  rfl

/-- The result of a session's command is sealed under the key in front. -/
theorem mailboxComplete_session {s : State} {r : Running} {k : BitVec 256} {ks : List (BitVec 256)}
    (hr : s.host.box.running = some r) (ho : r.session = true) (hk : s.sec.sessions = k :: ks) :
    exec .mailboxComplete s = .next { s with host := { s.host with
      box := { s.host.box with running := none, port := s.host.box.port ++ [Config.gcmSeal k
        (leBytes 8 (r.result.length * 2 ^ 32 + r.tag.toNat * 2 ^ 16 + r.code * 2 ^ 8) ++ r.result)] } } } := by
  show execMailboxComplete s = _
  simp only [execMailboxComplete, hr, ho, if_true, State.sealResult, hk]

/-- Settles O47: every command is one of its class, which the state of the module refuses in the order of R121; completion and the
management port act on the mailbox alone. -/
theorem mailboxRules : Obligations.MailboxRules := by
  refine ⟨fun s m op e he hop => ?_, fun s m op hop ha => ?_, fun s hb => ?_, fun s r hr => ⟨?_, fun k ks => ?_⟩,
    fun s share => ⟨fun h => ?_, fun hl hf => ?_, rfl⟩, fun s bytes => ⟨exec_sealed_none, ?_⟩⟩
  · obtain ⟨run, hx⟩ := exec_commandClasses s hop he
    refine ⟨fun hb => hx.trans (congrArg Host.Outcome.next (State.command_busy hb)), fun hb => ⟨fun hm => ?_, fun hm hf hc => ?_,
      fun hm hf hl hc hr => ?_, fun hm hf hl hc => ⟨fun ha => ?_, fun ha ho => ?_⟩⟩⟩
    · exact command_turned hx hb (State.refusal_reserved hm)
    · exact command_turned hx hb (State.refusal_bootFailed hm hf hc)
    · exact command_turned hx hb (State.refusal_locked hm hf hl hc hr)
    · exact command_turned hx hb (hc ▸ State.refusal_unattested hm hf hl ha)
    · exact command_turned hx hb (hc ▸ State.refusal_closed hm hf hl ha ho)
  · exact turned_of_run (execUnknownOpcode_eq hop m s) ha rfl
  · show execMailboxComplete s = _
    simp only [execMailboxComplete, hb]
  · exact mailboxComplete_own hr
  · exact mailboxComplete_session hr
  · exact if_pos (by simpa using h)
  · refine ⟨_, if_neg (by simp [hl, hf]), rfl, rfl, rfl, ?_⟩
    exact List.length_append
  · intro k pre post hs hpre hk l w m repair e he hop hb
    rw [exec_sealed_first hs hpre hk]
    refine commandOf_listed (s.useSession k) (m := m) ?_ hop hb
    rw [State.opByte_session]
    exact he

end Sys2Proof.Machine
end

section
/-!
SUPPORT. Doorbells, ring entries and the boot chain (R41, R129, R130, R134): each operation by the case that holds.
-/

namespace Sys2Proof.Machine

open Sys2Proof

/-! ### Doorbells (R129, R130) -/

/-- Doorbells are processed in a partition that runs, in a module that is neither halted nor locked. -/
theorem State.ringing_iff (s : State) (p : Nat) : s.ringing p = true ↔
    (s.part p).dry = .running ∧ s.sec.state ≠ .halted ∧ s.sec.state ≠ .locked := by
  rw [State.ringing, Bool.and_eq_true, beq_iff_eq]
  cases s.sec.state <;> simp

section
variable {s : State} {vf offset c : Nat} {value : Word} {x : Ctx}

theorem State.doorbell_locked (h : s.sec.state = .locked) : s.doorbell vf offset value = s := if_pos (beq_iff_eq.2 h)

theorem State.doorbell_unnamed (hl : s.sec.state ≠ .locked) (h : (s.ctxsOf vf).length ≤ offset / 8) :
    s.doorbell vf offset value = s.logPf .doorbell := by
  simp [State.doorbell, hl, List.getElem?_eq_none h]

section
variable (hl : s.sec.state ≠ .locked) (hx : (s.ctxsOf vf)[offset / 8]? = some (c, x))
include hl hx

theorem State.doorbell_misplaced (h : offset % 8 ≠ 0 ∨ 2 ^ 16 ≤ offset) :
    s.doorbell vf offset value = s.logPf .doorbell := by
  have hb : (offset % 8 != 0 || Decidable.decide (2 ^ 16 ≤ offset)) = true := by simpa using h
  simp only [State.doorbell, beq_iff_eq, hl, if_false, hx, hb, if_true]

variable (ho : offset % 8 = 0) (hs : offset < 2 ^ 16)
include ho hs

/-- A doorbell in its place: held, discarded, or the write of its context. -/
theorem State.doorbell_placed : s.doorbell vf offset value =
    if s.ringing x.part = false then
      { s with host := { s.host with heldDoorbells := s.host.heldDoorbells ++ [(vf, offset, value)] } }
    else if 2 ^ 32 ≤ value.toNat then s.logPf .doorbell else s.newTail c x (value.setWidth 32) := by
  have hb : ¬(offset % 8 != 0 || Decidable.decide (2 ^ 16 ≤ offset)) = true := by simp; omega
  simp only [State.doorbell, beq_iff_eq, hl, if_false, hx, hb, Bool.false_eq_true, Bool.not_eq_true']

end

/-- A new TAIL lies beyond HEAD by the difference modulo 2^32. -/
theorem tail_beyond (v : Word) (head : BitVec 32) (hv : v.toNat < 2 ^ 32) :
    (v.setWidth 32 - head).toNat = (v.toNat + 2 ^ 32 - head.toNat) % 2 ^ 32 := by
  rw [BitVec.toNat_sub, BitVec.toNat_setWidth, Nat.mod_eq_of_lt hv]
  have := head.isLt
  congr 1
  omega

theorem State.newTail_faulted (h : x.fault = true) (t : BitVec 32) : s.newTail c x t = s := if_pos h

theorem State.newTail_beyond {t : BitVec 32} (h : x.fault = false) (ht : 2 ^ x.rsize < (t - x.head).toNat) :
    s.newTail c x t = (s.updCtx c fun x => { x with fault := true }).msix x.vf x.msix := by
  simp only [State.newTail, h, Bool.false_eq_true, if_false, ht, if_true]

theorem State.newTail_within {t : BitVec 32} (h : x.fault = false) (ht : (t - x.head).toNat ≤ 2 ^ x.rsize) :
    s.newTail c x t = s.updCtx c fun x => { x with tail := t } := by
  simp only [State.newTail, h, Bool.false_eq_true, if_false, Nat.not_lt.2 ht]

/-- A changed context, and every other one as it was. -/
theorem State.updCtx_ctxs (h : Tab.get? c s.host.ctxs = some x) (f : Ctx → Ctx) :
    Tab.get? c (s.updCtx c f).host.ctxs = some (f x) ∧
    ∀ k, k ≠ c → Tab.get? k (s.updCtx c f).host.ctxs = Tab.get? k s.host.ctxs := by
  refine ⟨?_, fun k hk => (Tab.get?_update _ _ _ _).trans (if_neg hk)⟩
  exact (Tab.get?_update _ _ _ _).trans (by rw [if_pos rfl, h]; rfl)

end

/-! ### Contexts that are cleared (R131) -/

theorem State.clearCtxs_ctxs (s : State) (f : Ctx → Bool) : (s.clearCtxs f).host.ctxs = s.host.ctxs.map fun (e : Nat × Ctx) =>
    (e.1, if f e.2 then e.2.cleared (s.host.pendingRing.contains e.1) else e.2) := by
  refine List.map_congr_left fun e _ => ?_
  split <;> rfl

/-- The contexts that a test names are no longer valid. -/
theorem State.clearCtxs_valid (s : State) (f : Ctx → Bool) :
    ∀ e ∈ (s.clearCtxs f).host.ctxs, f e.2 = true → e.2.valid = false := by
  intro e he
  rw [s.clearCtxs_ctxs] at he
  obtain ⟨d, -, rfl⟩ := List.mem_map.1 he
  dsimp only
  split
  · exact fun _ => rfl
  · next h => exact fun hd => absurd hd h

/-- The status word of a mailbox whose registers have their reset values (R119, R121). -/
theorem Mailbox.status_reset (b : Mailbox) (l : List Byte) :
    { b with mopnd := l, mres := [], rlen := 0, tag := 0, code := 0, running := none }.status = 0 := by
  simp [Mailbox.status]

/-! ### Ring entries (R130) -/

theorem State.ringReady_iff (s : State) (c : Nat) (x : Ctx) : s.ringReady c x = true ↔ x.valid = true ∧ x.fault = false ∧
    x.head ≠ x.tail ∧ (s.part x.part).dry = .running ∧ s.sec.state ≠ .halted ∧ s.sec.state ≠ .locked ∧
    c ∉ s.host.pendingRing := by
  simp only [State.ringReady, Bool.and_eq_true, s.ringing_iff, Bool.not_eq_true', bne_iff_ne, List.contains_eq_mem,
    decide_eq_false_iff_not, and_assoc]

theorem State.ringEntry_none {s : State} {c : Nat} (h : Tab.get? c s.host.ctxs = none) : s.ringEntry c = s := by
  simp only [State.ringEntry, h]

section
variable {s : State} {c : Nat} {x : Ctx}

theorem State.ringEntry_waiting (h : Tab.get? c s.host.ctxs = some x) (hr : ¬s.ringReady c x = true) : s.ringEntry c = s := by
  simp only [State.ringEntry, h, hr, Bool.not_false, if_true]

/-- The packet of the ring entry at HEAD. -/
def State.ringPacket (s : State) (x : Ctx) : Packet :=
  packetOf (leNat (s.host.mem.bytes (x.ringBase.toNat + 64 * (x.head.toNat % 2 ^ x.rsize)) 64))

/-- The state once a context has presented its entry. -/
def State.ringPresented (s : State) (c : Nat) (x : Ctx) : State :=
  let t := (s.present x.part 0 (.ring c) (s.ringPacket x)).2
  { t with host := { t.host with pendingRing := t.host.pendingRing ++ [c] } }

theorem State.ringEntry_ready (h : Tab.get? c s.host.ctxs = some x) (hr : s.ringReady c x = true) :
    s.ringEntry c = s.ringPresented c x := by
  simp only [State.ringEntry, h, hr, Bool.not_true, Bool.false_eq_true, if_false]
  rfl

end

/-! ### The boot chain (R41, R134) -/

/-- An image that passes the check of R134 stands in a slot. -/
def Bootable (fused : Nat) (i : Option Image) : Prop :=
  ∃ j, i = some j ∧ Config.rootVerifies j.bytes = true ∧ fused ≤ j.svn

theorem any_good_iff (fused : Nat) (i : Option Image) : i.any (fun i => i.good fused) = true ↔ Bootable fused i := by
  cases i <;> simp [Bootable, Image.good]

section
variable (f : Firmware) (fused : Nat)

theorem Firmware.chosen_isSome : (f.chosen fused).isSome = true ↔ Bootable fused f.a ∨ Bootable fused f.b := by
  rw [← any_good_iff, ← any_good_iff, Firmware.chosen]
  cases f.a.any (fun i => i.good fused) <;> cases f.b.any (fun i => i.good fused) <;> simp

/-- Image B runs where A does not pass and B does. -/
theorem Firmware.booted_runB : (f.booted fused).runB = true ↔ ¬Bootable fused f.a ∧ Bootable fused f.b := by
  rw [← any_good_iff, ← any_good_iff, Firmware.booted, Firmware.chosen]
  cases f.a.any (fun i => i.good fused) <;> cases f.b.any (fun i => i.good fused) <;> simp

end

/-- A table made of a list of keys. -/
theorem Tab.get?_ofKeys {α : Type} (f : Nat → α) (k : Nat) (l : List Nat) :
    Tab.get? k (l.map fun n => (n, f n)) = if k ∈ l then some (f k) else none := by
  induction l with
  | nil => rfl
  | cons n l ih =>
    rw [List.map_cons, Tab.get?, ih]
    by_cases h : k = n
    · simp [h]
    · simp [h]

theorem mem_filter_snd (n u : Nat) (l : List (Nat × Nat)) :
    u ∈ (l.filter fun e => e.1 == n).map (fun e => e.2) ↔ (n, u) ∈ l := by
  simp

/-- After a boot the modes of the units are those that the management port sets (R41). -/
theorem State.boot_modes (s : State) (b : BootIn) {n : Nat} (hn : n < 12) (u : Nat) :
    let k := Tab.getD ((s.setModes b).stks.map fun (e : Nat × Stack) => (e.1, e.2.rebooted)) n Stack.empty
    (u ∈ k.hbmCache ↔ (n, u) ∈ b.hbmCache) ∧ (u ∈ k.tierCache ↔ (n, u) ∈ b.tierCache) := by
  intro k
  have hk : k = Stack.rebooted { s.stack n with
      hbmCache := (b.hbmCache.filter fun e => e.1 == n).map fun e => e.2
      tierCache := (b.tierCache.filter fun e => e.1 == n).map fun e => e.2 } := by
    show (Tab.get? n _).getD Stack.empty = _
    rw [Tab.get?_map (fun _ (k : Stack) => k.rebooted), State.setModes, Tab.get?_ofKeys, if_pos (List.mem_range.2 hn)]
    rfl
  rw [hk]
  exact ⟨mem_filter_snd n u b.hbmCache, mem_filter_snd n u b.tierCache⟩

/-- What the boot chain leaves of a state (R134, R139), whether it ends or fails. -/
theorem State.bootChain_spec (s : State) : s.bootChain.sec = { State.reset.sec with
      bootFailed := !((s.sec.ctlFw.chosen s.sec.fusedSvn).isSome && (s.sec.devFw.chosen s.sec.fusedSvn).isSome)
      ctlFw := s.sec.ctlFw.booted s.sec.fusedSvn, devFw := s.sec.devFw.booted s.sec.fusedSvn
      fusedSvn := s.sec.fusedSvn, randoms := s.sec.randoms } ∧
    s.bootChain.clock = { State.reset.clock with rtc := s.clock.rtc } ∧ s.bootChain.fabric.devid = s.fabric.devid ∧
    s.bootChain.poison = s.poison ∧ s.bootChain.stks = s.stks.map fun (e : Nat × Stack) => (e.1, e.2.rebooted) := by
  unfold State.bootChain
  dsimp only
  split <;> exact ⟨rfl, rfl, rfl, rfl, rfl⟩

end Sys2Proof.Machine
end

section
/-!
O50. The host side: one theorem per clause of the statement.
-/

namespace Sys2Proof.Machine

open Sys2Proof

/-- BOOT (R27, R35, R41, R134, R139). -/
theorem boot_spec (s : State) (b : BootIn) :
    let ok := fun (f : Firmware) => Bootable s.sec.fusedSvn f.a ∨ Bootable s.sec.fusedSvn f.b
    ∃ t, exec (.boot b) s = .next t ∧ t.sec.state = .booted ∧ t.parts = [] ∧ t.groups = [] ∧ t.saved = [] ∧ t.launches = [] ∧
      t.sec.sessions = [] ∧ t.sec.attestedOnce = false ∧ t.fabric.devid = b.devid ∧ t.clock.rtc = b.rtc ∧ t.clock.cycle = 0 ∧
      t.clock.open_ = false ∧ t.mem = s.mem ∧ t.poison = s.poison ∧
      (t.sec.bootFailed = true ↔ ¬(ok s.sec.ctlFw ∧ ok s.sec.devFw)) ∧
      (t.sec.ctlFw.runB = true ↔ ¬Bootable s.sec.fusedSvn s.sec.ctlFw.a ∧ Bootable s.sec.fusedSvn s.sec.ctlFw.b) ∧
      (t.sec.devFw.runB = true ↔ ¬Bootable s.sec.fusedSvn s.sec.devFw.a ∧ Bootable s.sec.fusedSvn s.sec.devFw.b) ∧
      ∀ n u, n < 12 → (u ∈ (t.stack n).hbmCache ↔ (n, u) ∈ b.hbmCache) ∧ (u ∈ (t.stack n).tierCache ↔ (n, u) ∈ b.tierCache) := by
  intro ok
  let u : State := { s.setModes b with
    fabric := { s.fabric with devid := b.devid }, clock := { s.clock with rtc := b.rtc } }
  obtain ⟨hst, hparts, hgroups, hsaved, hlaunches, -, hmem⟩ := bootChain_fields u
  obtain ⟨hsec, hclock, hdev, hpoison, hstks⟩ := u.bootChain_spec
  refine ⟨u.bootChain, rfl, hst, hparts, hgroups, hsaved, hlaunches, ?_, ?_, hdev, ?_, ?_, ?_, hmem, hpoison, ?_, ?_, ?_,
    fun n v hn => ?_⟩
  · rw [hsec]; rfl
  · rw [hsec]; rfl
  · rw [hclock]
  · rw [hclock]; rfl
  · rw [hclock]; rfl
  · rw [hsec, Bool.not_eq_true', ← Bool.not_eq_true, Bool.and_eq_true, Firmware.chosen_isSome, Firmware.chosen_isSome]
    rfl
  · rw [hsec]; exact s.sec.ctlFw.booted_runB s.sec.fusedSvn
  · rw [hsec]; exact s.sec.devFw.booted_runB s.sec.fusedSvn
  · rw [State.stack, hstks]; exact s.boot_modes b hn v

/-- Settles O50: a doorbell, a ring entry and a reset act on the host side by the case that holds, and the boot chain runs the first
image that passes (R129-R131, R134). -/
theorem hostSide : Obligations.HostSide := by
  refine ⟨fun s vf offset value => ?_, fun s c => ⟨fun h => ?_, fun x hx => ?_⟩, fun s vf => ?_, fun s => ?_, boot_spec⟩
  · intro ws logged
    have ring : ∀ {t}, s.doorbell vf offset value = t → ws t := congrArg Host.Outcome.next
    refine ⟨fun h => ring (State.doorbell_locked h), fun hl h => ring (State.doorbell_unnamed hl h), fun c x hl hx hc => ?_⟩
    intro rings put
    have hr : s.ringing x.part = true ↔ rings := by rw [s.ringing_iff]; simp [hl, rings]
    refine ⟨fun h => ring (State.doorbell_misplaced hl hx h), fun ho hs => ?_⟩
    have placed := State.doorbell_placed (value := value) hl hx ho hs
    refine ⟨fun h => ring (placed.trans (if_pos (Bool.eq_false_iff.2 (mt hr.1 h)))), fun h hv => ?_, fun h hv hf => ?_,
      fun h hv hf ht => ?_, fun h hv hf ht => ?_⟩
    all_goals rw [if_neg (by rw [hr.2 h]; decide)] at placed
    · exact ring (placed.trans (if_pos hv))
    all_goals replace placed := placed.trans (if_neg (Nat.not_le.2 hv))
    · exact ring (placed.trans (State.newTail_faulted hf _))
    · obtain ⟨hown, hothers⟩ := State.updCtx_ctxs hc fun x => { x with fault := true }
      exact ⟨_, ring (placed.trans (State.newTail_beyond hf (by rwa [tail_beyond _ _ hv]))), ⟨hown, rfl, rfl, hothers, rfl⟩, rfl⟩
    · obtain ⟨hown, hothers⟩ := State.updCtx_ctxs hc fun x => { x with tail := value.setWidth 32 }
      exact ⟨_, ring (placed.trans (State.newTail_within hf (by rwa [tail_beyond _ _ hv]))), ⟨hown, rfl, rfl, hothers, rfl⟩, rfl⟩
  · exact congrArg Host.Outcome.next (State.ringEntry_none h)
  · intro ready bs
    refine ⟨fun h => congrArg Host.Outcome.next (State.ringEntry_waiting hx (mt (s.ringReady_iff c x).1 h)), fun h => ?_⟩
    exact ⟨s.ringPresented c x, newLaunch s.nextSeq x.part 0 (.ring c) (s.ringPacket x),
      congrArg Host.Outcome.next (State.ringEntry_ready hx ((s.ringReady_iff c x).2 h)), rfl, rfl,
      (Tab.get?_set _ _ _ _).trans (if_pos rfl), rfl, rfl, rfl, rfl, rfl, rfl, rfl, rfl, rfl⟩
  · let u : State := { s with host := { s.host with
      heldDoorbells := s.host.heldDoorbells.filter fun (d : Nat × Nat × Word) => d.1 != vf } }
    refine ⟨u.clearCtxs fun x => x.vf == vf, rfl, rfl, fun e he hv => ?_, fun c x hx => ?_⟩
    · exact u.clearCtxs_valid _ e he (beq_iff_eq.2 hv)
    · rw [u.clearCtxs_ctxs, Tab.get?_map (fun c x => if x.vf == vf then Ctx.cleared x (u.host.pendingRing.contains c) else x)]
      show (Tab.get? c s.host.ctxs).map _ = _
      rw [hx, Option.map_some]
      have hp : u.host.pendingRing.contains c = Decidable.decide (c ∈ s.host.pendingRing) := List.contains_eq_mem c _
      simp only [Ctx.cleared, hp, beq_iff_eq, decide_eq_true_eq]
  · refine ⟨_, rfl, rfl, rfl, rfl, rfl, Mailbox.status_reset _ _, fun e he => ?_⟩
    obtain ⟨d, -, rfl⟩ := List.mem_map.1 he
    exact ⟨rfl, rfl, rfl, rfl⟩

end Sys2Proof.Machine
end

section
/-!
SUPPORT. How the status of a launch reaches its submitter (R130, R149, R381): the operation of a `launch` ends in its group, or the
ring's status entry is written and HEAD moves.
-/

namespace Sys2Proof.Machine

open Sys2Proof

/-! ### Changes of groups -/

/-- `t` is `s` but for the groups. -/
structure OnGroups (s t : State) : Prop where
  eq : t = { s with cur := t.cur, rest := t.rest, saved := t.saved }

theorem OnGroups.trans {s t u : State} (h1 : OnGroups s t) (h2 : OnGroups t u) : OnGroups s u := by
  constructor
  conv_lhs => rw [h2.eq]
  conv_lhs => rw [h1.eq]

theorem State.updGroup_onGroups (s : State) (i : Gid) (f : Group → Group) : OnGroups s (s.updGroup i f) := by
  unfold State.updGroup
  split <;> exact ⟨rfl⟩

/-- The group of a name after a change that keeps its name. -/
theorem State.group?_updGroup {s : State} {i : Gid} {f : Group → Group} {g : Group} (h : s.group? i = some g)
    (hf : ∀ g, (f g).id = g.id ∧ (f g).live = g.live) : (s.updGroup i f).group? i = some (f g) := by
  have hn : ∀ g, ((f g).live && (f g).id == i) = (g.live && g.id == i) := fun g => by rw [(hf g).1, (hf g).2]
  unfold State.group? at h
  unfold State.updGroup State.group?
  split at h
  · next hc =>
    cases h
    rw [if_pos hc, if_pos ((hn _).trans hc)]
  · next hc =>
    rw [if_neg hc, if_neg hc]
    dsimp only
    have hm : ∀ l : List Group, (l.map fun g => if g.live && g.id == i then f g else g).find? (fun g => g.live && g.id == i) =
        (l.find? fun g => g.live && g.id == i).map f := by
      intro l
      induction l with
      | nil => rfl
      | cons x l ih =>
        rw [List.map_cons, List.find?_cons, List.find?_cons]
        cases hx : (x.live && x.id == i) with
        | true => simp [hn, hx]
        | false => simpa [hx] using ih
    rw [hm, h, Option.map_some]

/-! ### The end of the operation of a `launch` (R381) -/

/-- The group that waited for a status, once it has landed. -/
def Group.landed (g : Group) (reg : Nat) (w : Word) (id : Nat) (op : Op) (cycle : Nat) : Group :=
  ((g.gset (reg - 96) w).uncount op.counter).mapSplits (Split.release id op.len cycle)

theorem Group.uncount_none (g : Group) {n : Nat} (h : 4 ≤ n) : g.uncount n = g := by
  match n, h with
  | n + 4, _ => rfl

theorem Group.gset_name (g : Group) (n : Nat) (w : Word) : (g.gset n w).id = g.id ∧ (g.gset n w).live = g.live ∧
    (g.gset n w).hold = g.hold ∧ (g.gset n w).hand = g.hand ∧ (g.gset n w).dbg = g.dbg := by
  rw [Group.gset_eq]; exact ⟨rfl, rfl, rfl, rfl, rfl⟩

/-- The registers of the group, and what tells how it goes on: the status stands in its register. -/
theorem Group.landed_spec (g : Group) {reg id : Nat} {w : Word} {op : Op} {cycle : Nat} (hr : 96 ≤ reg) (hc : 4 ≤ op.counter) :
    let h := g.landed reg w id op cycle
    h.v = g.v ∧ h.k = g.k ∧ h.hold = g.hold ∧ h.hand = g.hand ∧ h.dbg = g.dbg ∧
      ∀ m, h.gget m = if m + 96 = reg ∧ m ≠ 31 then w else g.gget m := by
  intro h
  have he : h = (g.gset (reg - 96) w).mapSplits (Split.release id op.len cycle) := by
    show (Group.uncount _ _).mapSplits _ = _
    rw [Group.uncount_none _ hc]
  obtain ⟨-, -, hh, hd, hb⟩ := g.gset_name (reg - 96) w
  rw [he]
  refine ⟨Group.gset_v _ _ _, Group.gset_k _ _ _, hh, hd, hb, fun m => ?_⟩
  show (g.gset (reg - 96) w).gget m = _
  rw [Group.gget_gset]
  refine if_congr ⟨?_, ?_⟩ rfl rfl
  · rintro ⟨rfl, h31⟩; exact ⟨by omega, h31⟩
  · rintro ⟨hm, h31⟩; exact ⟨by omega, by omega⟩

/-- A group that is not stepped goes on after its instruction without a trap (R205). -/
theorem State.stepEnd_quiet {s : State} {i : Gid} {g : Group} (h : s.group? i = some g) (hd : g.dbg.getLsbD 8 = false)
    (slot : Bool) (e : Mask) : s.stepEnd i slot e = s := by
  simp only [State.stepEnd, h, hd, Bool.false_and, Bool.false_eq_true, if_false]

theorem State.endIfDone_running {s : State} {i : Gid} {g : Group} (h : s.group? i = some g) (hh : g.hold ≠ .exited) :
    s.endIfDone i = s := by
  simp [State.endIfDone, h, hh]

theorem Group.land_name (g : Group) (hand : Bool) (ls : List Landing) :
    (g.land hand ls).id = g.id ∧ (g.land hand ls).live = g.live := by
  induction ls generalizing g with
  | nil => exact ⟨rfl, rfl⟩
  | cons l ls ih =>
    have ho : (g.landOne hand l).id = g.id ∧ (g.landOne hand l).live = g.live := by
      unfold Group.landOne
      split
      · split <;> exact ⟨rfl, rfl⟩
      · obtain ⟨hi, hl, -⟩ := g.gset_name (l.reg - 96) l.val
        exact ⟨hi, hl⟩
    exact ⟨(ih _).1.trans ho.1, (ih _).2.trans ho.2⟩

/-- A write of a group register by an operation, where no handler runs. -/
theorem State.landAll_plain {s : State} {i : Gid} {g : Group} (h : s.group? i = some g) (hh : g.hand = none) (hand : Bool)
    {l : Landing} (hl : 96 ≤ l.reg) : OnGroups s (s.landAll i hand [l]) ∧
    (s.landAll i hand [l]).group? i = some (g.gset (l.reg - 96) l.val) := by
  have hs : s.landSaved i hand [l] = s := by simp [State.landSaved, h, hh]
  have hg : g.land hand [l] = g.gset (l.reg - 96) l.val := if_neg (Nat.not_lt.2 hl)
  unfold State.landAll
  rw [hs]
  refine ⟨s.updGroup_onGroups _ _, (State.group?_updGroup h fun g => g.land_name hand _).trans ?_⟩
  simp [hh, hg]

/-- The split that was held at an operation goes on in a group that is not stepped. -/
theorem State.releaseAt_quiet {s : State} {id : Nat} {op : Op} {g : Group} (h : s.group? op.g = some g)
    (hd : g.dbg.getLsbD 8 = false) : OnGroups s (s.releaseAt id op) ∧
    (s.releaseAt id op).group? op.g = some (g.mapSplits (Split.release id op.len s.clock.cycle)) := by
  have hg := State.group?_updGroup (f := fun g => g.mapSplits (Split.release id op.len s.clock.cycle)) h fun _ => ⟨rfl, rfl⟩
  unfold State.releaseAt
  dsimp only
  split
  · rw [State.stepEnd_quiet hg hd]
    exact ⟨s.updGroup_onGroups _ _, hg⟩
  · exact ⟨s.updGroup_onGroups _ _, hg⟩

theorem Group.uncount_name (g : Group) (n : Nat) : (g.uncount n).id = g.id ∧ (g.uncount n).live = g.live := by
  unfold Group.uncount
  split <;> exact ⟨rfl, rfl⟩

/-- The status of a `launch` lands in its group, and the operation is over. -/
theorem State.finishOp_status {s : State} {id seq reg : Nat} {op : Op} {g : Group} {w : Word}
    (hop : Tab.get? id s.eng.ops = some op) (hk : op.kind = .status seq reg) (hw : op.writes = [⟨0, reg, w⟩]) (hr : 96 ≤ reg)
    (hf : op.faults = []) (hc : 4 ≤ op.counter) (hg : s.group? op.g = some g) (hh : g.hold ≠ .exited) (hn : g.hand = none)
    (hd : g.dbg.getLsbD 8 = false) :
    OnGroups { s with eng := { s.eng with ops := Tab.erase id s.eng.ops } } (s.finishOp id) ∧
    (s.finishOp id).group? op.g = some (g.landed reg w id op s.clock.cycle) := by
  let s1 : State := { s with eng := { s.eng with ops := Tab.erase id s.eng.ops } }
  let s2 := s1.landAll op.g op.hand [⟨0, reg, w⟩]
  let s3 := s2.updGroup op.g fun g => g.uncount op.counter
  obtain ⟨o2, g2⟩ := State.landAll_plain (s := s1) hg hn op.hand (l := ⟨0, reg, w⟩) hr
  have o3 : OnGroups s1 s3 := o2.trans (s2.updGroup_onGroups _ _)
  have g3 : s3.group? op.g = some ((g.gset (reg - 96) w).uncount op.counter) :=
    State.group?_updGroup (f := fun g => g.uncount op.counter) g2 fun g => g.uncount_name _
  obtain ⟨-, -, hhold, -, hdbg, -⟩ := g.landed_spec (w := w) (id := id) (cycle := s3.clock.cycle) hr hc
  obtain ⟨o4, g4⟩ := State.releaseAt_quiet (id := id) g3 ((congrArg (fun b => b.getLsbD 8) hdbg).trans hd)
  have he : s.finishOp id = s3.releaseAt id op := by
    have hl : s1.landKind op.g op.hand op.kind op.writes = s2 := by rw [hw, hk]; rfl
    unfold State.finishOp
    simp only [hop, hf, List.isEmpty_nil, if_true]
    show (((s1.landKind op.g op.hand op.kind op.writes).updGroup op.g _).releaseAt id op).endIfDone op.g = _
    rw [hl]
    exact State.endIfDone_running g4 (fun e => hh (hhold.symm.trans e))
  have hcy : s3.clock.cycle = s.clock.cycle := by rw [o3.eq]
  rw [he]
  exact ⟨o3.trans o4, by rw [g4, hcy]; rfl⟩

end Sys2Proof.Machine
end

section
/-!
SUPPORT. The arbiter's decision (R128, R140, R141, R144, R147, R149): what is malformed, what an admitted launch stands on, and how a
decision reaches the submitter.
-/

namespace Sys2Proof.Machine

open Sys2Proof

/-! ### Malformed packets (R141) -/

/-- A packet that is malformed in itself. -/
def Packet.Malformed (p : Packet) : Prop :=
  p.entry.toNat % 4 ≠ 0 ∨ p.entry = 0 ∨ p.token.toNat % 32 ≠ 0 ∨ p.gx = 0 ∨ p.gy = 0 ∨ p.gz = 0 ∨
    p.cls = 3 ∨ 4 < p.acct ∨ p.gsz = 1 ∨ p.gsz = 7 ∨ 8 < p.xq ∨ (p.cls = 0 ∧ 8 < p.notes) ∨ 48 < p.ncore ∨ p.reserved ≠ 0 ∨
    2048 < p.lsu ∨ p.pipe.toNat % 64 ≠ 0 ∨ (p.gsz ≠ 0 ∧ p.gx * p.gy * p.gz % p.gsz ≠ 0) ∨ (p.acct ≠ 0 ∧ p.gsz = 0) ∨
    (p.gsz ≠ 0 ∧ p.acct = 0) ∨ (p.cls = 0 ∧ p.dl = 0)

/-- One of two numbers is zero and the other is not. -/
theorem bne_zero_ne (a b : Nat) : (a != 0) ≠ (b != 0) ↔ (a ≠ 0 ∧ b = 0) ∨ (b ≠ 0 ∧ a = 0) := by
  cases a <;> cases b <;> simp

theorem Packet.bad_iff (p : Packet) : p.bad = true ↔ p.Malformed := by
  simp only [Packet.bad, Packet.groups, Packet.Malformed, Bool.or_eq_true, Bool.and_eq_true, bne_iff_ne, bne_zero_ne,
    decide_eq_true_eq, or_assoc]

/-- A core that a launch may use: of its dies, and of its partition. -/
theorem State.mem_coresFor (s : State) (part : Nat) (p : Packet) (c : CoreId) : c ∈ s.coresFor part p ↔
    c.die < 4 ∧ c.core < 48 ∧ (p.dieMask = 0 ∨ p.dieMask.testBit c.die = true) ∧ c ∈ (s.part part).cores := by
  obtain ⟨d, n⟩ := c
  simp only [State.coresFor, Packet.onDie, List.mem_filter, List.mem_flatten, List.mem_map, List.mem_range, Bool.and_eq_true,
    Bool.or_eq_true, decide_eq_true_eq, List.contains_iff_mem]
  constructor
  · rintro ⟨⟨_, ⟨d', hd, rfl⟩, hn⟩, hm, hc⟩
    obtain ⟨n', hn, he⟩ := List.mem_map.1 hn
    cases he
    exact ⟨hd, List.mem_range.1 hn, hm, hc⟩
  · rintro ⟨hd, hn, hm, hc⟩
    exact ⟨⟨_, ⟨d, hd, rfl⟩, List.mem_map.2 ⟨n, List.mem_range.2 hn, rfl⟩⟩, hm, hc⟩

/-- A launch that may use no core. -/
theorem State.coresFor_isEmpty (s : State) (part : Nat) (p : Packet) : (s.coresFor part p).isEmpty = true ↔
    ¬∃ d c, d < 4 ∧ c < 48 ∧ (p.dieMask = 0 ∨ p.dieMask.testBit d = true) ∧ ⟨d, c⟩ ∈ (s.part part).cores := by
  rw [List.isEmpty_iff, List.eq_nil_iff_forall_not_mem, not_exists]
  constructor
  · rintro h d ⟨c, hc⟩
    exact h ⟨d, c⟩ ((s.mem_coresFor part p _).2 hc)
  · exact fun h c hc => h c.die ⟨c.core, (s.mem_coresFor part p c).1 hc⟩

/-! ### The admission test (R147, R149) -/

theorem State.laneOk_use {s : State} {l : Launch} {k : Nat × Nat × Nat} (h : s.laneOk l k = true) :
    ((s.laneUse k).plus (l.share k)).le (9, 10) = true := by
  simp only [State.laneOk, Bool.and_eq_true, and_assoc] at h
  exact h.1

/-- Every lane of the placement taken passes the test. -/
theorem State.findPlace_lanes {s : State} {l : Launch} {pl : List (Nat × Nat × Nat)} (h : s.findPlace l = some pl) :
    ∀ k ∈ ({ l with place := pl } : Launch).lanes, s.laneOk { l with place := pl } k = true := by
  simp only [State.findPlace] at h
  split at h
  · cases h
  · obtain ⟨n, -, h⟩ := List.exists_of_findSome?_eq_some h
    obtain ⟨i, -, h⟩ := List.exists_of_findSome?_eq_some h
    split at h
    · cases h
    · split at h
      · next hl => cases h; exact List.all_eq_true.1 hl
      · cases h

/-- A launch without a pipeline has load on the lanes of its placement. -/
theorem Launch.mem_lanes {l : Launch} (h : l.stages = []) {k : Nat × Nat × Nat} : k ∈ l.lanes ↔ k ∈ l.place := by
  simp [Launch.lanes, Launch.isPipe, h]

/-- The context of a ring with a frame reservation on which a launch may draw (R128). -/
def State.FrameOf (s : State) (l : Launch) (c : Nat) (x : Ctx) : Prop :=
  l.from_ = .ring c ∧ Tab.get? c s.host.ctxs = some x ∧ x.valid = true ∧ x.period ≠ 0

/-- The launch as it stands on the core of a frame reservation. -/
def Launch.framedOn (l : Launch) (core : CoreId) : Launch := { l with framed := true, place := assign [core] l.p }

/-- The time from which a launch counts: START, or the decision where that is later. -/
def State.launchFrom (s : State) (l : Launch) : Nat := max l.p.start.toNat s.clock.time.toNat

/-- A launch draws on the reservation of a core. -/
def State.Draws (s : State) (l : Launch) (x : Ctx) (core : CoreId) : Prop :=
  x.place = some core ∧ l.p.waits < l.p.dl ∧ core ∈ s.coresFor l.part l.p ∧ s.channelOk l.part l.p = true ∧
    (∀ k ∈ (l.framedOn core).lanes, s.laneOk (l.framedOn core) k = true) ∧
    (x.draw (l.framedOn core) s.clock.time.toNat (s.launchFrom l)).isSome = true

/-- Drawing changes what a context has drawn. -/
theorem Ctx.draw_some {x y : Ctx} {l : Launch} {now start : Nat} (h : x.draw l now start = some y) :
    y = { x with drawn := y.drawn } := by
  simp only [Ctx.draw] at h
  split at h
  · cases h; rfl
  · cases h

/-- The context that the arbiter looks for, and what a launch draws there. -/
def State.frame? (s : State) (l : Launch) : Option (Nat × Ctx) :=
  match l.from_ with
  | .ring c => (Tab.get? c s.host.ctxs).bind fun x => if x.valid && x.period != 0 then some (c, x) else none
  | .group _ => none

def State.drawn? (s : State) (l : Launch) (x : Ctx) : Option (Launch × Ctx) :=
  x.place.bind fun core =>
    if l.p.dl ≤ l.p.waits || !(s.coresFor l.part l.p).contains core || !s.channelOk l.part l.p ||
      !(l.framedOn core).lanes.all (s.laneOk (l.framedOn core)) then none
    else (x.draw (l.framedOn core) s.clock.time.toNat (s.launchFrom l)).map fun y => (l.framedOn core, y)

/-- A launch admitted on the first placement that passes, with a deadline. -/
def State.placed? (s : State) (l : Launch) (dl : Nat) : Option (Launch × State) :=
  (s.findPlace l).map fun pl => (({ l with place := pl } : Launch).admitted s.clock.time.toNat (some dl), s)

/-- The deadline of a launch in its frame (R128, R149). -/
def State.frameDue (s : State) (l : Launch) (x : Ctx) : Nat := min (s.launchFrom l + l.p.dl) (x.frameDeadline (s.launchFrom l))

theorem State.admission_eq (s : State) (l : Launch) : s.admission l =
    match s.frame? l with
    | some (c, x) =>
      match s.drawn? l x with
      | some (l', y) => some (l'.admitted s.clock.time.toNat (some (s.frameDue l x)),
        { s with host := { s.host with ctxs := Tab.set c y s.host.ctxs } })
      | none => s.placed? l (s.frameDue l x)
    | none => s.placed? l (s.launchFrom l + l.p.dl) := rfl

section
variable {s : State} {l : Launch} {c : Nat} {x : Ctx}

theorem State.frame?_some (h : s.FrameOf l c x) : s.frame? l = some (c, x) := by
  obtain ⟨hf, hx, hv, hp⟩ := h
  simp [State.frame?, hf, hx, hv, hp]

theorem State.frame?_none (h : ∀ c x, ¬s.FrameOf l c x) : s.frame? l = none := by
  unfold State.frame?
  split
  · next c hf =>
    refine Option.bind_eq_none_iff.2 fun x hx => if_neg fun hv => h c x ⟨hf, hx, ?_⟩
    simpa using hv
  · rfl

/-- A launch that its frame covers draws. -/
theorem State.drawn?_some {core : CoreId} (h : s.Draws l x core) : ∃ d, s.drawn? l x = some (l.framedOn core, { x with drawn := d }) := by
  obtain ⟨hp, hw, hc, hch, hl, hd⟩ := h
  obtain ⟨y, hy⟩ := Option.isSome_iff_exists.1 hd
  refine ⟨y.drawn, ?_⟩
  have hn : (l.p.dl ≤ l.p.waits || !(s.coresFor l.part l.p).contains core || !s.channelOk l.part l.p ||
      !(l.framedOn core).lanes.all (s.laneOk (l.framedOn core))) = false := by
    simpa [hch, hc, hw] using hl
  rw [← Ctx.draw_some hy, State.drawn?, hp, Option.bind_some, hn, if_neg Bool.false_ne_true, hy, Option.map_some]

theorem State.drawn?_none (h : ∀ core, ¬s.Draws l x core) : s.drawn? l x = none := by
  refine Option.bind_eq_none_iff.2 fun core hp => ?_
  split
  · rfl
  · next hn =>
    refine Option.map_eq_none_iff.2 (Option.not_isSome_iff_eq_none.1 fun hd => h core ?_)
    simp only [Bool.or_eq_true, decide_eq_true_eq, Bool.not_eq_true', not_or, Nat.not_le, Bool.not_eq_false,
      List.contains_iff_mem, List.all_eq_true] at hn
    obtain ⟨⟨⟨hw, hc⟩, hch⟩, hl⟩ := hn
    exact ⟨hp, hw, hc, hch, hl, hd⟩

/-- Without a frame reservation a launch stands on the first placement that passes, by its own deadline. -/
theorem State.admission_unframed (h : ∀ c x, ¬s.FrameOf l c x) : s.admission l = s.placed? l (s.launchFrom l + l.p.dl) := by
  rw [State.admission_eq, State.frame?_none h]

/-- A launch that its frame covers stands on the core of the reservation, and draws on it. -/
theorem State.admission_draws {core : CoreId} (h : s.FrameOf l c x) (hd : s.Draws l x core) : ∃ d, s.admission l =
    some ((l.framedOn core).admitted s.clock.time.toNat (some (s.frameDue l x)),
      { s with host := { s.host with ctxs := Tab.set c { x with drawn := d } s.host.ctxs } }) := by
  obtain ⟨d, hd⟩ := State.drawn?_some hd
  exact ⟨d, by rw [State.admission_eq, State.frame?_some h]; simp only [hd]⟩

/-- A launch that no frame covers stands on the first placement that passes, by the deadline of its frame. -/
theorem State.admission_undrawn (h : s.FrameOf l c x) (hd : ∀ core, ¬s.Draws l x core) :
    s.admission l = s.placed? l (s.frameDue l x) := by
  rw [State.admission_eq, State.frame?_some h]
  simp only [State.drawn?_none hd]

end

/-! ### The decision (R141, R144, R149) -/

/-- A state with a launch in its next state. -/
def State.putLaunch (s : State) (l : Launch) : State := { s with launches := Tab.set l.seq l s.launches }

/-- The stages that a launch declares; none where they are malformed. -/
def State.declared (s : State) (l : Launch) : Option (Tab Stage) := if l.p.pipe = 0 then some [] else s.stagesOf l

section
variable {s : State} {l : Launch}

theorem State.decide_malformed (h : (l.p.bad || (s.coresFor l.part l.p).isEmpty) = true ∨ s.declared l = none) :
    s.decide l = (2, s.putLaunch { l with state := .refused }) := by
  unfold State.decide
  dsimp only
  split
  · rfl
  · next hb =>
    have hn := h.resolve_left hb
    unfold State.declared at hn
    rw [hn]
    rfl

section
variable {sts : Tab Stage} (hb : (l.p.bad || (s.coresFor l.part l.p).isEmpty) = false) (hs : s.declared l = some sts)
include hb hs

theorem State.decide_wellFormed : s.decide l =
    if (s.part l.part).dry ≠ .running then (1, s.putLaunch { l with state := .refused })
    else if l.p.cls = 0 then
      match s.admission { l with stages := sts } with
      | none => (1, s.putLaunch { l with state := .refused })
      | some (l, s) => (0, s.putLaunch l)
    else (0, s.putLaunch (({ l with stages := sts } : Launch).admitted s.clock.time.toNat none)) := by
  unfold State.declared at hs
  unfold State.decide
  simp only [hb, Bool.false_eq_true, if_false, hs, bne_iff_ne]
  rfl

theorem State.decide_dry (h : (s.part l.part).dry ≠ .running) :
    s.decide l = (1, s.putLaunch { l with state := .refused }) := by
  rw [State.decide_wellFormed hb hs, if_pos h]

variable (hd : (s.part l.part).dry = .running)
include hd

theorem State.decide_bestEffort (h : l.p.cls ≠ 0) : s.decide l =
    (0, s.putLaunch (({ l with stages := sts } : Launch).admitted s.clock.time.toNat none)) := by
  rw [State.decide_wellFormed hb hs, if_neg (not_not.2 hd), if_neg h]

theorem State.decide_noCapacity (h : l.p.cls = 0) (ha : s.admission { l with stages := sts } = none) :
    s.decide l = (1, s.putLaunch { l with state := .refused }) := by
  rw [State.decide_wellFormed hb hs, if_neg (not_not.2 hd), if_pos h]
  simp only [ha]

theorem State.decide_admitted (h : l.p.cls = 0) {y : Launch} {t : State}
    (ha : s.admission { l with stages := sts } = some (y, t)) : s.decide l = (0, t.putLaunch y) := by
  rw [State.decide_wellFormed hb hs, if_neg (not_not.2 hd), if_pos h]
  simp only [ha]

end

end

end Sys2Proof.Machine
end

section
/-!
O51. The arbiter's decision on the oldest presented launch: it asks for a descriptor in another module, or decides and tells the
submitter.
-/

namespace Sys2Proof.Machine

open Sys2Proof

/-! ### Descriptors in another module (R141) -/

theorem State.unitRequest_eq (s : State) (part die : Nat) (m : Map) (va : Nat) (op : BitVec 6) (payload : List Byte)
    (kind : RemoteKind) : s.unitRequest part die m va op payload kind =
      { s with fabric := (s.unitRequest part die m va op payload kind).fabric } := by
  unfold State.unitRequest State.outstanding State.send
  dsimp only
  split <;> rfl

/-- The request for a block of a descriptor is outstanding. -/
theorem State.unitRequest_descOut (s : State) (part die : Nat) (m : Map) (va at_ : Nat) (op : BitVec 6) (payload : List Byte)
    (seq : Nat) : (s.unitRequest part die m va op payload (.desc seq at_)).descOut seq = true := by
  have hm : ∀ (t : State) (f : Flit) (r : Remote), r.kind = .desc seq at_ → (t.outstanding f r).descOut seq = true := by
    intro t f r hr
    have hw : (f.tag.toNat, r) ∈ (t.outstanding f r).fabric.waiting :=
      Tab.mem_of_get? ((Tab.get?_set _ _ _ _).trans (if_pos rfl))
    refine List.any_eq_true.2 ⟨_, hw, ?_⟩
    simp [hr]
  exact hm _ _ _ rfl

/-- What asking for blocks changes: requests on the fabric. -/
theorem State.askDesc_spec {s : State} {l : Launch} (h : s.descNeeds l ≠ []) :
    s.askDesc l = { s with fabric := (s.askDesc l).fabric } ∧ (s.askDesc l).descOut l.seq = true := by
  have hf : ∀ (es : List (Map × Nat)) (t : State), es.foldl (fun (s : State) e =>
      s.unitRequest l.part l.die e.1 e.2 opReadRequest [BitVec.ofNat 8 64] (.desc l.seq e.2)) t =
      { t with fabric := (es.foldl (fun (s : State) e =>
        s.unitRequest l.part l.die e.1 e.2 opReadRequest [BitVec.ofNat 8 64] (.desc l.seq e.2)) t).fabric } := by
    intro es
    induction es with
    | nil => exact fun _ => rfl
    | cons e es ih =>
      intro t
      rw [List.foldl_cons, ih, State.unitRequest_eq]
  refine ⟨hf _ s, ?_⟩
  unfold State.askDesc
  rw [← List.dropLast_append_getLast h, List.foldl_append]
  exact State.unitRequest_descOut _ _ _ _ _ _ _ _ _

/-! ### The submitter (R130, R149) -/

/-- The status has reached the ring of a context. -/
def State.RingTold (s t : State) (l : Launch) (code : Nat) : Prop :=
  ∃ c x, l.from_ = .ring c ∧ Tab.get? c s.host.ctxs = some x ∧
    t.host.mem = s.host.mem.putBytes (x.statBase.toNat + 8 * (x.head.toNat % 2 ^ x.rsize))
      (leBytes 8 (code + l.seq % 2 ^ 32 * 2 ^ 32)) ∧
    (∃ y, Tab.get? c t.host.ctxs = some y ∧ y.head = x.head + 1 ∧ y.tail = x.tail) ∧
    t.host.pendingRing = s.host.pendingRing.filter (fun k => k != c) ∧ t.host.msix = s.host.msix ++ [(x.vf, x.msix)]

/-- The one operation that waits for the status of a launch, in a group that runs. -/
def State.AwaitsStatus (s : State) (l : Launch) (id : Nat) (o : Op) (r : Nat) (g : Group) : Prop :=
  Tab.get? id s.eng.ops = some o ∧ o.kind = .status l.seq r ∧
    96 ≤ r ∧ (∀ e ∈ s.eng.ops, ∀ k, e.2.kind = .status l.seq k → e = (id, o)) ∧ o.faults = [] ∧ 4 ≤ o.counter ∧
    s.group? o.g = some g ∧ g.hold ≠ .exited ∧ g.hand = none ∧ g.dbg.getLsbD 8 = false

/-- The status has reached the register of a group. -/
def State.GroupTold (s t : State) (l : Launch) (code : Nat) : Prop :=
  ∃ id o r g h, l.from_ = .group o.g ∧ s.AwaitsStatus l id o r g ∧
    Tab.get? id t.eng.ops = none ∧ t.group? o.g = some h ∧ h.v = g.v ∧ h.k = g.k ∧ t.host.mem = s.host.mem ∧
    ∀ m, h.gget m = if m + 96 = r ∧ m ≠ 31 then BitVec.ofNat 64 code else g.gget m

/-- A launch whose submitter can be told its status. -/
def State.Tellable (s : State) (l : Launch) : Prop :=
  (∃ c x, l.from_ = .ring c ∧ Tab.get? c s.host.ctxs = some x) ∨ ∃ id o r g, l.from_ = .group o.g ∧ s.AwaitsStatus l id o r g

/-- `u` is `s` once the oldest presented launch is decided as `y`, before its submitter is told: a context may have drawn. -/
structure State.DecidedAs (s u : State) (q : List Nat) (y : Launch) : Prop where
  eq : u = { s with
    presented := q, launches := Tab.set y.seq y s.launches, host := { s.host with ctxs := u.host.ctxs } }
  ctxs : ∀ c x, Tab.get? c s.host.ctxs = some x → ∃ d, Tab.get? c u.host.ctxs = some { x with drawn := d }

section
variable {s u : State} {q : List Nat} {l y : Launch} {code : Nat}

theorem State.DecidedAs.launch? (h : s.DecidedAs u q y) : u.launch? y.seq = some y := by
  rw [State.launch?, h.eq]
  exact (Tab.get?_set _ _ _ _).trans (if_pos rfl)

theorem State.DecidedAs.others (h : s.DecidedAs u q y) {k : Nat} (hk : k ≠ y.seq) : u.launch? k = s.launch? k := by
  rw [State.launch?, h.eq]
  exact (Tab.get?_set _ _ _ _).trans (if_neg hk)

/-- The status goes to a ring: its entry is written, HEAD moves, and the vector is signalled. -/
def State.tellRing (s : State) (c : Nat) (x : Ctx) (entry : List Byte) : State :=
  let s := s.hostWrite (x.statBase.toNat + 8 * (x.head.toNat % 2 ^ x.rsize)) entry
  let s := { s with host := { s.host with
    ctxs := Tab.update c (fun x => { x with head := x.head + 1 }) s.host.ctxs
    pendingRing := s.host.pendingRing.filter fun k => k != c } }
  s.msix x.vf x.msix

theorem State.tellRing_eq (s : State) (c : Nat) (x : Ctx) (entry : List Byte) :
    s.tellRing c x entry = { s with host := { s.host with
      mem := s.host.mem.putBytes (x.statBase.toNat + 8 * (x.head.toNat % 2 ^ x.rsize)) entry
      ctxs := Tab.update c (fun x => { x with head := x.head + 1 }) s.host.ctxs
      pendingRing := s.host.pendingRing.filter fun k => k != c
      msix := s.host.msix ++ [(x.vf, x.msix)] } } := rfl

theorem State.statusTo_ring {seq c : Nat} {x : Ctx} (hl : u.launch? seq = some y) (hf : y.from_ = .ring c)
    (hx : Tab.get? c u.host.ctxs = some x) :
    u.statusTo seq code = u.tellRing c x (leBytes 8 (code + seq % 2 ^ 32 * 2 ^ 32)) := by
  simp only [State.statusTo, hl, hf, hx, State.tellRing]

/-- Whether an operation waits for the status of a launch, and the register that takes it. -/
def Op.tells (o : Op) (seq : Nat) : Bool := match o.kind with | .status q _ => q == seq | _ => false
def Op.statusReg (o : Op) : Nat := match o.kind with | .status _ r => r | _ => 0

/-- The operation that waits for a status is found. -/
theorem State.AwaitsStatus.find {id r : Nat} {o : Op} {g : Group} (h : s.AwaitsStatus l id o r g) :
    s.eng.ops.find? (fun (e : Nat × Op) => e.2.tells l.seq) = some (id, o) := by
  obtain ⟨ho, hk, -, huniq, -⟩ := h
  cases hf : s.eng.ops.find? (fun (e : Nat × Op) => e.2.tells l.seq) with
  | none =>
    refine absurd ?_ (List.find?_eq_none.1 hf _ (Tab.mem_of_get? ho))
    simp [Op.tells, hk]
  | some e =>
    have hp := List.find?_some hf
    have hm := List.mem_of_find?_eq_some hf
    unfold Op.tells at hp
    split at hp
    · next k r' he => rw [huniq e hm r' (he.trans (by rw [beq_iff_eq.1 hp]))]
    · cases hp

/-- The status goes to a group: the operation that waits for it ends with the write of its register. -/
def State.tellGroup (s : State) (seq code : Nat) : State :=
  match s.eng.ops.find? (fun (e : Nat × Op) => e.2.tells seq) with
  | none => s
  | some (id, op) => State.finishOp { s with eng := { s.eng with
      ops := Tab.set id { op with writes := [⟨0, op.statusReg, BitVec.ofNat 64 code⟩] } s.eng.ops } } id

theorem State.statusTo_ofGroup {seq : Nat} {i : Gid} (hl : u.launch? seq = some y) (hf : y.from_ = .group i) :
    u.statusTo seq code = u.tellGroup seq code := by
  simp only [State.statusTo, hl, hf]
  rfl

theorem State.tellGroup_found {id r : Nat} {o : Op} {g : Group} (h : u.AwaitsStatus l id o r g) : u.tellGroup l.seq code =
      State.finishOp { u with eng := { u.eng with
        ops := Tab.set id { o with writes := [⟨0, r, BitVec.ofNat 64 code⟩] } u.eng.ops } } id := by
  have hr : o.statusReg = r := by rw [Op.statusReg, h.2.1]
  simp only [State.tellGroup, h.find, hr]

/-- The submitter is told, and nothing else of the decision changes. -/
theorem State.DecidedAs.told (h : s.DecidedAs u q y) (hseq : y.seq = l.seq) (hfrom : y.from_ = l.from_) (ht : s.Tellable l) :
    let t := u.statusTo l.seq code
    t.presented = q ∧ t.launch? l.seq = some y ∧ (∀ k, k ≠ l.seq → t.launch? k = s.launch? k) ∧ t.mem = s.mem ∧
      (s.RingTold t l code ∨ s.GroupTold t l code) := by
  have hl : u.launch? l.seq = some y := hseq ▸ h.launch?
  have ho : ∀ k, k ≠ l.seq → u.launch? k = s.launch? k := fun k hk => h.others (hseq ▸ hk)
  have hq : u.presented = q := by rw [h.eq]
  have hm : u.mem = s.mem := by rw [h.eq]
  obtain ⟨c, x, hf, hx⟩ | ⟨id, o, r, g, hf, hop⟩ := ht
  · obtain ⟨d, hd⟩ := h.ctxs c x hx
    intro t
    have he : t = _ := (State.statusTo_ring hl (hfrom.trans hf) hd).trans (State.tellRing_eq _ _ _ _)
    rw [he]
    refine ⟨hq, hl, ho, hm, .inl ⟨c, x, hf, hx, ?_, ⟨{ x with drawn := d, head := x.head + 1 }, ?_, rfl, rfl⟩, ?_, ?_⟩⟩
    · dsimp only; rw [h.eq]
    · exact (Tab.get?_update c c (fun z : Ctx => { z with head := z.head + 1 }) u.host.ctxs).trans
        (by rw [if_pos rfl, hd]; rfl)
    · dsimp only; rw [h.eq]
    · dsimp only; rw [h.eq]
  · have hu : u.AwaitsStatus l id o r g := by rw [h.eq]; exact hop
    intro t
    have he : t = _ := (State.statusTo_ofGroup hl (hfrom.trans hf)).trans (State.tellGroup_found hu)
    obtain ⟨hget, hk, hr, -, hfaults, hc, hg, hh, hn, hb⟩ := hu
    obtain ⟨hon, hland⟩ := State.finishOp_status (s := { u with eng := { u.eng with
        ops := Tab.set id { o with writes := [⟨0, r, BitVec.ofNat 64 code⟩] } u.eng.ops } })
      (op := { o with writes := [⟨0, r, BitVec.ofNat 64 code⟩] }) ((Tab.get?_set _ _ _ _).trans (if_pos rfl)) hk rfl hr hfaults
      hc hg hh hn hb
    rw [← he] at hon hland
    obtain ⟨hv, hkk, -, -, -, hregs⟩ := g.landed_spec (w := BitVec.ofNat 64 code) (id := id)
      (op := { o with writes := [⟨0, r, BitVec.ofNat 64 code⟩] }) (cycle := u.clock.cycle) hr hc
    refine ⟨by rw [hon.eq]; exact hq, by rw [hon.eq]; exact hl, fun k hk => by rw [hon.eq]; exact ho k hk, by rw [hon.eq]; exact hm,
      .inr ⟨id, o, r, g, _, hf, hop, ?_, hland, hv, hkk, ?_, hregs⟩⟩
    · rw [hon.eq]; exact (Tab.get?_erase _ _ _).trans (if_pos rfl)
    · rw [hon.eq]; dsimp only; rw [h.eq]

/-! ### The decision -/

/-- The decision on the oldest presented launch: its status, and what the launch is then. -/
def State.Decided (s : State) (q : List Nat) (l : Launch) (code : Nat) (P : Launch → Prop) : Prop :=
  ∃ t y, exec .launchAdmission s = .next t ∧ t.presented = q ∧ t.launch? l.seq = some y ∧
    (∀ k, k ≠ l.seq → t.launch? k = s.launch? k) ∧ t.mem = s.mem ∧ y.p = l.p ∧ P y ∧ (s.RingTold t l code ∨ s.GroupTold t l code)

/-- The state without the launch that is being decided. -/
def State.dequeue (s : State) (q : List Nat) : State := { s with presented := q }

section
variable (s : State) (q : List Nat) (l : Launch)

theorem State.dequeue_laneOk : (s.dequeue q).laneOk = s.laneOk := rfl
theorem State.dequeue_coresFor : (s.dequeue q).coresFor = s.coresFor := rfl
theorem State.dequeue_channelOk : (s.dequeue q).channelOk = s.channelOk := rfl

theorem State.dequeue_passing (n : Nat) (cs acc : List CoreId) : (s.dequeue q).passing l n cs acc = s.passing l n cs acc := by
  induction cs generalizing acc with
  | nil => rfl
  | cons c cs ih =>
    unfold State.passing State.coreOk
    rw [State.dequeue_laneOk, ih, ih]

theorem State.dequeue_findPlace : (s.dequeue q).findPlace l = s.findPlace l := by
  unfold State.findPlace
  simp only [State.dequeue_passing, State.dequeue_laneOk, State.dequeue_coresFor, State.dequeue_channelOk]
  rfl

theorem State.dequeue_descRead (va n : Nat) : (s.dequeue q).descRead l va n = s.descRead l va n := by
  unfold State.descRead
  rfl

theorem State.dequeue_declared : (s.dequeue q).declared l = s.declared l := by
  unfold State.declared State.stagesOf
  simp only [State.dequeue_descRead]

end

/-- A launch that an arbiter at work finds first, with its descriptor at hand. -/
structure State.Decides (s : State) (q : List Nat) (l : Launch) : Prop where
  first : s.presented = l.seq :: q
  works : s.arbitrating = true
  idle : s.descOut l.seq = false
  launch : s.launch? l.seq = some l
  needs : s.descNeeds l = []

theorem State.Decides.exec (h : s.Decides q l) : exec .launchAdmission s =
    .next (((s.dequeue q).decide l).2.statusTo l.seq ((s.dequeue q).decide l).1) := by
  show execLaunchAdmission s = _
  simp only [execLaunchAdmission, h.first, h.works, h.idle, h.launch, h.needs, Bool.not_true, Bool.or_false, Bool.false_eq_true,
    if_false, List.isEmpty_nil]
  rfl

theorem State.DecidedAs.put (s : State) (q : List Nat) (y : Launch) : s.DecidedAs ((s.dequeue q).putLaunch y) q y :=
  ⟨rfl, fun _ x hx => ⟨x.drawn, hx⟩⟩

/-- A launch that draws on a context. -/
theorem State.DecidedAs.draw (q : List Nat) (y : Launch) {c : Nat} {x : Ctx} (hx : Tab.get? c s.host.ctxs = some x)
    (d : Tab Nat) : s.DecidedAs (State.putLaunch { s.dequeue q with host := { s.host with
      ctxs := Tab.set c { x with drawn := d } s.host.ctxs } } y) q y := by
  refine ⟨rfl, fun k z hz => ?_⟩
  refine if hk : k = c then ⟨d, ?_⟩ else ⟨z.drawn, (Tab.get?_set _ _ _ _).trans ((if_neg hk).trans hz)⟩
  subst hk
  cases hz.symm.trans hx
  exact (Tab.get?_set _ _ _ _).trans (if_pos rfl)

theorem State.Decides.decided {P : Launch → Prop} (h : s.Decides q l) (ht : s.Tellable l)
    (hd : (s.dequeue q).decide l = (code, u)) (hu : s.DecidedAs u q y) (hseq : y.seq = l.seq) (hfrom : y.from_ = l.from_)
    (hp : y.p = l.p) (hP : P y) : s.Decided q l code P := by
  obtain ⟨hq, hl, ho, hm, htold⟩ := hu.told (code := code) hseq hfrom ht
  exact ⟨_, y, by rw [h.exec, hd], hq, hl, ho, hm, hp, hP, htold⟩

end

section
variable {s : State} {q : List Nat} {l : Launch} (h : s.Decides q l) (ht : s.Tellable l)
include h ht

theorem State.Decides.refused {code : Nat} (hd : (s.dequeue q).decide l =
    (code, (s.dequeue q).putLaunch { l with state := .refused })) : s.Decided q l code fun y => y.state = .refused :=
  h.decided ht hd (State.DecidedAs.put s q _) rfl rfl rfl rfl

variable {sts : Tab Stage} (hb : (l.p.bad || (s.coresFor l.part l.p).isEmpty) = false) (hs : s.declared l = some sts)
include hb hs

theorem State.Decides.dry (hr : (s.part l.part).dry ≠ .running) : s.Decided q l 1 fun y => y.state = .refused :=
  h.refused ht (State.decide_dry (s := s.dequeue q) hb ((s.dequeue_declared q l).trans hs) hr)

variable (hr : (s.part l.part).dry = .running)
include hr

theorem State.Decides.bestEffort (hc : l.p.cls ≠ 0) : s.Decided q l 0 fun y =>
    (y.state = if s.clock.time.toNat < l.p.start.toNat then .held else .active) ∧ y.deadline = none ∧ y.stages = sts :=
  h.decided ht (State.decide_bestEffort (s := s.dequeue q) hb ((s.dequeue_declared q l).trans hs) hr hc) (State.DecidedAs.put s q _) rfl rfl rfl ⟨rfl, rfl, rfl⟩

variable (hc : l.p.cls = 0)
include hc

/-- A guaranteed launch that draws on no frame reservation: no capacity, or a placement whose lanes pass. -/
theorem State.Decides.placed {dl : Nat}
    (ha : (s.dequeue q).admission { l with stages := sts } = (s.dequeue q).placed? { l with stages := sts } dl) :
    (s.findPlace { l with stages := sts } = none → s.Decided q l 1 fun y => y.state = .refused) ∧
    ∀ pl, s.findPlace { l with stages := sts } = some pl → s.Decided q l 0 fun y =>
      (y.state = if s.clock.time.toNat < l.p.start.toNat then .held else .active) ∧ y.place = pl ∧
      (sts = [] → ∀ k ∈ y.place, ((s.laneUse k).plus (y.share k)).le (9, 10) = true) ∧
      y.deadline = some (BitVec.ofNat 64 dl) ∧ y.stages = sts := by
  refine ⟨fun hn => ?_, fun pl hpl => ?_⟩
  · have hp : (s.dequeue q).placed? { l with stages := sts } dl = none := Option.map_eq_none_iff.2 ((s.dequeue_findPlace q _).trans hn)
    exact h.refused ht (State.decide_noCapacity (s := s.dequeue q) hb ((s.dequeue_declared q l).trans hs) hr hc (ha.trans hp))
  · have hp : (s.dequeue q).placed? { l with stages := sts } dl = some
        (({ l with stages := sts, place := pl } : Launch).admitted s.clock.time.toNat (some dl), s.dequeue q) :=
      Option.map_eq_some_iff.2 ⟨pl, (s.dequeue_findPlace q _).trans hpl, rfl⟩
    refine h.decided ht (State.decide_admitted (s := s.dequeue q) hb ((s.dequeue_declared q l).trans hs) hr hc (ha.trans hp)) (State.DecidedAs.put s q _) rfl rfl rfl
      ⟨rfl, rfl, fun he k hk => ?_, rfl, rfl⟩
    have hk' := (Launch.mem_lanes (l := { l with stages := sts, place := pl }) he).2 hk
    exact State.laneOk_use (s := s) (l := { l with stages := sts, place := pl }) (State.findPlace_lanes hpl k hk')

/-- A launch that its frame covers stands on the core of the reservation. -/
theorem State.Decides.framed {c : Nat} {x : Ctx} {core : CoreId} (hf : s.FrameOf l c x)
    (hd : s.Draws { l with stages := sts } x core) : s.Decided q l 0 fun y =>
      (y.state = if s.clock.time.toNat < l.p.start.toNat then .held else .active) ∧ y.framed = true ∧
      y.place = assign [core] l.p ∧ y.deadline = some (BitVec.ofNat 64 (s.frameDue l x)) := by
  obtain ⟨d, ha⟩ := State.admission_draws (s := s.dequeue q) (l := { l with stages := sts }) hf hd
  exact h.decided ht (State.decide_admitted (s := s.dequeue q) hb ((s.dequeue_declared q l).trans hs) hr hc ha) (State.DecidedAs.draw q _ hf.2.1 d) rfl rfl rfl
    ⟨rfl, rfl, rfl, rfl⟩

end

/-! ### Before the decision -/

section
variable {s : State} {seq : Nat} {q : List Nat} (hq : s.presented = seq :: q) (hw : s.arbitrating = true)
  (ho : s.descOut seq = false)
include hq hw ho

theorem State.admission_gone (hl : s.launch? seq = none) : exec .launchAdmission s = .next { s with presented := q } := by
  show execLaunchAdmission s = _
  simp only [execLaunchAdmission, hq, hw, ho, hl, Bool.not_true, Bool.or_false, Bool.false_eq_true, if_false]

theorem State.admission_asks {l : Launch} (hl : s.launch? seq = some l) (hn : s.descNeeds l ≠ []) :
    exec .launchAdmission s = .next (s.askDesc l) := by
  show execLaunchAdmission s = _
  simp only [execLaunchAdmission, hq, hw, ho, hl, Bool.not_true, Bool.or_false, Bool.false_eq_true, if_false]
  rw [if_pos (by simpa using hn)]

end

/-- The arbiter waits: nothing is presented, it does not work, or a descriptor is asked for. -/
theorem State.admission_waits {s : State}
    (h : s.presented = [] ∨ s.arbitrating = false ∨ ∃ seq q, s.presented = seq :: q ∧ s.descOut seq = true) :
    exec .launchAdmission s = .next s := by
  show execLaunchAdmission s = _
  obtain h | h | ⟨seq, q, hq, ho⟩ := h
  · simp only [execLaunchAdmission, h]
  · cases hp : s.presented <;> simp only [execLaunchAdmission, hp, h, Bool.not_false, Bool.true_or, if_true]
  · simp only [execLaunchAdmission, hq, ho, Bool.or_true, if_true]

/-- Settles O51: the arbiter waits, asks for a descriptor, or decides and tells the submitter. -/
theorem launchDecisions : Obligations.LaunchDecisions := by
  unfold Obligations.LaunchDecisions
  refine ⟨fun s h => State.admission_waits h, fun s seq q hq hw ho => ⟨State.admission_gone hq hw ho, fun l hl he hn => ?_,
    fun l hl he hn => ?_⟩⟩
  · obtain ⟨heq, hout⟩ := State.askDesc_spec hn
    refine ⟨_, State.admission_asks hq hw ho hl hn, ?_, ?_, ?_, ?_, ?_, he ▸ hout⟩ <;> rw [heq]
  · subst he
    intro p now cores malformed stages ring toRing op toGroup plain decided begun ht
    have hd : s.Decides q l := ⟨hq, hw, ho, hl, hn⟩
    have hm : malformed ↔ (l.p.bad || (s.coresFor l.part l.p).isEmpty) = true := by
      rw [Bool.or_eq_true, Packet.bad_iff, State.coresFor_isEmpty]
      simp only [malformed, Packet.Malformed, or_assoc]
      rfl
    refine ⟨fun hbad => ?_, fun sts hgood hs => ?_⟩
    · exact hd.refused ht (State.decide_malformed (s := s.dequeue q) (hbad.imp hm.1 (s.dequeue_declared q l).trans))
    have hb : (l.p.bad || (s.coresFor l.part l.p).isEmpty) = false := Bool.eq_false_iff.2 (mt hm.2 hgood)
    intro l' own frame tested
    refine ⟨hd.dry ht hb hs, hd.bestEffort ht hb hs, fun hr hc hno => ?_, fun x hr hc hf => ?_⟩
    · exact hd.placed ht hb hs hr hc (State.admission_unframed (s := s.dequeue q) fun c x hx => hno x ⟨c, hx⟩)
    · obtain ⟨c, hf⟩ := hf
      refine ⟨fun core hdr => hd.framed ht hb hs hr hc hf hdr, fun hno => ?_⟩
      obtain ⟨hnone, hsome⟩ := hd.placed ht hb hs hr hc (State.admission_undrawn (s := s.dequeue q) hf hno)
      refine ⟨hnone, fun pl hpl => ?_⟩
      obtain ⟨t, y, h1, h2, h3, h4, h5, h6, ⟨h7, h8, h9, h10, -⟩, h12⟩ := hsome pl hpl
      exact ⟨t, y, h1, h2, h3, h4, h5, h6, ⟨h7, h8, h9, h10⟩, h12⟩

end Sys2Proof.Machine
end

section
/-!
SUPPORT. What stopping groups leaves of the resident groups (R91, R199): each keeps its name, its launch, its gang and its
partition, and none that has stopped goes on. The current group may change places with another one.
-/

namespace Sys2Proof.Machine

open Sys2Proof

/-- `h` is `g`, but for what stopping changes. -/
structure Group.Stands (g h : Group) : Prop where
  id : h.id = g.id
  live : h.live = g.live
  part : h.part = g.part
  launch : h.launch = g.launch
  gang : h.gang = g.gang
  hold : h.hold = g.hold
  stop : g.stop.isSome = true → h.stop.isSome = true

theorem Group.Stands.refl (g : Group) : g.Stands g := ⟨rfl, rfl, rfl, rfl, rfl, rfl, fun h => h⟩

theorem Group.Stands.trans {g h k : Group} (h1 : g.Stands h) (h2 : h.Stands k) : g.Stands k :=
  ⟨h2.id.trans h1.id, h2.live.trans h1.live, h2.part.trans h1.part, h2.launch.trans h1.launch, h2.gang.trans h1.gang,
    h2.hold.trans h1.hold, h2.stop ∘ h1.stop⟩

/-- Every group of `s` stands at its place in `t`. -/
structure Residents (s t : State) : Prop where
  cur : s.cur.Stands t.cur
  rest : List.Forall₂ Group.Stands s.rest t.rest

theorem Residents.of_eq {s t : State} (hc : t.cur = s.cur) (hr : t.rest = s.rest) : Residents s t :=
  ⟨hc ▸ .refl _, hr ▸ List.forall₂_same.2 fun g _ => .refl g⟩

theorem Residents.refl (s : State) : Residents s s := .of_eq rfl rfl

theorem Group.Stands.trans_all {l m n : List Group} (h1 : List.Forall₂ Group.Stands l m) (h2 : List.Forall₂ Group.Stands m n) :
    List.Forall₂ Group.Stands l n := by
  induction h1 generalizing n with
  | nil => exact h2
  | cons h _ ih =>
    obtain _ | ⟨h', hs⟩ := h2
    exact .cons (h.trans h') (ih hs)

theorem Residents.trans {s t u : State} (h1 : Residents s t) (h2 : Residents t u) : Residents s u :=
  ⟨h1.cur.trans h2.cur, Group.Stands.trans_all h1.rest h2.rest⟩

theorem Residents.foldl {α : Type} {f : State → α → State} (hf : ∀ s a, Residents s (f s a)) (l : List α) (s : State) :
    Residents s (l.foldl f s) := by
  induction l generalizing s with
  | nil => exact .refl s
  | cons a l ih => exact (hf s a).trans (ih _)

/-- An optional operation that does nothing where it fails. -/
theorem Residents.getD {s : State} {o : Option State} (h : ∀ t, o = some t → Residents s t) : Residents s (o.getD s) := by
  cases o with
  | none => exact .refl s
  | some t => exact h t rfl

theorem Moves.residents {s t : State} (h : Moves s t) : Residents s t := .of_eq (by rw [h.eq]) (by rw [h.eq])

theorem Asks.residents {s t : State} (h : Asks s t) : Residents s t := h.moves.residents

theorem State.updGroup_residents {s : State} {i : Gid} {f : Group → Group} (h : ∀ g : Group, g.Stands (f g)) :
    Residents s (s.updGroup i f) := by
  unfold State.updGroup
  split
  · exact ⟨h _, List.forall₂_same.2 fun g _ => .refl g⟩
  · refine ⟨.refl _, List.forall₂_map_right_iff.2 (List.forall₂_same.2 fun (g : Group) _ => ?_)⟩
    split
    · exact h g
    · exact .refl g

/-! ### Writes of engine commands -/

theorem State.noteRuns_residents (s : State) (c : Cmd) (l : List (Nat × Nat)) : Residents s (s.noteRuns c l) :=
  State.updGroup_residents fun _ => ⟨rfl, rfl, rfl, rfl, rfl, rfl, fun h => h⟩

theorem State.mapWrite_residents (s : State) (m : Map) (va : Nat) (bs : List Byte) : Residents s (s.mapWrite m va bs) := by
  refine Residents.trans (.foldl (fun s e => ?_) _ _) (State.useLines_home_moves _ _ _ _).residents
  split <;> exact .of_eq rfl rfl

theorem State.putHome_residents (s : State) (p : Nat) (bs : List Byte) : Residents s (s.putHome p bs) :=
  ((Moves.foldl (fun s (e : Byte × Nat) => s.setHome_moves 0 (p + e.2) e.1) bs.zipIdx s).trans
    (.foldl State.useHome_moves _ _)).residents

theorem State.clearPoison_residents (s : State) (l : List Nat) : Residents s (s.clearPoison l) := by
  unfold State.clearPoison
  split <;> exact .of_eq rfl rfl

/-- Marks of the atoms that satisfy a test. -/
theorem State.marks_residents {α : Type} (s : State) (l : List α) (bad : α → Bool) (atom : α → Nat) :
    Residents s (l.foldl (fun (s : State) e => if bad e then s.markPoison (atom e) else s) s) := by
  refine .foldl (fun s e => ?_) l s
  split <;> exact .of_eq rfl rfl

theorem State.queueFe_residents (s : State) (r : FeReq) : Residents s (s.queueFe r) := .of_eq rfl rfl

theorem State.engPiece_residents (s : State) (c : Cmd) (result : Bool) (m : Map) (va : Nat) (bs : List Marked) :
    Residents s (s.engPiece c result m va bs) := by
  unfold State.engPiece
  extract_lets s1 s2 s3 s4 s5 full
  have h1 : Residents s s1 := s.mapWrite_residents m va _
  have h4 : Residents s s4 := ((h1.trans (s1.noteRuns_residents c _)).trans (s2.clearPoison_residents _)).trans
    (s3.marks_residents bs.zipIdx (fun e => e.1.2) _)
  have h5 : Residents s s5 := h4.trans (s4.ask_asks _ _ _).residents
  split
  · exact h1
  · split
    · split
      · exact h5
      · exact h5.trans (s5.queueFe_residents _)
    · exact h4

theorem State.outstanding_residents (s : State) (f : Flit) (r : Remote) : Residents s (s.outstanding f r) := by
  unfold State.outstanding State.send
  dsimp only
  split <;> exact .of_eq rfl rfl

theorem State.engRequest_residents (s : State) (c : Cmd) (m : Map) (va : Nat) (op : BitVec 6) (payload : List Byte)
    (kind : RemoteKind) : Residents s (s.engRequest c m va op payload kind) := by
  have hm : Residents s (s.markRemote c.launch c.part m.dev) := by
    unfold State.markRemote
    split <;> exact .of_eq rfl rfl
  exact hm.trans (State.outstanding_residents _ _ _)

/-- The flits of a run that lies in another module. -/
theorem State.remoteRun_residents (c : Cmd) (m : Map) (kind : RemoteKind) (l : List Nat) (r : State × Nat × List Marked) :
    Residents r.1 (l.foldl (fun (r : State × Nat × List Marked) _ =>
      if min r.2.2.length (64 - r.2.1 % 64) = 0 then r
      else (r.1.engRequest c m r.2.1 opWrite (writePayload r.2.1 (r.2.2.take (min r.2.2.length (64 - r.2.1 % 64)))) kind,
        r.2.1 + min r.2.2.length (64 - r.2.1 % 64), r.2.2.drop (min r.2.2.length (64 - r.2.1 % 64)))) r).1 := by
  induction l generalizing r with
  | nil => exact .refl r.1
  | cons a l ih =>
    refine Residents.trans ?_ (ih _)
    dsimp only
    split
    · exact .refl r.1
    · exact r.1.engRequest_residents _ _ _ _ _ _

theorem State.fillDie_residents (s : State) (u : Via) (va : Nat) : Residents s (s.fillDie u va) := by
  unfold State.fillDie
  split
  · exact .refl s
  · split <;> exact .of_eq rfl rfl

theorem State.writePieces_residents (s : State) (c : Cmd) (kind : RemoteKind) (l : List (Map × Nat × Nat)) (bs : List Marked) :
    Residents s (s.writePieces c kind l bs) := by
  unfold State.writePieces
  suffices h : ∀ e : State × List Marked, Residents e.1 (l.foldl _ e).1 from h (s, bs)
  intro e
  induction l generalizing e with
  | nil => exact .refl e.1
  | cons x l ih =>
    refine ((e.1.fillDie_residents c.via x.2.1).trans ?_).trans (ih _)
    dsimp only
    split
    · exact State.engPiece_residents _ _ _ _ _ _
    · exact State.remoteRun_residents c x.1 kind _ (_, _, _)

theorem State.engWrite_residents {s t : State} {c : Cmd} {kind : RemoteKind} {va : Nat} {bs : List Marked}
    (h : s.engWrite c kind va bs = some t) : Residents s t := by
  obtain ⟨l, -, rfl⟩ := Option.map_eq_some_iff.1 h
  exact s.writePieces_residents c kind l bs

theorem State.deliver_residents {s t : State} {c : Cmd} {dls : Bool} {dest : Nat} {bs : List Marked}
    (h : s.deliver c dls dest bs = some t) : Residents s t := by
  unfold State.deliver at h
  split at h
  · cases h; exact .of_eq rfl rfl
  · exact State.engWrite_residents h

/-! ### Commands at an element boundary (R91) -/

theorem State.updCmd_residents (s : State) (id : Nat) (f : Cmd → Cmd) : Residents s (s.updCmd id f) := .of_eq rfl rfl

theorem State.nextElem_residents (s : State) (id : Nat) (bad : Bool) : Residents s (s.nextElem id bad) := by
  unfold State.nextElem
  split
  · exact .refl s
  · dsimp only; split <;> exact .of_eq rfl rfl

/-- A fold of steps that may fail. -/
theorem Residents.foldl_bind {α : Type} {g : α → State → Option State} (hg : ∀ a s t, g a s = some t → Residents s t)
    {s : State} (l : List α) {o : Option State} (ho : ∀ t, o = some t → Residents s t) :
    ∀ t, l.foldl (fun (o : Option State) a => o.bind (g a)) o = some t → Residents s t := by
  induction l generalizing o with
  | nil => exact ho
  | cons a l ih =>
    refine ih fun t ht => ?_
    obtain ⟨u, hu, ht⟩ := Option.bind_eq_some_iff.1 ht
    exact (ho u hu).trans (hg a u t ht)

theorem State.putResults_residents {s t : State} {c : Cmd} {mv : Mvec} {e : Nat} {ys : List AccEntry}
    (h : s.putResults c mv e ys = some t) : Residents s t := by
  unfold State.putResults at h
  exact Residents.foldl_bind (fun _ _ _ h => State.deliver_residents h) _ (fun u hu => by cases hu; exact .refl s) t h

theorem State.endSquare_residents (s : State) (c : Cmd) (mv : Mvec) : Residents s (s.endSquare c mv) := by
  have hd : ∀ e, Residents s (s.dropAccs c mv.g e) := fun _ => .of_eq rfl rfl
  unfold State.endSquare
  dsimp only
  split
  · exact (hd c.done).trans (State.updCmd_residents _ _ _)
  · split
    · have hu : ∀ u k f, Residents u (State.updAccs u k f) := fun _ _ _ => .of_eq rfl rfl
      exact ((hd _).trans (hu _ _ _)).trans (State.nextElem_residents _ _ _)
    · split
      · exact (hd c.done).trans (State.updCmd_residents _ _ _)
      · next h => exact ((hd _).trans (State.putResults_residents h)).trans (State.nextElem_residents _ _ _)

theorem State.stopMvec_residents (s : State) (c : Cmd) : Residents s (s.stopMvec c) := by
  unfold State.stopMvec
  split
  · exact .refl s
  · next mv _ =>
    dsimp only
    have hs : Residents s (if c.asked then s.endSquare c mv else s) := by
      split
      · exact s.endSquare_residents c mv
      · exact .refl s
    split
    · exact hs
    · split
      · exact hs
      · refine (hs.trans (.foldl (fun u v => ?_) _ _)).trans (.of_eq rfl rfl)
        split
        · exact .refl u
        · exact .getD fun t h => State.engWrite_residents h

theorem State.setFip_residents (s : State) (part idx : Nat) (b : Bool) : Residents s (s.setFip part idx b) := by
  unfold State.setFip
  split
  · exact .refl s
  · exact s.putHome_residents _ _

theorem State.endFold_residents (s : State) (c : Cmd) (status done : Nat) : Residents s (s.endFold c status done) := by
  refine Residents.trans ?_ (State.updCmd_residents _ _ _)
  split
  · exact s.setFip_residents _ _ _
  · exact .refl s

theorem State.putSquare_residents (s : State) (c : Cmd) (d : ET) (g : Geo) (sq : Nat) (cells : List (Nat × Nat × Bool)) :
    Residents s (s.putSquare c d g sq cells) :=
  (Residents.foldl (fun (s : State) (e : Nat × Nat × Bool) => s.putHome_residents e.1 _) cells s).trans
    ((State.clearPoison_residents _ _).trans
      ((State.marks_residents _ cells (fun e => e.2.2) (fun e => atomOf e.1)).trans
        ((State.noteRuns_residents _ _ _).trans (State.ask_asks _ _ _ _).residents)))

theorem State.foldStep_residents (s : State) (c : Cmd) (l : AccList) (f g : Geo) (d : ET) :
    Residents s (s.foldStep c l f g d) := by
  unfold State.foldStep
  split
  · exact s.endFold_residents _ _ _
  · split
    · exact (s.updCmd_residents _ _).trans (State.ask_asks _ _ _ _).residents
    · exact (s.putSquare_residents _ _ _ _ _).trans (State.updCmd_residents _ _ _)

theorem State.runFold_residents (s : State) (id : Nat) : Residents s (s.runFold id) := by
  unfold State.runFold
  split
  · exact .refl s
  · split
    · exact .refl s
    · split
      · split
        · split
          · exact s.updCmd_residents _ _
          · split
            · exact s.endFold_residents _ _ _
            · split
              · exact (s.setFip_residents _ _ _).trans (State.updCmd_residents _ _ _)
              · exact s.foldStep_residents _ _ _ _ _
        · exact s.endFold_residents _ _ _
      · exact s.endFold_residents _ _ _

theorem State.toBoundary_residents (s : State) (c : Cmd) : Residents s (s.toBoundary c) := by
  unfold State.toBoundary
  split
  · exact s.stopMvec_residents c
  · split
    · exact s.runFold_residents _
    · exact s.updCmd_residents _ _

theorem State.stopCmd_residents (s : State) (id : Nat) : Residents s (s.stopCmd id) := by
  have hd : Residents s (s.dropWaiting id) := .of_eq rfl rfl
  unfold State.stopCmd
  split
  · exact .refl s
  · split
    · exact .refl s
    · exact (hd.trans (State.toBoundary_residents _ _)).trans (State.updCmd_residents _ _ _)

end Sys2Proof.Machine
end

section
/-!
SUPPORT. Stopping the groups of a partition (R23, R199): where every resident group has a name of its own, each group of the
partition that has not exited has stopped.
-/

namespace Sys2Proof.Machine

open Sys2Proof

/-! ### Groups that stand -/

/-- Where the groups of `s` are well named, those of `t` are too, and they are those of `s`, but for what stopping changes. -/
def Settled (s t : State) : Prop :=
  s.WellNamed → t.WellNamed ∧ ∀ h ∈ t.groups, ∃ g ∈ s.groups, g.Stands h

theorem Settled.refl (s : State) : Settled s s := fun h => ⟨h, fun g hg => ⟨g, hg, .refl g⟩⟩

theorem Settled.trans {s t u : State} (h1 : Settled s t) (h2 : Settled t u) : Settled s u := by
  intro hs
  obtain ⟨ht, hst⟩ := h1 hs
  obtain ⟨hu, htu⟩ := h2 ht
  refine ⟨hu, fun k hk => ?_⟩
  obtain ⟨h, hh, hhk⟩ := htu k hk
  obtain ⟨g, hg, hgh⟩ := hst h hh
  exact ⟨g, hg, hgh.trans hhk⟩

theorem Settled.foldl {α : Type} {f : State → α → State} (hf : ∀ s a, Settled s (f s a)) (l : List α) (s : State) :
    Settled s (l.foldl f s) := by
  induction l generalizing s with
  | nil => exact .refl s
  | cons a l ih => exact (hf s a).trans (ih _)

theorem Group.Stands.named {g h : Group} (hs : g.Stands h) (hg : g.gang = [] ∨ g.id ∈ g.gangIds) :
    h.gang = [] ∨ h.id ∈ h.gangIds := by
  have : h.gangIds = g.gangIds := by rw [Group.gangIds, Group.gangIds, hs.gang, hs.id]
  rwa [hs.gang, hs.id, this]

theorem State.groups_live {s : State} (h : s.cur.live = true) : s.groups = s.cur :: s.rest := if_pos h
theorem State.groups_dead {s : State} (h : ¬s.cur.live = true) : s.groups = s.rest := if_neg h

theorem Residents.groups {s t : State} (h : Residents s t) : List.Forall₂ Group.Stands s.groups t.groups := by
  by_cases hc : s.cur.live = true
  · rw [State.groups_live hc, State.groups_live (h.cur.live.trans hc)]
    exact List.Forall₂.cons h.cur h.rest
  · rw [State.groups_dead hc, State.groups_dead (h.cur.live ▸ hc)]
    exact h.rest

theorem Residents.settled {s t : State} (h : Residents s t) : Settled s t := by
  rintro ⟨hn, hl, hg⟩
  have back : ∀ {l m : List Group}, List.Forall₂ Group.Stands l m →
      m.map (fun g => g.id) = l.map (fun g => g.id) ∧ ∀ k ∈ m, ∃ g ∈ l, g.Stands k := by
    intro l m hf
    induction hf with
    | nil => exact ⟨rfl, fun _ h => absurd h List.not_mem_nil⟩
    | cons hs _ ih =>
      refine ⟨by rw [List.map_cons, List.map_cons, hs.id, ih.1], fun k hk => ?_⟩
      obtain rfl | hk := List.mem_cons.1 hk
      · exact ⟨_, List.mem_cons_self, hs⟩
      · obtain ⟨g, hg, hgk⟩ := ih.2 k hk
        exact ⟨g, List.mem_cons_of_mem _ hg, hgk⟩
  obtain ⟨hids, hback⟩ := back h.groups
  refine ⟨⟨hids ▸ hn, fun k hk => ?_, fun k hk => ?_⟩, hback⟩
  · obtain ⟨g, hgm, hs⟩ := (back h.rest).2 k hk
    exact hs.live.trans (hl g hgm)
  · obtain ⟨g, hgm, hs⟩ := hback k hk
    exact hs.named (hg g hgm)

theorem State.mem_of_group? {s : State} {i : Gid} {g : Group} (h : s.group? i = some g) : g ∈ s.groups ∧ g.id = i := by
  unfold State.group? at h
  unfold State.groups
  split at h
  · next hc =>
    obtain ⟨hl, hi⟩ := Bool.and_eq_true_iff.1 hc
    cases h
    exact ⟨by rw [if_pos hl]; exact List.mem_cons_self, beq_iff_eq.1 hi⟩
  · have hi := List.find?_some h
    have hm := List.mem_of_find?_eq_some h
    refine ⟨?_, beq_iff_eq.1 (Bool.and_eq_true_iff.1 hi).2⟩
    split
    · exact List.mem_cons_of_mem _ hm
    · exact hm

/-- A group is found under its name. -/
theorem State.WellNamed.group? {s : State} (h : s.WellNamed) {g : Group} (hg : g ∈ s.groups) : s.group? g.id = some g := by
  obtain ⟨hn, hl, -⟩ := h
  cases hf : s.group? g.id with
  | some k =>
    obtain ⟨hk, hi⟩ := State.mem_of_group? hf
    rw [List.inj_on_of_nodup_map hn hk hg hi]
  | none =>
    unfold State.group? at hf
    split at hf
    · cases hf
    · next hc =>
      have hr : g ∈ s.rest := by
        unfold State.groups at hg
        split at hg
        · next hcl =>
          refine (List.mem_cons.1 hg).resolve_left ?_
          rintro rfl
          exact hc (by simp [hcl])
        · exact hg
      exact absurd (by simp [hl g hr]) (List.find?_eq_none.1 hf g hr)

/-- A group of its own name before the groups of the other names. -/
theorem State.rest_perm {l : List Group} (hn : (l.map fun g => g.id).Nodup) (hl : ∀ g ∈ l, g.live = true) {g : Group} {i : Gid}
    (hm : g ∈ l) (hi : g.id = i) : (g :: l.filter fun h => !(h.live && h.id == i)).Perm l := by
  induction l with
  | nil => cases hm
  | cons x l ih =>
    obtain ⟨hx, hn⟩ := List.nodup_cons.1 hn
    have hlx := hl x List.mem_cons_self
    have hl' : ∀ g ∈ l, g.live = true := fun g hg => hl g (List.mem_cons_of_mem _ hg)
    obtain rfl | hm := List.mem_cons.1 hm
    · have hall : ∀ h ∈ l, (!(h.live && h.id == i)) = true := by
        intro h hh
        have hne : h.id ≠ i := fun e => hx (List.mem_map.2 ⟨h, hh, e.trans hi.symm⟩)
        simp [hne]
      rw [List.filter_cons_of_neg (by simp [hlx, hi]), List.filter_eq_self.2 hall]
    · have hne : x.id ≠ i := fun e => hx (List.mem_map.2 ⟨g, hm, hi.trans e.symm⟩)
      rw [List.filter_cons_of_pos (by simp [hne])]
      exact (List.Perm.swap _ _ _).trans ((ih hn hl' hm).cons _)

/-- The current group changes places: the resident groups are the same. -/
theorem State.focus_groups {s : State} (h : s.WellNamed) (i : Gid) : (s.focus i).groups.Perm s.groups := by
  obtain ⟨hn, hl, -⟩ := h
  unfold State.focus
  split
  · exact .refl _
  · split
    · exact .refl _
    · next g hf =>
      have hg : (g.live && g.id == i) = true := List.find?_some (p := fun g : Group => g.live && g.id == i) hf
      have hm : g ∈ s.rest := List.mem_of_find?_eq_some hf
      obtain ⟨hgl, hgi⟩ := Bool.and_eq_true_iff.1 hg
      have hnr : (s.rest.map fun g => g.id).Nodup := by
        unfold State.groups at hn
        split at hn
        · exact (List.nodup_cons.1 hn).2
        · exact hn
      have hp : (g :: s.rest.filter fun h => !(h.live && h.id == i)).Perm s.rest := State.rest_perm hnr hl hm (beq_iff_eq.1 hgi)
      unfold State.groups
      dsimp only
      rw [if_pos hgl]
      split
      · exact (List.Perm.swap _ _ _).trans (hp.cons _)
      · exact hp

theorem State.focus_settled (s : State) (i : Gid) : Settled s (s.focus i) := by
  intro h
  have hp := State.focus_groups h i
  obtain ⟨hn, hl, hg⟩ := h
  refine ⟨⟨(hp.map _).nodup_iff.2 hn, ?_, fun g hm => hg g (hp.mem_iff.1 hm)⟩,
    fun g hm => ⟨g, hp.mem_iff.1 hm, .refl g⟩⟩
  unfold State.focus
  split
  · exact hl
  · split
    · exact hl
    · intro g hm
      have hf : ∀ g ∈ s.rest.filter fun h => !(h.live && h.id == i), g.live = true := fun g hg => hl g (List.mem_filter.1 hg).1
      dsimp only at hm
      split at hm
      · next hc =>
        obtain rfl | hm := List.mem_cons.1 hm
        · exact hc
        · exact hf g hm
      · exact hf g hm

/-! ### Stopping a group -/

/-- The groups of a name have stopped, or they have exited. -/
def State.Halted (s : State) (i : Gid) : Prop := ∀ g ∈ s.groups, g.id = i → g.hold = .exited ∨ g.stop.isSome = true

theorem State.Halted.settled {s t : State} {i : Gid} (h : s.Halted i) (hn : s.WellNamed) (ht : Settled s t) : t.Halted i := by
  intro k hk hi
  obtain ⟨g, hg, hs⟩ := (ht hn).2 k hk
  exact (h g hg (hs.id.symm.trans hi)).imp hs.hold.trans hs.stop

/-- Steps that each halt one name. -/
theorem Settled.foldl_halted {f : State → Gid → State} (hf : ∀ s i, Settled s (f s i))
    (hh : ∀ s i, s.WellNamed → (f s i).Halted i) {i : Gid} {l : List Gid} (hi : i ∈ l) {s : State} (hn : s.WellNamed) :
    (l.foldl f s).Halted i := by
  induction l generalizing s with
  | nil => cases hi
  | cons j l ih =>
    rw [List.foldl_cons]
    by_cases hm : i ∈ l
    · exact ih hm (hf s j hn).1
    · obtain rfl := (List.mem_cons.1 hi).resolve_right hm
      exact (hh s i hn).settled (hf s i hn).1 (.foldl hf l _)

theorem State.closeBlock_residents (s : State) : Residents s s.closeBlock := by
  have hr : ∀ (u : State) (b : Trace), u.rest = s.rest → Residents s { u with cur := { s.cur with trc := b } } := fun u b h =>
    ⟨⟨rfl, rfl, rfl, rfl, rfl, rfl, fun h => h⟩, h ▸ List.forall₂_same.2 fun g _ => .refl g⟩
  unfold State.closeBlock
  dsimp only
  split
  · exact .refl s
  · split
    · exact hr (s.setCore _ _ _) _ rfl
    · exact hr s _ rfl

theorem Group.mapSplits_stands (g : Group) (f : Split → Split) : g.Stands (g.mapSplits f) :=
  ⟨rfl, rfl, rfl, rfl, rfl, rfl, fun h => h⟩

theorem Group.uncount_stands (g : Group) (n : Nat) : g.Stands (g.uncount n) := by
  unfold Group.uncount
  split <;> exact ⟨rfl, rfl, rfl, rfl, rfl, rfl, fun h => h⟩

theorem State.dropLdfe_residents (s : State) (g : Gid) : Residents s (s.dropLdfe g) := by
  refine .foldl (fun s id => ?_) _ s
  have h : Residents s { s with eng := { s.eng with ops := Tab.erase id s.eng.ops } } := .of_eq rfl rfl
  exact h.trans (State.updGroup_residents fun x => (x.mapSplits_stands _).trans (Group.uncount_stands _ _))

theorem State.dropLatch_residents (s : State) (g : Gid) : Residents s (s.dropLatch g) := by
  unfold State.dropLatch
  split
  · have h : Residents s { s with eng := { s.eng with latch := s.eng.latch.filter fun m => m.g != g } } := .of_eq rfl rfl
    exact h.trans (State.updGroup_residents fun x => x.uncount_stands _)
  · exact .refl s

theorem State.stopCmds_residents (s : State) (g : Gid) : Residents s (s.stopCmds g) :=
  .foldl (fun s id => s.stopCmd_residents id) _ s

/-- The groups of a name after a change of the group of that name. -/
theorem State.updGroup_all {s : State} (h : s.WellNamed) {i : Gid} {f : Group → Group} {P : Group → Prop}
    (hf : ∀ g : Group, g.Stands (f g)) (hp : ∀ g, P (f g)) : ∀ g ∈ (s.updGroup i f).groups, g.id = i → P g := by
  intro g hg hi
  have hn := ((State.updGroup_residents (s := s) (i := i) hf).settled h).1
  obtain ⟨g0, hg0, hs⟩ := ((State.updGroup_residents hf).settled h).2 g hg
  have h0 : s.group? i = some g0 := (hs.id.symm.trans hi) ▸ h.group? hg0
  have h1 : (s.updGroup i f).group? i = some (f g0) := State.group?_updGroup h0 fun g => ⟨(hf g).id, (hf g).live⟩
  have h2 : (s.updGroup i f).group? i = some g := hi ▸ hn.group? hg
  rw [Option.some.inj (h2.symm.trans h1)]
  exact hp g0

/-- A group that stops at its boundary keeps what names it, and it has stopped. -/
theorem State.stopGroup_spec (s : State) (i : Gid) : Settled s (s.stopGroup i) ∧ (s.WellNamed → (s.stopGroup i).Halted i) := by
  have hc : Residents s (((s.dropLdfe i).dropLatch i).stopCmds i) :=
    (s.dropLdfe_residents i).trans ((State.dropLatch_residents _ i).trans (State.stopCmds_residents _ i))
  unfold State.stopGroup
  extract_lets s1 e s2 keep s3 s4
  have h2 : Residents s s2 := hc.trans (.of_eq rfl rfl)
  have hf : ∀ x : Group, x.Stands { x.mapSplits (fun p => if keep && p.wait == .acquire then p else p.withdraw) with
      stop := some s2.clock.cycle } := fun x => ⟨rfl, rfl, rfl, rfl, rfl, rfl, fun _ => rfl⟩
  have h3 : Residents s s3 := h2.trans (State.updGroup_residents hf)
  have hs3 : s.WellNamed → s3.Halted i := fun hn g hg hi =>
    .inr (State.updGroup_all (P := fun g => g.stop.isSome = true) (h2.settled hn).1 hf (fun _ => rfl) g hg hi)
  have h4 : Settled s3 s4.closeBlock := (s3.focus_settled i).trans s4.closeBlock_residents.settled
  split
  · exact ⟨h3.settled.trans h4, fun hn => (hs3 hn).settled (h3.settled hn).1 h4⟩
  · exact ⟨h3.settled, hs3⟩

/-! ### Stopping a group with its gang, and a partition -/

/-- A member that runs stops. -/
def State.stopMember (s : State) (i : Gid) : State :=
  match s.group? i with
  | some g => if g.hold == .exited || g.stop.isSome then s else s.stopGroup i
  | none => s

theorem State.stopMember_spec (s : State) (i : Gid) :
    Settled s (s.stopMember i) ∧ (s.WellNamed → (s.stopMember i).Halted i) := by
  unfold State.stopMember
  split
  · next g hg =>
    split
    · next hx =>
      refine ⟨.refl s, fun hn k hk hi => ?_⟩
      have hkg : s.group? i = some k := hi ▸ hn.group? hk
      cases hg.symm.trans hkg
      simpa using hx
    · exact s.stopGroup_spec i
  · next hg =>
    refine ⟨.refl s, fun hn k hk hi => ?_⟩
    have hkg : s.group? i = some k := hi ▸ hn.group? hk
    cases hg.symm.trans hkg

theorem State.preempt_eq (s : State) (i : Gid) : s.preempt i =
    match s.group? i with
    | none => s
    | some g => if g.hold == .exited || g.stop.isSome then s else (s.together g).foldl State.stopMember s := rfl

/-- A well-named group stops with its gang. -/
theorem State.WellNamed.together {s : State} (h : s.WellNamed) {g : Group} (hg : g ∈ s.groups) : g.id ∈ s.together g := by
  unfold State.together
  split
  · exact List.mem_singleton.2 rfl
  · next he =>
    refine List.mem_filter.2 ⟨(h.2.2 g hg).resolve_left (by simpa using he), ?_⟩
    simp [h.group? hg]

theorem State.preempt_spec (s : State) (i : Gid) : Settled s (s.preempt i) ∧ (s.WellNamed → (s.preempt i).Halted i) := by
  rw [State.preempt_eq]
  split
  · next hg =>
    refine ⟨.refl s, fun hn k hk hi => ?_⟩
    have hkg : s.group? i = some k := hi ▸ hn.group? hk
    cases hg.symm.trans hkg
  · next g hg =>
    obtain ⟨hm, rfl⟩ := State.mem_of_group? hg
    split
    · next hx =>
      refine ⟨.refl s, fun hn k hk hi => ?_⟩
      have hkg : s.group? g.id = some k := hi ▸ hn.group? hk
      cases hg.symm.trans hkg
      simpa using hx
    · exact ⟨.foldl (fun s j => (s.stopMember_spec j).1) _ s, fun hn =>
        Settled.foldl_halted (fun s j => (s.stopMember_spec j).1) (fun s j => (s.stopMember_spec j).2) (hn.together hm) hn⟩

/-- The groups of a partition stop (R23). -/
def State.stopPart (s : State) (p : Nat) : State :=
  ((s.groups.filter fun g => g.part == p).map fun g => g.id).foldl (fun s i => s.preempt i) s

theorem State.stopPart_stops (s : State) (p : Nat) : Stops s (s.stopPart p) := .foldl (fun s i => s.preempt_stops i) _ s

theorem State.stopPart_halted {s : State} (h : s.WellNamed) {p : Nat} {g : Group} (hg : g ∈ (s.stopPart p).groups)
    (hp : g.part = p) (hx : g.hold ≠ .exited) : g.stop.isSome = true := by
  have hs : ∀ (s : State) i, Settled s (s.preempt i) := fun s i => (s.preempt_spec i).1
  obtain ⟨k, hk, hkg⟩ := ((Settled.foldl hs _ s : Settled s (s.stopPart p)) h).2 g hg
  have hi : g.id ∈ (s.groups.filter fun g => g.part == p).map fun g => g.id :=
    List.mem_map.2 ⟨k, List.mem_filter.2 ⟨hk, beq_iff_eq.2 (hkg.part.symm.trans hp)⟩, hkg.id.symm⟩
  exact (Settled.foldl_halted hs (fun s i => (s.preempt_spec i).2) hi h g hg rfl).resolve_left hx

end Sys2Proof.Machine
end

section
/-!
SUPPORT. What the partition commands do beside their own item: a core that leaves its partition (R21, R125) changes no other grant,
and a unit that is granted or given back reads zero (R137).
-/

namespace Sys2Proof.Machine

open Sys2Proof

/-! ### A core leaves its partition (R21, R125) -/

theorem Moves.sameControl {s t : State} (h : Moves s t) : SameControl s t :=
  ⟨by rw [h.eq], by rw [h.eq], by rw [h.eq]⟩

theorem State.partWith_sameControl (s : State) (i : Gid) : SameControl s (s.partWith i) := ⟨rfl, rfl, rfl⟩

theorem State.updLaunch_sameControl (s : State) (seq : Nat) (f : Launch → Launch) : SameControl s (s.updLaunch seq f) :=
  ⟨rfl, rfl, rfl⟩

theorem State.endGroup_sameControl (s : State) (i : Gid) : SameControl s (s.endGroup i) := by
  unfold State.endGroup
  split
  · exact .refl s
  · extract_lets s1 s2 s3 s4
    have h4 : SameControl s s4 := ⟨rfl, rfl, rfl⟩
    split
    · exact h4
    · split
      · exact h4.trans ⟨rfl, rfl, rfl⟩
      · exact h4

theorem State.endLaunch_sameControl (s : State) (seq : Nat) : SameControl s (s.endLaunch seq) := by
  unfold State.endLaunch
  extract_lets gone s1 e s2
  have h2 : SameControl s s2 := ⟨rfl, rfl, rfl⟩
  exact h2.trans (.foldl State.partWith_sameControl _ s2)

theorem State.abandonOps_sameControl (s : State) (i : Gid) : SameControl s (s.abandonOps i) := by
  unfold State.abandonOps
  refine .foldl (fun u e => ?_) _ s
  extract_lets tags fs late known f g u1
  have h1 : SameControl u u1 := ⟨rfl, rfl, rfl⟩
  exact h1.trans (u1.updGroup_sameControl _ _)

theorem State.saveOne_sameControl (s : State) (i : Gid) : SameControl s (s.saveOne i) := by
  unfold State.saveOne
  split <;> exact ⟨rfl, rfl, rfl⟩

theorem State.forceSave_sameControl (s : State) (i : Gid) : SameControl s (s.forceSave i) := by
  unfold State.forceSave
  split
  · exact .refl s
  · next g _ =>
    split
    · exact s.endGroup_sameControl i
    · extract_lets s1 s2 f e s3 s4
      have h1 : SameControl s s1 := by
        dsimp only [s1]
        split
        · exact .refl s
        · exact (s.stopGroup_stops i).toSameControl
      have h3 : SameControl s s3 := (h1.trans (s1.abandonOps_sameControl i)).trans ⟨rfl, rfl, rfl⟩
      exact (h3.trans (s3.updGroup_sameControl _ _)).trans (s4.saveOne_sameControl i)

theorem State.writeBack_sameControl (s : State) (die core : Nat) (f : Nat → Nat → Bool) :
    SameControl s (s.writeBack die core f) := by
  unfold State.writeBack
  extract_lets c mine cache out s1 s2 sent
  have h2 : SameControl s s2 := ⟨rfl, rfl, rfl⟩
  exact h2.trans (.foldl State.useHome_sameControl _ _)

theorem State.moveTeam_sameControl (s : State) (t : Team) (k : Nat × Nat × Nat) : SameControl s (s.moveTeam t k) :=
  ⟨rfl, rfl, rfl⟩

theorem State.moveTeams_sameControl (s : State) (l : Launch) (old : CoreId) : SameControl s (s.moveTeams l old) := by
  unfold State.moveTeams
  dsimp only
  split
  · exact .foldl (fun s t => s.moveTeam_sameControl t _) _ s
  · split
    · exact .refl s
    · refine .foldl (fun s t => ?_) _ s
      split
      · exact s.moveTeam_sameControl t _
      · exact .refl s

theorem State.retest_sameControl (s : State) (old : CoreId) (l : Launch) : SameControl s (s.retest old l) := by
  unfold State.retest
  split
  · exact (s.updLaunch_sameControl _ _).trans (State.moveTeams_sameControl _ _ _)
  · split
    · exact .refl s
    · exact (s.updLaunch_sameControl _ _).trans (State.endLaunch_sameControl _ _)

/-- The groups and the launches of a core that leaves go elsewhere, or end; no grant changes. -/
theorem State.coreRevoked_sameControl (s : State) (c : CoreId) : SameControl s (s.coreRevoked c) := by
  unfold State.coreRevoked
  extract_lets s1 s2 k s3
  have h1 : SameControl s s1 := .foldl State.forceSave_sameControl _ s
  have h2 : SameControl s s2 := h1.trans (s1.writeBack_sameControl _ _ _)
  have h3 : SameControl s s3 := h2.trans ⟨rfl, rfl, rfl⟩
  exact h3.trans (.foldl (fun s l => s.retest_sameControl c l) _ s3)

end Sys2Proof.Machine
end

section
/-!
SUPPORT. The items of a partition (R123, R125): what a list of items adds to a partition and takes from it, kind by kind.
-/

namespace Sys2Proof.Machine

open Sys2Proof

/-! ### Slots of a channel -/

/-- The slots of a channel in a list of grants, as a mask. -/
def slotsOf (l : List (Nat × Nat × Nat)) (k ch : Nat) : Nat :=
  (l.filter fun e => e.1 == k && e.2.1 == ch).foldl (fun m e => m ||| e.2.2) 0

theorem Part.slotMask_eq (p : Part) (k ch : Nat) : p.slotMask k ch = slotsOf p.slots k ch := rfl

theorem Part.slotMask_setSlots (p : Part) (st c m k ch : Nat) :
    (p.setSlots st c m).slotMask k ch = if k = st ∧ ch = c then m else p.slotMask k ch := by
  have hrest : slotsOf (p.slots.filter fun e => !(e.1 == st && e.2.1 == c)) k ch =
      if k = st ∧ ch = c then 0 else slotsOf p.slots k ch := by
    unfold slotsOf
    rw [List.filter_filter]
    split
    · next h =>
      obtain ⟨rfl, rfl⟩ := h
      rw [List.filter_eq_nil_iff.2 fun e _ => ?_, List.foldl_nil]
      rw [Bool.and_not_self]
      exact Bool.false_ne_true
    · next h =>
      congr 1
      refine List.filter_congr fun e _ => ?_
      by_cases he : e.1 = k ∧ e.2.1 = ch
      · obtain ⟨rfl, rfl⟩ := he
        simpa [imp_iff_not_or] using h
      · have : (e.1 == k && e.2.1 == ch) = false := by simpa using he
        rw [this, Bool.false_and]
  have happ : ∀ l : List (Nat × Nat × Nat), slotsOf (l ++ [(st, c, m)]) k ch =
      if k = st ∧ ch = c then slotsOf l k ch ||| m else slotsOf l k ch := by
    intro l
    unfold slotsOf
    rw [List.filter_append, List.foldl_append]
    by_cases h : k = st ∧ ch = c
    · obtain ⟨rfl, rfl⟩ := h
      simp
    · have : (st == k && c == ch) = false := by
        have h' : ¬(st = k ∧ c = ch) := fun e => h ⟨e.1.symm, e.2.symm⟩
        simpa using h'
      simp [this, h]
  rw [Part.slotMask_eq, Part.slotMask_eq]
  unfold Part.setSlots
  dsimp only
  split
  · next hm => rw [hrest, hm]
  · rw [happ, hrest]
    split
    · exact Nat.zero_or _
    · rfl

/-- The bits of a mask without those of another. -/
theorem testBit_sub_and (m y b : Nat) : (m - (m &&& y)).testBit b = (m.testBit b && !y.testBit b) := by
  have hle : ∀ m y : Nat, m &&& y ≤ m := fun _ _ => Nat.and_le_left
  have hlow : ∀ m y : Nat, (m &&& y) % 2 = m % 2 &&& y % 2 := fun m y => Nat.and_mod_two_pow (n := 1)
  induction b generalizing m y with
  | zero =>
    have hl := hle m y
    have hw := hlow m y
    rw [Nat.testBit_zero, Nat.testBit_zero, Nat.testBit_zero]
    obtain hm | hm := Nat.mod_two_eq_zero_or_one m
    · have : (m - (m &&& y)) % 2 = 0 := by rw [hm, Nat.zero_and] at hw; omega
      simp [this, hm]
    · obtain hy | hy := Nat.mod_two_eq_zero_or_one y
      · have : (m - (m &&& y)) % 2 = 1 := by rw [hy, Nat.and_zero] at hw; omega
        simp [this, hm, hy]
      · have : (m - (m &&& y)) % 2 = 0 := by rw [hm, hy, Nat.and_self] at hw; omega
        simp [this, hy]
  | succ b ih =>
    have hd : (m &&& y) / 2 = m / 2 &&& y / 2 := Nat.and_div_two
    have hl := hle m y
    have hw : (m &&& y) % 2 ≤ m % 2 := by rw [hlow]; exact hle _ _
    have hs : (m - (m &&& y)) / 2 = m / 2 - (m / 2 &&& y / 2) := by omega
    rw [Nat.testBit_add_one, hs, ih, Nat.testBit_add_one, Nat.testBit_add_one]

/-! ### One item -/

/-- Add to a list what it does not hold. -/
def addNew {α : Type} [BEq α] (l : List α) (a : α) : List α := if l.contains a then l else l ++ [a]

theorem mem_addNew {α : Type} [BEq α] [LawfulBEq α] {l : List α} {a b : α} : b ∈ addNew l a ↔ b ∈ l ∨ a = b := by
  unfold addNew
  split
  · next h =>
    refine ⟨.inl, fun h' => h'.elim id ?_⟩
    rintro rfl
    exact List.contains_iff_mem.1 h
  · rw [List.mem_append, List.mem_singleton, eq_comm]

/-- A list without one thing. -/
def without {α : Type} [BEq α] (l : List α) (a : α) : List α := l.filter fun b => b != a

theorem mem_without {α : Type} [BEq α] [LawfulBEq α] {l : List α} {a b : α} : b ∈ without l a ↔ b ∈ l ∧ a ≠ b := by
  rw [without, List.mem_filter, bne_iff_ne, ne_comm]

theorem Part.give_eq (kind x : Nat) (p : Part) : p.give kind x = { p with
    cores := if kind = 0 then addNew p.cores (coreOf x) else p.cores
    ways := if kind = 1 then addNew p.ways (wayOf x) else p.ways
    units := if kind = 2 then addNew p.units (unitItem x) else p.units
    slots := if kind = 3 then
      (p.setSlots (field x 0 4) (field x 4 7) (p.slotMask (field x 0 4) (field x 4 7) ||| field x 11 51)).slots else p.slots
    fabric := if kind = 4 then Tab.set (field x 0 6) (Tab.getD p.fabric (field x 0 6) 0 + field x 6 7) p.fabric else p.fabric
    rays := if kind = 5 then p.rays + x else p.rays
    vfs := if kind = 6 then addNew p.vfs x else p.vfs
    peers := if kind = 7 then addNew p.peers (peerOf x) else p.peers } := by
  match kind with
  | 0 | 1 | 2 | 6 | 7 => simp only [Part.give, Part.has, addNew]; split <;> rfl
  | 3 | 4 | 5 => rfl
  | k + 8 => simp only [Part.give]; rfl

theorem Part.take_eq (kind x : Nat) (p : Part) : p.take kind x = { p with
    cores := if kind = 0 then without p.cores (coreOf x) else p.cores
    ways := if kind = 1 then without p.ways (wayOf x) else p.ways
    units := if kind = 2 then without p.units (unitItem x) else p.units
    slots := if kind = 3 then (p.setSlots (field x 0 4) (field x 4 7) (p.slotMask (field x 0 4) (field x 4 7) -
      (p.slotMask (field x 0 4) (field x 4 7) &&& field x 11 51))).slots else p.slots
    fabric := if kind = 4 then Tab.set (field x 0 6) (Tab.getD p.fabric (field x 0 6) 0 - field x 6 7) p.fabric else p.fabric
    rays := if kind = 5 then p.rays - x else p.rays
    vfs := if kind = 6 then without p.vfs x else p.vfs
    peers := if kind = 7 then without p.peers (peerOf x) else p.peers } := by
  match kind with
  | 0 | 1 | 2 | 3 | 4 | 5 | 6 | 7 => rfl
  | k + 8 => simp only [Part.take]; rfl

section
variable (kind x k ch b : Nat) (p : Part)

/-- Whether an item names a slot. -/
def namesSlot : Prop := field x 0 4 = k ∧ field x 4 7 = ch ∧ (field x 11 51).testBit b = true

theorem namesSlot_iff : namesSlot x k ch b ↔ (k = field x 0 4 ∧ ch = field x 4 7) ∧ (field x 11 51).testBit b = true := by
  unfold namesSlot
  rw [and_assoc, eq_comm, eq_comm (a := ch)]

theorem Part.give_slotMask : ((p.give kind x).slotMask k ch).testBit b = true ↔
    (p.slotMask k ch).testBit b = true ∨ (kind = 3 ∧ namesSlot x k ch b) := by
  rw [Part.give_eq, namesSlot_iff]
  by_cases hk : kind = 3
  · show (slotsOf (if kind = 3 then _ else _) k ch).testBit b = true ↔ _
    rw [if_pos hk, ← Part.slotMask_eq, Part.slotMask_setSlots]
    split
    · next h => obtain ⟨rfl, rfl⟩ := h; simp [hk, Nat.testBit_or]
    · next h => simp [h]
  · show (slotsOf (if kind = 3 then _ else _) k ch).testBit b = true ↔ _
    rw [if_neg hk]
    simp [hk, Part.slotMask_eq]

theorem Part.take_slotMask : ((p.take kind x).slotMask k ch).testBit b = true ↔
    (p.slotMask k ch).testBit b = true ∧ ¬(kind = 3 ∧ namesSlot x k ch b) := by
  rw [Part.take_eq, namesSlot_iff]
  by_cases hk : kind = 3
  · show (slotsOf (if kind = 3 then _ else _) k ch).testBit b = true ↔ _
    rw [if_pos hk, ← Part.slotMask_eq, Part.slotMask_setSlots]
    split
    · next h => obtain ⟨rfl, rfl⟩ := h; simp [hk, testBit_sub_and]
    · next h => simp [h]
  · show (slotsOf (if kind = 3 then _ else _) k ch).testBit b = true ↔ _
    rw [if_neg hk]
    simp [hk, Part.slotMask_eq]

theorem Part.give_fabric (n : Nat) : Tab.getD (p.give kind x).fabric n 0 =
    Tab.getD p.fabric n 0 + if kind = 4 ∧ n = field x 0 6 then field x 6 7 else 0 := by
  rw [Part.give_eq]
  by_cases hk : kind = 4
  · show Tab.getD (if kind = 4 then _ else _) n 0 = _
    rw [if_pos hk, Tab.getD_set]
    split
    · next h => rw [h, if_pos ⟨hk, rfl⟩]
    · next h => rw [if_neg fun e => h e.2, Nat.add_zero]
  · show Tab.getD (if kind = 4 then _ else _) n 0 = _
    rw [if_neg hk, if_neg fun e => hk e.1, Nat.add_zero]

theorem Part.take_fabric (n : Nat) : Tab.getD (p.take kind x).fabric n 0 =
    Tab.getD p.fabric n 0 - if kind = 4 ∧ n = field x 0 6 then field x 6 7 else 0 := by
  rw [Part.take_eq]
  by_cases hk : kind = 4
  · show Tab.getD (if kind = 4 then _ else _) n 0 = _
    rw [if_pos hk, Tab.getD_set]
    split
    · next h => rw [h, if_pos ⟨hk, rfl⟩]
    · next h => rw [if_neg fun e => h e.2, Nat.sub_zero]
  · show Tab.getD (if kind = 4 then _ else _) n 0 = _
    rw [if_neg hk, if_neg fun e => hk e.1, Nat.sub_zero]

end

/-! ### Lists of items -/

/-- The sum of the shares of a port in a list of items. -/
def portSum (xs : List Nat) (n : Nat) : Nat := ((xs.filter fun x => field x 0 6 == n).map fun x => field x 6 7).sum

theorem portSum_cons (kind x : Nat) (xs : List Nat) (n : Nat) : (if kind = 4 then portSum (x :: xs) n else 0) =
    (if kind = 4 ∧ n = field x 0 6 then field x 6 7 else 0) + if kind = 4 then portSum xs n else 0 := by
  unfold portSum
  by_cases hk : kind = 4
  · by_cases h : n = field x 0 6
    · simp [hk, h]
    · rw [List.filter_cons_of_neg (by simpa using Ne.symm h), if_neg (c := _ ∧ _) fun e => h e.2, Nat.zero_add]
  · rw [if_neg hk, if_neg hk, if_neg fun e => hk e.1]

theorem Part.Given.nil (p : Part) (kind : Nat) : p.Given p kind [] := by
  simp [Part.Given]

theorem Part.Given.cons {p q : Part} {kind x : Nat} {xs : List Nat} (h : (p.give kind x).Given q kind xs) :
    p.Given q kind (x :: xs) := by
  obtain ⟨hc, hw, hu, hs, hf, hr, hv, hp, hrest⟩ := h
  refine ⟨fun c => (hc c).trans ?_, fun w => (hw w).trans ?_, fun u => (hu u).trans ?_, fun k ch b => (hs k ch b).trans ?_,
    fun n => (hf n).trans ?_, hr.trans ?_, fun v => (hv v).trans ?_, fun d => (hp d).trans ?_,
    by rw [Part.give_eq] at hrest; exact hrest⟩
  · rw [Part.give_eq]
    by_cases hk : kind = 0 <;> simp [hk, mem_addNew, or_assoc]
  · rw [Part.give_eq]
    by_cases hk : kind = 1 <;> simp [hk, mem_addNew, or_assoc]
  · rw [Part.give_eq]
    by_cases hk : kind = 2 <;> simp [hk, mem_addNew, or_assoc]
  · rw [Part.give_slotMask]
    simp [namesSlot, or_assoc, and_or_left]
  · exact (congrArg (· + _) (Part.give_fabric kind x p n)).trans
      ((Nat.add_assoc _ _ _).trans (congrArg _ (portSum_cons kind x xs n).symm))
  · rw [Part.give_eq]
    by_cases hk : kind = 5 <;> simp [hk, Nat.add_assoc]
  · rw [Part.give_eq]
    by_cases hk : kind = 6 <;> simp [hk, mem_addNew, or_assoc, eq_comm]
  · rw [Part.give_eq]
    by_cases hk : kind = 7 <;> simp [hk, mem_addNew, or_assoc]

theorem Part.given (p : Part) (kind : Nat) (xs : List Nat) : p.Given (xs.foldl (Part.give kind) p) kind xs := by
  induction xs generalizing p with
  | nil => exact .nil p kind
  | cons x xs ih => exact (ih _).cons

theorem Part.Taken.nil (p : Part) (kind : Nat) : p.Taken p kind [] := by
  simp [Part.Taken]

theorem Part.Taken.cons {p q : Part} {kind x : Nat} {xs : List Nat} (h : (p.take kind x).Taken q kind xs) :
    p.Taken q kind (x :: xs) := by
  obtain ⟨hc, hw, hu, hs, hf, hr, hv, hp, hrest⟩ := h
  refine ⟨fun c => (hc c).trans ?_, fun w => (hw w).trans ?_, fun u => (hu u).trans ?_, fun k ch b => (hs k ch b).trans ?_,
    fun n => (hf n).trans ?_, hr.trans ?_, fun v => (hv v).trans ?_, fun d => (hp d).trans ?_,
    by rw [Part.take_eq] at hrest; exact hrest⟩
  · rw [Part.take_eq]
    by_cases hk : kind = 0 <;> simp [hk, mem_without, and_assoc]
  · rw [Part.take_eq]
    by_cases hk : kind = 1 <;> simp [hk, mem_without, and_assoc]
  · rw [Part.take_eq]
    by_cases hk : kind = 2 <;> simp [hk, mem_without, and_assoc]
  · rw [Part.take_slotMask]
    simp [namesSlot, and_assoc, imp_and]
  · exact (congrArg (· - _) (Part.take_fabric kind x p n)).trans
      ((Nat.sub_sub _ _ _).trans (congrArg _ (portSum_cons kind x xs n).symm))
  · rw [Part.take_eq]
    by_cases hk : kind = 5 <;> simp [hk, Nat.sub_sub]
  · rw [Part.take_eq]
    by_cases hk : kind = 6 <;> simp [hk, mem_without, and_assoc, eq_comm (a := v)]
  · rw [Part.take_eq]
    by_cases hk : kind = 7 <;> simp [hk, mem_without, and_assoc]

theorem Part.taken (p : Part) (kind : Nat) (xs : List Nat) : p.Taken (xs.foldl (Part.take kind) p) kind xs := by
  induction xs generalizing p with
  | nil => exact .nil p kind
  | cons x xs ih => exact (ih _).cons

/-! ### The operands of a list of items -/

/-- The items of a command are those that its operands list. -/
theorem State.itemsOf_iff {s : State} {m : Mcmd} {kinds : List Nat} {kind : Nat} {xs : List Nat} :
    itemsOf (s.operands m) kinds = some (kind, xs) ↔ s.Items m kinds kind xs := by
  have hn := State.onlyNamed_iff (s := s) (m := m)
    (f := fun i => i < 4 || (8 ≤ i && i < 8 + 8 * opNat (s.operands m) 2 2))
    (P := fun n => n < 4 ∨ (8 ≤ n ∧ n < 8 + 8 * opNat (s.operands m) 2 2)) (fun n => by simp)
  unfold itemsOf State.Items
  dsimp only
  rw [Option.ite_none_right_eq_some]
  simp only [Bool.and_eq_true, hn, List.contains_iff_mem, decide_eq_true_eq, List.all_eq_true, Option.some.injEq, Prod.mk.injEq]
  constructor
  · rintro ⟨⟨⟨⟨⟨h1, h2⟩, h3⟩, h4⟩, h5⟩, rfl, rfl⟩
    exact ⟨rfl, h1, h2, h3, rfl, h4, h5⟩
  · rintro ⟨rfl, h1, h2, h3, rfl, h4, h5⟩
    exact ⟨⟨⟨⟨⟨h1, h2⟩, h3⟩, h4⟩, h5⟩, rfl, rfl⟩

theorem State.itemsOf_none {s : State} {m : Mcmd} {kinds : List Nat} (h : ∀ kind xs, ¬s.Items m kinds kind xs) :
    itemsOf (s.operands m) kinds = none :=
  Option.eq_none_iff_forall_ne_some.2 fun e he => h e.1 e.2 (State.itemsOf_iff.1 he)

/-- Another partition has something of an item. -/
theorem State.othersHave_any (s : State) (p kind : Nat) (xs : List Nat) : xs.any (s.othersHave p kind) = true ↔
    ∃ e ∈ s.parts, e.1 ≠ p ∧ ∃ x ∈ xs, e.2.has kind x = true := by
  simp only [State.othersHave, List.any_eq_true, Bool.and_eq_true, bne_iff_ne]
  constructor
  · rintro ⟨x, hx, e, he, hp, hh⟩
    exact ⟨e, he, hp, x, hx, hh⟩
  · rintro ⟨e, he, hp, x, hx, hh⟩
    exact ⟨x, hx, e, he, hp, hh⟩

end Sys2Proof.Machine
end

section
/-!
SUPPORT. Memory units that are zeroed (R137), the end of a partition (R122), and the core that takes a frame reservation (R128).
-/

namespace Sys2Proof.Machine

open Sys2Proof

/-! ### Zeroed units (R137) -/

theorem Mem.byte_filter (f : Nat → Bool) (m : Mem) (a : Nat) :
    Mem.byte (m.filter fun c => f c.1) a = if f a = true then m.byte a else 0 := by
  induction m with
  | nil => simp [Mem.byte, Config.unlistedByte]
  | cons c m ih =>
    obtain ⟨k, b⟩ := c
    cases hk : f k with
    | true =>
      simp only [List.filter_cons, hk, if_true, Mem.byte, ih]
      split
      · next h => rw [h, if_pos hk]
      · rfl
    | false =>
      simp only [List.filter_cons, hk, Bool.false_eq_true, if_false, Mem.byte, ih]
      by_cases h : a = k
      · rw [h, hk, if_neg Bool.false_ne_true, if_neg Bool.false_ne_true]
      · rw [if_neg h]

theorem Tab.get?_filter {α : Type} (f : Nat → Bool) (l : Tab α) (k : Nat) :
    Tab.get? k (l.filter fun e => f e.1) = if f k = true then Tab.get? k l else none := by
  induction l with
  | nil => simp [Tab.get?]
  | cons e l ih =>
    obtain ⟨i, x⟩ := e
    cases hi : f i with
    | true =>
      simp only [List.filter_cons, hi, if_true, Tab.get?, ih]
      split
      · next h => rw [h, if_pos hi]
      · rfl
    | false =>
      simp only [List.filter_cons, hi, Bool.false_eq_true, if_false, Tab.get?, ih]
      by_cases h : k = i
      · rw [h, hi, if_neg Bool.false_ne_true, if_neg Bool.false_ne_true]
      · rw [if_neg h]

/-- The first address of a unit, and its bytes (R41). -/
def unitBase (u : Nat × Bool × Nat) : Nat :=
  if u.2.1 then 2 ^ 44 + u.1 * 2 ^ 38 + u.2.2 * 2 ^ 30 else u.1 * 2 ^ 36 + u.2.2 * 2 ^ 30
def unitSize (u : Nat × Bool × Nat) : Nat := if !u.2.1 && u.2.2 = 63 then 768 * 2 ^ 20 else 2 ^ 30

/-- An address outside a unit. -/
def outside (u : Nat × Bool × Nat) (a : Nat) : Bool := a < unitBase u || unitBase u + unitSize u ≤ a

theorem outside_iff (u : Nat × Bool × Nat) (a : Nat) : outside u a = true ↔ ¬unitHolds u a := by
  have hs : unitSize u = if u.2.1 = false ∧ u.2.2 = 63 then 768 * 2 ^ 20 else 2 ^ 30 := by
    unfold unitSize
    refine if_congr ?_ rfl rfl
    simp
  have ho : outside u a = true ↔ a < unitBase u ∨ unitBase u + unitSize u ≤ a := by simp [outside]
  have hu : unitHolds u a ↔ unitBase u ≤ a ∧ a < unitBase u + unitSize u := by rw [hs]; rfl
  rw [ho, hu]
  omega

/-- A unit holds whole atoms. -/
theorem unitHolds_atom {u : Nat × Bool × Nat} {a : Nat} (h : unitHolds u a) : unitHolds u (32 * (a / 32)) := by
  unfold unitHolds at *
  dsimp only at *
  split at h <;> split at h <;> simp_all <;> omega

theorem State.zeroUnit_eq (s : State) (u : Nat × Bool × Nat) : s.zeroUnit u = { s with
    mem := s.mem.filter fun c => outside u c.1
    poison := s.poison.filter fun a => outside u (32 * a)
    home := s.home.filter fun (e : Nat × CByte) => 3 * 2 ^ 48 ≤ e.1 || outside u (e.1 % 2 ^ 48)
    cores := s.cores.map fun (e : Nat × Core) =>
      (e.1, { e.2 with cache := e.2.cache.filter fun (c : Nat × CByte) => 3 * 2 ^ 48 ≤ c.1 || outside u (c.1 % 2 ^ 48) }) } := by
  have hm : s.mem.clear (unitBase u) (unitSize u) = s.mem.filter fun c => outside u c.1 := by
    unfold Mem.clear
    refine List.filter_congr fun c _ => ?_
    unfold outside
    rw [Bool.not_and, ← decide_not, ← decide_not]
    simp only [not_le, not_lt]
  rw [← hm]
  rfl

section
variable (s : State) (u : Nat × Bool × Nat)

/-- What the homes hold once a unit is zeroed. -/
theorem State.zeroUnit_homeByte {space a : Nat} (hs : space < 3) (ha : a < 2 ^ 48) :
    (s.zeroUnit u).homeByte space a = if outside u a = true then s.homeByte space a else 0 := by
  have hk : ¬3 * 2 ^ 48 ≤ byteKey space a ∧ byteKey space a % 2 ^ 48 = a := by unfold byteKey; omega
  have hh : Tab.get? (byteKey space a) (s.zeroUnit u).home =
      if outside u a = true then Tab.get? (byteKey space a) s.home else none := by
    rw [State.zeroUnit_eq]
    refine (Tab.get?_filter (fun k => 3 * 2 ^ 48 ≤ k || outside u (k % 2 ^ 48)) s.home _).trans ?_
    simp only [hk.1, hk.2, decide_false, Bool.false_or]
  have hm : (s.zeroUnit u).mem.byte a = if outside u a = true then s.mem.byte a else 0 := by
    rw [State.zeroUnit_eq]
    exact Mem.byte_filter (outside u) s.mem a
  unfold State.homeByte
  rw [hh, hm]
  by_cases ho : outside u a = true
  · rw [if_pos ho, if_pos ho, if_pos ho]
  · rw [if_neg ho, if_neg ho, if_neg ho]

theorem State.zeroUnit_poison (b : Nat) : b ∈ (s.zeroUnit u).poison ↔ b ∈ s.poison ∧ outside u (32 * b) = true := by
  rw [State.zeroUnit_eq]
  exact List.mem_filter

theorem State.zeroUnit_zero : (s.zeroUnit u).UnitZero u := by
  intro a ha hlt
  have ho : ¬outside u a = true := fun h => (outside_iff u a).1 h ha
  refine ⟨fun hp => ?_, fun space hs => by rw [s.zeroUnit_homeByte u hs hlt, if_neg ho]⟩
  exact (outside_iff u _).1 ((s.zeroUnit_poison u _).1 hp).2 (unitHolds_atom ha)

/-- A zeroed unit stays so when another is zeroed. -/
theorem State.UnitZero.zeroUnit {s : State} {v : Nat × Bool × Nat} (h : s.UnitZero v) : (s.zeroUnit u).UnitZero v := by
  intro a ha hlt
  obtain ⟨hp, hz⟩ := h a ha hlt
  refine ⟨fun hm => hp ((s.zeroUnit_poison u _).1 hm).1, fun space hs => ?_⟩
  rw [s.zeroUnit_homeByte u hs hlt, hz space hs, ite_self]

end

/-- Units that are zeroed one after the other. -/
def State.zeroUnits (s : State) (us : List (Nat × Bool × Nat)) : State := us.foldl (fun s u => s.zeroUnit u) s

theorem State.zeroUnits_zero (s : State) {us : List (Nat × Bool × Nat)} {u : Nat × Bool × Nat} (h : u ∈ us) :
    (s.zeroUnits us).UnitZero u := by
  have keep : ∀ (vs : List (Nat × Bool × Nat)) (s : State), s.UnitZero u → (s.zeroUnits vs).UnitZero u := by
    intro vs
    induction vs with
    | nil => exact fun _ h => h
    | cons v vs ih => exact fun s h => ih _ (h.zeroUnit v)
  unfold State.zeroUnits at *
  induction us generalizing s with
  | nil => cases h
  | cons v us ih =>
    obtain rfl | h := List.mem_cons.1 h
    · exact keep us _ (s.zeroUnit_zero u)
    · exact ih _ h

/-- Zeroing units changes memory, what the homes and the core caches hold of it, and the marks. -/
theorem State.zeroUnits_eq (s : State) (us : List (Nat × Bool × Nat)) : s.zeroUnits us = { s with
    mem := (s.zeroUnits us).mem, poison := (s.zeroUnits us).poison, home := (s.zeroUnits us).home
    cores := (s.zeroUnits us).cores } := by
  unfold State.zeroUnits
  induction us generalizing s with
  | nil => rfl
  | cons u us ih => rw [List.foldl_cons, ih]; rfl

/-! ### The end of a partition (R122) -/

/-- What the partition had open in the engines, the TLBs and the contexts is gone; `mine` are its launches. -/
def State.dropPart (s : State) (p : Nat) (mine : List Nat) : State :=
  { s with
    eng := { s.eng with
      ops := s.eng.ops.filter fun (e : Nat × Op) => !mine.contains e.2.launch
      cmds := s.eng.cmds.filter fun (e : Nat × Cmd) => e.2.part != p
      batches := s.eng.batches.filter fun b => !mine.contains b.launch
      draws := s.eng.draws.filter fun d => d.part != p
      predictor := [] }
    dieTlb := s.dieTlb.map fun (e : Nat × List TlbEntry) => (e.1, e.2.filter fun t => t.part != p)
    cores := s.cores.map fun (e : Nat × Core) =>
      (e.1, { e.2 with tlb := e.2.tlb.filter fun t => t.part != p }) }.clearCtxs fun x => x.part == p

theorem State.destroyPart_eq (s : State) (p : Nat) : ∃ u mine, s.destroyPart p =
    { (State.dropPart u p mine).zeroUnits (s.part p).units with
      parts := Tab.erase p ((State.dropPart u p mine).zeroUnits (s.part p).units).parts } := by
  unfold State.destroyPart
  exact ⟨_, _, rfl⟩

theorem State.clearCtxs_invalid (s : State) (f : Ctx → Bool) (p : Nat) (hf : ∀ x : Ctx, x.part = p → f x = true) :
    ∀ e ∈ (s.clearCtxs f).host.ctxs, e.2.part = p → e.2.valid = false := by
  intro e he hp
  obtain ⟨e', -, rfl⟩ := List.mem_map.1 he
  by_cases h : f e'.2 = true
  · rw [if_pos h]; rfl
  · rw [if_neg h] at hp
    exact absurd (hf _ hp) h

/-- No context of the partition is valid, it has no command, its units read zero, and it does not exist. -/
theorem State.destroyPart_spec (s : State) (p : Nat) : let t := s.destroyPart p
    Tab.get? p t.parts = none ∧ (∀ e ∈ t.host.ctxs, e.2.part = p → e.2.valid = false) ∧ (∀ e ∈ t.eng.cmds, e.2.part ≠ p) ∧
      ∀ u ∈ (s.part p).units, t.UnitZero u := by
  obtain ⟨u, mine, h⟩ := s.destroyPart_eq p
  intro t
  have hz := State.zeroUnits_eq (u.dropPart p mine) (s.part p).units
  have hh : t.host = (u.dropPart p mine).host := by show (s.destroyPart p).host = _; rw [h, hz]
  have he : t.eng = (u.dropPart p mine).eng := by show (s.destroyPart p).eng = _; rw [h, hz]
  refine ⟨?_, ?_, ?_, fun v hv => ?_⟩
  · show Tab.get? p (s.destroyPart p).parts = none
    rw [h]
    exact (Tab.get?_erase _ _ _).trans (if_pos rfl)
  · rw [hh]
    exact State.clearCtxs_invalid _ _ p fun x hx => beq_iff_eq.2 hx
  · rw [he]
    exact fun e he => bne_iff_ne.1 (List.mem_filter.1 he).2
  · have := State.zeroUnits_zero (u.dropPart p mine) hv
    show (s.destroyPart p).UnitZero v
    rw [h]
    exact this

/-! ### The core of a frame reservation (R128, R147, R149) -/

/-- A core of the partition of a context on whose lanes its frame reservation fits. -/
def State.Fits (s : State) (x : Ctx) (d : CoreId) : Prop :=
  d ∈ (s.part x.part).cores ∧ d.die < 4 ∧ d.core < 48 ∧ ∀ k, k < 64 →
    ((s.laneUse (d.die, d.core, k)).plus (({ x with place := some d } : Ctx).share (d.die, d.core, k))).le (9, 10) = true

theorem mem_insertBy {e x : Frac × CoreId} {l : List (Frac × CoreId)} : e ∈ insertBy x l ↔ e = x ∨ e ∈ l := by
  induction l with
  | nil => simp [insertBy]
  | cons y l ih =>
    unfold insertBy
    split
    · rw [List.mem_cons, ih, List.mem_cons, or_left_comm]
    · rw [List.mem_cons]

/-- The order in which cores are tried leaves none out. -/
theorem State.mem_coreOrder (s : State) (l : List CoreId) (c : CoreId) : c ∈ s.coreOrder l ↔ c ∈ l := by
  have hf : ∀ (l : List CoreId) (acc : List (Frac × CoreId)),
      (∃ e ∈ l.foldl (fun acc c => insertBy (s.coreUse c, c) acc) acc, e.2 = c) ↔ c ∈ l ∨ ∃ e ∈ acc, e.2 = c := by
    intro l
    induction l with
    | nil => simp
    | cons d l ih =>
      intro acc
      rw [List.foldl_cons, ih]
      simp only [mem_insertBy, List.mem_cons, exists_eq_or_imp, eq_comm (a := c)]
      rw [or_left_comm, or_assoc]
  unfold State.coreOrder
  rw [List.mem_map, hf]
  simp

theorem mem_modules (c : CoreId) :
    c ∈ ((List.range 4).map fun d => (List.range 48).map fun c => CoreId.mk d c).flatten ↔ c.die < 4 ∧ c.core < 48 := by
  obtain ⟨d, n⟩ := c
  simp only [List.mem_flatten, List.mem_map, List.mem_range, exists_exists_and_eq_and, CoreId.mk.injEq]
  constructor
  · rintro ⟨a, ha, b, hb, rfl, rfl⟩
    exact ⟨ha, hb⟩
  · rintro ⟨hd, hn⟩
    exact ⟨d, hd, n, hn, rfl, rfl⟩

theorem State.framePlace_some {s : State} {x : Ctx} {d : CoreId} (h : s.framePlace x = some d) : s.Fits x d := by
  unfold State.framePlace at h
  dsimp only at h
  split at h
  · cases h
  · have hm := (s.mem_coreOrder _ _).1 (List.mem_of_find?_eq_some h)
    obtain ⟨hall, hc⟩ := List.mem_filter.1 hm
    obtain ⟨hd, hn⟩ := (mem_modules d).1 hall
    have hl := List.find?_some h
    exact ⟨List.contains_iff_mem.1 hc, hd, hn, fun k hk => List.all_eq_true.1 hl k (List.mem_range.2 hk)⟩

theorem State.framePlace_none {s : State} {x : Ctx} : s.framePlace x = none ↔ x.fdl = 0 ∨ ∀ d, ¬s.Fits x d := by
  constructor
  · intro h
    refine or_iff_not_imp_left.2 fun h0 d hd => ?_
    obtain ⟨hc, hdie, hcore, hl⟩ := hd
    unfold State.framePlace at h
    dsimp only at h
    rw [if_neg h0] at h
    refine List.find?_eq_none.1 h d ((s.mem_coreOrder _ _).2 ?_) ?_
    · exact List.mem_filter.2 ⟨(mem_modules d).2 ⟨hdie, hcore⟩, List.contains_iff_mem.2 hc⟩
    · exact List.all_eq_true.2 fun k hk => hl k (List.mem_range.1 hk)
  · intro h
    cases hf : s.framePlace x with
    | none => rfl
    | some d =>
      obtain h0 | hn := h
      · unfold State.framePlace at hf
        dsimp only at hf
        rw [if_pos h0] at hf
        cases hf
      · exact absurd (State.framePlace_some hf) (hn d)

end Sys2Proof.Machine
end

section
/-!
O48. The partition commands, one by one: what each answers, and what it changes (R122, R123, R125, R127, R128, R137).
-/

namespace Sys2Proof.Machine

open Sys2Proof

/-- Every other partition is as before. -/
def State.Apart (s : State) (p : Nat) (t : State) : Prop := ∀ q, q ≠ p → Tab.get? q t.parts = Tab.get? q s.parts

theorem State.Apart.of_set {s t : State} {p : Nat} {x : Part} (h : t.parts = Tab.set p x s.parts) :
    s.Apart p t ∧ t.part p = x := by
  refine ⟨fun q hq => ?_, ?_⟩
  · rw [h, Tab.get?_set, if_neg hq]
  · rw [State.part, h, Tab.getD_set, if_pos rfl]

/-! ### PCREATE, PDESTROY and PQUERY -/

section
variable {s : State} {m : Mcmd} {p : Nat} (ha : s.Accepts m .partition) (hp : opByte (s.operands m) 0 = p)
include ha hp

theorem pcreate_turned (h : 48 ≤ p ∨ (Tab.get? p s.parts).isSome = true ∨ ¬s.Named0 m (fun n => n = 0)) :
    Turned (.pcreate m) s m 2 := by
  subst hp
  refine turned_of_run rfl ha (if_pos (State.malformed_of (P := fun n => n = 0) (by simp) ?_))
  rw [Bool.or_eq_true, decide_eq_true_eq, or_assoc]
  exact h

theorem pcreate_replies (hlt : p < 48) (he : ¬(Tab.get? p s.parts).isSome = true) (hn : s.Named0 m (fun n => n = 0)) :
    Replies (.pcreate m) s m 0 [] fun t =>
      Tab.get? p t.parts = some { Part.empty with key := some s.sec.randoms } ∧ s.Apart p t ∧
      t.sec.randoms = s.sec.randoms + 1 ∧ t.mem = s.mem ∧ t.launches = s.launches := by
  subst hp
  have hb : (decide (47 < opByte (s.operands m) 0) || s.exists_ (opByte (s.operands m) 0)) = false := by
    rw [State.exists_, Bool.eq_false_iff.2 he, Bool.or_false, decide_eq_false_iff_not]
    omega
  refine replies_of_run rfl ha (if_neg (State.not_malformed (P := fun n => n = 0) (by simp) hb hn)) ?_
  exact ⟨(Tab.get?_set _ _ _ _).trans (if_pos rfl), fun q hq => (Tab.get?_set _ _ _ _).trans (if_neg hq), rfl, rfl, rfl⟩

theorem pdestroy_pquery_turned (h : ¬(Tab.get? p s.parts).isSome = true ∨ ¬s.Named0 m (fun n => n = 0)) :
    Turned (.pdestroy m) s m 2 ∧ Turned (.pquery m) s m 2 := by
  subst hp
  exact ⟨turned_of_run rfl ha (State.onPart_not (P := fun n => n = 0) (by simp) h),
    turned_of_run rfl ha (State.onPart_not (P := fun n => n = 0) (by simp) h)⟩

variable (he : (Tab.get? p s.parts).isSome = true)
include he

theorem pdestroy_replies (hn : s.Named0 m (fun n => n = 0)) : Replies (.pdestroy m) s m 0 [] fun t => Tab.get? p t.parts = none ∧
    (∀ e ∈ t.host.ctxs, e.2.part = p → e.2.valid = false) ∧ (∀ e ∈ t.eng.cmds, e.2.part ≠ p) ∧
    ∀ u ∈ (s.part p).units, t.UnitZero u := by
  subst hp
  exact replies_of_run rfl ha (State.onPart_of (P := fun n => n = 0) (by simp) he hn) (s.destroyPart_spec _)

theorem pquery_replies (hn : s.Named0 m (fun n => n = 0)) : Replies (.pquery m) s m 0
    (leBytes 8 (s.part p).dry.code ++ ((s.part p).amounts.map (leBytes 8)).flatten) fun t => t.parts = s.parts ∧
      t.mem = s.mem ∧ t.cur = s.cur := by
  subst hp
  exact replies_of_run rfl ha (State.onPart_of (P := fun n => n = 0) (by simp) he hn) ⟨rfl, rfl, rfl⟩

end

/-! ### PGRANT and PREVOKE -/

/-- Another partition has something of an item of a list. -/
def State.OthersHave (s : State) (p kind : Nat) (xs : List Nat) : Prop :=
  ∃ e ∈ s.parts, e.1 ≠ p ∧ ∃ x ∈ xs, e.2.has kind x = true

/-- The units of a list that a partition has not got. -/
def Part.newUnits (p : Part) (kind : Nat) (xs : List Nat) : List (Nat × Bool × Nat) :=
  if kind = 2 then (xs.filter fun x => !p.has 2 x).map unitItem else []

theorem items_malformed {s : State} {m : Mcmd} (ha : s.Accepts m .partition)
    (h : ∀ kind xs, ¬s.Items m [0, 1, 2, 3, 4, 5, 6, 7] kind xs) :
    Turned (.pgrant m) s m 2 ∧ Turned (.prevoke m) s m 2 :=
  ⟨turned_of_run rfl ha (by simp only [State.itemsOf_none h]), turned_of_run rfl ha (by simp only [State.itemsOf_none h])⟩

section
variable {s : State} {p kind : Nat} {xs : List Nat}

theorem State.revokeItems_others (h : s.OthersHave p kind xs) : s.revokeItems p kind xs = (1, [], s) :=
  if_pos ((s.othersHave_any p kind xs).2 h)

variable (ho : ¬s.OthersHave p kind xs)
include ho

theorem State.revokeItems_missing (h : ∃ x ∈ xs, (s.part p).hasAll kind x = false) : s.revokeItems p kind xs = (2, [], s) := by
  refine (if_neg (mt (s.othersHave_any p kind xs).1 ho)).trans (if_pos ?_)
  simpa using h

variable (hall : ∀ x ∈ xs, (s.part p).hasAll kind x = true)
include hall

theorem State.revokeItems_used (h : ∃ x ∈ xs, s.inUse p kind x = true) : s.revokeItems p kind xs = (3, [], s) := by
  refine (if_neg (mt (s.othersHave_any p kind xs).1 ho)).trans ((if_neg ?_).trans (if_pos ?_))
  · simpa using hall
  · simpa using h

variable (hu : ∀ x ∈ xs, s.inUse p kind x = false)
include hu

theorem State.revokeItems_idle : s.revokeItems p kind xs =
    if !s.limitsOk p (xs.foldl (Part.take kind) (s.part p)) then (1, [], s)
    else
      let t : State := { s.setPart p (xs.foldl (Part.take kind) (s.part p)) with eng := { s.eng with predictor := [] } }
      (0, [], if kind = 0 then xs.foldl (fun s x => s.coreRevoked (coreOf x)) t else t) := by
  refine (if_neg (mt (s.othersHave_any p kind xs).1 ho)).trans ((if_neg ?_).trans (if_neg ?_))
  · simpa using hall
  · simpa using hu

end

section
variable {s : State} {m : Mcmd} {p : Nat} (ha : s.Accepts m .partition) (hp : opByte (s.operands m) 0 = p)
include ha hp

variable {kind : Nat} {xs : List Nat} (hi : s.Items m [0, 1, 2, 3, 4, 5, 6, 7] kind xs)
include hi

theorem items_absent (he : ¬(Tab.get? p s.parts).isSome = true) : Turned (.pgrant m) s m 2 ∧ Turned (.prevoke m) s m 2 := by
  have hx : s.exists_ p = false := Bool.eq_false_iff.2 he
  exact ⟨turned_of_run rfl ha (by simp only [State.itemsOf_iff.2 hi, hp, hx, Bool.false_eq_true, if_false]),
    turned_of_run rfl ha (by simp only [State.itemsOf_iff.2 hi, hp, hx, Bool.false_eq_true, if_false])⟩

variable (he : (Tab.get? p s.parts).isSome = true)
include he

theorem pgrant_refused (h : s.OthersHave p kind xs ∨ s.limitsOk p (xs.foldl (Part.give kind) (s.part p)) = false) :
    Turned (.pgrant m) s m 1 := by
  have hx : s.exists_ p = true := he
  refine turned_of_run rfl ha ?_
  simp only [State.itemsOf_iff.2 hi, hp, hx, if_true]
  refine if_pos ?_
  rw [Bool.or_eq_true, State.othersHave_any, Bool.not_eq_true']
  exact h

theorem pgrant_replies (ho : ¬s.OthersHave p kind xs) (hl : s.limitsOk p (xs.foldl (Part.give kind) (s.part p)) = true) :
    Replies (.pgrant m) s m 0 [] fun t => (s.part p).Given (t.part p) kind xs ∧ s.Apart p t ∧ t.eng.predictor = [] ∧
      (kind ≠ 2 → t.mem = s.mem) ∧
      ∀ x ∈ xs, kind = 2 → unitItem x ∉ (s.part p).units → t.UnitZero (unitItem x) := by
  have hx : s.exists_ p = true := he
  have hb : ¬(xs.any (s.othersHave p kind) || !s.limitsOk p (xs.foldl (Part.give kind) (s.part p))) = true := by
    rw [Bool.or_eq_true, State.othersHave_any, hl]
    simpa [State.OthersHave] using ho
  let z := s.zeroUnits ((s.part p).newUnits kind xs)
  have hz : z.parts = s.parts := by dsimp only [z]; rw [State.zeroUnits_eq]
  refine replies_of_run (t := { z.setPart p (xs.foldl (Part.give kind) (s.part p)) with eng := { z.eng with predictor := [] } })
    rfl ha ?_ ?_
  · simp only [State.itemsOf_iff.2 hi, hp, hx, if_true]
    exact if_neg hb
  · have hset := State.Apart.of_set (s := s) (p := p) (x := xs.foldl (Part.give kind) (s.part p)) (t := z.setPart p _)
      (congrArg (Tab.set p _) hz)
    refine ⟨?_, hset.1, rfl, fun hk => ?_, fun x hxs hk hu => ?_⟩
    · exact (congrArg (fun q => (s.part p).Given q kind xs) hset.2).mpr ((s.part p).given kind xs)
    · show (s.zeroUnits ((s.part p).newUnits kind xs)).mem = s.mem
      rw [Part.newUnits, if_neg hk]
      rfl
    · have hm : unitItem x ∈ (s.part p).newUnits kind xs := by
        rw [Part.newUnits, if_pos hk]
        refine List.mem_map.2 ⟨x, List.mem_filter.2 ⟨hxs, ?_⟩, rfl⟩
        simpa [Part.has] using hu
      exact State.zeroUnits_zero s hm

theorem prevoke_turned {code : Nat} (h : s.revokeItems p kind xs = (code, [], s)) : Turned (.prevoke m) s m code := by
  have hx : s.exists_ p = true := he
  refine turned_of_run rfl ha ?_
  simp only [State.itemsOf_iff.2 hi, hp, hx, if_true]
  exact h

theorem prevoke_replies (ho : ¬s.OthersHave p kind xs) (hall : ∀ x ∈ xs, (s.part p).hasAll kind x = true)
    (hu : ∀ x ∈ xs, s.inUse p kind x = false) (hl : s.limitsOk p (xs.foldl (Part.take kind) (s.part p)) = true) :
    Replies (.prevoke m) s m 0 [] fun t => (s.part p).Taken (t.part p) kind xs ∧ s.Apart p t := by
  have hx : s.exists_ p = true := he
  let u : State := { s.setPart p (xs.foldl (Part.take kind) (s.part p)) with eng := { s.eng with predictor := [] } }
  let t : State := if kind = 0 then xs.foldl (fun s x => s.coreRevoked (coreOf x)) u else u
  have hc : SameControl u t := by
    dsimp only [t]
    split
    · exact .foldl (fun s x => s.coreRevoked_sameControl (coreOf x)) xs u
    · exact .refl u
  refine replies_of_run (t := t) rfl ha ?_ ?_
  · simp only [State.itemsOf_iff.2 hi, hp, hx, if_true]
    exact (State.revokeItems_idle ho hall hu).trans (if_neg (by simp [hl]))
  · have hset := State.Apart.of_set (s := s) (p := p) (t := t.startReply m 0 []) hc.parts
    exact ⟨(congrArg (fun q => (s.part p).Taken q kind xs) hset.2).mpr ((s.part p).taken kind xs), hset.1⟩

end

/-! ### PBASES -/

section
variable {s : State} {m : Mcmd} {p : Nat} (ha : s.Accepts m .partition) (hp : opByte (s.operands m) 0 = p)

/-- The values of PBASES, and what each is aligned to (R212, R416). -/
def baseValue (l : List Byte) (i : Nat) : Nat := opNat l (8 + 8 * i) 8
def BasesAligned (l : List Byte) : Prop := baseValue l 0 % 4 = 0 ∧ baseValue l 1 % 65536 = 0 ∧ baseValue l 2 % 65536 = 0 ∧
  baseValue l 3 % 4096 = 0 ∧ baseValue l 4 % 4096 = 0 ∧ baseValue l 5 % 4096 = 0 ∧ baseValue l 6 % 32 = 0 ∧
  baseValue l 7 % 64 = 0

theorem basesAligned_iff (l : List Byte) :
    baseAlign.zipIdx.all (fun e => baseValue l e.2 % e.1 == 0) = true ↔ BasesAligned l := by
  simp [baseAlign, BasesAligned]

include ha hp

theorem pbases_turned (h : ¬(Tab.get? p s.parts).isSome = true ∨ ¬s.Named0 m (fun n => n = 0 ∨ (8 ≤ n ∧ n < 72)) ∨
    ¬BasesAligned (s.operands m)) : Turned (.pbases m) s m 2 := by
  subst hp
  by_cases hk : (Tab.get? (opByte (s.operands m) 0) s.parts).isSome = true ∧ s.Named0 m (fun n => n = 0 ∨ (8 ≤ n ∧ n < 72))
  · have hb : ¬BasesAligned (s.operands m) := (h.resolve_left (not_not.2 hk.1)).resolve_left (not_not.2 hk.2)
    refine turned_of_run rfl ha ((State.onPart_of (P := fun n => n = 0 ∨ (8 ≤ n ∧ n < 72)) (by simp) hk.1 hk.2).trans
      (if_pos ?_))
    rw [Bool.not_eq_true', ← Bool.not_eq_true]
    exact mt (basesAligned_iff _).1 hb
  · exact turned_of_run rfl ha (State.onPart_not (P := fun n => n = 0 ∨ (8 ≤ n ∧ n < 72)) (by simp) (not_and_or.1 hk))

theorem pbases_replies (he : (Tab.get? p s.parts).isSome = true) (hn : s.Named0 m (fun n => n = 0 ∨ (8 ≤ n ∧ n < 72)))
    (hb : BasesAligned (s.operands m)) : Replies (.pbases m) s m 0 [] fun t => s.Apart p t ∧ t.mem = s.mem ∧ t.cur = s.cur ∧
      t.part p = { s.part p with
        tvec := BitVec.ofNat 64 (baseValue (s.operands m) 0), ptroot := BitVec.ofNat 64 (baseValue (s.operands m) 1)
        geobase := BitVec.ofNat 64 (baseValue (s.operands m) 2), accbase := BitVec.ofNat 64 (baseValue (s.operands m) 3)
        scnbase := BitVec.ofNat 64 (baseValue (s.operands m) 4), savebase := BitVec.ofNat 64 (baseValue (s.operands m) 5)
        trcdesc := BitVec.ofNat 64 (baseValue (s.operands m) 6), poolbase := BitVec.ofNat 64 (baseValue (s.operands m) 7) } := by
  subst hp
  refine replies_of_run rfl ha ((State.onPart_of (P := fun n => n = 0 ∨ (8 ≤ n ∧ n < 72)) (by simp) he hn).trans
    (if_neg ?_)) ?_
  · rw [Bool.not_eq_true', Bool.not_eq_false]
    exact (basesAligned_iff _).2 hb
  · exact ⟨(State.Apart.of_set rfl).1, rfl, rfl, (State.Apart.of_set (s := s) rfl).2⟩

end

/-! ### DRYDN (R23) -/

theorem State.drydown_running {s : State} {p : Nat} (h : (s.part p).dry = .running) : s.drydown p =
    (s.setPart p { s.part p with dry := .quiescing, since := s.clock.cycle }).stopPart p := by
  unfold State.drydown
  rw [h]
  rfl

theorem State.drydown_not {s : State} {p : Nat} (h : (s.part p).dry ≠ .running) : s.drydown p = s :=
  if_pos (bne_iff_ne.2 h)

theorem State.drydown_spec (s : State) (p : Nat) : let t := s.drydown p
    s.Apart p t ∧ (s.eng.cmds = [] → t.mem = s.mem) ∧
    t.part p = (if (s.part p).dry = .running then { s.part p with dry := .quiescing, since := s.clock.cycle } else s.part p) ∧
    (s.WellNamed → (s.part p).dry = .running → ∀ g ∈ t.groups, g.part = p → g.hold ≠ .exited → g.stop.isSome = true) := by
  intro t
  by_cases hr : (s.part p).dry = .running
  · let u := s.setPart p { s.part p with dry := .quiescing, since := s.clock.cycle }
    have ht : t = u.stopPart p := State.drydown_running hr
    have hs := u.stopPart_stops p
    have hset := State.Apart.of_set (s := s) (p := p) (t := u.stopPart p) hs.parts
    rw [ht, if_pos hr]
    exact ⟨hset.1, fun hc => hs.mem hc, hset.2, fun hn _ g hg hp hx => State.stopPart_halted (s := u) hn hg hp hx⟩
  · have ht : t = s := State.drydown_not hr
    rw [ht, if_neg hr]
    exact ⟨fun _ _ => rfl, fun _ => rfl, rfl, fun _ h => absurd h hr⟩

section
variable {s : State} {m : Mcmd} {p : Nat} (ha : s.Accepts m .partition) (hp : opByte (s.operands m) 0 = p) {kind : Nat}
  {xs : List Nat} (hi : s.Items m [0, 1, 2, 4] kind xs)
include ha hp hi

theorem drydn_absent (he : ¬(Tab.get? p s.parts).isSome = true) : Turned (.drydn m) s m 2 := by
  have hx : s.exists_ p = false := Bool.eq_false_iff.2 he
  exact turned_of_run rfl ha (by simp only [State.itemsOf_iff.2 hi, hp, hx, Bool.not_false, if_true])

variable (he : (Tab.get? p s.parts).isSome = true)
include he

theorem drydn_others (ho : s.OthersHave p kind xs) : Turned (.drydn m) s m 1 := by
  have hx : s.exists_ p = true := he
  refine turned_of_run rfl ha ?_
  simp only [State.itemsOf_iff.2 hi, hp, hx, Bool.not_true, Bool.false_eq_true, if_false]
  exact if_pos ((s.othersHave_any p kind xs).2 ho)

variable (ho : ¬s.OthersHave p kind xs)
include ho

theorem drydn_missing (h : ∃ x ∈ xs, (s.part p).hasAll kind x = false) : Turned (.drydn m) s m 2 := by
  have hx : s.exists_ p = true := he
  refine turned_of_run rfl ha ?_
  simp only [State.itemsOf_iff.2 hi, hp, hx, Bool.not_true, Bool.false_eq_true, if_false]
  refine (if_neg (mt (s.othersHave_any p kind xs).1 ho)).trans (if_pos ?_)
  simpa using h

theorem drydn_replies {P : State → Prop} (h : ∀ x ∈ xs, (s.part p).hasAll kind x = true)
    (hP : P ((s.drydown p).startReply m 0 [])) : Replies (.drydn m) s m 0 [] P := by
  have hx : s.exists_ p = true := he
  refine replies_of_run (t := s.drydown p) rfl ha ?_ hP
  simp only [State.itemsOf_iff.2 hi, hp, hx, Bool.not_true, Bool.false_eq_true, if_false]
  refine (if_neg (mt (s.othersHave_any p kind xs).1 ho)).trans (if_neg ?_)
  simpa using h

end

/-! ### CTXWR (R127, R128) -/

/-- A record that R127 forbids. -/
def State.BadRecord (s : State) (n : Nat) : Prop :=
  field n 2 4 < 4 ∨ field n 416 32 < field n 384 32 ∨ (Tab.get? (field n 6 6) s.parts).isSome = false ∨
    field n 12 9 ∉ (s.part (field n 6 6)).vfs ∨ field n 512 64 % 64 ≠ 0 ∨ field n 448 64 % 4096 ≠ 0

theorem State.ctxBad_iff (s : State) (old : Option Ctx) (n : Nat) : s.ctxBad (Ctx.written old n) = true ↔ s.BadRecord n := by
  have h64 : field n 512 64 % 2 ^ 64 % 64 = field n 512 64 % 64 := by omega
  have h4096 : field n 448 64 % 2 ^ 64 % 4096 = field n 448 64 % 4096 := by omega
  simp only [State.ctxBad, State.exists_, Bool.or_eq_true, decide_eq_true_eq, Bool.not_eq_true', bne_iff_ne, or_assoc,
    List.contains_eq_mem, decide_eq_false_iff_not]
  simp only [Ctx.written, State.BadRecord, BitVec.toNat_ofNat, h64, h4096]

/-- The VF of a record has 4,096 other valid contexts (R127). -/
def State.Crowded (s : State) (c n : Nat) : Prop := n.testBit 0 = true ∧
  4096 ≤ (s.host.ctxs.filter fun (e : Nat × Ctx) => e.1 != c && e.2.valid && e.2.vf == field n 12 9).length

/-- The state without a context. -/
def State.withoutCtx (s : State) (c : Nat) : State := { s with host := { s.host with ctxs := Tab.erase c s.host.ctxs } }

/-- A record stands as the context of a number, and nothing else has changed. -/
def State.WroteCtx (s : State) (c : Nat) (y : Ctx) (t : State) : Prop :=
  Tab.get? c t.host.ctxs = some y ∧ t.mem = s.mem ∧ t.cur = s.cur ∧
    ∀ k, k ≠ c → Tab.get? k t.host.ctxs = Tab.get? k s.host.ctxs

theorem State.WroteCtx.of_set (s : State) (m : Mcmd) (c : Nat) (y : Ctx) :
    s.WroteCtx c y (State.startReply { s with host := { s.host with ctxs := Tab.set c y s.host.ctxs } } m 0 []) :=
  ⟨(Tab.get?_set _ _ _ _).trans (if_pos rfl), rfl, rfl, fun _ hk => (Tab.get?_set _ _ _ _).trans (if_neg hk)⟩

section
variable {s : State} {c n : Nat} {x : Ctx} (hx : Ctx.written (Tab.get? c s.host.ctxs) n = x)

theorem State.writeCtx_bad (h : s.BadRecord n) : s.writeCtx c n = (2, [], s) := if_pos ((s.ctxBad_iff _ n).2 h)

variable (hb : ¬s.BadRecord n)
include hb

theorem State.writeCtx_crowded (h : s.Crowded c n) : s.writeCtx c n = (1, [], s) :=
  (if_neg (mt (s.ctxBad_iff _ n).1 hb)).trans (if_pos (Bool.and_eq_true_iff.2 ⟨h.1, decide_eq_true h.2⟩))

variable (hc : ¬s.Crowded c n)
include hx hc

theorem State.writeCtx_room : s.writeCtx c n =
    if x.valid && x.period != 0 then
      match (s.withoutCtx c).framePlace x with
      | none => (1, [], s)
      | some core => (0, [], { s with host := { s.host with ctxs := Tab.set c { x with place := some core } s.host.ctxs } })
    else (0, [], { s with host := { s.host with ctxs := Tab.set c x s.host.ctxs } }) := by
  subst hx
  exact (if_neg (mt (s.ctxBad_iff _ n).1 hb)).trans
    (if_neg fun h => hc ⟨(Bool.and_eq_true_iff.1 h).1, of_decide_eq_true (Bool.and_eq_true_iff.1 h).2⟩)

theorem State.writeCtx_plain (h : x.valid = false ∨ x.period = 0) :
    s.writeCtx c n = (0, [], { s with host := { s.host with ctxs := Tab.set c x s.host.ctxs } }) := by
  rw [State.writeCtx_room hx hb hc, if_neg]
  rw [Bool.and_eq_true, bne_iff_ne]
  rintro ⟨hv, hp⟩
  exact h.elim (fun h => Bool.false_ne_true (h.symm.trans hv)) hp

variable (hv : x.valid = true) (hp : x.period ≠ 0)
include hv hp

theorem State.writeCtx_unplaced (h : x.fdl = 0 ∨ ∀ d, ¬(s.withoutCtx c).Fits x d) : s.writeCtx c n = (1, [], s) := by
  rw [State.writeCtx_room hx hb hc, if_pos (Bool.and_eq_true_iff.2 ⟨hv, bne_iff_ne.2 hp⟩), State.framePlace_none.2 h]

theorem State.writeCtx_placed (h0 : x.fdl ≠ 0) (h : ∃ d, (s.withoutCtx c).Fits x d) : ∃ d, (s.withoutCtx c).Fits x d ∧
    s.writeCtx c n = (0, [], { s with host := { s.host with ctxs := Tab.set c { x with place := some d } s.host.ctxs } }) := by
  cases hf : (s.withoutCtx c).framePlace x with
  | none =>
    obtain ⟨d, hd⟩ := h
    exact absurd hd ((State.framePlace_none.1 hf).resolve_left h0 d)
  | some d =>
    refine ⟨d, State.framePlace_some hf, ?_⟩
    rw [State.writeCtx_room hx hb hc, if_pos (Bool.and_eq_true_iff.2 ⟨hv, bne_iff_ne.2 hp⟩), hf]

end

section
variable {s : State} {m : Mcmd} (ha : s.Accepts m .partition)
include ha

theorem ctxwr_malformed (h : 16384 ≤ opNat (s.operands m) 0 2 ∨ ¬s.Named0 m (fun n => n < 2 ∨ (64 ≤ n ∧ n < 320))) :
    Turned (.ctxwr m) s m 2 := by
  refine turned_of_run rfl ha (if_pos (State.malformed_of (P := fun n => n < 2 ∨ (64 ≤ n ∧ n < 320)) (by simp) ?_))
  rw [decide_eq_true_eq]
  exact h

variable (hc : opNat (s.operands m) 0 2 < 16384) (hn : s.Named0 m (fun n => n < 2 ∨ (64 ≤ n ∧ n < 320)))
include hc hn

theorem ctxwr_turned {code : Nat}
    (h : s.writeCtx (opNat (s.operands m) 0 2) (opNat (s.operands m) 64 256) = (code, [], s)) : Turned (.ctxwr m) s m code :=
  turned_of_run rfl ha ((if_neg (State.not_malformed (P := fun n => n < 2 ∨ (64 ≤ n ∧ n < 320)) (by simp)
    (decide_eq_false (Nat.not_le.2 hc)) hn)).trans h)

theorem ctxwr_replies {y : Ctx} (h : s.writeCtx (opNat (s.operands m) 0 2) (opNat (s.operands m) 64 256) =
      (0, [], { s with host := { s.host with ctxs := Tab.set (opNat (s.operands m) 0 2) y s.host.ctxs } })) :
    Replies (.ctxwr m) s m 0 [] (s.WroteCtx (opNat (s.operands m) 0 2) y) :=
  replies_of_run rfl ha ((if_neg (State.not_malformed (P := fun n => n < 2 ∨ (64 ≤ n ∧ n < 320)) (by simp)
    (decide_eq_false (Nat.not_le.2 hc)) hn)).trans h) (State.WroteCtx.of_set s m _ y)

end

/-! ### The obligation -/

/-- Settles O48: each command is answered by the first condition that its operands fail, and has its effect where none does. -/
theorem partitionCommands : Obligations.PartitionCommands := by
  unfold Obligations.PartitionCommands
  intro s m ha l p here apart
  refine ⟨⟨fun hlt he hn => pcreate_replies ha rfl hlt he hn, pcreate_turned ha rfl⟩,
    ⟨fun he hn => pdestroy_replies ha rfl he hn, fun he hn => pquery_replies ha rfl he hn, pdestroy_pquery_turned ha rfl⟩,
    fun kind xs hi => ?_, fun h => items_malformed ha h, ?_, fun kind xs hi => ?_, ?_⟩
  · intro others
    refine ⟨pgrant_refused ha rfl hi, fun he ho hl => pgrant_replies ha rfl hi he ho hl,
      fun he ho => prevoke_turned ha rfl hi he (State.revokeItems_others ho),
      fun he ho hm => prevoke_turned ha rfl hi he (State.revokeItems_missing ho hm), fun he ho hall => ⟨fun hu =>
        prevoke_turned ha rfl hi he (State.revokeItems_used ho hall hu), fun hu => ⟨fun hl => ?_, fun hl =>
          prevoke_replies ha rfl hi he ho hall hu hl⟩⟩, items_absent ha rfl hi⟩
    exact prevoke_turned ha rfl hi he ((State.revokeItems_idle ho hall hu).trans (if_pos (by rw [hl, Bool.not_false])))
  · intro v named aligned
    exact ⟨pbases_turned ha rfl, fun he hn hb => pbases_replies ha rfl he hn hb⟩
  · intro others
    refine ⟨drydn_absent ha rfl hi, drydn_others ha rfl hi, drydn_missing ha rfl hi, fun he ho hall => ?_⟩
    exact drydn_replies ha rfl hi he ho hall (s.drydown_spec p)
  · intro c n old x named bad crowded wrote s' fits
    refine ⟨⟨rfl, ?_, ?_, rfl, rfl, rfl, rfl⟩, fun h => ?_, fun hc hn hb => ⟨fun h => ?_, fun hr h => ?_, fun hr hv hp =>
      ⟨fun h => ?_, fun h0 h => ?_⟩⟩⟩
    · show Ctx.head (Ctx.written old n) = _
      cases old <;> rfl
    · show Ctx.tail (Ctx.written old n) = _
      cases old <;> rfl
    · by_cases hm : 16384 ≤ c ∨ ¬named
      · exact ctxwr_malformed ha hm
      · obtain ⟨hc, hn⟩ := not_or.1 hm
        have hb : bad := (h.resolve_left hc).resolve_left hn
        exact ctxwr_turned ha (Nat.not_le.1 hc) (not_not.1 hn) (State.writeCtx_bad hb)
    · exact ctxwr_turned ha hc hn (State.writeCtx_crowded hb h)
    · exact ctxwr_replies ha hc hn (State.writeCtx_plain rfl hb hr h)
    · exact ctxwr_turned ha hc hn (State.writeCtx_unplaced rfl hb hr hv hp h)
    · obtain ⟨d, hd, hw⟩ := State.writeCtx_placed rfl hb hr hv hp h0 h
      exact ⟨d, hd, ctxwr_replies ha hc hn hw⟩

end Sys2Proof.Machine
end

section
/-!
The order of what a step takes (R144, R179, R284), and the issue of a lane up to the instruction that it decodes.
-/

namespace Sys2Proof.Machine

open Sys2Proof

/-! ### The issue of a split (R284, R301) -/

/-- An untraced instruction runs without packets. -/
theorem State.traced_off {s : State} (h : s.cur.trc.on = false) (run : State → Out) : s.traced run = run s :=
  if_pos (by rw [h]; rfl)

/-- A split that has no trap left to take issues the words at its PC. -/
theorem State.issueCur_fetched {s u : State} {ws : List Nat} (raise : ∀ k t w m, s.cur.sp.wait ≠ .raise k t w m)
    (abandoned : s.cur.abandoned = []) (fetched : s.fetchWords maxWords [] = (.ok ws, u)) : s.issueCur = u.issueWords ws := by
  unfold State.issueCur
  split
  · next e => exact absurd e (raise _ _ _ _)
  · rw [abandoned, fetched]
    rfl

/-- A split whose issue is `run` of the state after the fetch. -/
theorem State.issue_fetched {s u : State} {c : Cand} {ws : List Nat}
    (raise : ∀ k t w m, (s.view c.g c.slot).cur.sp.wait ≠ .raise k t w m) (abandoned : (s.view c.g c.slot).cur.abandoned = [])
    (fetched : (s.view c.g c.slot).fetchWords maxWords [] = (.ok ws, u)) :
    s.issue c = match u.issueWords ws with
      | .next t => .next (t.afterLane (s.view c.g c.slot).cur c)
      | r => r := by
  unfold State.issue
  dsimp only
  rw [State.issueCur_fetched raise abandoned fetched] <;> rfl

/-- The state in which the words of an instruction run: the first of them is kept for the trap frame (R194). -/
def State.withFirstWord (u : State) (ws : List Nat) : State := { u with cur := { u.cur with iw0 := BitVec.ofNat 32 (ws.headD 0) } }

/-- The words of an instruction, with the first of them kept: a breakpoint, the illegal instruction, or what they decode to. -/
theorem State.issueWords_eq (u : State) (ws : List Nat) :
    u.issueWords ws =
      if (u.withFirstWord ws).breaks then
        (u.withFirstWord ws).traced fun s => .next (s.breakAt (predOfWords (ws.map (BitVec.ofNat 32))))
      else match decodeWords ws with
        | .error _ => (u.withFirstWord ws).traced (exec (.illegalInstruction (ws.map (BitVec.ofNat 32))))
        | .ok i =>
          if (u.withFirstWord ws).cur.sp.st = 2 && (u.withFirstWord ws).cur.sp.rem = 0 then .next ((u.withFirstWord ws).skip i)
          else if (u.withFirstWord ws).cur.allDenied then .next (u.withFirstWord ws).denyAll
          else (u.withFirstWord ws).noted i ((u.withFirstWord ws).traced (exec i)) := by
  cases ws <;> rfl

/-- Words that decode run as the instruction, and what it writes is kept (R167). -/
theorem State.issueWords_decoded {u : State} {ws : List Nat} {i : Instr} (breaks : (u.withFirstWord ws).breaks = false)
    (off : (u.withFirstWord ws).cur.trc.on = false) (decoded : decodeWords ws = .ok i)
    (some_ : ¬((u.withFirstWord ws).cur.sp.st = 2 ∧ (u.withFirstWord ws).cur.sp.rem = 0))
    (denied : (u.withFirstWord ws).cur.allDenied = false) :
    u.issueWords ws = (u.withFirstWord ws).noted i (exec i (u.withFirstWord ws)) := by
  simp only [State.issueWords_eq, breaks, decoded, denied, State.traced_off off, Bool.false_eq_true, if_false]
  exact if_neg (by simpa using some_)

/-- Words that do not decode run as the illegal instruction (R300, R301). -/
theorem State.issueWords_illegal {u : State} {ws : List Nat} {e : DecodeErr} (breaks : (u.withFirstWord ws).breaks = false)
    (off : (u.withFirstWord ws).cur.trc.on = false) (decoded : decodeWords ws = .error e) :
    u.issueWords ws = exec (.illegalInstruction (ws.map (BitVec.ofNat 32))) (u.withFirstWord ws) := by
  simp [State.issueWords_eq, breaks, decoded, State.traced_off off]

/-! ### The order of a step -/

section
variable {s : State} (settled : s.settleWaiters = s)
include settled

/-- An input is taken before everything else. -/
theorem step_input {i : Instr} {l : List Instr} (h : s.inputs = i :: l) :
    step s = if fromOutside i = true then exec i { s with inputs := l } else .next { s with inputs := l } := by
  unfold step
  simp only [settled, h]

variable (idle : s.inputs = [])
include idle

theorem step_event {i : Instr} (h : s.nextEvent = some i) : step s = exec i s := by
  unfold step
  simp only [settled, idle, h]

variable (none_ : s.nextEvent = none)
include none_

theorem step_locked (h : s.sec.state = .locked) : step s = .fault .locked := by
  unfold step
  simp only [settled, idle, none_, h]
  rfl

variable (run : s.sec.state ≠ .locked)
include run

/-- The step of a module that runs, where no input and no event is due: a ring's entry, an issue, a rejoin's expiry, a trace block, or
the end of the cycle. -/
theorem step_running : step s = match s.ringTurn, s.nextIssue with
    | some i, _ => exec i s
    | none, some c => s.issue c
    | none, none => match s.lateEvent, s.traceEvent with
      | some i, _ => exec i { s with turn := laneCount }
      | none, some i => exec i s
      | none, none => .next s.moveStranded.tick := by
  unfold step
  simp only [settled, idle, none_]
  rw [if_neg (by simpa using run)] <;> rfl

end

/-- Settles O56: by the order of a step, and the issue of the words fetched. -/
theorem stepDecoded : Obligations.StepDecoded := by
  unfold Obligations.StepDecoded
  intro s settled
  refine ⟨fun i l h => step_input settled h, fun idle => ⟨fun i h => step_event settled idle h,
    fun h locked => step_locked settled idle h locked, fun h run => ⟨?_, ?_, ?_⟩⟩⟩
  all_goals have order := step_running settled idle h run
  · intro i ring
    rw [order, ring]
  · intro ring issue
    rw [ring, issue] at order
    refine ⟨fun i late => ?_, fun i late trace => ?_, fun late trace => ?_⟩
    · rw [order, late]
    · rw [order, late, trace]
    · rw [order, late, trace]
  · intro c u ws ring issue raise abandoned fetched v after breaks off
    rw [ring, issue] at order
    have lane := order.trans (State.issue_fetched raise abandoned fetched)
    refine ⟨fun i decoded _ some_ denied => ?_, fun e decoded => ?_⟩
    · rw [lane, State.issueWords_decoded breaks off decoded some_ denied]
      rfl
    · rw [lane, State.issueWords_illegal breaks off decoded]
      rfl

end Sys2Proof.Machine
end

section
/-!
The end of a launch, and the traps that end one in handler mode (R195, R439).
-/

namespace Sys2Proof.Machine

open Sys2Proof

/-! ### What the renaming of parted groups keeps (R439) -/

/-- What a group leaves behind gets another name: no launch, team, partition or byte changes, and of the groups only their names. -/
structure State.Renamed (s t : State) : Prop where
  parts : t.parts = s.parts
  launches : t.launches = s.launches
  teams : t.teams = s.teams
  mem : t.mem = s.mem
  groups : t.groups.map (fun g => (g.live, g.launch)) = s.groups.map (fun g => (g.live, g.launch))
  saved : t.saved.map (·.launch) = s.saved.map (·.launch)
  cmds : t.eng.cmds.length = s.eng.cmds.length
  rays : t.eng.rays.length = s.eng.rays.length

theorem State.rename_groups (s : State) (f : Gid → Gid) :
    (s.rename f).groups = s.groups.map fun g => { g with id := f g.id } := by
  change (if s.cur.live = true then _ else _) = (if s.cur.live = true then _ else _ : List Group).map _
  split <;> rfl

theorem State.partWith_renamed (s : State) (i : Gid) : s.Renamed (s.partWith i) := by
  refine ⟨rfl, rfl, rfl, rfl, ?_, ?_, List.length_map .., List.length_map ..⟩
  · rw [State.partWith, State.renameOne, State.rename_groups, List.map_map]
    rfl
  · change (s.saved.map _).map _ = _
    rw [List.map_map]
    rfl

theorem State.foldl_partWith_renamed (l : List Gid) (s : State) : s.Renamed (l.foldl (fun s i => s.partWith i) s) := by
  induction l generalizing s with
  | nil => exact ⟨rfl, rfl, rfl, rfl, rfl, rfl, rfl, rfl⟩
  | cons i l ih =>
    have h := State.partWith_renamed s i
    have h' := ih (s.partWith i)
    exact ⟨h'.parts.trans h.parts, h'.launches.trans h.launches, h'.teams.trans h.teams, h'.mem.trans h.mem,
      h'.groups.trans h.groups, h'.saved.trans h.saved, h'.cmds.trans h.cmds, h'.rays.trans h.rays⟩

theorem State.Renamed.of_groups {s t : State} (h : s.Renamed t) {P : Bool → Nat → Prop}
    (all : ∀ g ∈ s.groups, P g.live g.launch) : ∀ g ∈ t.groups, P g.live g.launch := by
  intro g hg
  have hm : (g.live, g.launch) ∈ s.groups.map fun g => (g.live, g.launch) := h.groups ▸ List.mem_map_of_mem hg
  obtain ⟨g', hg', e⟩ := List.mem_map.1 hm
  obtain ⟨e1, e2⟩ := Prod.mk.inj e
  exact e1 ▸ e2 ▸ all g' hg'

theorem State.Renamed.of_saved {s t : State} (h : s.Renamed t) {P : Nat → Prop}
    (all : ∀ g ∈ s.saved, P g.launch) : ∀ g ∈ t.saved, P g.launch := by
  intro g hg
  have hm : g.launch ∈ s.saved.map (·.launch) := h.saved ▸ List.mem_map_of_mem (f := (·.launch)) hg
  obtain ⟨g', hg', e⟩ := List.mem_map.1 hm
  exact e ▸ all g' hg'

/-! ### The end of a launch (R439) -/

/-- A launch after its end: in state ENDING unless it is over, and with no record. -/
def Launch.ending (l : Launch) : Launch :=
  { l with state := (match l.state with | .done | .refused => l.state | _ => .ending), ended := true,
           stages := l.stages.map (fun e => (e.1, { e.2 with queue := [] })) }

theorem Launch.ending_stages (l : Launch) : ∀ e ∈ l.ending.stages, e.2.queue = [] := by
  intro e he
  obtain ⟨e', _, rfl⟩ := List.mem_map.1 he
  rfl

/-- The end of a launch leaves no resident, saved or held group of it, no team and no record; it keeps the partitions, the memory, the
commands and the rays. -/
structure State.LaunchEnded (s t : State) (seq : Nat) : Prop where
  parts : t.parts = s.parts
  mem : t.mem = s.mem
  launch : t.launch? seq = (s.launch? seq).map Launch.ending
  groups : ∀ g ∈ t.groups, g.live = true → g.launch ≠ seq
  live : (∀ g ∈ s.rest, g.live = true) → ∀ g ∈ t.groups, g.live = true
  saved : ∀ g ∈ t.saved, g.launch ≠ seq
  teams : ∀ x ∈ t.teams, x.launch ≠ seq
  cmds : t.eng.cmds.length = s.eng.cmds.length
  rays : t.eng.rays.length = s.eng.rays.length

/-- What the end of a launch discards, before what its groups leave behind gets another name. -/
def State.withoutLaunch (s : State) (seq : Nat) : State :=
  let gone := (s.groups.filter (fun g => g.launch == seq)).map (·.id)
  { s.updLaunch seq Launch.ending with
    cur := if s.cur.ofLaunch seq then Group.empty else s.cur
    rest := s.rest.filter (fun g => !g.ofLaunch seq)
    saved := s.saved.filter (fun g => g.launch != seq)
    teams := s.teams.filter (fun t => t.launch != seq)
    eng := { s.eng with
      ops := s.eng.ops.filter (fun e => !(e.2.launch == seq && e.2.counter != 2))
      waiters := s.eng.waiters.filter (fun w => w.remote.isSome || !gone.contains w.g)
      latch := s.eng.latch.filter (fun m => !gone.contains m.g)
      slots := s.eng.slots.filter (fun m => !gone.contains m.m.g)
      queueWaits := s.eng.queueWaits.filter (fun q => !gone.contains q.2.2) } }

theorem State.endLaunch_renamed (s : State) (seq : Nat) : (s.withoutLaunch seq).Renamed (s.endLaunch seq) :=
  State.foldl_partWith_renamed ((s.groups.filter fun g : Group => g.launch == seq).map fun g : Group => g.id) (s.withoutLaunch seq)

/-- A group that stays is resident still, and is not of the launch. -/
theorem State.withoutLaunch_groups (s : State) (seq : Nat) :
    ∀ g ∈ (s.withoutLaunch seq).groups, (g.live = true → g.launch ≠ seq) ∧ ((∀ g ∈ s.rest, g.live = true) → g.live = true) := by
  intro g hg
  have stays : ∀ h : Group, h.ofLaunch seq = false → h.live = true → h.launch ≠ seq := by
    intro h no live e
    simp [Group.ofLaunch, live, e] at no
  have inRest : g ∈ s.rest.filter (fun g => !g.ofLaunch seq) →
      (g.live = true → g.launch ≠ seq) ∧ ((∀ g ∈ s.rest, g.live = true) → g.live = true) := fun h =>
    ⟨stays g (by simpa using (List.mem_filter.1 h).2), fun all => all g (List.mem_filter.1 h).1⟩
  rw [State.groups] at hg
  split at hg
  · next live =>
    rcases List.mem_cons.1 hg with rfl | h
    · refine ⟨fun _ => ?_, fun _ => live⟩
      change (if s.cur.ofLaunch seq then Group.empty else s.cur).live = true at live
      change (if s.cur.ofLaunch seq then Group.empty else s.cur).launch ≠ seq
      split at live
      · exact absurd live (by decide)
      · next no => rw [if_neg no]; exact stays s.cur (by simpa using no) live
    · exact inRest h
  · exact inRest hg

theorem State.endLaunch_ended (s : State) (seq : Nat) : s.LaunchEnded (s.endLaunch seq) seq := by
  have h := s.endLaunch_renamed seq
  refine ⟨h.parts, h.mem, ?_, ?_, ?_, ?_, ?_, h.cmds, h.rays⟩
  · rw [State.launch?, h.launches]
    exact (Tab.get?_update seq seq Launch.ending s.launches).trans (if_pos rfl)
  · exact h.of_groups (P := fun live launch => live = true → launch ≠ seq) fun g hg => (s.withoutLaunch_groups seq g hg).1
  · intro live
    exact h.of_groups (P := fun live _ => live = true) fun g hg => (s.withoutLaunch_groups seq g hg).2 live
  · refine h.of_saved (P := fun launch => launch ≠ seq) fun g hg => ?_
    simpa using (List.mem_filter.1 hg).2
  · rw [h.teams]
    intro x hx
    simpa using (List.mem_filter.1 hx).2

/-! ### Traps in handler mode (R195) -/

/-- A trap in handler mode has logged the event, and has ended the launch of the current group. -/
def State.DoubleTrapped (s t : State) : Prop :=
  (t.part s.cur.part).errors = (s.part s.cur.part).errors ++ [.doubleTrap s.cur.id] ∧
  (∀ g ∈ t.groups, g.live = true → g.launch ≠ s.cur.launch) ∧ (∀ g ∈ t.saved, g.launch ≠ s.cur.launch) ∧
  ∀ l, t.launch? s.cur.launch = some l → l.ended = true ∧ ∀ e ∈ l.stages, e.2.queue = []

theorem State.doubleTrap_doubleTrapped (s : State) : s.DoubleTrapped s.doubleTrap := by
  have h := (s.logError s.cur.part (.doubleTrap s.cur.id)).endLaunch_ended s.cur.launch
  change s.DoubleTrapped ((s.logError s.cur.part (.doubleTrap s.cur.id)).endLaunch s.cur.launch)
  refine ⟨?_, h.groups, h.saved, fun l hl => ?_⟩
  · rw [State.part, h.parts]
    exact congrArg Part.errors ((State.part_setPart s _ _ _).trans (if_pos rfl))
  · rw [h.launch] at hl
    obtain ⟨l', _, rfl⟩ := Option.map_eq_some_iff.1 hl
    exact ⟨rfl, Launch.ending_stages l'⟩

/-- A refusal in handler mode is a double trap. -/
theorem State.refuse_doubleTrapped {s : State} (handler : s.cur.hand.isSome = true) (uncharged : s.cur.sp.charged = false)
    (uncounted : s.counts = false) (p : Pred) (c : BitVec 8) : s.DoubleTrapped (s.refuse p c) := by
  have charged := State.charge_eq (s := s) (n := 1) fun _ h => absurd h (by simp [uncounted])
  unfold State.refuse
  dsimp only
  rw [uncharged, if_neg (by decide), charged, State.trap, if_pos]
  · exact State.doubleTrap_doubleTrapped _
  · exact handler

/-- Settles O12: each of them is refused, and a refusal in handler mode is a double trap. -/
theorem doubleTrap : Obligations.DoubleTrap := by
  unfold Obligations.DoubleTrap
  intro s handler live uncharged uncounted
  have refused := fun p c => State.refuse_doubleTrapped handler uncharged uncounted p c
  refine ⟨fun x executes => ⟨s.refuse x.pred 0x0E, ?_, refused _ _⟩, fun words spLive => ⟨_, ?_, refused (predOfWords words) 0x01⟩,
    fun x executes => ⟨s.refuse x.pred 0x07, ?_, refused _ _⟩, fun x fn => ⟨s.refuse x.pred 0x02, ?_, refused _ _⟩,
    fun x => ⟨s.refuse x.pred 0x02, ?_, refused _ _⟩⟩
  · have affordable : s.affordable (s.cur.exec x.pred) = s.cur.exec x.pred := if_pos handler
    refine congrArg Host.Outcome.next ?_
    have pays : ¬(s.affordable (s.cur.exec x.pred) = 0 && !s.cur.sp.charged) = true := by simp [affordable, show ¬_ = 0#32 from executes]
    simp only [State.uniformly, State.named, State.checked, Group.allNamed, List.all_nil, Bool.or_true, if_true, if_neg executes,
      if_neg pays]
  · exact congrArg Host.Outcome.next (if_pos (by simp [live, spLive]))
  · exact congrArg Host.Outcome.next ((if_neg executes).trans (if_pos handler))
  · exact congrArg Host.Outcome.next (if_pos handler)
  · exact congrArg Host.Outcome.next (if_pos handler)

end Sys2Proof.Machine
end

section
/-!
The launch budget, single step, and the readiness of operands (R153, R167, R195, R205, R334).
-/

namespace Sys2Proof.Machine

open Sys2Proof

/-! ### The threads that a budget covers (R153) -/

theorem lowest_lt (m : Mask) : lowest m < 32 := by
  by_cases h : m = 0
  · subst h; decide
  · exact inMask_lt (lowest_mem h)

/-- A budget below the number of a mask's threads leaves one of them out. -/
theorem firstThreads_ne {e : Mask} {n : Nat} (h : n < count e) : firstThreads e n ≠ e := by
  intro eq
  have hm : inMask (firstThreads e n) (threads e)[n] = true := by rw [eq]; exact mem_threads.1 (List.getElem_mem h)
  rw [firstThreads, inMask_maskOf] at hm
  have taken : (threads e)[n] ∈ (threads e).take n := by simpa using (Bool.and_eq_true_iff.1 hm).2
  obtain ⟨k, hk, same⟩ := List.mem_take_iff_getElem.1 taken
  have := (List.pairwise_iff_getElem.1 (threads_sorted e)) k n (by omega) h (by omega)
  omega

/-! ### `xor` in the frame per thread -/

/-- The effect of `xor` with a vector destination on the threads of a mask. -/
def State.xorInto (s : State) (x : Ord) (n : Nat) (m : Mask) : State :=
  { s with cur := s.cur.vset n m fun t => s.va x t ^^^ s.vb x t }

theorem State.xorInto_vget (s : State) (x : Ord) (n : Nat) (e : Mask) :
    ∀ m i, i < 32 → (s.xorInto x n e).cur.vget m i =
      if m = n ∧ inMask e i = true then s.va x i ^^^ s.vb x i else s.cur.vget m i :=
  fun m i hi => Group.vget_vset s.cur n m i e _ hi

/-- No thread of `xor` divides. -/
theorem State.exec_xor {s : State} {x : Ord} {n : Fin 96} (dest : x.d = .v n) (named : s.cur.allNamed (x.d :: srcAB x) = true) :
    exec (.xor x) s = .next (s.perThread x.pred (lenOf x) fun s m => s.xorInto x n m) := by
  have quiet : ∀ (u : State) (m : Mask), ({ u with cur := u.cur.vset n.val m fun t => u.va x t ^^^ u.vb x t } : State).setDZ
      ((threads m).any fun _ => false) = u.xorInto x n m := by
    intro u m
    rw [show ((threads m).any fun _ => false) = false by simp]
    rfl
  change Host.Outcome.next (s.calc x (srcAB x) (whole2 x .byET fun a b => a ^^^ b)) = _
  rw [State.calc, State.named_of named, dest]
  exact congrArg (fun eff => Host.Outcome.next (s.perThread x.pred (lenOf x) eff)) (funext fun u => funext fun m => quiet u m)

/-! ### The budget (R153, R195) -/

/-- The launch runs over its budget: the current group's reads 0. -/
theorem State.overrun_eq (s : State) : s.overrun =
    { s with
      launches := Tab.update s.cur.launch (fun l => { l with overrun := true }) s.launches
      cur := { s.cur with bgt := 0 }
      rest := s.rest.map fun g => if g.launch == s.cur.launch then { g with bgt := 0 } else g
      saved := s.saved.map fun g => if g.launch == s.cur.launch then { g with bgt := 0 } else g } := by
  simp [State.overrun, State.mapGroups, State.updLaunch]

/-- The launch of an overrun is marked. -/
theorem overrun_marked {seq : Nat} {l : Launch} {tab : Tab Launch}
    (h : Tab.get? seq (Tab.update seq (fun l => { l with overrun := true }) tab) = some l) : l.overrun = true := by
  rw [Tab.get?_update, if_pos rfl] at h
  obtain ⟨l', _, rfl⟩ := Option.map_eq_some_iff.1 h
  rfl

/-- A trap of a state that differs from `s` in what R194 does not keep is a trap of `s`. -/
theorem State.Trapped.of_alike {s u t : State} {cause kind : BitVec 8} {st rtid : Nat} {pc : BitVec 48} {handlers omask : Mask}
    {faddr : Nat → Nat} (h : u.Trapped t cause kind st rtid pc handlers omask faddr) {v : Tab Row} {bgt : Word} {spent : Bool}
    {sp : Split} (cur : u.cur = { s.cur with v := v, bgt := bgt, spent := spent, sp := sp })
    (split : sp.mask = s.cur.sp.mask ∧ sp.fmt = s.cur.sp.fmt ∧ sp.token = s.cur.sp.token ∧ sp.depth = s.cur.sp.depth ∧
      sp.part = s.cur.sp.part)
    (teams : u.teams = s.teams) (parts : u.parts = s.parts) :
    s.Trapped t cause kind st rtid pc handlers omask faddr := by
  obtain ⟨mask, fmt, token, depth, part⟩ := split
  obtain ⟨vectors, shadow, tcause, record, handler, others, frame⟩ := h
  have same : u.team? u.cur = s.team? s.cur := by rw [State.team?, teams, cur]; rfl
  rw [State.part, parts] at handler
  rw [same] at frame
  rw [cur] at vectors record handler others frame
  dsimp only at vectors record handler others frame
  rw [mask, fmt, token, depth, part] at record
  rw [fmt] at frame
  exact ⟨vectors, shadow, tcause, record, handler, others, frame⟩

/-- The trap of R153: the split is held at the thread where the budget ended, and the launch is marked overrun. -/
theorem State.exhausted_trapped {s : State} {k : Nat} {omask : Mask} (lt : k < 32) (outside : s.cur.hand = none) :
    ∃ t, s.exhausted k omask = t ∧ t.cur.v = s.cur.v ∧ t.cur.bgt = 0 ∧
      s.Trapped t 0x09 0 1 k s.cur.sp.pc (maskOf [k]) omask (fun _ => 0) ∧
      (∀ l, t.launch? s.cur.launch = some l → l.overrun = true) ∧
      t.mem = s.mem ∧ t.home = s.home ∧ t.stks = s.stks ∧ t.eng = s.eng := by
  unfold State.exhausted
  dsimp only
  rw [State.overrun_eq]
  obtain ⟨t, ht, only, v, bgt, trapped⟩ := State.trap_trapped
    (s := { s with
      launches := Tab.update s.cur.launch (fun l => { l with overrun := true }) s.launches
      cur := { s.cur with bgt := 0, spent := false }
      rest := s.rest.map fun g => if g.launch == s.cur.launch then { g with bgt := 0 } else g
      saved := s.saved.map fun g => if g.launch == s.cur.launch then { g with bgt := 0 } else g })
    (tr := { s.cur.wholeTrap 0x09 k with st := 1, omask := omask }) outside rfl (fun h => absurd (show (1 : BitVec 2) = 2 from h) (by decide))
  obtain ⟨frame, -⟩ := only
  refine ⟨t, ht, v, bgt, ?_, ?_, ?_, ?_, ?_, ?_⟩
  · have rtid : (BitVec.ofNat 5 k).toNat = k := by rw [BitVec.toNat_ofNat]; omega
    have := trapped.of_alike (s := s) (v := s.cur.v) (bgt := 0) (spent := false) (sp := s.cur.sp) rfl ⟨rfl, rfl, rfl, rfl, rfl⟩ rfl rfl
    dsimp only [Group.wholeTrap] at this
    rw [rtid] at this
    exact this
  · intro l hl
    rw [frame] at hl
    exact overrun_marked hl
  all_goals rw [frame]

/-- Past its budget `xor` takes effect for the threads that it covers, and traps at the next (R153). -/
theorem State.xor_exhausts {s : State} {x : Ord} {n : Nat} (trappable : s.trappable = true) (counts : s.counts = true)
    (unspent : s.cur.spent = false) (short : s.cur.bgt.toNat < count (s.cur.exec x.pred)) :
    let ok := firstThreads (s.cur.exec x.pred) s.cur.bgt.toNat
    let u := (((s.xorInto x n ok).charge (count ok)).occupy (count ok))
    s.perThread x.pred (lenOf x) (fun s m => s.xorInto x n m) =
      u.exhausted (lowest (s.cur.exec x.pred &&& ~~~ok)) (s.cur.omask x.pred) := by
  have hand : s.cur.hand = none := by simpa [State.trappable] using (Bool.and_eq_true_iff.1 trappable).1
  have affordable : s.affordable (s.cur.exec x.pred) = firstThreads (s.cur.exec x.pred) s.cur.bgt.toNat := by
    simp [State.affordable, hand, unspent, counts]
  simp only [State.perThread, affordable]
  exact if_neg (firstThreads_ne short)

/-- Outside handler mode a charge takes its cycles from `%bgt`. -/
theorem State.charge_outside {s : State} (n : Nat) (hand : s.cur.hand = none) :
    s.charge n = { s with cur := { s.cur with bgt := BitVec.ofNat 64 (s.cur.bgt.toNat - n) } } :=
  State.charge_eq fun h => absurd h (by simp [hand])

/-- A budget that reaches 0 in handler mode is kept for the return, and the launch is overrun (R195). -/
theorem State.charge_spent {s : State} {n : Nat} (hand : s.cur.hand.isSome = true) (counts : s.counts = true)
    (ends : s.cur.bgt.toNat ≤ n) : s.charge n = ({ s with cur := { s.cur with spent := true } } : State).overrun := by
  rw [State.charge, if_pos (by simp [hand, counts, ends])]

theorem budget_ends {s : State} {x : Ord} {n : Fin 96} (trappable : s.trappable = true) (dest : x.d = .v n)
    (named : s.cur.allNamed (x.d :: srcAB x) = true) (counts : s.counts = true) (unspent : s.cur.spent = false)
    (short : s.cur.bgt.toNat < count (s.cur.exec x.pred)) :
    let e := s.cur.exec x.pred
    let ok := firstThreads e s.cur.bgt.toNat
    let at_ := lowest (e &&& ~~~ok)
    ∃ t, exec (.xor x) s = .next t ∧
      (∀ m i, i < 32 → t.cur.vget m i =
        if m = n.val ∧ inMask ok i = true then s.va x i ^^^ s.vb x i else s.cur.vget m i) ∧
      s.Trapped t 0x09 0 1 at_ s.cur.sp.pc (maskOf [at_]) (s.cur.omask x.pred)
        (fun _ => 0) ∧
      t.cur.bgt = 0 ∧ (∀ l, t.launch? s.cur.launch = some l → l.overrun = true) ∧
      t.mem = s.mem ∧ t.home = s.home ∧ t.stks = s.stks ∧ t.eng = s.eng := by
  intro e ok at_
  have hand : s.cur.hand = none := by simpa [State.trappable] using (Bool.and_eq_true_iff.1 trappable).1
  rw [State.exec_xor dest named, State.xor_exhausts trappable counts unspent short,
    State.charge_outside (s := s.xorInto x n (firstThreads (s.cur.exec x.pred) s.cur.bgt.toNat)) _ hand]
  obtain ⟨t, ht, v, bgt, trapped, marked, same⟩ := State.exhausted_trapped (s := ({ s.xorInto x n ok with
      cur := { (s.xorInto x n ok).cur with bgt := BitVec.ofNat 64 ((s.xorInto x n ok).cur.bgt.toNat - count ok) } } : State).occupy
        (count ok)) (k := at_) (omask := s.cur.omask x.pred) (lowest_lt _) hand
  refine ⟨t, congrArg Host.Outcome.next ht, fun m i hi => ?_, ?_, bgt, marked, same⟩
  · rw [← State.xorInto_vget s x n ok m i hi, Group.vget, v]
    rfl
  · exact trapped.of_alike rfl ⟨rfl, rfl, rfl, rfl, rfl⟩ rfl rfl

theorem budget_spent {s : State} {x : Ord} {n : Fin 96} (hand : s.cur.hand.isSome = true) (fresh : s.cur.sp.charged = false)
    (dest : x.d = .v n) (named : s.cur.allNamed (x.d :: srcAB x) = true) (counts : s.counts = true)
    (ends : s.cur.bgt.toNat ≤ max 1 (count (s.cur.exec x.pred))) :
    ∃ t, exec (.xor x) s = .next t ∧ t.cur.hand = s.cur.hand ∧ t.cur.spent = true ∧ t.cur.bgt = 0 ∧
      (∀ l, t.launch? s.cur.launch = some l → l.overrun = true) ∧
      t.cur.sp.pc = s.cur.sp.pc + BitVec.ofNat 48 (lenOf x) ∧
      ∀ m i, i < 32 → t.cur.vget m i =
        if m = n.val ∧ inMask (s.cur.exec x.pred) i = true then s.va x i ^^^ s.vb x i else s.cur.vget m i := by
  have affordable : s.affordable (s.cur.exec x.pred) = s.cur.exec x.pred := if_pos hand
  have outside : s.cur.hand.isNone = false := by simpa using hand
  rw [State.exec_xor dest named, State.perThread]
  simp only [affordable, if_true]
  have fresh' : (s.xorInto x n (s.cur.exec x.pred)).cur.sp.charged = false := fresh
  rw [State.retire]
  simp only [fresh', Bool.false_eq_true, if_false]
  rw [State.charge_spent (s := s.xorInto x n (s.cur.exec x.pred)) hand counts ends, State.overrun_eq, State.afterIssue, if_neg]
  · refine ⟨_, rfl, rfl, rfl, rfl, fun l hl => overrun_marked hl, rfl, fun m i hi => ?_⟩
    exact State.xorInto_vget s x n _ m i hi
  · change ¬(s.cur.live && s.cur.hand.isNone && s.cur.dbg.getLsbD 8 && s.cur.spLive) = true
    simp [outside]

/-! ### Single step (R191, R205) -/

/-- With single step on, an instruction that is done raises 0x0F at its lowest executing thread. -/
theorem State.retire_stepped {s : State} {n len : Nat} {e : Mask} (hand : s.cur.hand = none) (fresh : s.cur.sp.charged = false)
    (live : s.cur.live = true) (spLive : s.cur.spLive = true) (stepped : s.cur.dbg.getLsbD 8 = true)
    (active : s.cur.sp.mask &&& e = e) (executes : e ≠ 0) :
    ∃ t, s.retire n len e = t ∧ t.cur.v = s.cur.v ∧
      s.Trapped t 0x0F 0 0 (lowest e) (s.cur.sp.pc + BitVec.ofNat 48 len) (maskOf [lowest e]) e (fun _ => 0) := by
  obtain ⟨u, hu⟩ : ∃ u, u = ({ s.occupy n with
    cur := { s.cur with bgt := BitVec.ofNat 64 (s.cur.bgt.toNat - n) }.advance len (s.clock.cycle + n) } : State) := ⟨_, rfl⟩
  have retired : s.retire n len e = u.afterIssue e := by
    rw [hu, State.retire, if_neg (by simp [fresh]), State.charge_outside _ hand]
    rfl
  have traps : u.afterIssue e = u.trap { u.cur.wholeTrap 0x0F (lowest e) with omask := e } := by
    have mask : u.cur.sp.mask &&& e = e := by rw [hu]; exact active
    rw [State.afterIssue, if_pos (by rw [hu]; simp [Group.advance, live, hand, stepped, spLive])]
    simp only [mask, if_neg executes]
  obtain ⟨t, ht, -, v, -, trapped⟩ := State.trap_trapped (s := u) (tr := { u.cur.wholeTrap 0x0F (lowest e) with omask := e })
    (by rw [hu]; exact hand) rfl (fun h => absurd (show (0 : BitVec 2) = 2 from h) (by decide))
  refine ⟨t, (retired.trans traps).trans ht, by rw [v, hu]; rfl, ?_⟩
  have rtid : (BitVec.ofNat 5 (lowest e)).toNat = lowest e := by
    rw [BitVec.toNat_ofNat]
    exact Nat.mod_eq_of_lt (lowest_lt e)
  have := trapped.of_alike (s := s) (sp := (s.cur.advance len (s.clock.cycle + n)).sp) (by rw [hu]; rfl)
    ⟨rfl, rfl, rfl, rfl, rfl⟩ (by rw [hu]; rfl) (by rw [hu]; rfl)
  dsimp only [Group.wholeTrap] at this
  rw [rtid, hu] at this
  exact this

theorem single_step {s : State} {x : Ord} {n : Fin 96} (trappable : s.trappable = true) (dest : x.d = .v n)
    (named : s.cur.allNamed (x.d :: srcAB x) = true) (funds : s.funds (count (s.cur.exec x.pred)) = true)
    (live : s.cur.live = true) (spLive : s.cur.spLive = true) (stepped : s.cur.dbg.getLsbD 8 = true)
    (executes : s.cur.exec x.pred ≠ 0) (start : s.cur.sp.st = 0) :
    let e := s.cur.exec x.pred
    ∃ t, exec (.xor x) s = .next t ∧
      (∀ m i, i < 32 → t.cur.vget m i =
        if m = n.val ∧ inMask e i = true then s.va x i ^^^ s.vb x i else s.cur.vget m i) ∧
      s.Trapped t 0x0F 0 0 (lowest e) (s.cur.sp.pc + BitVec.ofNat 48 (lenOf x)) (maskOf [lowest e]) e
        (fun _ => 0) := by
  intro e
  obtain ⟨outside, fresh⟩ := Bool.and_eq_true_iff.1 trappable
  have hand : s.cur.hand = none := by simpa using outside
  have active : s.cur.sp.mask &&& e = e := by
    have : e = s.cur.sp.mask &&& s.cur.predMask x.pred := by simp [e, Group.exec, start]
    rw [this, ← BitVec.and_assoc, BitVec.and_self]
  rw [State.exec_xor dest named, State.perThread]
  simp only [State.affordable_of funds, if_true]
  obtain ⟨t, ht, v, trapped⟩ := State.retire_stepped (s := s.xorInto x n e) (n := max 1 (count e)) (len := lenOf x) hand
    (by simpa using fresh : s.cur.sp.charged = false) live spLive stepped active executes
  refine ⟨t, congrArg Host.Outcome.next ht, fun m i hi => ?_, trapped.of_alike rfl ⟨rfl, rfl, rfl, rfl, rfl⟩ rfl rfl⟩
  rw [← State.xorInto_vget s x n e m i hi, Group.vget, v]
  rfl

/-! ### Readiness of operands (R167, R334) -/

theorem firstBy_mem {key : Cand → List Nat} {l : List Cand} {c : Cand} (h : firstBy key l = some c) : c ∈ l := by
  induction l generalizing c with
  | nil => exact absurd h (by simp [firstBy])
  | cons d l ih =>
    rw [firstBy] at h
    cases hl : firstBy key l with
    | none => rw [hl] at h; exact List.mem_cons.2 (.inl (Option.some.inj h).symm)
    | some d' =>
      rw [hl] at h
      dsimp only at h
      split at h
      · exact List.mem_cons.2 (.inr (Option.some.inj h ▸ ih hl))
      · exact List.mem_cons.2 (.inl (Option.some.inj h).symm)

/-- What a lane picks is one of its ready splits. -/
theorem State.pickSplit_mem {s : State} {k : Nat × Nat × Nat} {c : Cand} (h : s.pickSplit k = some c) : c ∈ s.ready_ k := by
  rw [State.pickSplit] at h
  split at h
  · exact absurd h (by simp)
  · dsimp only at h
    split at h
    · next d hd =>
      split at h
      · exact Option.some.inj h ▸ (List.mem_filter.1 (firstBy_mem hd)).1
      · exact firstBy_mem h
    · exact firstBy_mem h

theorem State.firstLane_picked {s : State} {l : List (Nat × Nat × Nat)} {c : Cand} (h : s.firstLane l = some c) :
    ∃ k, s.pickSplit k = some c := by
  induction l with
  | nil => exact absurd h (by simp [State.firstLane])
  | cons k l ih =>
    rw [State.firstLane] at h
    cases hk : s.pickSplit k with
    | none => rw [hk] at h; exact ih h
    | some d => rw [hk] at h; exact ⟨k, hk.trans h⟩

theorem State.view_clock (s : State) (i : Gid) (slot : Bool) : (s.view i slot).clock = s.clock := by
  change (s.focus i).clock = s.clock
  rw [State.focus]
  split
  · rfl
  · split <;> rfl

/-- The split that issues has its operands. -/
theorem State.nextIssue_operandsIn {s : State} {c : Cand} (h : s.nextIssue = some c) : (s.view c.g c.slot).operandsIn = true := by
  obtain ⟨k, hk⟩ := State.firstLane_picked h
  obtain ⟨l, hl, hc⟩ := List.mem_flatten.1 (State.pickSplit_mem hk)
  obtain ⟨g, -, rfl⟩ := List.mem_map.1 hl
  obtain ⟨slot, hslot, rfl⟩ := List.mem_map.1 hc
  have ready : s.slotReady g slot = true := (List.mem_filter.1 hslot).2
  change (s.view g.id slot).operandsIn = true
  rw [State.slotReady] at ready
  split at ready
  · exact absurd ready (by decide)
  · exact (Bool.and_eq_true_iff.1 ready).2

/-- Where nothing that was written is in the pipeline, every register may be used. -/
theorem Group.usableAt_le {g : Group} {cycle : Nat} (h : (g.usable.any fun e => e.2.any fun c => decide (cycle < c)) = false)
    (n t : Nat) : g.usableAt n t ≤ cycle := by
  have row : ∀ c ∈ Tab.getD g.usable n [], c ≤ cycle := by
    intro c hc
    cases he : Tab.get? n g.usable with
    | none => rw [Tab.getD, he] at hc; exact absurd hc (by simp)
    | some r =>
      rw [Tab.getD, he] at hc
      have all := List.any_eq_false.1 h _ (Tab.mem_of_get? he)
      have row : ∀ x ∈ r, x ≤ cycle := by simpa using all
      exact row c hc
  rw [Group.usableAt, List.getD_eq_getElem?_getD]
  cases hc : (Tab.getD g.usable n [])[t]? with
  | none => exact Nat.zero_le _
  | some c => exact row c (List.mem_of_getElem? hc)

/-- Each executing thread of an instruction that is ready issues when its operands may be used. -/
theorem State.operandsReady_usable {s : State} {i : Instr} (h : s.operandsReady i = true) {k t : Nat}
    (ht : (threads (s.cur.exec (guardOf i)))[k]? = some t) :
    (∀ n ∈ s.reads i ++ s.writesAt i, s.cur.usableAt n t ≤ s.clock.cycle + if s.perThreadIssue i then k else 0) ∧
    (∀ x, (i = .xsel x ∨ i = .xbcast x) → ∀ u, u < 32 →
      s.cur.usableAt x.a.code u ≤ s.clock.cycle + if s.perThreadIssue i then k else 0) := by
  have each := List.all_eq_true.1 h (t, k) (List.mk_mem_zipIdx_iff_getElem?.2 ht)
  obtain ⟨own, cross⟩ := Bool.and_eq_true_iff.1 each
  refine ⟨fun n hn => by simpa using List.all_eq_true.1 own n hn, fun x hx u hu => ?_⟩
  rcases hx with rfl | rfl
  · simpa using List.all_eq_true.1 cross u (List.mem_range.2 hu)
  · simpa using List.all_eq_true.1 cross u (List.mem_range.2 hu)

theorem State.operandsIn_usable {s u : State} {i : Instr} {ws : List Nat} (h : s.operandsIn = true) (fresh : s.cur.sp.charged = false)
    (fetched : s.fetchWords maxWords [] = (.ok ws, u)) (decoded : decodeWords ws = .ok i) {k t : Nat}
    (ht : (threads (s.cur.exec (guardOf i)))[k]? = some t) :
    (∀ n ∈ s.reads i ++ s.writesAt i, s.cur.usableAt n t ≤ s.clock.cycle + if s.perThreadIssue i then k else 0) ∧
    (∀ x, (i = .xsel x ∨ i = .xbcast x) → ∀ u, u < 32 →
      s.cur.usableAt x.a.code u ≤ s.clock.cycle + if s.perThreadIssue i then k else 0) := by
  rw [State.operandsIn, fresh, Bool.false_or] at h
  split at h
  · next idle =>
    have le := fun n t => (Group.usableAt_le (by simpa using idle) n t : s.cur.usableAt n t ≤ s.clock.cycle)
    exact ⟨fun n _ => (le n t).trans (Nat.le_add_right _ _), fun x _ u _ => (le _ u).trans (Nat.le_add_right _ _)⟩
  · rw [fetched] at h
    dsimp only at h
    rw [decoded] at h
    exact State.operandsReady_usable h ht

/-! ### What an issue keeps for R167 -/

theorem State.xor_codes (s : State) {x : Ord} {n : Fin 96} (dest : x.d = .v n) :
    s.writesAt (.xor x) = [n.val] ∧ isUniform (.xor x) = false ∧
      x.a.code ∈ s.reads (.xor x) ∧ (∀ b, x.b = .reg b → b.code ∈ s.reads (.xor x)) ∧
      (x.pred.k.val ≠ 0 → 128 + x.pred.k.val ∈ s.reads (.xor x)) := by
  have row : Sys2Proof.rowOf 0x16 0 = some ⟨.int, .s32, .v, .any, .any, .any, .none, .none, .none, .zero⟩ := rfl
  have form : Instr.ordinary (.xor x) = some (0x16, 0, x) := rfl
  refine ⟨?_, ?_, ?_, fun b hb => ?_, fun hk => ?_⟩
  · have : n.val ≠ 127 := by omega
    simp [State.writesAt, form, row, dest, landsLater, Opd.code, this]
  · have : ¬96 ≤ n.val := by omega
    simp [isUniform, form, row, dest, uBitOf, Opd.code, this]
  · simp [State.reads, form, State.readsOrd, row, State.aCount]
  · simp [State.reads, form, State.readsOrd, row, hb]
  · simp [State.reads, form, State.readsOrd, row, predCodes, hk]

/-- A register that a list of writes names holds the row of the last of them. -/
theorem Tab.getD_foldl_set {f : List Nat → List Nat} {n : Nat} {ws : List Nat} (h : n ∈ ws) (tab : Tab (List Nat)) :
    ∃ old, Tab.getD (ws.foldl (fun u n => Tab.set n (f (Tab.getD u n [])) u) tab) n [] = f old := by
  have stays : ∀ (ws : List Nat) (tab : Tab (List Nat)), (∃ old, Tab.getD tab n [] = f old) →
      ∃ old, Tab.getD (ws.foldl (fun u n => Tab.set n (f (Tab.getD u n [])) u) tab) n [] = f old := by
    intro ws
    induction ws with
    | nil => exact fun _ h => h
    | cons m ws ih =>
      intro tab h
      refine ih _ ?_
      rw [Tab.getD_set]
      split
      · exact ⟨_, rfl⟩
      · exact h
  induction ws generalizing tab with
  | nil => exact absurd h (by simp)
  | cons m ws ih =>
    by_cases hm : n = m
    · refine stays ws _ ⟨Tab.getD tab m [], ?_⟩
      rw [Tab.getD_set, if_pos hm]
    · exact ih ((List.mem_cons.1 h).resolve_left hm) _

/-- The row that the threads of an issue leave at each register that it writes. -/
theorem State.noteWrites_usable {s s' : State} {i : Instr} {n : Nat} (writes : n ∈ s.writesAt i)
    (executes : s.cur.exec (guardOf i) ≠ 0) (fresh : s.cur.sp.charged = false) (issued : stalled s s' = false)
    (live : s'.cur.live = true) (id : s'.cur.id = s.cur.id) (launch : s'.cur.launch = s.cur.launch)
    (gix : s'.cur.gix = s.cur.gix) (hand : s'.cur.hand.isSome = s.cur.hand.isSome) :
    ∃ old, Tab.getD (s.noteWrites i s').cur.usable n [] = s.usableRow s' i (threads (s.cur.exec (guardOf i))) old := by
  have found : s'.group? s.cur.id = some s'.cur := if_pos (by simp [live, id])
  have all : s.issuedThreads s' i = threads (s.cur.exec (guardOf i)) := by
    rw [State.issuedThreads, found]
    cases hs : s.cur.hand with
    | some h => rfl
    | none =>
      rw [hs] at hand
      have : s'.cur.hand = none := by simpa using hand
      simp [this]
  have some_ : (s.writesAt i).isEmpty = false := List.isEmpty_eq_false_iff_exists_mem.2 ⟨n, writes⟩
  have someThread : (threads (s.cur.exec (guardOf i))).isEmpty = false :=
    List.isEmpty_eq_false_iff_exists_mem.2 ⟨_, mem_threads.2 (lowest_mem executes)⟩
  rw [State.noteWrites]
  simp only [all, some_, someThread, fresh, issued, Bool.or_self, Bool.false_eq_true, if_false]
  rw [State.updGroup, if_pos (by simp [live, id])]
  simp only [launch, gix, BEq.rfl, Bool.and_self, if_true]
  exact Tab.getD_foldl_set writes _

theorem State.usableRow_perThread {s s' : State} {i : Instr} {e old : List Nat} {t : Nat} (perThread : isUniform i = false)
    (notVote : ∀ fn x, i ≠ .xvote fn x) (inside : t ∈ e) (below : t < 32) :
    (s.usableRow s' i e old).getD t 0 = s.clock.cycle + e.idxOf t + pipeDepth := by
  unfold State.usableRow
  rw [List.getD_eq_getElem?_getD, List.getElem?_map, List.getElem?_range below]
  simp [perThread, inside]

theorem State.usableRow_uniform {s s' : State} {i : Instr} {e old : List Nat} {t : Nat} (uniform : isUniform i = true)
    (below : t < 32) : (s.usableRow s' i e old).getD t 0 =
      Tab.getD (s'.core s.cur.id.die s.cur.id.core).busy s.cur.id.lane 0 - 1 + pipeDepth := by
  unfold State.usableRow
  rw [List.getD_eq_getElem?_getD, List.getElem?_map, List.getElem?_range below]
  simp only [Option.map_some, Option.getD_some, uniform, Bool.true_or, if_true]

/-- Settles O11: the frame of an issue where the budget ends, in handler mode, and with single step on; and the readiness that a lane
asks of the split that it issues. -/
theorem budgets : Obligations.Budgets := by
  unfold Obligations.Budgets
  refine ⟨fun s x n trappable dest named counts unspent short => budget_ends trappable dest named counts unspent short,
    fun s x n hand fresh dest named counts ends => budget_spent hand fresh dest named counts ends,
    fun s x n trappable dest named funds live spLive stepped executes start =>
      single_step trappable dest named funds live spLive stepped executes start, fun s => ⟨?_, fun x n dest => s.xor_codes dest, ?_⟩⟩
  · intro c u ws i issue v e at_ fresh fetched decoded k t ht
    have usable := State.operandsIn_usable (State.nextIssue_operandsIn issue) fresh fetched decoded ht
    rw [State.view_clock] at usable
    exact usable
  · intro i s' n e writes executes fresh issued live id launch gix hand
    obtain ⟨old, row⟩ := State.noteWrites_usable writes executes fresh issued live id launch gix hand
    refine ⟨fun perThread notVote k t ht => ?_, fun uniform t ht => ?_⟩
    · have inside : t ∈ e := List.mem_of_getElem? ht
      have below : t < 32 := inMask_lt (mem_threads.1 inside)
      have place : e.idxOf t = k := by
        obtain ⟨hk, rfl⟩ := List.getElem?_eq_some_iff.1 ht
        exact (threads_sorted _).nodup.idxOf_getElem k hk
      rw [Group.usableAt, row, State.usableRow_perThread perThread notVote inside below, place]
      rfl
    · rw [Group.usableAt, row, State.usableRow_uniform uniform ht]
      rfl

end Sys2Proof.Machine
end

section
/-!
Loads of one instruction (R357) over a memory that is not in canonical form.
-/

namespace Sys2Proof.Machine

open Sys2Proof

/-- Two threads are to load from 0x300000 and 0x300020, which lie in one line; the byte at 0x300020 is a dirty 0 in the die buffer, of
which the partition owns no way, and memory lists it twice. -/
def shadowedLoads : State :=
  let s := State.reset.placed []
  { s with
    cur := { s.cur with
      v := [(2, Row.mk fun t => if t = 0 then 0x300000 else 0x300020)]
      sp := { s.cur.sp with mask := 3 } }
    mem := (0x300020, 1) :: (0x300020, 2) :: s.mem
    home := [(byteKey 0 0x300020, ⟨0, true⟩)] }

/-- `ld` of a byte each from the address in `v2` to `v4`. -/
def byteLoad : Ord := ⟨.w64, .v 4, .v 2, .imm 0, .v 0, ⟨0, false⟩, .z8, 0, 0, 0⟩

/-- The accesses of the two threads. -/
def shadowedPlans : List Plan := [⟨0, 0x300000, bindPage⟩, ⟨1, 0x300020, bindPage⟩]

theorem shadowedLoads_plans : ∃ u, shadowedLoads.plans byteLoad 1 false true (shadowedLoads.accessors byteLoad false) =
    (shadowedPlans, [], u) := by
  have passed : (shadowedLoads.plans byteLoad 1 false true (shadowedLoads.accessors byteLoad false)).1 = shadowedPlans := by
    decide +kernel
  have sound : (shadowedLoads.plans byteLoad 1 false true (shadowedLoads.accessors byteLoad false)).2.1 = [] := by decide +kernel
  exact ⟨_, Prod.ext passed (Prod.ext sound rfl)⟩

theorem shadowedLoads_issues : shadowedLoads.issues (byteLoad.d :: srcAB byteLoad) (shadowedLoads.cost byteLoad (srcAB byteLoad)) = true ∧
    shadowedLoads.cur.exec byteLoad.pred ≠ 0 ∧ shadowedLoads.cur.cntL < 62 := by decide +kernel

/-- The core sees the dirty 0. -/
theorem shadowedLoads_sees : shadowedLoads.coreBytes 0 0 bindPage 0x300020 1 = [0] := by decide +kernel

/-- No other view has a byte of the page, no copy in the die buffer is clean, and every bank is open. -/
theorem shadowedLoads_oneView {a : Nat} (ha : a < 2 ^ 48) : shadowedLoads.oneView 0 0 0 a := by
  refine ⟨?_, fun x _ hx => ⟨?_, rfl⟩, fun c hc hd => ?_⟩
  · have banks : shadowedLoads.stks = [] := rfl
    simp [State.fenced, State.stack, banks, Tab.getD, Tab.get?, Stack.empty]
  · exact if_neg fun h => hx (byteKey_inj ha (by decide) h).1
  · have held : Tab.get? (byteKey 0 a) [(byteKey 0 0x300020, (⟨0, true⟩ : CByte))] = some c := hc
    unfold Tab.get? at held
    split at held
    · cases held; cases hd
    · cases held

/-- The core's cache is empty, so an access meets no old copy. -/
theorem shadowedLoads_settled : shadowedLoads.settled bindPage 0x300020 1 := fun _ _ =>
  ⟨.inr (shadowedLoads_oneView (Map.phys_lt _ _)), .inr rfl⟩

/-- What an operation is to write when it ends. -/
def writesOf (id : Nat) : Out → Option (List Landing)
  | .next t => (Tab.get? id t.eng.ops).map fun op => op.writes
  | _ => none

/-- The first load fills the line; the line leaves the die buffer at once, the 0 removes the first entry of its byte, and the second
entry is what the second load brings. -/
theorem shadowedLoads_brings : writesOf shadowedLoads.nextId (exec (.ld byteLoad) shadowedLoads) = some [⟨0, 4, 0⟩, ⟨1, 4, 2⟩] := by
  decide +kernel

/-- Refutes O19: the clause on loads that pass has each bring what its core saw before the instruction in every state, also in one whose
memory is not in canonical form (`shadowedLoads`): there the line that one thread loads loses a byte as it leaves the die buffer, before
the other thread loads that byte. The hypothesis that memory is in canonical form (O59, O60), on which `BytesBut` rests, is missing from
the clause. -/
theorem not_loadsAndPrefetch : ¬ Obligations.LoadsAndPrefetch := by
  unfold Obligations.LoadsAndPrefetch
  rintro ⟨loads, -⟩
  obtain ⟨issues, executes, counter⟩ := shadowedLoads_issues
  obtain ⟨u, plans⟩ := shadowedLoads_plans
  obtain ⟨t, op, run, -, -, -, -, outstanding, -, -, -, brings, -⟩ :=
    loads shadowedLoads byteLoad shadowedPlans u issues (fun h => absurd h (by decide)) executes counter plans
  obtain ⟨⟨kept, -⟩, -⟩ := outstanding (.inl (by decide))
  have zero : (⟨1, 4, extendBytes 1 false (shadowedLoads.coreBytes 0 0 bindPage 0x300020 1)⟩ : Landing) ∈ op.writes :=
    brings ⟨1, 0x300020, bindPage⟩ (by decide) (by decide) shadowedLoads_settled
  have two := shadowedLoads_brings
  rw [run, writesOf, kept, Option.map_some, Option.some.injEq] at two
  rw [shadowedLoads_sees, two] at zero
  exact absurd zero (by decide)

end Sys2Proof.Machine
end

section
/-!
SUPPORT. Lines that leave a die buffer (R224, R225): no byte gets a value that nothing held, and a byte that no other view shares reads
at its home as before.
-/

namespace Sys2Proof.Machine

open Sys2Proof

/-! ### Tables in rising order -/

/-- Each key of the table stands once, in rising order. -/
def Tab.Rising {α : Type} (l : Tab α) : Prop := l.Pairwise fun e e' => e.1 < e'.1

theorem Tab.mem_set {α : Type} {k : Nat} {x : α} {l : Tab α} {e : Nat × α} (h : e ∈ Tab.set k x l) : e = (k, x) ∨ e ∈ l := by
  induction l with
  | nil => simpa [Tab.set] using h
  | cons d l ih =>
    obtain ⟨i, y⟩ := d
    rw [Tab.set] at h
    split at h
    · rcases List.mem_cons.1 h with rfl | h
      · exact .inl rfl
      · exact .inr (List.mem_cons_of_mem _ h)
    · split at h
      · exact List.mem_cons.1 h
      · rcases List.mem_cons.1 h with rfl | h
        · exact .inr List.mem_cons_self
        · exact (ih h).imp_right (List.mem_cons_of_mem _)

theorem Tab.Rising.set {α : Type} {l : Tab α} (h : l.Rising) (k : Nat) (x : α) : (Tab.set k x l).Rising := by
  induction l with
  | nil => exact List.pairwise_singleton _ _
  | cons d l ih =>
    obtain ⟨i, y⟩ := d
    obtain ⟨head, tail⟩ := List.pairwise_cons.1 h
    rw [Tab.set]
    split
    · next e => subst e; exact List.pairwise_cons.2 ⟨head, tail⟩
    · split
      · next lt =>
        refine List.pairwise_cons.2 ⟨fun e he => ?_, h⟩
        rcases List.mem_cons.1 he with rfl | he
        · exact lt
        · exact lt.trans (head e he)
      · next ne ge =>
        refine List.pairwise_cons.2 ⟨fun e he => ?_, ih tail⟩
        rcases Tab.mem_set he with rfl | he
        · change i < k
          omega
        · exact head e he

theorem Tab.canon_rising {α : Type} (l : Tab α) : (Tab.canon l).Rising := by
  induction l with
  | nil => exact List.Pairwise.nil
  | cons e l ih => exact ih.set e.1 e.2

theorem Tab.get?_canon {α : Type} (l : Tab α) (k : Nat) : Tab.get? k (Tab.canon l) = Tab.get? k l := by
  induction l with
  | nil => rfl
  | cons e l ih =>
    obtain ⟨i, x⟩ := e
    change Tab.get? k (Tab.set i x (Tab.canon l)) = _
    rw [Tab.get?_set, ih, Tab.get?]

theorem Tab.Rising.get? {α : Type} {l : Tab α} (h : l.Rising) {k : Nat} {x : α} (mem : (k, x) ∈ l) : Tab.get? k l = some x := by
  induction l with
  | nil => exact absurd mem List.not_mem_nil
  | cons d l ih =>
    obtain ⟨i, y⟩ := d
    obtain ⟨head, tail⟩ := List.pairwise_cons.1 h
    rw [Tab.get?]
    rcases List.mem_cons.1 mem with e | mem
    · obtain ⟨rfl, rfl⟩ := Prod.mk.inj e
      exact if_pos rfl
    · have lt : i < k := head _ mem
      rw [if_neg (by omega)]
      exact ih tail mem

/-! ### A line leaves the die buffer -/

theorem State.homeByte_some {s : State} {x a : Nat} {c : CByte} (h : Tab.get? (byteKey x a) s.home = some c) :
    s.homeByte x a = c.val := by rw [State.homeByte, h]

theorem State.homeByte_none {s : State} {x a : Nat} (h : Tab.get? (byteKey x a) s.home = none) :
    s.homeByte x a = s.mem.byte a := by rw [State.homeByte, h]

/-- Lines have left the die buffers: what is left of them stood there, a byte of memory is as before or is what a dirty copy of it was,
and a byte of a view that no other shares reads as before. -/
structure State.Leaves (s t : State) : Prop where
  moves : Moves s t
  cores : t.cores = s.cores
  home : ∀ k c, Tab.get? k t.home = some c → Tab.get? k s.home = some c
  wf : s.mem.wf = true → t.mem.wf = true
  mem : s.mem.wf = true → ∀ a, a < 2 ^ 48 → t.mem.byte a = s.mem.byte a ∨
    ∃ x c, x < 3 ∧ Tab.get? (byteKey x a) s.home = some c ∧ c.val = t.mem.byte a
  byte : s.mem.wf = true → ∀ x a, x < 3 → a < 2 ^ 48 → s.oneHome x a → t.oneHome x a ∧ t.homeByte x a = s.homeByte x a

theorem State.Leaves.trans {s t u : State} (h : s.Leaves t) (h' : t.Leaves u) : s.Leaves u where
  moves := h.moves.trans h'.moves
  cores := h'.cores.trans h.cores
  home := fun k c hc => h.home k c (h'.home k c hc)
  wf := fun hw => h'.wf (h.wf hw)
  mem := fun hw a ha => by
    rcases h'.mem (h.wf hw) a ha with same | ⟨x, c, hx, hc, hv⟩
    · rw [same]
      exact h.mem hw a ha
    · exact .inr ⟨x, c, hx, h.home _ _ hc, hv⟩
  byte := fun hw x a hx ha one => by
    obtain ⟨one', same⟩ := h.byte hw x a hx ha one
    obtain ⟨one'', same'⟩ := h'.byte (h.wf hw) x a hx ha one'
    exact ⟨one'', same'.trans same⟩

/-- What changes neither a cache nor memory. -/
theorem State.Leaves.same {s t : State} (moves : Moves s t) (cores : t.cores = s.cores) (home : t.home = s.home)
    (mem : t.mem = s.mem) : s.Leaves t where
  moves := moves
  cores := cores
  home := fun k c hc => home ▸ hc
  wf := fun hw => mem ▸ hw
  mem := fun _ a _ => .inl (by rw [mem])
  byte := fun _ x a _ _ one => by
    refine ⟨?_, by rw [State.homeByte, home, mem]; rfl⟩
    rw [State.oneHome, home, mem, moves.windows.fenced]
    exact one

theorem State.Leaves.refl (s : State) : s.Leaves s := .same (.refl s) rfl rfl rfl

theorem State.Leaves.foldl {α : Type} {f : State → α → State} (hf : ∀ (s : State) a, s.Leaves (f s a)) (l : List α) (s : State) :
    s.Leaves (l.foldl f s) := by
  induction l generalizing s with
  | nil => exact .refl s
  | cons a l ih => exact (hf s a).trans (ih _)

/-- The dirty bytes of a line, with their physical addresses. -/
def State.dirtyOf (s : State) (l : CLine) : List (Nat × Byte) :=
  (l.keys.filter fun k => k < 3 * 2 ^ 48).filterMap fun k =>
    (Tab.get? k s.home).bind fun c => if c.dirty then some (k % 2 ^ 48, c.val) else none

theorem State.mem_dirtyOf {s : State} {l : CLine} {a : Nat} {b : Byte} (ha : a < 2 ^ 48) :
    (a, b) ∈ s.dirtyOf l ↔
      ∃ x c, x < 3 ∧ byteKey x a ∈ l.keys ∧ Tab.get? (byteKey x a) s.home = some c ∧ c.dirty = true ∧ c.val = b := by
  unfold State.dirtyOf
  simp only [List.mem_filterMap, List.mem_filter, Option.bind_eq_some_iff, decide_eq_true_eq]
  constructor
  · rintro ⟨k, ⟨hk, lt⟩, c, hc, e⟩
    split at e
    · next dirty =>
      obtain ⟨rfl, rfl⟩ := Prod.mk.inj (Option.some.inj e)
      have key : byteKey (k / 2 ^ 48) (k % 2 ^ 48) = k := by unfold byteKey; omega
      refine ⟨k / 2 ^ 48, c, by omega, ?_, ?_, dirty, rfl⟩
      · rwa [key]
      · rwa [key]
    · exact absurd e (by simp)
  · rintro ⟨x, c, hx, hk, hc, dirty, rfl⟩
    have low : byteKey x a % 2 ^ 48 = a := by unfold byteKey; omega
    refine ⟨byteKey x a, ⟨hk, by unfold byteKey; omega⟩, c, hc, ?_⟩
    rw [if_pos dirty, low]

/-- The bytes of a list go to memory. -/
def State.dramAll (s : State) (out : List (Nat × Byte)) : State := out.foldl (fun s e => s.dram e.1 e.2) s

theorem State.dramAll_moves (s : State) (out : List (Nat × Byte)) : Moves s (s.dramAll out) := .foldl (fun s _ => s.dram_moves _ _) _ _

theorem State.dramAll_cores (s : State) (out : List (Nat × Byte)) : (s.dramAll out).cores = s.cores := by
  induction out generalizing s with
  | nil => rfl
  | cons e out ih => exact (ih _).trans (s.dram_cores e.1 e.2)

theorem State.dramAll_home (s : State) (out : List (Nat × Byte)) : (s.dramAll out).home = s.home := by
  induction out generalizing s with
  | nil => rfl
  | cons e out ih => exact (ih _).trans (s.dram_home e.1 e.2)

theorem State.dramAll_wf {s : State} (h : s.mem.wf = true) (out : List (Nat × Byte)) : (s.dramAll out).mem.wf = true := by
  induction out generalizing s with
  | nil => exact h
  | cons e out ih => exact ih (State.dram_wf e.1 e.2 h)

/-- A byte of memory after the list: as before, where nothing of the list lies there or its bank takes no writes, or the value of one
of its entries. -/
theorem State.dramAll_byte {s : State} (h : s.mem.wf = true) (out : List (Nat × Byte)) (a : Nat) :
    ((∀ e ∈ out, ¬(e.1 = a ∧ s.fenced a = false)) ∧ (s.dramAll out).mem.byte a = s.mem.byte a) ∨
      ∃ e ∈ out, (e.1 = a ∧ s.fenced a = false) ∧ (s.dramAll out).mem.byte a = e.2 := by
  refine foldl_last (σ := State) (get := fun u => u.mem.byte a) (val := fun e => e.2)
    (inv := fun u => u.mem.wf = true ∧ u.fenced a = s.fenced a) (hit := fun e => e.1 = a ∧ s.fenced a = false)
    (fun u e hu => ?_) (fun u e hu no => ?_) (fun u e hu hit => ?_) out ⟨h, rfl⟩
  · exact ⟨State.dram_wf _ _ hu.1, ((u.dram_moves e.1 e.2).windows.fenced a).trans hu.2⟩
  · refine (State.dram_byte e.1 a e.2 hu.1).trans (if_neg fun yes => no ⟨yes.1.symm, ?_⟩)
    rw [← hu.2, yes.1]
    exact yes.2
  · refine (State.dram_byte e.1 a e.2 hu.1).trans (if_pos ⟨hit.1.symm, ?_⟩)
    rw [hit.1, hu.2]
    exact hit.2

theorem State.leaveHome_eq (s : State) (l : CLine) : s.leaveHome l =
    (({ s with home := s.home.filter fun e => !l.keys.contains e.1 } : State).dramAll (s.dirtyOf l)).askBack
      ((s.dirtyOf l).map fun e => e.1) := rfl

theorem Asks.leaves {s t : State} (h : Asks s t) : s.Leaves t := .same h.moves (by rw [h.eq]) (by rw [h.eq]) (by rw [h.eq])

theorem State.get?_withoutLine (s : State) (l : CLine) (k : Nat) :
    Tab.get? k (s.home.filter fun e => !l.keys.contains e.1) = if k ∈ l.keys then none else Tab.get? k s.home := by
  rw [Tab.get?_filter fun k => !l.keys.contains k]
  by_cases h : k ∈ l.keys <;> simp [h]

theorem State.leaveHome_leaves (s : State) (l : CLine) : s.Leaves (s.leaveHome l) := by
  rw [State.leaveHome_eq]
  refine State.Leaves.trans ?_ (State.askBack_asks _ _).leaves
  obtain ⟨u, hu⟩ : ∃ u, u = ({ s with home := s.home.filter fun e => !l.keys.contains e.1 } : State) := ⟨_, rfl⟩
  rw [← hu]
  have uMem : u.mem = s.mem := by rw [hu]
  have uFenced : ∀ a, u.fenced a = s.fenced a := fun a => by rw [hu]; rfl
  have uHome : ∀ k, Tab.get? k (u.dramAll (s.dirtyOf l)).home = if k ∈ l.keys then none else Tab.get? k s.home := by
    intro k
    rw [State.dramAll_home, hu]
    exact s.get?_withoutLine l k
  refine ⟨?_, ?_, fun k c hc => ?_, fun hw => State.dramAll_wf (uMem ▸ hw) _, fun hw a ha => ?_, fun hw x a hx ha one => ?_⟩
  · exact .after (State.dramAll_moves _ _) (by rw [hu]; exact ⟨rfl, .of_eq rfl⟩)
  · rw [State.dramAll_cores, hu]
  · rw [uHome] at hc
    split at hc
    · exact absurd hc (by simp)
    · exact hc
  · rcases State.dramAll_byte (uMem ▸ hw : u.mem.wf = true) (s.dirtyOf l) a with ⟨-, same⟩ | ⟨e, he, ⟨rfl, -⟩, byte⟩
    · exact .inl (same.trans (by rw [uMem]))
    · obtain ⟨x, c, hx, -, hc, -, hv⟩ := (State.mem_dirtyOf (b := e.2) ha).1 he
      exact .inr ⟨x, c, hx, hc, hv.trans byte.symm⟩
  · obtain ⟨open_, alone, clean⟩ := one
    -- Only the copy of the byte under this view can be dirty.
    have own : ∀ b, (a, b) ∈ s.dirtyOf l → byteKey x a ∈ l.keys ∧ ∃ c, Tab.get? (byteKey x a) s.home = some c ∧ c.dirty = true ∧
        c.val = b := by
      intro b hb
      obtain ⟨y, c, hy, hk, hc, dirty, hv⟩ := (State.mem_dirtyOf ha).1 hb
      by_cases e : y = x
      · subst e; exact ⟨hk, c, hc, dirty, hv⟩
      · rw [alone y hy e] at hc
        exact absurd hc (by simp)
    have open' : (u.dramAll (s.dirtyOf l)).fenced a = false := by
      rw [(State.dramAll_moves _ _).windows.fenced, uFenced]; exact open_
    have others : ∀ y, y < 3 → y ≠ x → Tab.get? (byteKey y a) (u.dramAll (s.dirtyOf l)).home = none := by
      intro y hy ne
      rw [uHome, alone y hy ne]
      exact ite_self _
    rcases State.dramAll_byte (uMem ▸ hw : u.mem.wf = true) (s.dirtyOf l) a with ⟨none_, same⟩ | ⟨e, he, ⟨rfl, -⟩, byte⟩
    · rw [uMem] at same
      refine ⟨⟨open', others, fun c hc hd => ?_⟩, ?_⟩
      · rw [uHome] at hc
        split at hc
        · exact absurd hc (by simp)
        · rw [same]; exact clean c hc hd
      · by_cases hk : byteKey x a ∈ l.keys
        · rw [State.homeByte_none ((uHome _).trans (if_pos hk)), same]
          cases hc : Tab.get? (byteKey x a) s.home with
          | none => exact (State.homeByte_none hc).symm
          | some c =>
            cases hd : c.dirty with
            | false => exact (clean c hc hd).symm.trans (State.homeByte_some hc).symm
            | true =>
              have := (State.mem_dirtyOf (b := c.val) ha).2 ⟨x, c, hx, hk, hc, hd, rfl⟩
              exact absurd ⟨rfl, (uFenced a).trans open_⟩ (none_ _ this)
        · have kept := (uHome (byteKey x a)).trans (if_neg hk)
          cases hc : Tab.get? (byteKey x a) s.home with
          | none => rw [State.homeByte_none hc, State.homeByte_none (kept.trans hc), same]
          | some c => rw [State.homeByte_some hc, State.homeByte_some (kept.trans hc)]
    · obtain ⟨hk, c, hc, -, hv⟩ := own e.2 he
      have gone : Tab.get? (byteKey x e.1) (u.dramAll (s.dirtyOf l)).home = none := (uHome _).trans (if_pos hk)
      refine ⟨⟨open', others, fun c hc' => ?_⟩, ?_⟩
      · rw [gone] at hc'
        exact absurd hc' (by simp)
      · rw [State.homeByte_none gone, State.homeByte_some hc, byte, hv]

theorem State.useHome_leaves (s : State) (l : CLine) : s.Leaves (s.useHome l) := by
  unfold State.useHome
  dsimp only
  split
  · exact .same ⟨rfl, .of_eq rfl⟩ rfl rfl rfl
  · refine .trans ?_ (State.leaveHome_leaves _ _)
    exact .same ⟨rfl, .of_eq rfl⟩ rfl rfl rfl

end Sys2Proof.Machine
end

section
/-!
SUPPORT. The write-back of a core's dirty bytes (R224, R237): every byte of memory is as before.
-/

namespace Sys2Proof.Machine

open Sys2Proof

/-! ### The bytes of a core that go to their homes -/

/-- The die buffers once they hold a list of a core's bytes, dirty. -/
def homeWith (home : Tab CByte) (out : List (Nat × CByte)) : Tab CByte :=
  out.foldl (fun h e => Tab.set e.1 ⟨e.2.val, true⟩ h) home

theorem get?_homeWith (home : Tab CByte) (out : List (Nat × CByte)) (k : Nat) :
    ((∀ e ∈ out, e.1 ≠ k) ∧ Tab.get? k (homeWith home out) = Tab.get? k home) ∨
      ∃ e ∈ out, e.1 = k ∧ Tab.get? k (homeWith home out) = some ⟨e.2.val, true⟩ :=
  foldl_last (f := fun h e => Tab.set e.1 ⟨e.2.val, true⟩ h) (get := Tab.get? k) (val := fun e => some (⟨e.2.val, true⟩ : CByte))
    (inv := fun _ => True) (hit := fun e => e.1 = k)
    (fun _ _ _ => trivial) (fun _ _ _ ne => (Tab.get?_set _ _ _ _).trans (if_neg (Ne.symm ne)))
    (fun _ _ _ eq => (Tab.get?_set _ _ _ _).trans (if_pos eq.symm)) out trivial

/-- What a write-back takes of a core's cache: the dirty bytes of this module that satisfy a test. -/
def takesBack (f : Nat → Nat → Bool) (e : Nat × CByte) : Bool :=
  e.2.dirty && e.1 < 3 * 2 ^ 48 && f (e.1 / 2 ^ 48) (e.1 % 2 ^ 48)

/-- A core's cache after its write-back: what went is clean. -/
def cacheBack (f : Nat → Nat → Bool) (cache : Tab CByte) : Tab CByte :=
  (Tab.canon cache).map fun e => if takesBack f e then (e.1, ⟨e.2.val, false⟩) else e

theorem get?_cacheBack (f : Nat → Nat → Bool) (cache : Tab CByte) (k : Nat) :
    Tab.get? k (cacheBack f cache) =
      (Tab.get? k cache).map fun c => if takesBack f (k, c) then ⟨c.val, false⟩ else c := by
  have form : cacheBack f cache =
      (Tab.canon cache).map fun e => (e.1, if takesBack f (e.1, e.2) then ⟨e.2.val, false⟩ else e.2) := by
    refine List.map_congr_left fun e _ => ?_
    split <;> rfl
  rw [form, Tab.get?_map fun k c => if takesBack f (k, c) then ⟨c.val, false⟩ else c, Tab.get?_canon]

/-- The state once the bytes have gone, before their lines take their ways in the die buffers. -/
def State.backHome (s : State) (die core : Nat) (f : Nat → Nat → Bool) : State :=
  let c := s.core die core
  ({ s with home := homeWith s.home ((Tab.canon c.cache).filter (takesBack f)) } : State).setCore die core
    { c with cache := cacheBack f c.cache }

theorem State.writeBack_leaves (s : State) (die core : Nat) (f : Nat → Nat → Bool) :
    (s.backHome die core f).Leaves (s.writeBack die core f) := by
  have eq : ∃ ls : List CLine, s.writeBack die core f = ls.foldl State.useHome (s.backHome die core f) := ⟨_, rfl⟩
  obtain ⟨ls, eq⟩ := eq
  rw [eq]
  exact .foldl State.useHome_leaves _ _

/-! ### What the write-back leaves as it was -/

section
variable {s : State} {die core : Nat} {f : Nat → Nat → Bool}

theorem State.backHome_moves : Moves s (s.backHome die core f) := ⟨rfl, .of_eq rfl⟩

theorem State.writeBack_moves : Moves s (s.writeBack die core f) :=
  State.backHome_moves.trans (s.writeBack_leaves die core f).moves

/-- A byte that a write-back takes stands in the core's cache, dirty. -/
theorem State.takenBack {e : Nat × CByte} (h : e ∈ (Tab.canon (s.core die core).cache).filter (takesBack f)) :
    Tab.get? e.1 (s.core die core).cache = some e.2 ∧ e.2.dirty = true ∧ takesBack f e = true := by
  obtain ⟨mem, takes⟩ := List.mem_filter.1 h
  refine ⟨(Tab.get?_canon _ _).symm.trans ((Tab.canon_rising _).get? mem), ?_, takes⟩
  exact (Bool.and_eq_true_iff.1 (Bool.and_eq_true_iff.1 takes).1).1

/-- A byte of a die buffer after the write-back stood there, or is a dirty one of the core's cache. -/
theorem State.backHome_home (k : Nat) :
    Tab.get? k (s.backHome die core f).home = Tab.get? k s.home ∧
        (∀ c, Tab.get? k (s.core die core).cache = some c → takesBack f (k, c) = false) ∨
      ∃ c, Tab.get? k (s.core die core).cache = some c ∧ c.dirty = true ∧ takesBack f (k, c) = true ∧
        Tab.get? k (s.backHome die core f).home = some ⟨c.val, true⟩ := by
  rcases get?_homeWith s.home ((Tab.canon (s.core die core).cache).filter (takesBack f)) k with ⟨none_, same⟩ | ⟨e, he, rfl, eq⟩
  · refine .inl ⟨same, fun c hc => ?_⟩
    cases h : takesBack f (k, c) with
    | false => rfl
    | true =>
      have mem : (k, c) ∈ Tab.canon (s.core die core).cache := Tab.mem_of_get? ((Tab.get?_canon _ _).trans hc)
      exact absurd rfl (none_ _ (List.mem_filter.2 ⟨mem, h⟩))
  · obtain ⟨hc, dirty, takes⟩ := State.takenBack he
    exact .inr ⟨e.2, hc, dirty, takes, eq⟩

theorem State.backHome_cache (k : Nat) :
    Tab.get? k ((s.backHome die core f).core die core).cache =
      (Tab.get? k (s.core die core).cache).map fun c => if takesBack f (k, c) then ⟨c.val, false⟩ else c := by
  rw [State.backHome, State.core_setCore]
  exact get?_cacheBack f _ k

theorem State.backHome_others {d c : Nat} (ne : coreKey d c ≠ coreKey die core) :
    (s.backHome die core f).core d c = s.core d c := by
  rw [State.backHome, State.core_setCore_eq, if_neg ne]
  rfl

/-- No byte has a value in the caches that none held before. -/
theorem State.backHome_holds {a : Nat} {b : Byte} (h : (s.backHome die core f).Holds a b) : s.Holds a b := by
  rcases h with mem | ⟨x, c, hx, hc, hv⟩ | ⟨d, k, x, c, hx, hc, hv⟩
  · exact .inl mem
  · rcases s.backHome_home (die := die) (core := core) (f := f) (byteKey x a) with ⟨same, -⟩ | ⟨c', hc', -, -, eq⟩
    · exact .inr (.inl ⟨x, c, hx, same.symm.trans hc, hv⟩)
    · rw [eq] at hc
      have : c'.val = b := by rw [← hv, ← Option.some.inj hc]
      exact .inr (.inr ⟨die, core, x, c', hx, hc', this⟩)
  · by_cases ne : coreKey d k = coreKey die core
    · have same : ∀ u : State, u.core d k = u.core die core := fun u => by rw [State.core, ne]; rfl
      rw [same, State.backHome_cache] at hc
      obtain ⟨c', hc', rfl⟩ := Option.map_eq_some_iff.1 hc
      refine .inr (.inr ⟨die, core, x, c', hx, hc', ?_⟩)
      rw [← hv]
      split <;> rfl
    · rw [State.backHome_others ne] at hc
      exact .inr (.inr ⟨d, k, x, c, hx, hc, hv⟩)

theorem State.Leaves.holds {s t : State} (h : s.Leaves t) (hw : s.mem.wf = true) {a : Nat} {b : Byte} (ha : a < 2 ^ 48)
    (holds : t.Holds a b) : s.Holds a b := by
  rcases holds with mem | ⟨x, c, hx, hc, hv⟩ | ⟨d, k, x, c, hx, hc, hv⟩
  · rcases h.mem hw a ha with same | ⟨x, c, hx, hc, hv⟩
    · exact .inl (same.symm.trans mem)
    · exact .inr (.inl ⟨x, c, hx, hc, hv.trans mem⟩)
  · exact .inr (.inl ⟨x, c, hx, h.home _ _ hc, hv⟩)
  · rw [State.core, h.cores] at hc
    exact .inr (.inr ⟨d, k, x, c, hx, hc, hv⟩)

/-- A byte that no other view shares is shared by none after the write-back, and reads on its core as before. -/
theorem State.backHome_own {x a : Nat} (one : s.oneView die core x a) :
    (s.backHome die core f).oneHome x a ∧ (s.backHome die core f).ownByte die core x a = s.ownByte die core x a := by
  obtain ⟨open_, alone, clean⟩ := one
  refine ⟨⟨open_, fun y hy ne => ?_, fun c hc hd => ?_⟩, ?_⟩
  · obtain ⟨noHome, noCache⟩ := alone y hy ne
    rcases s.backHome_home (die := die) (core := core) (f := f) (byteKey y a) with ⟨same, -⟩ | ⟨c, hc, -⟩
    · exact same.trans noHome
    · rw [noCache] at hc
      exact absurd hc (by simp)
  · rcases s.backHome_home (die := die) (core := core) (f := f) (byteKey x a) with ⟨same, -⟩ | ⟨c', -, -, -, eq⟩
    · exact clean c (same.symm.trans hc) hd
    · rw [eq] at hc
      rw [← Option.some.inj hc] at hd
      exact absurd hd (by simp)
  · rw [State.ownByte, State.ownByte, State.backHome_cache]
    rcases s.backHome_home (die := die) (core := core) (f := f) (byteKey x a) with ⟨same, keeps⟩ | ⟨c, hc, dirty, takes, eq⟩
    · have home : (s.backHome die core f).homeByte x a = s.homeByte x a := by rw [State.homeByte, same]; rfl
      cases hc : Tab.get? (byteKey x a) (s.core die core).cache with
      | none => exact home
      | some c => simp [keeps c hc, home]
    · rw [hc]
      simp [takes, dirty, State.homeByte_some eq]

theorem State.ownByte_congr {s t : State} {die core x a : Nat}
    (cache : Tab.get? (byteKey x a) (t.core die core).cache = Tab.get? (byteKey x a) (s.core die core).cache)
    (home : t.homeByte x a = s.homeByte x a) : t.ownByte die core x a = s.ownByte die core x a := by
  rw [State.ownByte, State.ownByte, cache, home]

/-- Every byte of memory is as before a write-back of the issuing core. -/
theorem State.coreBack_bytesBut (s : State) (f : Nat → Nat → Bool) : s.BytesBut (s.coreBack f) fun _ => False := by
  have moves : Moves s (s.coreBack f) := State.writeBack_moves
  have leaves := s.writeBack_leaves s.cur.id.die s.cur.id.core f
  have cores : ∀ d c, (s.coreBack f).core d c = (s.backHome s.cur.id.die s.cur.id.core f).core d c := fun d c => by
    rw [State.core, State.core]
    exact congrArg (fun t => Tab.getD t (coreKey d c) Core.empty) leaves.cores
  refine ⟨fun hw a b ha _ holds => State.backHome_holds (leaves.holds hw ha holds), fun hw x a hx ha _ _ one => ?_, fun d c ne => ?_,
    fun a _ => ?_, ?_⟩
  · obtain ⟨oneHome, own⟩ := State.backHome_own (f := f) one
    obtain ⟨-, same⟩ := leaves.byte hw x a hx ha oneHome
    exact (State.ownByte_congr (by rw [← cores]; rfl) same).trans own
  · rw [cores, State.backHome_others ne]
  · rw [moves.eq]
  · rw [moves.eq]

end

end Sys2Proof.Machine
end

section
/-!
Launches from the device (R140, R144, R381).
-/

namespace Sys2Proof.Machine

open Sys2Proof

/-! ### Bytes, where something else changes -/

/-- What changes neither memory nor a cache changes no byte. -/
theorem State.BytesBut.upTo {s u t : State} {P : Nat → Prop} (h : s.BytesBut u P) (mem : t.mem = u.mem) (home : t.home = u.home)
    (cache : ∀ d c, (t.core d c).cache = (u.core d c).cache) (host : t.host = u.host) : s.BytesBut t P := by
  obtain ⟨holds, own, others, hostMem, ctxs⟩ := h
  refine ⟨fun hw a b ha hp hb => holds hw a b ha hp ?_, fun hw x a hx ha hp hf one => ?_, fun d c ne => ?_, fun a hp => ?_, ?_⟩
  · simpa only [State.Holds, mem, home, cache] using hb
  · rw [← own hw x a hx ha hp hf one]
    exact State.ownByte_congr (by rw [cache]) (by rw [State.homeByte, State.homeByte, home, mem])
  · rw [cache, others d c ne]
  · rw [host, hostMem a hp]
  · rw [host, ctxs]

theorem State.occupy_cache (s : State) (n d c : Nat) : ((s.occupy n).core d c).cache = (s.core d c).cache :=
  State.setCore_cache s (x := { s.core s.cur.id.die s.cur.id.core with
    busy := Tab.set s.cur.id.lane (s.clock.cycle + n) (s.core s.cur.id.die s.cur.id.core).busy }) rfl d c

/-- The state after the release of what is bound nowhere: the caches, memory and the queues of the stacks may differ. -/
theorem State.releaseUnbound_frame (s : State) : ∃ cores home homeLines mem stks free,
    s.releaseUnbound = { s with
      cores := cores, home := home, homeLines := homeLines, mem := mem, stks := stks, free := free } ∧
    s.BytesBut s.releaseUnbound fun _ => False := by
  have moves : Moves s s.releaseUnbound := by
    unfold State.releaseUnbound State.coreBack
    exact State.writeBack_moves
  exact ⟨_, _, _, _, _, _, moves.eq, s.coreBack_bytesBut _⟩

/-! ### The frame of a uniform instruction -/

theorem State.uniformly_run {s : State} {x : Ord} {run : State → State} (funds : s.funds 1 = true) (executes : s.cur.exec x.pred ≠ 0) :
    s.uniformly x [] run = run s := by
  have pays := State.affordable_some funds (by decide) executes
  rw [State.uniformly, State.named_of (by simp [Group.allNamed]), State.checked_of (by simp [State.uniformIn]), if_neg executes,
    if_neg (by rw [decide_eq_false pays]; simp)]

/-! ### The launch -/

/-- The operation that waits for the status of a launch. -/
def State.statusOp (s : State) (x : Ord) : Op :=
  { s.opOf x.pred (lenOf x) 4 7 0 { Draft.none with kind := .status s.nextSeq x.d.code } 0 [] with launch := s.cur.launch }

/-- An operation without requests that counts nowhere only waits. -/
theorem State.addOp_waits {s : State} (id : Nat) {op : Op} (counter : op.counter = 4) :
    s.addOp id op [] = { s with eng := { s.eng with ops := Tab.set id op s.eng.ops } } := by
  unfold State.addOp
  rw [counter]
  rfl

/-- A charge, for an instruction that presents a launch before it pays. -/
theorem State.charge_presented {s u : State} (funds : s.funds 1 = true) (cur : u.cur = s.cur)
    (launch : u.launch? s.cur.launch = s.launch? s.cur.launch) :
    u.charge 1 = { u with cur := { s.cur with bgt := BitVec.ofNat 64 (s.cur.bgt.toNat - 1) } } := by
  have counts : u.counts = s.counts := by rw [State.counts, State.counts, cur, launch]
  rw [State.charge_eq, cur]
  rw [cur, counts]
  exact State.funds_hand funds

/-- `launch` presents its packet behind the release of what is bound nowhere, and holds its split at the status. -/
theorem State.exec_launch {s : State} {x : Ord} {a : Fin 32} (issues : s.issues [x.d, x.a] 1 = true) (executes : s.cur.exec x.pred ≠ 0)
    (packet : x.a = .g a) (new : s.cur.launch ≠ s.nextSeq) : ∃ u, s.BytesBut u (fun _ => False) ∧
    u = { s with cores := u.cores, home := u.home, homeLines := u.homeLines, mem := u.mem, stks := u.stks, free := u.free } ∧
    exec (.launch x) s = .next (({ u with
      launches := Tab.set s.nextSeq (newLaunch s.nextSeq s.cur.part s.cur.id.die (.group s.cur.id) (packetOf (s.cur.packetAt a)))
        s.launches
      presented := s.presented ++ [s.nextSeq]
      nextSeq := s.nextSeq + 1
      nextId := s.nextId + 1
      eng := { s.eng with ops := Tab.set s.nextId (s.statusOp x) s.eng.ops }
      cur := { s.cur with
        bgt := BitVec.ofNat 64 (s.cur.bgt.toNat - 1)
        sp := { s.cur.sp with wait := .op s.nextId, charged := true } } } : State).occupy 1) := by
  obtain ⟨cores, home, homeLines, mem, stks, free, released, bytes⟩ := s.releaseUnbound_frame
  refine ⟨s.releaseUnbound, bytes, by rw [released], ?_⟩
  change Host.Outcome.next (s.uniformly x [] _) = _
  rw [State.uniformly_run (State.issues_funds issues) executes, State.named_of (State.issues_named issues)]
  have code : x.a.code - 96 = a.val := by rw [packet]; simp [Opd.code]
  dsimp only
  rw [code, released]
  rw [State.addOp_waits, if_neg (by simp [State.present, State.fresh, State.issues_fresh issues])]
  rw [State.charge_presented (s := s) (State.issues_funds issues)]
  · rfl
  · rfl
  · exact (Tab.get?_set _ _ _ _).trans (if_neg new)
  · rfl

/-- Settles O32: the state that `launch` leaves (`State.exec_launch`). -/
theorem deviceLaunches : Obligations.DeviceLaunches := by
  unfold Obligations.DeviceLaunches
  intro s x a issues executes packet bits new
  obtain ⟨u, bytes, frame, run⟩ := State.exec_launch issues executes packet new
  have word : ∀ k, (BitVec.ofNat 64 (field bits k 64)).toNat = field bits k 64 := fun k =>
    (BitVec.toNat_ofNat _ _).trans (Nat.mod_eq_of_lt (Nat.mod_lt _ (by decide)))
  refine ⟨_, newLaunch s.nextSeq s.cur.part s.cur.id.die (.group s.cur.id) (packetOf bits), s.statusOp x, run, rfl, ?_, ?_, rfl, rfl,
    ?_, fun k hk => ?_, rfl, rfl, rfl, rfl, word 448, word 384, word 320, word 256, word 192, rfl, rfl, rfl, rfl, rfl, ?_, rfl, rfl⟩
  · refine State.BytesBut.upTo (u := u) bytes rfl rfl (fun d c => ?_) rfl
    exact State.occupy_cache _ _ d c
  · change u.teams = s.teams
    rw [frame]
  · exact (Tab.get?_set _ _ _ _).trans (if_pos rfl)
  · exact (Tab.get?_set _ _ _ _).trans (if_neg hk)
  · exact (Tab.get?_set _ _ _ _).trans (if_pos rfl)

end Sys2Proof.Machine
end

section
/-!
Emission of records (R158, R161, R222, R380).
-/

namespace Sys2Proof.Machine

open Sys2Proof

/-! ### Refusals (R191) -/

theorem State.occupy_caches (s : State) (n k : Nat) :
    (Tab.getD (s.occupy n).cores k Core.empty).cache = (Tab.getD s.cores k Core.empty).cache := by
  rw [State.occupy, State.setCore_cores, Tab.getD_set]
  split
  · next h => rw [h]; rfl
  · rfl

/-- A refusal outside handler mode traps whole at the thread that reports. -/
theorem State.refuse_refuses {s : State} {i : Instr} {p : Pred} {c : BitVec 8} (trappable : s.trappable = true)
    (run : exec i s = .next (s.refuse p c)) : Refuses i s p c := by
  obtain ⟨outside, fresh⟩ := Bool.and_eq_true_iff.1 trappable
  have hand : s.cur.hand = none := by simpa using outside
  have fresh' : s.cur.sp.charged = false := by simpa using fresh
  obtain ⟨u, hu⟩ : ∃ u, u = (s.charge 1).occupy 1 := ⟨_, rfl⟩
  rw [State.charge_outside 1 hand] at hu
  have refused : s.refuse p c = u.trap { s.cur.wholeTrap c (s.cur.reportAt p) with omask := s.cur.omask p } := by
    rw [State.refuse, fresh', if_neg (by decide), State.charge_outside 1 hand, hu]
  obtain ⟨t, ht, only, v, -, trapped⟩ := State.trap_trapped (s := u)
    (tr := { s.cur.wholeTrap c (s.cur.reportAt p) with omask := s.cur.omask p })
    (by rw [hu]; exact hand) (by rw [hu]; rfl) (fun h => absurd (show (0 : BitVec 2) = 2 from h) (by decide))
  have report : s.cur.reportAt p < 32 := by
    rw [Group.reportAt]
    split <;> exact lowest_lt _
  have rtid : (BitVec.ofNat 5 (s.cur.reportAt p)).toNat = s.cur.reportAt p :=
    (BitVec.toNat_ofNat _ _).trans (Nat.mod_eq_of_lt report)
  refine ⟨t, by rw [run, refused, ht], ?_, by rw [v, hu]; rfl, ?_⟩
  · rw [hu] at only
    obtain ⟨frame, caches, teams, parts⟩ := only
    exact ⟨frame, fun k => (caches k).trans (State.occupy_caches s 1 k), teams, parts⟩
  · have := trapped.of_alike (s := s) (sp := s.cur.sp) (by rw [hu]; rfl) ⟨rfl, rfl, rfl, rfl, rfl⟩ (by rw [hu]; rfl) (by rw [hu]; rfl)
    dsimp only [Group.wholeTrap] at this
    rw [rtid] at this
    exact this

/-! ### Records at the end of a queue (R158) -/

/-- A launch once records have gone to the end of a stage's queue. -/
def Launch.pushed (l : Launch) (st : Nat) (rs : List QRec) : Launch :=
  { l with stages := Tab.update st (fun g => { g with queue := g.queue ++ rs }) l.stages }

theorem Tab.update_update {α : Type} (k : Nat) (f g : α → α) (l : Tab α) :
    Tab.update k f (Tab.update k g l) = Tab.update k (fun x => f (g x)) l := by
  unfold Tab.update
  rw [List.map_map]
  refine List.map_congr_left fun e _ => ?_
  by_cases h : e.1 = k <;> simp [h]

theorem Tab.update_id {α : Type} (k : Nat) (l : Tab α) : Tab.update k (fun x => x) l = l := by
  unfold Tab.update
  conv_rhs => rw [← List.map_id l]
  refine List.map_congr_left fun e _ => ?_
  split <;> rfl

theorem Launch.pushed_pushed (l : Launch) (st : Nat) (rs qs : List QRec) : (l.pushed st rs).pushed st qs = l.pushed st (rs ++ qs) := by
  unfold Launch.pushed
  simp only [Tab.update_update, List.append_assoc]

theorem Launch.pushed_nil (l : Launch) (st : Nat) : l.pushed st [] = l := by
  unfold Launch.pushed
  simp only [List.append_nil]
  rw [Tab.update_id]

/-- The state once records have gone to the end of a stage's queue. -/
def State.pushAll (s : State) (seq st : Nat) (rs : List QRec) : State := s.updLaunch seq fun l => l.pushed st rs

theorem State.pushAll_nil (s : State) (seq st : Nat) : s.pushAll seq st [] = s := by
  unfold State.pushAll State.updLaunch
  simp only [Launch.pushed_nil, Tab.update_id]

theorem State.pushAll_cons (s : State) (seq st : Nat) (r : QRec) (rs : List QRec) :
    (s.pushRecord seq st r).pushAll seq st rs = s.pushAll seq st (r :: rs) := by
  change (s.pushAll seq st [r]).pushAll seq st rs = _
  simp only [State.pushAll, State.updLaunch, Tab.update_update, Launch.pushed_pushed, List.singleton_append]

/-- Where the queue has room, every record is sent. -/
theorem State.sendRecords_all {seq st off rs n : Nat} {ts : List Nat} (room : ts.length ≤ n) (s : State) :
    State.sendRecords seq st off rs n ts s =
      ([], s.pushAll seq st (ts.map fun t => ⟨s.recordOf off rs t, 0, s.clock.time⟩)) := by
  induction ts generalizing n s with
  | nil =>
    rw [List.map_nil, State.pushAll_nil]
    cases n <;> rfl
  | cons t ts ih =>
    obtain ⟨n, rfl⟩ : ∃ m, n = m + 1 := ⟨n - 1, by simp at room; omega⟩
    rw [State.sendRecords, ih (by simpa using room), List.map_cons, ← State.pushAll_cons]
    rfl

/-- The records of `emit.rec` are one deeper than those that their threads run for. -/
theorem State.foldl_pushRecord {st off rs : Nat} (ts : List Nat) (s : State) :
    ts.foldl (fun s t => s.pushRecord s.cur.launch st ⟨s.recordOf off rs t, s.cur.depthOf t + 1, s.clock.time⟩) s =
      s.pushAll s.cur.launch st (ts.map fun t => ⟨s.recordOf off rs t, s.cur.depthOf t + 1, s.clock.time⟩) := by
  induction ts generalizing s with
  | nil => exact (s.pushAll_nil _ _).symm
  | cons t ts ih =>
    rw [List.foldl_cons, ih, List.map_cons, ← State.pushAll_cons]
    rfl

/-! ### The checks of R380 -/

section
variable {s : State} {x : Ord} {own : Bool} {run : State → Stage → Nat → State} {l : Launch} {mine dst : Stage}
  (named : s.cur.allNamed [x.d, x.a] = true) (executes : s.cur.exec x.pred ≠ 0) (pays : s.affordable (s.cur.exec x.pred) ≠ 0)
  (launch : s.launch? s.cur.launch = some l) (at_ : Tab.get? s.cur.stage l.stages = some mine)
  (dest : Tab.get? (x.imm.toNat % 16) l.stages = some dst)
include named executes pays launch at_ dest

theorem State.emitChecks_refused
    (no : ((if own then x.imm.toNat % 16 != s.cur.stage else !mine.outMask.testBit (x.imm.toNat % 16)) ||
      Decidable.decide (x.imm.toNat % 16 = 0)) = true) : s.emitChecks x own run = s.refuse x.pred 0x0B := by
  have from_ : s.stage? s.cur.launch s.cur.stage = some mine := by rw [State.stage?, launch]; exact at_
  have into : s.stage? s.cur.launch (x.imm.toNat % 16) = some dst := by rw [State.stage?, launch]; exact dest
  rw [State.emitChecks, State.named_of named]
  dsimp only
  rw [if_neg executes, if_neg pays, from_, into]
  exact if_pos no

theorem State.emitChecks_run
    (out : (if own then x.imm.toNat % 16 != s.cur.stage else !mine.outMask.testBit (x.imm.toNat % 16)) = false)
    (notGrid : x.imm.toNat % 16 ≠ 0)
    (inside : s.badRecord (s.cur.opd x.a (lowest (s.cur.exec x.pred))).toNat dst.recSize (threads (s.cur.exec x.pred)) = none) :
    s.emitChecks x own run = run s dst (s.cur.opd x.a (lowest (s.cur.exec x.pred))).toNat := by
  have from_ : s.stage? s.cur.launch s.cur.stage = some mine := by rw [State.stage?, launch]; exact at_
  have into : s.stage? s.cur.launch (x.imm.toNat % 16) = some dst := by rw [State.stage?, launch]; exact dest
  rw [State.emitChecks, State.named_of named]
  dsimp only
  rw [if_neg executes, if_neg pays, from_, into]
  dsimp only
  rw [if_neg (by rw [out]; simpa using notGrid), Group.common, inside]

end

/-! ### The end of an emission -/

theorem State.writeD_g {s : State} {x : Ord} {r : Fin 32} (h : x.d = .g r) (t : Nat) (v : Word) :
    s.writeD x t v = { s with cur := s.cur.gset r v } := by rw [State.writeD, h]

theorem State.counts_some {s : State} {l : Launch} (h : s.launch? s.cur.launch = some l) :
    s.counts = (l.p.cls == 0 && !l.overrun) := by rw [State.counts, h]

theorem State.counts_none {s : State} (h : s.launch? s.cur.launch = none) : s.counts = false := by rw [State.counts, h]

/-- Whether the launch counts a budget does not depend on what an update keeps. -/
theorem State.counts_updLaunch (s : State) (seq : Nat) {f : Launch → Launch}
    (keeps : ∀ l, (f l).p = l.p ∧ (f l).overrun = l.overrun) : (s.updLaunch seq f).counts = s.counts := by
  have found : (s.updLaunch seq f).launch? s.cur.launch =
      if s.cur.launch = seq then (s.launch? s.cur.launch).map f else s.launch? s.cur.launch := Tab.get?_update _ _ _ _
  cases h : s.launch? s.cur.launch with
  | none =>
    rw [h, Option.map_none, ite_self] at found
    rw [State.counts_none h, State.counts_none found]
  | some l =>
    obtain ⟨p, overrun⟩ := keeps l
    rw [h] at found
    rw [State.counts_some h]
    split at found
    · rw [State.counts_some found, p, overrun]
    · rw [State.counts_some found]

theorem State.pushAll_counts (s : State) (seq st : Nat) (rs : List QRec) : (s.pushAll seq st rs).counts = s.counts :=
  s.counts_updLaunch seq fun _ => ⟨rfl, rfl⟩

/-- What has emitted writes D, and goes on to the next instruction. -/
theorem State.emit_retires {s w : State} {P : Nat → Prop} {ops : List Opd} {n len : Nat} {e : Mask} (issues : s.issues ops n = true)
    (cur : w.cur = s.cur) (teams : w.teams = s.teams) (clock : w.clock = s.clock) (counts : w.counts = s.counts)
    (bytes : s.BytesBut w P) (r : Fin 32) (v : Word) :
    ∃ t, ({ w with cur := w.cur.gset r v } : State).retire n len e = t ∧
      (s.GotG t r v ∧ s.BytesBut t P ∧ t.teams = s.teams ∧ t.cur.sp = s.cur.sp.after s.cur.sp.fmt len (s.clock.cycle + n)) ∧
      t.launches = w.launches := by
  obtain ⟨u, hu⟩ : ∃ u, u = ({ w with cur := { s.cur with g := (s.cur.gset r v).g } } : State) := ⟨_, rfl⟩
  have written : ({ w with cur := w.cur.gset r v } : State) = u := by rw [hu, cur, Group.gset_eq]
  have fresh : s.cur.sp.charged = false := State.issues_fresh issues
  have step : s.cur.dbg.getLsbD 8 = false ∨ s.cur.hand.isSome = true := State.issues_step issues
  have retired := State.retire_eq (s := u) (n := n) (len := len) (e := e) (by rw [hu]; exact fresh) (by rw [hu]; exact step)
    (fun hand some_ => ?_)
  · refine ⟨_, by rw [written, retired], ⟨⟨by rw [hu]; rfl, by rw [hu]; rfl, fun m => ?_⟩, ?_, ?_, ?_⟩, ?_⟩
    · rw [hu]
      exact Group.gget_gset s.cur r m v
    · refine State.BytesBut.upTo (u := w) bytes (by rw [hu]; rfl) (by rw [hu]; rfl) (fun d c => ?_) (by rw [hu]; rfl)
      refine (State.occupy_cache u n d c).trans ?_
      rw [hu]
      rfl
    · rw [hu]; exact teams
    · rw [hu, ← clock]; rfl
    · rw [hu]; rfl
  · have same : u.counts = s.counts := by
      rw [hu, ← counts]
      unfold State.counts
      rw [cur]
      rfl
    rw [hu] at hand ⊢
    rw [same] at some_
    have := State.funds_hand (State.issues_funds issues) hand some_
    change n < s.cur.bgt.toNat
    omega

theorem State.launch?_congr {s t : State} (h : t.launches = s.launches) (k : Nat) : t.launch? k = s.launch? k := by
  rw [State.launch?, State.launch?, h]

theorem State.launch?_updLaunch (s : State) (seq : Nat) (f : Launch → Launch) :
    (s.updLaunch seq f).launch? seq = (s.launch? seq).map f := (Tab.get?_update seq seq f s.launches).trans (if_pos rfl)

theorem Launch.pushed_stages (l : Launch) (st k : Nat) (rs : List QRec) : Tab.get? k (l.pushed st rs).stages =
    if k = st then (Tab.get? k l.stages).map fun g => { g with queue := g.queue ++ rs } else Tab.get? k l.stages :=
  Tab.get?_update st k (fun g : Stage => { g with queue := g.queue ++ rs }) l.stages

/-- The launch after records have gone to a stage. -/
theorem State.pushAll_sent {s t : State} {seq st : Nat} {l : Launch} {dst : Stage} {rs : List QRec}
    (launch : s.launch? seq = some l) (dest : Tab.get? st l.stages = some dst) (h : t.launches = (s.pushAll seq st rs).launches) :
    ∃ l1, t.launch? seq = some l1 ∧ Tab.get? st l1.stages = some { dst with queue := dst.queue ++ rs } ∧
      (∀ k, k ≠ st → Tab.get? k l1.stages = Tab.get? k l.stages) ∧ l1.depthX = l.depthX := by
  refine ⟨l.pushed st rs, ?_, ?_, fun k hk => ?_, rfl⟩
  · rw [State.launch?_congr h, State.pushAll, State.launch?_updLaunch, launch]
    rfl
  · rw [Launch.pushed_stages, if_pos rfl, dest]
    rfl
  · rw [Launch.pushed_stages, if_neg hk]

theorem State.recordHole_none {s : State} {off rs : Nat} {ts : List Nat} (h : ∀ j ∈ ts, s.holes (off + j * rs) rs [] = []) :
    s.recordHole off rs ts = none := by
  refine List.findSome?_eq_none_iff.2 fun j hj => ?_
  rw [h j hj]

/-- Where the records of an emission begin. -/
def State.emitOff (s : State) (x : Ord) : Nat := (s.cur.opd x.a (lowest (s.cur.exec x.pred))).toNat

/-- The records of the executing threads of an emission, each with a depth. -/
def State.records (s : State) (x : Ord) (rs : Nat) (depth : Nat → Nat) : List QRec :=
  (threads (s.cur.exec x.pred)).map fun j => ⟨s.lsBytes (s.emitOff x + j * rs) rs, depth j, s.clock.time⟩

/-- What an emission leaves: the answer in D, every byte as before, and the split behind the instruction. -/
def State.Emitted (s t : State) (x : Ord) (r : Fin 32) (v : Word) : Prop :=
  s.GotG t r v ∧ s.BytesBut t (fun _ => False) ∧ t.teams = s.teams ∧
    t.cur.sp = s.cur.sp.after s.cur.sp.fmt (lenOf x) (s.clock.cycle + max 1 (count (s.cur.exec x.pred)))

section
variable {s : State} {x : Ord} {r : Fin 32} {l : Launch} {mine dst : Stage}
  (issues : s.issues [x.d, x.a] (max 1 (count (s.cur.exec x.pred))) = true) (executes : s.cur.exec x.pred ≠ 0)
  (launch : s.launch? s.cur.launch = some l) (at_ : Tab.get? s.cur.stage l.stages = some mine)
  (dest : Tab.get? (x.imm.toNat % 16) l.stages = some dst) (notGrid : x.imm.toNat % 16 ≠ 0)
  (inside : s.badRecord (s.emitOff x) dst.recSize (threads (s.cur.exec x.pred)) = none)
include issues executes

theorem State.emit_affordable : s.affordable (s.cur.exec x.pred) = s.cur.exec x.pred :=
  State.affordable_of (Nat.max_eq_right (count_pos executes) ▸ State.issues_funds issues)

include launch at_ dest notGrid inside

theorem State.emitChecks_passed {own : Bool} {run : State → Stage → Nat → State}
    (out : (if own then x.imm.toNat % 16 != s.cur.stage else !mine.outMask.testBit (x.imm.toNat % 16)) = false) :
    s.emitChecks x own run = run s dst (s.emitOff x) :=
  State.emitChecks_run (State.issues_named issues) executes
    (by rw [State.emit_affordable issues executes]; exact executes) launch at_ dest out notGrid inside

section
variable (out : mine.outMask.testBit (x.imm.toNat % 16) = true)
include out

/-- `emit` with room sends every record. -/
theorem State.emit_sends (dG : x.d = .g r)
    (filled : ∀ j ∈ threads (s.cur.exec x.pred), s.holes (s.emitOff x + j * dst.recSize) dst.recSize [] = [])
    (room : dst.queue.length + count (s.cur.exec x.pred) ≤ dst.cap) :
    ∃ t, exec (.emit x) s = .next t ∧ s.Emitted t x r 0 ∧
      t.launches = (s.pushAll s.cur.launch (x.imm.toNat % 16) (s.records x dst.recSize fun _ => 0)).launches := by
  obtain ⟨cores, home, homeLines, mem, stks, free, released, bytes⟩ := s.releaseUnbound_frame
  obtain ⟨t, ht, went, launches⟩ := State.emit_retires (e := s.cur.exec x.pred) (len := lenOf x)
    (w := s.releaseUnbound.pushAll s.cur.launch (x.imm.toNat % 16) (s.records x dst.recSize fun _ => 0))
    issues (by rw [released]; rfl) (by rw [released]; rfl) (by rw [released]; rfl)
    (by rw [State.pushAll_counts, released]; rfl) (bytes.upTo rfl rfl (fun _ _ => rfl) rfl) r 0
  refine ⟨t, congrArg Host.Outcome.next ?_, went, by rw [launches, released]; rfl⟩
  rw [State.emitChecks_passed (own := false) issues executes launch at_ dest notGrid inside (by simpa using out)]
  dsimp only
  rw [State.emit_affordable issues executes, State.recordHole_none filled]
  dsimp only
  rw [State.sendRecords_all (by rw [Stage.roomFor]; change count (s.cur.exec x.pred) ≤ _; omega)]
  dsimp only
  rw [if_pos rfl, State.writeD_g dG, State.queueDone, if_pos rfl, ← ht, released]
  rfl

/-- `emit` without room waits before its lowest thread. -/
theorem State.emit_waits
    (filled : ∀ j ∈ threads (s.cur.exec x.pred), s.holes (s.emitOff x + j * dst.recSize) dst.recSize [] = [])
    (full : dst.cap ≤ dst.queue.length) : ∃ u, s.BytesBut u (fun _ => False) ∧
      u = { s with cores := u.cores, home := u.home, homeLines := u.homeLines, mem := u.mem, stks := u.stks, free := u.free } ∧
      exec (.emit x) s = .next ((u.resumeAt (lowest (s.cur.exec x.pred)) (s.cur.omask x.pred)).stall
        (.stage s.cur.launch (x.imm.toNat % 16))) := by
  obtain ⟨cores, home, homeLines, mem, stks, free, released, bytes⟩ := s.releaseUnbound_frame
  obtain ⟨j, js, first⟩ : ∃ j js, threads (s.cur.exec x.pred) = j :: js := List.exists_cons_of_ne_nil
    (List.ne_nil_of_mem (mem_threads.2 (lowest_mem executes)))
  have low : lowest (s.cur.exec x.pred) = j := by rw [lowest, first]; rfl
  have below : (j :: js).filter (fun u => Decidable.decide (u < j)) = [] := by
    have sorted := threads_sorted (s.cur.exec x.pred)
    rw [first] at sorted
    refine List.filter_eq_nil_iff.2 fun u hu => ?_
    rcases List.mem_cons.1 hu with rfl | hu
    · simp
    · have := (List.pairwise_cons.1 sorted).1 u hu
      simp only [decide_eq_true_eq]
      omega
  have noRoom : dst.roomFor = 0 := Nat.sub_eq_zero_of_le full
  refine ⟨s.releaseUnbound, bytes, by rw [released], congrArg Host.Outcome.next ?_⟩
  rw [State.emitChecks_passed (own := false) issues executes launch at_ dest notGrid inside (by simpa using out)]
  dsimp only
  rw [State.emit_affordable issues executes, State.recordHole_none filled]
  dsimp only
  rw [noRoom, State.sendRecords, first]
  dsimp only
  have cur : s.releaseUnbound.cur = s.cur := by rw [released]
  rw [below, low, cur]
  rfl

/-- `emit` waits for the fill of a record's blocks. -/
theorem State.emit_stalls {j a : Nat}
    (hole : s.recordHole (s.emitOff x) dst.recSize (threads (s.cur.exec x.pred)) = some (j, a, none)) :
    exec (.emit x) s = .next (s.stall (.fill (blockOf a))) := by
  refine congrArg Host.Outcome.next ?_
  rw [State.emitChecks_passed (own := false) issues executes launch at_ dest notGrid inside (by simpa using out)]
  dsimp only
  rw [State.emit_affordable issues executes, hole]

end

section
variable (own : x.imm.toNat % 16 = s.cur.stage)
include own

/-- `emit.rec` below the depth limit sends its records where there is room for all, and answers 2 where there is not. -/
theorem State.emitRec_sends (dG : x.d = .g r)
    (filled : ∀ j ∈ threads (s.cur.exec x.pred), s.holes (s.emitOff x + j * dst.recSize) dst.recSize [] = [])
    (shallow : ((threads (s.cur.exec x.pred)).any fun j => s.cur.depths.getD j 0 == dst.depth) = false)
    (room : dst.queue.length + count (s.cur.exec x.pred) ≤ dst.cap) :
    ∃ t, exec (.emitRec x) s = .next t ∧ s.Emitted t x r 0 ∧ t.launches =
      (s.pushAll s.cur.launch (x.imm.toNat % 16) (s.records x dst.recSize fun j => s.cur.depths.getD j 0 + 1)).launches := by
  obtain ⟨cores, home, homeLines, mem, stks, free, released, bytes⟩ := s.releaseUnbound_frame
  obtain ⟨t, ht, went, launches⟩ := State.emit_retires (e := s.cur.exec x.pred) (len := lenOf x)
    (w := s.releaseUnbound.pushAll s.cur.launch (x.imm.toNat % 16) (s.records x dst.recSize fun j => s.cur.depths.getD j 0 + 1))
    issues (by rw [released]; rfl) (by rw [released]; rfl) (by rw [released]; rfl)
    (by rw [State.pushAll_counts, released]; rfl) (bytes.upTo rfl rfl (fun _ _ => rfl) rfl) r 0
  refine ⟨t, congrArg Host.Outcome.next ?_, went, by rw [launches, released]; rfl⟩
  rw [State.emitChecks_passed (own := true) issues executes launch at_ dest notGrid inside (by simp [own])]
  dsimp only
  have fits : ¬dst.roomFor < count (s.cur.exec x.pred) := by rw [Stage.roomFor]; omega
  have shallow' : ((threads (s.cur.exec x.pred)).any fun t => s.cur.depthOf t == dst.depth) = false := shallow
  rw [shallow', if_neg (by decide), if_neg fits, State.recordHole_none filled]
  dsimp only
  rw [State.foldl_pushRecord, State.writeD_g dG, ← ht, released]
  rfl

theorem State.emitRec_full (dG : x.d = .g r)
    (shallow : ((threads (s.cur.exec x.pred)).any fun j => s.cur.depths.getD j 0 == dst.depth) = false)
    (full : dst.cap < dst.queue.length + count (s.cur.exec x.pred)) :
    ∃ t, exec (.emitRec x) s = .next t ∧ s.Emitted t x r 2 ∧ t.launches = s.launches := by
  obtain ⟨t, ht, went, launches⟩ := State.emit_retires (e := s.cur.exec x.pred) (len := lenOf x) (w := s) issues rfl rfl rfl rfl
    (Quiet.refl s).bytesBut r 2
  refine ⟨t, congrArg Host.Outcome.next ?_, went, launches⟩
  rw [State.emitChecks_passed (own := true) issues executes launch at_ dest notGrid inside (by simp [own])]
  dsimp only
  have lacks : dst.roomFor < count (s.cur.exec x.pred) := by
    have some_ : 0 < count (s.cur.exec x.pred) := count_pos executes
    rw [Stage.roomFor]
    omega
  have shallow' : ((threads (s.cur.exec x.pred)).any fun t => s.cur.depthOf t == dst.depth) = false := shallow
  rw [shallow', if_neg (by decide), if_pos lacks, State.writeD_g dG, ← ht]

/-- `emit.rec` at the depth limit answers 1 and counts it, or is refused under the strict flag. -/
theorem State.emitRec_deep (dG : x.d = .g r)
    (deep : ((threads (s.cur.exec x.pred)).any fun j => s.cur.depths.getD j 0 == dst.depth) = true) (lax : l.p.strict = false) :
    ∃ t, exec (.emitRec x) s = .next t ∧ s.Emitted t x r 1 ∧
      t.launch? s.cur.launch = some { l with depthX := min (l.depthX + 1) (2 ^ 32 - 1) } := by
  obtain ⟨t, ht, went, launches⟩ := State.emit_retires (e := s.cur.exec x.pred) (len := lenOf x)
    (w := s.updLaunch s.cur.launch fun l => { l with depthX := min (l.depthX + 1) (2 ^ 32 - 1) }) issues rfl rfl rfl
    (s.counts_updLaunch _ fun _ => ⟨rfl, rfl⟩) ((Quiet.refl s).bytesBut.upTo rfl rfl (fun _ _ => rfl) rfl) r 1
  refine ⟨t, congrArg Host.Outcome.next ?_, went, ?_⟩
  · rw [State.emitChecks_passed (own := true) issues executes launch at_ dest notGrid inside (by simp [own])]
    dsimp only
    have deep' : ((threads (s.cur.exec x.pred)).any fun t => s.cur.depthOf t == dst.depth) = true := deep
    rw [deep', if_pos rfl, launch]
    dsimp only
    rw [lax, if_neg (by decide), State.writeD_g dG, ← ht]
  · rw [State.launch?_congr launches, State.launch?_updLaunch, launch]
    rfl

theorem State.emitRec_strict
    (deep : ((threads (s.cur.exec x.pred)).any fun j => s.cur.depths.getD j 0 == dst.depth) = true) (strict : l.p.strict = true) :
    exec (.emitRec x) s = .next (s.refuse x.pred 0x0C) := by
  refine congrArg Host.Outcome.next ?_
  rw [State.emitChecks_passed (own := true) issues executes launch at_ dest notGrid inside (by simp [own])]
  dsimp only
  have deep' : ((threads (s.cur.exec x.pred)).any fun t => s.cur.depthOf t == dst.depth) = true := deep
  rw [deep', if_pos rfl, launch]
  dsimp only
  rw [strict, if_pos rfl]

end

end

/-- Settles O31: the checks of R380, the sending of the records, and the end of the instruction. -/
theorem emission : Obligations.Emission := by
  unfold Obligations.Emission
  intro s x r l mine dst e st off cost dG launch at_ dest executes named inside fits recs sent went
  have pays : s.funds cost = true → s.affordable e ≠ 0 := fun funds => by
    rw [State.affordable_of (Nat.max_eq_right (count_pos executes) ▸ funds)]
    exact executes
  refine ⟨fun trappable funds no => ?_, fun trappable funds no => ?_, fun issues out notGrid fit => ⟨fun room => ?_, fun full => ?_⟩,
    fun issues out notGrid inside j a hole => State.emit_stalls issues executes launch at_ dest notGrid inside out hole,
    fun issues own notGrid fit => ⟨fun shallow room => ?_, fun shallow full => ?_, fun deep lax => ?_, fun deep strict hand => ?_⟩⟩
  · refine State.refuse_refuses trappable (congrArg Host.Outcome.next ?_)
    refine State.emitChecks_refused named executes (pays funds) launch at_ dest ?_
    rcases no with no | no
    · exact Bool.or_eq_true_iff.2 (.inl (by simpa using no))
    · exact Bool.or_eq_true_iff.2 (.inr (by simpa using no))
  · refine State.refuse_refuses trappable (congrArg Host.Outcome.next ?_)
    refine State.emitChecks_refused named executes (pays funds) launch at_ dest ?_
    rcases no with no | no
    · exact Bool.or_eq_true_iff.2 (.inl (by simpa using no))
    · exact Bool.or_eq_true_iff.2 (.inr (by simpa using no))
  · obtain ⟨inside, filled⟩ := fit
    obtain ⟨t, run, emitted, launches⟩ := State.emit_sends issues executes launch at_ dest notGrid inside out dG filled room
    exact ⟨t, run, emitted, State.pushAll_sent launch dest launches⟩
  · obtain ⟨inside, filled⟩ := fit
    obtain ⟨u, bytes, frame, run⟩ := State.emit_waits issues executes launch at_ dest notGrid inside out filled full
    have rtid : (BitVec.ofNat 5 (lowest e)).toNat = lowest e := (BitVec.toNat_ofNat _ _).trans (Nat.mod_eq_of_lt (lowest_lt e))
    refine ⟨_, run, ?_, bytes.upTo rfl rfl (fun _ _ => rfl) rfl, ?_, rfl, rtid, rfl, ?_⟩
    · rw [frame]
      exact ⟨rfl, rfl, rfl, rfl, rfl, rfl, rfl, rfl, rfl, rfl, rfl⟩
    · rw [frame]; rfl
    · rw [frame]; exact launch
  · obtain ⟨inside, filled⟩ := fit
    obtain ⟨t, run, emitted, launches⟩ :=
      State.emitRec_sends issues executes launch at_ dest notGrid inside own dG filled shallow room
    exact ⟨t, run, emitted, State.pushAll_sent launch dest launches⟩
  · exact State.emitRec_full issues executes launch at_ dest notGrid fit.1 own dG shallow full
  · obtain ⟨t, run, emitted, after⟩ := State.emitRec_deep issues executes launch at_ dest notGrid fit.1 own dG deep lax
    exact ⟨t, _, run, emitted, after, rfl⟩
  · have trappable : s.trappable = true := by simp [State.trappable, hand, State.issues_fresh issues]
    exact State.refuse_refuses trappable (State.emitRec_strict issues executes launch at_ dest notGrid fit.1 own deep strict)

end Sys2Proof.Machine
end

section
/-!
SUPPORT. What a unit writes at the home of its bytes (R225): the bytes written read back, every other byte of a view that no other shares
reads as before, and translation goes by what it went by.
-/

namespace Sys2Proof.Machine

open Sys2Proof

/-! ### The HBM units in cache mode (R41) -/

/-- Every stack has the same units in cache mode. -/
def SameCaches (s t : State) : Prop := ∀ k, (t.stack k).hbmCache = (s.stack k).hbmCache

theorem SameCaches.refl (s : State) : SameCaches s s := fun _ => rfl

theorem SameCaches.of_eq {s t : State} (h : t.stks = s.stks) : SameCaches s t := fun k => by rw [State.stack, h]; rfl

theorem SameCaches.trans {s t u : State} (h : SameCaches s t) (h' : SameCaches t u) : SameCaches s u := fun k => (h' k).trans (h k)

/-- The later change first, where the earlier one has no name. -/
theorem SameCaches.after {s t u : State} (h' : SameCaches t u) (h : SameCaches s t) : SameCaches s u := h.trans h'

theorem SameCaches.foldl {α : Type} {f : State → α → State} (hf : ∀ s a, SameCaches s (f s a)) (l : List α) (s : State) :
    SameCaches s (l.foldl f s) := by
  induction l generalizing s with
  | nil => exact .refl s
  | cons a l ih => exact (hf s a).trans (ih _)

theorem State.setStack_sameCaches {s : State} {n : Nat} {k : Stack} (h : k.hbmCache = (s.stack n).hbmCache) :
    SameCaches s (s.setStack n k) := by
  intro m
  rw [State.stack_setStack]
  split
  · next e => rw [e]; exact h
  · rfl

theorem State.putReq_sameCaches (s : State) (c : Nat) (r : MemReq) : SameCaches s (s.putReq c r) := State.setStack_sameCaches rfl

theorem State.sendReqs_sameCaches (s : State) (a : Asker) (w : Bool) (l : List Sector) : SameCaches s (s.sendReqs a w l) :=
  .foldl (fun s _ => s.putReq_sameCaches _ _) _ s

theorem Stack.tierAccess_hbmCache (k : Stack) (p : Nat) (w : Bool) : (k.tierAccess p w).1.hbmCache = k.hbmCache := by
  unfold Stack.tierAccess
  dsimp only
  split
  · rfl
  · split
    · rfl
    · split <;> rfl

theorem State.throughTier_sameCaches (s : State) (a : Asker) (w : Bool) (p : Nat) : SameCaches s (s.throughTier a w p).1 := by
  have two : ∀ (u : State) (b : Asker) (x y : List Sector), SameCaches u ((u.sendReqs b false x).sendReqs b true y) :=
    fun u b x y => (u.sendReqs_sameCaches b false x).trans (State.sendReqs_sameCaches _ _ _ _)
  have used : SameCaches s (s.setStack (stackOf p) ((s.stack (stackOf p)).tierAccess p w).1) :=
    State.setStack_sameCaches (Stack.tierAccess_hbmCache _ p w)
  unfold State.throughTier
  dsimp only
  have filled : ∀ (c : Bool) x y, SameCaches s (if c then
      ((s.setStack (stackOf p) ((s.stack (stackOf p)).tierAccess p w).1).sendReqs a false x).sendReqs a true y
      else s.setStack (stackOf p) ((s.stack (stackOf p)).tierAccess p w).1) := fun c x y => by
    split
    · exact used.trans (two _ a x y)
    · exact used
  split
  · exact filled _ _ _
  · exact (filled _ _ _).trans (two _ _ _ _)

theorem State.ask_sameCaches (s : State) (a : Asker) (w : Bool) (l : List Sector) : SameCaches s (s.ask a w l) := by
  refine .after (State.sendReqs_sameCaches _ _ _ _) ?_
  have run : ∀ (far : List Sector) (acc : State × List Sector), SameCaches acc.1 (far.foldl (fun acc x =>
      ((acc.1.throughTier a w x.key).1, acc.2 ++ [Sector.plain (acc.1.throughTier a w x.key).2,
        Sector.plain ((acc.1.throughTier a w x.key).2 + 32)])) acc).1 := by
    intro far
    induction far with
    | nil => exact fun acc => .refl _
    | cons x far ih => exact fun acc => (acc.1.throughTier_sameCaches a w x.key).trans (ih _)
  exact run _ (s, [])

theorem State.askBack_sameCaches (s : State) (l : List Nat) : SameCaches s (s.askBack l) := by
  unfold State.askBack
  split
  · exact .refl s
  · exact s.ask_sameCaches _ _ _

theorem State.dram_sameCaches (s : State) (p : Nat) (b : Byte) : SameCaches s (s.dram p b) := by
  unfold State.dram
  dsimp only
  split
  · split
    · exact .refl s
    · exact State.setStack_sameCaches rfl
  · exact .of_eq rfl

theorem State.leaveHome_sameCaches (s : State) (l : CLine) : SameCaches s (s.leaveHome l) := by
  refine .after (State.askBack_sameCaches _ _) (.after (.foldl (fun s e => s.dram_sameCaches _ _) _ _) ?_)
  exact .of_eq rfl

theorem State.useHome_sameCaches (s : State) (l : CLine) : SameCaches s (s.useHome l) := by
  unfold State.useHome
  dsimp only
  split
  · exact .of_eq rfl
  · exact .after (State.leaveHome_sameCaches _ _) (.of_eq rfl)

/-! ### Bytes written at the home -/

/-- Bytes from an address on, dirty in the die buffer. -/
def State.putHomes (s : State) (m : Map) (va : Nat) (bs : List Byte) : State :=
  bs.zipIdx.foldl (fun s e => s.setHome m.space (m.phys (va + e.2)) e.1) s

theorem State.mapWrite_putHomes (s : State) {m : Map} (va : Nat) (bs : List Byte) (device : m.space < 3) :
    s.mapWrite m va bs = (s.putHomes m va bs).useLines 0 0 m va bs.length 1 := by
  unfold State.mapWrite State.putHomes
  have plain : ¬m.space = 3 := by omega
  simp only [if_neg plain]

theorem State.putHomes_frame (s : State) (m : Map) (va : Nat) (bs : List Byte) :
    s.putHomes m va bs = { s with home := (s.putHomes m va bs).home } := by
  unfold State.putHomes
  generalize bs.zipIdx = l
  induction l generalizing s with
  | nil => rfl
  | cons e l ih =>
    rw [List.foldl_cons, ih]
    rfl

/-- A byte of a die buffer after the writes: as before, or dirty with the byte of the list that lies there. -/
theorem State.putHomes_home (s : State) (m : Map) (va : Nat) (bs : List Byte) (k : Nat) :
    ((∀ i, i < bs.length → byteKey m.space (m.phys (va + i)) ≠ k) ∧ Tab.get? k (s.putHomes m va bs).home = Tab.get? k s.home) ∨
      ∃ i, i < bs.length ∧ byteKey m.space (m.phys (va + i)) = k ∧
        Tab.get? k (s.putHomes m va bs).home = some ⟨bs.getD i 0, true⟩ := by
  have last := foldl_last (f := fun (s : State) (e : Byte × Nat) => s.setHome m.space (m.phys (va + e.2)) e.1)
    (get := fun s => Tab.get? k s.home) (val := fun e => some (⟨e.1, true⟩ : CByte)) (inv := fun _ => True)
    (hit := fun e => byteKey m.space (m.phys (va + e.2)) = k) (fun _ _ _ => trivial)
    (fun _ _ _ ne => (Tab.get?_set _ _ _ _).trans (if_neg (Ne.symm ne)))
    (fun _ _ _ eq => (Tab.get?_set _ _ _ _).trans (if_pos eq.symm)) bs.zipIdx (s := s) trivial
  rcases last with ⟨none_, same⟩ | ⟨⟨b, i⟩, he, eq, got⟩
  · refine .inl ⟨fun i hi => none_ (bs[i], i) (List.mk_mem_zipIdx_iff_getElem?.2 (List.getElem?_eq_getElem hi)), same⟩
  · have at_ := List.mk_mem_zipIdx_iff_getElem?.1 he
    obtain ⟨hi, rfl⟩ := List.getElem?_eq_some_iff.1 at_
    refine .inr ⟨i, hi, eq, got.trans ?_⟩
    rw [List.getD_eq_getElem _ _ hi]

section
variable {s : State} {m : Map} {va : Nat} {bs : List Byte}

/-- A byte of a view that no other shares, where nothing is written, reads as before. -/
theorem State.putHomes_other {x a : Nat} (ha : a < 2 ^ 48) (off : ∀ i, i < bs.length → m.phys (va + i) ≠ a) (one : s.oneHome x a) :
    (s.putHomes m va bs).oneHome x a ∧ (s.putHomes m va bs).homeByte x a = s.homeByte x a := by
  have same : ∀ y, Tab.get? (byteKey y a) (s.putHomes m va bs).home = Tab.get? (byteKey y a) s.home := by
    intro y
    rcases s.putHomes_home m va bs (byteKey y a) with ⟨-, same⟩ | ⟨i, hi, eq, -⟩
    · exact same
    · exact absurd (byteKey_inj (Map.phys_lt _ _) ha eq).2 (off i hi)
  obtain ⟨open_, alone, clean⟩ := one
  have mem : (s.putHomes m va bs).mem = s.mem := by rw [State.putHomes_frame]
  refine ⟨⟨?_, fun y hy ne => (same y).trans (alone y hy ne), fun c hc hd => ?_⟩, ?_⟩
  · rw [State.putHomes_frame]; exact open_
  · rw [mem]; exact clean c ((same x).symm.trans hc) hd
  · rw [State.homeByte, State.homeByte, same, mem]

/-- A byte written where no two bytes of the list meet, in a view that no other shares, reads as it was written. -/
theorem State.putHomes_byte {i : Nat} (hi : i < bs.length)
    (inj : ∀ i j, i < bs.length → j < bs.length → m.phys (va + i) = m.phys (va + j) → i = j)
    (one : s.oneHome m.space (m.phys (va + i))) :
    (s.putHomes m va bs).oneHome m.space (m.phys (va + i)) ∧
      (s.putHomes m va bs).homeByte m.space (m.phys (va + i)) = bs.getD i 0 := by
  obtain ⟨open_, alone, clean⟩ := one
  have got : Tab.get? (byteKey m.space (m.phys (va + i))) (s.putHomes m va bs).home = some ⟨bs.getD i 0, true⟩ := by
    rcases s.putHomes_home m va bs (byteKey m.space (m.phys (va + i))) with ⟨none_, -⟩ | ⟨j, hj, eq, got⟩
    · exact absurd rfl (none_ i hi)
    · rw [got, inj j i hj hi (byteKey_inj (Map.phys_lt _ _) (Map.phys_lt _ _) eq).2]
  refine ⟨⟨?_, fun y hy ne => ?_, fun c hc hd => ?_⟩, State.homeByte_some got⟩
  · rw [State.putHomes_frame]; exact open_
  · rcases s.putHomes_home m va bs (byteKey y (m.phys (va + i))) with ⟨-, same⟩ | ⟨j, -, eq, -⟩
    · exact same.trans (alone y hy ne)
    · exact absurd (byteKey_inj (Map.phys_lt _ _) (Map.phys_lt _ _) eq).1.symm ne
  · rw [got] at hc
    rw [← Option.some.inj hc] at hd
    exact absurd hd (by simp)

end

/-- The lines of a write at the home take their place in the die buffer. -/
theorem State.useLines_leaves (s : State) (m : Map) (va n : Nat) : s.Leaves (s.useLines 0 0 m va n 1) := by
  unfold State.useLines
  split
  · exact .refl s
  · exact .foldl State.useHome_leaves _ _

theorem State.useLines_sameCaches (s : State) (m : Map) (va n : Nat) : SameCaches s (s.useLines 0 0 m va n 1) := by
  unfold State.useLines
  split
  · exact .refl s
  · exact .foldl State.useHome_sameCaches _ _

/-! ### A unit's write to device memory -/

/-- The write of a unit changes the memory system alone. -/
structure State.UnitWrites (s t : State) : Prop where
  eq : t = { s with
    cores := t.cores, home := t.home, homeLines := t.homeLines, mem := t.mem, stks := t.stks, free := t.free
    host := t.host, poison := t.poison, fabric := t.fabric }

theorem State.UnitWrites.trans {s t u : State} (h : s.UnitWrites t) (h' : t.UnitWrites u) : s.UnitWrites u := by
  refine ⟨?_⟩
  conv_lhs => rw [h'.eq, h.eq]

theorem Moves.unitWrites {s t : State} (h : Moves s t) : s.UnitWrites t := ⟨by rw [h.eq]⟩

theorem State.mapWrite_unitWrites (s : State) (m : Map) (va : Nat) (bs : List Byte) : s.UnitWrites (s.mapWrite m va bs) := by
  refine .trans ?_ (State.useLines_leaves _ _ _ _).moves.unitWrites
  generalize bs.zipIdx = l
  induction l generalizing s with
  | nil => exact ⟨rfl⟩
  | cons e l ih =>
    rw [List.foldl_cons]
    refine .trans ?_ (ih _)
    split <;> exact ⟨rfl⟩

theorem State.clearPoison_unitWrites (s : State) (l : List Nat) : s.UnitWrites (s.clearPoison l) := by
  unfold State.clearPoison
  split <;> exact ⟨rfl⟩

theorem State.unitWrite_unitWrites (s : State) (part va : Nat) (bs : List Byte) : s.UnitWrites (s.unitWrite part va bs) := by
  unfold State.unitWrite
  split
  · exact ⟨rfl⟩
  · split
    · exact ⟨by rw [State.unitRequest_eq]⟩
    · exact (s.mapWrite_unitWrites _ _ _).trans (State.clearPoison_unitWrites _ _)

/-- What a unit's write of bytes to device memory does: bytes read back, other bytes of a view that no other shares read as before, and
what translation goes by is as before but for the bytes written. -/
structure State.Writes (s t : State) (m : Map) (va : Nat) (bs : List Byte) : Prop where
  wf : s.mem.wf = true → t.mem.wf = true
  byte : s.mem.wf = true → (∀ i j, i < bs.length → j < bs.length → m.phys (va + i) = m.phys (va + j) → i = j) →
    ∀ i, i < bs.length → s.oneHome m.space (m.phys (va + i)) → t.homeByte m.space (m.phys (va + i)) = bs.getD i 0 ∧
      t.oneHome m.space (m.phys (va + i))
  other : s.mem.wf = true → ∀ x a, x < 3 → a < 2 ^ 48 → (∀ i, i < bs.length → m.phys (va + i) ≠ a) → s.oneHome x a →
    t.homeByte x a = s.homeByte x a ∧ t.oneHome x a
  devid : t.fabric.devid = s.fabric.devid
  caches : SameCaches s t
  poison : ∀ a ∈ t.poison, a ∈ s.poison

theorem State.clearPoison_poison (s : State) (l : List Nat) : ∀ a ∈ (s.clearPoison l).poison, a ∈ s.poison := by
  unfold State.clearPoison
  split
  · exact fun _ h => h
  · exact fun _ h => (List.mem_filter.1 h).1

theorem State.clearPoison_frame (s : State) (l : List Nat) : s.clearPoison l = { s with poison := (s.clearPoison l).poison } := by
  unfold State.clearPoison
  split <;> rfl

theorem State.unitWrite_writes {s : State} {part va : Nat} {bs : List Byte} {m : Map} (mapped : s.unitMap part va bs.length true = .ok m)
    (device : m.space < 3) : s.Writes (s.unitWrite part va bs) m va bs := by
  have put : s.unitWrite part va bs = ((s.putHomes m va bs).useLines 0 0 m va bs.length 1).clearPoison
      (written bs.length [⟨0, BitVec.ofNat 64 va, m⟩]) := by
    unfold State.unitWrite
    rw [mapped]
    dsimp only
    rw [if_neg (by omega), State.mapWrite_putHomes s va bs device]
  obtain ⟨w, hw⟩ : ∃ w, w = (s.putHomes m va bs).useLines 0 0 m va bs.length 1 := ⟨_, rfl⟩
  have leaves : (s.putHomes m va bs).Leaves w := hw ▸ State.useLines_leaves _ _ _ _
  have caches : SameCaches (s.putHomes m va bs) w := hw ▸ State.useLines_sameCaches _ _ _ _
  have frame := s.putHomes_frame m va bs
  have mem : (s.putHomes m va bs).mem = s.mem := by rw [frame]
  have wPoison : w.poison = s.poison := by rw [leaves.moves.eq, frame]
  rw [put, ← hw, State.clearPoison_frame]
  refine ⟨fun wf => ?_, fun wf inj i hi one => ?_, fun wf x a hx ha off one => ?_, ?_, fun k => ?_, fun a h => ?_⟩
  · exact leaves.wf (mem ▸ wf)
  · obtain ⟨one', byte⟩ := State.putHomes_byte hi inj one
    obtain ⟨one'', same⟩ := leaves.byte (mem ▸ wf) _ _ device (Map.phys_lt _ _) one'
    exact ⟨same.trans byte, one''⟩
  · obtain ⟨one', byte⟩ := State.putHomes_other ha off one
    obtain ⟨one'', same⟩ := leaves.byte (mem ▸ wf) _ _ hx ha one'
    exact ⟨same.trans byte, one''⟩
  · change w.fabric.devid = _
    rw [leaves.moves.eq, frame]
  · exact (caches k).trans (by rw [frame]; rfl)
  · exact wPoison ▸ w.clearPoison_poison _ a h

end Sys2Proof.Machine
end

section
/-!
The life of a launch (R144, R154, R162, R163, R439).
-/

namespace Sys2Proof.Machine

open Sys2Proof

/-! ### The deadline (R154) -/

/-- A launch once its deadline has passed: the marks that count at a miss void it. -/
def Launch.past (l : Launch) (s : State) : Launch := { l with deadlinePassed := true, voided := l.voided || s.missed l }

/-- A reserved launch is past a deadline that has not been counted. -/
def Launch.misses (l : Launch) (now : Nat) : Prop :=
  l.reserves = true ∧ l.deadlinePassed = false ∧ l.p.cls = 0 ∧ ∃ d, l.deadline = some d ∧ d.toNat < now

section
variable {s : State} {seq : Nat} {l : Launch} (found : s.launch? seq = some l)
include found

theorem State.passDeadline_not (no : ¬l.misses s.clock.time.toNat) : s.passDeadline seq = s := by
  unfold State.passDeadline
  rw [found]
  dsimp only
  cases hd : l.deadline with
  | none => rfl
  | some d =>
    refine if_pos ?_
    by_contra due
    simp only [Bool.or_eq_true, Bool.not_eq_true', not_or, Bool.not_eq_false, Bool.not_eq_true, decide_eq_true_eq, not_le] at due
    obtain ⟨⟨reserves, fresh⟩, late⟩ := due
    refine no ⟨reserves, fresh, ?_, d, hd, late⟩
    exact of_decide_eq_true (Bool.and_eq_true_iff.1 reserves).1

theorem State.void_launch? (cls : l.p.cls = 0) : (s.void seq).launch? seq = some { l with voided := true } := by
  unfold State.void
  rw [found]
  dsimp only
  cases hv : l.voided with
  | true =>
    rw [if_neg (by simp)]
    rw [found, ← hv]
  | false =>
    rw [if_pos (by simp [cls])]
    rw [State.launch?_voidMark, if_pos rfl, found]
    rfl

theorem State.passDeadline_launch? (miss : l.misses s.clock.time.toNat) :
    (s.passDeadline seq).launch? seq = some (l.past s) := by
  obtain ⟨reserves, fresh, cls, d, hd, late⟩ := miss
  unfold State.passDeadline
  rw [found]
  dsimp only
  rw [hd]
  dsimp only
  rw [if_neg (by simpa [reserves, fresh] using late), State.launch?_updLaunch]
  cases hm : s.missed l with
  | true =>
    rw [if_pos rfl, State.void_launch? found cls]
    simp [Launch.past, hm]
  | false =>
    rw [if_neg (by simp), found]
    simp [Launch.past, hm]

end

theorem State.void_frame (s : State) (seq : Nat) : ∃ launches reports,
    s.void seq = { s with launches := launches, host := { s.host with reports := reports } } := by
  rcases s.void_cases seq with h | h <;> rw [h] <;> exact ⟨_, _, rfl⟩

/-- The passing of a deadline changes launches and reports alone. -/
theorem State.passDeadline_frame (s : State) (seq : Nat) : ∃ launches reports,
    s.passDeadline seq = { s with launches := launches, host := { s.host with reports := reports } } := by
  unfold State.passDeadline
  split
  · exact ⟨_, _, rfl⟩
  · split
    · exact ⟨_, _, rfl⟩
    · split
      · exact ⟨_, _, rfl⟩
      · dsimp only
        split
        · obtain ⟨launches, reports, h⟩ := s.void_frame seq
          rw [h]
          exact ⟨_, _, rfl⟩
        · exact ⟨_, _, rfl⟩

/-! ### What remains of a launch (R162) -/

section
variable {s : State} {seq : Nat} {l : Launch}

theorem State.groupsRemain_iff (name : l.seq = seq) : s.groupsRemain l = true ↔
    (l.ended = false ∧ l.nextGix < l.p.groups) ∨ ∃ g ∈ s.groups ++ s.saved, g.launch = seq := by
  simp only [State.groupsRemain, Bool.or_eq_true, Bool.and_eq_true, Bool.not_eq_true', decide_eq_true_eq, List.any_eq_true,
    beq_iff_eq, name]

theorem State.workRemains_iff : (s.workRemains seq || (l.recordsRemain && !l.ended)) = true ↔
    (∃ e ∈ s.eng.cmds, e.2.launch = seq) ∨ (∃ d ∈ s.eng.draws, d.launch = seq) ∨ (∃ e ∈ s.eng.rays, e.2.launch = seq) ∨
      (∃ e ∈ s.eng.records, e.2.launch = seq) ∨ ((∃ e ∈ l.stages, e.2.queue ≠ []) ∧ l.ended = false) := by
  simp only [State.workRemains, Launch.recordsRemain, Bool.or_eq_true, Bool.and_eq_true, Bool.not_eq_true', List.any_eq_true,
    beq_iff_eq, List.isEmpty_eq_false_iff, or_assoc, ne_eq]

end

/-! ### The completion token (R162) -/

/-- The status is the first that applies. -/
theorem Launch.status_of {l : Launch} {now : Nat} {A D E : Prop} [Decidable A] [Decidable D] [Decidable E]
    (ended : l.ended = true ∧ l.noCap = false ↔ A) (voided : l.voided = true ↔ D)
    (late : (l.p.cls = 0 ∧ ∃ d, l.deadline = some d ∧ d.toNat < now) ↔ E) : l.status now =
      if A then 5 else if l.noCap = true then 4 else if l.overrun = true then 2 else if D then 3 else if E then 1 else 0 := by
  unfold Launch.status
  refine if_congr ?_ rfl (if_congr Iff.rfl rfl (if_congr Iff.rfl rfl (if_congr voided rfl (if_congr ?_ rfl rfl))))
  · rw [← ended]
    simp
  · rw [← late]
    cases l.deadline <;> simp

/-- A state is as it was for what translation goes by, but for the bytes of a set. -/
theorem State.TablesAs.of_frame {s : State} {launches : Tab Launch} {reports : List Report} {P : Nat → Prop} :
    s.TablesAs { s with launches := launches, host := { s.host with reports := reports } } P :=
  ⟨rfl, rfl, fun _ => rfl, fun _ h => h, fun _ _ _ _ _ _ => rfl⟩

theorem State.UnitWrites.settled {s t : State} (h : s.UnitWrites t) (none_ : s.eng.waiters = []) : t.settleWaiters = t := by
  rw [State.settleWaiters, if_pos]
  rw [h.eq]
  simp [none_]

theorem State.releaseLaunch_unitWrites (s : State) (l : Launch) : s.UnitWrites (s.releaseLaunch l) :=
  (Moves.foldl (fun _ _ => State.writeBack_moves) _ s).unitWrites

/-- The token is written: its status first, DONE last. -/
def State.token (s : State) (l : Launch) (status : Nat) : State :=
  ((s.releaseLaunch l).unitWrite l.part (l.p.token.toNat + 8)
    (l.tokenBytes status (s.releaseLaunch l).clock.time.toNat)).unitWrite l.part l.p.token.toNat (leBytes 8 1)

theorem State.token_unitWrites (s : State) (l : Launch) (status : Nat) : s.UnitWrites (s.token l status) :=
  (s.releaseLaunch_unitWrites l).trans ((State.unitWrite_unitWrites _ _ _ _).trans (State.unitWrite_unitWrites _ _ _ _))

theorem State.complete_eq {s : State} (none_ : s.eng.waiters = []) (l : Launch) (status : Nat) :
    s.complete l status = (s.token l status).updLaunch l.seq fun l => { l with state := .done } :=
  congrArg (fun u => State.updLaunch u l.seq fun l => { l with state := .done })
    ((s.token_unitWrites l status).settled none_)

/-- The bytes of the token at its home. -/
theorem State.token_bytes {s : State} {l : Launch} {status : Nat} {m : Map} (alone : l.place = []) (device : m.space < 3)
    (wf : s.mem.wf = true) (one : ∀ i, i < 32 → s.oneHome m.space (m.phys (l.p.token.toNat + i)))
    (inj : ∀ i j, i < 32 → j < 32 → m.phys (l.p.token.toNat + i) = m.phys (l.p.token.toNat + j) → i = j)
    (mapped : ∀ u : State, s.TablesAs u (fun b => ∃ i, i < 32 ∧ b = m.phys (l.p.token.toNat + i)) →
      u.unitMap l.part (l.p.token.toNat + 8) 24 true = .ok m ∧ u.unitMap l.part l.p.token.toNat 8 true = .ok m)
    {i : Nat} (hi : i < 32) : (s.token l status).homeByte m.space (m.phys (l.p.token.toNat + i)) =
      (leBytes 8 1 ++ l.tokenBytes status s.clock.time.toNat).getD i 0 := by
  have released : s.releaseLaunch l = s := by rw [State.releaseLaunch, alone]; rfl
  rw [State.token, released]
  obtain ⟨T, hT⟩ : ∃ T, T = l.tokenBytes status s.clock.time.toNat := ⟨_, rfl⟩
  have length : T.length = 24 := by rw [hT]; exact leBytes_length _ _
  rw [← hT]
  obtain ⟨here, -⟩ := mapped s ⟨rfl, rfl, fun _ => rfl, fun _ h => h, fun _ _ _ _ _ _ => rfl⟩
  obtain ⟨w, hw⟩ : ∃ w, w = s.unitWrite l.part (l.p.token.toNat + 8) T := ⟨_, rfl⟩
  rw [← hw]
  have first : s.Writes w m (l.p.token.toNat + 8) T := hw ▸ State.unitWrite_writes (length ▸ here) device
  have frame : s.UnitWrites w := hw ▸ State.unitWrite_unitWrites _ _ _ _
  have tables : s.TablesAs w fun b => ∃ i, i < 32 ∧ b = m.phys (l.p.token.toNat + i) := by
    refine ⟨by rw [frame.eq], first.devid, first.caches, first.poison, fun x a hx ha off one => ?_⟩
    refine (first.other wf x a hx ha (fun j hj e => off ⟨8 + j, by omega, ?_⟩) one).1
    rw [← e, Nat.add_assoc]
  obtain ⟨-, done⟩ := mapped w tables
  have second : w.Writes (w.unitWrite l.part l.p.token.toNat (leBytes 8 1)) m l.p.token.toNat (leBytes 8 1) :=
    State.unitWrite_writes (by rw [leBytes_length]; exact done) device
  have wfW := first.wf wf
  by_cases low : i < 8
  · have kept : w.oneHome m.space (m.phys (l.p.token.toNat + i)) := by
      refine (first.other wf _ _ device (Map.phys_lt _ _) (fun j hj e => ?_) (one i hi)).2
      rw [Nat.add_assoc] at e
      have := inj _ _ (by omega) hi e
      omega
    have byte := (second.byte wfW (fun i j hi hj e => inj i j (by rw [leBytes_length] at hi; omega)
      (by rw [leBytes_length] at hj; omega) e)
      i (by rw [leBytes_length]; exact low) kept).1
    rw [byte, List.getD_append _ _ _ _ (by rw [leBytes_length]; exact low)]
  · obtain ⟨j, rfl⟩ : ∃ j, i = 8 + j := ⟨i - 8, by omega⟩
    have at_ : l.p.token.toNat + (8 + j) = l.p.token.toNat + 8 + j := by omega
    obtain ⟨byte, kept⟩ := first.byte wf (fun i j hi hj e => by
      have := inj (8 + i) (8 + j) (by omega) (by omega) (by rw [← Nat.add_assoc, ← Nat.add_assoc]; exact e)
      omega) j (by omega) (at_ ▸ one _ hi)
    rw [at_, (second.other wfW _ _ device (Map.phys_lt _ _) (fun k hk e => ?_) kept).1, byte,
      List.getD_append_right _ _ _ _ (by rw [leBytes_length]; omega), leBytes_length, Nat.add_sub_cancel_left]
    rw [leBytes_length] at hk
    rw [Nat.add_assoc] at e
    have := inj _ _ (by omega) hi e
    omega

/-- A launch waits for its START no more (R144). -/
def State.starts (s : State) (l : Launch) : Prop :=
  l.state = .held ∧ l.p.start.toNat ≤ s.clock.time.toNat ∧ (s.part l.part).dry = .running ∧ s.arbitrating = true

section
variable {s : State} {seq : Nat} {l : Launch} (found : s.launch? seq = some l)
include found

theorem execLaunchStart_starts (h : s.starts l) :
    exec (.launchStart seq) s = .next (s.updLaunch seq fun l => { l with state := .active }) := by
  obtain ⟨held, due, running, arbitrating⟩ := h
  change execLaunchStart seq s = _
  rw [execLaunchStart, found]
  exact congrArg Host.Outcome.next (if_pos (by simp [held, due, running, arbitrating]))

theorem execLaunchStart_waits (h : ¬s.starts l) : exec (.launchStart seq) s = .next s := by
  change execLaunchStart seq s = _
  rw [execLaunchStart, found]
  refine congrArg Host.Outcome.next (if_neg fun due => h ?_)
  simpa [State.starts, and_assoc] using due

theorem execLaunchEnd_ends (h : l.state = .held ∨ l.state = .active ∨ l.state = .draining) :
    exec (.launchEnd seq) s = .next (s.endLaunch seq) := by
  change execLaunchEnd seq s = _
  rw [execLaunchEnd, found]
  rcases h with h | h | h <;> simp only [h]

theorem execLaunchEnd_over (h : ¬(l.state = .held ∨ l.state = .active ∨ l.state = .draining)) :
    exec (.launchEnd seq) s = .next s := by
  change execLaunchEnd seq s = _
  rw [execLaunchEnd, found]
  simp only [not_or] at h
  obtain ⟨held, active, draining⟩ := h
  cases hs : l.state <;> simp_all

/-- Whether a launch runs or ends (R163). -/
def Launch.runs (l : Launch) : Prop := l.state = .active ∨ l.state = .draining ∨ l.state = .ending

theorem execLaunchCompletion_over (h : ¬l.runs) : exec (.launchCompletion seq) s = .next s := by
  change execLaunchCompletion seq s = _
  rw [execLaunchCompletion, found]
  simp only [Launch.runs, not_or] at h
  obtain ⟨active, draining, ending⟩ := h
  cases hs : l.state <;> simp_all

/-- A launch that runs waits for its groups and for its partition, then drains while work remains, and then completes. -/
theorem execLaunchCompletion_runs (h : l.runs) : ∃ done : State,
    exec (.launchCompletion seq) s = .next (
      if s.groupsRemain l || (s.part l.part).dry != .running then s
      else if s.workRemains seq || (l.recordsRemain && !l.ended) then
        if l.ended then s else s.updLaunch seq fun l => { l with state := .draining }
      else done) ∧
    ∀ y, (s.passDeadline seq).launch? seq = some y →
      done = (s.passDeadline seq).complete y (y.status (s.passDeadline seq).clock.time.toNat) := by
  change ∃ done, execLaunchCompletion seq s = _ ∧ _
  rw [execLaunchCompletion, found]
  rcases h with h | h | h
  all_goals
    simp only [h]
    exact ⟨_, rfl, fun y hy => by rw [hy]⟩

end

/-- The launch that completes: a deadline that it has missed counts first. -/
theorem State.passDeadline_completes {s : State} {seq : Nat} {l : Launch} (found : s.launch? seq = some l) : ∃ y,
    (s.passDeadline seq).launch? seq = some y ∧
      (y = l.past s ∧ l.misses s.clock.time.toNat ∨ y = l ∧ ¬l.misses s.clock.time.toNat) := by
  by_cases miss : l.misses s.clock.time.toNat
  · exact ⟨_, State.passDeadline_launch? found miss, .inl ⟨rfl, miss⟩⟩
  · exact ⟨l, by rw [State.passDeadline_not found miss, found], .inr ⟨rfl, miss⟩⟩

/-- Nothing happens to a launch that there is not. -/
theorem exec_launchAbsent {s : State} {seq : Nat} (none_ : s.launch? seq = none) : ∀ i ∈ [Instr.launchStart seq, .deadlinePass seq,
    .launchEnd seq, .launchCompletion seq, .groupDispatch seq], exec i s = .next s := by
  intro i hi
  simp only [List.mem_cons, List.not_mem_nil, or_false] at hi
  rcases hi with rfl | rfl | rfl | rfl | rfl
  · change execLaunchStart seq s = _
    rw [execLaunchStart, none_]
  · change execDeadlinePass seq s = _
    rw [execDeadlinePass, State.passDeadline, none_]
  · change execLaunchEnd seq s = _
    rw [execLaunchEnd, none_]
  · change execLaunchCompletion seq s = _
    rw [execLaunchCompletion, none_]
  · change execGroupDispatch seq s = _
    rw [execGroupDispatch, none_]

section
variable {s : State} {seq : Nat} {l y : Launch} (name : l.seq = seq) (none_ : s.eng.waiters = [])
  (which : y = l.past s ∨ y = l)
include none_ name which

/-- A launch that completes is marked done, and leaves the issuing group as it is. -/
theorem State.complete_done (status : Nat) (last : (s.passDeadline seq).launch? seq = some y) :
    ((s.passDeadline seq).complete y status).launch? seq = some { y with state := .done } ∧
      ((s.passDeadline seq).complete y status).cur = s.cur := by
  obtain ⟨launches, reports, frame⟩ := s.passDeadline_frame seq
  have seqY : y.seq = seq := by rcases which with rfl | rfl <;> exact name
  have writes := (s.passDeadline seq).token_unitWrites y status
  rw [State.complete_eq (by rw [frame]; exact none_)]
  constructor
  · refine (congrArg (State.launch? _) seqY.symm).trans ?_
    rw [State.launch?_updLaunch, State.launch?_congr (s := s.passDeadline seq) (by rw [writes.eq])]
    exact congrArg (Option.map _) ((congrArg (State.launch? _) seqY).trans last)
  · change (State.token _ _ _).cur = s.cur
    rw [writes.eq, frame]

/-- The bytes of the token of a launch that completes on no lane. -/
theorem State.complete_bytes (status : Nat) {m : Map} (alone : l.place = []) (device : m.space < 3) (wf : s.mem.wf = true)
    (one : ∀ i, i < 32 → s.oneHome m.space (m.phys (l.p.token.toNat + i)))
    (inj : ∀ i j, i < 32 → j < 32 → m.phys (l.p.token.toNat + i) = m.phys (l.p.token.toNat + j) → i = j)
    (mapped : ∀ u : State, s.TablesAs u (fun b => ∃ i, i < 32 ∧ b = m.phys (l.p.token.toNat + i)) →
      u.unitMap l.part (l.p.token.toNat + 8) 24 true = .ok m ∧ u.unitMap l.part l.p.token.toNat 8 true = .ok m)
    {i : Nat} (hi : i < 32) :
    ((s.passDeadline seq).complete y status).homeByte m.space (m.phys (l.p.token.toNat + i)) =
      (leBytes 8 1 ++ leBytes 24 (status + l.skip * 2 ^ 8 + l.depthX * 2 ^ 32 + s.clock.time.toNat * 2 ^ 64 +
        seq * 2 ^ 128)).getD i 0 := by
  obtain ⟨launches, reports, frame⟩ := s.passDeadline_frame seq
  have time : (s.passDeadline seq).clock.time.toNat = s.clock.time.toNat := by rw [frame]
  obtain ⟨p, part, place, skip, depthX, seqY⟩ : y.p = l.p ∧ y.part = l.part ∧ y.place = l.place ∧ y.skip = l.skip ∧
      y.depthX = l.depthX ∧ y.seq = seq := by
    rcases which with rfl | rfl <;> exact ⟨rfl, rfl, rfl, rfl, rfl, name⟩
  have bytes := State.token_bytes (s := s.passDeadline seq) (l := y) (status := status) (m := m) (place.trans alone) device
    (by rw [frame]; exact wf) (by rw [frame, p]; exact one) (by rw [p]; exact inj) (fun u tables => by
      rw [p, part]
      refine mapped u ?_
      rw [frame, p] at tables
      exact tables) hi
  rw [p, time, Launch.tokenBytes, skip, depthX, seqY] at bytes
  rw [State.complete_eq (by rw [frame]; exact none_)]
  exact bytes

end

/-- Settles O52: START, the deadline, the end and the completion of a launch. -/
theorem launchLives : Obligations.LaunchLives := by
  unfold Obligations.LaunchLives
  refine fun s seq => ⟨exec_launchAbsent, fun l found name => ?_⟩
  intro now becomes starts late miss
  refine ⟨fun h => ?_, fun h => execLaunchStart_waits found h, fun h => ?_, fun h => ?_, fun h live => ?_,
    fun h => execLaunchEnd_over found h, ?_⟩
  · refine ⟨_, _, execLaunchStart_starts found h, ?_, rfl, rfl, rfl⟩
    rw [State.launch?_updLaunch, found]
    rfl
  · obtain ⟨launches, reports, frame⟩ := s.passDeadline_frame seq
    refine ⟨s.passDeadline seq, l.past s, rfl, State.passDeadline_launch? found h, ?_, ?_, rfl⟩
    · rw [frame]
    · rw [frame]
  · exact congrArg Host.Outcome.next (State.passDeadline_not found h)
  · have ended := s.endLaunch_ended seq
    refine ⟨_, l.ending, execLaunchEnd_ends found h, ?_, ?_, rfl, l.ending_stages,
      fun g hg => ended.groups g hg (ended.live live g hg), ended.saved, ended.teams, ended.mem, ended.cmds, ended.rays⟩
    · rw [ended.launch, found]
      rfl
    · rcases h with h | h | h <;> simp [Launch.ending, h]
  intro runs groups records work status token a open_
  have passes : open_ → l.runs ∧ ¬(s.groupsRemain l || (s.part l.part).dry != .running) = true := by
    rintro ⟨hr, noGroups, dry⟩
    refine ⟨hr, fun gate => ?_⟩
    rcases Bool.or_eq_true_iff.1 gate with some_ | still
    · exact noGroups ((State.groupsRemain_iff name).1 some_)
    · simp [dry] at still
  refine ⟨fun shut => ?_, fun opened remains ended => ?_, fun opened remains goes => ?_,
    fun opened finished none_ => ?_⟩
  · by_cases hr : l.runs
    · obtain ⟨done, run, -⟩ := execLaunchCompletion_runs found hr
      rw [run, if_pos]
      by_contra no
      obtain ⟨noGroups, dry⟩ : s.groupsRemain l = false ∧ (s.part l.part).dry = .running := by simpa using no
      refine shut ⟨hr, fun some_ => ?_, dry⟩
      rw [(State.groupsRemain_iff name).2 some_] at noGroups
      exact absurd noGroups (by decide)
    · exact execLaunchCompletion_over found hr
  · obtain ⟨hr, gate⟩ := passes opened
    obtain ⟨done, run, -⟩ := execLaunchCompletion_runs found hr
    rw [run, if_neg gate, if_pos (State.workRemains_iff.2 remains), if_pos ended]
  · obtain ⟨hr, gate⟩ := passes opened
    obtain ⟨done, run, -⟩ := execLaunchCompletion_runs found hr
    refine ⟨s.updLaunch seq fun l => { l with state := .draining }, { l with state := .draining }, run.trans (by
      rw [if_neg gate, if_pos (State.workRemains_iff.2 remains), if_neg (by simp [goes])]), ?_, rfl, rfl, rfl, rfl⟩
    rw [State.launch?_updLaunch, found]
    rfl
  · obtain ⟨hr, gate⟩ := passes opened
    obtain ⟨done, run, completes⟩ := execLaunchCompletion_runs found hr
    obtain ⟨y, last, which⟩ := State.passDeadline_completes found
    have time : (s.passDeadline seq).clock.time.toNat = now := by
      obtain ⟨launches, reports, frame⟩ := s.passDeadline_frame seq
      rw [frame]
    have either : y = l.past s ∨ y = l := which.imp And.left And.left
    obtain ⟨done_, cur⟩ := State.complete_done name none_ either (y.status now) last
    have first : y.status now = status := by
      have voided : y.voided = true ↔ l.voided = true ∨ (miss ∧ s.missed l = true) := by
        rcases which with ⟨rfl, yes⟩ | ⟨rfl, no⟩
        · simp only [Launch.past, Bool.or_eq_true]
          exact or_congr Iff.rfl ⟨fun h => ⟨yes, h⟩, fun h => h.2⟩
        · exact ⟨.inl, fun h => h.resolve_right fun h => no h.1⟩
      obtain ⟨p, ended, noCap, overrun, deadline⟩ : y.p = l.p ∧ y.ended = l.ended ∧ y.noCap = l.noCap ∧ y.overrun = l.overrun ∧
          y.deadline = l.deadline := by
        rcases either with rfl | rfl <;> exact ⟨rfl, rfl, rfl, rfl, rfl⟩
      rw [Launch.status_of (by rw [ended, noCap]) voided (by rw [p, deadline]), noCap, overrun]
    refine ⟨_, { y with state := .done }, run.trans (by
      rw [if_neg gate, if_neg fun w => finished (State.workRemains_iff.1 w), completes y last, time]), done_, rfl, cur, ?_⟩
    rw [first]
    exact fun m alone device wf one inj mapped i hi => State.complete_bytes name none_ either status alone device wf one inj mapped hi

end Sys2Proof.Machine
end

section
/-!
Starting groups: the residency rules, the members of a dispatch, and the turn of a grid (R142, R145-R147, R183).
-/

namespace Sys2Proof.Machine

open Sys2Proof

/-! ### The placement rule (R146, R147) -/

/-- The lane that the rule picks is one of those it was given, and none of them has fewer residents. -/
theorem State.fewest_least {s : State} {ks : List (Nat × Nat × Nat)} {k : Nat × Nat × Nat} (h : s.fewest ks = some k) :
    k ∈ ks ∧ ∀ j ∈ ks, (s.onLane k).length ≤ (s.onLane j).length := by
  induction ks generalizing k with
  | nil => cases h
  | cons i ks ih =>
    rw [State.fewest] at h
    cases rest : s.fewest ks with
    | none =>
      rw [rest] at h
      cases h
      cases ks with
      | nil => simp
      | cons j ks =>
        exfalso
        rw [State.fewest] at rest
        split at rest
        · cases rest
        · split at rest <;> cases rest
    | some j =>
      rw [rest] at h
      obtain ⟨mem, least⟩ := ih rest
      dsimp only at h
      split at h <;> cases h
      next less => exact ⟨.tail _ mem, fun m hm => (List.mem_cons.1 hm).elim (· ▸ less.le) (least m)⟩
      next no =>
        exact ⟨.head _, fun m hm => (List.mem_cons.1 hm).elim (fun e => by rw [e]) fun hm => (not_lt.1 no).trans (least m hm)⟩

/-- Every slot below the one that a new group gets is taken. -/
theorem State.freeSlot_least {s : State} {k : Nat × Nat × Nat} {i : Nat} (h : i < s.freeSlot k) :
    ∃ g ∈ s.onLane k, g.id.slot = i := by
  unfold State.freeSlot at h
  cases found : (List.range 8).find? fun n => !(s.onLane k).any fun g => g.id.slot == n with
  | none => rw [found] at h; exact absurd h (Nat.not_lt_zero i)
  | some n =>
    rw [found] at h
    obtain ⟨-, -, taken⟩ := List.find?_range_eq_some.1 found
    simpa using taken i h

/-- The lanes of a gang: as many as it has groups, all of one quad (R183). -/
theorem State.quadFor_lanes {s : State} {l : Launch} {base n : Nat} {ks js : List (Nat × Nat × Nat)}
    (h : s.quadFor l base n ks = some js) : js.length = n ∧ ∃ q, ∀ k ∈ js, (k.1, k.2.1, k.2.2 / 16) = q := by
  obtain ⟨q, -, pick⟩ := List.exists_of_findSome?_eq_some h
  dsimp only at pick
  split at pick <;> cases pick
  next enough =>
    refine ⟨by rw [List.length_take]; omega, q, fun k hk => ?_⟩
    have := (List.mem_filter.1 (List.mem_of_mem_take hk)).2
    rw [Bool.and_eq_true, beq_iff_eq] at this
    exact this.1

/-- A group that is no gang's goes to its place in a guaranteed launch's placement, else to the lane with the fewest
residents of those that can take it. -/
theorem State.nextLanes_single {s : State} {l : Launch} {ks : List (Nat × Nat × Nat)} (alone : l.p.gsz = 0)
    (h : s.nextLanes l = some ks) (placed : l.p.cls = 0 → l.nextGix < l.place.length) :
    ∃ k, ks = [k] ∧ s.canTake l (baseOf l.p.regs) 0 k = true ∧ (l.p.cls = 0 → l.place[l.nextGix]? = some k) ∧
      (l.p.cls ≠ 0 → ∀ j ∈ s.lanesFor l (baseOf l.p.regs), s.canTake l (baseOf l.p.regs) 0 j = true →
        (s.onLane k).length ≤ (s.onLane j).length) := by
  unfold State.nextLanes at h
  by_cases cls : l.p.cls = 0
  · rw [if_pos cls, alone] at h
    rw [List.drop_eq_getElem_cons (placed cls)] at h
    simp only [Nat.zero_le, Nat.max_eq_left, Nat.sub_self, List.take_succ_cons, List.take_zero, List.all_cons, List.all_nil,
      Bool.and_true] at h
    split at h <;> cases h
    next can =>
      exact ⟨_, rfl, can, fun _ => List.getElem?_eq_getElem (placed cls), fun no => absurd cls no⟩
  · rw [if_neg cls, if_pos alone, Option.map_eq_some_iff] at h
    obtain ⟨k, few, rfl⟩ := h
    obtain ⟨mem, least⟩ := State.fewest_least few
    exact ⟨k, rfl, (List.mem_filter.1 mem).2, fun yes => absurd yes cls, fun _ j hj can =>
      least j (List.mem_filter.2 ⟨hj, can⟩)⟩

theorem State.nextLanes_gang {s : State} {l : Launch} {ks : List (Nat × Nat × Nat)} (gang : 2 ≤ l.p.gsz) (cls : l.p.cls ≠ 0)
    (h : s.nextLanes l = some ks) : ks.length = l.p.gsz ∧ ∃ q, ∀ k ∈ ks, (k.1, k.2.1, k.2.2 / 16) = q := by
  unfold State.nextLanes at h
  rw [if_neg cls, if_neg (by omega), Nat.max_eq_right (by omega)] at h
  exact State.quadFor_lanes h

/-! ### The team of a new group (R142, R143) -/

/-- The team of a group is its launch's on its lane. -/
theorem State.team?_eq_teamOn (s : State) {g : Group} {k : Nat × Nat × Nat} {seq : Nat} (die : g.id.die = k.1)
    (core : g.id.core = k.2.1) (lane : g.id.lane = k.2.2) (launch : g.launch = seq) : s.team? g = s.teamOn k seq := by
  unfold State.team? State.teamOn
  congr 1
  funext t
  rw [Team.has, die, core, lane, launch]

/-- The team that comes with the first group of a launch on a lane. -/
def State.firstTeam (s : State) (l : Launch) (k : Nat × Nat × Nat) : Team :=
  { die := k.1, core := k.2.1, lane := k.2.2, launch := l.seq, ls := [], size := if l.isPipe then s.pipeAreas l k * l.area else l.area,
    area := l.area, used := [0], maps := [], bars := [], xqFree := l.p.xq, xq := l.p.xq }

/-- A new group has a team, whose local store is empty or that of a team before it. -/
theorem State.takeArea_team {s : State} {l : Launch} {g : Group} {k : Nat × Nat × Nat} (die : g.id.die = k.1)
    (core : g.id.core = k.2.1) (lane : g.id.lane = k.2.2) (launch : g.launch = l.seq) :
    ∃ x, (s.takeArea l k).2.team? g = some x ∧ (x.ls = [] ∨ ∃ y ∈ s.teams, x.ls = y.ls) := by
  unfold State.takeArea
  rw [← s.team?_eq_teamOn die core lane launch]
  cases own : s.team? g with
  | none =>
    refine ⟨s.firstTeam l k, (List.find?_append ..).trans ?_, .inl rfl⟩
    rw [show List.find? _ s.teams = none from own, Option.none_or]
    exact List.find?_cons_of_pos (by simp [Team.has, die, core, lane, launch])
  | some t =>
    refine ⟨_, List.find?_map.trans (congrArg (Option.map _) ((congrArg (List.find? · s.teams) ?_).trans own)),
      .inr ⟨t, List.mem_of_find?_eq_some own, ?_⟩⟩
    · funext u
      simp only [Function.comp_apply]
      split <;> rfl
    · dsimp only
      rw [apply_ite Team.ls, ite_self]

theorem State.takeArea_frame (s : State) (l : Launch) (k : Nat × Nat × Nat) :
    (s.takeArea l k).2 = { s with teams := (s.takeArea l k).2.teams } := by
  unfold State.takeArea
  split <;> rfl

/-! ### The members of a dispatch (R142, R183) -/

/-- A grid group that starts at a name; `e` holds its name and its position among the groups of its dispatch. -/
def State.memberOf (s : State) (l : Launch) (gang : List (Nat × Nat)) (e : Gid × Nat) : Group :=
  { startGroup l e.1 (l.nextGix + e.2) 0 (s.takeArea l (e.1.die, e.1.core, e.1.lane)).1 (stageZero l.p 0) (BitVec.allOnes 32) []
      s.clock.cycle with gangPos := e.2, gang := gang }

/-- One step of a dispatch. -/
def State.placeMember (l : Launch) (gang : List (Nat × Nat)) (s : State) (e : Gid × Nat) : State :=
  ((s.takeArea l (e.1.die, e.1.core, e.1.lane)).2.enter (s.memberOf l gang e)).acquireUnbound e.1.die e.1.core

/-- The names that a dispatch gives. -/
def State.namesOn (s : State) (ks : List (Nat × Nat × Nat)) : List Gid := ks.map fun k => ⟨k.1, k.2.1, k.2.2, s.freeSlot k⟩

/-- The lane numbers and slots by which the members of a gang name each other. -/
def Launch.gangOf (l : Launch) (ids : List Gid) : List (Nat × Nat) :=
  if l.p.gsz = 0 then [] else ids.map fun i => (i.lane % 16, i.slot)

/-- What a dispatch leaves in its launch. -/
def Launch.dispatched (l : Launch) (ks : List (Nat × Nat × Nat)) : Launch :=
  { l with nextGix := l.nextGix + ks.length, place := if l.p.cls = 0 then l.place else (l.place ++ ks).eraseDups }

theorem State.place_eq (s : State) (l : Launch) (ks : List (Nat × Nat × Nat)) :
    s.place l ks = ((s.namesOn ks).zipIdx.foldl (State.placeMember l (l.gangOf (s.namesOn ks))) s).updLaunch l.seq
      fun x => x.dispatched ks := rfl

theorem State.placeMember_frame (l : Launch) (gang : List (Nat × Nat)) (s : State) (e : Gid × Nat) : ∃ teams cores,
    s.placeMember l gang e = { s with teams := teams, cores := cores, rest := s.rest ++ [s.memberOf l gang e] } := by
  unfold State.placeMember
  rw [State.takeArea_frame]
  exact ⟨_, _, rfl⟩

/-- A dispatch appends one group for each name, and changes the teams and the cores. -/
theorem State.placeMembers_frame (l : Launch) (gang : List (Nat × Nat)) (es : List (Gid × Nat)) (s : State) :
    ∃ gs teams cores, es.foldl (State.placeMember l gang) s = { s with teams := teams, cores := cores, rest := s.rest ++ gs } ∧
      List.Forall₂ (fun e g => ∃ u : State, g = u.memberOf l gang e) es gs := by
  induction es generalizing s with
  | nil => exact ⟨[], s.teams, s.cores, by rw [List.append_nil]; rfl, .nil⟩
  | cons e es ih =>
    obtain ⟨teams, cores, first⟩ := State.placeMember_frame l gang s e
    obtain ⟨gs, teams', cores', rest, all⟩ := ih (s.placeMember l gang e)
    refine ⟨_ :: gs, teams', cores', ?_, .cons ⟨s, rfl⟩ all⟩
    rw [List.foldl_cons, rest, first]
    simp only [List.append_assoc, List.singleton_append]

/-! ### The turn of a grid -/

/-- The conditions under which a launch's next groups are placed. -/
def State.gridStarts (s : State) (l : Launch) : Prop :=
  l.state = .active ∧ l.nextGix < l.p.groups ∧ s.arbitrating = true ∧ (s.part l.part).dry = .running ∧ s.gridTurn l = true

section
variable {s : State} {seq : Nat} {l : Launch} (found : s.launch? seq = some l)
include found

theorem execGroupDispatch_waits (h : ¬s.gridStarts l) : exec (.groupDispatch seq) s = .next s := by
  change execGroupDispatch seq s = _
  rw [execGroupDispatch, found]
  dsimp only
  rw [if_neg fun guard => h (by simpa [State.gridStarts, and_assoc] using guard)]

theorem execGroupDispatch_blocked (h : s.nextLanes l = none) : exec (.groupDispatch seq) s = .next s := by
  change execGroupDispatch seq s = _
  rw [execGroupDispatch, found]
  dsimp only
  rw [h]
  split <;> rfl

theorem execGroupDispatch_places (h : s.gridStarts l) {ks : List (Nat × Nat × Nat)} (lanes : s.nextLanes l = some ks) :
    exec (.groupDispatch seq) s = .next (s.place l ks) := by
  change execGroupDispatch seq s = _
  rw [execGroupDispatch, found]
  dsimp only
  rw [if_pos (by simpa [State.gridStarts, and_assoc] using h), lanes]

end

/-! ### What a dispatched group is -/

/-- `g` starts as R142 says, as the n-th of a dispatch on lane k. -/
def Launch.Starts (s : State) (l : Launch) (t : State) (g : Group) (n : Nat) (k : Nat × Nat × Nat) : Prop :=
  g.live = true ∧ g.launch = l.seq ∧ g.part = l.part ∧ g.gix = l.nextGix + n ∧ g.stage = 0 ∧ g.base = 16 * (l.p.regs + 1) ∧
    g.id.die = k.1 ∧ g.id.core = k.2.1 ∧ g.id.lane = k.2.2 ∧ (∀ i, i < g.id.slot → ∃ h ∈ s.onLane k, h.id.slot = i) ∧
    (∀ m, g.gget m = if m = 0 then l.p.args else 0) ∧ (∀ m i, g.vget m i = 0) ∧ (∀ m, m ≠ 0 → g.kget m = 0) ∧
    g.kget 0 = BitVec.allOnes 32 ∧ g.spLive = true ∧ g.other = none ∧ g.spill = [] ∧ g.rejoin = [] ∧
    g.sp.mask = BitVec.allOnes 32 ∧ g.sp.fmt = 0 ∧ g.sp.pc = l.p.entry.setWidth 48 ∧
    g.bgt = (if l.overrun = true then 0 else BitVec.ofNat 64 l.p.bgt) ∧ g.dl = l.deadline.getD (BitVec.allOnes 64) ∧
    g.tiles = [] ∧ g.hand = none ∧ g.trc.on = l.p.trace ∧ g.lsize = l.lmax * 256 ∧ (t.team? g).isSome = true

/-- `g0` holds ARGS at the start; the others read zero. -/
theorem State.memberOf_gget (s : State) (l : Launch) (gang : List (Nat × Nat)) (e : Gid × Nat) (m : Nat) :
    (s.memberOf l gang e).gget m = if m = 0 then l.p.args else 0 := by
  change (if m = 31 then 0 else Tab.getD (if l.p.args = 0 then [] else [(0, l.p.args)]) m 0) = _
  by_cases args : l.p.args = 0
  · rw [if_pos args, args, ite_self]
    exact ite_self 0
  · rw [if_neg args]
    by_cases zero : m = 0 <;> simp [zero, Tab.getD, Tab.get?]

theorem State.memberOf_starts {s u t : State} {l : Launch} {gang : List (Nat × Nat)} {n : Nat} {k : Nat × Nat × Nat}
    (team : (t.team? (u.memberOf l gang (⟨k.1, k.2.1, k.2.2, s.freeSlot k⟩, n))).isSome = true) :
    l.Starts s t (u.memberOf l gang (⟨k.1, k.2.1, k.2.2, s.freeSlot k⟩, n)) n k :=
  ⟨rfl, rfl, rfl, rfl, rfl, rfl, rfl, rfl, rfl, fun _ h => State.freeSlot_least h, State.memberOf_gget _ _ _ _, fun _ _ => rfl,
    fun _ h => if_neg h, rfl, rfl, rfl, rfl, rfl, rfl, rfl, rfl, rfl, rfl, rfl, rfl, rfl, rfl, team⟩

/-- A dispatch of one group. -/
theorem State.place_single {s : State} {l : Launch} (alone : l.p.gsz = 0) (k : Nat × Nat × Nat) : ∃ g,
    (s.place l [k]).rest = s.rest ++ [g] ∧ l.Starts s (s.place l [k]) g 0 k ∧ g.gang = [] := by
  refine ⟨s.memberOf l (l.gangOf (s.namesOn [k])) (⟨k.1, k.2.1, k.2.2, s.freeSlot k⟩, 0), ?_, State.memberOf_starts ?_,
    if_pos alone⟩
  · obtain ⟨teams, cores, frame⟩ :=
      State.placeMember_frame l (l.gangOf (s.namesOn [k])) s (⟨k.1, k.2.1, k.2.2, s.freeSlot k⟩, 0)
    exact congrArg State.rest frame
  · obtain ⟨x, team, -⟩ := State.takeArea_team (s := s) (l := l) (k := k)
      (g := s.memberOf l (l.gangOf (s.namesOn [k])) (⟨k.1, k.2.1, k.2.2, s.freeSlot k⟩, 0)) rfl rfl rfl rfl
    exact Option.isSome_iff_exists.2 ⟨x, team⟩

/-- What a dispatch leaves unchanged, and its launch after it. -/
theorem State.place_frame (s : State) (l : Launch) (ks : List (Nat × Nat × Nat)) :
    (s.place l ks).cur = s.cur ∧ (s.place l ks).mem = s.mem ∧ (s.place l ks).home = s.home ∧
      (s.place l ks).launch? l.seq = (s.launch? l.seq).map fun x => x.dispatched ks := by
  obtain ⟨gs, teams, cores, frame, -⟩ := State.placeMembers_frame l (l.gangOf (s.namesOn ks)) (s.namesOn ks).zipIdx s
  rw [State.place_eq, frame]
  exact ⟨rfl, rfl, rfl, State.launch?_updLaunch ..⟩

/-- The groups of a gang: each knows its position, and its own name stands there in the gang's list (R183). -/
theorem State.place_gang {s : State} {l : Launch} {ks : List (Nat × Nat × Nat)} (gang : l.p.gsz ≠ 0) : ∃ gs,
    (s.place l ks).rest = s.rest ++ gs ∧ gs.length = ks.length ∧ ∀ n g, gs[n]? = some g → g.gangPos = n ∧
      g.gang.length = ks.length ∧ g.gang[n]? = some (g.id.lane % 16, g.id.slot) ∧ g.gix = l.nextGix + n ∧ g.launch = l.seq ∧
      g.acct = l.p.acct ∧ g.sp.pc = l.p.entry.setWidth 48 := by
  obtain ⟨gs, teams, cores, frame, all⟩ := State.placeMembers_frame l (l.gangOf (s.namesOn ks)) (s.namesOn ks).zipIdx s
  have length : gs.length = ks.length := by
    rw [← all.length_eq, List.length_zipIdx, State.namesOn, List.length_map]
  have names : l.gangOf (s.namesOn ks) = (s.namesOn ks).map fun i => (i.lane % 16, i.slot) := if_neg gang
  refine ⟨gs, by rw [State.place_eq, frame]; rfl, length, fun n g at_ => ?_⟩
  obtain ⟨lt, rfl⟩ := List.getElem?_eq_some_iff.1 at_
  obtain ⟨u, eq⟩ := all.get (i := n) (by rw [all.length_eq]; exact lt) lt
  simp only [List.get_eq_getElem, List.getElem_zipIdx, Nat.zero_add] at eq
  have known : (l.gangOf (s.namesOn ks))[n]? = some (gs[n].id.lane % 16, gs[n].id.slot) := by
    rw [names, List.getElem?_map, List.getElem?_eq_getElem (by rw [State.namesOn, List.length_map, ← length]; exact lt)]
    exact congrArg (fun g : Group => some (g.id.lane % 16, g.id.slot)) eq.symm
  have count : (l.gangOf (s.namesOn ks)).length = ks.length := by rw [names, List.length_map, State.namesOn, List.length_map]
  rw [eq] at known ⊢
  exact ⟨rfl, count, known, rfl, rfl, rfl, rfl⟩

end Sys2Proof.Machine
end

section
/-!
The stages of a pipeline: when one is eligible, and the group that it forms (R143, R158-R160, R422).
-/

namespace Sys2Proof.Machine

open Sys2Proof

/-! ### When a stage is eligible (R159) -/

/-- The head record of the stage has waited FLUSH ns. -/
def Stage.Flushed (st : Stage) (now : Word) : Prop :=
  st.flush ≠ 0 ∧ ∃ r rs, st.queue = r :: rs ∧ r.arrived.toNat + st.flush ≤ now.toNat

/-- Every other stage that may emit to stage k has finished. -/
def State.Quiet (s : State) (l : Launch) (k : Nat) : Prop :=
  ∀ e ∈ l.stages, e.1 ≠ k → e.2.outMask.testBit k = true →
    (∀ g ∈ s.groups ++ s.saved, ¬(g.launch = l.seq ∧ g.stage = e.1)) ∧ e.2.queue = [] ∧ (e.1 = 0 → l.p.groups ≤ l.nextGix)

/-- Every queue that the stage may emit to is below three quarters. -/
def Launch.Room (l : Launch) (st : Stage) : Prop :=
  ∀ e ∈ l.stages, st.outMask.testBit e.1 = true → 4 * e.2.queue.length < 3 * e.2.cap

def State.Opens (s : State) (l : Launch) (k : Nat) (st : Stage) : Prop :=
  k ≠ 0 ∧ (l.state = .active ∨ l.state = .draining) ∧ st.queue ≠ [] ∧
    (st.cap ≤ 2 * st.queue.length ∨ st.Flushed s.clock.time ∨ s.Quiet l k) ∧ l.Room st

theorem Stage.flushed_iff (st : Stage) (now : Word) : st.flushed now = true ↔ st.Flushed now := by
  unfold Stage.flushed Stage.Flushed
  cases st.queue with
  | nil => simp
  | cons r rs => simp

theorem Launch.outOpen_iff (l : Launch) (st : Stage) : l.outOpen st = true ↔ l.Room st := by
  rw [Launch.outOpen, List.all_eq_true]
  refine forall₂_congr fun e _ => ?_
  rw [Bool.or_eq_true, Bool.not_eq_true', decide_eq_true_iff]
  cases st.outMask.testBit e.1 <;> simp

theorem State.stageDone_iff {s : State} {l : Launch} {e : Nat × Stage} (entry : Tab.get? e.1 l.stages = some e.2) :
    s.stageDone l e.1 = true ↔ (∀ g ∈ s.groups ++ s.saved, ¬(g.launch = l.seq ∧ g.stage = e.1)) ∧ e.2.queue = [] ∧
      (e.1 = 0 → l.p.groups ≤ l.nextGix) := by
  rw [State.stageDone, entry]
  simp only [Bool.and_eq_true, Bool.not_eq_true', List.any_eq_false, beq_iff_eq, List.isEmpty_iff, Bool.or_eq_true, bne_iff_ne,
    decide_eq_true_iff, and_assoc, imp_iff_not_or, ne_eq]

theorem State.stageOpen_iff {s : State} {l : Launch} {k : Nat} {st : Stage}
    (keys : ∀ e ∈ l.stages, Tab.get? e.1 l.stages = some e.2) : s.stageOpen l k st = true ↔ s.Opens l k st := by
  have quiet : (l.stages.all fun (e : Nat × Stage) => e.1 == k || !e.2.outMask.testBit k || s.stageDone l e.1) = true ↔
      s.Quiet l k := by
    rw [List.all_eq_true]
    refine forall₂_congr fun e he => ?_
    rw [Bool.or_eq_true, Bool.or_eq_true, State.stageDone_iff (keys e he), beq_iff_eq, Bool.not_eq_true']
    cases e.2.outMask.testBit k <;> simp [or_iff_not_imp_left]
  rw [State.stageOpen, Bool.and_eq_true, Bool.and_eq_true, Bool.and_eq_true, Bool.and_eq_true, Bool.or_eq_true (_ || _),
    Bool.or_eq_true (Decidable.decide _), quiet, Launch.outOpen_iff, Stage.flushed_iff]
  simp [State.Opens, and_assoc, or_assoc]

/-! ### The marks of a stage (R160) -/

/-- Nothing but the launches has changed. -/
def State.Rests (s t : State) : Prop := (t.mem = s.mem ∧ t.home = s.home ∧ t.cur = s.cur) ∧ t.rest = s.rest

/-- The records that a group of the stage may take when it becomes eligible. -/
def Stage.joinNow (st : Stage) : Nat := if st.pred = 0 then 32 else st.queue.length

/-- The stage carries the mark `b`. -/
def State.Marked (s t : State) (l : Launch) (k : Nat) (st : Stage) (b : Bool) : Prop :=
  (t.mem = s.mem ∧ t.home = s.home ∧ t.cur = s.cur) ∧ t.rest = s.rest ∧ ∃ y z, t.launch? l.seq = some y ∧
    Tab.get? k y.stages = some z ∧ z = { st with eligible := b, join := if b = true then st.joinNow else 0 } ∧ y.skip = l.skip

/-- The head records of the stage are discarded and counted. -/
def State.Skipped (s t : State) (l : Launch) (k : Nat) (st : Stage) : Prop :=
  (t.mem = s.mem ∧ t.home = s.home ∧ t.cur = s.cur) ∧ t.rest = s.rest ∧ ∃ y z, t.launch? l.seq = some y ∧
    Tab.get? k y.stages = some z ∧ z = { st with queue := st.queue.drop (min 32 st.queue.length) } ∧
    y.skip = min (l.skip + min 32 st.queue.length) (2 ^ 24 - 1)

/-- An entry after its own update. -/
theorem Tab.get?_update_self {α : Type} {k : Nat} {x : α} {l : Tab α} (h : Tab.get? k l = some x) (f : α → α) :
    Tab.get? k (Tab.update k f l) = some (f x) := by
  rw [Tab.get?_update, if_pos rfl, h]
  rfl

section
variable {s : State} {k : Nat} {l : Launch} {st : Stage} (found : s.launch? l.seq = some l) (at_ : Tab.get? k l.stages = some st)
include found at_

theorem State.setEligible_marked (b : Bool) : s.Marked (s.setEligible l.seq k b (if b = true then st.joinNow else 0)) l k st b :=
  ⟨⟨rfl, rfl, rfl⟩, rfl, _, _, (State.launch?_updLaunch _ _ _).trans (congrArg (Option.map _) found),
    Tab.get?_update_self at_ fun g => { g with eligible := b, join := if b = true then st.joinNow else 0 }, rfl, rfl⟩

theorem State.becomeEligible_marked (yes : s.predOf l.part st = true) : s.Marked (s.becomeEligible l k st) l k st true := by
  rw [State.becomeEligible, if_pos yes]
  exact State.setEligible_marked found at_ true

theorem State.becomeEligible_skipped (no : s.predOf l.part st = false) : s.Skipped (s.becomeEligible l k st) l k st := by
  rw [State.becomeEligible, if_neg (by rw [no]; exact Bool.false_ne_true)]
  exact ⟨⟨rfl, rfl, rfl⟩, rfl, _, _, (State.launch?_updLaunch _ _ _).trans (congrArg (Option.map _)
    ((State.launch?_updLaunch _ _ _).trans (congrArg (Option.map _) found))),
    Tab.get?_update_self at_ fun g => { g with queue := g.queue.drop (min 32 st.queue.length) }, rfl, rfl⟩

end

/-! ### The group of a stage (R143, R158, R422) -/

/-- Records laid out from the c-th place on change no byte before it. -/
theorem Mem.byte_putRecords_below {a n x : Nat} (recs : List QRec) (c : Nat) {m : Mem} (hw : m.wf = true) (h : x < a + c * n) :
    ((recs.zipIdx c).foldl (fun m e => m.putBytes (a + e.2 * n) e.1.bytes) m).byte x = m.byte x := by
  induction recs generalizing c m with
  | nil => rfl
  | cons r recs ih =>
    rw [List.zipIdx_cons, List.foldl_cons, ih _ (Mem.wf_putBytes _ _ hw) (by rw [Nat.succ_mul]; omega),
      Mem.byte_putBytes_out _ _ _ hw (.inl h)]

/-- Records of one length, laid out one behind another, are read back. -/
theorem Mem.byte_putRecords {a n j : Nat} {recs : List QRec} (length : ∀ r ∈ recs, r.bytes.length = n) (hj : j < n) {c i : Nat}
    {r : QRec} (h : recs[i]? = some r) {m : Mem} (hw : m.wf = true) :
    ((recs.zipIdx c).foldl (fun m e => m.putBytes (a + e.2 * n) e.1.bytes) m).byte (a + (c + i) * n + j) = r.bytes.getD j 0 := by
  induction recs generalizing c i m with
  | nil => cases h
  | cons q recs ih =>
    rw [List.zipIdx_cons, List.foldl_cons]
    cases i with
    | zero =>
      obtain rfl : q = r := by simpa using h
      have own := length q (.head _)
      dsimp only
      rw [Nat.add_zero c, Mem.byte_putRecords_below _ _ (Mem.wf_putBytes _ _ hw) (by rw [Nat.succ_mul]; omega),
        Mem.byte_putBytes _ _ _ hw, if_pos (by omega)]
      congr 1
      omega
    | succ i =>
      rw [show c + (i + 1) = c + 1 + i by omega]
      exact ih (fun r hr => length r (.tail _ hr)) (by simpa using h) (Mem.wf_putBytes _ _ hw)

/-- The records that a group of the stage takes. -/
def Stage.recs (st : Stage) : List QRec := st.queue.take (min 32 st.join)

/-- The group that a stage forms on a lane. -/
def State.stageGroup (s : State) (l : Launch) (k : Nat) (st : Stage) (lane : Nat × Nat × Nat) : Group :=
  startGroup l ⟨lane.1, lane.2.1, lane.2.2, s.freeSlot lane⟩ (Config.freeChoice s.free % 2 ^ 32) k (s.takeArea l lane).1 st
    (maskWhere fun t => t < st.recs.length) (st.recs.map fun r => r.depth) s.clock.cycle

/-- The group's records in its team's local store. -/
def Stage.intoTeam (st : Stage) (a : Nat) (t : Team) : Team :=
  { t with ls := st.recs.zipIdx.foldl (fun m e => m.putBytes (a + e.2 * st.recSize) e.1.bytes) t.ls }

/-- The state with a stage's new group, before its queue and its launch say so. -/
def State.withStageGroup (s : State) (l : Launch) (k : Nat) (st : Stage) (lane : Nat × Nat × Nat) : State :=
  State.updTeam { (s.takeArea l lane).2.enter (s.stageGroup l k st lane) with free := s.free + 1 } (s.stageGroup l k st lane)
    (st.intoTeam (s.takeArea l lane).1)

/-- The launch after its stage k has formed a group from the records that have left its queue. -/
def Launch.formed (l : Launch) (k : Nat) (lane : Nat × Nat × Nat) (cycle : Nat) : Launch :=
  { l with
    stages := Tab.update k (fun st => { st with eligible := false, formed := cycle + 1 }) l.stages
    place := if l.p.cls = 0 then l.place else (l.place ++ [lane]).eraseDups }

theorem State.formGroup_eq (s : State) (l : Launch) (k : Nat) (st : Stage) (lane : Nat × Nat × Nat) : s.formGroup l k st lane =
    (((s.withStageGroup l k st lane).popRecords l.seq k st.recs.length).acquireUnbound lane.1 lane.2.1).updLaunch l.seq
      fun x => x.formed k lane (s.takeArea l lane).2.clock.cycle := rfl

theorem State.withStageGroup_frame (s : State) (l : Launch) (k : Nat) (st : Stage) (lane : Nat × Nat × Nat) : ∃ teams,
    s.withStageGroup l k st lane = { s with
      rest := s.rest ++ [s.stageGroup l k st lane], teams := teams, free := s.free + 1 } := by
  unfold State.withStageGroup
  rw [State.takeArea_frame]
  exact ⟨_, rfl⟩

/-- A group's formation adds the group, and takes its records from the queue. -/
theorem State.formGroup_frame (s : State) (l : Launch) (k : Nat) (st : Stage) (lane : Nat × Nat × Nat) :
    ((s.formGroup l k st lane).mem = s.mem ∧ (s.formGroup l k st lane).home = s.home ∧ (s.formGroup l k st lane).cur = s.cur) ∧
      (s.formGroup l k st lane).rest = s.rest ++ [s.stageGroup l k st lane] := by
  obtain ⟨teams, frame⟩ := s.withStageGroup_frame l k st lane
  rw [State.formGroup_eq, frame]
  exact ⟨⟨rfl, rfl, rfl⟩, rfl⟩

/-- The stage after its group has been formed. -/
theorem State.formGroup_stage {s : State} {l : Launch} {k : Nat} {st : Stage} (lane : Nat × Nat × Nat)
    (found : s.launch? l.seq = some l) (at_ : Tab.get? k l.stages = some st) :
    ∃ y z, (s.formGroup l k st lane).launch? l.seq = some y ∧ Tab.get? k y.stages = some z ∧
      z.queue = st.queue.drop st.recs.length ∧ z.eligible = false := by
  obtain ⟨teams, frame⟩ := s.withStageGroup_frame l k st lane
  have before : (s.withStageGroup l k st lane).launch? l.seq = some l := by rw [frame]; exact found
  have popped : ((s.withStageGroup l k st lane).popRecords l.seq k st.recs.length).launch? l.seq = _ :=
    (State.launch?_updLaunch _ _ _).trans (congrArg (Option.map _) before)
  rw [State.formGroup_eq]
  have drawn := Tab.get?_update_self at_ fun g : Stage => { g with queue := g.queue.drop st.recs.length }
  have cleared := Tab.get?_update_self drawn fun g : Stage =>
    { g with eligible := false, formed := (s.takeArea l lane).2.clock.cycle + 1 }
  exact ⟨_, _, (State.launch?_updLaunch _ _ _).trans (congrArg (Option.map _) popped), cleared, rfl, rfl⟩

/-- The team of a group that a stage has formed has taken its records. -/
theorem State.formGroup_team? (s : State) (l : Launch) (k : Nat) (st : Stage) (lane : Nat × Nat × Nat) :
    (s.formGroup l k st lane).team? (s.stageGroup l k st lane) =
      ((s.takeArea l lane).2.team? (s.stageGroup l k st lane)).map (st.intoTeam (s.takeArea l lane).1) :=
  State.team?_updTeam (fun _ => rfl) fun _ => rfl

/-- The team of the group that a stage has formed: its program space starts with the records, one behind another. -/
theorem State.formGroup_records {s : State} {l : Launch} {k : Nat} {st : Stage} {lane : Nat × Nat × Nat}
    (wf : ∀ x ∈ s.teams, x.ls.wf = true) (length : ∀ r ∈ st.queue, r.bytes.length = st.recSize) :
    ∃ x, (s.formGroup l k st lane).team? (s.stageGroup l k st lane) = some x ∧ ∀ i j r, st.recs[i]? = some r → j < st.recSize →
      x.ls.byte ((s.stageGroup l k st lane).lsb + i * st.recSize + j) = r.bytes.getD j 0 := by
  obtain ⟨y, team, store⟩ := State.takeArea_team (s := s) (l := l) (k := lane) (g := s.stageGroup l k st lane) rfl rfl rfl rfl
  have wfY : y.ls.wf = true := by
    rcases store with none_ | ⟨z, mem, eq⟩
    · rw [none_]; exact Mem.wf_nil
    · rw [eq]; exact wf z mem
  refine ⟨st.intoTeam (s.takeArea l lane).1 y, ?_, fun i j r at_ hj => ?_⟩
  · rw [State.formGroup_team?, team]
    rfl
  · have read := Mem.byte_putRecords (a := (s.takeArea l lane).1) (c := 0) (fun r hr => length r (List.mem_of_mem_take hr)) hj at_ wfY
    rw [Nat.zero_add] at read
    exact read

/-! ### The steps of a stage -/

section
variable {s : State} {seq k : Nat} {l : Launch} {st : Stage} (found : s.launch? seq = some l) (at_ : Tab.get? k l.stages = some st)
include found at_

theorem State.stage?_some : s.stage? seq k = some st := by rw [State.stage?, found]; exact at_

variable (arbitrating : s.arbitrating = true) (runs : (s.part l.part).dry = .running)
include arbitrating runs

theorem State.formStage_eq : s.formStage seq k =
    if s.stageOpen l k st = false then s.setEligible seq k false 0
    else if st.eligible = false then s.becomeEligible l k st
    else if s.formedNow l.die = true then s
    else ((s.stageLane l st).map fun lane => s.formGroup l k st lane).getD s := by
  rw [State.formStage, found, State.stage?_some found at_]
  dsimp only
  rw [arbitrating, runs]
  cases s.stageLane l st <;> simp

theorem execFlushTimeout_eq : exec (.flushTimeout seq k) s = .next (
    if st.flushed s.clock.time = true ∧ st.eligible = false ∧ s.stageOpen l k st = true then s.becomeEligible l k st else s) := by
  change execFlushTimeout seq k s = _
  rw [execFlushTimeout, found, State.stage?_some found at_]
  dsimp only
  rw [arbitrating, runs]
  simp [and_assoc]

end

end Sys2Proof.Machine
end

section
/-!
Starting groups: the grid's dispatch and the stages' formation together.
-/

namespace Sys2Proof.Machine

open Sys2Proof

section
variable {s : State} {seq k : Nat} {l : Launch} {st : Stage} (found : s.launch? seq = some l)
  (at_ : Tab.get? k l.stages = some st) (arbitrating : s.arbitrating = true) (runs : (s.part l.part).dry = .running)
include found at_ arbitrating runs

/-- A stage that does not meet R159 loses its mark. -/
theorem formation_shut (name : l.seq = seq) (shut : s.stageOpen l k st = false) :
    ∃ t, exec (.stageGroupFormation seq k) s = .next t ∧ s.Marked t l k st false := by
  subst name
  refine ⟨s.setEligible l.seq k false 0, congrArg Host.Outcome.next ?_, State.setEligible_marked found at_ false⟩
  rw [State.formStage_eq found at_ arbitrating runs, if_pos shut]

/-- A stage that has come to meet R159 has its predicate read. -/
theorem formation_opens (opens : s.stageOpen l k st = true) (fresh : st.eligible = false) :
    exec (.stageGroupFormation seq k) s = .next (s.becomeEligible l k st) := by
  refine congrArg Host.Outcome.next ?_
  rw [State.formStage_eq found at_ arbitrating runs, if_neg (by rw [opens]; decide), if_pos fresh]

theorem formation_waits (opens : s.stageOpen l k st = true) (eligible : st.eligible = true)
    (waits : s.formedNow l.die = true ∨ s.stageLane l st = none) : exec (.stageGroupFormation seq k) s = .next s := by
  refine congrArg Host.Outcome.next ?_
  rw [State.formStage_eq found at_ arbitrating runs, if_neg (by rw [opens]; decide), if_neg (by rw [eligible]; decide)]
  rcases waits with formed | none_
  · rw [if_pos formed]
  · rw [none_]
    exact ite_self s

theorem formation_forms (opens : s.stageOpen l k st = true) (eligible : st.eligible = true) (first : s.formedNow l.die = false)
    {lane : Nat × Nat × Nat} (lanes : s.stageLane l st = some lane) :
    exec (.stageGroupFormation seq k) s = .next (s.formGroup l k st lane) := by
  refine congrArg Host.Outcome.next ?_
  rw [State.formStage_eq found at_ arbitrating runs, if_neg (by rw [opens]; decide), if_neg (by rw [eligible]; decide),
    if_neg (by rw [first]; decide), lanes]
  rfl

end

/-- The number of records that a stage's group takes. -/
theorem Stage.recs_length (st : Stage) : st.recs.length = min (min 32 st.join) st.queue.length := List.length_take

theorem Stage.recs_eq (st : Stage) : st.recs = st.queue.take (min (min 32 st.join) st.queue.length) := by
  rw [Stage.recs, List.take_eq_take_iff]
  omega

/-- One thread a record. -/
theorem State.stageGroup_mask (s : State) (l : Launch) (k : Nat) (st : Stage) (lane : Nat × Nat × Nat) {i : Nat} (hi : i < 32) :
    inMask (s.stageGroup l k st lane).sp.mask i = Decidable.decide (i < min (min 32 st.join) st.queue.length) := by
  rw [← Stage.recs_length]
  exact (inMask_maskWhere _ i).trans (by rw [decide_eq_true hi, Bool.true_and])

/-- Settles O53: a dispatch appends the started groups on the lanes of the placement rule, and a stage marks itself, discards or
forms its group, as `stageOpen` and its predicate say. -/
theorem groupStarts : Obligations.GroupStarts := by
  unfold Obligations.GroupStarts
  refine ⟨fun s seq l found name => ?_, fun s seq k l st found name at_ arbitrating runs keys => ?_⟩
  · subst name
    refine ⟨execGroupDispatch_waits found, fun _ => execGroupDispatch_blocked found, fun turn alone ks lanes placed => ?_,
      fun turn gang cls ks lanes => ?_⟩
    · obtain ⟨k, rfl, can, first, least⟩ := State.nextLanes_single alone lanes placed
      obtain ⟨cur, mem, home, launch⟩ := s.place_frame l [k]
      obtain ⟨g, rest, starts, single⟩ := State.place_single (s := s) alone k
      rw [found] at launch
      exact ⟨s.place l [k], g, k, _, execGroupDispatch_places found turn lanes, rfl, rest, cur, starts, single, mem, home, launch,
        rfl, can, first, least⟩
    · obtain ⟨cur, mem, -, -⟩ := s.place_frame l ks
      obtain ⟨length, q, quad⟩ := State.nextLanes_gang gang cls lanes
      obtain ⟨gs, rest, count, members⟩ := State.place_gang (s := s) (l := l) (ks := ks) (by omega)
      refine ⟨s.place l ks, gs, execGroupDispatch_places found turn lanes, rest, count.trans length, length, cur, mem,
        fun j k hj hk => ?_, fun n g hg => ?_⟩
      · simpa using (quad j hj).trans (quad k hk).symm
      · rw [← length]
        exact members n g hg
  · intro flushed quiet room opens n same join m marks skips
    subst name
    have open_ : s.stageOpen l k st = true ↔ opens := State.stageOpen_iff keys
    have marked {i t b} (run : exec i s = .next t) (h : s.Marked t l k st b) : marks i b := by
      obtain ⟨frame, rest, y, z, h⟩ := h
      exact ⟨t, y, z, run, frame, rest, h⟩
    have skipped {i t} (run : exec i s = .next t) (h : s.Skipped t l k st) : skips i := by
      obtain ⟨frame, rest, y, z, h⟩ := h
      exact ⟨t, y, z, run, frame, rest, h⟩
    refine ⟨fun no => ?_, fun o fresh yes => ?_, fun o fresh no => ?_, fun o eligible waits => ?_,
      fun o eligible first lane lanes => ?_, fun due yes => ?_, fun due no => ?_, fun no => ?_⟩
    · obtain ⟨t, run, h⟩ := formation_shut found at_ arbitrating runs rfl (Bool.eq_false_iff.2 fun o => no (open_.1 o))
      exact marked run h
    · exact marked (formation_opens found at_ arbitrating runs (open_.2 o) fresh) (State.becomeEligible_marked found at_ yes)
    · exact skipped (formation_opens found at_ arbitrating runs (open_.2 o) fresh) (State.becomeEligible_skipped found at_ no)
    · exact formation_waits found at_ arbitrating runs (open_.2 o) eligible waits
    · obtain ⟨frame, rest⟩ := s.formGroup_frame l k st lane
      obtain ⟨y, z, launch, stage, queue, mark⟩ := State.formGroup_stage lane found at_
      refine ⟨s.formGroup l k st lane, s.stageGroup l k st lane, y, z,
        formation_forms found at_ arbitrating runs (open_.2 o) eligible first lanes, frame, rest, rfl, rfl, rfl, rfl, rfl,
        rfl, rfl, fun i hi => State.stageGroup_mask _ _ _ _ _ hi, congrArg (List.map fun r : QRec => r.depth) st.recs_eq, launch, stage,
        queue.trans (by rw [Stage.recs_length]), mark, fun wf length => ?_⟩
      obtain ⟨x, team, read⟩ := State.formGroup_records (k := k) (l := l) (lane := lane) wf length
      refine ⟨x, team, fun i j r hr hi hj => read i j r ?_ hj⟩
      rw [Stage.recs_eq, List.getElem?_take_of_lt hi, hr]
    · obtain ⟨o, flush, fresh⟩ := due
      refine marked ((execFlushTimeout_eq found at_ arbitrating runs).trans ?_) (State.becomeEligible_marked found at_ yes)
      rw [if_pos ⟨(Stage.flushed_iff ..).2 flush, fresh, open_.2 o⟩]
    · obtain ⟨o, flush, fresh⟩ := due
      refine skipped ((execFlushTimeout_eq found at_ arbitrating runs).trans ?_) (State.becomeEligible_skipped found at_ no)
      rw [if_pos ⟨(Stage.flushed_iff ..).2 flush, fresh, open_.2 o⟩]
    · refine (execFlushTimeout_eq found at_ arbitrating runs).trans ?_
      rw [if_neg fun ⟨flush, fresh, o⟩ => no ⟨open_.1 o, (Stage.flushed_iff ..).1 flush, fresh⟩]

end Sys2Proof.Machine
end
